-- ==== Sys2Proof/Word.lean ====
section
/-! DEFINITION. The byte and word types of the HL8 and their plainest arithmetic. -/

namespace Sys2Proof

/-- One byte (R8 orders bytes of wider values). -/
abbrev Byte := BitVec 8

/-- A register or word of 64 bits; a 32-bit register keeps its upper half zero (R12). -/
abbrev Word64 := BitVec 64

/-- A string of bytes: a member, a record, a payload, a window. -/
abbrev Bytes := List Byte

/-- Bit `i` of a Nat read as binary digits. -/
def natBit (n i : Nat) : Bool := n / 2 ^ i % 2 = 1

/-- The `len` bits of `n` from bit `lo` upward (R7). -/
def natField (n lo len : Nat) : Nat := n / 2 ^ lo % 2 ^ len

/-- Rounded-up division. -/
def ceilDiv (a b : Nat) : Nat := (a + b - 1) / b

/-- The least multiple of `m` at or above `n`. -/
def roundUp (n m : Nat) : Nat := ceilDiv n m * m

/-- The two's complement reading of the low `w` bits of `n`. -/
def signedOf (w n : Nat) : Int :=
  let m := n % 2 ^ w
  if m < 2 ^ (w - 1) then (m : Int) else (m : Int) - (2 ^ w : Nat)

/-- The low `w` bits of an integer. -/
def wrapInt (w : Nat) (i : Int) : Nat := (i % ((2 ^ w : Nat) : Int)).toNat

/-- The least integer not below `log2 n`, for `n ≥ 1`. -/
def clog2 (n : Nat) : Nat := if n ≤ 1 then 0 else Nat.log2 (n - 1) + 1

end Sys2Proof
end

