-- ==== Sys2Proof/Syntax.lean ====
section
/-! DEFINITION. The commands of the HL8: one constructor per row of spec/opcode_table.json, in its order,
and the operand types they carry (log entry 14). -/

namespace Sys2Proof

/-- What the error detection of a core reports as it executes an instruction (R76, R86): nothing, a single-bit memory
error, or an uncorrectable memory error or a fault in the core. -/
inductive CoreCheck where
  | clean
  | corrected
  | fatal
deriving DecidableEq, Repr

/-- The fields of a core instruction word other than its opcode (R67, Table 3-3), and what the core's error detection
reports with it. -/
structure Fields where
  pred : Fin 8
  pneg : Bool
  d : Fin 32
  a : Fin 32
  b : Fin 32
  c : Fin 32
  ty : Fin 16
  imm : BitVec 28
  check : CoreCheck := .clean
deriving DecidableEq, Repr

/-- A sample at a stage: job slot, STAGE_ID, epoch and permutation position. -/
structure ItemRef where
  slot : Fin 64
  stage : Nat
  epoch : Nat
  position : Nat
deriving DecidableEq, Repr

/-- Outcome of one NAND unit read (R310): decoded hard with a number of corrected bits, decoded soft, or
uncorrectable. -/
inductive NandOutcome where
  | hard (corrected : Nat)
  | soft
  | uncorrectable
deriving DecidableEq, Repr

/-- What a command reads from NAND: the stage or shard that it reads for, and how the read of each unit ended, in ascending
order (R310). -/
structure NandRead where
  of_ : Nat
  outcomes : List NandOutcome
deriving DecidableEq, Repr

/-- An Ethernet frame that arrives at a sub-port. -/
structure Arrival where
  sub : Fin 4
  frame : Bytes
deriving DecidableEq, Repr

/-- How a SOURCE stage's read of a sample ended (R98). -/
inductive ReadResult where
  /-- Every NAND unit that overlaps the sample was read, in ascending order with these outcomes (R310). -/
  | nand (outcomes : List NandOutcome)
  /-- The READ_REQ that the sample issued was answered in full (R234). -/
  | remote
deriving DecidableEq, Repr

/-- Where a management command comes from (R357, R375). -/
inductive MgmtSource where
  /-- The host mailbox: the envelope stands in SHD_MBX_REQ. -/
  | mailbox
  /-- The management port: the envelope arrives behind its length prefix. -/
  | network (envelope : Bytes)
deriving DecidableEq, Repr

/-- A further message of the same KIND that carries more of a payload, with the SEQ, the ACK_SEQ and the CRC of its frame where a
pin link carried it (R212, R213). -/
structure HeelPiece where
  seq : Nat
  ackSeq : Nat
  crc : BitVec 32
  digest : Bytes
deriving DecidableEq, Repr

/-- A Heel message of Table 7-3 and the link that carried it: a Plyn context, or a pin link with the
SEQ and ACK_SEQ of its frame and the CRC that came with it (R212, R213). `rest` holds the further messages of the same KIND that
carry the rest of a longer payload. -/
structure HeelFrame where
  session : Fin 4
  pinLink : Bool
  seq : Nat
  ackSeq : Nat
  crc : BitVec 32
  keyA : Nat
  epoch : Nat
  keyB : Nat
  digest : Bytes
  rest : List HeelPiece
deriving DecidableEq, Repr

/-- What names a Plyn message at a receiver (R230). -/
structure MsgKey where
  source : Nat
  jobEpoch : Nat
  keyPhase : Nat
  msgId : Nat
deriving DecidableEq, Repr

/-- A PTP event (R244, R245): a message that arrives or that this device sends, or what the servo makes of them: an offset
measured against the master, a decision to step the counter, a best-master decision. -/
inductive PtpEvent where
  /-- A master is chosen and measurement begins. -/
  | masterFound
  /-- An offset from the master in nanoseconds. -/
  | offset (ns : Int)
  /-- The servo steps the counter by this many nanoseconds. -/
  | step (ns : Int)
  /-- The best master clock algorithm makes this device the grandmaster. -/
  | grandmaster
  /-- A PTP frame arrives at a sub-port, from its destination address to its FCS. -/
  | frame (port : Fin 5) (sub : Fin 4) (bytes : Bytes)
  /-- A sub-port sends a Sync, an Announce, or a delay request of its mechanism. -/
  | sendSync (port : Fin 5) (sub : Fin 4)
  | sendAnnounce (port : Fin 5) (sub : Fin 4)
  | sendRequest (port : Fin 5) (sub : Fin 4)
deriving DecidableEq, Repr

/-- The registers of the row FLT_CONFIG_WRITE. -/
inductive FleetReg where
  | ctrl
  | context
  | manager
deriving DecidableEq, Repr

/-- The block that a JTAG access reaches (R350). -/
inductive JtagBlock where
  | crypto
  | keyStore
  | kennel (k : Nat)
  | other
deriving DecidableEq, Repr

/-- A NAND target that the scan finds (R312): its channel, its number on it, and its blocks. -/
structure NandTarget where
  channel : Nat
  number : Nat
  blocks : Nat
deriving DecidableEq, Repr

/-- How the running boot stage ended (R372): done, with the kennels that failed self-test (stage 7), the
NAND geometry found (stage 5) or what replay found (stage 6: the newest checkpoints whose closing CRC fails); or failed with a reason of Table 14-6. -/
inductive BootResult where
  | done
  /-- Stage 1: the active slot fails its signature, and the other one passes. -/
  | doneOther
  | doneNand (targets : List NandTarget) (unitsPerBlock ratedCycles : Nat)
  | doneReplay (failedCkpts : Nat) (consistent : Bool)
  | doneSelfTest (failedKennels : List Nat)
  | failed (reason detail : Nat)
deriving DecidableEq, Repr

/-- The coalesced interrupt sources (R48, R118, R195, R370). -/
inductive CoalesceSource where
  | damage
  | lowWater (queue : Fin 1024)
  | timers
  | alarm
deriving DecidableEq, Repr

/-- The commands. The docstring of each cites its row's rule and summary. -/
inductive Instr where
  /-- REGISTER_WRITE (R10): A host write to a register field that has no row of its own acts as its access type states. -/
  | registerWrite (offset width : Nat) (value : Word64)
  /-- PLT_TIME_NS_READ (R250): A read of PLT_TIME_NS returns the nanoseconds and latches the seconds into PLT_TIME_SEC. -/
  | pltTimeNsRead
  /-- PLT_MISSQ_READ (R250): A read of PLT_MISSQ returns the occupancy and clears the HIGH field. -/
  | pltMissqRead (port : Fin 5)
  /-- POOL_MIN_FREE_READ (R272): A read of POOL_MIN_FREE returns the lowest free count and resets it to the current count. -/
  | poolMinFreeRead (pool : Fin 64)
  /-- CHK_RUNNING_READ (R269): A read of CHK_RUNNING returns the running value and latches CHK_BYTES. -/
  | chkRunningRead (unit : Fin 16)
  /-- ISLAND_DROOP_DETECT (R25): An island's detector sees its supply below the threshold, and the island stretches its clock period one step per cycle up to 4 times nominal. -/
  | islandDroopDetect (island : Fin 1090)
  /-- STRETCH_STEP_DOWN (R25): After 64 consecutive stretched cycles with the supply above the threshold, the island shortens its period by one step. -/
  | stretchStepDown (island : Fin 1090)
  /-- CHANNEL_HUNG (R26): A request held for 1 ms without acknowledge is reported as hung, and the kennel at either end is retired or the device is taken out of service. -/
  | channelHung (from_ to_ : Fin 1090)
  /-- RESERVE_RELOAD_DONE (R59): The reserve kennels that replace a group finish reloading their programs from the DRAM image copy. -/
  | reserveReloadDone (hedge : Fin 16) (stage group : Nat)
  /-- DIE_FAULT (R29): A fault in a hub die, or a K-die fault not confined to kennels, takes the device out of service. -/
  | dieFault (die : Fin 6)
  /-- ENGINE_FAULT (R123): An engine that reports an internal fault is retired, its samples are re-issued, and the job halts with ST_JOB_ENGINES when its stage has no engine left. -/
  | engineFault (cls engine : Nat)
  /-- WHOLE_DEVICE_LOAD (R53): GO with OP 0b00 starts the copy and checking of a whole-device image, and a GO while BUSY is ignored. -/
  | wholeDeviceLoad (hedge : Fin 16)
  /-- PER_HEDGE_LOAD (R53): GO with OP 0b01 starts the copy and checking of an image into one hedge. -/
  | perHedgeLoad (hedge : Fin 16)
  /-- UNLOAD (R55): GO with OP 0b10 unloads a hedge's image when all of its jobs are EMPTY, STOPPED or HALTED, and fails otherwise. -/
  | unload (hedge : Fin 16)
  /-- RESERVED_LOAD_OP (R56): GO with OP 0b11 fails at once with ENL_ERR_FORMAT. -/
  | reservedLoadOp (hedge : Fin 16)
  /-- LOAD_COMPLETE (R54): The loader runs the checks of Table 2-8 in order, commits the claims and bindings or leaves the device unchanged, and sets DONE with MSI-X vector 1. -/
  | loadComplete
  /-- UNLOAD_COMPLETE (R55): The unload releases the image's claims, clears the hedge's jobs to EMPTY, zeroes the image digest and sets DONE. -/
  | unloadComplete
  /-- EPOCH_TIMER_FIRE (R48): At each firing time an epoch timer counts, drives its pin high when PULSE is set, and raises vector 12 when INTERRUPT is set. -/
  | epochTimerFire (timer : Fin 8)
  /-- TIMER_PULSE_END (R48): WIDTH_NS after a firing, the timer's pulse pin falls. -/
  | timerPulseEnd (timer : Fin 8)
  /-- ACCEPT (R57): The job descriptor, manifest and delivery map are fetched and checked, and the slot goes to READY or stays EMPTY with CODE set. -/
  | accept (slot : Fin 64)
  /-- START (R58): START moves a READY job to RUNNING and begins assigning positions, unless the queue, Heel or fleet conditions keep it READY. -/
  | start (slot : Fin 64)
  /-- STOP (R58): STOP moves a RUNNING job to DRAINING, so that no new position is assigned. -/
  | stop (slot : Fin 64)
  /-- ABORT (R186): ABORT moves the job to STOPPED at once and discards samples in flight, windows, deferred samples, open batches and queue contents. -/
  | abort (slot : Fin 64)
  /-- CLEAR (R58): CLEAR returns a READY, STOPPED or HALTED slot to EMPTY and frees its queues. -/
  | clear (slot : Fin 64)
  /-- DRAIN_COMPLETE (R58): Once every assigned sample of a DRAINING job is finished, packed and delivered, the job enters STOPPED. -/
  | drainComplete (slot : Fin 64)
  /-- MODEL_PACKAGE_LOAD (R356): At START the model package is read and checked, its weights are decrypted and their digest is checked, or the job halts. -/
  | modelPackageLoad (slot : Fin 64) (stage : NandRead)
  /-- POSITION_ASSIGN (R178): SOURCE assigns the next position of a stream while its window has a free place, computing the sample through the permutation. -/
  | positionAssign (slot : Fin 64) (rank : Nat)
  /-- SAMPLE_DISPATCH (R83): The kennel dispatcher hands a sample descriptor to a core that waits in SIN. -/
  | sampleDispatch (item : ItemRef) (core handle : Nat)
  /-- INDEX_TABLE_READ (R96): A shard's sample index table is read and checked against INDEX_DIGEST, and the job halts with ST_MAN_INDEX on a fault. -/
  | indexTableRead (slot : Fin 64) (shard : NandRead)
  /-- SAMPLE_READ_DONE (R98): A sample's NAND or remote read finishes, and an unreadable read halts the job or damages the sample as ON_UNREADABLE selects. -/
  | sampleReadDone (item : ItemRef) (result : ReadResult)
  /-- CRYPT_STAGE (R101): A crypto engine decrypts or re-encrypts a sample and damages it with DMG_AUTH_FAIL when a tag fails. -/
  | cryptStage (item : ItemRef)
  /-- DECOMPRESS_STAGE (R103): A decompression engine decodes a sample's streams and handles syntax, truncation, checksum and oversize faults. -/
  | decompressStage (item : ItemRef)
  /-- DIGEST_STAGE (R97): The input digest of a sample is computed and compared with the index entry's DIGEST. -/
  | digestStage (item : ItemRef)
  /-- IMAGE_DECODE (R104): An image decode engine decodes a JPEG or PNG sample, or a piece of one, and conceals damage. -/
  | imageDecode (item : ItemRef)
  /-- VIDEO_DECODE (R108): A video decode engine decodes the selected frames of a sample, with region steering where it is enabled. -/
  | videoDecode (item : ItemRef)
  /-- REGION_WAIT_EXPIRY (R116): When REGION_WAIT passes without an accelerator region list, the frame is decoded in full and flagged REGION_DEFAULT. -/
  | regionWaitExpiry (item : ItemRef) (frame : Nat)
  /-- CAPTURE_TRIGGER (R117): A rising edge on the capture-trigger pin latches network time and closes the current live access unit. -/
  | captureTrigger (pin : Fin 16)
  /-- RESAMPLE (R110): A resampler engine converts, orients, crops, flips, resizes, normalizes and packs a sample. -/
  | resample (item : ItemRef)
  /-- TOKENIZE (R141): A lattice tokenizer segments a piece into its most probable token sequence. -/
  | tokenize (item : ItemRef)
  /-- COMPRESS_STAGE (R289): A Briar compression engine compresses a sample's output as one stream. -/
  | compressStage (item : ItemRef) (engine : Fin 16) (verified : Bool)
  /-- DEADLINE_EXPIRY (R184): Under TIMELY, a window head that has not completed DEADLINE_US after assignment is deferred. -/
  | deadlineExpiry (slot : Fin 64) (rank : Nat)
  /-- ADD (R70): Scalar add. -/
  | add (core : Nat) (f : Fields)
  /-- SUB (R70): Scalar subtract. -/
  | sub (core : Nat) (f : Fields)
  /-- AND (R70): Scalar bitwise and. -/
  | and (core : Nat) (f : Fields)
  /-- OR (R70): Scalar bitwise or. -/
  | or (core : Nat) (f : Fields)
  /-- XOR (R70): Scalar bitwise exclusive or. -/
  | xor (core : Nat) (f : Fields)
  /-- SHL (R70): Scalar shift left. -/
  | shl (core : Nat) (f : Fields)
  /-- SHR (R70): Scalar logical shift right. -/
  | shr (core : Nat) (f : Fields)
  /-- SRA (R70): Scalar arithmetic shift right. -/
  | sra (core : Nat) (f : Fields)
  /-- ADDI (R70): Scalar add of the immediate. -/
  | addi (core : Nat) (f : Fields)
  /-- MUL (R70): Low 64 bits of a scalar product. -/
  | mul (core : Nat) (f : Fields)
  /-- DIV (R66): Scalar quotient and remainder, with a defined result on division by zero. -/
  | div (core : Nat) (f : Fields)
  /-- CMP (R70): Scalar compare into a predicate register. -/
  | cmp (core : Nat) (f : Fields)
  /-- LD (R75): Scalar load from local memory or the kennel store. -/
  | ld (core : Nat) (f : Fields)
  /-- ST (R75): Scalar store to local memory or the kennel store. -/
  | st (core : Nat) (f : Fields)
  /-- BR (R70): Branch to pc plus 8 × IMM. -/
  | br (core : Nat) (f : Fields)
  /-- CALL (R70): Write the return address to s31 and branch. -/
  | call (core : Nat) (f : Fields)
  /-- JR (R70): Jump to the address in a register. -/
  | jr (core : Nat) (f : Fields)
  /-- CWR (R74): Read a control word. -/
  | cwr (core : Nat) (f : Fields)
  /-- CWW (R74): Write a control word. -/
  | cww (core : Nat) (f : Fields)
  /-- WLD (R75): Load 256 bytes into a wide register. -/
  | wld (core : Nat) (f : Fields)
  /-- WST (R75): Store a wide register to memory. -/
  | wst (core : Nat) (f : Fields)
  /-- WADD (R70): Element-wise wide add. -/
  | wadd (core : Nat) (f : Fields)
  /-- WSUB (R70): Element-wise wide subtract. -/
  | wsub (core : Nat) (f : Fields)
  /-- WMUL (R70): Element-wise wide multiply. -/
  | wmul (core : Nat) (f : Fields)
  /-- WFMA (R70): Fused multiply-add on fp32 lanes. -/
  | wfma (core : Nat) (f : Fields)
  /-- WDOT (R70): Dot-product accumulation in a fixed order. -/
  | wdot (core : Nat) (f : Fields)
  /-- WCMP (R70): Element-wise compare into a predicate register. -/
  | wcmp (core : Nat) (f : Fields)
  /-- WSEL (R70): Element-wise select under a predicate. -/
  | wsel (core : Nat) (f : Fields)
  /-- WSHUF (R70): Byte shuffle of a wide register. -/
  | wshuf (core : Nat) (f : Fields)
  /-- WCVT (R70): Element type conversion. -/
  | wcvt (core : Nat) (f : Fields)
  /-- WMAX (R70): Element-wise maximum. -/
  | wmax (core : Nat) (f : Fields)
  /-- WMIN (R70): Element-wise minimum. -/
  | wmin (core : Nat) (f : Fields)
  /-- WREDU (R72): Reduction sum in the fixed pairwise tree. -/
  | wredu (core : Nat) (f : Fields)
  /-- WREDU_U (R72): Reduction sum in an unfixed order, marked Varies for fp types. -/
  | wreduU (core : Nat) (f : Fields)
  /-- WINS (R70): Insert a scalar into an element of a wide register. -/
  | wins (core : Nat) (f : Fields)
  /-- WEXT (R70): Extract an element of a wide register into a scalar. -/
  | wext (core : Nat) (f : Fields)
  /-- WBCAST (R70): Broadcast a scalar to every element of a wide register. -/
  | wbcast (core : Nat) (f : Fields)
  /-- SIN (R83): Wait for and receive the next sample descriptor. -/
  | sin (core : Nat) (f : Fields)
  /-- SOUT (R84): Emit an output descriptor on one output port. -/
  | sout (core : Nat) (f : Fields)
  /-- SDONE (R84): Finish the current sample and release its input buffer. -/
  | sdone (core : Nat) (f : Fields)
  /-- OALLOC (R85): Request a new output buffer, blocking under pool back-pressure. -/
  | oalloc (core : Nat) (f : Fields)
  /-- MBSEND (R81): Send a scalar or wide message on an outbound channel, blocking while the destination lacks room. -/
  | mbsend (core : Nat) (f : Fields)
  /-- MBRECV (R81): Receive a message or region token from an inbound channel, blocking until one is present. -/
  | mbrecv (core : Nat) (f : Fields)
  /-- MAILBOX_DELIVER (R81): A message reaches an inbound channel, waking a blocked MBRECV and freeing the sender's room. -/
  | mailboxDeliver (core channel : Nat)
  /-- MBPOLL (R70): Test whether an inbound channel holds a message. -/
  | mbpoll (core : Nat) (f : Fields)
  /-- KGIVE (R78): Give a kennel-store region to another core through an outbound channel. -/
  | kgive (core : Nat) (f : Fields)
  /-- GET (R79): Start an asynchronous copy from a hub buffer into core memory under a tag. -/
  | get (core : Nat) (f : Fields)
  /-- PUT (R79): Start an asynchronous copy from core memory into a hub buffer under a tag. -/
  | put (core : Nat) (f : Fields)
  /-- TAG_COMPLETE (R79): A GET or PUT completes, releasing a waiting WAIT, FENCE or KGIVE and dependent accesses. -/
  | tagComplete (core : Nat) (tag : Fin 16)
  /-- WAIT (R70): Wait until a tag has completed. -/
  | wait (core : Nat) (f : Fields)
  /-- FENCE (R70): Wait until every earlier store, GET and PUT of the core has completed. -/
  | fence (core : Nat) (f : Fields)
  /-- OVL (R77): Copy 2 KiB of a SHARED region into the instruction overlay and jump there. -/
  | ovl (core : Nat) (f : Fields)
  /-- RDTIME (R70): Read the island cycle count, marked Varies. -/
  | rdtime (core : Nat) (f : Fields)
  /-- HALT (R70): Stop the core until its stage is reloaded. -/
  | halt (core : Nat) (f : Fields)
  /-- EX_BUDGET (R87): The core that executed SIN reaches its instruction budget before SDONE and raises a data-caused exception. -/
  | exBudget (core : Nat)
  /-- GROUP_RESTART (R86): After a data-caused exception the group restarts at its entry point with reloaded data and regions, and the job halts after 64 consecutive exceptions. -/
  | groupRestart (hedge : Fin 16) (stage group : Nat)
  /-- RETURN_OPEN (R148): An OPEN return message opens a generation stream with its automaton and stop set and sends the mask for step 1. -/
  | returnOpen (slot : Fin 64) (source : Nat) (msg : Bytes)
  /-- RETURN_TOKENS (R150): A TOKENS message is handled in STEP order, one token at a time, through the grammar, detokenization and stop-string checks. -/
  | returnTokens (slot : Fin 64) (msg : Bytes)
  /-- RETURN_CLOSE (R149): A CLOSE message ends the stream with ST_TOK_CLOSED once the earlier steps are handled. -/
  | returnClose (slot : Fin 64) (msg : Bytes)
  /-- MASK_STEP (R158): A grammar mask engine unit finishes the step cost of a message, and the mask for the next step is computed. -/
  | maskStep (slot : Fin 64) (stream : Nat)
  /-- STORE_RECORD (R322): A STORE stage frames a record and writes it at its log cursor, or halts the job when the region is full. -/
  | storeRecord (slot : Fin 64) (stage : Nat)
  /-- PBQ_DEPTH_WRITE (R194): A write of PBQ_DEPTH takes effect only while the job is READY. -/
  | pbqDepthWrite (queue : Fin 1024) (value : Word64)
  /-- HEEL_CTRL_WRITE (R208): HEEL_CTRL sets up a session, and its writes are ignored while the job is RUNNING or DRAINING. -/
  | heelCtrlWrite (session : Fin 4) (value : Word64)
  /-- HEEL_LINKSEL_WRITE (R208): HEEL_LINKSEL selects the peer link, and its writes are ignored while the job is RUNNING or DRAINING. -/
  | heelLinkselWrite (session : Fin 4) (value : Word64)
  /-- HEEL_SETUP (R209): The peer's setup record arrives, and the job becomes RUNNING or START fails. -/
  | heelSetup (frame : HeelFrame)
  /-- HEEL_SETUP_TIMEOUT (R209): No peer setup record within HEEL_TIMEOUT fails START with ST_HEEL_TIMEOUT. -/
  | heelSetupTimeout (session : Fin 4)
  /-- HEEL_BATCH_DIGEST (R210): A peer batch digest arrives and is compared with the local digest for its key. -/
  | heelBatchDigest (frame : HeelFrame)
  /-- HEEL_STAGE_DIGEST (R211): A peer stage block digest arrives and is compared. -/
  | heelStageDigest (frame : HeelFrame)
  /-- HEEL_DIGEST_TIMEOUT (R212): A digest that waits HEEL_TIMEOUT for its peer freezes the session with ST_HEEL_TIMEOUT. -/
  | heelDigestTimeout (session : Fin 4)
  /-- HEEL_FREEZE (R214): A received freeze message freezes the session. -/
  | heelFreeze (frame : HeelFrame)
  /-- HEEL_LOCATE_START (R215): 1 ms after the freeze, the leader begins locating the first divergence. -/
  | heelLocateStart (session : Fin 4)
  /-- HEEL_LOCATE_REQUEST (R215): A locate request asks the peer for leaves, sample digests, chunk digests or chunk bytes. -/
  | heelLocateRequest (frame : HeelFrame)
  /-- HEEL_LOCATE_ANSWER (R215): A locate answer carries the requested digests or bytes. -/
  | heelLocateAnswer (frame : HeelFrame)
  /-- HEEL_REPORT (R215): The divergence report from the leader is written to the follower's HEEL_DIV_ registers. -/
  | heelReport (frame : HeelFrame)
  /-- HEEL_ACK_FRAME (R213): A pin-link frame of KIND 0x00 carries only an acknowledgement. -/
  | heelAckFrame (frame : HeelFrame)
  /-- HEEL_FRAME_RESEND (R213): With no acknowledgement of a pin-link frame for 100 µs, the sender resends from that frame onwards. -/
  | heelFrameResend (session : Fin 4) (seq : Nat)
  /-- INVALID_FRAME (R219): A received frame that breaks the framing or header rules is dropped and counted. -/
  | invalidFrame (port : Fin 5) (sub : Arrival)
  /-- PLT_WRITE (R222): A WRITE fragment passes the receive order of Table 8-5 and writes its payload at OFFSET. -/
  | pltWrite (port : Fin 5) (sub : Fin 4) (frame : Bytes)
  /-- PLT_WRITE_IMM (R222): A WRITE_IMM fragment writes, and once every fragment has executed it posts its immediate. -/
  | pltWriteImm (port : Fin 5) (sub : Fin 4) (frame : Bytes)
  /-- PLT_READ_REQ (R234): A READ_REQ is checked and answered by one READ_RESP message. -/
  | pltReadReq (port : Fin 5) (sub : Fin 4) (frame : Bytes)
  /-- PLT_READ_RESP (R234): A READ_RESP fragment delivers read bytes to the requester. -/
  | pltReadResp (port : Fin 5) (sub : Fin 4) (frame : Bytes)
  /-- PLT_ATOMIC_ADD (R233): ATOMIC_ADD adds to a u64 word indivisibly and returns its previous value. -/
  | pltAtomicAdd (port : Fin 5) (sub : Fin 4) (frame : Bytes)
  /-- PLT_ATOMIC_CAS (R233): ATOMIC_CAS writes SWAP when the word equals COMPARE and returns its previous value. -/
  | pltAtomicCas (port : Fin 5) (sub : Fin 4) (frame : Bytes)
  /-- PLT_ACK (R222): An ACK marks fragments acknowledged and updates SRTT. -/
  | pltAck (port : Fin 5) (sub : Fin 4) (frame : Bytes)
  /-- PLT_NAK (R239): A NAK backs off, discards a credit, retries, holds or fences as its code directs, and an unknown code is dropped. -/
  | pltNak (port : Fin 5) (sub : Fin 4) (frame : Bytes)
  /-- PLT_CREDIT (R241): A CREDIT message's entries are matched to destinations and queued in their credit FIFOs. -/
  | pltCredit (port : Fin 5) (sub : Fin 4) (frame : Bytes)
  /-- CONTEXT_FETCH_DONE (R238): A context record arrives on chip, and its queued packets resume at step 5 of Table 8-5. -/
  | contextFetchDone (port : Fin 5) (ctx : Nat)
  /-- ACK_TIMER (R228): 4 µs after an unacknowledged fragment arrives, an ACK is sent. -/
  | ackTimer (ctx source : Nat)
  /-- RETRANSMIT_TIMEOUT (R229): An unacknowledged fragment whose timeout passes is retransmitted with doubled timeout while its age is below 3,500 µs. -/
  | retransmitTimeout (ctx dest msgId fragment : Nat)
  /-- MESSAGE_GIVE_UP (R229): A message not fully acknowledged at age 4,000 µs is given up as UNCONFIRMED. -/
  | messageGiveUp (ctx dest msgId : Nat)
  /-- RETRY_HOLD_EXPIRY (R239): The hold that a NAK_RETRY_LATER imposed on a fragment and its successors ends. -/
  | retryHoldExpiry (ctx dest msgId fragment : Nat)
  /-- FILTER_ENTRY_EXPIRY (R230): A replay filter entry is removed once its message's age exceeds 4,100 µs. -/
  | filterEntryExpiry (ctx : Nat) (key : MsgKey)
  /-- KEY_PHASE_WINDOW_EXPIRY (R225): 8 ms after a new key phase, packets of the previous phase are no longer accepted. -/
  | keyPhaseWindowExpiry (ctx source : Nat)
  /-- DELIVERY_RETRY_TIMER (R243): After an UNCONFIRMED delivery and its backoff wait, the whole batch is sent again to the same credit. -/
  | deliveryRetryTimer (slot : Fin 64) (rank dest : Nat)
  /-- FRAME_TRANSMIT (R246): At a frame boundary a sub-port sends the oldest frame of the highest class that passes its gate and shaper tests. -/
  | frameTransmit (port : Fin 5) (sub : Fin 4)
  /-- GATE_ENTRY_CHANGE (R247): A gate control list entry, or a new cycle, begins at its network time and changes the open gates. -/
  | gateEntryChange (port : Fin 5)
  /-- PLT_PORT_CFG_WRITE (R218): A write of PLT_PORT_CFG enables or disables a port, powering its domain, and changes SPLIT or PAYLOAD only while ENABLE is 0. -/
  | pltPortCfgWrite (port : Fin 5) (value : Word64)
  /-- LINK_STATE_CHANGE (R218): A sub-port's Ethernet link comes up or goes down. -/
  | linkStateChange (port : Fin 5) (sub : Fin 4) (up : Bool)
  /-- SHAPER_RATE_WRITE (R248): A write of PLT_SHAPER_RATE sets the rate and resets the tokens as RESET_FULL selects. -/
  | shaperRateWrite (port : Fin 5) (sub : Fin 4) (cls : Fin 8) (value : Word64)
  /-- SHAPER_BURST_WRITE (R248): A write of PLT_SHAPER_BURST sets the burst and resets the tokens as RESET_FULL selects. -/
  | shaperBurstWrite (port : Fin 5) (sub : Fin 4) (cls : Fin 8) (value : Word64)
  /-- PTP_EVENT_MESSAGE (R244): A PTP message is timestamped and steers the network-time servo. -/
  | ptpEventMessage (event : PtpEvent)
  /-- MASTER_LOSS (R245): The servo loses its master and enters HOLDOVER. -/
  | masterLoss
  /-- HOLDOVER_TIMEOUT (R245): After 10 s in HOLDOVER the servo returns to FREE. -/
  | holdoverTimeout
  /-- PPS_IN_EDGE (R384): A rising edge on a PPS_IN pin is timestamped and aligns the servo in GRANDMASTER. -/
  | ppsInEdge (pin : Fin 16)
  /-- PPS_SECOND (R384): At each whole second of network time a PPS_OUT pin rises for 100 ms. -/
  | ppsSecond (pin : Fin 16)
  /-- DMA_GO (R252): GO starts a held DMA channel's descriptor chain, or sets ST_DMA_NOT_HELD. -/
  | dmaGo (ch : Fin 64)
  /-- DMA_ABORT (R258): ABORT stops a busy channel from issuing new bursts. -/
  | dmaAbort (ch : Fin 64)
  /-- DMA_HOLD (R251): HOLD = 1 takes an unclaimed channel for the host as owner 0x1F, or fails with ST_BUSY_CLAIMED. -/
  | dmaHold (ch : Fin 64)
  /-- DMA_RELEASE (R251): HOLD = 0 releases a host-held channel, and is ignored while the channel is BUSY or ABORTING. -/
  | dmaRelease (ch : Fin 64)
  /-- DMA_DESCRIPTOR_COMPLETE (R257): A descriptor's last write response returns, and the status record and interrupt follow as R259 states. -/
  | dmaDescriptorComplete (ch : Fin 64)
  /-- DMA_TRANSFER_ERROR (R258): A host-bus or ECC error during a descriptor stops the channel with its code and residue. -/
  | dmaTransferError (ch : Fin 64) (ecc : Bool) (prefix_ : Nat)
  /-- DMA_ABORT_COMPLETE (R258): The bursts issued before an abort finish, and the status record with ST_DMA_ABORTED is written. -/
  | dmaAbortComplete (ch : Fin 64) (prefix_ : Option Nat)
  /-- POOL_REQUEST (R262): A buffer request is granted under the priority, quota and free-count tests, or waits. -/
  | poolRequest (pool : Fin 64) (stage : Nat)
  /-- POOL_RELEASE (R264): A release decrements a buffer's count, frees it at 0, and serves waiting requests, or is refused. -/
  | poolRelease (handle stage : Nat)
  /-- POOL_SET_COUNT (R264): A holder sets a HELD buffer's reference count before multicast. -/
  | poolSetCount (handle stage count : Nat)
  /-- CHK_ENABLE (R267): ENABLE = 1 starts a check-value unit snooping its source, or leaves it disabled with ST_CHK_CONFIG. -/
  | chkEnable (unit : Fin 16)
  /-- CHK_DISABLE (R267): ENABLE = 0 stops a check-value unit. -/
  | chkDisable (unit : Fin 16)
  /-- CHK_PAUSE (R269): PAUSE = 1 asks the unit to stall its source at the next record boundary. -/
  | chkPause (unit : Fin 16)
  /-- CHK_PAUSED (R269): The source reaches the boundary and stalls, and PAUSED is set. -/
  | chkPaused (unit : Fin 16)
  /-- CHK_RESUME (R269): PAUSE = 0 resumes the unit from its written state. -/
  | chkResume (unit : Fin 16)
  /-- CHK_HOLD (R269): HOLD = 1 takes an unclaimed check-value unit for the host. -/
  | chkHold (unit : Fin 16)
  /-- CHK_RELEASE (R269): HOLD = 0 releases a host-held check-value unit. -/
  | chkRelease (unit : Fin 16)
  /-- CHK_CONFIG_WRITE (R269): A write of CHK_CFG or CHK_FILTER configures the unit, and is ignored for a claimed unit. -/
  | chkConfigWrite (unit : Fin 16) (filter : Bool) (value : Word64)
  /-- CHK_STATE_WRITE (R269): A write of CHK_RUNNING or CHK_BYTES takes effect only while the unit is PAUSED or disabled. -/
  | chkStateWrite (unit : Fin 16) (bytes : Bool) (value : Word64)
  /-- CHK_RECORD (R267): A record of the snooped stream ends, and its check value is shown, appended or compared and removed. -/
  | chkRecord (unit : Fin 16) (data trailer : Bytes)
  /-- BRI_GO (R292): GO starts a held Briar engine's descriptor chain, or sets ST_BRI_NOT_HELD. -/
  | briGo (engine : Fin 48)
  /-- BRI_ABORT (R296): ABORT stops a Briar engine at the next block boundary. -/
  | briAbort (engine : Fin 48)
  /-- BRI_HOLD (R291): HOLD = 1 takes an unbound Briar engine for the host, or fails with ST_BUSY_CLAIMED. -/
  | briHold (engine : Fin 48)
  /-- BRI_RELEASE (R291): HOLD = 0 releases a host-held Briar engine unless it is BUSY or ABORTING. -/
  | briRelease (engine : Fin 48)
  /-- BRI_BLOCK_DONE (R287): A Briar block is compressed and self-verified, or decoded, and released to the output. -/
  | briBlockDone (engine : Fin 48) (verified : Bool)
  /-- BRI_DESCRIPTOR_COMPLETE (R295): A Briar descriptor ends, and its status record is written. -/
  | briDescriptorComplete (engine : Fin 48)
  /-- TRS_READ (R302): GO with opcode READ is checked and given a SEQ. -/
  | trsRead (set : Fin 256)
  /-- TRS_WRITE (R302): GO with opcode WRITE is checked and given a SEQ. -/
  | trsWrite (set : Fin 256)
  /-- TRS_WRITE_ATOMIC (R306): GO with opcode WRITE_ATOMIC is checked and given a SEQ. -/
  | trsWriteAtomic (set : Fin 256)
  /-- TRS_FLUSH (R307): GO with opcode FLUSH waits for every earlier modifying command of the namespace to complete. -/
  | trsFlush (set : Fin 256)
  /-- TRS_TRIM (R302): GO with opcode TRIM is checked and given a SEQ. -/
  | trsTrim (set : Fin 256)
  /-- TRS_VERIFY (R302): GO with opcode VERIFY is checked and given a SEQ. -/
  | trsVerify (set : Fin 256)
  /-- TRS_FORMAT (R302): GO with opcode FORMAT is checked and given a SEQ. -/
  | trsFormat (set : Fin 256)
  /-- TRS_COMMAND_START (R303): A PENDING command starts once its ordering allows, and a write reserves its units. -/
  | trsCommandStart (set : Fin 256)
  /-- NAND_READ_DONE (R310): A NAND unit read finishes its recovery steps, or is found uncorrectable. -/
  | nandReadDone (set : Fin 256) (unit : Nat) (outcome : NandOutcome)
  /-- TRS_COMMAND_COMPLETE (R305): A command reaches COMPLETE, sets its TRS_DONE bit and raises its vector when IRQ is set. -/
  | trsCommandComplete (set : Fin 256)
  /-- TRS_BUS_ERROR (R311): A host-bus error during a TRS transfer ends the command with ST_TRS_BUS. -/
  | trsBusError (set : Fin 256) (units : Nat)
  /-- CONTROLLER_RESET (R308): TRS_RESET.GO aborts PENDING and started reads and finishes writes as Table 11-2 states. -/
  | controllerReset
  /-- CONTROLLER_RESET_DONE (R308): The controller reset finishes, BUSY clears and vector 8 is raised. -/
  | controllerResetDone
  /-- CHECKPOINT_START (R313): A map checkpoint starts after 1 GiB written, or after 10 s with writes. -/
  | checkpointStart
  /-- CHECKPOINT_DONE (R313): The checkpoint's closing record is programmed, and FTL_CKPT_PSEQ advances. -/
  | checkpointDone
  /-- GARBAGE_COLLECTION (R315): While free blocks are below 1 %, the highest-scoring victim's valid units are copied. -/
  | garbageCollection
  /-- BLOCK_ERASE (R315): A reclaimed block is erased once no read in progress references it. -/
  | blockErase (block : Nat)
  /-- PROGRAM_FAILURE (R316): A block that fails to program is retired as grown bad and its data relocated, and SPARE_LOW may be set. -/
  | programFailure (block : Nat)
  /-- ERASE_FAILURE (R316): A block that fails to erase is retired as grown bad. -/
  | eraseFailure (block : Nat)
  /-- HEALTH_SNAPSHOT (R317): A write of 1 to FTL_HEALTH_SNAP copies the live health values into the window. -/
  | healthSnapshot
  /-- TEMPERATURE_HOUR (R317): At each whole hour the temperature history records a new entry; each operand says whether that value of it is rounded up to whole degrees, which Table 11-5 leaves open. -/
  | temperatureHour (max mean min : Bool)
  /-- SWEEP_DONE (R319): A key sweep finishes copying every RETIRING unit, sets SWEEP_DONE and raises vector 8. -/
  | sweepDone (nsid : Nat)
  /-- BLK_NS_CREATE (R320): Create a namespace of a given size, with or without encryption. -/
  | blkNsCreate (src : MgmtSource)
  /-- BLK_NS_DELETE (R320): Delete a namespace, unmapping its units and destroying its keys. -/
  | blkNsDelete (src : MgmtSource)
  /-- BLK_KEY_ROTATE (R319): Make a new key generation ACTIVE and the old one RETIRING. -/
  | blkKeyRotate (src : MgmtSource)
  /-- BLK_KEY_SWEEP (R319): Start copying every valid unit of the RETIRING generations at SHARE % of program time. -/
  | blkKeySweep (src : MgmtSource)
  /-- BLK_KEY_DESTROY (R319): Destroy a RETIRING generation that no unit or read still names. -/
  | blkKeyDestroy (src : MgmtSource)
  /-- FLEET_ENABLE (R328): FLT_CTRL with ENABLE = 1 joins the fleet, and the manager checks its roster. -/
  | fleetEnable (value : Word64)
  /-- FLT_CONFIG_WRITE (R328): Writes of FLT_CTRL, FLT_CONTEXT and FLT_MANAGER are ignored while the bound job is RUNNING or DRAINING. -/
  | fltConfigWrite (reg : FleetReg) (value : Word64)
  /-- JOIN (R328): The manager checks a member's setup digest and admits or refuses it. -/
  | join (source : Nat) (msg : Bytes)
  /-- ROSTER (R335): A new roster updates role epochs, held ranks and buddies, and allocates or frees queues. -/
  | roster (source : Nat) (msg : Bytes)
  /-- HEARTBEAT (R333): The manager or standby receives a heartbeat and judges the reported job state. -/
  | heartbeat (source : Nat) (msg : Bytes)
  /-- HB_ACK (R334): A heartbeat acknowledgement keeps a worker out of ISOLATED, or fences it when the epoch has changed.
  `peerEpoch` is PEER_EPOCH of its packet: the role epoch that the sender holds for this member. -/
  | hbAck (source peerEpoch : Nat) (msg : Bytes)
  /-- ARRIVE (R331): A log holder records a worker's barrier arrival and acknowledges it, and the manager commits the barrier when all have arrived. -/
  | arrive (source : Nat) (msg : Bytes)
  /-- ARRIVE_ACK (R331): An acknowledgement makes a worker's arrival durable. -/
  | arriveAck (source : Nat) (msg : Bytes)
  /-- COMMIT (R331): A member records the committed barrier. -/
  | commit (source : Nat) (msg : Bytes)
  /-- MIRROR (R337): A buddy stores a worker's resume record and answers MIRROR_ACK. -/
  | mirror (source : Nat) (msg : Bytes)
  /-- MIRROR_ACK (R337): The acknowledgement of a mirror lets the worker send the next batch's WRITE_IMM. -/
  | mirrorAck (source : Nat) (msg : Bytes)
  /-- MOVE (R339): The old and new holders of a rank hand it over at ordinal H. -/
  | move (source : Nat) (msg : Bytes)
  /-- FETCH (R338): A buddy returns the mirrored records of a failed worker. -/
  | fetch (source : Nat) (msg : Bytes)
  /-- RECORDS (R338): The manager passes a failed worker's mirrored records to the new holders. -/
  | records (source : Nat) (msg : Bytes)
  /-- TAKEOVER (R341): A worker accepts the standby's raised manager epoch and answers TAKEOVER_ACK. -/
  | takeover (source : Nat) (msg : Bytes)
  /-- TAKEOVER_ACK (R341): The standby counts acknowledgements and becomes MANAGER on a majority. -/
  | takeoverAck (source : Nat) (msg : Bytes)
  /-- RESOLVE (R336): The manager answers a member's RESOLVE with the current roster. -/
  | resolve (source : Nat) (msg : Bytes)
  /-- HEARTBEAT_TIMER (R333): Every 100 ms a worker or the manager sends its heartbeat. -/
  | heartbeatTimer
  /-- LIVENESS_LEASE_EXPIRY (R333): After 400 ms without a heartbeat from a worker, the manager fails it. -/
  | livenessLeaseExpiry (member : Nat)
  /-- PROGRESS_LEASE_EXPIRY (R333): A worker whose PACKED is unchanged for 2 s while not full, or that stays READY too long, is failed. -/
  | progressLeaseExpiry (member : Nat)
  /-- WORKER_ISOLATION (R334): A worker with no HB_ACK for 400 ms enters ISOLATED and starts no new delivery. -/
  | workerIsolation
  /-- MANAGER_ISOLATION (R342): A manager lacking heartbeats from over half its workers for 400 ms enters ISOLATED. -/
  | managerIsolation
  /-- STANDBY_TAKEOVER_TIMEOUT (R341): After 400 ms without manager heartbeats, the standby sends TAKEOVER. -/
  | standbyTakeoverTimeout
  /-- TAKEOVER_QUORUM_TIMEOUT (R341): 400 ms after TAKEOVER without a majority, the standby stays STANDBY with ST_FLT_NO_QUORUM. -/
  | takeoverQuorumTimeout
  /-- SEC_ATTEST (R360): Return a signed attestation report for a hedge. -/
  | secAttest (src : MgmtSource)
  /-- SEC_KEY_IMPORT (R354): Unwrap and store an imported key. -/
  | secKeyImport (src : MgmtSource)
  /-- SEC_KEY_DESTROY (R354): Erase an imported key that no image or job names. -/
  | secKeyDestroy (src : MgmtSource)
  /-- SEC_HEDGE_OWNER (R352): Set a hedge's owner key and destroy the keys it owns. -/
  | secHedgeOwner (src : MgmtSource)
  /-- SEC_ANCHOR_SET (R358): Replace the operator anchor list. -/
  | secAnchorSet (src : MgmtSource)
  /-- SEC_CERT_READ (R353): Return the device certificate chain. -/
  | secCertRead (src : MgmtSource)
  /-- MGMT_TLS_HANDSHAKE (R358): A client connects on the management port and is admitted only with a certificate chain to an operator anchor. -/
  | mgmtTlsHandshake (chain : Bytes)
  /-- JTAG_ACCESS (R350): A JTAG access reaches a block, and is denied and counted in locked blocks while a hedge is confidential. -/
  | jtagAccess (block : JtagBlock) (write : Bool)
  /-- POWER_WINDOW_BOUNDARY (R361): At each 100 ms boundary, coarse power readings and confidential energy counters are updated. -/
  | powerWindowBoundary
  /-- COUNTER_SAMPLE_BOUNDARY (R361): At each 10 ms boundary, coarsened performance counters are resampled. -/
  | counterSampleBoundary
  /-- SHD_FW_STAGE (R375): Write firmware data into the inactive slot and verify its signature at FINAL. -/
  | shdFwStage (src : MgmtSource)
  /-- SHD_FW_ACTIVATE (R375): Quiesce the block store, keep DRAM state and switch to the staged firmware. -/
  | shdFwActivate (src : MgmtSource)
  /-- FIRMWARE_SWITCH (R375): After quiescing, the staged slot is marked active and the device restarts from stage 2, skipping stages 4 to 6. -/
  | firmwareSwitch
  /-- SHD_RESET (R375): Start a warm reset or a controller reset. -/
  | shdReset (src : MgmtSource)
  /-- SHD_FALLBACK_EXIT (R373): Clear the failed-start counter and restart from stage 1. -/
  | shdFallbackExit (src : MgmtSource)
  /-- PWR_SET_CAP (R375): Set the package power cap. -/
  | pwrSetCap (src : MgmtSource)
  /-- PWR_SET_PLAN_MAX (R375): Set the management bound on the clock plan. -/
  | pwrSetPlanMax (src : MgmtSource)
  /-- SHD_FEATURE (R41): Enable or disable a management pin function or diagnostic epoch timer, or fail with ST_BUSY_CLAIMED. -/
  | shdFeature (src : MgmtSource)
  /-- SHD_DIAG (R375): Return SHD_BOOT, SHD_BOOT_DETAIL and SHD_RESET_CAUSE. -/
  | shdDiag (src : MgmtSource)
  /-- POWER_ON_RESET (R374): A supply rise or POR_N held low for 1 µs resets everything not retained and restarts from stage 1. -/
  | powerOnReset
  /-- WARM_RESET (R374): WARM_RST_N unloads images, empties jobs, resets the partition and restarts from stage 2. -/
  | warmReset
  /-- HOST_PORT_RESET (R374): PERST# or FLR resets the host port, releases host holds and resets the block-store controller. -/
  | hostPortReset
  /-- PCIE_CONFIG_REQUEST (R382): A configuration request that arrives before hub bring-up is answered with Request Retry Status. -/
  | pcieConfigRequest
  /-- DOMAIN_POWER_GOOD (R364): A power domain reaches power-good, and Sheepdog starts the next domain. -/
  | domainPowerGood (domain : Fin 20)
  /-- BOOT_STAGE_COMPLETE (R372): A boot stage finishes or fails, and the start proceeds, fails, enters fallback or reaches Ready. -/
  | bootStageComplete (result : BootResult)
  /-- BOOT_STAGE_TIMEOUT (R372): A boot stage that overruns its limit ends the start as failed with TIMEOUT. -/
  | bootStageTimeout
  /-- TEMPERATURE_SAMPLE (R366): Every 1 ms each temperature site is sampled and filtered, and excluded sites and T_WARN are evaluated. -/
  | temperatureSample (site : Fin 64) (raw : Int)
  /-- THERMAL_RESTART (R370): After 10 s below T_WARN − 10 °C, Sheepdog restarts from stage 2. -/
  | thermalRestart
  /-- RAIL_SAMPLE (R366): Every 10 µs each rail's voltage and current are sampled and filtered. -/
  | railSample (rail : Fin 9) (millivolts milliamps : Nat)
  /-- CAP_LIMITER_STEP (R369): After 10 ms above the cap or 100 ms below 0.95 of it, the cap ceiling is lowered or raised by 1. -/
  | capLimiterStep
  /-- THERMAL_LIMITER_STEP (R369): After 10 ms at T_THROTTLE or 100 ms below it less 5 °C, the thermal ceiling is lowered or raised by 1. -/
  | thermalLimiterStep
  /-- DROOP_LIMITER_STEP (R369): A droop event lowers the droop ceiling at once, and 100 ms without one raises it. -/
  | droopLimiterStep (event : Bool)
  /-- SMBUS_BLOCK_READ (R391): An SMBus Block Read returns a 4-byte snapshot of the register its command code names. -/
  | smbusBlockRead (code : Byte)
  /-- SMBUS_REJECT (R391): An SMBus write, or an unlisted command code, is NACKed. -/
  | smbusReject
  /-- RESET_PIN_RISE (R382): POR_N or WARM_RST_N rises after a reset, the straps are sampled on a POR_N rise, and the device leaves reset and restarts from stage 1 or stage 2. -/
  | resetPinRise (por : Bool) (straps : BitVec 8)
  /-- MSIX_COALESCE_EXPIRY (R118): When a coalescing interval of a coalesced interrupt source ends with an event held back, the device raises the held MSI-X vector. -/
  | msixCoalesceExpiry (source : CoalesceSource)
deriving DecidableEq, Repr

end Sys2Proof
end

