-- ==== Sys2Proof/Decode.lean ====
section
/-! DEFINITION. Words of the opcode table, and the instruction words of the kennel cores (R67). -/

namespace Sys2Proof

/-- The command that a word spells: none, because no row of the opcode table gives bits. -/
def decodeTableWord (_nbits _w : Nat) : Option Instr := none

/-- OPCODE, bits [7:0] of an instruction word. -/
def opcodeOf (w : Nat) : Nat := natField w 0 8

/-- The other fields of an instruction word (Table 3-3). -/
def fieldsOf (w : Nat) : Fields where
  pred := Fin.ofNat 8 (natField w 8 3)
  pneg := natBit w 11
  d := Fin.ofNat 32 (natField w 12 5)
  a := Fin.ofNat 32 (natField w 17 5)
  b := Fin.ofNat 32 (natField w 22 5)
  c := Fin.ofNat 32 (natField w 27 5)
  ty := Fin.ofNat 16 (natField w 32 4)
  imm := BitVec.ofNat 28 (natField w 36 28)

/-- The instruction of Table 3-5 that an opcode names, on a core and with its fields; none for an unassigned one. -/
def opcodeInstr (core : Nat) (f : Fields) : (opcode : Nat) → Option Instr
  | 0x01 => some (.add core f)
  | 0x02 => some (.sub core f)
  | 0x03 => some (.and core f)
  | 0x04 => some (.or core f)
  | 0x05 => some (.xor core f)
  | 0x06 => some (.shl core f)
  | 0x07 => some (.shr core f)
  | 0x08 => some (.sra core f)
  | 0x09 => some (.addi core f)
  | 0x0A => some (.mul core f)
  | 0x0B => some (.div core f)
  | 0x0C => some (.cmp core f)
  | 0x10 => some (.ld core f)
  | 0x11 => some (.st core f)
  | 0x18 => some (.br core f)
  | 0x19 => some (.call core f)
  | 0x1A => some (.jr core f)
  | 0x1C => some (.cwr core f)
  | 0x1D => some (.cww core f)
  | 0x20 => some (.wld core f)
  | 0x21 => some (.wst core f)
  | 0x24 => some (.wadd core f)
  | 0x25 => some (.wsub core f)
  | 0x26 => some (.wmul core f)
  | 0x27 => some (.wfma core f)
  | 0x28 => some (.wdot core f)
  | 0x29 => some (.wcmp core f)
  | 0x2A => some (.wsel core f)
  | 0x2B => some (.wshuf core f)
  | 0x2C => some (.wcvt core f)
  | 0x2D => some (.wmax core f)
  | 0x2E => some (.wmin core f)
  | 0x30 => some (.wredu core f)
  | 0x31 => some (.wreduU core f)
  | 0x32 => some (.wins core f)
  | 0x33 => some (.wext core f)
  | 0x34 => some (.wbcast core f)
  | 0x38 => some (.sin core f)
  | 0x39 => some (.sout core f)
  | 0x3A => some (.sdone core f)
  | 0x3B => some (.oalloc core f)
  | 0x3C => some (.mbsend core f)
  | 0x3D => some (.mbrecv core f)
  | 0x3E => some (.mbpoll core f)
  | 0x3F => some (.kgive core f)
  | 0x40 => some (.get core f)
  | 0x41 => some (.put core f)
  | 0x42 => some (.wait core f)
  | 0x43 => some (.fence core f)
  | 0x44 => some (.ovl core f)
  | 0x45 => some (.rdtime core f)
  | 0x46 => some (.halt core f)
  | _ => none

/-- The instruction that a word of instruction memory spells. -/
def decodeCoreWord (core w : Nat) : Option Instr := opcodeInstr core (fieldsOf w) (opcodeOf w)

end Sys2Proof
end

