-- ==== Sys2Proof/Machine/Tab.lean ====
section
/-! DEFINITION. Sparse tables by number: a list of pairs with rising keys. A table read with a default
keeps one canonical form, in which no entry equals what an unlisted key reads as. -/

namespace Sys2Proof.Machine

/-- A sparse table. -/
structure Tab (α : Type) where
  entries : List (Nat × α)
deriving DecidableEq, Repr

/-- The table that lists nothing. -/
def Tab.empty {α : Type} : Tab α := ⟨[]⟩

/-- Look a key up in a list with rising keys. -/
def lookupIn {α : Type} (k : Nat) : List (Nat × α) → Option α
  | [] => none
  | (k0, v) :: t => if k = k0 then some v else if k < k0 then none else lookupIn k t

/-- Put a value at a key, in its place in the order. -/
def insertIn {α : Type} (k : Nat) (v : α) : List (Nat × α) → List (Nat × α)
  | [] => [(k, v)]
  | (k0, v0) :: t =>
    if k < k0 then (k, v) :: (k0, v0) :: t
    else if k = k0 then (k, v) :: t
    else (k0, v0) :: insertIn k v t

/-- Take a key out. -/
def eraseIn {α : Type} (k : Nat) : List (Nat × α) → List (Nat × α)
  | [] => []
  | (k0, v0) :: t =>
    if k < k0 then (k0, v0) :: t
    else if k = k0 then t.dropWhile (fun e => e.1 ≤ k)
    else (k0, v0) :: eraseIn k t

/-- The entry at a key, if there is one. -/
def Tab.find {α : Type} (t : Tab α) (k : Nat) : Option α := lookupIn k t.entries

/-- The table with a value at a key. -/
def Tab.insert {α : Type} (t : Tab α) (k : Nat) (v : α) : Tab α := ⟨insertIn k v t.entries⟩

/-- The table without a key. -/
def Tab.erase {α : Type} (t : Tab α) (k : Nat) : Tab α := ⟨eraseIn k t.entries⟩

/-- The value at a key; an unlisted key reads as `d k`. -/
def Tab.get {α : Type} (d : Nat → α) (t : Tab α) (k : Nat) : α := (t.find k).getD (d k)

/-- Write a value at a key and keep the canonical form: a value equal to `d k` is not listed. -/
def Tab.set {α : Type} [DecidableEq α] (d : Nat → α) (t : Tab α) (k : Nat) (v : α) : Tab α :=
  if v = d k then t.erase k else t.insert k v

/-- Apply a function to the entry at a key, if there is one. -/
def Tab.adjust {α : Type} (t : Tab α) (k : Nat) (f : α → α) : Tab α :=
  match t.find k with
  | some v => t.insert k (f v)
  | none => t

/-- Apply a function to every entry. -/
def Tab.mapVals {α β : Type} (t : Tab α) (f : Nat → α → β) : Tab β :=
  ⟨t.entries.map fun e => (e.1, f e.1 e.2)⟩

/-- Keep the entries that pass a test. -/
def Tab.keep {α : Type} (t : Tab α) (p : Nat → α → Bool) : Tab α :=
  ⟨t.entries.filter fun e => p e.1 e.2⟩

/-- The keys in order. -/
def Tab.keys {α : Type} (t : Tab α) : List Nat := t.entries.map (·.1)

/-- The values in order of their keys. -/
def Tab.vals {α : Type} (t : Tab α) : List α := t.entries.map (·.2)

/-- Keys strictly rising. -/
def risingKeys {α : Type} : List (Nat × α) → Bool
  | [] => true
  | [_] => true
  | (a, _) :: (b, v) :: t => a < b && risingKeys ((b, v) :: t)

/-- The canonical form for a default: keys strictly rising, no entry equal to the default. -/
def Tab.wf {α : Type} [DecidableEq α] (d : Nat → α) (t : Tab α) : Bool :=
  risingKeys t.entries && t.entries.all fun e => decide (e.2 ≠ d e.1)

/-- A byte memory: its entries are `Host.Cell`s. -/
abbrev Memory := Tab Byte

/-- What an unlisted byte of memory reads as (log entry 13). -/
def memDefault : Nat → Byte := fun _ => 0

/-- The canonical form of a byte memory. -/
def Memory.wf (m : Memory) : Bool := Tab.wf memDefault m

/-- One byte of memory. -/
def Memory.byte (m : Memory) (a : Nat) : Byte := Tab.get memDefault m a

/-- Write one byte of memory. -/
def Memory.setByte (m : Memory) (a : Nat) (b : Byte) : Memory := Tab.set memDefault m a b

/-- `n` bytes from address `a`. -/
def Memory.read (m : Memory) (a : Nat) : Nat → Bytes
  | 0 => []
  | n + 1 => m.byte a :: Memory.read m (a + 1) n

/-- Write a string of bytes at address `a`, in ascending order. -/
def Memory.write (m : Memory) (a : Nat) : Bytes → Memory
  | [] => m
  | b :: t => Memory.write (m.setByte a b) (a + 1) t

/-- Clear `n` bytes from address `a` (R347, R349). -/
def Memory.clear (m : Memory) (a n : Nat) : Memory :=
  m.keep fun k _ => !(a ≤ k && k < a + n)

/-- Bytes as a little-endian number (R8). -/
def leNat : Bytes → Nat
  | [] => 0
  | b :: t => b.toNat + 256 * leNat t

/-- A number as `n` little-endian bytes (R8). -/
def leBytes : (n v : Nat) → Bytes
  | 0, _ => []
  | n + 1, v => BitVec.ofNat 8 v :: leBytes n (v / 256)

/-- Bytes as a big-endian number (Plyn headers, R8). -/
def beNat (bs : Bytes) : Nat := bs.foldl (fun acc b => acc * 256 + b.toNat) 0

/-- A number as `n` big-endian bytes. -/
def beBytes (n v : Nat) : Bytes := (leBytes n v).reverse

/-- `n` bytes of a structure from offset `o`; bytes past its end read as zero. -/
def sliceAt (bs : Bytes) (o n : Nat) : Bytes :=
  let s := (bs.drop o).take n
  s ++ List.replicate (n - s.length) 0

/-- Little-endian field of `n` bytes at offset `o` of a structure. -/
def fieldAt (bs : Bytes) (o n : Nat) : Nat := leNat ((bs.drop o).take n)

/-- Big-endian field of `n` bytes at offset `o`. -/
def beFieldAt (bs : Bytes) (o n : Nat) : Nat := beNat ((bs.drop o).take n)

/-- Is every byte of the range zero? -/
def zeroAt (bs : Bytes) (o n : Nat) : Bool := ((bs.drop o).take n).all (· = 0)

/-- The first index in a list of offsets that fails a test. -/
def firstFail (l : List (Nat × Bool)) : Option Nat := (l.find? fun e => !e.2).map (·.1)

/-- Replace `n` bytes at offset `o`. -/
def spliceAt (bs : Bytes) (o : Nat) (new : Bytes) : Bytes :=
  bs.take o ++ List.replicate (o - bs.length) 0 ++ new ++ bs.drop (o + new.length)

/-- Cut a byte string into pieces of `n` bytes, the last one possibly shorter; `fuel` bounds the count. -/
def chunksOf (n : Nat) : (fuel : Nat) → Bytes → List Bytes
  | 0, _ => []
  | f + 1, bs => if bs.isEmpty then [] else bs.take n :: chunksOf n f (bs.drop n)

end Sys2Proof.Machine
end

