-- ==== Sys2Proof/Machine/Hash.lean ====
section
/-! DEFINITION. The digests the spec names: SHA-256 and SHA-384 (FIPS 180-4), HMAC and the KDF of R355,
SipHash-2-4 (R173), and the check values of Table 9-5 (R266). Log entry 16. -/

namespace Sys2Proof.Machine

/-- The first `n` primes are searched by trial division. -/
def isPrime (p : Nat) : Bool := 2 ≤ p && (List.range p).all fun d => d < 2 || p % d ≠ 0

/-- The eight 64-bit words of a packed row, the first one highest. -/
def packedWords (row : Nat) : List Nat := (List.range 8).map fun i => row >>> (64 * (7 - i)) % 2 ^ 64

/-- Leading 64 bits of the fraction of the cube root of each of the first 80 primes, eight to a row (FIPS 180-4 section
4.2.3): SHA-384 takes them whole and SHA-256 the upper halves of the first 64 (section 4.2.2). -/
def cubeRootRows : List Nat := [
  0x428a2f98d728ae227137449123ef65cdb5c0fbcfec4d3b2fe9b5dba58189dbbc3956c25bf348b53859f111f1b605d019923f82a4af194f9bab1c5ed5da6d8118,
  0xd807aa98a303024212835b0145706fbe243185be4ee4b28c550c7dc3d5ffb4e272be5d74f27b896f80deb1fe3b1696b19bdc06a725c71235c19bf174cf692694,
  0xe49b69c19ef14ad2efbe4786384f25e30fc19dc68b8cd5b5240ca1cc77ac9c652de92c6f592b02754a7484aa6ea6e4835cb0a9dcbd41fbd476f988da831153b5,
  0x983e5152ee66dfaba831c66d2db43210b00327c898fb213fbf597fc7beef0ee4c6e00bf33da88fc2d5a79147930aa72506ca6351e003826f142929670a0e6e70,
  0x27b70a8546d22ffc2e1b21385c26c9264d2c6dfc5ac42aed53380d139d95b3df650a73548baf63de766a0abb3c77b2a881c2c92e47edaee692722c851482353b,
  0xa2bfe8a14cf10364a81a664bbc423001c24b8b70d0f89791c76c51a30654be30d192e819d6ef5218d69906245565a910f40e35855771202a106aa07032bbd1b8,
  0x19a4c116b8d2d0c81e376c085141ab532748774cdf8eeb9934b0bcb5e19b48a8391c0cb3c5c95a634ed8aa4ae3418acb5b9cca4f7763e373682e6ff3d6b2b8a3,
  0x748f82ee5defb2fc78a5636f43172f6084c87814a1f0ab728cc702081a6439ec90befffa23631e28a4506cebde82bde9bef9a3f7b2c67915c67178f2e372532b,
  0xca273eceea26619cd186b8c721c0c207eada7dd6cde0eb1ef57d4f7fee6ed17806f067aa72176fba0a637dc5a2c898a6113f9804bef90dae1b710b35131c471b,
  0x28db77f523047d8432caab7b40c724933c9ebe0a15c9bebc431d67c49c100d4c4cc5d4becb3e42b6597f299cfc657e2a5fcb6fab3ad6faec6c44198c4a475817]

/-- The same for the square roots of the first 16 primes, from which the initial values come (section 5.3). -/
def squareRootRows : List Nat := [
  0x6a09e667f3bcc908bb67ae8584caa73b3c6ef372fe94f82ba54ff53a5f1d36f1510e527fade682d19b05688c2b3e6c1f1f83d9abfb41bd6b5be0cd19137e2179,
  0xcbbb9d5dc1059ed8629a292a367cd5079159015a3070dd17152fecd8f70e593967332667ffc00b318eb44a8768581511db0c2e0d64f98fa747b5481dbefa4fa4]

/-- Round constants of SHA-384, and those of SHA-256. -/
def sha384Constants : List (BitVec 64) := (cubeRootRows.flatMap packedWords).map (BitVec.ofNat 64)
def sha256Constants : List (BitVec 32) := ((cubeRootRows.take 8).flatMap packedWords).map fun k => BitVec.ofNat 32 (k >>> 32)

/-- The eight working words of the SHA-2 compression function. -/
structure Sha2Regs (w : Nat) where
  a : BitVec w
  b : BitVec w
  c : BitVec w
  d : BitVec w
  e : BitVec w
  f : BitVec w
  g : BitVec w
  h : BitVec w

/-- Working words from a list of eight. -/
def Sha2Regs.ofWords {w : Nat} (l : List Nat) : Sha2Regs w :=
  let x := fun i => BitVec.ofNat w (l.getD i 0)
  ⟨x 0, x 1, x 2, x 3, x 4, x 5, x 6, x 7⟩

/-- The rotation and shift amounts that tell SHA-256 from SHA-512: Σ0, Σ1, σ0, σ1. -/
structure Sha2Amounts where
  s0 : Nat × Nat × Nat
  s1 : Nat × Nat × Nat
  m0 : Nat × Nat × Nat
  m1 : Nat × Nat × Nat

def sha256Amounts : Sha2Amounts := ⟨(2, 13, 22), (6, 11, 25), (7, 18, 3), (17, 19, 10)⟩
def sha512Amounts : Sha2Amounts := ⟨(28, 34, 39), (14, 18, 41), (1, 8, 7), (19, 61, 6)⟩

/-- Three rotations xored. -/
def sha2Rot {w : Nat} (t : Nat × Nat × Nat) (x : BitVec w) : BitVec w :=
  x.rotateRight t.1 ^^^ x.rotateRight t.2.1 ^^^ x.rotateRight t.2.2

/-- Two rotations and a shift xored. -/
def sha2Mix {w : Nat} (t : Nat × Nat × Nat) (x : BitVec w) : BitVec w :=
  x.rotateRight t.1 ^^^ x.rotateRight t.2.1 ^^^ (x >>> t.2.2)

/-- One round. -/
def sha2Round {w : Nat} (am : Sha2Amounts) (r : Sha2Regs w) (k m : BitVec w) : Sha2Regs w :=
  let t1 := r.h + sha2Rot am.s1 r.e + ((r.e &&& r.f) ^^^ (~~~r.e &&& r.g)) + k + m
  let t2 := sha2Rot am.s0 r.a + ((r.a &&& r.b) ^^^ (r.a &&& r.c) ^^^ (r.b &&& r.c))
  ⟨t1 + t2, r.a, r.b, r.c, r.d + t1, r.e, r.f, r.g⟩

/-- The rounds of one block; `win` is the sliding window of the last 16 schedule words. -/
def sha2Rounds {w : Nat} (am : Sha2Amounts) : List (BitVec w) → List (BitVec w) → Sha2Regs w → Sha2Regs w
  | [], _, r => r
  | _ :: _, [], r => r
  | k :: ks, m :: rest, r =>
    let nxt := sha2Mix am.m1 (rest.getD 13 0) + rest.getD 8 0 + sha2Mix am.m0 (rest.getD 0 0) + m
    sha2Rounds am ks (rest ++ [nxt]) (sha2Round am r k m)

/-- Big-endian words of a block. -/
def wordsOf (w : Nat) : Nat → Bytes → List (BitVec w)
  | 0, _ => []
  | n + 1, bs => BitVec.ofNat w (beNat (bs.take (w / 8))) :: wordsOf w n (bs.drop (w / 8))

/-- Absorb every block of a padded message. -/
def sha2Blocks {w : Nat} (am : Sha2Amounts) (ks : List (BitVec w)) : Nat → Bytes → Sha2Regs w → Sha2Regs w
  | 0, _, r => r
  | n + 1, bs, r =>
    let o := sha2Rounds am ks (wordsOf w 16 bs) r
    sha2Blocks am ks n (bs.drop (2 * w))
      ⟨r.a + o.a, r.b + o.b, r.c + o.c, r.d + o.d, r.e + o.e, r.f + o.f, r.g + o.g, r.h + o.h⟩

/-- The message padded to whole blocks of `2 * w` bytes, with the length in the last `w / 4` bytes. -/
def sha2Pad (w : Nat) (bs : Bytes) : Bytes :=
  let block := 2 * w
  let tail := w / 4
  let z := (block - (bs.length + 1 + tail) % block) % block
  bs ++ [0x80] ++ List.replicate z 0 ++ beBytes tail (8 * bs.length)

/-- SHA-256 (FIPS 180-4). -/
def sha256 (bs : Bytes) : Bytes :=
  let p := sha2Pad 32 bs
  let r := sha2Blocks sha256Amounts sha256Constants (p.length / 64) p (Sha2Regs.ofWords ((packedWords (squareRootRows.getD 0 0)).map (· >>> 32)))
  [r.a, r.b, r.c, r.d, r.e, r.f, r.g, r.h].flatMap fun x => beBytes 4 x.toNat

/-- SHA-384 (FIPS 180-4). -/
def sha384 (bs : Bytes) : Bytes :=
  let p := sha2Pad 64 bs
  let r := sha2Blocks sha512Amounts sha384Constants (p.length / 128) p (Sha2Regs.ofWords (packedWords (squareRootRows.getD 1 0)))
  [r.a, r.b, r.c, r.d, r.e, r.f].flatMap fun x => beBytes 8 x.toNat

/-- Xor every byte with a constant. -/
def xorAll (c : Byte) (bs : Bytes) : Bytes := bs.map (· ^^^ c)

/-- HMAC-SHA-256; keys in the HL8 are at most one block long. -/
def hmacSha256 (key msg : Bytes) : Bytes :=
  let k := (if key.length > 64 then sha256 key else key)
  let k := k ++ List.replicate (64 - k.length) 0
  sha256 (xorAll 0x5c k ++ sha256 (xorAll 0x36 k ++ msg))

/-- ASCII bytes of a label. -/
def ascii (s : String) : Bytes := s.toList.map fun c => BitVec.ofNat 8 c.toNat

/-- R355: the counter-mode KDF with one 32-byte block. -/
def kdf (key label context : Bytes) : Bytes :=
  hmacSha256 key (beBytes 4 1 ++ label ++ [0] ++ context ++ beBytes 4 0x100)

/-- The four words of SipHash. -/
structure SipState where
  v0 : Word64
  v1 : Word64
  v2 : Word64
  v3 : Word64

/-- One SipRound. -/
def sipRound (s : SipState) : SipState :=
  let v0 := s.v0 + s.v1
  let v1 := s.v1.rotateLeft 13 ^^^ v0
  let v0 := v0.rotateLeft 32
  let v2 := s.v2 + s.v3
  let v3 := s.v3.rotateLeft 16 ^^^ v2
  let v0 := v0 + v3
  let v3 := v3.rotateLeft 21 ^^^ v0
  let v2 := v2 + v1
  let v1 := v1.rotateLeft 17 ^^^ v2
  let v2 := v2.rotateLeft 32
  ⟨v0, v1, v2, v3⟩

/-- One 8-byte word absorbed with two rounds. -/
def sipAbsorb (s : SipState) (m : Word64) : SipState :=
  let s := sipRound (sipRound { s with v3 := s.v3 ^^^ m })
  { s with v0 := s.v0 ^^^ m }

/-- R173: `F(K, v)`, SipHash-2-4 keyed with 16 bytes over `v` as 8 little-endian bytes. -/
def sipF (key : Bytes) (v : Word64) : Word64 :=
  let k0 := BitVec.ofNat 64 (fieldAt key 0 8)
  let k1 := BitVec.ofNat 64 (fieldAt key 8 8)
  let s : SipState := ⟨k0 ^^^ 0x736f6d6570736575, k1 ^^^ 0x646f72616e646f6d,
    k0 ^^^ 0x6c7967656e657261, k1 ^^^ 0x7465646279746573⟩
  let s := sipAbsorb (sipAbsorb s v) 0x0800000000000000
  let s := sipRound (sipRound (sipRound (sipRound { s with v2 := s.v2 ^^^ 0xff })))
  s.v0 ^^^ s.v1 ^^^ s.v2 ^^^ s.v3

/-- The check values of Table 9-5. -/
inductive Poly where
  | crc32c
  | crc32
  | crc64
  | crc16
deriving DecidableEq, Repr

/-- POLY field to check value (Table 9-5). -/
def Poly.ofCode : Nat → Poly
  | 0 => .crc32c
  | 1 => .crc32
  | 2 => .crc64
  | _ => .crc16

/-- Width of the check value in bytes (W of R267). -/
def Poly.width : Poly → Nat
  | .crc32c => 4
  | .crc32 => 4
  | .crc64 => 8
  | .crc16 => 2

/-- Initial running value. -/
def Poly.initial : Poly → Word64
  | .crc32c => 0xFFFFFFFF
  | .crc32 => 0xFFFFFFFF
  | .crc64 => 0xFFFFFFFFFFFFFFFF
  | .crc16 => 0

/-- XOROUT. -/
def Poly.xorOut : Poly → Word64
  | .crc32c => 0xFFFFFFFF
  | .crc32 => 0xFFFFFFFF
  | .crc64 => 0xFFFFFFFFFFFFFFFF
  | .crc16 => 0

/-- The polynomial: bit-reversed for a reflected check value. -/
def Poly.taps : Poly → Word64
  | .crc32c => 0x82F63B78
  | .crc32 => 0xEDB88320
  | .crc64 => 0x9A6C9329AC4BC9B5
  | .crc16 => 0x8BB7

/-- Eight bit steps, reflected: least significant bit first. -/
def crcBitsReflected (taps : Word64) : Nat → Word64 → Word64
  | 0, v => v
  | n + 1, v => crcBitsReflected taps n (if v.getLsbD 0 then (v >>> 1) ^^^ taps else v >>> 1)

/-- Eight bit steps of the 16-bit unreflected check value. -/
def crcBits16 (taps : Word64) : Nat → Word64 → Word64
  | 0, v => v
  | n + 1, v =>
    let s := (v <<< 1) &&& 0xFFFF
    crcBits16 taps n (if v.getLsbD 15 then s ^^^ taps else s)

/-- Feed one byte to the running value (R266). -/
def Poly.feed (p : Poly) (v : Word64) (b : Byte) : Word64 :=
  match p with
  | .crc16 => crcBits16 p.taps 8 (v ^^^ ((b.setWidth 64) <<< 8))
  | _ => crcBitsReflected p.taps 8 (v ^^^ b.setWidth 64)

/-- Feed a string of bytes. -/
def Poly.feedAll (p : Poly) (v : Word64) (bs : Bytes) : Word64 := bs.foldl p.feed v

/-- The finished value of a running value (R266). -/
def Poly.finish (p : Poly) (v : Word64) : Word64 := v ^^^ p.xorOut

/-- The check value of a whole record. -/
def Poly.check (p : Poly) (bs : Bytes) : Word64 := p.finish (p.feedAll p.initial bs)

/-- The value as appended after a record (Table 9-5): CRC-16 big-endian, the others little-endian. -/
def Poly.appended (p : Poly) (v : Word64) : Bytes :=
  match p with
  | .crc16 => beBytes 2 v.toNat
  | _ => leBytes p.width v.toNat

/-- CRC-32C of a byte string as a number. -/
def crc32c (bs : Bytes) : Nat := (Poly.crc32c.check bs).toNat

/-- CRC-32 of a byte string as a number. -/
def crc32 (bs : Bytes) : Nat := (Poly.crc32.check bs).toNat

end Sys2Proof.Machine
end

