-- ==== Sys2Proof/Machine/Curve.lean ====
section
/-! DEFINITION. The curve P-384 with ECDSA over SHA-384 and Diffie-Hellman, as the management commands,
key wraps and attestation reports use them (R353, R354, R357, R360). PRESUMED from FIPS 186-4 and SP 800-56A
(log entry 16). A public key is 96 bytes: X and Y, each big-endian. -/

namespace Sys2Proof.Machine

/-- The field prime of P-384. -/
def p384P : Nat := 2 ^ 384 - 2 ^ 128 - 2 ^ 96 + 2 ^ 32 - 1

/-- The group order of P-384. -/
def p384N : Nat :=
  0xffffffffffffffffffffffffffffffffffffffffffffffff * 2 ^ 192 +
    0xc7634d81f4372ddf581a0db248b0a77aecec196accc52973

/-- The constant `b` of the curve equation. -/
def p384B : Nat :=
  0xb3312fa7e23ee7e4988e056be3f82d19181d9c6efe814112 * 2 ^ 192 +
    0x0314088f5013875ac656398d8a2ed19d2a85c8edd3ec2aef

/-- A point in Jacobian coordinates; `z = 0` is the point at infinity. -/
structure JPoint where
  x : Nat
  y : Nat
  z : Nat
deriving DecidableEq, Repr

/-- The base point. -/
def p384G : JPoint where
  x := 0xaa87ca22be8b05378eb1c71ef320ad746e1d3b628ba79b98 * 2 ^ 192 +
    0x59f741e082542a385502f25dbf55296c3a545e3872760ab7
  y := 0x3617de4a96262c6f5d9e98bf9292dc29f8f41dbd289a147c * 2 ^ 192 +
    0xe9da3113b5f0b8c00a60b1ce1d7e819d7a431d7c90ea0e5f
  z := 1

/-- Difference modulo `m`. -/
def modSub (m a b : Nat) : Nat := (a + m - b % m) % m

/-- `b` to the power whose low `n` bits are those of `e`, modulo `m`. -/
def modPow (m b e : Nat) : (n : Nat) → (acc : Nat) → Nat
  | 0, acc => acc
  | n + 1, acc =>
    let sq := acc * acc % m
    modPow m b e n (if e.testBit n then sq * b % m else sq)

/-- Inverse modulo a prime of 384 bits. -/
def modInv (m a : Nat) : Nat := modPow m (a % m) (m - 2) 384 1

/-- Point doubling (`a = -3`). -/
def JPoint.double (p : JPoint) : JPoint :=
  let m := p384P
  let zz := p.z * p.z % m
  let yy := p.y * p.y % m
  let xyy := p.x * yy % m
  let al := 3 * (modSub m p.x zz) * ((p.x + zz) % m) % m
  let x3 := modSub m (al * al) (8 * xyy)
  let z3 := 2 * p.y * p.z % m
  let y3 := modSub m (al * modSub m (4 * xyy) x3) (8 * yy * yy)
  ⟨x3, y3, z3⟩

/-- Point addition. -/
def JPoint.add (p q : JPoint) : JPoint :=
  let m := p384P
  if p.z = 0 then q else if q.z = 0 then p else
  let z1 := p.z * p.z % m
  let z2 := q.z * q.z % m
  let u1 := p.x * z2 % m
  let u2 := q.x * z1 % m
  let s1 := p.y * q.z * z2 % m
  let s2 := q.y * p.z * z1 % m
  if u1 = u2 then (if s1 = s2 then p.double else ⟨1, 1, 0⟩) else
  let h := modSub m u2 u1
  let r := modSub m s2 s1
  let hh := h * h % m
  let hhh := h * hh % m
  let v := u1 * hh % m
  let x3 := modSub m (r * r) (hhh + 2 * v)
  let y3 := modSub m (r * modSub m v x3) (s1 * hhh)
  ⟨x3, y3, h * p.z * q.z % m⟩

/-- Scalar multiple by the low `n` bits of `k`, from the top bit down. -/
def JPoint.times (p : JPoint) (k : Nat) : (n : Nat) → (acc : JPoint) → JPoint
  | 0, acc => acc
  | n + 1, acc =>
    let d := acc.double
    JPoint.times p k n (if k.testBit n then d.add p else d)

/-- Scalar multiple of a point. -/
def pointMul (k : Nat) (p : JPoint) : JPoint := p.times k 384 ⟨1, 1, 0⟩

/-- Affine coordinates of a point other than infinity. -/
def JPoint.affine (p : JPoint) : Nat × Nat :=
  let zi := modInv p384P p.z
  let zi2 := zi * zi % p384P
  (p.x * zi2 % p384P, p.y * zi2 * zi % p384P)

/-- The point of a public key in SEC1 uncompressed form, 97 bytes (R353), where it is on the curve. -/
def decodePoint (bs : Bytes) : Option JPoint :=
  let x := beNat ((bs.drop 1).take 48)
  let y := beNat ((bs.drop 49).take 48)
  if bs.length = 97 ∧ bs.headD 0 = 4 ∧ x < p384P ∧ y < p384P ∧ y * y % p384P = (x * x * x + (p384P - 3) * x + p384B) % p384P
  then some ⟨x, y, 1⟩ else none

/-- The 97 bytes of a point in SEC1 uncompressed form. -/
def encodePoint (p : JPoint) : Bytes :=
  let a := p.affine
  4 :: (beBytes 48 a.1 ++ beBytes 48 a.2)

/-- The public key of a private scalar. -/
def publicKey (d : Nat) : Bytes := encodePoint (pointMul (d % p384N) p384G)

/-- ECDSA with SHA-384: is `sig` (r then s, 48 bytes each, big-endian) a signature of `msg`? -/
def ecdsaVerify (pub msg sig : Bytes) : Bool :=
  match decodePoint pub with
  | none => false
  | some q =>
    let r := beNat (sig.take 48)
    let s := beNat ((sig.drop 48).take 48)
    if sig.length = 96 ∧ 0 < r ∧ r < p384N ∧ 0 < s ∧ s < p384N then
      let e := beNat (sha384 msg)
      let w := modInv p384N s
      let x := (pointMul (e * w % p384N) p384G).add (pointMul (r * w % p384N) q)
      x.z ≠ 0 && x.affine.1 % p384N = r
    else false

/-- An ECDSA signature with SHA-384 under scalar `d` and nonce `k`. -/
def ecdsaSign (d k : Nat) (msg : Bytes) : Bytes :=
  let e := beNat (sha384 msg)
  let r := (pointMul (k % p384N) p384G).affine.1 % p384N
  let s := modInv p384N k * ((e + r * d) % p384N) % p384N
  beBytes 48 r ++ beBytes 48 s

/-- The Diffie-Hellman secret: the X coordinate of `d` times a public key. -/
def ecdh (d : Nat) (pub : Bytes) : Option Bytes :=
  match decodePoint pub with
  | none => none
  | some q => some (beBytes 48 (pointMul (d % p384N) q).affine.1)

end Sys2Proof.Machine
end

