-- ==== Sys2Proof/Machine/RegMap.lean ====
section
/-! DEFINITION. The BAR0 register map: the offset of every register, its fields with their access types and
reset values, from the register tables of spec/ (Table 1-7 for the bases of the blocks, R10 to R13, R31, R62,
R130, R166, R197, R217, R250, R271 to R273, R298, R324, R325, R346, R363, R377, R378, R383). A value that the spec
calls set by boot, by scan, by replay, by self-test, per part, per firmware, retained or sampled stands as 0
here and is set where the device sets it. The low bits of an address field that its description marks RsvdZ belong to no field. -/

namespace Sys2Proof.Machine

/-- A register field: its lowest bit and its length. -/
structure Fld where
  lo : Nat
  len : Nat
deriving DecidableEq, Repr

/-- Access types of Table 0-4. -/
inductive Access where
  | ro
  | rw
  | w1c
  | w1s
  | wo
deriving DecidableEq, Repr

/-- A field with its access type. Bits in no field are RsvdZ (R11). -/
structure FieldDesc where
  fld : Fld
  access : Access
deriving DecidableEq, Repr

/-- A register or an array of registers: the offset of its first, the stride and count of each index
(largest stride first), whether it is 64 bits wide, its reset value, its fields. -/
structure RegDesc where
  base : Nat
  dims : List (Nat × Nat)
  wide : Bool
  reset : Nat
  fields : List FieldDesc
deriving DecidableEq, Repr

def Reg.GLB_DEVICE_ID : Nat := 0x0
def Reg.GLB_STEPPING : Nat := 0x4
def Reg.GLB_KENNEL_COUNT : Nat := 0x8
def Reg.GLB_KENNEL_HEALTH (n : Nat) : Nat := 0x100 + 0x4 * n
def Reg.ENL_LOAD_ADDR : Nat := 0x200000
def Reg.ENL_LOAD_LEN : Nat := 0x200008
def Reg.ENL_LOAD_CTRL : Nat := 0x200010
def Reg.ENL_LOAD_STATUS : Nat := 0x200014
def Reg.ENL_LOAD_ERR_RES : Nat := 0x200018
def Reg.ENL_LOAD_ERR_INDEX : Nat := 0x20001c
def Reg.ENL_IMAGE_DIGEST (h : Nat) (w : Nat) : Nat := 0x200200 + 0x20 * h + 0x4 * w
def Reg.ENL_JOB_DESC (n : Nat) : Nat := 0x201000 + 0x20 * n
def Reg.ENL_JOB_CTRL (n : Nat) : Nat := 0x201008 + 0x20 * n
def Reg.ENL_JOB_STATUS (n : Nat) : Nat := 0x20100c + 0x20 * n
def Reg.ENL_JOB_EPOCH (n : Nat) : Nat := 0x201010 + 0x20 * n
def Reg.ENL_JOB_BATCHES (n : Nat) : Nat := 0x201018 + 0x20 * n
def Reg.DEC_CAPS : Nat := 0x1800000
def Reg.DEC_DMG_BASE (n : Nat) : Nat := 0x1801000 + 0x40 * n
def Reg.DEC_DMG_SIZE (n : Nat) : Nat := 0x1801008 + 0x40 * n
def Reg.DEC_DMG_HEAD (n : Nat) : Nat := 0x180100c + 0x40 * n
def Reg.DEC_DMG_TAIL (n : Nat) : Nat := 0x1801010 + 0x40 * n
def Reg.DEC_DMG_LOST (n : Nat) : Nat := 0x1801014 + 0x40 * n
def Reg.DEC_DAMAGED (n : Nat) : Nat := 0x1801018 + 0x40 * n
def Reg.DEC_SPLIT (n : Nat) : Nat := 0x1801020 + 0x40 * n
def Reg.DEC_REGION_DEFAULT (n : Nat) : Nat := 0x1801028 + 0x40 * n
def Reg.DEC_LIVE_DROPS (n : Nat) : Nat := 0x180102c + 0x40 * n
def Reg.TOK_CAPS : Nat := 0x1400000
def Reg.TOK_VCACHE_HITS : Nat := 0x1400008
def Reg.TOK_VCACHE_MISSES : Nat := 0x1400010
def Reg.TOK_STREAMS : Nat := 0x1400018
def Reg.TOK_TOKENS (n : Nat) : Nat := 0x1401000 + 0x40 * n
def Reg.TOK_FALLBACK (n : Nat) : Nat := 0x1401008 + 0x40 * n
def Reg.TOK_REPLACED (n : Nat) : Nat := 0x1401010 + 0x40 * n
def Reg.TOK_REJECTED (n : Nat) : Nat := 0x1401018 + 0x40 * n
def Reg.TOK_BAD_MSG (n : Nat) : Nat := 0x140101c + 0x40 * n
def Reg.TOK_MASK_STEPS (n : Nat) : Nat := 0x1401020 + 0x40 * n
def Reg.TOK_MASK_LATE (n : Nat) : Nat := 0x1401028 + 0x40 * n
def Reg.TOK_MASK_MAXLAT (n : Nat) : Nat := 0x1401030 + 0x40 * n
def Reg.TOK_STREAM_ENDS (n : Nat) : Nat := 0x1401034 + 0x40 * n
def Reg.PBQ_CAPS : Nat := 0x800000
def Reg.PBQ_FREE : Nat := 0x800004
def Reg.PBQ_OWNER (q : Nat) : Nat := 0x801000 + 0x40 * q
def Reg.PBQ_DEPTH (q : Nat) : Nat := 0x801004 + 0x40 * q
def Reg.PBQ_BASE (q : Nat) : Nat := 0x801008 + 0x40 * q
def Reg.PBQ_ENTRIES (q : Nat) : Nat := 0x801010 + 0x40 * q
def Reg.PBQ_LOW_WATER (q : Nat) : Nat := 0x801014 + 0x40 * q
def Reg.PBQ_STATUS (q : Nat) : Nat := 0x801018 + 0x40 * q
def Reg.PBQ_READY (q : Nat) : Nat := 0x80101c + 0x40 * q
def Reg.PBQ_PACKED (q : Nat) : Nat := 0x801020 + 0x40 * q
def Reg.PBQ_NEXT_POS (q : Nat) : Nat := 0x801028 + 0x40 * q
def Reg.PBQ_ALARMS (q : Nat) : Nat := 0x801030 + 0x40 * q
def Reg.PBQ_WINDOW (q : Nat) : Nat := 0x801034 + 0x40 * q
def Reg.PBQ_JOB_DROPPED (n : Nat) : Nat := 0x820000 + 0x40 * n
def Reg.PBQ_JOB_FILTERED (n : Nat) : Nat := 0x820008 + 0x40 * n
def Reg.PBQ_JOB_DEFERRED (n : Nat) : Nat := 0x820010 + 0x40 * n
def Reg.PBQ_JOB_PADDED (n : Nat) : Nat := 0x820018 + 0x40 * n
def Reg.PBQ_JOB_STALLS (n : Nat) : Nat := 0x820020 + 0x40 * n
def Reg.HEEL_DCLASS : Nat := 0x2800000
def Reg.HEEL_CAPS : Nat := 0x2800004
def Reg.HEEL_CTRL (k : Nat) : Nat := 0x2801000 + 0x100 * k
def Reg.HEEL_LINKSEL (k : Nat) : Nat := 0x2801004 + 0x100 * k
def Reg.HEEL_TIMEOUT (k : Nat) : Nat := 0x2801008 + 0x100 * k
def Reg.HEEL_STATUS (k : Nat) : Nat := 0x280100c + 0x100 * k
def Reg.HEEL_COMPARED (k : Nat) : Nat := 0x2801010 + 0x100 * k
def Reg.HEEL_BLOCKS (k : Nat) : Nat := 0x2801018 + 0x100 * k
def Reg.HEEL_UNCOMPARED (k : Nat) : Nat := 0x2801020 + 0x100 * k
def Reg.HEEL_PENDING (k : Nat) : Nat := 0x2801024 + 0x100 * k
def Reg.HEEL_DIV_INFO (k : Nat) : Nat := 0x2801028 + 0x100 * k
def Reg.HEEL_DIV_POSITION (k : Nat) : Nat := 0x2801030 + 0x100 * k
def Reg.HEEL_DIV_OFFSET (k : Nat) : Nat := 0x2801038 + 0x100 * k
def Reg.HEEL_DIV_EPOCH (k : Nat) : Nat := 0x280103c + 0x100 * k
def Reg.HEEL_DIV_BATCH (k : Nat) : Nat := 0x2801040 + 0x100 * k
def Reg.HEEL_DIV_RANK (k : Nat) : Nat := 0x2801048 + 0x100 * k
def Reg.HEEL_DIV_LOCAL (k : Nat) (w : Nat) : Nat := 0x2801080 + 0x100 * k + 0x4 * w
def Reg.HEEL_DIV_PEER (k : Nat) (w : Nat) : Nat := 0x28010a0 + 0x100 * k + 0x4 * w
def Reg.PLT_CAPS : Nat := 0x1000000
def Reg.PLT_SOURCE_ID : Nat := 0x1000004
def Reg.PLT_ETHERTYPE : Nat := 0x1000008
def Reg.PLT_UDP_PORT : Nat := 0x100000c
def Reg.PLT_ACK_TC : Nat := 0x1000010
def Reg.PLT_CTX_ONCHIP : Nat := 0x1000014
def Reg.PLT_TIME_NS : Nat := 0x1000020
def Reg.PLT_TIME_SEC : Nat := 0x1000028
def Reg.PLT_PTP_STATUS : Nat := 0x1000030
def Reg.PLT_PTP_OFFSET : Nat := 0x1000034
def Reg.PLT_COUNTER (i : Nat) : Nat := 0x1000040 + 0x8 * i
def Reg.PLT_PORT_CFG (p : Nat) : Nat := 0x1000100 + 0x40 * p
def Reg.PLT_PORT_STATUS (p : Nat) : Nat := 0x1000104 + 0x40 * p
def Reg.PLT_MISSQ (p : Nat) : Nat := 0x1000108 + 0x40 * p
def Reg.PLT_SHAPER_RATE (p : Nat) (s : Nat) (c : Nat) : Nat := 0x1000400 + 0x200 * p + 0x80 * s + 0x10 * c
def Reg.PLT_SHAPER_BURST (p : Nat) (s : Nat) (c : Nat) : Nat := 0x1000404 + 0x200 * p + 0x80 * s + 0x10 * c
def Reg.PLT_SHAPER_TOKENS (p : Nat) (s : Nat) (c : Nat) : Nat := 0x1000408 + 0x200 * p + 0x80 * s + 0x10 * c
def Reg.PLT_JOB_BYTES (n : Nat) : Nat := 0x1010000 + 0x40 * n
def Reg.PLT_JOB_RETRIES (n : Nat) : Nat := 0x1010008 + 0x40 * n
def Reg.PLT_JOB_STALE_GEN (n : Nat) : Nat := 0x1010010 + 0x40 * n
def Reg.PLT_JOB_SHORT_CREDIT (n : Nat) : Nat := 0x1010014 + 0x40 * n
def Reg.PLT_JOB_CREDIT_DROP (n : Nat) : Nat := 0x1010018 + 0x40 * n
def Reg.DMA_CAPS : Nat := 0xa00000
def Reg.DMA_CH_CTRL (c : Nat) : Nat := 0xa01000 + 0x40 * c
def Reg.DMA_CH_LEASH (c : Nat) : Nat := 0xa01004 + 0x40 * c
def Reg.DMA_CH_DESC (c : Nat) : Nat := 0xa01008 + 0x40 * c
def Reg.DMA_CH_WB_ADDR (c : Nat) : Nat := 0xa01010 + 0x40 * c
def Reg.DMA_CH_STATUS (c : Nat) : Nat := 0xa01018 + 0x40 * c
def Reg.DMA_CH_CUR_DESC (c : Nat) : Nat := 0xa01020 + 0x40 * c
def Reg.DMA_CH_RESIDUE (c : Nat) : Nat := 0xa01028 + 0x40 * c
def Reg.DMA_CH_BYTES (c : Nat) : Nat := 0xa01030 + 0x40 * c
def Reg.POOL_CAPS : Nat := 0xc00000
def Reg.POOL_CFG (k : Nat) : Nat := 0xc01000 + 0x40 * k
def Reg.POOL_BUF_SIZE (k : Nat) : Nat := 0xc01004 + 0x40 * k
def Reg.POOL_BUFFERS (k : Nat) : Nat := 0xc01008 + 0x40 * k
def Reg.POOL_FREE (k : Nat) : Nat := 0xc0100c + 0x40 * k
def Reg.POOL_STATUS (k : Nat) : Nat := 0xc01010 + 0x40 * k
def Reg.POOL_MIN_FREE (k : Nat) : Nat := 0xc01014 + 0x40 * k
def Reg.POOL_WAITS (k : Nat) : Nat := 0xc01018 + 0x40 * k
def Reg.POOL_ERRORS (k : Nat) : Nat := 0xc01020 + 0x40 * k
def Reg.POOL_ERR_HANDLE (k : Nat) : Nat := 0xc01024 + 0x40 * k
def Reg.POOL_ERR_INFO (k : Nat) : Nat := 0xc01028 + 0x40 * k
def Reg.CHK_CAPS : Nat := 0xd00000
def Reg.CHK_CFG (u : Nat) : Nat := 0xd01000 + 0x40 * u
def Reg.CHK_FILTER (u : Nat) : Nat := 0xd01004 + 0x40 * u
def Reg.CHK_CTRL (u : Nat) : Nat := 0xd01008 + 0x40 * u
def Reg.CHK_RUNNING (u : Nat) : Nat := 0xd01010 + 0x40 * u
def Reg.CHK_BYTES (u : Nat) : Nat := 0xd01018 + 0x40 * u
def Reg.CHK_RESULT (u : Nat) : Nat := 0xd01020 + 0x40 * u
def Reg.CHK_MISMATCH (u : Nat) : Nat := 0xd01028 + 0x40 * u
def Reg.CHK_MISMATCH_AT (u : Nat) : Nat := 0xd01030 + 0x40 * u
def Reg.BRI_CAPS : Nat := 0xe00000
def Reg.BRI_STORED_BLOCKS : Nat := 0xe00008
def Reg.BRI_ENG_CTRL (e : Nat) : Nat := 0xe01000 + 0x40 * e
def Reg.BRI_ENG_DESC (e : Nat) : Nat := 0xe01008 + 0x40 * e
def Reg.BRI_ENG_WB_ADDR (e : Nat) : Nat := 0xe01010 + 0x40 * e
def Reg.BRI_ENG_STATUS (e : Nat) : Nat := 0xe01018 + 0x40 * e
def Reg.BRI_ENG_CONSUMED (e : Nat) : Nat := 0xe01020 + 0x40 * e
def Reg.BRI_ENG_PRODUCED (e : Nat) : Nat := 0xe01028 + 0x40 * e
def Reg.BRI_ENG_ERR_BIT (e : Nat) : Nat := 0xe01030 + 0x40 * e
def Reg.BRI_ENG_VERIFY_FAIL (e : Nat) : Nat := 0xe01038 + 0x40 * e
def Reg.TRS_OPCODE (t : Nat) : Nat := 0x400000 + 0x40 * t
def Reg.TRS_NSID (t : Nat) : Nat := 0x400004 + 0x40 * t
def Reg.TRS_LBA (t : Nat) : Nat := 0x400008 + 0x40 * t
def Reg.TRS_COUNT (t : Nat) : Nat := 0x400010 + 0x40 * t
def Reg.TRS_HOST_ADDR (t : Nat) : Nat := 0x400018 + 0x40 * t
def Reg.TRS_CTRL (t : Nat) : Nat := 0x400020 + 0x40 * t
def Reg.TRS_STATUS (t : Nat) : Nat := 0x400028 + 0x40 * t
def Reg.TRS_SEQ (t : Nat) : Nat := 0x400030 + 0x40 * t
def Reg.TRS_CAPS : Nat := 0x410000
def Reg.TRS_RESET : Nat := 0x410004
def Reg.TRS_NEXT_SEQ : Nat := 0x410008
def Reg.TRS_OUTSTANDING : Nat := 0x410010
def Reg.TRS_DONE (w : Nat) : Nat := 0x410100 + 0x4 * w
def Reg.FTL_CAPACITY : Nat := 0x2c00000
def Reg.FTL_PHYS_UNITS : Nat := 0x2c00008
def Reg.FTL_SPARE : Nat := 0x2c00010
def Reg.FTL_STATE : Nat := 0x2c00018
def Reg.FTL_CKPT_PSEQ : Nat := 0x2c00020
def Reg.FTL_GC_WEIGHTS : Nat := 0x2c00028
def Reg.FTL_HEALTH_SNAP : Nat := 0x2c00030
def Reg.FTL_EVENT : Nat := 0x2c00034
def Reg.FTL_NS_STATE (n : Nat) : Nat := 0x2c01000 + 0x80 * n
def Reg.FTL_NS_SIZE (n : Nat) : Nat := 0x2c01008 + 0x80 * n
def Reg.FTL_NS_USED (n : Nat) : Nat := 0x2c01010 + 0x80 * n
def Reg.FTL_NS_KEY (n : Nat) (s : Nat) : Nat := 0x2c01018 + 0x80 * n + 0x4 * s
def Reg.FTL_NS_KEY_PAGES (n : Nat) (s : Nat) : Nat := 0x2c01028 + 0x80 * n + 0x8 * s
def Reg.FTL_JOB_STORE_LBA (j : Nat) : Nat := 0x2c04000 + 0x40 * j
def Reg.FLT_CTRL : Nat := 0x2400000
def Reg.FLT_CONTEXT : Nat := 0x2400004
def Reg.FLT_ROSTER_ADDR : Nat := 0x2400008
def Reg.FLT_ROSTER_LEN : Nat := 0x2400010
def Reg.FLT_STATUS : Nat := 0x2400014
def Reg.FLT_INDEX : Nat := 0x2400018
def Reg.FLT_ROLE_EPOCH : Nat := 0x240001c
def Reg.FLT_ROSTER_EPOCH : Nat := 0x2400020
def Reg.FLT_MANAGER : Nat := 0x2400024
def Reg.FLT_BARRIER : Nat := 0x2400028
def Reg.FLT_ARRIVED : Nat := 0x2400030
def Reg.FLT_RANKS : Nat := 0x2400038
def Reg.FLT_LAST_ARRIVALS : Nat := 0x240003c
def Reg.FLT_REPLACED : Nat := 0x2400040
def Reg.FLT_RECOMPUTED : Nat := 0x2400048
def Reg.FLT_MGR_LIVE : Nat := 0x2400100
def Reg.FLT_MGR_SUSPECTS : Nat := 0x2400104
def Reg.FLT_TAKEOVERS : Nat := 0x2400108
def Reg.SEC_CAPS : Nat := 0x1c00000
def Reg.SEC_CONF : Nat := 0x1c00004
def Reg.SEC_DEBUG : Nat := 0x1c00008
def Reg.SEC_KEYS : Nat := 0x1c0000c
def Reg.SEC_DEVICE_ID (w : Nat) : Nat := 0x1c00100 + 0x4 * w
def Reg.SEC_MEAS (i : Nat) (w : Nat) : Nat := 0x1c00200 + 0x20 * i + 0x4 * w
def Reg.SEC_OWNER (h : Nat) (w : Nat) : Nat := 0x1c00400 + 0x20 * h + 0x4 * w
def Reg.SEC_CMD_COUNTER (s : Nat) : Nat := 0x1c00800 + 0x8 * s
def Reg.SHD_BOOT : Nat := 0x100000
def Reg.SHD_RESET_CAUSE : Nat := 0x100004
def Reg.SHD_ALARM : Nat := 0x100008
def Reg.SHD_BOOT_DETAIL : Nat := 0x10000c
def Reg.SHD_TIMER_STATUS (i : Nat) : Nat := 0x100200 + 0x8 * i
def Reg.SHD_MBX_CTRL : Nat := 0x100100
def Reg.SHD_MBX_STATUS : Nat := 0x100104
def Reg.SHD_MBX_REQ (m : Nat) : Nat := 0x110000 + 0x4 * m
def Reg.SHD_MBX_RESP (m : Nat) : Nat := 0x140000 + 0x4 * m
def Reg.PWR_CAP : Nat := 0x2000000
def Reg.PWR_PLAN : Nat := 0x2000004
def Reg.PWR_POWER : Nat := 0x2000008
def Reg.PWR_TEMP_MAX : Nat := 0x200000c
def Reg.PWR_DROOP : Nat := 0x2000010
def Reg.PWR_DOMAINS : Nat := 0x2000014
def Reg.PWR_TEMP_SITE (i : Nat) : Nat := 0x2000100 + 0x4 * i
def Reg.PWR_UNATTRIBUTED : Nat := 0x2000200
def Reg.PWR_JOB_ENERGY (n : Nat) : Nat := 0x2001000 + 0x40 * n
def Reg.GLB_STRAPS : Nat := 0x200

def Fld.GLB_DEVICE_ID_PART : Fld := ⟨0, 16⟩
def Fld.GLB_DEVICE_ID_GRADE : Fld := ⟨16, 8⟩
def Fld.GLB_DEVICE_ID_TEMP : Fld := ⟨24, 4⟩
def Fld.GLB_STEPPING_MINOR : Fld := ⟨0, 4⟩
def Fld.GLB_STEPPING_MAJOR : Fld := ⟨4, 4⟩
def Fld.GLB_KENNEL_COUNT_ENABLED : Fld := ⟨0, 10⟩
def Fld.GLB_KENNEL_COUNT_HEALTHY : Fld := ⟨10, 10⟩
def Fld.GLB_KENNEL_HEALTH_OK : Fld := ⟨0, 32⟩
def Fld.ENL_LOAD_ADDR_ADDR : Fld := ⟨0, 64⟩
def Fld.ENL_LOAD_LEN_LEN : Fld := ⟨0, 64⟩
def Fld.ENL_LOAD_CTRL_GO : Fld := ⟨0, 1⟩
def Fld.ENL_LOAD_CTRL_OP : Fld := ⟨1, 2⟩
def Fld.ENL_LOAD_CTRL_HEDGE : Fld := ⟨4, 4⟩
def Fld.ENL_LOAD_STATUS_BUSY : Fld := ⟨0, 1⟩
def Fld.ENL_LOAD_STATUS_DONE : Fld := ⟨1, 1⟩
def Fld.ENL_LOAD_STATUS_ERR : Fld := ⟨2, 1⟩
def Fld.ENL_LOAD_STATUS_CODE : Fld := ⟨8, 8⟩
def Fld.ENL_LOAD_STATUS_HEDGE : Fld := ⟨16, 4⟩
def Fld.ENL_LOAD_ERR_RES_SECTION : Fld := ⟨0, 8⟩
def Fld.ENL_LOAD_ERR_RES_RTYPE : Fld := ⟨8, 8⟩
def Fld.ENL_LOAD_ERR_RES_OWNER : Fld := ⟨16, 8⟩
def Fld.ENL_LOAD_ERR_INDEX_INDEX : Fld := ⟨0, 32⟩
def Fld.ENL_IMAGE_DIGEST_DIGEST : Fld := ⟨0, 32⟩
def Fld.ENL_JOB_DESC_ADDR : Fld := ⟨0, 64⟩
def Fld.ENL_JOB_CTRL_CMD : Fld := ⟨0, 3⟩
def Fld.ENL_JOB_STATUS_STATE : Fld := ⟨0, 4⟩
def Fld.ENL_JOB_STATUS_CODE : Fld := ⟨16, 16⟩
def Fld.ENL_JOB_EPOCH_EPOCH : Fld := ⟨0, 32⟩
def Fld.ENL_JOB_BATCHES_COUNT : Fld := ⟨0, 64⟩
def Fld.DEC_CAPS_IMAGE : Fld := ⟨0, 8⟩
def Fld.DEC_CAPS_VIDEO : Fld := ⟨8, 8⟩
def Fld.DEC_CAPS_RESAMPLE : Fld := ⟨16, 8⟩
def Fld.DEC_CAPS_DECOMP : Fld := ⟨24, 8⟩
def Fld.DEC_DMG_BASE_ADDR : Fld := ⟨0, 64⟩
def Fld.DEC_DMG_SIZE_LOG2 : Fld := ⟨0, 5⟩
def Fld.DEC_DMG_HEAD_HEAD : Fld := ⟨0, 32⟩
def Fld.DEC_DMG_TAIL_TAIL : Fld := ⟨0, 32⟩
def Fld.DEC_DMG_LOST_LOST : Fld := ⟨0, 32⟩
def Fld.DEC_DAMAGED_COUNT : Fld := ⟨0, 64⟩
def Fld.DEC_SPLIT_COUNT : Fld := ⟨0, 64⟩
def Fld.DEC_REGION_DEFAULT_COUNT : Fld := ⟨0, 32⟩
def Fld.DEC_LIVE_DROPS_COUNT : Fld := ⟨0, 32⟩
def Fld.TOK_CAPS_TOKENIZERS : Fld := ⟨0, 8⟩
def Fld.TOK_CAPS_MASK : Fld := ⟨8, 8⟩
def Fld.TOK_VCACHE_HITS_COUNT : Fld := ⟨0, 64⟩
def Fld.TOK_VCACHE_MISSES_COUNT : Fld := ⟨0, 64⟩
def Fld.TOK_STREAMS_OPEN : Fld := ⟨0, 15⟩
def Fld.TOK_TOKENS_COUNT : Fld := ⟨0, 64⟩
def Fld.TOK_FALLBACK_COUNT : Fld := ⟨0, 64⟩
def Fld.TOK_REPLACED_COUNT : Fld := ⟨0, 64⟩
def Fld.TOK_REJECTED_COUNT : Fld := ⟨0, 32⟩
def Fld.TOK_BAD_MSG_COUNT : Fld := ⟨0, 32⟩
def Fld.TOK_MASK_STEPS_COUNT : Fld := ⟨0, 64⟩
def Fld.TOK_MASK_LATE_COUNT : Fld := ⟨0, 64⟩
def Fld.TOK_MASK_MAXLAT_NS : Fld := ⟨0, 32⟩
def Fld.TOK_STREAM_ENDS_COUNT : Fld := ⟨0, 32⟩
def Fld.PBQ_CAPS_QUEUES : Fld := ⟨0, 11⟩
def Fld.PBQ_FREE_FREE : Fld := ⟨0, 11⟩
def Fld.PBQ_OWNER_JOB : Fld := ⟨0, 6⟩
def Fld.PBQ_OWNER_VALID : Fld := ⟨7, 1⟩
def Fld.PBQ_OWNER_RANK : Fld := ⟨16, 16⟩
def Fld.PBQ_DEPTH_MIB : Fld := ⟨0, 15⟩
def Fld.PBQ_BASE_ADDR : Fld := ⟨0, 64⟩
def Fld.PBQ_ENTRIES_COUNT : Fld := ⟨0, 32⟩
def Fld.PBQ_LOW_WATER_BATCHES : Fld := ⟨0, 16⟩
def Fld.PBQ_STATUS_BELOW : Fld := ⟨0, 1⟩
def Fld.PBQ_STATUS_ALARM : Fld := ⟨1, 1⟩
def Fld.PBQ_STATUS_FULL : Fld := ⟨2, 1⟩
def Fld.PBQ_STATUS_PRIMED : Fld := ⟨3, 1⟩
def Fld.PBQ_READY_COUNT : Fld := ⟨0, 32⟩
def Fld.PBQ_PACKED_COUNT : Fld := ⟨0, 64⟩
def Fld.PBQ_NEXT_POS_POSITION : Fld := ⟨0, 48⟩
def Fld.PBQ_ALARMS_COUNT : Fld := ⟨0, 32⟩
def Fld.PBQ_WINDOW_OCCUPIED : Fld := ⟨0, 13⟩
def Fld.PBQ_WINDOW_DEFERRED : Fld := ⟨13, 7⟩
def Fld.PBQ_JOB_DROPPED_COUNT : Fld := ⟨0, 64⟩
def Fld.PBQ_JOB_FILTERED_COUNT : Fld := ⟨0, 64⟩
def Fld.PBQ_JOB_DEFERRED_COUNT : Fld := ⟨0, 64⟩
def Fld.PBQ_JOB_PADDED_COUNT : Fld := ⟨0, 64⟩
def Fld.PBQ_JOB_STALLS_COUNT : Fld := ⟨0, 64⟩
def Fld.HEEL_DCLASS_CLASS : Fld := ⟨0, 32⟩
def Fld.HEEL_CAPS_SESSIONS : Fld := ⟨0, 4⟩
def Fld.HEEL_CTRL_ENABLE : Fld := ⟨0, 1⟩
def Fld.HEEL_CTRL_ROLE : Fld := ⟨1, 1⟩
def Fld.HEEL_CTRL_LINK : Fld := ⟨2, 1⟩
def Fld.HEEL_CTRL_STAGES : Fld := ⟨3, 1⟩
def Fld.HEEL_CTRL_GATE : Fld := ⟨4, 1⟩
def Fld.HEEL_CTRL_JOB : Fld := ⟨5, 6⟩
def Fld.HEEL_LINKSEL_CONTEXT : Fld := ⟨0, 16⟩
def Fld.HEEL_LINKSEL_PIN_OUT : Fld := ⟨16, 4⟩
def Fld.HEEL_LINKSEL_PIN_IN : Fld := ⟨20, 4⟩
def Fld.HEEL_TIMEOUT_MS : Fld := ⟨0, 16⟩
def Fld.HEEL_STATUS_STATE : Fld := ⟨0, 3⟩
def Fld.HEEL_STATUS_DIVERGED : Fld := ⟨3, 1⟩
def Fld.HEEL_STATUS_CODE : Fld := ⟨16, 16⟩
def Fld.HEEL_COMPARED_COUNT : Fld := ⟨0, 64⟩
def Fld.HEEL_BLOCKS_COUNT : Fld := ⟨0, 64⟩
def Fld.HEEL_UNCOMPARED_COUNT : Fld := ⟨0, 32⟩
def Fld.HEEL_PENDING_BATCH : Fld := ⟨0, 11⟩
def Fld.HEEL_PENDING_STAGE : Fld := ⟨16, 11⟩
def Fld.HEEL_DIV_INFO_KIND : Fld := ⟨0, 8⟩
def Fld.HEEL_DIV_INFO_STAGE : Fld := ⟨8, 16⟩
def Fld.HEEL_DIV_POSITION_POSITION : Fld := ⟨0, 48⟩
def Fld.HEEL_DIV_OFFSET_BYTE_OFFSET : Fld := ⟨0, 32⟩
def Fld.HEEL_DIV_EPOCH_EPOCH : Fld := ⟨0, 32⟩
def Fld.HEEL_DIV_BATCH_BATCH_INDEX : Fld := ⟨0, 64⟩
def Fld.HEEL_DIV_RANK_RANK : Fld := ⟨0, 16⟩
def Fld.HEEL_DIV_LOCAL_DIGEST : Fld := ⟨0, 32⟩
def Fld.HEEL_DIV_PEER_DIGEST : Fld := ⟨0, 32⟩
def Fld.PLT_CAPS_PORTS : Fld := ⟨0, 4⟩
def Fld.PLT_CAPS_ONCHIP : Fld := ⟨8, 13⟩
def Fld.PLT_SOURCE_ID_ID : Fld := ⟨0, 32⟩
def Fld.PLT_ETHERTYPE_TYPE : Fld := ⟨0, 16⟩
def Fld.PLT_UDP_PORT_PORT : Fld := ⟨0, 16⟩
def Fld.PLT_ACK_TC_TC : Fld := ⟨0, 3⟩
def Fld.PLT_CTX_ONCHIP_HELD : Fld := ⟨0, 13⟩
def Fld.PLT_CTX_ONCHIP_PINNED : Fld := ⟨16, 13⟩
def Fld.PLT_TIME_NS_NS : Fld := ⟨0, 32⟩
def Fld.PLT_TIME_SEC_SEC : Fld := ⟨0, 48⟩
def Fld.PLT_PTP_STATUS_STATE : Fld := ⟨0, 3⟩
def Fld.PLT_PTP_STATUS_LOST : Fld := ⟨3, 1⟩
def Fld.PLT_PTP_OFFSET_NS : Fld := ⟨0, 32⟩
def Fld.PLT_COUNTER_COUNT : Fld := ⟨0, 64⟩
def Fld.PLT_PORT_CFG_ENABLE : Fld := ⟨0, 1⟩
def Fld.PLT_PORT_CFG_SPLIT : Fld := ⟨1, 2⟩
def Fld.PLT_PORT_CFG_PAYLOAD : Fld := ⟨3, 2⟩
def Fld.PLT_PORT_STATUS_LINK : Fld := ⟨0, 4⟩
def Fld.PLT_PORT_STATUS_GATES : Fld := ⟨8, 8⟩
def Fld.PLT_PORT_STATUS_ENTRY : Fld := ⟨16, 10⟩
def Fld.PLT_MISSQ_DEPTH : Fld := ⟨0, 10⟩
def Fld.PLT_MISSQ_HIGH : Fld := ⟨16, 10⟩
def Fld.PLT_SHAPER_RATE_MBPS : Fld := ⟨0, 21⟩
def Fld.PLT_SHAPER_RATE_RESET_FULL : Fld := ⟨24, 1⟩
def Fld.PLT_SHAPER_BURST_BYTES : Fld := ⟨0, 32⟩
def Fld.PLT_SHAPER_TOKENS_BYTES : Fld := ⟨0, 32⟩
def Fld.PLT_JOB_BYTES_COUNT : Fld := ⟨0, 64⟩
def Fld.PLT_JOB_RETRIES_COUNT : Fld := ⟨0, 64⟩
def Fld.PLT_JOB_STALE_GEN_COUNT : Fld := ⟨0, 32⟩
def Fld.PLT_JOB_SHORT_CREDIT_COUNT : Fld := ⟨0, 32⟩
def Fld.PLT_JOB_CREDIT_DROP_COUNT : Fld := ⟨0, 32⟩
def Fld.DMA_CAPS_CHANNELS : Fld := ⟨0, 7⟩
def Fld.DMA_CH_CTRL_GO : Fld := ⟨0, 1⟩
def Fld.DMA_CH_CTRL_ABORT : Fld := ⟨1, 1⟩
def Fld.DMA_CH_CTRL_HOLD : Fld := ⟨2, 1⟩
def Fld.DMA_CH_CTRL_DESC_SPACE : Fld := ⟨3, 1⟩
def Fld.DMA_CH_LEASH_SHARE : Fld := ⟨0, 9⟩
def Fld.DMA_CH_DESC_ADDR : Fld := ⟨0, 64⟩
def Fld.DMA_CH_WB_ADDR_ADDR : Fld := ⟨0, 64⟩
def Fld.DMA_CH_STATUS_STATE : Fld := ⟨0, 2⟩
def Fld.DMA_CH_STATUS_DONE : Fld := ⟨2, 1⟩
def Fld.DMA_CH_STATUS_ERR : Fld := ⟨3, 1⟩
def Fld.DMA_CH_STATUS_CODE : Fld := ⟨16, 16⟩
def Fld.DMA_CH_CUR_DESC_ADDR : Fld := ⟨0, 64⟩
def Fld.DMA_CH_RESIDUE_BYTES : Fld := ⟨0, 64⟩
def Fld.DMA_CH_BYTES_COUNT : Fld := ⟨0, 64⟩
def Fld.POOL_CAPS_POOLS : Fld := ⟨0, 7⟩
def Fld.POOL_CAPS_SRAM_KIB : Fld := ⟨8, 15⟩
def Fld.POOL_CFG_VALID : Fld := ⟨0, 1⟩
def Fld.POOL_CFG_MEMORY : Fld := ⟨1, 1⟩
def Fld.POOL_CFG_HEDGE : Fld := ⟨2, 4⟩
def Fld.POOL_BUF_SIZE_BYTES : Fld := ⟨0, 32⟩
def Fld.POOL_BUFFERS_COUNT : Fld := ⟨0, 27⟩
def Fld.POOL_FREE_COUNT : Fld := ⟨0, 27⟩
def Fld.POOL_STATUS_LEVEL : Fld := ⟨0, 2⟩
def Fld.POOL_STATUS_ERR : Fld := ⟨2, 1⟩
def Fld.POOL_STATUS_EMPTY : Fld := ⟨3, 1⟩
def Fld.POOL_MIN_FREE_COUNT : Fld := ⟨0, 27⟩
def Fld.POOL_WAITS_COUNT : Fld := ⟨0, 64⟩
def Fld.POOL_ERRORS_COUNT : Fld := ⟨0, 32⟩
def Fld.POOL_ERR_HANDLE_HANDLE : Fld := ⟨0, 32⟩
def Fld.POOL_ERR_INFO_STAGE : Fld := ⟨0, 16⟩
def Fld.POOL_ERR_INFO_CODE : Fld := ⟨16, 16⟩
def Fld.CHK_CAPS_UNITS : Fld := ⟨0, 5⟩
def Fld.CHK_CFG_POLY : Fld := ⟨0, 2⟩
def Fld.CHK_CFG_MODE : Fld := ⟨2, 2⟩
def Fld.CHK_CFG_KIND : Fld := ⟨4, 2⟩
def Fld.CHK_CFG_DIR : Fld := ⟨6, 1⟩
def Fld.CHK_CFG_INDEX : Fld := ⟨8, 6⟩
def Fld.CHK_CFG_RECORD_LOG2 : Fld := ⟨16, 5⟩
def Fld.CHK_FILTER_MATCH : Fld := ⟨0, 16⟩
def Fld.CHK_FILTER_EN : Fld := ⟨16, 1⟩
def Fld.CHK_CTRL_ENABLE : Fld := ⟨0, 1⟩
def Fld.CHK_CTRL_PAUSE : Fld := ⟨1, 1⟩
def Fld.CHK_CTRL_HOLD : Fld := ⟨2, 1⟩
def Fld.CHK_CTRL_PAUSED : Fld := ⟨3, 1⟩
def Fld.CHK_CTRL_CODE : Fld := ⟨16, 16⟩
def Fld.CHK_RUNNING_VALUE : Fld := ⟨0, 64⟩
def Fld.CHK_BYTES_COUNT : Fld := ⟨0, 64⟩
def Fld.CHK_RESULT_VALUE : Fld := ⟨0, 64⟩
def Fld.CHK_MISMATCH_COUNT : Fld := ⟨0, 32⟩
def Fld.CHK_MISMATCH_AT_OFFSET : Fld := ⟨0, 64⟩
def Fld.BRI_CAPS_DECOMP : Fld := ⟨0, 8⟩
def Fld.BRI_CAPS_COMP : Fld := ⟨8, 8⟩
def Fld.BRI_STORED_BLOCKS_COUNT : Fld := ⟨0, 64⟩
def Fld.BRI_ENG_CTRL_GO : Fld := ⟨0, 1⟩
def Fld.BRI_ENG_CTRL_ABORT : Fld := ⟨1, 1⟩
def Fld.BRI_ENG_CTRL_HOLD : Fld := ⟨2, 1⟩
def Fld.BRI_ENG_DESC_ADDR : Fld := ⟨0, 64⟩
def Fld.BRI_ENG_WB_ADDR_ADDR : Fld := ⟨0, 64⟩
def Fld.BRI_ENG_STATUS_STATE : Fld := ⟨0, 2⟩
def Fld.BRI_ENG_STATUS_DONE : Fld := ⟨2, 1⟩
def Fld.BRI_ENG_STATUS_ERR : Fld := ⟨3, 1⟩
def Fld.BRI_ENG_STATUS_BOUND : Fld := ⟨4, 1⟩
def Fld.BRI_ENG_STATUS_OPEN : Fld := ⟨5, 1⟩
def Fld.BRI_ENG_STATUS_CODE : Fld := ⟨16, 16⟩
def Fld.BRI_ENG_CONSUMED_COUNT : Fld := ⟨0, 64⟩
def Fld.BRI_ENG_PRODUCED_COUNT : Fld := ⟨0, 64⟩
def Fld.BRI_ENG_ERR_BIT_OFFSET : Fld := ⟨0, 64⟩
def Fld.BRI_ENG_VERIFY_FAIL_COUNT : Fld := ⟨0, 32⟩
def Fld.TRS_OPCODE_OPCODE : Fld := ⟨0, 8⟩
def Fld.TRS_NSID_NSID : Fld := ⟨0, 32⟩
def Fld.TRS_LBA_LBA : Fld := ⟨0, 64⟩
def Fld.TRS_COUNT_COUNT : Fld := ⟨0, 32⟩
def Fld.TRS_HOST_ADDR_ADDR : Fld := ⟨0, 64⟩
def Fld.TRS_CTRL_GO : Fld := ⟨0, 1⟩
def Fld.TRS_CTRL_IRQ : Fld := ⟨1, 1⟩
def Fld.TRS_STATUS_STATE : Fld := ⟨0, 2⟩
def Fld.TRS_STATUS_CODE : Fld := ⟨16, 16⟩
def Fld.TRS_STATUS_DONE_COUNT : Fld := ⟨32, 32⟩
def Fld.TRS_SEQ_SEQ : Fld := ⟨0, 64⟩
def Fld.TRS_CAPS_SETS : Fld := ⟨0, 9⟩
def Fld.TRS_RESET_GO : Fld := ⟨0, 1⟩
def Fld.TRS_RESET_BUSY : Fld := ⟨1, 1⟩
def Fld.TRS_NEXT_SEQ_SEQ : Fld := ⟨0, 64⟩
def Fld.TRS_OUTSTANDING_COMMANDS : Fld := ⟨0, 9⟩
def Fld.TRS_OUTSTANDING_NAND_OPS : Fld := ⟨16, 15⟩
def Fld.TRS_DONE_DONE : Fld := ⟨0, 32⟩
def Fld.FTL_CAPACITY_UNITS : Fld := ⟨0, 64⟩
def Fld.FTL_PHYS_UNITS_UNITS : Fld := ⟨0, 64⟩
def Fld.FTL_SPARE_NOW : Fld := ⟨0, 32⟩
def Fld.FTL_SPARE_INITIAL : Fld := ⟨32, 32⟩
def Fld.FTL_STATE_REPLAYED : Fld := ⟨0, 1⟩
def Fld.FTL_STATE_CKPT_BUSY : Fld := ⟨1, 1⟩
def Fld.FTL_STATE_GC_ACTIVE : Fld := ⟨2, 1⟩
def Fld.FTL_STATE_THROTTLED : Fld := ⟨3, 1⟩
def Fld.FTL_CKPT_PSEQ_PSEQ : Fld := ⟨0, 64⟩
def Fld.FTL_GC_WEIGHTS_W_INVALID : Fld := ⟨0, 16⟩
def Fld.FTL_GC_WEIGHTS_W_AGE : Fld := ⟨16, 16⟩
def Fld.FTL_GC_WEIGHTS_W_ERASE : Fld := ⟨32, 16⟩
def Fld.FTL_GC_WEIGHTS_FROM_IMAGE : Fld := ⟨48, 1⟩
def Fld.FTL_HEALTH_SNAP_SNAP : Fld := ⟨0, 1⟩
def Fld.FTL_EVENT_SPARE_LOW : Fld := ⟨0, 1⟩
def Fld.FTL_EVENT_READ_ONLY : Fld := ⟨1, 1⟩
def Fld.FTL_EVENT_SWEEP_DONE : Fld := ⟨2, 1⟩
def Fld.FTL_NS_STATE_PRESENT : Fld := ⟨0, 1⟩
def Fld.FTL_NS_STATE_ENCRYPT : Fld := ⟨1, 1⟩
def Fld.FTL_NS_STATE_READ_ONLY : Fld := ⟨2, 1⟩
def Fld.FTL_NS_STATE_HEDGE : Fld := ⟨3, 4⟩
def Fld.FTL_NS_SIZE_UNITS : Fld := ⟨0, 64⟩
def Fld.FTL_NS_USED_UNITS : Fld := ⟨0, 64⟩
def Fld.FTL_NS_KEY_GEN : Fld := ⟨0, 16⟩
def Fld.FTL_NS_KEY_STATE : Fld := ⟨16, 2⟩
def Fld.FTL_NS_KEY_SWEEP : Fld := ⟨18, 1⟩
def Fld.FTL_NS_KEY_PAGES_UNITS : Fld := ⟨0, 64⟩
def Fld.FTL_JOB_STORE_LBA_LBA : Fld := ⟨0, 64⟩
def Fld.FLT_CTRL_ENABLE : Fld := ⟨0, 1⟩
def Fld.FLT_CTRL_ROLE : Fld := ⟨1, 3⟩
def Fld.FLT_CTRL_JOB : Fld := ⟨4, 6⟩
def Fld.FLT_CONTEXT_CONTEXT : Fld := ⟨0, 16⟩
def Fld.FLT_ROSTER_ADDR_ADDR : Fld := ⟨0, 64⟩
def Fld.FLT_ROSTER_LEN_BYTES : Fld := ⟨0, 32⟩
def Fld.FLT_STATUS_STATE : Fld := ⟨0, 3⟩
def Fld.FLT_STATUS_ROLE : Fld := ⟨3, 3⟩
def Fld.FLT_STATUS_SUSPECT : Fld := ⟨6, 1⟩
def Fld.FLT_STATUS_CHANGED : Fld := ⟨7, 1⟩
def Fld.FLT_STATUS_CODE : Fld := ⟨16, 16⟩
def Fld.FLT_INDEX_INDEX : Fld := ⟨0, 13⟩
def Fld.FLT_INDEX_BUDDY : Fld := ⟨16, 13⟩
def Fld.FLT_ROLE_EPOCH_EPOCH : Fld := ⟨0, 32⟩
def Fld.FLT_ROSTER_EPOCH_EPOCH : Fld := ⟨0, 32⟩
def Fld.FLT_MANAGER_NODE : Fld := ⟨0, 32⟩
def Fld.FLT_BARRIER_BARRIER : Fld := ⟨0, 64⟩
def Fld.FLT_ARRIVED_BARRIER : Fld := ⟨0, 64⟩
def Fld.FLT_RANKS_HELD : Fld := ⟨0, 9⟩
def Fld.FLT_LAST_ARRIVALS_COUNT : Fld := ⟨0, 7⟩
def Fld.FLT_REPLACED_COUNT : Fld := ⟨0, 32⟩
def Fld.FLT_RECOMPUTED_COUNT : Fld := ⟨0, 64⟩
def Fld.FLT_MGR_LIVE_WORKERS : Fld := ⟨0, 13⟩
def Fld.FLT_MGR_LIVE_SPARES : Fld := ⟨16, 9⟩
def Fld.FLT_MGR_SUSPECTS_COUNT : Fld := ⟨0, 13⟩
def Fld.FLT_TAKEOVERS_COUNT : Fld := ⟨0, 32⟩
def Fld.SEC_CAPS_KEYS : Fld := ⟨0, 14⟩
def Fld.SEC_CAPS_HEDGES : Fld := ⟨16, 5⟩
def Fld.SEC_CONF_CONF : Fld := ⟨0, 16⟩
def Fld.SEC_CONF_PRESENT : Fld := ⟨16, 16⟩
def Fld.SEC_DEBUG_LOCKED : Fld := ⟨0, 1⟩
def Fld.SEC_DEBUG_SEEN : Fld := ⟨1, 1⟩
def Fld.SEC_DEBUG_DENIED : Fld := ⟨16, 16⟩
def Fld.SEC_KEYS_USED : Fld := ⟨0, 14⟩
def Fld.SEC_DEVICE_ID_ID : Fld := ⟨0, 32⟩
def Fld.SEC_MEAS_DIGEST : Fld := ⟨0, 32⟩
def Fld.SEC_OWNER_DIGEST : Fld := ⟨0, 32⟩
def Fld.SEC_CMD_COUNTER_COUNTER : Fld := ⟨0, 64⟩
def Fld.SHD_BOOT_STAGE : Fld := ⟨0, 4⟩
def Fld.SHD_BOOT_FAIL_STAGE : Fld := ⟨4, 4⟩
def Fld.SHD_BOOT_REASON : Fld := ⟨8, 8⟩
def Fld.SHD_BOOT_FAILS : Fld := ⟨16, 2⟩
def Fld.SHD_BOOT_FALLBACK : Fld := ⟨18, 1⟩
def Fld.SHD_BOOT_SLOT : Fld := ⟨19, 1⟩
def Fld.SHD_RESET_CAUSE_TYPE : Fld := ⟨0, 3⟩
def Fld.SHD_ALARM_WARN : Fld := ⟨0, 1⟩
def Fld.SHD_ALARM_THERMAL : Fld := ⟨1, 1⟩
def Fld.SHD_ALARM_CAP : Fld := ⟨2, 1⟩
def Fld.SHD_ALARM_DROOP : Fld := ⟨3, 1⟩
def Fld.SHD_ALARM_SENSOR : Fld := ⟨4, 1⟩
def Fld.SHD_BOOT_DETAIL_DETAIL : Fld := ⟨0, 32⟩
def Fld.SHD_TIMER_STATUS_COUNT : Fld := ⟨0, 48⟩
def Fld.SHD_TIMER_STATUS_OWNER : Fld := ⟨48, 8⟩
def Fld.SHD_TIMER_STATUS_RUNNING : Fld := ⟨56, 1⟩
def Fld.SHD_MBX_CTRL_GO : Fld := ⟨0, 1⟩
def Fld.SHD_MBX_CTRL_LEN : Fld := ⟨12, 20⟩
def Fld.SHD_MBX_STATUS_BUSY : Fld := ⟨0, 1⟩
def Fld.SHD_MBX_STATUS_DONE : Fld := ⟨1, 1⟩
def Fld.SHD_MBX_STATUS_CODE : Fld := ⟨16, 16⟩
def Fld.SHD_MBX_REQ_DATA : Fld := ⟨0, 32⟩
def Fld.SHD_MBX_RESP_DATA : Fld := ⟨0, 32⟩
def Fld.PWR_CAP_WATTS : Fld := ⟨0, 16⟩
def Fld.PWR_PLAN_STEP : Fld := ⟨0, 5⟩
def Fld.PWR_PLAN_MAX : Fld := ⟨5, 5⟩
def Fld.PWR_PLAN_CAP : Fld := ⟨10, 5⟩
def Fld.PWR_PLAN_THERMAL : Fld := ⟨15, 5⟩
def Fld.PWR_PLAN_DROOP : Fld := ⟨20, 5⟩
def Fld.PWR_POWER_MW : Fld := ⟨0, 32⟩
def Fld.PWR_TEMP_MAX_CENTI_C : Fld := ⟨0, 16⟩
def Fld.PWR_TEMP_MAX_SITE : Fld := ⟨16, 6⟩
def Fld.PWR_DROOP_MV : Fld := ⟨0, 12⟩
def Fld.PWR_DOMAINS_ON : Fld := ⟨0, 20⟩
def Fld.PWR_TEMP_SITE_CENTI_C : Fld := ⟨0, 16⟩
def Fld.PWR_TEMP_SITE_EXCLUDED : Fld := ⟨16, 1⟩
def Fld.PWR_UNATTRIBUTED_UJ : Fld := ⟨0, 64⟩
def Fld.PWR_JOB_ENERGY_UJ : Fld := ⟨0, 64⟩
def Fld.GLB_STRAPS_SPI_QUAD : Fld := ⟨0, 1⟩
def Fld.GLB_STRAPS_SMB_ADDR : Fld := ⟨1, 2⟩
def Fld.GLB_STRAPS_SRIS : Fld := ⟨3, 1⟩
def Fld.GLB_STRAPS_JTAG_EN : Fld := ⟨4, 1⟩

/-- Registers of the GLB block. -/
def regsGLB : List RegDesc := [
  ⟨0x0, [], false, 0x818, [⟨⟨0, 16⟩, .ro⟩, ⟨⟨16, 8⟩, .ro⟩, ⟨⟨24, 4⟩, .ro⟩]⟩,
  ⟨0x4, [], false, 0xb0, [⟨⟨0, 4⟩, .ro⟩, ⟨⟨4, 4⟩, .ro⟩]⟩,
  ⟨0x8, [], false, 0x0, [⟨⟨0, 10⟩, .ro⟩, ⟨⟨10, 10⟩, .ro⟩]⟩,
  ⟨0x100, [(0x4, 32)], false, 0x0, [⟨⟨0, 32⟩, .ro⟩]⟩,
  ⟨0x200, [], false, 0x0, [⟨⟨0, 1⟩, .ro⟩, ⟨⟨1, 2⟩, .ro⟩, ⟨⟨3, 1⟩, .ro⟩, ⟨⟨4, 1⟩, .ro⟩]⟩]

/-- Registers of the ENL block. -/
def regsENL : List RegDesc := [
  ⟨0x200000, [], true, 0x0, [⟨⟨6, 58⟩, .rw⟩]⟩,
  ⟨0x200008, [], true, 0x0, [⟨⟨0, 64⟩, .rw⟩]⟩,
  ⟨0x200010, [], false, 0x0, [⟨⟨0, 1⟩, .wo⟩, ⟨⟨1, 2⟩, .rw⟩, ⟨⟨4, 4⟩, .rw⟩]⟩,
  ⟨0x200014, [], false, 0x0, [⟨⟨0, 1⟩, .ro⟩, ⟨⟨1, 1⟩, .w1c⟩, ⟨⟨2, 1⟩, .w1c⟩, ⟨⟨8, 8⟩, .ro⟩, ⟨⟨16, 4⟩, .ro⟩]⟩,
  ⟨0x200018, [], false, 0xff0000, [⟨⟨0, 8⟩, .ro⟩, ⟨⟨8, 8⟩, .ro⟩, ⟨⟨16, 8⟩, .ro⟩]⟩,
  ⟨0x20001c, [], false, 0x0, [⟨⟨0, 32⟩, .ro⟩]⟩,
  ⟨0x200200, [(0x20, 16), (0x4, 8)], false, 0x0, [⟨⟨0, 32⟩, .ro⟩]⟩,
  ⟨0x201000, [(0x20, 64)], true, 0x0, [⟨⟨6, 58⟩, .rw⟩]⟩,
  ⟨0x201008, [(0x20, 64)], false, 0x0, [⟨⟨0, 3⟩, .wo⟩]⟩,
  ⟨0x20100c, [(0x20, 64)], false, 0x0, [⟨⟨0, 4⟩, .ro⟩, ⟨⟨16, 16⟩, .ro⟩]⟩,
  ⟨0x201010, [(0x20, 64)], false, 0x0, [⟨⟨0, 32⟩, .ro⟩]⟩,
  ⟨0x201018, [(0x20, 64)], true, 0x0, [⟨⟨0, 64⟩, .ro⟩]⟩]

/-- Registers of the DEC block. -/
def regsDEC : List RegDesc := [
  ⟨0x1800000, [], false, 0x20401080, [⟨⟨0, 8⟩, .ro⟩, ⟨⟨8, 8⟩, .ro⟩, ⟨⟨16, 8⟩, .ro⟩, ⟨⟨24, 8⟩, .ro⟩]⟩,
  ⟨0x1801000, [(0x40, 64)], true, 0x0, [⟨⟨12, 52⟩, .rw⟩]⟩,
  ⟨0x1801008, [(0x40, 64)], false, 0x6, [⟨⟨0, 5⟩, .rw⟩]⟩,
  ⟨0x180100c, [(0x40, 64)], false, 0x0, [⟨⟨0, 32⟩, .ro⟩]⟩,
  ⟨0x1801010, [(0x40, 64)], false, 0x0, [⟨⟨0, 32⟩, .rw⟩]⟩,
  ⟨0x1801014, [(0x40, 64)], false, 0x0, [⟨⟨0, 32⟩, .ro⟩]⟩,
  ⟨0x1801018, [(0x40, 64)], true, 0x0, [⟨⟨0, 64⟩, .ro⟩]⟩,
  ⟨0x1801020, [(0x40, 64)], true, 0x0, [⟨⟨0, 64⟩, .ro⟩]⟩,
  ⟨0x1801028, [(0x40, 64)], false, 0x0, [⟨⟨0, 32⟩, .ro⟩]⟩,
  ⟨0x180102c, [(0x40, 64)], false, 0x0, [⟨⟨0, 32⟩, .ro⟩]⟩]

/-- Registers of the TOK block. -/
def regsTOK : List RegDesc := [
  ⟨0x1400000, [], false, 0x2040, [⟨⟨0, 8⟩, .ro⟩, ⟨⟨8, 8⟩, .ro⟩]⟩,
  ⟨0x1400008, [], true, 0x0, [⟨⟨0, 64⟩, .ro⟩]⟩,
  ⟨0x1400010, [], true, 0x0, [⟨⟨0, 64⟩, .ro⟩]⟩,
  ⟨0x1400018, [], false, 0x0, [⟨⟨0, 15⟩, .ro⟩]⟩,
  ⟨0x1401000, [(0x40, 64)], true, 0x0, [⟨⟨0, 64⟩, .ro⟩]⟩,
  ⟨0x1401008, [(0x40, 64)], true, 0x0, [⟨⟨0, 64⟩, .ro⟩]⟩,
  ⟨0x1401010, [(0x40, 64)], true, 0x0, [⟨⟨0, 64⟩, .ro⟩]⟩,
  ⟨0x1401018, [(0x40, 64)], false, 0x0, [⟨⟨0, 32⟩, .ro⟩]⟩,
  ⟨0x140101c, [(0x40, 64)], false, 0x0, [⟨⟨0, 32⟩, .ro⟩]⟩,
  ⟨0x1401020, [(0x40, 64)], true, 0x0, [⟨⟨0, 64⟩, .ro⟩]⟩,
  ⟨0x1401028, [(0x40, 64)], true, 0x0, [⟨⟨0, 64⟩, .ro⟩]⟩,
  ⟨0x1401030, [(0x40, 64)], false, 0x0, [⟨⟨0, 32⟩, .ro⟩]⟩,
  ⟨0x1401034, [(0x40, 64)], false, 0x0, [⟨⟨0, 32⟩, .ro⟩]⟩]

/-- Registers of the PBQ block. -/
def regsPBQ : List RegDesc := [
  ⟨0x800000, [], false, 0x400, [⟨⟨0, 11⟩, .ro⟩]⟩,
  ⟨0x800004, [], false, 0x400, [⟨⟨0, 11⟩, .ro⟩]⟩,
  ⟨0x801000, [(0x40, 1024)], false, 0x0, [⟨⟨0, 6⟩, .ro⟩, ⟨⟨7, 1⟩, .ro⟩, ⟨⟨16, 16⟩, .ro⟩]⟩,
  ⟨0x801004, [(0x40, 1024)], false, 0x0, [⟨⟨0, 15⟩, .rw⟩]⟩,
  ⟨0x801008, [(0x40, 1024)], true, 0x0, [⟨⟨0, 64⟩, .ro⟩]⟩,
  ⟨0x801010, [(0x40, 1024)], false, 0x0, [⟨⟨0, 32⟩, .ro⟩]⟩,
  ⟨0x801014, [(0x40, 1024)], false, 0x0, [⟨⟨0, 16⟩, .rw⟩]⟩,
  ⟨0x801018, [(0x40, 1024)], false, 0x0, [⟨⟨0, 1⟩, .ro⟩, ⟨⟨1, 1⟩, .w1c⟩, ⟨⟨2, 1⟩, .ro⟩, ⟨⟨3, 1⟩, .ro⟩]⟩,
  ⟨0x80101c, [(0x40, 1024)], false, 0x0, [⟨⟨0, 32⟩, .ro⟩]⟩,
  ⟨0x801020, [(0x40, 1024)], true, 0x0, [⟨⟨0, 64⟩, .ro⟩]⟩,
  ⟨0x801028, [(0x40, 1024)], true, 0x0, [⟨⟨0, 48⟩, .ro⟩]⟩,
  ⟨0x801030, [(0x40, 1024)], false, 0x0, [⟨⟨0, 32⟩, .ro⟩]⟩,
  ⟨0x801034, [(0x40, 1024)], false, 0x0, [⟨⟨0, 13⟩, .ro⟩, ⟨⟨13, 7⟩, .ro⟩]⟩,
  ⟨0x820000, [(0x40, 64)], true, 0x0, [⟨⟨0, 64⟩, .ro⟩]⟩,
  ⟨0x820008, [(0x40, 64)], true, 0x0, [⟨⟨0, 64⟩, .ro⟩]⟩,
  ⟨0x820010, [(0x40, 64)], true, 0x0, [⟨⟨0, 64⟩, .ro⟩]⟩,
  ⟨0x820018, [(0x40, 64)], true, 0x0, [⟨⟨0, 64⟩, .ro⟩]⟩,
  ⟨0x820020, [(0x40, 64)], true, 0x0, [⟨⟨0, 64⟩, .ro⟩]⟩]

/-- Registers of the HEEL block. -/
def regsHEEL : List RegDesc := [
  ⟨0x2800000, [], false, 0x0, [⟨⟨0, 32⟩, .ro⟩]⟩,
  ⟨0x2800004, [], false, 0x4, [⟨⟨0, 4⟩, .ro⟩]⟩,
  ⟨0x2801000, [(0x100, 4)], false, 0x0, [⟨⟨0, 1⟩, .rw⟩, ⟨⟨1, 1⟩, .rw⟩, ⟨⟨2, 1⟩, .rw⟩, ⟨⟨3, 1⟩, .rw⟩, ⟨⟨4, 1⟩, .rw⟩, ⟨⟨5, 6⟩, .rw⟩]⟩,
  ⟨0x2801004, [(0x100, 4)], false, 0x0, [⟨⟨0, 16⟩, .rw⟩, ⟨⟨16, 4⟩, .rw⟩, ⟨⟨20, 4⟩, .rw⟩]⟩,
  ⟨0x2801008, [(0x100, 4)], false, 0x7d0, [⟨⟨0, 16⟩, .rw⟩]⟩,
  ⟨0x280100c, [(0x100, 4)], false, 0x0, [⟨⟨0, 3⟩, .ro⟩, ⟨⟨3, 1⟩, .w1c⟩, ⟨⟨16, 16⟩, .ro⟩]⟩,
  ⟨0x2801010, [(0x100, 4)], true, 0x0, [⟨⟨0, 64⟩, .ro⟩]⟩,
  ⟨0x2801018, [(0x100, 4)], true, 0x0, [⟨⟨0, 64⟩, .ro⟩]⟩,
  ⟨0x2801020, [(0x100, 4)], false, 0x0, [⟨⟨0, 32⟩, .ro⟩]⟩,
  ⟨0x2801024, [(0x100, 4)], false, 0x0, [⟨⟨0, 11⟩, .ro⟩, ⟨⟨16, 11⟩, .ro⟩]⟩,
  ⟨0x2801028, [(0x100, 4)], false, 0xffff00, [⟨⟨0, 8⟩, .ro⟩, ⟨⟨8, 16⟩, .ro⟩]⟩,
  ⟨0x2801030, [(0x100, 4)], true, 0x0, [⟨⟨0, 48⟩, .ro⟩]⟩,
  ⟨0x2801038, [(0x100, 4)], false, 0xffffffff, [⟨⟨0, 32⟩, .ro⟩]⟩,
  ⟨0x280103c, [(0x100, 4)], false, 0x0, [⟨⟨0, 32⟩, .ro⟩]⟩,
  ⟨0x2801040, [(0x100, 4)], true, 0x0, [⟨⟨0, 64⟩, .ro⟩]⟩,
  ⟨0x2801048, [(0x100, 4)], false, 0x0, [⟨⟨0, 16⟩, .ro⟩]⟩,
  ⟨0x2801080, [(0x100, 4), (0x4, 8)], false, 0x0, [⟨⟨0, 32⟩, .ro⟩]⟩,
  ⟨0x28010a0, [(0x100, 4), (0x4, 8)], false, 0x0, [⟨⟨0, 32⟩, .ro⟩]⟩]

/-- Registers of the PLT block. -/
def regsPLT : List RegDesc := [
  ⟨0x1000000, [], false, 0x100005, [⟨⟨0, 4⟩, .ro⟩, ⟨⟨8, 13⟩, .ro⟩]⟩,
  ⟨0x1000004, [], false, 0x0, [⟨⟨0, 32⟩, .rw⟩]⟩,
  ⟨0x1000008, [], false, 0x88b5, [⟨⟨0, 16⟩, .rw⟩]⟩,
  ⟨0x100000c, [], false, 0xc350, [⟨⟨0, 16⟩, .rw⟩]⟩,
  ⟨0x1000010, [], false, 0x7, [⟨⟨0, 3⟩, .rw⟩]⟩,
  ⟨0x1000014, [], false, 0x0, [⟨⟨0, 13⟩, .ro⟩, ⟨⟨16, 13⟩, .ro⟩]⟩,
  ⟨0x1000020, [], false, 0x0, [⟨⟨0, 32⟩, .ro⟩]⟩,
  ⟨0x1000028, [], true, 0x0, [⟨⟨0, 48⟩, .ro⟩]⟩,
  ⟨0x1000030, [], false, 0x0, [⟨⟨0, 3⟩, .ro⟩, ⟨⟨3, 1⟩, .w1c⟩]⟩,
  ⟨0x1000034, [], false, 0x0, [⟨⟨0, 32⟩, .ro⟩]⟩,
  ⟨0x1000040, [(0x8, 7)], true, 0x0, [⟨⟨0, 64⟩, .ro⟩]⟩,
  ⟨0x1000100, [(0x40, 5)], false, 0x10, [⟨⟨0, 1⟩, .rw⟩, ⟨⟨1, 2⟩, .rw⟩, ⟨⟨3, 2⟩, .rw⟩]⟩,
  ⟨0x1000104, [(0x40, 5)], false, 0xff00, [⟨⟨0, 4⟩, .ro⟩, ⟨⟨8, 8⟩, .ro⟩, ⟨⟨16, 10⟩, .ro⟩]⟩,
  ⟨0x1000108, [(0x40, 5)], false, 0x0, [⟨⟨0, 10⟩, .ro⟩, ⟨⟨16, 10⟩, .ro⟩]⟩,
  ⟨0x1000400, [(0x200, 5), (0x80, 4), (0x10, 8)], false, 0x1000000, [⟨⟨0, 21⟩, .rw⟩, ⟨⟨24, 1⟩, .rw⟩]⟩,
  ⟨0x1000404, [(0x200, 5), (0x80, 4), (0x10, 8)], false, 0x10000, [⟨⟨0, 32⟩, .rw⟩]⟩,
  ⟨0x1000408, [(0x200, 5), (0x80, 4), (0x10, 8)], false, 0x10000, [⟨⟨0, 32⟩, .ro⟩]⟩,
  ⟨0x1010000, [(0x40, 64)], true, 0x0, [⟨⟨0, 64⟩, .ro⟩]⟩,
  ⟨0x1010008, [(0x40, 64)], true, 0x0, [⟨⟨0, 64⟩, .ro⟩]⟩,
  ⟨0x1010010, [(0x40, 64)], false, 0x0, [⟨⟨0, 32⟩, .ro⟩]⟩,
  ⟨0x1010014, [(0x40, 64)], false, 0x0, [⟨⟨0, 32⟩, .ro⟩]⟩,
  ⟨0x1010018, [(0x40, 64)], false, 0x0, [⟨⟨0, 32⟩, .ro⟩]⟩]

/-- Registers of the DMA block. -/
def regsDMA : List RegDesc := [
  ⟨0xa00000, [], false, 0x40, [⟨⟨0, 7⟩, .ro⟩]⟩,
  ⟨0xa01000, [(0x40, 64)], false, 0x0, [⟨⟨0, 1⟩, .wo⟩, ⟨⟨1, 1⟩, .wo⟩, ⟨⟨2, 1⟩, .rw⟩, ⟨⟨3, 1⟩, .rw⟩]⟩,
  ⟨0xa01004, [(0x40, 64)], false, 0x100, [⟨⟨0, 9⟩, .rw⟩]⟩,
  ⟨0xa01008, [(0x40, 64)], true, 0x0, [⟨⟨6, 58⟩, .rw⟩]⟩,
  ⟨0xa01010, [(0x40, 64)], true, 0x0, [⟨⟨5, 59⟩, .rw⟩]⟩,
  ⟨0xa01018, [(0x40, 64)], false, 0x0, [⟨⟨0, 2⟩, .ro⟩, ⟨⟨2, 1⟩, .w1c⟩, ⟨⟨3, 1⟩, .w1c⟩, ⟨⟨16, 16⟩, .ro⟩]⟩,
  ⟨0xa01020, [(0x40, 64)], true, 0x0, [⟨⟨0, 64⟩, .ro⟩]⟩,
  ⟨0xa01028, [(0x40, 64)], true, 0x0, [⟨⟨0, 64⟩, .ro⟩]⟩,
  ⟨0xa01030, [(0x40, 64)], true, 0x0, [⟨⟨0, 64⟩, .ro⟩]⟩]

/-- Registers of the POOL block. -/
def regsPOOL : List RegDesc := [
  ⟨0xc00000, [], false, 0x500040, [⟨⟨0, 7⟩, .ro⟩, ⟨⟨8, 15⟩, .ro⟩]⟩,
  ⟨0xc01000, [(0x40, 64)], false, 0x0, [⟨⟨0, 1⟩, .ro⟩, ⟨⟨1, 1⟩, .ro⟩, ⟨⟨2, 4⟩, .ro⟩]⟩,
  ⟨0xc01004, [(0x40, 64)], false, 0x0, [⟨⟨0, 32⟩, .ro⟩]⟩,
  ⟨0xc01008, [(0x40, 64)], false, 0x0, [⟨⟨0, 27⟩, .ro⟩]⟩,
  ⟨0xc0100c, [(0x40, 64)], false, 0x0, [⟨⟨0, 27⟩, .ro⟩]⟩,
  ⟨0xc01010, [(0x40, 64)], false, 0x0, [⟨⟨0, 2⟩, .ro⟩, ⟨⟨2, 1⟩, .w1c⟩, ⟨⟨3, 1⟩, .ro⟩]⟩,
  ⟨0xc01014, [(0x40, 64)], false, 0x7ffffff, [⟨⟨0, 27⟩, .ro⟩]⟩,
  ⟨0xc01018, [(0x40, 64)], true, 0x0, [⟨⟨0, 64⟩, .ro⟩]⟩,
  ⟨0xc01020, [(0x40, 64)], false, 0x0, [⟨⟨0, 32⟩, .ro⟩]⟩,
  ⟨0xc01024, [(0x40, 64)], false, 0x0, [⟨⟨0, 32⟩, .ro⟩]⟩,
  ⟨0xc01028, [(0x40, 64)], false, 0xffff, [⟨⟨0, 16⟩, .ro⟩, ⟨⟨16, 16⟩, .ro⟩]⟩]

/-- Registers of the CHK block. -/
def regsCHK : List RegDesc := [
  ⟨0xd00000, [], false, 0x10, [⟨⟨0, 5⟩, .ro⟩]⟩,
  ⟨0xd01000, [(0x40, 16)], false, 0x0, [⟨⟨0, 2⟩, .rw⟩, ⟨⟨2, 2⟩, .rw⟩, ⟨⟨4, 2⟩, .rw⟩, ⟨⟨6, 1⟩, .rw⟩, ⟨⟨8, 6⟩, .rw⟩, ⟨⟨16, 5⟩, .rw⟩]⟩,
  ⟨0xd01004, [(0x40, 16)], false, 0x0, [⟨⟨0, 16⟩, .rw⟩, ⟨⟨16, 1⟩, .rw⟩]⟩,
  ⟨0xd01008, [(0x40, 16)], false, 0x0, [⟨⟨0, 1⟩, .rw⟩, ⟨⟨1, 1⟩, .rw⟩, ⟨⟨2, 1⟩, .rw⟩, ⟨⟨3, 1⟩, .ro⟩, ⟨⟨16, 16⟩, .ro⟩]⟩,
  ⟨0xd01010, [(0x40, 16)], true, 0x0, [⟨⟨0, 64⟩, .rw⟩]⟩,
  ⟨0xd01018, [(0x40, 16)], true, 0x0, [⟨⟨0, 64⟩, .rw⟩]⟩,
  ⟨0xd01020, [(0x40, 16)], true, 0x0, [⟨⟨0, 64⟩, .ro⟩]⟩,
  ⟨0xd01028, [(0x40, 16)], false, 0x0, [⟨⟨0, 32⟩, .ro⟩]⟩,
  ⟨0xd01030, [(0x40, 16)], true, 0xffffffffffffffff, [⟨⟨0, 64⟩, .ro⟩]⟩]

/-- Registers of the BRI block. -/
def regsBRI : List RegDesc := [
  ⟨0xe00000, [], false, 0x1020, [⟨⟨0, 8⟩, .ro⟩, ⟨⟨8, 8⟩, .ro⟩]⟩,
  ⟨0xe00008, [], true, 0x0, [⟨⟨0, 64⟩, .ro⟩]⟩,
  ⟨0xe01000, [(0x40, 48)], false, 0x0, [⟨⟨0, 1⟩, .wo⟩, ⟨⟨1, 1⟩, .wo⟩, ⟨⟨2, 1⟩, .rw⟩]⟩,
  ⟨0xe01008, [(0x40, 48)], true, 0x0, [⟨⟨6, 58⟩, .rw⟩]⟩,
  ⟨0xe01010, [(0x40, 48)], true, 0x0, [⟨⟨5, 59⟩, .rw⟩]⟩,
  ⟨0xe01018, [(0x40, 48)], false, 0x0, [⟨⟨0, 2⟩, .ro⟩, ⟨⟨2, 1⟩, .w1c⟩, ⟨⟨3, 1⟩, .w1c⟩, ⟨⟨4, 1⟩, .ro⟩, ⟨⟨5, 1⟩, .ro⟩, ⟨⟨16, 16⟩, .ro⟩]⟩,
  ⟨0xe01020, [(0x40, 48)], true, 0x0, [⟨⟨0, 64⟩, .ro⟩]⟩,
  ⟨0xe01028, [(0x40, 48)], true, 0x0, [⟨⟨0, 64⟩, .ro⟩]⟩,
  ⟨0xe01030, [(0x40, 48)], true, 0xffffffffffffffff, [⟨⟨0, 64⟩, .ro⟩]⟩,
  ⟨0xe01038, [(0x40, 48)], false, 0x0, [⟨⟨0, 32⟩, .ro⟩]⟩]

/-- Registers of the TRS block. -/
def regsTRS : List RegDesc := [
  ⟨0x400000, [(0x40, 256)], false, 0x0, [⟨⟨0, 8⟩, .rw⟩]⟩,
  ⟨0x400004, [(0x40, 256)], false, 0x0, [⟨⟨0, 32⟩, .rw⟩]⟩,
  ⟨0x400008, [(0x40, 256)], true, 0x0, [⟨⟨0, 64⟩, .rw⟩]⟩,
  ⟨0x400010, [(0x40, 256)], false, 0x0, [⟨⟨0, 32⟩, .rw⟩]⟩,
  ⟨0x400018, [(0x40, 256)], true, 0x0, [⟨⟨6, 58⟩, .rw⟩]⟩,
  ⟨0x400020, [(0x40, 256)], false, 0x0, [⟨⟨0, 1⟩, .wo⟩, ⟨⟨1, 1⟩, .rw⟩]⟩,
  ⟨0x400028, [(0x40, 256)], true, 0x0, [⟨⟨0, 2⟩, .ro⟩, ⟨⟨16, 16⟩, .ro⟩, ⟨⟨32, 32⟩, .ro⟩]⟩,
  ⟨0x400030, [(0x40, 256)], true, 0x0, [⟨⟨0, 64⟩, .ro⟩]⟩,
  ⟨0x410000, [], false, 0x100, [⟨⟨0, 9⟩, .ro⟩]⟩,
  ⟨0x410004, [], false, 0x0, [⟨⟨0, 1⟩, .wo⟩, ⟨⟨1, 1⟩, .ro⟩]⟩,
  ⟨0x410008, [], true, 0x1, [⟨⟨0, 64⟩, .ro⟩]⟩,
  ⟨0x410010, [], false, 0x0, [⟨⟨0, 9⟩, .ro⟩, ⟨⟨16, 15⟩, .ro⟩]⟩,
  ⟨0x410100, [(0x4, 8)], false, 0x0, [⟨⟨0, 32⟩, .w1c⟩]⟩]

/-- Registers of the FTL block. -/
def regsFTL : List RegDesc := [
  ⟨0x2c00000, [], true, 0x0, [⟨⟨0, 64⟩, .ro⟩]⟩,
  ⟨0x2c00008, [], true, 0x0, [⟨⟨0, 64⟩, .ro⟩]⟩,
  ⟨0x2c00010, [], true, 0x0, [⟨⟨0, 32⟩, .ro⟩, ⟨⟨32, 32⟩, .ro⟩]⟩,
  ⟨0x2c00018, [], false, 0x0, [⟨⟨0, 1⟩, .ro⟩, ⟨⟨1, 1⟩, .ro⟩, ⟨⟨2, 1⟩, .ro⟩, ⟨⟨3, 1⟩, .ro⟩]⟩,
  ⟨0x2c00020, [], true, 0x0, [⟨⟨0, 64⟩, .ro⟩]⟩,
  ⟨0x2c00028, [], true, 0x4000100100, [⟨⟨0, 16⟩, .ro⟩, ⟨⟨16, 16⟩, .ro⟩, ⟨⟨32, 16⟩, .ro⟩, ⟨⟨48, 1⟩, .ro⟩]⟩,
  ⟨0x2c00030, [], false, 0x0, [⟨⟨0, 1⟩, .wo⟩]⟩,
  ⟨0x2c00034, [], false, 0x0, [⟨⟨0, 1⟩, .w1c⟩, ⟨⟨1, 1⟩, .w1c⟩, ⟨⟨2, 1⟩, .w1c⟩]⟩,
  ⟨0x2c01080, [(0x80, 64)], false, 0x0, [⟨⟨0, 1⟩, .ro⟩, ⟨⟨1, 1⟩, .ro⟩, ⟨⟨2, 1⟩, .ro⟩, ⟨⟨3, 4⟩, .ro⟩]⟩,
  ⟨0x2c01088, [(0x80, 64)], true, 0x0, [⟨⟨0, 64⟩, .ro⟩]⟩,
  ⟨0x2c01090, [(0x80, 64)], true, 0x0, [⟨⟨0, 64⟩, .ro⟩]⟩,
  ⟨0x2c01098, [(0x80, 64), (0x4, 4)], false, 0x0, [⟨⟨0, 16⟩, .ro⟩, ⟨⟨16, 2⟩, .ro⟩, ⟨⟨18, 1⟩, .ro⟩]⟩,
  ⟨0x2c010a8, [(0x80, 64), (0x8, 4)], true, 0x0, [⟨⟨0, 64⟩, .ro⟩]⟩,
  ⟨0x2c04000, [(0x40, 64)], true, 0x0, [⟨⟨0, 64⟩, .ro⟩]⟩]

/-- Registers of the FLT block. -/
def regsFLT : List RegDesc := [
  ⟨0x2400000, [], false, 0x0, [⟨⟨0, 1⟩, .rw⟩, ⟨⟨1, 3⟩, .rw⟩, ⟨⟨4, 6⟩, .rw⟩]⟩,
  ⟨0x2400004, [], false, 0x0, [⟨⟨0, 16⟩, .rw⟩]⟩,
  ⟨0x2400008, [], true, 0x0, [⟨⟨6, 58⟩, .rw⟩]⟩,
  ⟨0x2400010, [], false, 0x0, [⟨⟨0, 32⟩, .rw⟩]⟩,
  ⟨0x2400014, [], false, 0x0, [⟨⟨0, 3⟩, .ro⟩, ⟨⟨3, 3⟩, .ro⟩, ⟨⟨6, 1⟩, .ro⟩, ⟨⟨7, 1⟩, .w1c⟩, ⟨⟨16, 16⟩, .ro⟩]⟩,
  ⟨0x2400018, [], false, 0x1fff1fff, [⟨⟨0, 13⟩, .ro⟩, ⟨⟨16, 13⟩, .ro⟩]⟩,
  ⟨0x240001c, [], false, 0x0, [⟨⟨0, 32⟩, .ro⟩]⟩,
  ⟨0x2400020, [], false, 0x0, [⟨⟨0, 32⟩, .ro⟩]⟩,
  ⟨0x2400024, [], false, 0x0, [⟨⟨0, 32⟩, .rw⟩]⟩,
  ⟨0x2400028, [], true, 0xffffffffffffffff, [⟨⟨0, 64⟩, .ro⟩]⟩,
  ⟨0x2400030, [], true, 0xffffffffffffffff, [⟨⟨0, 64⟩, .ro⟩]⟩,
  ⟨0x2400038, [], false, 0x0, [⟨⟨0, 9⟩, .ro⟩]⟩,
  ⟨0x240003c, [], false, 0x0, [⟨⟨0, 7⟩, .ro⟩]⟩,
  ⟨0x2400040, [], false, 0x0, [⟨⟨0, 32⟩, .ro⟩]⟩,
  ⟨0x2400048, [], true, 0x0, [⟨⟨0, 64⟩, .ro⟩]⟩,
  ⟨0x2400100, [], false, 0x0, [⟨⟨0, 13⟩, .ro⟩, ⟨⟨16, 9⟩, .ro⟩]⟩,
  ⟨0x2400104, [], false, 0x0, [⟨⟨0, 13⟩, .ro⟩]⟩,
  ⟨0x2400108, [], false, 0x0, [⟨⟨0, 32⟩, .ro⟩]⟩]

/-- Registers of the SEC block. -/
def regsSEC : List RegDesc := [
  ⟨0x1c00000, [], false, 0x102000, [⟨⟨0, 14⟩, .ro⟩, ⟨⟨16, 5⟩, .ro⟩]⟩,
  ⟨0x1c00004, [], false, 0x10000, [⟨⟨0, 16⟩, .ro⟩, ⟨⟨16, 16⟩, .ro⟩]⟩,
  ⟨0x1c00008, [], false, 0x0, [⟨⟨0, 1⟩, .ro⟩, ⟨⟨1, 1⟩, .ro⟩, ⟨⟨16, 16⟩, .ro⟩]⟩,
  ⟨0x1c0000c, [], false, 0x0, [⟨⟨0, 14⟩, .ro⟩]⟩,
  ⟨0x1c00100, [(0x4, 8)], false, 0x0, [⟨⟨0, 32⟩, .ro⟩]⟩,
  ⟨0x1c00200, [(0x20, 8), (0x4, 8)], false, 0x0, [⟨⟨0, 32⟩, .ro⟩]⟩,
  ⟨0x1c00400, [(0x20, 16), (0x4, 8)], false, 0x0, [⟨⟨0, 32⟩, .ro⟩]⟩,
  ⟨0x1c00800, [(0x8, 17)], true, 0x0, [⟨⟨0, 64⟩, .ro⟩]⟩]

/-- Registers of the SHD block. -/
def regsSHD : List RegDesc := [
  ⟨0x100000, [], false, 0x0, [⟨⟨0, 4⟩, .ro⟩, ⟨⟨4, 4⟩, .ro⟩, ⟨⟨8, 8⟩, .ro⟩, ⟨⟨16, 2⟩, .ro⟩, ⟨⟨18, 1⟩, .ro⟩, ⟨⟨19, 1⟩, .ro⟩]⟩,
  ⟨0x100004, [], false, 0x0, [⟨⟨0, 3⟩, .ro⟩]⟩,
  ⟨0x100008, [], false, 0x0, [⟨⟨0, 1⟩, .w1c⟩, ⟨⟨1, 1⟩, .w1c⟩, ⟨⟨2, 1⟩, .w1c⟩, ⟨⟨3, 1⟩, .w1c⟩, ⟨⟨4, 1⟩, .w1c⟩]⟩,
  ⟨0x10000c, [], false, 0x0, [⟨⟨0, 32⟩, .ro⟩]⟩,
  ⟨0x100200, [(0x8, 8)], true, 0xff000000000000, [⟨⟨0, 48⟩, .ro⟩, ⟨⟨48, 8⟩, .ro⟩, ⟨⟨56, 1⟩, .ro⟩]⟩,
  ⟨0x100100, [], false, 0x0, [⟨⟨0, 1⟩, .wo⟩, ⟨⟨12, 20⟩, .rw⟩]⟩,
  ⟨0x100104, [], false, 0x0, [⟨⟨0, 1⟩, .ro⟩, ⟨⟨1, 1⟩, .w1c⟩, ⟨⟨16, 16⟩, .ro⟩]⟩,
  ⟨0x110000, [(0x4, 32768)], false, 0x0, [⟨⟨0, 32⟩, .rw⟩]⟩,
  ⟨0x140000, [(0x4, 32768)], false, 0x0, [⟨⟨0, 32⟩, .ro⟩]⟩]

/-- Registers of the PWR block. -/
def regsPWR : List RegDesc := [
  ⟨0x2000000, [], false, 0x15e, [⟨⟨0, 16⟩, .ro⟩]⟩,
  ⟨0x2000004, [], false, 0x1084210, [⟨⟨0, 5⟩, .ro⟩, ⟨⟨5, 5⟩, .ro⟩, ⟨⟨10, 5⟩, .ro⟩, ⟨⟨15, 5⟩, .ro⟩, ⟨⟨20, 5⟩, .ro⟩]⟩,
  ⟨0x2000008, [], false, 0x0, [⟨⟨0, 32⟩, .ro⟩]⟩,
  ⟨0x200000c, [], false, 0x0, [⟨⟨0, 16⟩, .ro⟩, ⟨⟨16, 6⟩, .ro⟩]⟩,
  ⟨0x2000010, [], false, 0x2ee, [⟨⟨0, 12⟩, .rw⟩]⟩,
  ⟨0x2000014, [], false, 0x1, [⟨⟨0, 20⟩, .ro⟩]⟩,
  ⟨0x2000100, [(0x4, 64)], false, 0x0, [⟨⟨0, 16⟩, .ro⟩, ⟨⟨16, 1⟩, .ro⟩]⟩,
  ⟨0x2000200, [], true, 0x0, [⟨⟨0, 64⟩, .ro⟩]⟩,
  ⟨0x2001000, [(0x40, 64)], true, 0x0, [⟨⟨0, 64⟩, .ro⟩]⟩]

/-- The registers of the block that an offset lies in (Table 1-7). -/
def blockRegs (off : Nat) : List RegDesc :=
  if off < 0x100000 then regsGLB
  else if off < 0x200000 then regsSHD
  else if off < 0x400000 then regsENL
  else if off < 0x800000 then regsTRS
  else if off < 0xa00000 then regsPBQ
  else if off < 0xc00000 then regsDMA
  else if off < 0xd00000 then regsPOOL
  else if off < 0xe00000 then regsCHK
  else if off < 0x1000000 then regsBRI
  else if off < 0x1400000 then regsPLT
  else if off < 0x1800000 then regsTOK
  else if off < 0x1c00000 then regsDEC
  else if off < 0x2000000 then regsSEC
  else if off < 0x2400000 then regsPWR
  else if off < 0x2800000 then regsFLT
  else if off < 0x2c00000 then regsHEEL
  else if off < 0x3000000 then regsFTL else []

/-- Is an offset within a register's element by the given index dimensions? -/
def indexed : List (Nat × Nat) → Nat → Bool
  | [], r => r = 0
  | (stride, count) :: t, r => r / stride < count && indexed t (r % stride)

/-- Does a descriptor describe the register at an offset? -/
def RegDesc.covers (d : RegDesc) (off : Nat) : Bool := d.base ≤ off && indexed d.dims (off - d.base)

/-- The descriptor of the register that starts at an offset. -/
def regAt (off : Nat) : Option RegDesc := (blockRegs off).find? fun d => d.covers off

/-- The reset value of the register at an offset. -/
def regDefault (off : Nat) : Word64 := BitVec.ofNat 64 (((regAt off).map (·.reset)).getD 0)

end Sys2Proof.Machine
end

