-- ==== Sys2Proof/Config.lean ====
section
/-! DEFINITION. What the spec leaves open or takes from an external standard it does not state:
constants without a body, so that nothing can be proved of their values (log entries 1 and 15). -/

namespace Sys2Proof

/-- What a standard's decoder finds in a stream: usable or not, and its first damage. -/
structure Damage where
  code : Nat
  byteOffset : Nat
  unit : Nat
  frame : Nat
  unitX : Nat
  unitY : Nat
deriving DecidableEq, Repr

/-- A decoded video frame: luma width and height, bit depth, planes in coded order (width, height and samples of each), the matrix
and range that its stream signals, and whether it was predicted from a concealed area (R110, R119). -/
structure VideoFrame where
  width : Nat
  height : Nat
  bitDepth : Nat
  planes : List (Nat × Nat × List Nat)
  matrix : Nat
  fullRange : Bool
  tainted : Bool
deriving DecidableEq, Repr, Inhabited

/-- What the headers of a frame of a video stream say, by place in decode order: its place in presentation order, whether it is a
random access point, whether later frames reference it, and the frame that damaged units are copied from (Table 4-9). -/
structure VideoHead where
  shown : Nat
  randomAccess : Bool
  referenced : Bool
  source : Option Nat
deriving DecidableEq, Repr

/-- A unit of a frame (R115): its rectangle, the place of its bytes and of its first macroblock, CTU or superblock, and the damage that
its decoding finds. -/
structure VideoUnit where
  frame : Nat
  x0 : Nat
  y0 : Nat
  x1 : Nat
  y1 : Nat
  at_ : Nat
  col : Nat
  row : Nat
  damage : Option Damage
deriving DecidableEq, Repr

/-- A video stream by its headers: standard (1 H.264, 2 HEVC, 3 AV1), the profiles that it declares itself decodable under by their
numbers in the standard, ten times its level, tier, bit depth, chroma format (0 monochrome, 1 for 4:2:0), size in luma samples,
reference frames, and its frames and units in decode order. -/
structure VideoStream where
  standard : Nat
  profiles : List Nat
  level : Nat
  highTier : Bool
  depth : Nat
  chroma : Nat
  width : Nat
  height : Nat
  references : Nat
  frames : List VideoHead
  units : List VideoUnit
deriving DecidableEq, Repr

namespace Config

/-- The source of free values: nothing constrains what it answers (log entry 1). -/
opaque freeBits : Nat → Nat

/-- Is tininess judged after rounding? IEEE 754 leaves it to each implementation (R65). -/
opaque tinyAfterRounding : Bool

/-- The integer of a NaN (WCVT): a function of the operand. -/
opaque nanToInt : Nat → Nat

/-- Element of a wide register at an index beyond it (WEXT): a function of the operands. Arguments: TYPE, index, register. -/
opaque strayElement : Nat → Nat → Nat → Nat

/-- Does a resize weight that lies halfway between two 14-bit values round up? R112 does not say. -/
opaque weightTieUp : Bool

/-- One channel from three where the output asks for one: not stated by R110. Arguments: bit depth, R, G, B. -/
opaque toOneChannel : Nat → Nat → Nat → Nat → Nat

/-- A sample of one bit depth in another, where the output type has another depth than the input and
nothing normalizes it: not stated by R110. Arguments: input depth, output bits, sample. -/
opaque changeDepth : Nat → Nat → Nat → Nat

/-- RGB of one pixel of video by the matrix and range that its stream signals: the tables are in Imrum (R110). Arguments: matrix, full
range, bit depth, Y, Cb, Cr. -/
opaque videoRgb : Nat → Bool → Nat → Nat → Nat → Nat → Nat × Nat × Nat

/-- Of several edges of one output port, the one that a sample takes: the spec does not say, and output may depend on nothing but
the sample and the graph (R15, R199). Arguments: stage, port, epoch, position. -/
opaque edgeChoice : Nat → Nat → Nat → Nat → Nat

/-- Byte offset of damage for which the spec states none. Arguments: code, the bytes that the stage received. -/
opaque damageOffset : Nat → Bytes → Nat

/-- Damage code of a sample whose header gives no usable dimensions or format: Table 4-11 states none for it. Argument: the bytes. -/
opaque unusableCode : Bytes → Nat

/-- Which grey the fill tensor of a sample with no decoded picture has (R120). Arguments: stage, sample. -/
opaque fillGrey : Nat → Nat → Nat

/-- Offsets in a vocabulary table that a tokenizer reads for a text, in order, and those that a grammar mask engine reads for a
configuration: which entries an engine reads, and how often, is not stated (R140). Arguments: the table and the text; the
table, the state and the stack. -/
opaque tokenizerReads : Bytes → Bytes → List Nat
opaque maskReads : Bytes → Nat → List Nat → List Nat

/-- Which of its tokenizer engines a stage gives a sample: a matter of timing. Arguments: stage, epoch, position. -/
opaque tokenizerEngine : Nat → Nat → Nat → Nat

/-- Offset of a BOS or an EOS token, which have no byte in the text (R142). Arguments: whether it is EOS, the text. -/
opaque markOffset : Bool → Bytes → Nat

/-- The fp32 functions that the encoder-model runner computes (R90 to R92), whose approximations the spec does not state:
exponential, hyperbolic tangent, reciprocal, reciprocal of the square root. Bits to bits. -/
opaque modelExp : Nat → Nat
opaque modelTanh : Nat → Nat
opaque modelRecip : Nat → Nat
opaque modelRsqrt : Nat → Nat

/-- Cosine and sine of a rotary position (R91). Arguments: ROPE_BASE, head width, pair, position. -/
opaque modelRotary : Nat → Nat → Nat → Nat → Nat × Nat

/-- Are the two elements of a rotary pair neighbours, or half a head apart? R91 does not say. -/
opaque rotaryNeighbours : Bool

/-- The order of the runner's reductions (R89), which the spec does not state: of a product of `n` pairs of elements, the
pairs that each WDOT lane takes in turn; of a sum of `n` values, their order. -/
opaque modelLanes : Nat → List (List Nat)
opaque modelOrder : Nat → List Nat

/-- Do scores come from the first token, or from the mean of all (R90, R91)? -/
opaque scoresFromFirst : Bool

/-- What the runner makes of tokens that its model does not take: none, more than MAX_INPUT, one outside VOCAB (R90 states
no result). Arguments: model description, weights, tokens. -/
opaque modelStray : Bytes → Bytes → List Nat → List Nat

/-- Byte of an output descriptor beyond the buffer that its handle names (SOUT): R84 states none. Arguments: handle, index. -/
opaque strayByte : Nat → Nat → Byte

/-- Is a program the library routine of its stage kind (Table 3-9)? No field of an image says so. Arguments: stage kind,
instruction image, data image. -/
opaque isLibrary : Nat → Bytes → Bytes → Bool

/-- Configuration after a token that a grammar's stored mask allows and its transitions refuse (R154).
Arguments: state, stack, token. -/
opaque strayConfig : Nat → List Nat → Nat → Nat × List Nat

/-- The headers of a video stream of H.264, HEVC or AV1 (R107). None: they give no usable dimensions or format. -/
opaque videoStream : Bytes → Option VideoStream

/-- A frame of a stream as the standard's decoding process gives it from the frames before it, in-loop filters included and film
grain left out. Arguments: the stream, the frame's place in decode order, the frames before it. -/
opaque videoFrame : Bytes → Nat → List VideoFrame → VideoFrame

/-- A frame with AV1 film grain (R107). Arguments: the stream, the frame's place, the frame. -/
opaque videoGrain : Bytes → Nat → VideoFrame → VideoFrame

/-- Units that the in-loop filters of the given units read (R115), by their places in the stream's list. -/
opaque videoNeighbours : Bytes → List Nat → List Nat

/-- Units of the access units of a live capture whose prediction reads a frame that was dropped (R117): places in the list of units of
the stream that the others form. Argument: the access units, none for each that was dropped. -/
opaque videoLost : List (Option Bytes) → List Nat

/-- Is an access unit a random access point? -/
opaque randomAccess : Bytes → Bool

/-- Opus decoding to RFC 6716 in Ogg under RFC 7845, packet loss concealment included (R109, R119): of every sample at 48 kHz
whether it is concealed, and its fp32 value in each channel; and the first damage. Argument: the Ogg stream. -/
opaque opusSamples : Bytes → List (Bool × List Nat) × Option Damage

/-- An audio sample in the output type, where R109 and Table 4-14 state no conversion: floating-point or of a depth other than 16 as
s16, and an integer of a depth as fp32. Arguments: floating-point, depth, sample. -/
opaque audioToS16 : Bool → Nat → Int → Nat
opaque audioToFp32 : Nat → Int → Nat

/-- Are the channels of audio output planes one after the other, or samples in turn? The spec does not say. -/
opaque audioPlanar : Bool

/-- The Unicode 15.1 character data that a character-data table encodes; the encoding is internal to lib.text_prep (R135).
Arguments: the body of the table, then code points. The canonical combining class; the mapping of one level, canonical or
with the compatibility ones, empty where there is none; the primary composite of two characters. -/
opaque charClass : Bytes → Nat → Nat
opaque charMapping : Bool → Bytes → Nat → List Nat
opaque charComposite : Bytes → Nat → Nat → Option Nat

/-- The bytes of a track that the video decode engine or an audio program is given (Table 4-4): the spec does not state them.
Arguments: the file, the track's place among its tracks. -/
opaque trackBytes : Bytes → Nat → Bytes

/-- SHA-256 of the character-data body of the device's library (R135). -/
opaque chardataDigest : Bytes

/-- Length in bytes of a context buffer that is a return ring, a region buffer or a live-capture ring: Table
8-7 gives none. Arguments: KIND, ARG. -/
opaque ringLength : Nat → Nat → Nat

/-- Source id of the peer that holds a remote shard: Table 4-2 names a context and a buffer only. -/
opaque remoteNode : Nat → Nat → Nat

/-- Source id of a Heel peer on a Plyn context, and the buffer that Heel messages are written to there: the
spec gives neither. Argument: the context. -/
opaque heelPeer : Nat → Nat
opaque heelBuffer : Nat → Nat

/-- Addresses of a sub-port (8 × port + sub-port): MAC and IP, and the UDP source port of its frames; the IPv4
identification and the IPv6 flow label of a frame. The spec gives none (log entry 55). -/
opaque portMac : Nat → Nat
opaque portIp : Nat → Nat
opaque udpSource : Nat → Nat
opaque ipIdent : Nat → Nat
opaque flowLabel : Nat → Nat

/-- The address of a node that no address table names: mode, DSCP, tag, MAC and IP (log entry 27). -/
opaque nodeAddress : Nat → Nat × Nat × Nat × Nat × Nat

/-- The PTP function as it is set up, which no register of the spec shows: this clock's identity; its dataset (priority 1,
class, accuracy, variance, priority 2); the domain; per sub-port the transport (1 IEEE 802.3, 2 UDP on IPv4, 3 UDP on
IPv6), whether delays are measured peer to peer, and whether egress is two-step; and whether it is a slave-only clock
(log entry 55). -/
opaque ptpClock : Nat
opaque ptpDataset : List Nat
opaque ptpDomain : Nat
opaque ptpTransport : Nat → Nat
opaque ptpPeerDelay : Nat → Bool
opaque ptpTwoStep : Nat → Bool
opaque ptpSlaveOnly : Bool

/-- The error of a hardware timestamp, within ±4 ns, as a number of 0 to 8 after reduction (R244). -/
opaque ptpStampError : Nat → Nat

/-- A generated at-rest key for (NSID, generation, draw) (R318, Table 13-1). -/
opaque atRestKey : Nat → Nat → Nat → Bytes

/-- NAND channel of a data block: the spec gives no layout of blocks over the 48 channels. -/
opaque blockChannel : Nat → Nat

/-- Private scalar of the device identity key, in the fuses (Table 13-1). -/
opaque deviceScalar : Nat

/-- The keys that the device derives from the DIK (Table 13-1): label code and context. -/
opaque derivedScalar : Nat → Bytes → Nat

/-- The certificate chain of R353. -/
opaque certificateChain : Bytes

/-- A certificate chain names an anchor key (R358): X.509 parsing is not stated by the spec. -/
opaque chainEndsAt : Bytes → Bytes → Bool

/-- Does a firmware image carry a valid Moasil signature (R372, R375)? -/
opaque firmwareSigned : Bytes → Bool

/-- Determinism class of a staged firmware image (R203). -/
opaque firmwareClass : Bytes → BitVec 32

/-- Digest of the Sheepdog ROM, and of the Sheepdog and hub parts of a firmware image (R359). -/
opaque romDigest : Bytes
opaque sheepdogDigest : Bytes → Bytes
opaque hubDigest : Bytes → Bytes

end Config

end Sys2Proof
end

