-- ==== Sys2Proof/Machine/Inflate.lean ====
section
/-! DEFINITION. The decompression of DEFLATE, zlib, gzip and raw Snappy units with the fault classes of R103.
The formats are PRESUMED from RFC 1950, 1951, 1952 and the Snappy format description, which R102 names
(log entry 16). -/

namespace Sys2Proof.Machine

/-- Damage codes of Table 4-11. -/
def dmgSyntax : Nat := 0x01
def dmgTruncated : Nat := 0x02
def dmgChecksum : Nat := 0x03
def dmgContainer : Nat := 0x04
def dmgUnsupported : Nat := 0x05
def dmgAuthFail : Nat := 0x06
def dmgDigest : Nat := 0x07
def dmgOversize : Nat := 0x08
def dmgUnreadable : Nat := 0x09
def dmgDecompress : Nat := 0x0A
def dmgRefTaint : Nat := 0x0B
def dmgText : Nat := 0x0C

/-- The damage of a fault at a byte offset, in no unit. -/
def damageAt (code offset : Nat) : Damage := ⟨code, offset, 0, 0, 0, 0⟩

/-- A unit after decompression: its output, the first fault found (code and byte offset), and whether
the sample is UNDECODABLE (R103). -/
structure Unpacked where
  out : Bytes
  fault : Option (Nat × Nat)
  undecodable : Bool
deriving DecidableEq, Repr

/-- Why the decoding of one stream stopped short. -/
inductive Halt where
  /-- A syntax error at this byte offset. -/
  | bad (at_ : Nat)
  /-- The unit ends before the stream does. -/
  | early
  /-- The output would pass its bound; at this byte offset. -/
  | over (at_ : Nat)
  /-- An option outside Table 4-5 at this byte offset. -/
  | unsupported (at_ : Nat)
deriving DecidableEq, Repr

/-- A decoder at work: bit position and output so far. -/
structure Flow where
  pos : Nat
  out : Array Byte
  halt : Option Halt
deriving DecidableEq, Repr

/-- Bit `i` of a byte string, least significant bit first. -/
def bitOf (d : Array Byte) (i : Nat) : Nat := ((d.getD (i / 8) 0).toNat >>> (i % 8)) % 2

/-- `n` bits from a bit position, least significant first; none past the end. -/
def takeBits (d : Array Byte) (pos n : Nat) : Option Nat :=
  if pos + n > 8 * d.size then none
  else some ((List.range n).foldl (fun acc i => acc + bitOf d (pos + i) * 2 ^ i) 0)

/-- `n` bits from a bit position, most significant first; none past the end. -/
def msbBits (d : Array Byte) (pos n : Nat) : Option Nat :=
  if pos + n > 8 * d.size then none
  else some ((List.range n).foldl (fun v i => 2 * v + (d.getD ((pos + i) / 8) 0).toNat / 2 ^ (7 - (pos + i) % 8) % 2) 0)

/-- A prefix code: codes of each length 1 to 15, and the symbols in code order. -/
structure Prefix where
  counts : List Nat
  symbols : Array Nat
deriving DecidableEq, Repr

/-- The canonical prefix code of a list of code lengths (RFC 1951, 3.2.2). -/
def mkPrefix (lens : List Nat) : Prefix where
  counts := (List.range 15).map fun i => lens.countP fun l => l = i + 1
  symbols := ((List.range 15).flatMap fun i =>
    (lens.zipIdx.filter fun e => e.1 = i + 1).map (·.2)).toArray

/-- Unused code space in units of 2^-15; negative when the lengths overflow it. -/
def Prefix.slack (p : Prefix) : Int :=
  (2 ^ 15 : Int) - (p.counts.zipIdx.foldl (fun (n : Int) e => n + e.1 * 2 ^ (14 - e.2)) 0)

/-- Is a set of lengths usable: complete, or one code of one bit? -/
def Prefix.usable (p : Prefix) : Bool := p.slack = 0 || (p.slack > 0 && p.symbols.size ≤ 1)

/-- One decoded symbol. -/
inductive Sym where
  | sym (value pos : Nat)
  | bad
  | early
deriving DecidableEq, Repr

/-- Decode one symbol bit by bit. -/
def decodeSym (d : Array Byte) (syms : Array Nat) : List Nat → (pos code first index : Nat) → Sym
  | [], _, _, _, _ => .bad
  | c :: cs, pos, code, first, index =>
    if pos ≥ 8 * d.size then .early else
    let code := code + bitOf d pos
    if code < first + c then .sym (syms.getD (index + (code - first)) 0) (pos + 1)
    else decodeSym d syms cs (pos + 1) (2 * code) (2 * (first + c)) (index + c)

/-- Decode a symbol of a code. -/
def Prefix.next (p : Prefix) (d : Array Byte) (pos : Nat) : Sym := decodeSym d p.symbols p.counts pos 0 0 0

/-- Bases of codes, each with its number of extra bits: a code takes up where the one before it ends. -/
def basesFrom (first : Nat) (extra : List Nat) : List (Nat × Nat) :=
  (extra.foldl (fun (r : Nat × List (Nat × Nat)) e => (r.1 + 2 ^ e, r.2 ++ [(r.1, e)])) (first, [])).2

/-- Length codes from 257 on: eight without extra bits, four each with 1 to 5, and 258 by itself. -/
def lengthCodes : Array (Nat × Nat) :=
  (basesFrom 3 (List.replicate 8 0 ++ (List.range 5).flatMap fun i => List.replicate 4 (i + 1)) ++ [(258, 0)]).toArray

/-- Distance codes: two without extra bits, then two each with 0 to 13. -/
def distCodes : Array (Nat × Nat) := (basesFrom 1 ([0, 0] ++ (List.range 14).flatMap fun i => [i, i])).toArray

/-- Copy `n` bytes from `dist` back, one at a time, so that a copy may overlap itself. -/
def copyBack (dist : Nat) : (n : Nat) → Array Byte → Array Byte
  | 0, out => out
  | n + 1, out => copyBack dist n (out.push (out.getD (out.size - dist) 0))

/-- Literals and copies of one compressed block; `bound` is the output size that must not be passed. -/
def inflateSyms (d : Array Byte) (lit dist : Prefix) (bound : Nat) : (fuel : Nat) → Flow → Flow
  | 0, f => { f with halt := some .early }
  | fuel + 1, f =>
    let stop := fun h => { f with halt := some h }
    let here := f.pos / 8
    match lit.next d f.pos with
    | .early => stop .early
    | .bad => stop (.bad here)
    | .sym s pos =>
      if s < 256 then
        if f.out.size ≥ bound then stop (.over here)
        else inflateSyms d lit dist bound fuel { f with pos := pos, out := f.out.push (BitVec.ofNat 8 s) }
      else if s = 256 then { f with pos := pos }
      else if s > 285 then stop (.bad here)
      else
        let lc := lengthCodes.getD (s - 257) (0, 0)
        match takeBits d pos lc.2 with
        | none => stop .early
        | some xb =>
          let len := lc.1 + xb
          let pos := pos + lc.2
          match dist.next d pos with
          | .early => stop .early
          | .bad => stop (.bad (pos / 8))
          | .sym ds dpos =>
            if ds > 29 then stop (.bad (pos / 8)) else
            let dc := distCodes.getD ds (0, 0)
            match takeBits d dpos dc.2 with
            | none => stop .early
            | some db =>
              let dd := dc.1 + db
              if dd > f.out.size then stop (.bad (pos / 8))
              else if f.out.size + len > bound then stop (.over here)
              else inflateSyms d lit dist bound fuel { f with pos := dpos + dc.2, out := copyBack dd len f.out }

/-- Order of the code-length codes. -/
def clOrder : List Nat := [16, 17, 18, 0, 8, 7, 9, 6, 10, 5, 11, 4, 12, 3, 13, 2, 14, 1, 15]

/-- Code lengths of a dynamic block: the list so far, until `total` of them are read. -/
def readLengths (d : Array Byte) (cl : Prefix) (total : Nat) : (fuel : Nat) → Nat → List Nat → Except Halt (List Nat × Nat)
  | 0, _, _ => .error .early
  | fuel + 1, pos, acc =>
    if acc.length = total then .ok (acc, pos) else
    if acc.length > total then .error (.bad (pos / 8)) else
    match cl.next d pos with
    | .early => .error .early
    | .bad => .error (.bad (pos / 8))
    | .sym s p =>
      if s < 16 then readLengths d cl total fuel p (acc ++ [s])
      else
        let bits := if s = 16 then 2 else if s = 17 then 3 else 7
        match takeBits d p bits with
        | none => .error .early
        | some x =>
          if s = 16 then
            if acc = [] then .error (.bad (pos / 8))
            else readLengths d cl total fuel (p + bits) (acc ++ List.replicate (3 + x) (acc.getLastD 0))
          else
            readLengths d cl total fuel (p + bits) (acc ++ List.replicate ((if s = 17 then 3 else 11) + x) 0)

/-- The fixed codes of RFC 1951, 3.2.6. -/
def fixedLit : Prefix :=
  mkPrefix (List.replicate 144 8 ++ List.replicate 112 9 ++ List.replicate 24 7 ++ List.replicate 8 8)
def fixedDist : Prefix := mkPrefix (List.replicate 32 5)

/-- The two codes of a dynamic block, and the bit position after them. -/
def dynamicCodes (d : Array Byte) (pos : Nat) : Except Halt (Prefix × Prefix × Nat) :=
  match takeBits d pos 14 with
  | none => .error .early
  | some h =>
    let hlit := h % 32 + 257
    let hdist := h / 32 % 32 + 1
    let hclen := h / 1024 + 4
    if hlit > 286 ∨ hdist > 30 then .error (.bad (pos / 8)) else
    match takeBits d (pos + 14) (3 * hclen) with
    | none => .error .early
    | some v =>
      let ls := (List.range 19).map fun s =>
        match clOrder.idxOf? s with
        | some k => if k < hclen then v / 8 ^ k % 8 else 0
        | none => 0
      let cl := mkPrefix ls
      if cl.slack ≠ 0 then .error (.bad ((pos + 14) / 8)) else
      let p0 := pos + 14 + 3 * hclen
      match readLengths d cl (hlit + hdist) (hlit + hdist + 1) p0 [] with
      | .error e => .error e
      | .ok (all, p) =>
        let lit := mkPrefix (all.take hlit)
        let dist := mkPrefix (all.drop hlit)
        if all.getD 256 0 = 0 ∨ !lit.usable ∨ !dist.usable then .error (.bad (p0 / 8)) else .ok (lit, dist, p)

/-- The blocks of a DEFLATE stream. -/
def inflateBlocks (d : Array Byte) (bound : Nat) : (fuel : Nat) → Flow → Flow
  | 0, f => { f with halt := some .early }
  | fuel + 1, f =>
    let stop := fun h => { f with halt := some h }
    match takeBits d f.pos 3 with
    | none => stop .early
    | some h =>
      let pos := f.pos + 3
      let next := fun (g : Flow) =>
        if g.halt.isSome || h % 2 = 1 then g else inflateBlocks d bound fuel g
      match h / 2 with
      | 0 =>
        let b := ceilDiv pos 8
        if b + 4 > d.size then stop .early else
        let len := (d.getD b 0).toNat + 256 * (d.getD (b + 1) 0).toNat
        let nlen := (d.getD (b + 2) 0).toNat + 256 * (d.getD (b + 3) 0).toNat
        if len + nlen ≠ 65535 then stop (.bad b) else
        let room := bound - f.out.size
        let avail := d.size - (b + 4)
        let take := min len (min room avail)
        let out := (d.extract (b + 4) (b + 4 + take)).foldl Array.push f.out
        let g := { f with pos := 8 * (b + 4 + take), out := out }
        if take = len then next g
        else if room < avail then { g with halt := some (.over (b + 4 + take)) }
        else { g with halt := some .early }
      | 1 => next (inflateSyms d fixedLit fixedDist bound (8 * d.size + 1) { f with pos := pos })
      | 2 =>
        match dynamicCodes d pos with
        | .error e => stop e
        | .ok (lit, dist, p) => next (inflateSyms d lit dist bound (8 * d.size + 1) { f with pos := p })
      | _ => stop (.bad (f.pos / 8))

/-- DEFLATE from a byte offset; output is appended to `hist`, whose size counts towards `bound`. -/
def inflate (d : Array Byte) (byte bound : Nat) (hist : Array Byte) : Flow :=
  inflateBlocks d bound (8 * d.size + 1) ⟨8 * byte, hist, none⟩

/-- Adler-32 (RFC 1950). -/
def adler32 (bs : Bytes) : Nat :=
  let r := bs.foldl (fun (ab : Nat × Nat) b =>
    let a := (ab.1 + b.toNat) % 65521
    (a, (ab.2 + a) % 65521)) (1, 0)
  r.2 * 65536 + r.1

/-- The outcome of a halt: code, offset, UNDECODABLE. An early end is placed at the end of the unit. -/
def haltFault (len : Nat) : Halt → Nat × Nat × Bool
  | .bad a => (dmgDecompress, a, false)
  | .early => (dmgTruncated, len, false)
  | .over a => (dmgOversize, a, true)
  | .unsupported a => (dmgUnsupported, a, true)

/-- A unit whose only stream stopped as given, with an earlier fault kept as the first (R103). -/
def unpackedOf (len : Nat) (out : Bytes) (first : Option (Nat × Nat)) : Option Halt → Unpacked
  | none => ⟨out, first, false⟩
  | some h =>
    let r := haltFault len h
    ⟨out, first.or (some (r.1, r.2.1)), r.2.2⟩

/-- A raw DEFLATE unit; bytes after the final block are a syntax error at their first byte (R102). -/
def unpackDeflate (maxOut : Nat) (bs : Bytes) : Unpacked :=
  let d := bs.toArray
  let f := inflate d 0 maxOut #[]
  let e := ceilDiv f.pos 8
  let halt := if f.halt.isNone && e < d.size then some (.bad e) else f.halt
  unpackedOf bs.length f.out.toList none halt

/-- A zlib unit (RFC 1950). -/
def unpackZlib (maxOut : Nat) (dicts : List Bytes) (bs : Bytes) : Unpacked :=
  let d := bs.toArray
  let fail := fun h => unpackedOf bs.length [] none (some h)
  if d.size < 2 then fail .early else
  let cmf := (d.getD 0 0).toNat
  let flg := (d.getD 1 0).toNat
  if cmf % 16 ≠ 8 then fail (.unsupported 0) else
  if (256 * cmf + flg) % 31 ≠ 0 ∨ cmf / 16 > 7 then fail (.bad 0) else
  let fdict := natBit flg 5
  if fdict && d.size < 6 then fail .early else
  let dict := if fdict then dicts.find? fun x => adler32 x = beFieldAt bs 2 4 else some []
  match dict with
  | none => fail (.unsupported 2)
  | some dt =>
    let f := inflate d (if fdict then 6 else 2) (dt.length + maxOut) dt.toArray
    let out := (f.out.toList).drop dt.length
    if f.halt.isSome then unpackedOf bs.length out none f.halt else
    let e := ceilDiv f.pos 8
    if e + 4 > d.size then unpackedOf bs.length out none (some .early) else
    let first := if adler32 out = beFieldAt bs e 4 then none else some (dmgChecksum, e)
    unpackedOf bs.length out first (if e + 4 < d.size then some (.bad (e + 4)) else none)

/-- Offset after a zero-terminated string; none past the end. -/
def afterZero (d : Array Byte) : (fuel o : Nat) → Option Nat
  | 0, _ => none
  | n + 1, o => if o ≥ d.size then none else if d.getD o 0 = 0 then some (o + 1) else afterZero d n (o + 1)

/-- Header of a gzip member at `o` (RFC 1952): the offset of its DEFLATE data, and whether FHCRC agrees. -/
def gzipHeader (bs : Bytes) (d : Array Byte) (o : Nat) : Except Halt (Nat × Option Nat) :=
  if d.size < o + 1 then .error .early else
  if d.getD o 0 ≠ 0x1f then .error (.bad o) else
  if d.size < o + 2 then .error .early else
  if d.getD (o + 1) 0 ≠ 0x8b then .error (.bad o) else
  if d.size < o + 10 then .error .early else
  if d.getD (o + 2) 0 ≠ 8 then .error (.unsupported (o + 2)) else
  let flg := (d.getD (o + 3) 0).toNat
  if flg / 32 ≠ 0 then .error (.bad (o + 3)) else
  let p := o + 10
  let extra : Option Nat :=
    if natBit flg 2 then
      if p + 2 > d.size then none
      else
        let q := p + 2 + (d.getD p 0).toNat + 256 * (d.getD (p + 1) 0).toNat
        if q > d.size then none else some q
    else some p
  let name := extra.bind fun p => if natBit flg 3 then afterZero d d.size p else some p
  let comment := name.bind fun p => if natBit flg 4 then afterZero d d.size p else some p
  match comment with
  | none => .error .early
  | some p =>
    if natBit flg 1 then
      if p + 2 > d.size then .error .early
      else
        let crc := crc32 ((bs.drop o).take (p - o)) % 65536
        .ok (p + 2, if crc = fieldAt bs p 2 then none else some p)
    else .ok (p, none)

/-- The members of a gzip unit in order. -/
def unpackGzipFrom (maxOut : Nat) (bs : Bytes) (d : Array Byte) :
    (fuel o : Nat) → Array Byte → Option (Nat × Nat) → Unpacked
  | 0, _, out, first => ⟨out.toList, first, false⟩
  | fuel + 1, o, out, first =>
    match gzipHeader bs d o with
    | .error h => unpackedOf bs.length out.toList first (some h)
    | .ok (p, hcrc) =>
      let first := first.or (hcrc.map fun a => (dmgChecksum, a))
      let f := inflate d p (maxOut - out.size) #[]
      let mine := f.out.toList
      let out := out ++ f.out
      if f.halt.isSome then unpackedOf bs.length out.toList first f.halt else
      let e := ceilDiv f.pos 8
      if e + 8 > d.size then unpackedOf bs.length out.toList first (some .early) else
      let bad : Option Nat :=
        if crc32 mine ≠ fieldAt bs e 4 then some e
        else if mine.length % 2 ^ 32 ≠ fieldAt bs (e + 4) 4 then some (e + 4) else none
      let first := first.or (bad.map fun a => (dmgChecksum, a))
      if e + 8 = d.size then ⟨out.toList, first, false⟩
      else unpackGzipFrom maxOut bs d fuel (e + 8) out first

/-- A gzip unit. -/
def unpackGzip (maxOut : Nat) (bs : Bytes) : Unpacked :=
  unpackGzipFrom maxOut bs bs.toArray (bs.length + 1) 0 #[] none

/-- The length preamble of a Snappy block: a varint of at most 5 bytes. -/
def snappyLength (d : Array Byte) : (fuel o shift acc : Nat) → Except Halt (Nat × Nat)
  | 0, _, _, _ => .error (.bad 0)
  | n + 1, o, shift, acc =>
    if o ≥ d.size then .error .early else
    let b := (d.getD o 0).toNat
    let acc := acc + b % 128 * 2 ^ shift
    if b < 128 then (if acc < 2 ^ 32 then .ok (acc, o + 1) else .error (.bad 0))
    else snappyLength d n (o + 1) (shift + 7) acc

/-- Elements of a Snappy block until `total` bytes are produced. -/
def snappyElems (d : Array Byte) (total bound : Nat) : (fuel : Nat) → Flow → Flow
  | 0, f => { f with halt := some .early }
  | fuel + 1, f =>
    let stop := fun h => { f with halt := some h }
    if f.out.size = total then f else
    let o := f.pos
    if o ≥ d.size then stop .early else
    let tag := (d.getD o 0).toNat
    let num := fun (a n : Nat) => (List.range n).foldl (fun acc i => acc + (d.getD (a + i) 0).toNat * 256 ^ i) 0
    if tag % 4 = 0 then
      let n := tag / 4
      let ext := if n < 60 then 0 else n - 59
      if o + 1 + ext > d.size then stop .early else
      let len := (if n < 60 then n else num (o + 1) ext) + 1
      if f.out.size + len > total then stop (.bad o) else
      let src := o + 1 + ext
      let room := bound - f.out.size
      let take := min len (min room (d.size - src))
      let out := (d.extract src (src + take)).foldl Array.push f.out
      let g := { f with pos := src + take, out := out }
      if take = len then snappyElems d total bound fuel g
      else if room < d.size - src then { g with halt := some (.over o) }
      else { g with halt := some .early }
    else
      let k := tag % 4
      let ext := if k = 1 then 1 else if k = 2 then 2 else 4
      if o + 1 + ext > d.size then stop .early else
      let len := if k = 1 then tag / 4 % 8 + 4 else tag / 4 + 1
      let off := if k = 1 then tag / 32 * 256 + num (o + 1) 1 else num (o + 1) ext
      if off = 0 ∨ off > f.out.size ∨ f.out.size + len > total then stop (.bad o)
      else if f.out.size + len > bound then stop (.over o)
      else snappyElems d total bound fuel { f with pos := o + 1 + ext, out := copyBack off len f.out }

/-- A raw Snappy unit. -/
def unpackSnappy (maxOut : Nat) (bs : Bytes) : Unpacked :=
  let d := bs.toArray
  match snappyLength d 5 0 0 0 with
  | .error h => unpackedOf bs.length [] none (some h)
  | .ok (total, o) =>
    let f := snappyElems d total maxOut (bs.length + 1) ⟨o, #[], none⟩
    let halt := if f.halt.isNone && f.pos < d.size then some (.bad f.pos) else f.halt
    unpackedOf bs.length f.out.toList none halt

end Sys2Proof.Machine
end

