-- ==== Sys2Proof/Machine/Briar.lean ====
section
/-! DEFINITION. The Briar stream format: dictionary, codes, decoder and the HL8 compressor, block by block
(R274 to R289), and the state record of R294. -/

namespace Sys2Proof.Machine

/-- A dictionary phrase: parent phrase, byte, length (R277). -/
structure Phrase where
  parent : Nat
  byte : Byte
  length : Nat
deriving DecidableEq, Repr

/-- An open stream: its header fields, phrases 1 to n − 1, running CRC-32C, raw and stream bytes so far,
and a compressor's pending input (R293). -/
structure BriStream where
  dictLog2 : Nat
  blockLog2 : Nat
  resetFull : Bool
  phrases : Array Phrase
  crc : Word64
  raw : Nat
  stream : Nat
  pending : Bytes
deriving DecidableEq, Repr

/-- A stream just opened: n = 1. -/
def BriStream.new (dictLog2 blockLog2 : Nat) (resetFull : Bool) : BriStream :=
  ⟨dictLog2, blockLog2, resetFull, #[], Poly.crc32c.initial, 0, 0, []⟩

/-- Number of phrases, phrase 0 included. -/
def BriStream.n (s : BriStream) : Nat := s.phrases.size + 1

/-- Is the dictionary full? -/
def BriStream.full (s : BriStream) : Bool := s.n = 2 ^ s.dictLog2

/-- Length of a phrase. -/
def phraseLength (ps : Array Phrase) (i : Nat) : Nat := if i = 0 then 0 else (ps.getD (i - 1) ⟨0, 0, 0⟩).length

/-- Bytes of a phrase, walked from its last byte; `acc` holds the bytes after it. -/
def phraseBytes (ps : Array Phrase) : (fuel i : Nat) → (acc : Bytes) → Bytes
  | 0, _, acc => acc
  | f + 1, i, acc =>
    if i = 0 then acc
    else
      let p := ps.getD (i - 1) ⟨0, 0, 0⟩
      phraseBytes ps f p.parent (p.byte :: acc)

/-- Step 2 of R277: add "phrase i followed by c" while there is room. -/
def addPhrase (cap : Nat) (ps : Array Phrase) (i : Nat) (c : Byte) : Array Phrase :=
  if ps.size + 1 < cap then ps.push ⟨i, c, phraseLength ps i + 1⟩ else ps

/-- Code lengths of a static block (R281). -/
def staticLit : List Nat := List.replicate 255 8 ++ [9, 9]
def staticIdx : List Nat := List.replicate 15 4 ++ [5, 5]

/-- Is a set of code lengths valid (R283)? -/
def briCodeValid (lens : List Nat) : Bool :=
  let present := lens.filter (· ≠ 0)
  present = [1] || (present.map fun l => 2 ^ (15 - l)).sum = 2 ^ 15

/-- Index bucket of a phrase number (R280). -/
def bucketOf (i : Nat) : Nat := if i = 0 then 0 else Nat.log2 i + 1

/-- How the decoding of a piece of a stream ended. -/
inductive BriEnd where
  /-- Whole; the next byte offset. -/
  | ok (next : Nat)
  /-- The end block; its next byte offset, and whether the CRC agreed. -/
  | done (next : Nat) (crcOk : Bool)
  /-- A format error whose failing symbol starts at this bit of the input. -/
  | bad (bit : Nat)
  /-- The input ends first. -/
  | short
deriving DecidableEq, Repr

/-- A symbol of a canonical code. A sole symbol has code 0, so a 1 begins no code. -/
def briSym (c : Prefix) (p : Array Byte) (pos : Nat) : Sym :=
  if c.symbols.size = 1 && pos < 8 * p.size && bitOf p pos = 1 then .bad else c.next p pos

/-- The tokens of a coded payload of `plen` bytes, of which the input may hold fewer. Answers the output, the phrases and the
end: `ok` gives the bit after END_OF_BLOCK, `bad` a bit of the payload (R284). -/
def briTokens (p : Array Byte) (plen : Nat) (lit idx : Prefix) (cap raw : Nat) :
    (fuel pos : Nat) → Array Byte → Array Phrase → Array Byte × Array Phrase × BriEnd
  | 0, pos, out, ps => (out, ps, .bad pos)
  | f + 1, pos, out, ps =>
    let fail := fun (e : BriEnd) => (out, ps, e)
    let early := fun (at_ : Nat) => fail (if p.size < plen then .short else .bad at_)
    match briSym idx p pos with
    | .bad => fail (.bad pos)
    | .early => early pos
    | .sym k pos1 =>
      match takeBits p pos1 (k - 1) with
      | none => early pos
      | some x =>
        let i := if k = 0 then 0 else 2 ^ (k - 1) + x
        let pos2 := pos1 + (k - 1)
        if i > ps.size || out.size + phraseLength ps i > raw then fail (.bad pos) else
        match briSym lit p pos2 with
        | .bad => fail (.bad pos2)
        | .early => early pos2
        | .sym c pos3 =>
          let whole := out ++ (phraseBytes ps (i + 1) i []).toArray
          if c < 256 then
            if out.size + phraseLength ps i + 1 > raw then fail (.bad pos)
            else briTokens p plen lit idx cap raw f pos3 (whole.push (BitVec.ofNat 8 c))
              (addPhrase cap ps i (BitVec.ofNat 8 c))
          else if whole.size < raw || ceilDiv pos3 8 ≠ plen then fail (.bad pos2)
          else (whole, ps, .ok pos3)

/-- One coded payload of `plen` bytes at byte `q` of the input. -/
def briCoded (d : Array Byte) (q plen raw : Nat) (dynamic : Bool) (cap : Nat) (ps : Array Phrase) :
    Array Byte × Array Phrase × BriEnd :=
  let p := d.extract q (q + plen)
  let run := fun (lit idx : Prefix) (pos : Nat) =>
    match briTokens p plen lit idx cap raw (raw + 2) pos #[] ps with
    | (out, ps', .ok bit) =>
      match (List.range (8 * p.size - bit)).find? fun i => bitOf p (bit + i) = 1 with
      | some i => (out, ps', .bad (8 * q + bit + i))
      | none => (out, ps', .ok (q + plen))
    | (out, ps', .bad bit) => (out, ps', .bad (8 * q + bit))
    | r => r
  if dynamic then
    if p.size < 137 then (#[], ps, if p.size < plen then .short else .bad (8 * q)) else
    let lens := (List.range 274).map fun i => (takeBits p (4 * i) 4).getD 0
    let lit := lens.take 257
    let idx := lens.drop 257
    if lit.getD 256 0 = 0 || !briCodeValid lit || !briCodeValid idx then (#[], ps, .bad (8 * q))
    else run (mkPrefix lit) (mkPrefix idx) 1096
  else run (mkPrefix staticLit) (mkPrefix staticIdx) 0

/-- The first faulty field of a list of (byte offset, length, valid) in arrival order, against an input
of `size` bytes. -/
def firstFieldFault (size : Nat) : List (Nat × Nat × Bool) → Option BriEnd
  | [] => none
  | (o, n, ok) :: t =>
    if o + n > size then some .short
    else if ok then firstFieldFault size t
    else some (.bad (8 * o))

/-- A stream header at byte `q` (Table 10-1): the stream it opens, or the fault. -/
def briHeader (d : Array Byte) (q : Nat) : Except BriEnd BriStream :=
  let b := fun o => (d.getD (q + o) 0).toNat
  let magic : List Nat := [0x48, 0x42, 0x52, 0x5A]
  let checks := (magic.zipIdx.map fun (v, i) => (i, decide (b i = v))) ++
    [(4, decide (b 4 = 1)), (5, decide (9 ≤ b 5 ∧ b 5 ≤ 16)), (6, decide (12 ≤ b 6 ∧ b 6 ≤ 16)), (7, decide (b 7 < 2))] ++
    (List.range 8).map fun i => (8 + i, decide (b (8 + i) = 0))
  match firstFieldFault d.size (checks.map fun (o, ok) => (q + o, 1, ok)) with
  | some (.bad bit) => .error (.bad (if bit < 8 * (q + 4) then 8 * q else bit))
  | some e => .error e
  | none => .ok { BriStream.new (b 5) (b 6) (b 7 = 1) with stream := 16 }

/-- The block at byte `q` of the input (R275 to R278, R284): its output, the stream after it, the end. -/
def briDecodeBlock (d : Array Byte) (q : Nat) (s : BriStream) : Bytes × BriStream × BriEnd :=
  let b := fun o => (d.getD (q + o) 0).toNat
  let kind := b 0 % 4
  if q ≥ d.size then ([], s, .short) else
  if kind = 3 then
    match firstFieldFault d.size [(q, 1, b 0 = 3), (q + 1, 1, b 1 = 0), (q + 2, 1, b 2 = 0), (q + 3, 1, b 3 = 0), (q + 4, 4, true)] with
    | some e => ([], s, e)
    | none =>
      let crc := leNat (d.extract (q + 4) (q + 8)).toList
      ([], { s with stream := s.stream + 8 }, .done (q + 8) (crc = (Poly.crc32c.finish s.crc).toNat))
  else
    let raw := b 2 + 256 * b 3 + 1
    let plen := leNat (d.extract (q + 4) (q + 8)).toList
    let lim := 2 ^ s.blockLog2
    match firstFieldFault d.size [(q, 1, b 0 < 8), (q + 1, 1, b 1 = 0), (q + 2, 2, raw ≤ lim),
        (q + 4, 4, 1 ≤ plen ∧ plen ≤ lim ∧ (kind ≠ 0 ∨ plen = raw))] with
    | some e => ([], s, e)
    | none =>
      let ps := if b 0 / 4 = 1 then #[] else s.phrases
      let next := q + 8 + roundUp plen 8
      let close := fun (out : Array Byte) (ps : Array Phrase) =>
        let s' := { s with phrases := ps, crc := Poly.crc32c.feedAll s.crc out.toList, raw := s.raw + out.size,
                           stream := s.stream + (next - q) }
        (out.toList, s', (firstFieldFault d.size ((List.range (next - (q + 8 + plen))).map fun i =>
          (q + 8 + plen + i, 1, decide (d.getD (q + 8 + plen + i) 0 = 0)))).getD (.ok next))
      if kind = 0 then
        if q + 8 + plen > d.size then ([], s, .short) else close (d.extract (q + 8) (q + 8 + plen)) ps
      else
        match briCoded d (q + 8) plen raw (kind = 2) (2 ^ s.dictLog2) ps with
        | (out, ps', .ok _) => close out ps'
        | (out, _, e) => (out.toList, s, e)

/-- The blocks of one stream from byte `q`: output so far, and how it ended. -/
def briBlocks (d : Array Byte) : (fuel q : Nat) → BriStream → Bytes → Bytes × BriEnd
  | 0, _, _, out => (out, .short)
  | f + 1, q, s, out =>
    match briDecodeBlock d q s with
    | (more, s', .ok next) => briBlocks d f next s' (out ++ more)
    | (more, _, e) => (out ++ more, e)

/-- Streams back to back in a unit of a DECOMPRESS stage (R103, R284): a stream whose CRC differs is kept
and the next one follows. `first` is the first fault found. -/
def briStreams (d : Array Byte) (maxOut : Nat) : (fuel q : Nat) → Bytes → Option (Nat × Nat) → Unpacked
  | 0, _, out, first => ⟨out, first, false⟩
  | f + 1, q, out, first =>
    let stop := fun (out : Bytes) (code at_ : Nat) =>
      if out.length > maxOut then Unpacked.mk (out.take maxOut) (some (first.getD (dmgOversize, at_))) true
      else ⟨out, some (first.getD (code, at_)), false⟩
    let ending := fun (out : Bytes) (e : BriEnd) =>
      match e with
      | .ok n => stop out dmgDecompress n
      | .short => stop out dmgTruncated d.size
      | .bad bit => stop out dmgDecompress (bit / 8)
      | .done next ok =>
        if out.length > maxOut then stop out dmgOversize next else
        let first' := if ok then first else some (first.getD (dmgChecksum, next - 4))
        if next ≥ d.size then ⟨out, first', false⟩ else briStreams d maxOut f next out first'
    match briHeader d q with
    | .error e => ending out e
    | .ok s => let r := briBlocks d (d.size + 1) (q + 16) s out; ending r.1 r.2

/-- CODEC 0x06 of a DECOMPRESS stage. -/
def unpackBriar (maxOut : Nat) (bs : Bytes) : Unpacked := briStreams bs.toArray maxOut (bs.length + 1) 0 [] none

/-- The longest phrase that is a prefix of the rest, and its length (R285). -/
def longestPhrase (ps : Array Phrase) : (rest : Bytes) → (node len : Nat) → Nat × Nat
  | [], node, len => (node, len)
  | b :: t, node, len =>
    match (List.range ps.size).find? fun j => (ps.getD j ⟨0, 0, 0⟩).parent = node && (ps.getD j ⟨0, 0, 0⟩).byte = b with
    | some j => longestPhrase ps t (j + 1) (len + 1)
    | none => (node, len)

/-- The greedy parse of a block's raw bytes (R285): tokens in order, END_OF_BLOCK as 256. -/
def greedyParse (cap : Nat) : (fuel : Nat) → Bytes → Array Phrase → List (Nat × Nat) → List (Nat × Nat) × Array Phrase
  | 0, _, ps, acc => (acc.reverse, ps)
  | f + 1, rest, ps, acc =>
    if rest.isEmpty then (((0, 256) :: acc).reverse, ps) else
    let (p, len) := longestPhrase ps rest 0 0
    match rest.drop len with
    | [] => (((p, 256) :: acc).reverse, ps)
    | c :: t => greedyParse cap f t (addPhrase cap ps p c) ((p, c.toNat) :: acc)

/-- An item of the package-merge: its weight and the symbols it holds. -/
structure Parcel where
  weight : Nat
  symbols : List Nat
deriving DecidableEq, Repr

/-- Merge in order of weight; on equal weight a leaf comes before a package (R286). -/
def mergeParcels : (fuel : Nat) → (leaves packages : List Parcel) → List Parcel
  | 0, a, b => a ++ b
  | _, [], b => b
  | _, a, [] => a
  | f + 1, a :: s, b :: t =>
    if a.weight ≤ b.weight then a :: mergeParcels f s (b :: t) else b :: mergeParcels f (a :: s) t

/-- Pairs of consecutive items; an odd last item is dropped. -/
def pairParcels : List Parcel → List Parcel
  | a :: b :: t => ⟨a.weight + b.weight, a.symbols ++ b.symbols⟩ :: pairParcels t
  | _ => []

/-- Put a leaf in its place by count, after the leaves of equal or smaller count. -/
def placeLeaf (x : Parcel) : List Parcel → List Parcel
  | [] => [x]
  | y :: t => if x.weight < y.weight then x :: y :: t else y :: placeLeaf x t

/-- The package-merge code lengths of R286 with a limit of 15. -/
def packageMerge (counts : List Nat) : List Nat :=
  let leaves := ((counts.zipIdx.filter fun e => e.1 ≠ 0).map fun e => Parcel.mk e.1 [e.2]).foldl (fun l x => placeLeaf x l) []
  match leaves with
  | [x] => counts.zipIdx.map fun e => if x.symbols = [e.2] then 1 else 0
  | _ =>
    let last := (List.range 14).foldl (fun l _ => let ps := pairParcels l
      mergeParcels (leaves.length + ps.length) leaves ps) leaves
    let taken := (last.take (2 * leaves.length - 2)).flatMap (·.symbols)
    counts.zipIdx.map fun e => taken.count e.2

/-- The code of a symbol under a set of lengths (R281), most significant bit first. -/
def codeBits (lens : List Nat) (sym : Nat) : List Bool :=
  let len := lens.getD sym 0
  let order := (List.range 15).flatMap fun i => (lens.zipIdx.filter fun e => e.1 = i + 1)
  let code := (order.foldl (fun (acc : Option (Nat × Nat) × Option Nat) e =>
    let c := match acc.1 with
      | none => 0
      | some (prev, pl) => (prev + 1) * 2 ^ (e.1 - pl)
    (some (c, e.1), if e.2 = sym then some c else acc.2)) (none, none)).2.getD 0
  (List.range len).map fun i => natBit code (len - 1 - i)

/-- A number as `k` bits, least significant first. -/
def numberBits (k v : Nat) : List Bool := (List.range k).map fun i => natBit v i

/-- Fill bytes from bit 0 upward; the last byte is filled with zeros (R279). -/
def packBits : (fuel : Nat) → List Bool → Bytes
  | 0, _ => []
  | f + 1, bs => if bs.isEmpty then [] else
    BitVec.ofNat 8 (((bs.take 8).zipIdx.map fun e => if e.1 then 2 ^ e.2 else 0).sum) :: packBits f (bs.drop 8)

/-- Bits of a token list under two codes (R280). -/
def tokenBits (lit idx : List Nat) (toks : List (Nat × Nat)) : List Bool :=
  toks.flatMap fun (i, c) =>
    let k := bucketOf i
    codeBits idx k ++ numberBits (k - 1) (i - 2 ^ (k - 1)) ++ codeBits lit c

/-- The coded candidate of a block, its KIND and payload bits: static on a tie (R286). -/
def codedCandidate (toks : List (Nat × Nat)) : Nat × List Bool :=
  let lit := packageMerge ((List.range 257).map fun c => toks.countP fun t => t.2 = c)
  let idx := packageMerge ((List.range 17).map fun k => toks.countP fun t => bucketOf t.1 = k)
  let st := tokenBits staticLit staticIdx toks
  let dy := (lit ++ idx).flatMap (numberBits 4) ++ tokenBits lit idx toks
  if st.length ≤ dy.length then (1, st) else (2, dy)

/-- Compress one block of raw bytes (R285, R286): its bytes, the stream after it, and whether it is stored. -/
def briCompressBlock (s : BriStream) (raw : Bytes) : Bytes × BriStream × Bool :=
  let reset := s.resetFull && s.full
  let ps0 := if reset then #[] else s.phrases
  let (toks, ps1) := greedyParse (2 ^ s.dictLog2) (raw.length + 1) raw ps0 []
  let (kind, bits) := codedCandidate toks
  let coded := packBits bits.length bits
  let stored := roundUp coded.length 8 ≥ roundUp raw.length 8
  let payload := if stored then raw else coded
  let type := (if stored then 0 else kind) + (if reset then 4 else 0)
  let block := leBytes 1 type ++ [0] ++ leBytes 2 (raw.length - 1) ++ leBytes 4 payload.length ++ payload ++
    List.replicate (roundUp payload.length 8 - payload.length) 0
  (block, { s with phrases := if stored then ps0 else ps1, crc := Poly.crc32c.feedAll s.crc raw,
                   raw := s.raw + raw.length, stream := s.stream + block.length, pending := [] }, stored)

/-- The stream header that a compressor writes. -/
def briHeaderBytes (s : BriStream) : Bytes :=
  leBytes 4 0x5A524248 ++ leBytes 1 1 ++ leBytes 1 s.dictLog2 ++ leBytes 1 s.blockLog2 ++
    leBytes 1 (if s.resetFull then 1 else 0) ++ List.replicate 8 0

/-- The end block (R276). -/
def briEndBlock (s : BriStream) : Bytes := leBytes 4 3 ++ leBytes 4 (Poly.crc32c.finish s.crc).toNat

/-- A whole sample as one stream without flushes (R289), with the number of stored blocks. -/
def briCompress (dictLog2 blockLog2 : Nat) (resetFull : Bool) (raw : Bytes) : Bytes × Nat :=
  let s0 := { BriStream.new dictLog2 blockLog2 resetFull with stream := 16 }
  let r := (chunksOf (2 ^ blockLog2) raw.length raw).foldl (fun (acc : Bytes × BriStream × Nat) blk =>
    let (out, s', stored) := briCompressBlock acc.2.1 blk
    (acc.1 ++ out, s', acc.2.2 + (if stored then 1 else 0))) (briHeaderBytes s0, s0, 0)
  (r.1 ++ briEndBlock r.2.1, r.2.2)

/-- The state record of R294. -/
def briStateRecord (op : Nat) (s : BriStream) : Bytes :=
  leBytes 4 0x54534248 ++ [1] ++ leBytes 1 op ++ leBytes 1 s.dictLog2 ++ leBytes 1 s.blockLog2 ++
    leBytes 1 (if s.resetFull then 1 else 0) ++ [0, 0, 0] ++ leBytes 4 s.n ++ leBytes 4 s.crc.toNat ++ leBytes 4 0 ++
    leBytes 8 s.raw ++ leBytes 8 s.stream ++ List.replicate 24 0 ++
    s.phrases.toList.flatMap fun p => leBytes 2 p.parent ++ [p.byte, 0] ++ leBytes 2 p.length ++ [0, 0]

/-- The stream that a state record restores, or none where R294 refuses it. -/
def briStateOf (op : Nat) (bs : Bytes) : Option BriStream :=
  let n := fieldAt bs 0xC 4
  let dict := fieldAt bs 6 1
  let entry := fun i => (fieldAt bs (64 + 8 * i) 2, byteAt8 bs (64 + 8 * i + 2), fieldAt bs (64 + 8 * i + 4) 2)
  let ps := (List.range (n - 1)).map entry
  let lengthOf := fun i => if i = 0 then 0 else ((ps[i - 1]?).map fun e => e.2.2).getD 0
  if fieldAt bs 0 4 = 0x54534248 && fieldAt bs 4 1 = 1 && fieldAt bs 5 1 = op && 9 ≤ dict && dict ≤ 16 &&
      12 ≤ fieldAt bs 7 1 && fieldAt bs 7 1 ≤ 16 && fieldAt bs 8 1 ≤ 1 && zeroAt bs 9 3 && 1 ≤ n && n ≤ 2 ^ dict &&
      zeroAt bs 0x14 4 && zeroAt bs 0x28 24 &&
      (ps.zipIdx.all fun (e, i) => e.1 < i + 1 && e.2.2 = lengthOf e.1 + 1 &&
        zeroAt bs (64 + 8 * i + 3) 1 && zeroAt bs (64 + 8 * i + 6) 2) then
    some ⟨dict, fieldAt bs 7 1, fieldAt bs 8 1 = 1, (ps.map fun e => Phrase.mk e.1 e.2.1 e.2.2).toArray,
      BitVec.ofNat 64 (fieldAt bs 0x10 4), fieldAt bs 0x18 8, fieldAt bs 0x20 8, []⟩
  else none
where
  /-- One byte of a record. -/
  byteAt8 (bs : Bytes) (i : Nat) : Byte := bs.getD i 0

/-- Codes of Table 10-6. -/
def ST_BRI_FORMAT : Nat := 0x0090
def ST_BRI_CHECK : Nat := 0x0091
def ST_BRI_TRUNCATED : Nat := 0x0092
def ST_BRI_OUT_FULL : Nat := 0x0093
def ST_BRI_STATE : Nat := 0x0094
def ST_BRI_DESC : Nat := 0x0095
def ST_BRI_VERIFY : Nat := 0x0096
def ST_BRI_ABORTED : Nat := 0x0097
def ST_BRI_NOT_HELD : Nat := 0x0098

end Sys2Proof.Machine
end

