-- ==== Sys2Proof/Machine/Cipher.lean ====
section
/-! DEFINITION. AES-256 (FIPS 197) with the modes that the spec names: GCM for Plyn packets and sealed
objects, XTS for data at rest (R21, R101, R226, R318). PRESUMED from the published standards (log entry 16). -/

namespace Sys2Proof.Machine

/-- The AES substitution table. Entry `i` stands at bits `[8i+7:8i]`. -/
def aesSbox : Nat :=
  (((((((0x16bb54b00f2d99416842e6bf0d89a18cdf2855cee9871e9b948ed9691198f8e1) * 2 ^ 256 +
    0x9e1dc186b95735610ef6034866b53e708a8bbd4b1f74dde8c6b4a61c2e2578ba) * 2 ^ 256 +
    0x08ae7a65eaf4566ca94ed58d6d37c8e779e4959162acd3c25c2406490a3a32e0) * 2 ^ 256 +
    0xdb0b5ede14b8ee4688902a22dc4f816073195d643d7ea7c41744975fec130ccd) * 2 ^ 256 +
    0xd2f3ff1021dab6bcf5389d928f40a351a89f3c507f02f94585334d43fbaaefd0) * 2 ^ 256 +
    0xcf584c4a39becb6a5bb1fc20ed00d153842fe329b3d63b52a05a6e1b1a2c8309) * 2 ^ 256 +
    0x75b227ebe28012079a059618c323c7041531d871f1e5a534ccf73f362693fdb7) * 2 ^ 256 +
    0xc072a49cafa2d4adf04759fa7dc982ca76abd7fe2b670130c56f6bf27b777c63

/-- Its inverse. Entry `i` stands at bits `[8i+7:8i]`. -/
def aesInvSbox : Nat :=
  (((((((0x7d0c2155631469e126d677ba7e042b17619953833cbbebc8b0f52aae4d3be0a0) * 2 ^ 256 +
    0xef9cc9939f7ae52d0d4ab519a97f51605fec8027591012b131c7078833a8dd1f) * 2 ^ 256 +
    0xf45acd78fec0db9a2079d2c64b3e56fc1bbe18aa0e62b76f89c5291d711af147) * 2 ^ 256 +
    0x6edf751ce837f9e28535ade72274ac9673e6b4f0cecff297eadc674f4111913a) * 2 ^ 256 +
    0x6b8a130103bdafc1020f3fca8f1e2cd00645b3b80558e4f70ad3bc8c00abd890) * 2 ^ 256 +
    0x849d8da75746155edab9edfd5048706c92b6655dcc5ca4d41698688664f6f872) * 2 ^ 256 +
    0x25d18b6d49a25b76b224d92866a12e084ec3fa420b954cee3d23c2a632947b54) * 2 ^ 256 +
    0xcbe9dec444438e3487ff2f9b8239e37cfbd7f3819ea340bf38a53630d56a0952

/-- Byte `i` of a packed table. -/
def tableByte (t : Nat) (b : Byte) : Byte := BitVec.ofNat 8 (t >>> (8 * b.toNat))

/-- Doubling in GF(2^8). -/
def gfDouble (b : Byte) : Byte := (b <<< 1) ^^^ (if b.msb then 0x1b else 0)

/-- Product of a byte with a small constant of 4 bits in GF(2^8). -/
def gfTimes (k : Nat) (b : Byte) : Byte :=
  let b2 := gfDouble b
  let b4 := gfDouble b2
  let b8 := gfDouble b4
  (if natBit k 0 then b else 0) ^^^ (if natBit k 1 then b2 else 0) ^^^
    (if natBit k 2 then b4 else 0) ^^^ (if natBit k 3 then b8 else 0)

/-- Byte-wise exclusive or; the shorter string ends it. -/
def xorBytes (a b : Bytes) : Bytes := List.zipWith (· ^^^ ·) a b

/-- A byte of a list, zero past its end. -/
def byteAt (bs : Bytes) (i : Nat) : Byte := bs.getD i 0

/-- One word of the key schedule from the one before it and the one 8 words back. -/
def aesNextWord (i : Nat) (prev back : Bytes) : Bytes :=
  let sub := fun w : Bytes => w.map (tableByte aesSbox)
  let t :=
    if i % 8 = 0 then
      xorBytes (sub (prev.drop 1 ++ prev.take 1)) [BitVec.ofNat 8 (2 ^ (i / 8 - 1)), 0, 0, 0]
    else if i % 8 = 4 then sub prev
    else prev
  xorBytes t back

/-- Words 8 to 59 of the key schedule; `win` holds the last eight words, oldest first. -/
def aesExpandFrom : (n i : Nat) → (win : List Bytes) → List Bytes
  | 0, _, _ => []
  | n + 1, i, win =>
    let w := aesNextWord i (win.getD 7 []) (win.getD 0 [])
    w :: aesExpandFrom n (i + 1) (win.drop 1 ++ [w])

/-- The 15 round keys of a 32-byte key. -/
def aesRoundKeys (key : Bytes) : List Bytes :=
  let first := (List.range 8).map fun i => sliceAt key (4 * i) 4
  let all := first ++ aesExpandFrom 52 8 first
  (List.range 15).map fun r => ((all.drop (4 * r)).take 4).flatten

/-- ShiftRows: row `r` of the column-major state turns left by `r`. -/
def aesShiftRows (s : Bytes) : Bytes := (List.range 16).map fun i => byteAt s ((i + 4 * (i % 4)) % 16)

/-- The inverse of ShiftRows. -/
def aesUnshiftRows (s : Bytes) : Bytes := (List.range 16).map fun i => byteAt s ((i + 16 - 4 * (i % 4)) % 16)

/-- MixColumns with the four coefficients of one row. -/
def aesMix (k0 k1 k2 k3 : Nat) (s : Bytes) : Bytes :=
  (List.range 16).map fun i =>
    let c := i / 4 * 4
    let r := i % 4
    let g := fun (k j : Nat) => gfTimes k (byteAt s (c + (r + j) % 4))
    g k0 0 ^^^ g k1 1 ^^^ g k2 2 ^^^ g k3 3

/-- The middle rounds of encryption. -/
def aesRounds : List Bytes → Bytes → Bytes
  | [], s => s
  | [k], s => xorBytes (aesShiftRows (s.map (tableByte aesSbox))) k
  | k :: ks, s => aesRounds ks (xorBytes (aesMix 2 3 1 1 (aesShiftRows (s.map (tableByte aesSbox)))) k)

/-- Encrypt one block under expanded keys. -/
def aesEncryptWith (ks : List Bytes) (blk : Bytes) : Bytes :=
  aesRounds (ks.drop 1) (xorBytes blk (ks.headD []))

/-- The rounds of decryption, from the last round key down. -/
def aesInvRounds : List Bytes → Bytes → Bytes
  | [], s => s
  | [k], s => xorBytes ((aesUnshiftRows s).map (tableByte aesInvSbox)) k
  | k :: ks, s =>
    aesInvRounds ks (aesMix 14 11 13 9 (xorBytes ((aesUnshiftRows s).map (tableByte aesInvSbox)) k))

/-- Decrypt one block under expanded keys. -/
def aesDecryptWith (ks : List Bytes) (blk : Bytes) : Bytes :=
  let r := ks.reverse
  aesInvRounds (r.drop 1) (xorBytes blk (r.headD []))

/-- Product in GF(2^128) as GCM numbers its bits (the first bit of a block is the top bit). -/
def ghashMul : (n : Nat) → (x v acc : Nat) → Nat
  | 0, _, _, acc => acc
  | n + 1, x, v, acc =>
    let acc' := if x.testBit n then acc ^^^ v else acc
    let v' := if v % 2 = 1 then (v >>> 1) ^^^ (0xe1 <<< 120) else v >>> 1
    ghashMul n x v' acc'

/-- GHASH over a padded string. -/
def ghash (h : Nat) (bs : Bytes) : Nat :=
  (chunksOf 16 bs.length bs).foldl (fun y c => ghashMul 128 (y ^^^ beNat (sliceAt c 0 16)) h 0) 0

/-- The counter blocks of GCM from a counter value, as one key stream of `n` blocks. -/
def gcmStream (ks : List Bytes) (iv : Bytes) : (n ctr : Nat) → Bytes
  | 0, _ => []
  | n + 1, ctr => aesEncryptWith ks (iv ++ beBytes 4 ctr) ++ gcmStream ks iv n (ctr + 1)

/-- Zero bytes up to a multiple of 16. -/
def pad16 (bs : Bytes) : Bytes := bs ++ List.replicate (roundUp bs.length 16 - bs.length) 0

/-- The 16-byte tag of a ciphertext under a 12-byte IV. -/
def gcmTag (ks : List Bytes) (iv aad ct : Bytes) : Bytes :=
  let h := beNat (aesEncryptWith ks (List.replicate 16 0))
  let s := ghash h (pad16 aad ++ pad16 ct ++ beBytes 8 (8 * aad.length) ++ beBytes 8 (8 * ct.length))
  xorBytes (beBytes 16 s) (aesEncryptWith ks (iv ++ beBytes 4 1))

/-- AES-256-GCM encryption: ciphertext and tag. -/
def gcmSeal (key iv aad pt : Bytes) : Bytes × Bytes :=
  let ks := aesRoundKeys key
  let ct := xorBytes pt (gcmStream ks iv (ceilDiv pt.length 16) 2)
  (ct, gcmTag ks iv aad ct)

/-- AES-256-GCM decryption: the plaintext where the tag agrees. -/
def gcmOpen (key iv aad ct tag : Bytes) : Option Bytes :=
  let ks := aesRoundKeys key
  if gcmTag ks iv aad ct = tag then some (xorBytes ct (gcmStream ks iv (ceilDiv ct.length 16) 2)) else none

/-- Doubling of an XTS tweak (IEEE 1619): the tweak is a little-endian number of 128 bits. -/
def xtsDouble (t : Nat) : Nat := (2 * t % 2 ^ 128) ^^^ (if t.testBit 127 then 0x87 else 0)

/-- XTS over whole blocks from a tweak. -/
def xtsBlocks (f : Bytes → Bytes) : (tweak : Nat) → List Bytes → Bytes
  | _, [] => []
  | t, b :: bs => xorBytes (f (xorBytes (sliceAt b 0 16) (leBytes 16 t))) (leBytes 16 t) ++ xtsBlocks f (xtsDouble t) bs

/-- AES-256-XTS encryption of one data unit under a key of 64 bytes; the unit is a multiple of 16 bytes. -/
def xtsEncrypt (key : Bytes) (unit : Nat) (pt : Bytes) : Bytes :=
  let t := leNat (aesEncryptWith (aesRoundKeys (key.drop 32)) (leBytes 16 unit))
  let k := aesRoundKeys (key.take 32)
  xtsBlocks (aesEncryptWith k) t (chunksOf 16 pt.length pt)

/-- AES-256-XTS decryption of one data unit. -/
def xtsDecrypt (key : Bytes) (unit : Nat) (ct : Bytes) : Bytes :=
  let t := leNat (aesEncryptWith (aesRoundKeys (key.drop 32)) (leBytes 16 unit))
  let k := aesRoundKeys (key.take 32)
  xtsBlocks (aesDecryptWith k) t (chunksOf 16 ct.length ct)

end Sys2Proof.Machine
end

