-- ==== Sys2Proof/Machine/Image.lean ====
section
/-! DEFINITION. Enale images: their parsed parts and how the loader reads them from the bytes of an image
(Tables 2-1 to 2-6 and 2-12 to 2-16, R43 to R47). -/

namespace Sys2Proof.Machine

/-- An index field that names nothing. -/
def noIndex : Nat := 0xFFFF_FFFF

/-- A directory entry of an image (Table 2-2): where it stands and what it says. -/
structure DirEntry where
  at_ : Nat
  type : Nat
  version : Nat
  length : Nat
  offset : Nat
deriving DecidableEq, Repr

/-- A stage entry (Table 2-4); `at_` is the byte offset of the entry within the image. -/
structure Stage where
  at_ : Nat
  id : Nat
  kind : Nat
  flags : Nat
  kennels : Nat
  reserve : Nat
  minKennels : Nat
  group : Nat
  program : Nat
  engineClass : Nat
  engines : Nat
  table : Nat
deriving DecidableEq, Repr

/-- An edge entry. -/
structure Edge where
  at_ : Nat
  fromStage : Nat
  fromPort : Nat
  toStage : Nat
  toPort : Nat
deriving DecidableEq, Repr

/-- A claim entry (Table 2-6). -/
structure Claim where
  at_ : Nat
  rtype : Nat
  mode : Nat
  index : Nat
  count : Nat
  param : Nat
deriving DecidableEq, Repr

/-- A table of the TABLES section: its kind, the byte offset of its contents within the image, its contents. -/
structure ImageTable where
  at_ : Nat
  kind : Nat
  body : Bytes
deriving DecidableEq, Repr

/-- A kennel-store region that a program names (R44). -/
structure RegionEntry where
  at_ : Nat
  region : Nat
  state : Nat
  core : Nat
  table : Nat
  offset : Nat
deriving DecidableEq, Repr

/-- A channel entry (R44). -/
structure ChannelEntry where
  at_ : Nat
  groupIdx : Nat
  core : Nat
  dir : Nat
  channel : Nat
  peerGroupIdx : Nat
  peerCore : Nat
  peerChannel : Nat
deriving DecidableEq, Repr

/-- A core program (Table 2-12). -/
structure Program where
  at_ : Nat
  length : Nat
  flags : Nat
  instrLen : Nat
  dataLen : Nat
  entry : Nat
  budget : Nat
  instr : Bytes
  data : Bytes
  regions : List RegionEntry
  channels : List ChannelEntry
deriving DecidableEq, Repr

/-- An epoch timer program (Table 2-15). -/
structure TimerProgram where
  pulse : Bool
  interrupt : Bool
  pin : Nat
  widthNs : Nat
  baseSec : Nat
  baseNs : Nat
  periodNs : Nat
deriving DecidableEq, Repr

/-- A gate control list (Table 2-16): the base time, the cycle, and gate bits with intervals. -/
structure GateList where
  baseSec : Nat
  baseNs : Nat
  cycleNs : Nat
  entries : List (Nat × Nat)
deriving DecidableEq, Repr

/-- One hedge of the partition (Table 2-14). -/
structure HedgeEntry where
  hedge : Nat
  confidential : Bool
  kennels : Nat
  gsig : Nat
  timers : Nat
  gcl : Nat
  engines : List Nat
  contextFirst : Nat
  contextCount : Nat
  pools : Nat
  namespaces : Nat
  dram : List (Nat × Nat)
  dma : Nat
  chk : Nat
deriving DecidableEq, Repr

/-- The partition of the device into hedges with its common set (R46, R50). At reset hedge 0 owns all. -/
structure Partition where
  hedges : List HedgeEntry
  commonGsig : Nat
  commonTimers : Nat
  commonGcl : Nat
deriving DecidableEq, Repr

/-- The reset partition: one hedge, hedge 0, that owns every resource. -/
def Partition.reset : Partition := ⟨[], 0, 0, 0⟩

/-- A loaded image: the copy held in DRAM and what the loader bound (R53, R37). -/
structure Image where
  bytes : Bytes
  digest : Bytes
  varies : Bool
  stages : List Stage
  edges : List Edge
  claims : List Claim
  programs : List Program
  tables : List ImageTable
  timers : List TimerProgram
  gates : List GateList
  planReq : Nat
  /-- Per STAGE_ID the kennels bound to it, and its reserve, in order (R37). -/
  bound : List (Nat × List Nat)
  reserve : List (Nat × List Nat)
  /-- Per STAGE_ID the engines bound to it, by engine number. -/
  engines : List (Nat × List Nat)
deriving DecidableEq, Repr

/-- A loader error: code, section, resource type, owner, index (R54). -/
structure LoadError where
  code : Nat
  sect : Nat
  rtype : Nat
  owner : Nat
  index : Nat
deriving DecidableEq, Repr

/-- The directory of an image. -/
def dirEntries (img : Bytes) : List DirEntry :=
  (List.range (fieldAt img 6 2)).map fun i =>
    let o := 0x40 + 16 * i
    ⟨o, fieldAt img o 2, fieldAt img (o + 2) 2, fieldAt img (o + 4) 4, fieldAt img (o + 8) 8⟩

/-- Offset and length of the section of a type, if the image holds one. -/
def sectionOf (img : Bytes) (type : Nat) : Option (Nat × Nat) :=
  ((dirEntries img).find? fun e => e.type = type).map fun e => (e.offset, e.length)

/-- Start of a section; 0 where there is none. -/
def sectionStart (img : Bytes) (type : Nat) : Nat := ((sectionOf img type).map (·.1)).getD 0

/-- Length of a section; 0 where there is none. -/
def sectionLength (img : Bytes) (type : Nat) : Nat := ((sectionOf img type).map (·.2)).getD 0

/-- One stage entry. -/
def stageAt (img : Bytes) (o : Nat) : Stage where
  at_ := o
  id := fieldAt img o 2
  kind := fieldAt img (o + 2) 1
  flags := fieldAt img (o + 3) 1
  kennels := fieldAt img (o + 4) 2
  reserve := fieldAt img (o + 6) 2
  minKennels := fieldAt img (o + 8) 2
  group := fieldAt img (o + 0xA) 2
  program := fieldAt img (o + 0xC) 4
  engineClass := fieldAt img (o + 0x10) 1
  engines := fieldAt img (o + 0x12) 2
  table := fieldAt img (o + 0x14) 4

/-- The stage entries of the GRAPH section. -/
def stagesOf (img : Bytes) : List Stage :=
  let g := sectionStart img 2
  (List.range (fieldAt img g 2)).map fun i => stageAt img (g + 16 + 32 * i)

/-- The edge entries of the GRAPH section. -/
def edgesOf (img : Bytes) : List Edge :=
  let g := sectionStart img 2
  let e0 := g + 16 + 32 * fieldAt img g 2
  (List.range (fieldAt img (g + 2) 2)).map fun i =>
    let o := e0 + 8 * i
    ⟨o, fieldAt img o 2, fieldAt img (o + 2) 2, fieldAt img (o + 4) 2, fieldAt img (o + 6) 2⟩

/-- The claim entries. -/
def claimsOf (img : Bytes) : List Claim :=
  let c := sectionStart img 1
  (List.range (sectionLength img 1 / 16)).map fun i =>
    let o := c + 16 * i
    ⟨o, fieldAt img o 1, fieldAt img (o + 1) 1, fieldAt img (o + 4) 4, fieldAt img (o + 8) 4,
      fieldAt img (o + 12) 4⟩

/-- The tables of the TABLES section. -/
def tablesOf (img : Bytes) : List ImageTable :=
  match sectionOf img 4 with
  | none => []
  | some (t, _) =>
    (List.range (fieldAt img t 4)).map fun i =>
      let o := t + 16 + 16 * i
      let a := t + fieldAt img o 8
      ⟨a, fieldAt img (o + 12) 2, (img.drop a).take (fieldAt img (o + 8) 4)⟩

/-- One region entry. -/
def regionAt (img : Bytes) (o : Nat) : RegionEntry :=
  ⟨o, fieldAt img o 1, fieldAt img (o + 1) 1, fieldAt img (o + 2) 1, fieldAt img (o + 4) 4,
    fieldAt img (o + 8) 4⟩

/-- One channel entry. -/
def channelAt (img : Bytes) (o : Nat) : ChannelEntry :=
  ⟨o, fieldAt img o 2, fieldAt img (o + 2) 1, fieldAt img (o + 3) 1, fieldAt img (o + 4) 1,
    fieldAt img (o + 6) 2, fieldAt img (o + 8) 1, fieldAt img (o + 9) 1⟩

/-- One program, from its header at `b` and the LENGTH of its directory entry. -/
def programAt (img : Bytes) (b length : Nat) : Program where
  at_ := b
  length := length
  flags := fieldAt img (b + 6) 2
  instrLen := fieldAt img (b + 8) 4
  dataLen := fieldAt img (b + 0xC) 4
  entry := fieldAt img (b + 0x10) 4
  budget := fieldAt img (b + 0x14) 4
  instr := (img.drop (b + fieldAt img (b + 0x20) 4)).take (fieldAt img (b + 8) 4)
  data := (img.drop (b + fieldAt img (b + 0x24) 4)).take (fieldAt img (b + 0xC) 4)
  regions := (List.range (fieldAt img (b + 0x18) 2)).map fun i =>
    regionAt img (b + fieldAt img (b + 0x28) 4 + 12 * i)
  channels := (List.range (fieldAt img (b + 0x1A) 2)).map fun i =>
    channelAt img (b + fieldAt img (b + 0x2C) 4 + 12 * i)

/-- The programs of the PROGRAMS section. -/
def programsOf (img : Bytes) : List Program :=
  match sectionOf img 3 with
  | none => []
  | some (p, _) =>
    (List.range (fieldAt img p 4)).map fun i =>
      let o := p + 16 + 8 * i
      programAt img (p + fieldAt img o 4) (fieldAt img (o + 4) 4)

/-- A timer program at a byte offset. -/
def timerProgramAt (bs : Bytes) (o : Nat) : TimerProgram where
  pulse := natBit (fieldAt bs o 1) 0
  interrupt := natBit (fieldAt bs o 1) 1
  pin := fieldAt bs (o + 1) 1
  widthNs := fieldAt bs (o + 4) 4
  baseSec := fieldAt bs (o + 8) 6
  baseNs := fieldAt bs (o + 0x10) 4
  periodNs := fieldAt bs (o + 0x14) 4

/-- A gate control list at a byte offset. -/
def gateListAt (bs : Bytes) (o : Nat) : GateList where
  baseSec := fieldAt bs o 6
  baseNs := fieldAt bs (o + 8) 4
  cycleNs := fieldAt bs (o + 0xC) 4
  entries := (List.range (fieldAt bs (o + 0x10) 2)).map fun i =>
    (fieldAt bs (o + 32 + 8 * i) 1, fieldAt bs (o + 32 + 8 * i + 4) 4)

/-- Offsets within the image of the SCHEDULE section's programs and lists. -/
def scheduleAt (img : Bytes) (i : Nat) : Nat :=
  let s := sectionStart img 6
  s + fieldAt img (s + 16 + 8 * i) 4

/-- The timer programs of the SCHEDULE section. -/
def timersOf (img : Bytes) : List TimerProgram :=
  (List.range (fieldAt img (sectionStart img 6) 2)).map fun i => timerProgramAt img (scheduleAt img i)

/-- The gate control lists of the SCHEDULE section. -/
def gatesOf (img : Bytes) : List GateList :=
  let s := sectionStart img 6
  (List.range (fieldAt img (s + 2) 2)).map fun i => gateListAt img (scheduleAt img (fieldAt img s 2 + i))

/-- One hedge entry. -/
def hedgeEntryAt (img : Bytes) (o : Nat) : HedgeEntry where
  hedge := fieldAt img o 1
  confidential := natBit (fieldAt img (o + 1) 1) 0
  kennels := fieldAt img (o + 2) 2
  gsig := fieldAt img (o + 4) 2
  timers := fieldAt img (o + 6) 1
  gcl := fieldAt img (o + 7) 1
  engines := (List.range 10).map fun i => fieldAt img (o + 8 + 2 * i) 2
  contextFirst := fieldAt img (o + 0x20) 2
  contextCount := fieldAt img (o + 0x22) 2
  pools := fieldAt img (o + 0x28) 8
  namespaces := fieldAt img (o + 0x30) 8
  dram := ((List.range 4).map fun i => (fieldAt img (o + 0x38 + 8 * i) 4, fieldAt img (o + 0x3C + 8 * i) 4)).filter
    fun r => r.2 ≠ 0
  dma := fieldAt img (o + 0x58) 8
  chk := fieldAt img (o + 0x60) 2

/-- The partition that the HEDGE section sets (R46); an image without one sets the reset partition (R359). -/
def partitionOf (img : Bytes) : Partition :=
  match sectionOf img 5 with
  | none => Partition.reset
  | some (h, _) =>
  { hedges := (List.range (fieldAt img h 1)).map fun i => hedgeEntryAt img (h + 32 + 128 * i)
    commonGsig := fieldAt img (h + 2) 2
    commonTimers := fieldAt img (h + 4) 1
    commonGcl := fieldAt img (h + 5) 1 }

/-- The entry of a hedge; hedge 0 has none. -/
def Partition.entry (p : Partition) (h : Nat) : Option HedgeEntry := p.hedges.find? fun e => e.hedge = h

/-- Does a hedge exist? -/
def Partition.exists_ (p : Partition) (h : Nat) : Bool := h = 0 || (p.entry h).isSome

/-- Is a hedge confidential? Hedge 0 never is. -/
def Partition.confidential (p : Partition) (h : Nat) : Bool := ((p.entry h).map (·.confidential)).getD false

/-- Does a hedge entry name resource `i` of a resource type by its bits or ranges (Table 2-14)? -/
def HedgeEntry.names (e : HedgeEntry) (rtype i : Nat) : Bool :=
  match rtype with
  | 0x01 => natBit e.gsig i
  | 0x02 => natBit e.timers i
  | 0x04 => natBit e.pools i
  | 0x07 => e.contextFirst ≤ i && i < e.contextFirst + e.contextCount
  | 0x08 => e.dram.any fun r => r.1 ≤ i && i < r.1 + r.2
  | 0x09 => 1 ≤ i && natBit e.namespaces (i - 1)
  | 0x0A => natBit e.gcl i
  | 0x0B => natBit e.chk i
  | 0x0C => natBit e.dma i
  | _ => false

/-- Is a resource common (R46)? The network-time counter always is. -/
def Partition.common (p : Partition) (rtype i : Nat) : Bool :=
  match rtype with
  | 0x01 => natBit p.commonGsig i
  | 0x02 => natBit p.commonTimers i
  | 0x03 => true
  | 0x0A => natBit p.commonGcl i
  | _ => false

/-- The hedge to which the partition gives a resource: the one that names it, else hedge 0 (R46). -/
def Partition.ownerOf (p : Partition) (rtype i : Nat) : Nat :=
  ((p.hedges.find? fun e => e.names rtype i).map (·.hedge)).getD 0

/-- May an image in hedge `h` claim a resource (R51)? -/
def Partition.allows (p : Partition) (h rtype i : Nat) : Bool :=
  p.common rtype i || p.ownerOf rtype i = h

/-- First unit and count of consecutive units that a hedge receives when hedges 1 to 15 in ascending
order take `count e` units each from 0, and hedge 0 keeps the rest of `total` (R46). -/
def Partition.spanOf (p : Partition) (count : HedgeEntry → Nat) (total h : Nat) : Nat × Nat :=
  let before := (p.hedges.filter fun e => e.hedge < h || h = 0).foldl (fun n e => n + count e) 0
  match p.entry h with
  | some e => (before, count e)
  | none => if h = 0 then (before, total - before) else (before, 0)

/-- Engines of each class on the device (Table 1-3, R20): classes 0x01 to 0x0A of Table 2-7. -/
def engineCount (cls : Nat) : Nat :=
  ([24, 32, 16, 128, 16, 64, 64, 32, 8, 32] : List Nat).getD (cls - 1) 0

/-- Index of one engine in the claim table: its class in the high part (Table 2-7, R291). -/
def engineKey (cls i : Nat) : Nat := cls * 256 + i

/-- The table that an index names, if it exists. -/
def tableAt (ts : List ImageTable) (i : Nat) : Option ImageTable := ts[i]?

/-- Contents of a table of an image; empty where the index names none. -/
def Image.table (im : Image) (i : Nat) : Bytes := ((im.tables[i]?).map (·.body)).getD []

/-- Kind of a table of an image; 0 where the index names none. -/
def Image.tableKind (im : Image) (i : Nat) : Nat := ((im.tables[i]?).map (·.kind)).getD 0

/-- A stage of an image by STAGE_ID. -/
def Image.stage (im : Image) (id : Nat) : Option Stage := im.stages.find? fun st => st.id = id

/-- Parameters of a stage: the contents of its TABLE. -/
def Image.stageTable (im : Image) (id : Nat) : Bytes := ((im.stage id).map fun st => im.table st.table).getD []

/-- Kind of a stage (Table 2-5); 0 where it does not exist. -/
def Image.stageKind (im : Image) (id : Nat) : Nat := ((im.stage id).map (·.kind)).getD 0

/-- Stages and input ports that a port of a stage feeds, in the order of the edge entries. -/
def Image.feeds (im : Image) (id port : Nat) : List (Nat × Nat) :=
  (im.edges.filter fun e => e.fromStage = id && e.fromPort = port).map fun e => (e.toStage, e.toPort)

/-- Output ports of a stage that an edge leaves. -/
def Image.outPorts (im : Image) (id : Nat) : List Nat := (List.range 8).filter fun p => !(im.feeds id p).isEmpty

/-- Does a path of edges lead from a stage to another, or are they the same? `fuel` bounds the path. -/
def Image.leadsTo (im : Image) : (fuel from_ to_ : Nat) → Bool
  | 0, a, b => a = b
  | n + 1, a, b => a = b || (im.edges.filter fun e => e.fromStage = a).any fun e => im.leadsTo n e.toStage b

/-- Look a key up in an association list of lists. -/
def assocList (l : List (Nat × List Nat)) (k : Nat) : List Nat := ((l.find? fun e => e.1 = k).map (·.2)).getD []

/-- Stage kinds of Table 2-5. -/
def kindSource : Nat := 0x01
def kindCrypt : Nat := 0x02
def kindDecompress : Nat := 0x03
def kindParse : Nat := 0x04
def kindDecode : Nat := 0x05
def kindResample : Nat := 0x06
def kindTokenize : Nat := 0x07
def kindModel : Nat := 0x08
def kindFilter : Nat := 0x09
def kindPack : Nat := 0x0A
def kindDeliver : Nat := 0x0B
def kindDigest : Nat := 0x0C
def kindDetokenize : Nat := 0x0D
def kindMask : Nat := 0x0E
def kindStore : Nat := 0x0F
def kindCompress : Nat := 0x10

end Sys2Proof.Machine
end

