-- ==== Sys2Proof/Machine/Ogg.lean ====
section
/-! DEFINITION. Ogg pages and logical streams (R99, R109). The format is PRESUMED from RFC 3533, which Table 4-4 names (log
entry 16). -/

namespace Sys2Proof.Machine

/-- A page: its logical stream, and its bytes. -/
structure OggPage where
  serial : Nat
  bytes : Bytes
deriving DecidableEq, Repr

/-- The page that begins at the front of a string, if one does. -/
def oggPageAt (b : Bytes) : Option OggPage :=
  let n := fieldAt b 26 1
  let size := 27 + n + (sliceAt b 27 n).foldl (fun k x => k + x.toNat) 0
  if b.take 4 ≠ ascii "OggS" || fieldAt b 4 1 ≠ 0 || b.length < 27 + n || b.length < size then none
  else some ⟨fieldAt b 14 4, b.take size⟩

/-- The pages of a physical stream; what is no page is passed over to the next capture pattern. -/
def oggPages : (fuel : Nat) → Bytes → List OggPage
  | 0, _ => []
  | fuel + 1, b =>
    match b with
    | [] => []
    | _ :: rest =>
      match oggPageAt b with
      | some p => p :: oggPages fuel (b.drop p.bytes.length)
      | none => oggPages fuel rest

/-- The logical streams in the order of their first pages: each is its pages, joined (log entry 16). -/
def oggStreams (unit : Bytes) : List Bytes :=
  let pages := oggPages (unit.length + 1) unit
  (pages.map (·.serial)).eraseDups.map fun s => (pages.filter fun p => p.serial = s).flatMap (·.bytes)

/-- Body of a page. -/
def OggPage.body (p : OggPage) : Bytes := p.bytes.drop (27 + fieldAt p.bytes 26 1)

end Sys2Proof.Machine
end

