-- ==== Sys2Proof/Machine/Container.lean ====
section
/-! DEFINITION. Containers: how a unit is split into members and routed to ports (R99, R100, R124), and the
chunks of an object under GCM (R101). -/

namespace Sys2Proof.Machine

/-- A routing entry (Table 4-13). -/
structure Route where
  keyKind : Nat
  port : Nat
  required : Bool
  key : Bytes
deriving DecidableEq, Repr

/-- The entries of a routing table. -/
def routesOf (t : Bytes) : List Route :=
  (List.range (fieldAt t 0 2)).map fun i =>
    let o := 16 + 32 * i
    ⟨fieldAt t o 1, fieldAt t (o + 1) 1, natBit (fieldAt t (o + 2) 1) 0, sliceAt t (o + 4) 16⟩

/-- A member: its route key and its bytes. -/
structure Member where
  key : Bytes
  /-- Does the member have a route key at all? -/
  keyed : Bool
  body : Bytes
deriving DecidableEq, Repr

/-- Does a member match a routing entry? `kind` is the KEY_KIND of the container's members. -/
def Route.matches_ (r : Route) (kind : Nat) (m : Member) : Bool :=
  r.keyKind = kind && m.keyed && r.key = sliceAt m.key 0 16 && m.key.length ≤ 16

/-- Is a byte an octal digit? -/
def isOctal (b : Byte) : Bool := 0x30 ≤ b && b ≤ 0x37
/-- Is a byte a decimal digit? -/
def isDecimal (b : Byte) : Bool := 0x30 ≤ b && b ≤ 0x39
/-- Value of a string of digits. -/
def digitsVal (base : Nat) (bs : Bytes) : Nat := bs.foldl (fun n b => n * base + (b.toNat - 0x30)) 0

/-- A TAR size field: octal digits, optionally preceded by spaces, ended by a space or NUL (Table 4-4). -/
def tarSize (f : Bytes) : Option Nat :=
  let s := f.dropWhile (· = 0x20)
  let ds := s.takeWhile isOctal
  match s.drop ds.length with
  | [] => none
  | b :: _ => if ds ≠ [] ∧ (b = 0x20 ∨ b = 0) then some (digitsVal 8 ds) else none

/-- A TAR checksum field: octal digits among spaces and NULs. -/
def tarChecksum (f : Bytes) : Option Nat :=
  let s := (f.dropWhile fun b => b = 0x20 || b = 0)
  let ds := s.takeWhile isOctal
  if ds ≠ [] ∧ (s.drop ds.length).all (fun b => b = 0x20 || b = 0) then some (digitsVal 8 ds) else none

/-- The sum of a header block with its checksum field as spaces. -/
def tarSum (h : Bytes) : Nat :=
  (h.foldl (fun n b => n + b.toNat) 0) - ((sliceAt h 148 8).foldl (fun n b => n + b.toNat) 0) + 8 * 0x20

/-- What a pax header says of the next member. -/
structure Pax where
  path : Option Bytes
  size : Option Nat
deriving DecidableEq, Repr

/-- Read the records of a pax header; an error is the offset of a bad record within its data (R100). -/
def paxRecords : (fuel : Nat) → (off : Nat) → Bytes → Pax → Except Nat Pax
  | 0, off, bs, p => if bs.isEmpty then .ok p else .error off
  | n + 1, off, bs, p =>
    if bs.isEmpty then .ok p else
    let ds := bs.takeWhile isDecimal
    let len := digitsVal 10 ds
    if ds = [] ∨ bs.getD ds.length 0 ≠ 0x20 ∨ len > bs.length ∨ len < ds.length + 3 then .error off else
    let body := (bs.take len).drop (ds.length + 1)
    if body.getLastD 0 ≠ 0x0A ∨ !(body.any (· = 0x3D)) then .error off else
    let kv := body.dropLast
    let key := kv.takeWhile (· ≠ 0x3D)
    let val := kv.drop (key.length + 1)
    if key = ascii "size" then
      if val ≠ [] ∧ val.all isDecimal then
        paxRecords n (off + len) (bs.drop len) { p with size := some (digitsVal 10 val) }
      else .error off
    else if key = ascii "path" then paxRecords n (off + len) (bs.drop len) { p with path := some val }
    else paxRecords n (off + len) (bs.drop len) p

/-- The text of a name after its last '.'; none where it has no '.'. -/
def suffixOf (name : Bytes) : Option Bytes :=
  if name.any (· = 0x2E) then some ((name.reverse.takeWhile (· ≠ 0x2E)).reverse) else none

/-- Name of a TAR header: prefix and name joined by '/', or the name alone. -/
def tarName (h : Bytes) : Bytes :=
  let name := (sliceAt h 0 100).takeWhile (· ≠ 0)
  let pre := (sliceAt h 345 155).takeWhile (· ≠ 0)
  if pre = [] then name else pre ++ [0x2F] ++ name

/-- TAR members from offset `off`; the second part is the offset of the first fault (R100). -/
def tarMembers (unit : Bytes) : (fuel off : Nat) → Pax → List Member × Option Nat
  | 0, _, _ => ([], none)
  | n + 1, off, pax =>
    let rest := unit.drop off
    if rest.isEmpty then ([], none) else
    if rest.length < 512 then ([], some off) else
    let h := rest.take 512
    if h.all (· = 0) then ([], none) else
    if tarChecksum (sliceAt h 148 8) ≠ some (tarSum h) then ([], some off) else
    match tarSize (sliceAt h 124 12) with
    | none => ([], some (off + 124))
    | some hsize =>
      let flag := h.getD 156 0
      -- only the next member, a regular file, has its size replaced
      let size := if flag = 0x30 || flag = 0 then pax.size.getD hsize else hsize
      let span := roundUp size 512
      if 512 + span > rest.length then ([], some off) else
      let body := (rest.drop 512).take size
      if flag = 0x78 then
        match paxRecords body.length 0 body ⟨none, none⟩ with
        | .error e => ([], some (off + 512 + e))
        | .ok p => tarMembers unit n (off + 512 + span) p
      else if flag = 0x67 then tarMembers unit n (off + 512 + span) pax
      else
        if flag = 0x30 || flag = 0 then
          let more := tarMembers unit n (off + 512 + span) ⟨none, none⟩
          let key := suffixOf (pax.path.getD (tarName h))
          (⟨key.getD [], key.isSome, body⟩ :: more.1, more.2)
        else tarMembers unit n (off + 512 + span) pax

/-- RECORD members from offset `off` (Table 4-4). -/
def recordMembers (unit : Bytes) : (fuel off : Nat) → List Member × Option Nat
  | 0, _ => ([], none)
  | n + 1, off =>
    let rest := unit.drop off
    if rest.isEmpty then ([], none) else
    if rest.length < 16 then ([], some off) else
    let len := fieldAt rest 0 4
    let span := roundUp len 8
    if 16 + span > rest.length then ([], some off) else
    let body := (rest.drop 16).take len
    if (crc32c body) ≠ fieldAt rest 8 4 then ([], some off) else
    let checked := [5, 6, 7, 12, 13, 14, 15] ++ (List.range (span - len)).map fun i => 16 + len + i
    match checked.find? fun i => rest.getD i 0 ≠ 0 with
    | some i => ([], some (off + i))
    | none =>
      let more := recordMembers unit n (off + 16 + span)
      (⟨[rest.getD 4 0], true, body⟩ :: more.1, more.2)

/-- The boxes of an ISO BMFF file or of a box: type, place and length of the contents (ISO/IEC 14496-12, 4.2). -/
def boxesIn (bs : Bytes) : (fuel o fin : Nat) → List (Bytes × Nat × Nat)
  | 0, _, _ => []
  | fuel + 1, o, fin =>
    let size := beFieldAt bs o 4
    let head := if size = 1 then 16 else 8
    let len := if size = 0 then fin - o else if size = 1 then beFieldAt bs (o + 8) 8 else size
    if fin < o + 8 || len < head || fin < o + len then []
    else (sliceAt bs (o + 4) 4, o + head, len - head) :: boxesIn bs fuel (o + len) fin

/-- The first box of a type within one: place and length of its contents. -/
def boxIn (bs : Bytes) (kind : String) (b : Nat × Nat) : Option (Nat × Nat) :=
  ((boxesIn bs bs.length b.1 (b.1 + b.2)).find? fun x => x.1 = ascii kind).map (·.2)

/-- Handler types of the tracks of an ISO BMFF file, in file order. -/
def trackHandlers (bs : Bytes) : List Bytes :=
  match boxIn bs "moov" (0, bs.length) with
  | none => []
  | some m =>
    ((boxesIn bs bs.length m.1 (m.1 + m.2)).filter fun x => x.1 = ascii "trak").map fun t =>
      match (boxIn bs "mdia" t.2).bind (boxIn bs "hdlr") with
      | some h => sliceAt bs (h.1 + 8) 4
      | none => []

/-- The tracks of an ISO BMFF file as members: handler type, and index among the tracks of that handler (Table 4-13). -/
def trackMembers (bs : Bytes) : List Member :=
  let hs := trackHandlers bs
  hs.zipIdx.map fun h => ⟨h.1 ++ leBytes 2 ((hs.take h.2).count h.1), h.1.length = 4, Config.trackBytes bs h.2⟩

/-- The logical streams of an Ogg unit as members: index in the order of their first pages (Table 4-13). -/
def oggMembers (bs : Bytes) : List Member := (oggStreams bs).zipIdx.map fun s => ⟨leBytes 2 s.2, true, s.1⟩

/-- The members of a container unit, in unit order, and the first fault. -/
def membersOf (container : Nat) (unit : Bytes) : List Member × Option Nat :=
  match container with
  | 0x01 => tarMembers unit (unit.length / 512 + 1) 0 ⟨none, none⟩
  | 0x02 => recordMembers unit (unit.length / 16 + 1) 0
  | 0x03 => (trackMembers unit, none)
  | 0x05 => (oggMembers unit, none)
  | _ => ([⟨[], true, unit⟩], none)

/-- KEY_KIND of the members of a container (Table 4-13). -/
def keyKindOf (container : Nat) : Nat :=
  match container with
  | 0x01 => 0x01
  | 0x02 => 0x02
  | 0x03 => 0x03
  | 0x05 => 0x04
  | _ => 0

/-- Keep the first member of each port. -/
def firstPerPort : List (Nat × Bytes) → List (Nat × Bytes)
  | [] => []
  | (p, b) :: t => (p, b) :: (firstPerPort t).filter fun e => e.1 ≠ p

/-- Split a unit: what goes out on each port, and the offset of the first container fault (R99, R100).
`routing` is none where ROUTING is 0xFFFF_FFFF, which routes every member to port 0 as optional. -/
def splitUnit (container : Nat) (routing : Option Bytes) (unit : Bytes) : List (Nat × Bytes) × Option Nat :=
  if container = 0x00 ∨ container = 0x04 then ([(0, unit)], none) else
  let r := membersOf container unit
  let kind := keyKindOf container
  let routed : List (Nat × Bytes) := r.1.filterMap fun m =>
    match routing with
    | none => some (0, m.body)
    | some t => ((routesOf t).find? fun e => e.matches_ kind m).map fun e => (e.port, m.body)
  let out := firstPerPort routed
  let missing := match routing with
    | none => false
    | some t => (routesOf t).any fun e => e.required && !(out.any fun o => o.1 = e.port)
  (out, r.2.or (if missing then some unit.length else none))

/-- First and last chunk that overlap a range of an object's plaintext (R101). -/
def chunkSpan (off len : Nat) : Nat × Nat := (off / 65536, if len = 0 then off / 65536 else (off + len - 1) / 65536)

/-- Plaintext of a range of an object under GCM (R101), or none where the tag of a chunk that overlaps it
fails. `part` is the object's header, which holds NONCE_BASE, and the stored chunks that overlap the range. -/
def objectPart (key part : Bytes) (off len : Nat) : Option Bytes :=
  let nonce := sliceAt part 0 8
  let (c0, c1) := chunkSpan off len
  let parts := (List.range (c1 + 1 - c0)).map fun i =>
    let chunk := (part.drop (16 + 65552 * i)).take 65552
    gcmOpen key (nonce ++ beBytes 4 (c0 + i)) [] (chunk.take (chunk.length - 16)) (chunk.drop (chunk.length - 16))
  if parts.all (·.isSome) then
    some (((parts.map fun p => p.getD []).flatten.drop (off - 65536 * c0)).take len)
  else none

/-- Store plaintext as an object under a NONCE_BASE (R101): the header, then every chunk with its tag. -/
def sealObject (key nonce pt : Bytes) : Bytes :=
  nonce ++ List.replicate 8 0 ++ (chunksOf 65536 pt.length pt).zipIdx.flatMap fun c =>
    let x := gcmSeal key (nonce ++ beBytes 4 c.2) [] c.1
    x.1 ++ x.2

/-- Plaintext length of a stored object of `n` bytes (R101). -/
def objectPlainLength (n : Nat) : Nat :=
  let body := n - 16
  let full := body / 65552
  65536 * full + (body % 65552 - 16)

end Sys2Proof.Machine
end

