-- ==== Sys2Proof/Machine/Manifest.lean ====
section
/-! DEFINITION. Job descriptors (Table 2-9), manifests (Tables 4-1, 4-2) and sample index tables (R96), read
from their bytes, with the checks of R57 and R93 to R95. -/

namespace Sys2Proof.Machine

/-- A job descriptor (Table 2-9). -/
structure JobDesc where
  jobId : Nat
  hedge : Nat
  startEpoch : Nat
  epochs : Nat
  startPosition : Nat
  manifestAddr : Nat
  manifestLen : Nat
  deliveryAddr : Nat
  deliveryLen : Nat
  seed : Bytes
deriving DecidableEq, Repr

/-- Read a job descriptor. -/
def jobDescOf (b : Bytes) : JobDesc where
  jobId := fieldAt b 0 4
  hedge := fieldAt b 4 1
  startEpoch := fieldAt b 8 4
  epochs := fieldAt b 0xC 4
  startPosition := fieldAt b 0x10 8
  manifestAddr := fieldAt b 0x18 8
  manifestLen := fieldAt b 0x20 8
  deliveryAddr := fieldAt b 0x28 8
  deliveryLen := fieldAt b 0x30 8
  seed := sliceAt b 0x40 32

/-- The descriptor's own rules (R57): RsvdZ bytes zero, HEDGE 0 to 15, START_POSITION below 2^48. -/
def jobDescOk (b : Bytes) : Bool :=
  zeroAt b 5 3 && zeroAt b 0x38 8 && zeroAt b 0x60 32 && fieldAt b 4 1 ≤ 15 && fieldAt b 0x10 8 < 2 ^ 48

/-- A shard entry (Table 4-2), with the sample index FIRST of R94. -/
structure Shard where
  first : Nat
  kind : Nat
  container : Nat
  codec : Nat
  crypt : Nat
  locator : Nat
  start : Nat
  length : Nat
  remoteBuf : Nat
  remoteGen : Nat
  samples : Nat
  indexOffset : Nat
  keyId : Nat
  entrySize : Nat
  corruptOnUnreadable : Bool
  indexDigest : Bytes
deriving DecidableEq, Repr

/-- Read a shard entry at a byte offset; FIRST is given. -/
def shardAt (b : Bytes) (o first : Nat) : Shard where
  first := first
  kind := fieldAt b o 1
  container := fieldAt b (o + 1) 1
  codec := fieldAt b (o + 2) 1
  crypt := fieldAt b (o + 3) 1
  locator := fieldAt b (o + 4) 4
  start := fieldAt b (o + 8) 8
  length := fieldAt b (o + 0x10) 8
  remoteBuf := fieldAt b (o + 0x18) 4
  remoteGen := fieldAt b (o + 0x1C) 4
  samples := fieldAt b (o + 0x20) 8
  indexOffset := fieldAt b (o + 0x28) 8
  keyId := fieldAt b (o + 0x30) 4
  entrySize := fieldAt b (o + 0x34) 1
  corruptOnUnreadable := natBit (fieldAt b (o + 0x35) 1) 0
  indexDigest := sliceAt b (o + 0x40) 32

/-- The shards from entry `i` on; `first` is the next sample index. -/
def shardsFrom (b : Bytes) : (n i first : Nat) → List Shard
  | 0, _, _ => []
  | n + 1, i, first =>
    let s := shardAt b (64 + 96 * i) first
    s :: shardsFrom b n (i + 1) (first + s.samples)

/-- A manifest. -/
structure Manifest where
  total : Nat
  shards : List Shard
  digest : Bytes
deriving DecidableEq, Repr

/-- Read a manifest. -/
def manifestOf (b : Bytes) : Manifest :=
  ⟨fieldAt b 0x10 8, shardsFrom b (fieldAt b 8 4) 0 0, sha256 b⟩

/-- Is the manifest a varying one (R98): a shard with ON_UNREADABLE CORRUPT? -/
def Manifest.varies (m : Manifest) : Bool := m.shards.any (·.corruptOnUnreadable)

/-- The shard that covers a sample index, with its number. -/
def Manifest.shardOf (m : Manifest) (index : Nat) : Option (Nat × Shard) :=
  (m.shards.zipIdx.find? fun e => e.1.first ≤ index && index < e.1.first + e.1.samples).map fun e => (e.2, e.1)

/-- Status codes of Tables 2-11 and 4-12. -/
def ST_OK : Nat := 0x0000
def ST_BUSY_CLAIMED : Nat := 0x0011
def ST_JOB_BAD_DESC : Nat := 0x0020
def ST_JOB_STATE : Nat := 0x0021
def ST_JOB_KENNELS : Nat := 0x0022
def ST_JOB_NO_IMAGE : Nat := 0x0023
def ST_JOB_PROGRAM : Nat := 0x0024
def ST_MAN_FORMAT : Nat := 0x0030
def ST_MAN_COVER : Nat := 0x0031
def ST_MAN_SHARD : Nat := 0x0032
def ST_MAN_KEY : Nat := 0x0033
def ST_MAN_INDEX : Nat := 0x0034
def ST_SRC_UNREADABLE : Nat := 0x0035
def ST_JOB_ENGINES : Nat := 0x0036

/-- Header and length of a manifest (R93). -/
def manifestFormatOk (b : Bytes) (len : Nat) : Bool :=
  fieldAt b 0 4 = 0x4E414D48 && fieldAt b 4 2 = 1 && zeroAt b 6 2 && 1 ≤ fieldAt b 8 4 &&
    fieldAt b 8 4 ≤ 1048576 && zeroAt b 0xC 4 && 1 ≤ fieldAt b 0x10 8 && fieldAt b 0x10 8 ≤ 2 ^ 48 &&
    zeroAt b 0x18 40 && len = 64 + 96 * fieldAt b 8 4

/-- Do the shards cover N exactly, each with a sample (R94)? -/
def manifestCoverOk (m : Manifest) : Bool :=
  m.shards.all (fun s => 1 ≤ s.samples) && (m.shards.foldl (fun n s => n + s.samples) 0) = m.total

/-- What ACCEPT knows of the running image and the device when it checks shards. -/
structure ShardWorld where
  /-- Namespaces that the image claims and that exist: NSID, encrypted, SIZE in units. -/
  namespaces : List (Nat × Bool × Nat)
  /-- NSIDs and contexts that the image claims. -/
  nsClaimed : List Nat
  ctxClaimed : List (Nat × Nat)
  /-- KEY_IDs that the hedge may use for objects. -/
  keys : List Nat
deriving DecidableEq, Repr

/-- Code of the first rule of R95 that a shard breaks, or ST_OK. The bytes are those of its entry. -/
def shardCheck (w : ShardWorld) (e : Bytes) (s : Shard) : Nat :=
  let claimed :=
    if s.kind = 1 then w.nsClaimed.contains s.locator
    else w.ctxClaimed.any fun r => r.1 ≤ s.locator && s.locator < r.1 + r.2
  let codes := (s.kind = 1 || s.kind = 2) && s.container ≤ 5 && s.codec ≤ 6 && s.crypt ≤ 2 &&
    (s.entrySize = 16 || s.entrySize = 48) && fieldAt e 0x35 1 ≤ 1 && zeroAt e 0x36 10
  let ns := (w.namespaces.find? fun n => n.1 = s.locator).map (·.2)
  let fits : Bool :=
    if s.kind = 1 then
      match ns with
      | none => false
      | some (enc, size) =>
        (s.crypt = 2 || enc == decide (s.crypt = 1)) && s.start + s.length ≤ 4096 * size &&
          s.start % 4096 = 0 && s.remoteBuf = 0 && s.remoteGen = 0
    else s.crypt ≠ 1
  if !codes || !claimed || !fits || (s.crypt ≠ 2 && s.keyId ≠ 0) then ST_MAN_SHARD
  else if s.crypt = 2 && !w.keys.contains s.keyId then ST_MAN_KEY else ST_OK

/-- Code of the first rule that a manifest breaks, or ST_OK (R93, R94, R95 in that order). -/
def manifestCheck (w : ShardWorld) (b : Bytes) (len : Nat) : Nat :=
  if !manifestFormatOk b len then ST_MAN_FORMAT else
  let m := manifestOf b
  if !manifestCoverOk m then ST_MAN_COVER else
  ((m.shards.zipIdx.map fun s => shardCheck w (sliceAt b (64 + 96 * s.2) 96) s.1).find? (· ≠ ST_OK)).getD ST_OK

/-- An entry of a sample index table (R96). -/
structure IndexEntry where
  offset : Nat
  length : Nat
  digest : Option Bytes
deriving DecidableEq, Repr

/-- Entry `j` of a plaintext index table. -/
def indexEntryAt (s : Shard) (table : Bytes) (j : Nat) : IndexEntry :=
  let o := s.entrySize * j
  ⟨fieldAt table o 8, fieldAt table (o + 8) 4,
    if s.entrySize = 48 then some (sliceAt table (o + 16) 32) else none⟩

/-- Plaintext length of a shard. -/
def Shard.plainLength (s : Shard) : Nat := if s.crypt = 2 then objectPlainLength s.length else s.length

/-- Is an index entry well formed and within the shard (R96)? -/
def indexEntryOk (s : Shard) (table : Bytes) (j : Nat) : Bool :=
  let e := indexEntryAt s table j
  1 ≤ e.length && e.length ≤ 2 ^ 30 && zeroAt table (s.entrySize * j + 12) 4 &&
    e.offset + e.length ≤ s.plainLength

/-- Does a plaintext index table pass R96? -/
def indexTableOk (s : Shard) (table : Bytes) : Bool :=
  sha256 table = s.indexDigest && table.length = s.entrySize * s.samples &&
    (List.range s.samples).all (indexEntryOk s table)

end Sys2Proof.Machine
end

