-- ==== Sys2Proof/Machine/Order.lean ====
section
/-! DEFINITION. Order: the keyed bijection and σ (R170 to R176), streams (R171), packing of batches (R185 to
R192) and the provenance digest (R205, R206). -/

namespace Sys2Proof.Machine

/-! ### The keyed bijection (R173, R174) -/

/-- Round keys: bytes 0 to 15 of SHA-256(SEED ‖ label ‖ e ‖ a ‖ b ‖ i). -/
def roundKey (seed : Bytes) (label e a b i : Nat) : Bytes :=
  (sha256 (seed ++ leBytes 1 label ++ leBytes 4 e ++ leBytes 8 a ++ leBytes 8 b ++ leBytes 1 i)).take 16

/-- F of R173. -/
def feistelF (k : Bytes) (v : Nat) : Nat := (sipF k (BitVec.ofNat 64 v)).toNat

/-- Widths of the low and the high half for a domain of `n`. -/
def permLow (n : Nat) : Nat := max 2 (clog2 n) / 2
def permHigh (n : Nat) : Nat := max 2 (clog2 n) - permLow n

/-- One round `i` on the halves `(hi, lo)`. -/
def feistelRound (keys : Nat → Bytes) (lb hb i : Nat) (p : Nat × Nat) : Nat × Nat :=
  if i % 2 = 0 then (Nat.xor p.1 (feistelF (keys i) p.2 % 2 ^ hb), p.2)
  else (p.1, Nat.xor p.2 (feistelF (keys i) p.1 % 2 ^ lb))

/-- One pass of four rounds over a value, in the given order of rounds. -/
def feistelPass (keys : Nat → Bytes) (lb hb : Nat) (rounds : List Nat) (y : Nat) : Nat :=
  let p := rounds.foldl (fun p i => feistelRound keys lb hb i p) (y / 2 ^ lb, y % 2 ^ lb)
  p.1 * 2 ^ lb + p.2

/-- Cycle-walking: passes until the value is below `n`. The walk returns below `n` within the size of
the domain, which bounds the fuel. -/
def cycleWalk (pass : Nat → Nat) (n : Nat) : (fuel : Nat) → Nat → Nat
  | 0, y => y
  | f + 1, y =>
    let z := pass y
    if z < n then z else cycleWalk pass n f z

/-- `perm(label, e, a, b, n, x)` with the rounds in the given order. -/
def permWith (rounds : List Nat) (seed : Bytes) (label e a b n x : Nat) : Nat :=
  if n ≤ 1 then 0 else
  let keys := (List.range 4).map (roundKey seed label e a b)
  cycleWalk (feistelPass (fun i => keys.getD i []) (permLow n) (permHigh n) rounds) n (2 * n + 4) x

/-- The bijection of R174. -/
def perm (seed : Bytes) (label e a b n x : Nat) : Nat := permWith [0, 1, 2, 3] seed label e a b n x
/-- Its inverse. -/
def permInv (seed : Bytes) (label e a b n x : Nat) : Nat := permWith [3, 2, 1, 0] seed label e a b n x

/-! ### Order tables and σ (R167, R170, R175, R176) -/

/-- An order table (Table 6-1). -/
structure OrderTable where
  mode : Nat
  policy : Nat
  dropConcealed : Bool
  filterMark : Bool
  last : Nat
  window : Nat
  deal : Nat
  deadlineUs : Nat
  routing : Nat
  livePin : Nat
  liveRing : Nat
deriving DecidableEq, Repr

/-- Read an order table. -/
def orderTableOf (t : Bytes) : OrderTable where
  mode := fieldAt t 0 1
  policy := fieldAt t 1 1
  dropConcealed := natBit (fieldAt t 2 2) 0
  filterMark := natBit (fieldAt t 2 2) 1
  last := natField (fieldAt t 2 2) 2 2
  window := fieldAt t 4 4
  deal := fieldAt t 8 4
  deadlineUs := fieldAt t 0xC 4
  routing := fieldAt t 0x10 4
  livePin := fieldAt t 0x14 1
  liveRing := fieldAt t 0x15 1

def policyConceal : Nat := 0
def policyDropFill : Nat := 1
def policyTimely : Nat := 2
def lastPad : Nat := 0
def lastCarry : Nat := 1
def lastDrop : Nat := 2

/-- Walk the shards in their order of an epoch to the one that holds position `p`: the shard's number
and the position within it (R176). -/
def shardInOrder (shards : Array Shard) (order : Nat → Nat) : (n j start p : Nat) → Nat × Nat
  | 0, _, _, _ => (0, 0)
  | n + 1, j, start, p =>
    let s := order j
    let c := (shards.getD s default).samples
    if p < start + c then (s, p - start) else shardInOrder shards order n (j + 1) (start + c) p
where
  default : Shard := ⟨0, 0, 0, 0, 0, 0, 0, 0, 0, 0, 0, 0, 0, 0, false, []⟩

/-- Place of a sample within a shard of `n` samples under BLOCKED with window `W` (R176). -/
def blockedIndex (seed : Bytes) (e s n W q : Nat) : Nat :=
  let c := ceilDiv n W
  let z := n - W * (c - 1)
  let js := permInv seed 0x03 e s 0 c (c - 1)
  let ir : Nat × Nat :=
    if q < W * js then (q / W, q % W)
    else if q < W * js + z then (js, q - W * js)
    else
      let d := q - W * js - z
      (js + 1 + d / W, d % W)
  let v := perm seed 0x03 e s 0 c ir.1
  let size := if v = c - 1 then z else W
  W * v + perm seed 0x04 e s v size ir.2

/-- σ_e(p): the sample at a position of an epoch (R170, R175, R176). -/
def sigma (o : OrderTable) (seed : Bytes) (m : Manifest) (e p : Nat) : Nat :=
  match o.mode with
  | 1 => perm seed 0x01 e 0 0 m.total p
  | 2 =>
    let S := m.shards.length
    let r := shardInOrder m.shards.toArray (fun j => perm seed 0x02 e 0 0 S j) S 0 0 p
    match m.shards[r.1]? with
    | none => p
    | some sh => sh.first + blockedIndex seed e r.1 sh.samples o.window r.2
  | _ => p

/-! ### Streams (R171) -/

/-- The stream of a position. -/
def streamOf (deal ranks p : Nat) : Nat := p / deal % ranks

/-- The first position at or after `p` that belongs to stream `r`. -/
def firstOfStream (deal ranks r p : Nat) : Nat :=
  let blk := p / deal
  let k := blk % ranks
  if k = r then p
  else if k < r then (blk + (r - k)) * deal
  else (blk + (ranks - k + r)) * deal

/-- A place in the order of a job: epoch and position. -/
structure Cursor where
  epoch : Nat
  pos : Nat
deriving DecidableEq, Repr

/-- The cursor of stream `r` at or after a place, moving to the next epoch where the epoch holds no more
of its positions; none where the stream has no positions at all. -/
def streamCursor (n deal ranks r : Nat) (c : Cursor) : Option Cursor :=
  let p := firstOfStream deal ranks r c.pos
  if p < n then some ⟨c.epoch, p⟩
  else if r * deal < n then some ⟨c.epoch + 1, r * deal⟩ else none

/-! ### Pack tables and batches (R168, R187 to R192) -/

/-- A pack table (Table 6-2). -/
structure PackTable where
  token : Bool
  next : Bool
  positions : Bool
  batch : Nat
  slotBytes : Nat
  seqLen : Nat
  padId : Nat
  maxSamples : Nat
  queueClaim : Nat
  depthMib : Nat
  lowWater : Nat
deriving DecidableEq, Repr

/-- Read a pack table. -/
def packTableOf (t : Bytes) : PackTable where
  token := fieldAt t 0 1 = 2
  next := fieldAt t 1 1 = 1
  positions := natBit (fieldAt t 2 2) 0
  batch := fieldAt t 4 4
  slotBytes := fieldAt t 8 4
  seqLen := fieldAt t 0xC 4
  padId := fieldAt t 0x10 4
  maxSamples := fieldAt t 0x14 4
  queueClaim := fieldAt t 0x18 4
  depthMib := fieldAt t 0x1C 2
  lowWater := fieldAt t 0x1E 2

/-- Body length of a batch (R188). -/
def PackTable.bodyBytes (t : PackTable) : Nat :=
  if t.token then t.batch * t.seqLen * 4 * (if t.positions then 3 else 2) else t.batch * t.slotBytes

/-- Batch size (R188). -/
def PackTable.batchSize (t : PackTable) : Nat := roundUp t.bodyBytes 64 + 128 + 16 * t.maxSamples

/-- Size of a queue entry (R193). -/
def PackTable.entrySize (t : PackTable) : Nat := roundUp t.batchSize 4096

/-- Sample flags (Table 6-3). -/
def flagConcealed : Nat := 2 ^ 0
def flagUndecodable : Nat := 2 ^ 1
def flagRegionDefault : Nat := 2 ^ 2
def flagFiltered : Nat := 2 ^ 3
def flagProgramFault : Nat := 2 ^ 4
def flagDeferred : Nat := 2 ^ 5
def flagSizeMismatch : Nat := 2 ^ 6
def flagContinued : Nat := 2 ^ 7
def flagContinues : Nat := 2 ^ 8
def flagNextEpoch : Nat := 2 ^ 9

/-- Set flags in a flag word. -/
def setFlags (w f : Nat) : Nat := Nat.lor w f
/-- Is a flag set? -/
def hasFlag (w f : Nat) : Bool := Nat.land w f ≠ 0
/-- A sample is corrupt when UNDECODABLE or PROGRAM_FAULT is set (R181). -/
def isCorrupt (w : Nat) : Bool := hasFlag w flagUndecodable || hasFlag w flagProgramFault

/-- A sample entry (Table 6-5), with the input digest that its leaf takes (R205). -/
structure Entry where
  position : Nat
  flags : Nat
  sample : Nat
  exception : Nat
  input : Bytes
  /-- Offset in the body of the entry's slot or first token, and the DIGEST stage of its path (R215). -/
  start : Nat
  inputAt : Option Nat
deriving DecidableEq, Repr

/-- The 16 bytes of an entry. -/
def Entry.bytes (e : Entry) : Bytes :=
  leBytes 6 e.position ++ leBytes 2 e.flags ++ leBytes 6 e.sample ++ leBytes 1 e.exception ++ leBytes 1 0

/-- One token place: token, segment, position (R188). -/
structure TokenPlace where
  token : Nat
  segment : Nat
  position : Nat
deriving DecidableEq, Repr

/-- A batch being filled. -/
structure OpenBatch where
  epoch : Nat
  entries : List Entry
  slots : List Bytes
  seqs : List (List TokenPlace)
  first : Option Nat
  last : Nat
  dropped : Nat
  filtered : Nat
  carry : Bool
  epochLast : Bool
  /-- Epoch of LAST_POSITION, and tokens of the last document placed when a batch closes within it (R332). -/
  lastEpoch : Nat
  docToken : Nat
deriving DecidableEq, Repr

/-- A batch that has closed: its bytes, its keys and what delivery and Heel use of it. -/
structure Closed where
  epoch : Nat
  index : Nat
  first : Nat
  last : Nat
  entries : List Entry
  bodyBytes : Nat
  provenance : Bytes
  outputDigest : Bytes
  root : Bytes
  header : Bytes
  data : Bytes
  /-- Closed under STOP (R210). -/
  stopped : Bool
  /-- Epoch of LAST_POSITION, and tokens of the last document that this batch and those before it hold (R332). -/
  lastEpoch : Nat
  docToken : Nat
deriving DecidableEq, Repr

/-- A stream's packer: the open batch, the open sequence with its segment count, the next BATCH_INDEX per
epoch, a full batch kept back until it is known whether it is the last of its epoch (LAST DROP and LAST CARRY,
R191), and closed batches that wait for queue room (R193). -/
structure Packer where
  batch : Option OpenBatch
  seq : List TokenPlace
  segs : Nat
  indexes : List (Nat × Nat)
  held : Option OpenBatch
  waiting : List Closed
deriving DecidableEq, Repr

/-- A packer that has packed nothing. -/
def Packer.new : Packer := ⟨none, [], 0, [], none, []⟩

/-- What a packer takes from its job. -/
structure PackEnv where
  table : PackTable
  last : Nat
  imageDigest : Bytes
  seed : Bytes
  manifestDigest : Bytes
  dclass : Nat
  jobId : Nat
  rank : Nat
  varies : Bool
deriving DecidableEq, Repr

/-- One level of the tree of R205: pairs from the left, an odd last node carried up. -/
def treeLevel : List Bytes → List Bytes
  | a :: b :: t => sha256 (0x01 :: (a ++ b)) :: treeLevel t
  | l => l

/-- The root of a non-empty level. -/
def treeRoot : (fuel : Nat) → List Bytes → Bytes
  | 0, l => l.headD []
  | _ + 1, [] => sha256 [0x02]
  | _ + 1, [r] => r
  | n + 1, l => treeRoot n (treeLevel l)

/-- The leaf of an entry (R205). -/
def entryLeaf (e : Entry) : Bytes := sha256 (0x00 :: (e.bytes ++ e.input))

/-- The sample root of a batch (R205). -/
def sampleRoot (es : List Entry) : Bytes := treeRoot (es.length + 1) (es.map entryLeaf)

/-- The PROVENANCE field over the 212 bytes of Table 7-2 (R206). -/
def provenanceOf (imageDigest seed manifestDigest : Bytes) (dclass epoch index rank kind flags first last dropped
    filtered count : Nat) (root output : Bytes) : Bytes :=
  sha256 ([0x48, 0x50, 0x56, 0x31] ++ imageDigest ++ seed ++ manifestDigest ++ leBytes 4 dclass ++ leBytes 4 epoch ++
    leBytes 8 index ++ leBytes 2 rank ++ leBytes 1 kind ++ leBytes 1 flags ++ leBytes 8 first ++ leBytes 8 last ++
    leBytes 4 dropped ++ leBytes 4 filtered ++ leBytes 4 count ++ root ++ output)

/-- The body of a batch (R187, R188): slots and unfilled zeros, or the token arrays. -/
def batchBody (t : PackTable) (b : OpenBatch) : Bytes :=
  if t.token then
    let all := b.seqs.flatten
    let pad := t.batch * t.seqLen - all.length
    let cells := all ++ List.replicate pad ⟨t.padId, 0, 0⟩
    (cells.flatMap fun c => leBytes 4 c.token) ++ (cells.flatMap fun c => leBytes 4 c.segment) ++
      (if t.positions then cells.flatMap fun c => leBytes 4 c.position else [])
  else
    b.slots.flatten ++ List.replicate ((t.batch - b.slots.length) * t.slotBytes) 0

/-- Build a closed batch: body, trailer header, entries, zeros up to the batch size (R188, R191, R206). -/
def buildBatch (env : PackEnv) (b : OpenBatch) (index : Nat) (partial_ epochLast stopped : Bool) : Closed :=
  let t := env.table
  let body := batchBody t b
  let od := sha256 body
  let root := sampleRoot b.entries
  let kind := if t.token then 2 else 1
  let flags := env.varies.toNat + 2 * partial_.toNat + 4 * (epochLast || b.epochLast).toNat + 8 * b.carry.toNat +
    16 * (t.token && t.positions).toNat
  let first := b.first.getD 0
  let prov := provenanceOf env.imageDigest env.seed env.manifestDigest env.dclass b.epoch index env.rank kind flags
    first b.last b.dropped b.filtered b.entries.length root od
  let header := leBytes 4 0x4C525448 ++ leBytes 2 1 ++ leBytes 1 kind ++ leBytes 1 flags ++ leBytes 4 env.jobId ++
    leBytes 4 b.epoch ++ leBytes 8 index ++ leBytes 2 env.rank ++ leBytes 2 0 ++ leBytes 4 b.entries.length ++
    leBytes 8 first ++ leBytes 8 b.last ++ leBytes 4 b.dropped ++ leBytes 4 b.filtered ++ leBytes 4 body.length ++
    leBytes 4 (128 + 16 * b.entries.length) ++ prov ++ od
  let data := body ++ List.replicate (roundUp body.length 64 - body.length) 0 ++ header ++
    b.entries.flatMap Entry.bytes
  { epoch := b.epoch, index := index, first := first, last := b.last, entries := b.entries
    bodyBytes := body.length, provenance := prov, outputDigest := od, root := root
    header := header, data := data ++ List.replicate (t.batchSize - data.length) 0, stopped := stopped
    lastEpoch := b.lastEpoch, docToken := b.docToken }

/-- BATCH_INDEX of the next batch of an epoch (R192). -/
def Packer.indexFor (p : Packer) (epoch : Nat) : Nat := ((p.indexes.find? fun e => e.1 = epoch).map (·.2)).getD 0

/-- Send a closed batch on to the queue's waiting list. -/
def Packer.emit (env : PackEnv) (p : Packer) (b : OpenBatch) (partial_ epochLast stopped : Bool) : Packer :=
  let i := p.indexFor b.epoch
  { p with
    indexes := (b.epoch, i + 1) :: p.indexes.filter fun e => e.1 ≠ b.epoch
    waiting := p.waiting ++ [buildBatch env b i partial_ epochLast stopped] }

/-- Send on the batch that LAST DROP or LAST CARRY kept back. -/
def Packer.flush (env : PackEnv) (p : Packer) (epochLast : Bool) : Packer :=
  match p.held with
  | none => p
  | some b => ({ p with held := none }).emit env b false epochLast false

/-- The next batch takes an entry of an epoch: under LAST CARRY the batch kept back was the last of its own epoch exactly
when that is another one (R191, R192). -/
def Packer.goOn (env : PackEnv) (p : Packer) (epoch : Nat) : Packer :=
  if env.last = lastCarry then p.flush env ((p.held.map fun b => decide (b.epoch ≠ epoch)).getD false) else p

/-- Close the open batch. A full batch under LAST DROP is kept back until the next closes or the epoch
ends, since a partial batch after it may be discarded; one under LAST CARRY until the next takes an entry or the epoch
ends, since every later sample of the epoch may be removed. -/
def Packer.close (env : PackEnv) (p : Packer) (partial_ epochLast stopped : Bool) : Packer :=
  match p.batch with
  | none => p
  | some b =>
    let b := if p.seq.isEmpty then b else { b with seqs := b.seqs ++ [p.seq] }
    let p := ({ p with batch := none, seq := [], segs := 0 }).flush env false
    if env.last ≠ lastPad && !partial_ && !epochLast && !stopped then { p with held := some b }
    else p.emit env b partial_ epochLast stopped

/-- The open batch, or a new one of an epoch. -/
def Packer.open_ (p : Packer) (epoch : Nat) : OpenBatch :=
  p.batch.getD ⟨epoch, [], [], [], none, 0, 0, 0, false, false, epoch, 0⟩

/-- Note a position released or removed while the batch is open (Table 6-4). -/
def OpenBatch.touch (b : OpenBatch) (epoch pos : Nat) : OpenBatch :=
  { b with first := b.first.or (some pos), last := pos, lastEpoch := epoch }

/-- A sample that PACK receives at release (R181). -/
structure PackSample where
  epoch : Nat
  position : Nat
  sample : Nat
  flags : Nat
  exception : Nat
  input : Bytes
  inputAt : Option Nat
  /-- The sample's output; none for a corrupt sample that has none (R183). -/
  payload : Option Bytes
  /-- Is this the last release of the stream's epoch? -/
  epochLast : Bool
  /-- Tokens of it that batches before a resume record hold (R332). -/
  skip : Nat
deriving DecidableEq, Repr

/-- Add an entry for a sample: a batch belongs to the epoch of its first entry (R192), and a sample of the
epoch after it is flagged NEXT_EPOCH. -/
def OpenBatch.addEntry (b : OpenBatch) (d : PackSample) (extra start : Nat) : OpenBatch :=
  let b := if b.entries.isEmpty then { b with epoch := d.epoch } else b
  let fl := setFlags d.flags extra
  let fl := if d.epoch = b.epoch + 1 then setFlags fl flagNextEpoch else fl
  let e : Entry := ⟨d.position, fl % 65536, d.sample, if hasFlag fl flagProgramFault then d.exception else 0,
    d.input, start, d.inputAt⟩
  ({ b with entries := b.entries ++ [e] }).touch d.epoch d.position

/-- Pack a sample into the next slot of a TENSOR batch (R187). -/
def Packer.addTensor (env : PackEnv) (p : Packer) (d : PackSample) : Packer :=
  let n := env.table.slotBytes
  let p := p.goOn env d.epoch
  let b := p.open_ d.epoch
  let out := d.payload.getD []
  let extra := if d.payload.isSome && out.length ≠ n then flagSizeMismatch else 0
  let slot := out.take n ++ List.replicate (n - out.length) 0
  let b := ({ b with slots := b.slots ++ [slot] }).addEntry d extra (n * b.slots.length)
  let p := { p with batch := some b }
  if b.entries.length = env.table.batch then p.close env false d.epochLast false else p

/-- close_sequence() of R189. -/
def Packer.closeSeq (env : PackEnv) (p : Packer) (epochLast : Bool) : Packer :=
  match p.batch with
  | none => p
  | some b =>
    let full := p.seq ++ List.replicate (env.table.seqLen - p.seq.length) ⟨env.table.padId, 0, 0⟩
    let b := { b with seqs := b.seqs ++ [full] }
    let p := { p with batch := some b, seq := [], segs := 0 }
    if b.seqs.length = env.table.batch then p.close env false epochLast false else p

/-- Flag the last entry of the batch that has just closed as CONTINUES. The entry is flagged before the
batch closes: `mark` sets it in the open batch. -/
def OpenBatch.mark (b : OpenBatch) (f : Nat) : OpenBatch :=
  match b.entries.reverse with
  | [] => b
  | e :: t => { b with entries := (({ e with flags := setFlags e.flags f } : Entry) :: t).reverse }

/-- Place tokens `k` onward of a document (R189, R190). Each turn fills the rest of the open sequence. -/
def Packer.place (env : PackEnv) (d : PackSample) : (fuel k : Nat) → List Nat → Packer → Packer
  | 0, _, _, p => p
  | n + 1, k, toks, p =>
    let len := env.table.seqLen
    match toks with
    | [] => if p.seq.length = len then p.closeSeq env d.epochLast else p
    | _ :: _ =>
      let p :=
        if p.seq.length = len then
          -- the document goes on: a batch that closes here cuts it
          let closes : Bool := (p.batch.map fun b => decide (b.seqs.length + 1 = env.table.batch)).getD false
          let p := if closes then { p with batch := p.batch.map fun b => { b.mark flagContinues with docToken := k } } else p
          let p := p.closeSeq env false
          if closes then
            let p := p.goOn env d.epoch
            { p with batch := some ((p.open_ d.epoch).addEntry d flagContinued 0) }
          else p
        else p
      let take := min toks.length (len - p.seq.length)
      let segs := p.segs + 1
      let cells := (toks.take take).zipIdx.map fun e => (⟨e.1, segs, k + e.2⟩ : TokenPlace)
      Packer.place env d n (k + take) (toks.drop take) { p with seq := p.seq ++ cells, segs := segs }

/-- Tokens of an output: little-endian u32 values. -/
def tokensOf (bs : Bytes) : List Nat := (List.range (bs.length / 4)).map fun i => fieldAt bs (4 * i) 4

/-- Pack a document into a TOKEN batch (R189). -/
def Packer.addTokens (env : PackEnv) (p : Packer) (d : PackSample) : Packer :=
  let toks := (tokensOf (d.payload.getD [])).drop d.skip
  let len := env.table.seqLen
  let p :=
    if env.table.next && !p.seq.isEmpty && toks.length > len - p.seq.length then p.closeSeq env false else p
  let full : Bool := (p.batch.map fun b => decide (b.entries.length ≥ env.table.maxSamples)).getD false
  let p := (if full then p.close env false false false else p).goOn env d.epoch
  let b := p.open_ d.epoch
  let p := { p with batch := some (b.addEntry d (if d.skip = 0 then 0 else flagContinued) (4 * (b.seqs.length * len + p.seq.length))) }
  p.place env d (toks.length + 2) d.skip toks

/-- Pack a kept sample. -/
def Packer.add (env : PackEnv) (p : Packer) (d : PackSample) : Packer :=
  if env.table.token then p.addTokens env d else p.addTensor env d

/-- Record a removed sample in the open batch: rule 1 counts in DROPPED, rule 2 in FILTERED (R181, R182). -/
def Packer.remove (p : Packer) (d : PackSample) (byRule1 : Bool) : Packer :=
  let b := (p.open_ d.epoch).touch d.epoch d.position
  { p with batch := some (if byRule1 then { b with dropped := b.dropped + 1 } else { b with filtered := b.filtered + 1 }) }

/-- End of an epoch for a stream, or STOP (R185). Answers the packer, and how many partial batches
PBQ_JOB_PADDED counts. `more` says that the job has a next epoch. -/
def Packer.endEpoch (env : PackEnv) (p : Packer) (epoch : Nat) (more stopped : Bool) : Packer × Nat :=
  match p.batch with
  | none => (p.flush env true, 0)
  | some b =>
    if env.last = lastDrop then ({ (p.flush env true) with batch := none, seq := [], segs := 0 }, 1)
    else if env.last = lastCarry && more && !stopped && (b.epoch = epoch || b.entries.isEmpty) then
      ({ (p.flush env true) with batch := some { b with carry := true, epochLast := !b.entries.isEmpty } }, 0)
    else (p.close env true true stopped, 1)

/-- Status codes of Table 6-6. -/
def ST_PBQ_QUEUES : Nat := 0x0050
def ST_PBQ_SPACE : Nat := 0x0051

end Sys2Proof.Machine
end

