-- ==== Sys2Proof/Machine/Flags.lean ====
section
/-! DEFINITION. Floating-point values of the cores and the flags of FPFLAGS that an operation raises (R65,
R74): exact arithmetic on signed dyadic numbers, rounded once to nearest, ties to even. Also the integer
saturation of R66. -/

namespace Sys2Proof.Machine

/-- A binary format: exponent bits, fraction bits, and whether subnormals are replaced by zero. -/
structure Format where
  expBits : Nat
  fracBits : Nat
  flush : Bool
deriving DecidableEq, Repr

/-- fp16 keeps its subnormals (R65). -/
def fp16 : Format := ⟨5, 10, false⟩
/-- bf16 replaces subnormals by zero (R65). -/
def bf16 : Format := ⟨8, 7, true⟩
/-- fp32 replaces subnormals by zero (R65). -/
def fp32 : Format := ⟨8, 23, true⟩

/-- Exponent bias. -/
def Format.bias (f : Format) : Int := 2 ^ (f.expBits - 1) - 1

/-- Bits of an infinity. -/
def Format.inf (f : Format) (neg : Bool) : Nat :=
  (if neg then 2 ^ (f.expBits + f.fracBits) else 0) + (2 ^ f.expBits - 1) * 2 ^ f.fracBits

/-- Bits of a zero. -/
def Format.zero (f : Format) (neg : Bool) : Nat := if neg then 2 ^ (f.expBits + f.fracBits) else 0

/-- The canonical quiet NaN: 0x7E00, 0x7FC0 or 0x7FC0_0000 (R65). -/
def Format.nan (f : Format) : Nat := f.inf false + 2 ^ (f.fracBits - 1)

/-- A value: a NaN (signalling or quiet), an infinity, or `± m × 2^e`. -/
inductive FVal where
  | nan (signalling : Bool)
  | inf (neg : Bool)
  | fin (neg : Bool) (m : Nat) (e : Int)
deriving DecidableEq, Repr

/-- Sticky flags of FPFLAGS: bit 0 invalid, bit 1 overflow, bit 2 underflow, bit 3 inexact (Table 3-6). -/
structure FpFlags where
  invalid : Bool := false
  overflow : Bool := false
  underflow : Bool := false
  inexact : Bool := false
deriving DecidableEq, Repr

/-- No flag raised. -/
def FpFlags.none : FpFlags := {}

/-- Sticky union. -/
def FpFlags.or (a b : FpFlags) : FpFlags :=
  ⟨a.invalid || b.invalid, a.overflow || b.overflow, a.underflow || b.underflow, a.inexact || b.inexact⟩

/-- FPFLAGS as CWR reads it: bits [63:4] read 0. -/
def FpFlags.toWord (a : FpFlags) : Word64 :=
  BitVec.ofNat 64 (a.invalid.toNat + 2 * a.overflow.toNat + 4 * a.underflow.toNat + 8 * a.inexact.toNat)

/-- FPFLAGS as CWW stores it: bits [63:4] ignored. -/
def FpFlags.ofWord (w : Word64) : FpFlags := ⟨w.getLsbD 0, w.getLsbD 1, w.getLsbD 2, w.getLsbD 3⟩

/-- Read the bits of a format; subnormal inputs of a flushing format are zeros (R65). -/
def unpack (f : Format) (b : Nat) : FVal :=
  let neg := b.testBit (f.expBits + f.fracBits)
  let ex := natField b f.fracBits f.expBits
  let fr := b % 2 ^ f.fracBits
  if ex = 2 ^ f.expBits - 1 then
    if fr = 0 then .inf neg else .nan (!fr.testBit (f.fracBits - 1))
  else if ex = 0 then
    if f.flush then .fin neg 0 0 else .fin neg fr (1 - f.bias - f.fracBits)
  else .fin neg (2 ^ f.fracBits + fr) ((ex : Int) - f.bias - f.fracBits)

/-- `m / 2^k` rounded to nearest, ties to even, and whether it was exact. -/
def shiftRound (m k : Nat) : Nat × Bool :=
  let q := m >>> k
  let r := m % 2 ^ k
  if r = 0 then (q, true)
  else if 2 * r > 2 ^ k ∨ (2 * r = 2 ^ k ∧ q % 2 = 1) then (q + 1, false)
  else (q, false)

/-- Round `± m × 2^e` to a format (R65). Underflow means a tiny and inexact result; whether tininess is
judged before or after rounding IEEE 754 leaves to each implementation (`Config.tinyAfterRounding`). -/
def roundTo (f : Format) (neg : Bool) (m : Nat) (e : Int) : Nat × FpFlags :=
  if m = 0 then (f.zero neg, .none) else
  let top : Int := e + (Nat.log2 m : Nat)
  let emin : Int := 1 - f.bias
  let q : Int := max top emin - f.fracBits
  let r : Nat × Bool := if q ≤ e then (m <<< (e - q).toNat, true) else shiftRound m (q - e).toNat
  let sgn := f.zero neg
  let tinyBefore : Bool := top < emin
  let subnormal : Bool := tinyBefore && r.1 < 2 ^ f.fracBits
  let q' : Int := top - f.fracBits
  let full := if q' ≤ e then m <<< (e - q').toNat else (shiftRound m (q' - e).toNat).1
  let tinyAfter : Bool := tinyBefore && !(top + 1 == emin && full == 2 ^ (f.fracBits + 1))
  if subnormal && f.flush then
    (sgn, { underflow := true, inexact := true })
  else
    let biased : Int := q + f.fracBits + f.bias - 1
    let bits := biased.toNat * 2 ^ f.fracBits + r.1
    let tiny := if Config.tinyAfterRounding then tinyAfter else tinyBefore
    if bits ≥ f.inf false then (sgn + f.inf false, { overflow := true, inexact := true })
    else (sgn + bits, { underflow := tiny && !r.2, inexact := !r.2 })

/-- Bits of a value in a format. -/
def pack (f : Format) : FVal → Nat × FpFlags
  | .nan s => (f.nan, { invalid := s })
  | .inf n => (f.inf n, .none)
  | .fin n m e => roundTo f n m e

/-- Signed integer of a value at the exponent `e0`, at or below its own. -/
def signedAt (neg : Bool) (m : Nat) (e e0 : Int) : Int :=
  let v : Int := (m <<< (e - e0).toNat : Nat)
  if neg then -v else v

/-- Exact sum of two values. An exact zero sum of unlike signs is +0 (round to nearest). -/
def addVal : FVal → FVal → FVal × Bool
  | .nan s, .nan t => (.nan false, s || t)
  | .nan s, _ => (.nan false, s)
  | _, .nan s => (.nan false, s)
  | .inf a, .inf b => if a = b then (.inf a, false) else (.nan false, true)
  | .inf a, _ => (.inf a, false)
  | _, .inf b => (.inf b, false)
  | .fin na ma ea, .fin nb mb eb =>
    if ma = 0 ∧ mb = 0 then (.fin (na && nb) 0 0, false)
    else if ma = 0 then (.fin nb mb eb, false)
    else if mb = 0 then (.fin na ma ea, false)
    else
      let e := min ea eb
      let s := signedAt na ma ea e + signedAt nb mb eb e
      (.fin (s < 0) s.natAbs e, false)

/-- Exact product of two values. -/
def mulVal : FVal → FVal → FVal × Bool
  | .nan s, .nan t => (.nan false, s || t)
  | .nan s, _ => (.nan false, s)
  | _, .nan s => (.nan false, s)
  | .inf a, .inf b => (.inf (a != b), false)
  | .inf a, .fin b m _ => if m = 0 then (.nan false, true) else (.inf (a != b), false)
  | .fin a m _, .inf b => if m = 0 then (.nan false, true) else (.inf (a != b), false)
  | .fin a ma ea, .fin b mb eb => (.fin (a != b) (ma * mb) (ea + eb), false)

/-- A value with the other sign. -/
def negVal : FVal → FVal
  | .nan s => .nan s
  | .inf n => .inf (!n)
  | .fin n m e => .fin (!n) m e

/-- Round a value that may have been invalid. -/
def finishVal (f : Format) (v : FVal × Bool) : Nat × FpFlags :=
  let r := pack f v.1
  (r.1, r.2.or { invalid := v.2 })

/-- Sum in a format. -/
def fpAdd (f : Format) (a b : Nat) : Nat × FpFlags := finishVal f (addVal (unpack f a) (unpack f b))
/-- Difference in a format. -/
def fpSub (f : Format) (a b : Nat) : Nat × FpFlags := finishVal f (addVal (unpack f a) (negVal (unpack f b)))
/-- Product in a format. -/
def fpMul (f : Format) (a b : Nat) : Nat × FpFlags := finishVal f (mulVal (unpack f a) (unpack f b))

/-- `acc + a × b` in fp32 with one rounding; the factors are in format `g` (WFMA, WDOT). -/
def fpFma (g : Format) (acc a b : Nat) : Nat × FpFlags :=
  let p := mulVal (unpack g a) (unpack g b)
  let r := addVal (unpack fp32 acc) p.1
  finishVal fp32 (r.1, r.2 || p.2)

/-- Compare two values that are not NaN: is the first below the second? -/
def ltVal : FVal → FVal → Bool
  | .nan _, _ => false
  | _, .nan _ => false
  | .inf a, .inf b => a && !b
  | .inf a, .fin _ _ _ => a
  | .fin _ _ _, .inf b => !b
  | .fin na ma ea, .fin nb mb eb =>
    let e := min ea eb
    signedAt na ma ea e < signedAt nb mb eb e

/-- Are two values that are not NaN equal? Zeros of either sign are. -/
def eqVal (a b : FVal) : Bool :=
  match a, b with
  | .nan _, _ => false
  | _, .nan _ => false
  | _, _ => !ltVal a b && !ltVal b a

/-- Is a value a NaN? -/
def isNan : FVal → Bool
  | .nan _ => true
  | _ => false

/-- Is a value a signalling NaN? -/
def isSignalling : FVal → Bool
  | .nan s => s
  | _ => false

/-- Maximum or minimum; a NaN operand gives a NaN, and +0 is above −0 (IEEE 754-2019 maximum; PRESUMED,
log entry 17). -/
def fpMinMax (f : Format) (isMax : Bool) (a b : Nat) : Nat × FpFlags :=
  let x := unpack f a
  let y := unpack f b
  if isNan x || isNan y then (f.nan, { invalid := isSignalling x || isSignalling y })
  else
    let xNeg := a.testBit (f.expBits + f.fracBits)
    let below := if eqVal x y then xNeg else ltVal x y
    let v := if below = isMax then y else x
    pack f v

/-- Range of an integer type: least and greatest. -/
def intRange (signed : Bool) (w : Nat) : Int × Int :=
  if signed then (-(2 ^ (w - 1) : Nat), (2 ^ (w - 1) : Nat) - 1) else (0, (2 ^ w : Nat) - 1)

/-- Saturate to an integer type (R66), as its bits. -/
def saturate (signed : Bool) (w : Nat) (i : Int) : Nat :=
  let r := intRange signed w
  wrapInt w (max r.1 (min r.2 i))

/-- Nearest integer of `± m × 2^e`, ties to even, and whether it was exact. -/
def toNearestInt (neg : Bool) (m : Nat) (e : Int) : Int × Bool :=
  let r : Nat × Bool := if 0 ≤ e then (m <<< e.toNat, true) else shiftRound m (-e).toNat
  (if neg then -(r.1 : Int) else r.1, r.2)

/-- A floating-point value as a saturated integer; the spec states no integer for a NaN
(`Config.nanToInt`). -/
def fpToInt (signed : Bool) (w : Nat) (bits : Nat) : FVal → Nat × FpFlags
  | .nan _ => (Config.nanToInt bits % 2 ^ w, { invalid := true })
  | .inf n => (saturate signed w (if n then -(2 ^ 70 : Nat) else (2 ^ 70 : Nat)), { invalid := true })
  | .fin n m e =>
    let r := toNearestInt n m e
    let lo := intRange signed w
    (saturate signed w r.1, if r.1 < lo.1 ∨ r.1 > lo.2 then { invalid := true } else { inexact := !r.2 })

/-- An integer as a value. -/
def intVal (i : Int) : FVal := .fin (i < 0) i.natAbs 0

/-- An fp32 lane of WDOT: two products, each added with its own rounding. -/
def dotFp (fm : Format) (acc a0 b0 a1 b1 : Nat) : Nat × FpFlags :=
  let x := fpFma fm acc a0 b0
  let y := fpFma fm x.1 a1 b1
  (y.1, x.2.or y.2)

/-- An element of an fp type in fp32. -/
def toFp32 (fm : Format) (v : Nat) : Nat × FpFlags :=
  let x := unpack fm v
  let r := pack fp32 x
  (r.1, r.2.or { invalid := isSignalling x })

end Sys2Proof.Machine
end

