-- ==== Sys2Proof/Machine/Resample.lean ====
section
/-! DEFINITION. Pixels: the exact inverse DCT of R105, and the resampler of R110 to R113 with the fill tensor
of R120. -/

namespace Sys2Proof.Machine

/-- A plane of samples in row order. -/
structure Plane where
  w : Nat
  h : Nat
  px : Array Nat
deriving DecidableEq, Repr

/-- The sample of a plane nearest to a coordinate inside it. -/
def Plane.at_ (p : Plane) (x y : Nat) : Nat := p.px.getD (min y (p.h - 1) * p.w + min x (p.w - 1)) 0

/-- A plane from a function of its coordinates. -/
def mkPlane (w h : Nat) (f : Nat → Nat → Nat) : Plane :=
  ⟨w, h, ((List.range h).flatMap fun y => (List.range w).map fun x => f x y).toArray⟩

/-- How the planes of a picture stand for colour. -/
inductive ColourModel where
  | ycc
  | rgb
  | grey
  /-- Video: the matrix and range that its stream signals. -/
  | video (matrix : Nat) (fullRange : Bool)
deriving DecidableEq, Repr

/-- A picture as a decode engine emits it: planes at coded resolution, EXIF orientation as side data (R104). -/
structure Picture where
  w : Nat
  h : Nat
  depth : Nat
  model : ColourModel
  orientation : Nat
  planes : List Plane
deriving DecidableEq, Repr

/-! ### Inverse DCT (R105) -/

/-- `C[u][x]` of R105: round(2^13 × α(u)/2 × cos((2x+1)uπ/16)). The eight magnitudes by (2x+1)u mod 32. -/
def idctCoef (u x : Nat) : Int :=
  if u = 0 then 2896 else
  let k := (2 * x + 1) * u % 32
  let mag : Nat → Int := fun j => ([4096, 4017, 3784, 3406, 2896, 2276, 1567, 799, 0] : List Int).getD j 0
  if k ≤ 8 then mag k else if k ≤ 16 then -mag (16 - k) else if k ≤ 24 then -mag (k - 16) else mag (32 - k)

/-- Arithmetic right shift. -/
def sra (a : Int) (n : Nat) : Int := a / (2 ^ n : Nat)

/-- Clamp to a range. -/
def clampInt (lo hi a : Int) : Int := max lo (min hi a)

/-- Sum over 0 to 7. -/
def sum8 (f : Nat → Int) : Int := (List.range 8).foldl (fun a i => a + f i) 0

/-- The 64 samples of a block from its 64 dequantized coefficients in row order, clamped to s16. -/
def idctBlock (coef : List Int) : Array Nat :=
  let f := (coef.map (clampInt (-32768) 32767)).toArray
  let t : Array Int := ((List.range 64).map fun i =>
    sra (sum8 (fun u => idctCoef u (i % 8) * f.getD (i / 8 * 8 + u) 0) + 2 ^ 10) 11).toArray
  ((List.range 64).map fun i =>
    let s := sra (sum8 (fun v => idctCoef v (i / 8) * t.getD (v * 8 + i % 8) 0) + 2 ^ 14) 15
    (clampInt 0 255 (s + 128)).toNat).toArray

/-! ### Resampler steps (Table 4-7) -/

/-- Step 1 upsampling of one plane to a size, by REPLICATE or by TRIANGLE. -/
def upsample (triangle : Bool) (w h : Nat) (p : Plane) : Plane :=
  let wide := if p.w ≥ w then p else
    let q := mkPlane (2 * p.w) p.h fun x y =>
      let i := x / 2
      if triangle then
        let o := if x % 2 = 0 then p.at_ (i - 1) y else p.at_ (i + 1) y
        (3 * p.at_ i y + o + 2) >>> 2
      else p.at_ i y
    q
  let tall := if p.h ≥ h then wide else
    mkPlane wide.w (2 * wide.h) fun x y =>
      let i := y / 2
      if triangle then
        let o := if y % 2 = 0 then wide.at_ x (i - 1) else wide.at_ x (i + 1)
        (3 * wide.at_ x i + o + 2) >>> 2
      else wide.at_ x i
  mkPlane w h tall.at_

/-- JPEG YCbCr to RGB (Table 4-7). -/
def yccToRgb (y cb cr : Nat) : Nat × Nat × Nat :=
  let Y : Int := y
  let b : Int := (cb : Int) - 128
  let r : Int := (cr : Int) - 128
  ((clampInt 0 255 (Y + sra (91881 * r + 32768) 16)).toNat,
   (clampInt 0 255 (Y - sra (22553 * b + 46802 * r - 32768) 16)).toNat,
   (clampInt 0 255 (Y + sra (116130 * b + 32768) 16)).toNat)

/-- Three planes of colour, or one of them where the output asks for one channel. -/
def threePlanes (channels depth w h : Nat) (rgb : Nat → Nat → Nat × Nat × Nat) : List Plane :=
  if channels = 3 then [mkPlane w h fun i j => (rgb i j).1, mkPlane w h fun i j => (rgb i j).2.1, mkPlane w h fun i j => (rgb i j).2.2]
  else [mkPlane w h fun i j => Config.toOneChannel depth (rgb i j).1 (rgb i j).2.1 (rgb i j).2.2]

/-- Step 1, colour: one or three full planes. -/
def colourStep (triangle : Bool) (channels : Nat) (p : Picture) : List Plane :=
  let up := p.planes.map (upsample triangle p.w p.h)
  let out := threePlanes channels p.depth p.w p.h
  match p.model, up with
  | .ycc, [y, cb, cr] => out fun i j => yccToRgb (y.at_ i j) (cb.at_ i j) (cr.at_ i j)
  | .video m full, [y, cb, cr] => out fun i j => Config.videoRgb m full p.depth (y.at_ i j) (cb.at_ i j) (cr.at_ i j)
  | .grey, y :: _ => if channels = 3 then [y, y, y] else [y]
  | _, r :: g :: b :: _ => out fun i j => (r.at_ i j, g.at_ i j, b.at_ i j)
  | _, ps => ps

/-- Step 2: EXIF orientation 1 to 8; another value leaves the picture as it is. -/
def orient (o : Nat) (p : Plane) : Plane :=
  match o with
  | 2 => mkPlane p.w p.h fun x y => p.at_ (p.w - 1 - x) y
  | 3 => mkPlane p.w p.h fun x y => p.at_ (p.w - 1 - x) (p.h - 1 - y)
  | 4 => mkPlane p.w p.h fun x y => p.at_ x (p.h - 1 - y)
  | 5 => mkPlane p.h p.w fun x y => p.at_ y x
  | 6 => mkPlane p.h p.w fun x y => p.at_ y (p.h - 1 - x)
  | 7 => mkPlane p.h p.w fun x y => p.at_ (p.w - 1 - y) (p.h - 1 - x)
  | 8 => mkPlane p.h p.w fun x y => p.at_ (p.w - 1 - y) x
  | _ => p

/-- Step 3: a rectangle of a plane. -/
def cropPlane (x0 y0 w h : Nat) (p : Plane) : Plane := mkPlane w h fun x y => p.at_ (x0 + x) (y0 + y)

/-- Step 4: a horizontal mirror. -/
def flipPlane (p : Plane) : Plane := mkPlane p.w p.h fun x y => p.at_ (p.w - 1 - x) y

/-- The keyed crop and flip of a sample (R111). -/
structure Augment where
  x0 : Nat
  y0 : Nat
  w : Nat
  h : Nat
  flip : Bool
deriving DecidableEq, Repr

/-- Keyed augmentation of R111. -/
def augmentOf (seed : Bytes) (epoch sample stage W H fmin fmax : Nat) : Augment :=
  let a := sha256 (seed ++ leBytes 4 epoch ++ leBytes 8 sample ++ leBytes 2 stage)
  let u := fun i => fieldAt a (2 * i) 2
  let size := fun (n k : Nat) => max 1 ((n * (fmin + (((fmax - fmin) * u k) >>> 16))) >>> 16)
  let w := size W 0
  let h := size H 1
  { w := w, h := h, x0 := (u 2 * (W - w + 1)) >>> 16, y0 := (u 3 * (H - h + 1)) >>> 16, flip := u 4 % 2 = 1 }

/-- `num / den` rounded to the nearest integer; R112 does not say which way a tie goes. -/
def roundWeight (num : Int) (den : Nat) : Int :=
  let q := num / (den : Int)
  let r := num - q * den
  if 2 * r > den ∨ (2 * r = den ∧ Config.weightTieUp) then q + 1 else q

/-- Filters of R112. -/
def filterNearest : Nat := 0
def filterBilinear : Nat := 1
def filterBicubic : Nat := 2
def filterArea : Nat := 3

/-- The unrounded weights of one output coordinate as numerators over a denominator, per source index. -/
def rawTaps (filter inp out x : Nat) : List (Int × Int) × Nat :=
  let D : Int := 2 * out
  let c : Int := (2 * x + 1 : Nat) * inp - out
  if filter = filterArea ∧ out < inp then
    let lo := x * inp / out
    let hi := ((x + 1) * inp + out - 1) / out
    (((List.range (hi - lo)).map fun (k : Nat) =>
      let i : Int := (lo + k : Nat)
      (i, max 0 (min (((x + 1) * inp : Nat) : Int) ((i + 1) * out) - max ((x * inp : Nat) : Int) (i * out)))), inp)
  else if filter = filterBicubic then
    let f := c / D
    ([f - 1, f, f + 1, f + 2].map fun i =>
      let n := (D * i - c).natAbs
      let n : Int := n
      (i, if n < D then 3 * n ^ 3 - 5 * n ^ 2 * D + 2 * D ^ 3
          else if n < 2 * D then -(n ^ 3) + 5 * n ^ 2 * D - 8 * n * D ^ 2 + 4 * D ^ 3 else 0), (2 * D ^ 3).toNat)
  else
    let f := c / D
    ([f, f + 1].map fun i => (i, max 0 (D - ((D * i - c).natAbs : Int))), D.toNat)

/-- Index of the first greatest weight. -/
def firstGreatest : List Int → Nat
  | [] => 0
  | a :: t =>
    let k := firstGreatest t
    if t ≠ [] ∧ t.getD k 0 > a then k + 1 else 0

/-- The 14-bit weights of one output coordinate with their source indices (R112). -/
def tapsOf (filter inp out x : Nat) : List (Int × Int) :=
  if filter = filterNearest then
    [(((2 * x + 1 : Nat) * inp : Int) / (2 * out : Nat), 2 ^ 14)]
  else
    let r := rawTaps filter inp out x
    let ws := r.1.map fun t => roundWeight (t.2 * 2 ^ 14) r.2
    let rest : Int := 2 ^ 14 - ws.foldl (· + ·) 0
    let k := firstGreatest ws
    (r.1.zip ws).zipIdx.map fun e => (e.1.1.1, if e.2 = k then e.1.2 + rest else e.1.2)

/-- An index clamped into a row of `n` samples. -/
def clampIndex (n : Nat) (i : Int) : Nat := (clampInt 0 (n - 1 : Nat) i).toNat

/-- Step 5 for one plane (R112): horizontal pass with 8 extra bits, then vertical pass. -/
def resizePlane (filter depth w h : Nat) (p : Plane) : Plane :=
  let tx := ((List.range w).map (tapsOf filter p.w w)).toArray
  let ty := ((List.range h).map (tapsOf filter p.h h)).toArray
  let mid : Array Int := ((List.range p.h).flatMap fun y => (List.range w).map fun x =>
    sra ((tx.getD x []).foldl (fun a t => a + t.2 * Int.ofNat (p.at_ (clampIndex p.w t.1) y)) (0 : Int) + 2 ^ 5) 6).toArray
  mkPlane w h fun x y =>
    let v := sra ((ty.getD y []).foldl (fun a t => a + t.2 * mid.getD (clampIndex p.h t.1 * w + x) 0) (0 : Int) + 2 ^ 21) 22
    (clampInt 0 ((2 ^ depth : Nat) - 1) v).toNat

/-- A RESAMPLE stage table (Table 4-15). -/
structure ResampleTable where
  flags : Nat
  filter : Nat
  outType : Nat
  outW : Nat
  outH : Nat
  channels : Nat
  cropX : Nat
  cropY : Nat
  cropW : Nat
  cropH : Nat
  fmin : Nat
  fmax : Nat
  mean : List Nat
  invstd : List Nat
deriving DecidableEq, Repr

/-- Read a RESAMPLE stage table. -/
def resampleTableOf (t : Bytes) : ResampleTable where
  flags := fieldAt t 0 2
  filter := fieldAt t 2 1
  outType := fieldAt t 3 1
  outW := fieldAt t 4 2
  outH := fieldAt t 6 2
  channels := fieldAt t 8 1
  cropX := fieldAt t 0xA 2
  cropY := fieldAt t 0xC 2
  cropW := fieldAt t 0xE 2
  cropH := fieldAt t 0x10 2
  fmin := fieldAt t 0x12 2
  fmax := fieldAt t 0x14 2
  mean := (List.range 3).map fun i => fieldAt t (0x18 + 4 * i) 4
  invstd := (List.range 3).map fun i => fieldAt t (0x24 + 4 * i) 4

/-- One output element: normalized (R113) or as the integer it is. Channel `ch` is in output order. -/
def outElement (t : ResampleTable) (depth ch v : Nat) : Bytes :=
  if natBit t.flags 7 then
    let x := (pack fp32 (intVal v)).1
    let d := (fpSub fp32 x (t.mean.getD ch 0)).1
    let r := (fpMul fp32 d (t.invstd.getD ch 0)).1
    match t.outType with
    | 3 => leBytes 2 (pack bf16 (unpack fp32 r)).1
    | 4 => leBytes 2 (pack fp16 (unpack fp32 r)).1
    | _ => leBytes 4 r
  else if t.outType = 0 then [BitVec.ofNat 8 (if depth = 8 then v else Config.changeDepth depth 8 v)]
  else leBytes 2 (if depth > 8 then v else Config.changeDepth depth 16 v)

/-- Steps 6 and 7: normalize and pack the planes. -/
def packPlanes (t : ResampleTable) (depth : Nat) (ps : List Plane) : Bytes :=
  let ps := if natBit t.flags 9 then ps.reverse else ps
  let w := (ps.head?.map (·.w)).getD 0
  let h := (ps.head?.map (·.h)).getD 0
  if natBit t.flags 8 then
    ps.zipIdx.flatMap fun p => p.1.px.toList.flatMap (outElement t depth p.2)
  else
    (List.range (w * h)).flatMap fun i => ps.zipIdx.flatMap fun p => outElement t depth p.2 (p.1.px.getD i 0)

/-- The tensor of a picture through every enabled step of Table 4-7, for the epoch and sample of R111. -/
def resample (t : ResampleTable) (seed : Bytes) (epoch sample stage : Nat) (p : Picture) : Bytes :=
  let s1 := colourStep (natBit t.flags 5) t.channels p
  let s2 := if natBit t.flags 0 then s1.map (orient p.orientation) else s1
  let W := (s2.head?.map (·.w)).getD 0
  let H := (s2.head?.map (·.h)).getD 0
  let a := augmentOf seed epoch sample stage W H t.fmin t.fmax
  let s3 := match natField t.flags 1 2 with
    | 1 => s2.map (cropPlane t.cropX t.cropY t.cropW t.cropH)
    | 2 => s2.map (cropPlane a.x0 a.y0 a.w a.h)
    | _ => s2
  let s4 := match natField t.flags 3 2 with
    | 1 => s3.map flipPlane
    | 2 => if a.flip then s3.map flipPlane else s3
    | _ => s3
  let s5 := if natBit t.flags 6 then s4.map (resizePlane t.filter p.depth t.outW t.outH) else s4
  packPlanes t p.depth s5

/-- Mid grey of a bit depth (R119, R120). -/
def greyOf (depth : Nat) : Nat := 2 ^ (depth - 1)

/-- The fill tensor of an UNDECODABLE sample (R120): a grey input of the output size through steps 6 and 7. -/
def fillTensor (t : ResampleTable) (depth : Nat) : Bytes :=
  packPlanes t depth (List.replicate t.channels (mkPlane t.outW t.outH fun _ _ => greyOf depth))

end Sys2Proof.Machine
end

