-- ==== Sys2Proof/Machine/Text.lean ====
section
/-! DEFINITION. Text: UTF-8 intake (R131 to R134), pre-split (R135, R136), lattice tokenization (R137 to R142),
detokenization (R144), stop strings (R145 to R147) and grammar automata (R152 to R157, R396). -/

namespace Sys2Proof.Machine

/-! ### Tables held as arrays -/

/-- Little-endian u16 of a table. -/
def u16At (a : Array Byte) (o : Nat) : Nat := (a.getD o 0).toNat + 256 * (a.getD (o + 1) 0).toNat
/-- Little-endian u32 of a table. -/
def u32At (a : Array Byte) (o : Nat) : Nat := u16At a o + 65536 * u16At a (o + 2)
/-- Little-endian s32 of a table. -/
def s32At (a : Array Byte) (o : Nat) : Int := signedOf 32 (u32At a o)

/-! ### UTF-8 (R131, R132) -/

/-- Bytes of the well-formed sequences that a lead byte begins, and the range of the second byte; length 0
for a byte that begins none. -/
def utf8Lead (b : Nat) : Nat × Nat × Nat :=
  if b < 0x80 then (1, 0, 0)
  else if b < 0xC2 then (0, 0, 0)
  else if b < 0xE0 then (2, 0x80, 0xBF)
  else if b = 0xE0 then (3, 0xA0, 0xBF)
  else if b = 0xED then (3, 0x80, 0x9F)
  else if b < 0xF0 then (3, 0x80, 0xBF)
  else if b = 0xF0 then (4, 0x90, 0xBF)
  else if b < 0xF4 then (4, 0x80, 0xBF)
  else if b = 0xF4 then (4, 0x80, 0x8F)
  else (0, 0, 0)

/-- What the front of a byte string holds. -/
inductive Utf8Front where
  /-- A character of `len` bytes. -/
  | char (cp len : Nat)
  /-- An ill-formed subsequence of `len` bytes: a maximal subpart, or a byte that begins nothing. -/
  | bad (len : Nat)
  /-- A prefix of a well-formed sequence that runs to the end of the bytes. -/
  | part
deriving DecidableEq, Repr

/-- Continuation bytes of a sequence: `left` more are due, the next within `lo` to `hi`. -/
def utf8Tail (cp taken : Nat) : (left lo hi : Nat) → Bytes → Utf8Front
  | 0, _, _, _ => .char cp taken
  | _ + 1, _, _, [] => .part
  | n + 1, lo, hi, b :: t =>
    if lo ≤ b.toNat ∧ b.toNat ≤ hi then utf8Tail (cp * 64 + b.toNat % 64) (taken + 1) n 0x80 0xBF t else .bad taken

/-- The front of a non-empty byte string. -/
def utf8Front : Bytes → Utf8Front
  | [] => .part
  | b :: t =>
    match utf8Lead b.toNat with
    | (0, _, _) => .bad 1
    | (1, _, _) => .char b.toNat 1
    | (n, lo, hi) => utf8Tail (b.toNat % 2 ^ (7 - n)) 1 (n - 1) lo hi t

/-- A character of a text stream: its code point, the offset of its first byte, and whether it replaces
an ill-formed subsequence. -/
structure Char8 where
  cp : Nat
  off : Nat
  bad : Bool
deriving DecidableEq, Repr

/-- Scan bytes from offset `off`: the characters, and the pending bytes at the end (at most 3, R131). -/
def utf8Scan : (fuel off : Nat) → Bytes → List Char8 × Bytes
  | 0, _, bs => ([], bs)
  | n + 1, off, bs =>
    if bs.isEmpty then ([], []) else
    match utf8Front bs with
    | .part => ([], bs)
    | .char cp len =>
      let r := utf8Scan n (off + len) (bs.drop len)
      (⟨cp, off, false⟩ :: r.1, r.2)
    | .bad len =>
      let r := utf8Scan n (off + len) (bs.drop len)
      (⟨0xFFFD, off, true⟩ :: r.1, r.2)

/-- The characters of a whole member: pending bytes at its end are one ill-formed subsequence (R131). -/
def utf8Decode (bs : Bytes) : List Char8 :=
  let r := utf8Scan bs.length 0 bs
  if r.2.isEmpty then r.1 else r.1 ++ [⟨0xFFFD, bs.length - r.2.length, true⟩]

/-- UTF-8 bytes of a code point. -/
def utf8Encode (cp : Nat) : Bytes :=
  let t := fun k => BitVec.ofNat 8 (0x80 + cp / 64 ^ k % 64)
  if cp < 0x80 then [BitVec.ofNat 8 cp]
  else if cp < 0x800 then [BitVec.ofNat 8 (0xC0 + cp / 64), t 0]
  else if cp < 0x10000 then [BitVec.ofNat 8 (0xE0 + cp / 4096), t 1, t 0]
  else [BitVec.ofNat 8 (0xF0 + cp / 262144), t 2, t 1, t 0]

/-! ### Normalization (R135) -/

/-- The full decomposition of a code point: Hangul syllables by arithmetic, others by the mappings, which nest at most
a few levels deep (the Unicode Standard, sections 3.7 and 3.12). -/
def decomposeChar (compat : Bool) (data : Bytes) : (fuel cp : Nat) → List Nat
  | 0, cp => [cp]
  | n + 1, cp =>
    if 0xAC00 ≤ cp ∧ cp ≤ 0xD7A3 then
      let i := cp - 0xAC00
      [0x1100 + i / 588, 0x1161 + i % 588 / 28] ++ (if i % 28 = 0 then [] else [0x11A7 + i % 28])
    else
      match Config.charMapping compat data cp with
      | [] => [cp]
      | m => m.flatMap (decomposeChar compat data n)

/-- The canonical order: each run of characters whose class is not 0, sorted by class and otherwise as it stood. `run` is the
run in progress. -/
def canonicalOrder (cls : Nat → Nat) : (run : List Nat) → List Nat → List Nat
  | run, [] => sorted run
  | run, c :: t => if cls c = 0 then sorted run ++ c :: canonicalOrder cls [] t else canonicalOrder cls (run ++ [c]) t
where
  /-- A stable sort by class. -/
  sorted (l : List Nat) : List Nat := l.mergeSort fun a b => decide (cls a ≤ cls b)

/-- The primary composite of two characters, of Hangul by arithmetic. -/
def composePair (data : Bytes) (a b : Nat) : Option Nat :=
  if 0x1100 ≤ a ∧ a < 0x1113 ∧ 0x1161 ≤ b ∧ b < 0x1176 then some (0xAC00 + (a - 0x1100) * 588 + (b - 0x1161) * 28)
  else if 0xAC00 ≤ a ∧ a ≤ 0xD7A3 ∧ (a - 0xAC00) % 28 = 0 ∧ 0x11A7 < b ∧ b < 0x11C3 then some (a + (b - 0x11A7))
  else Config.charComposite data a b

/-- The canonical composition: a character joins the last starter where no character between blocks it. `mid` holds the
characters since the starter, reversed, and `last` the class of the newest. -/
def composeChars (data : Bytes) : (starter : Option Nat) → (mid : List Nat) → (last : Nat) → List Nat → List Nat
  | st, mid, _, [] => st.toList ++ mid.reverse
  | st, mid, last, c :: t =>
    let k := Config.charClass data c
    match (if mid.isEmpty || last < k then st.bind fun a => composePair data a c else none) with
    | some p => composeChars data (some p) mid last t
    | none =>
      if k = 0 then st.toList ++ mid.reverse ++ composeChars data (some c) [] 0 t
      else composeChars data st (c :: mid) k t

/-- NORMALIZE of a PARSE table: NFC for 1, NFKC for 2. -/
def normalizeText (form : Nat) (data : Bytes) (cps : List Nat) : List Nat :=
  let all := cps.flatMap (decomposeChar (decide (form = 2)) data 32)
  composeChars data none [] 0 (canonicalOrder (Config.charClass data) [] all)

/-! ### Text preparation (R133 to R136) -/

/-- A PARSE text table (Table 5-8). -/
structure ParseTable where
  reject : Bool
  stripBom : Bool
  leadSpace : Bool
  addLeadSpace : Bool
  normalize : Nat
  digits : Nat
  chardata : Nat
  classes : Nat
deriving DecidableEq, Repr

/-- Read a PARSE text table. -/
def parseTableOf (t : Bytes) : ParseTable :=
  let f := fieldAt t 0 1
  ⟨natBit f 0, natBit f 1, natBit f 2, natBit f 3, fieldAt t 1 1, fieldAt t 2 1, fieldAt t 4 4, fieldAt t 8 4⟩

/-- Class of a code point by a class table (R161); 0 where no range lists it. -/
def classOf (tbl : Array Byte) (cp : Nat) : Nat :=
  ((((List.range (u32At tbl 0)).map fun i => 40 + 12 * i).find? fun o =>
    u32At tbl o ≤ cp && cp ≤ u32At tbl (o + 4)).map fun o => (tbl.getD (o + 8) 0).toNat).getD 0

/-- Is a pair of classes marked in the split matrix? -/
def pairMarked (tbl : Array Byte) (l r : Nat) : Bool := natBit (u16At tbl (8 + 2 * l)) r

/-- Pieces by the split matrix, the DIGITS cut and the LEAD_SPACE rule (R136). `run` counts the class-1
characters of the run that ends at `prev`; `cur` is the piece in progress, reversed. -/
def splitPieces (tbl : Option (Array Byte)) (p : ParseTable) : (prev run : Nat) → (cur : List Nat) → List Nat → List (List Nat)
  | _, _, cur, [] => if cur.isEmpty then [] else [cur.reverse]
  | prev, run, cur, c :: t =>
    let cls := fun x => match tbl with
      | some a => classOf a x
      | none => 0
    let run' := if cls c = 1 then run + 1 else 0
    if cur.isEmpty then splitPieces tbl p c run' [c] t else
    let marked := match tbl with
      | some a => pairMarked a (cls prev) (cls c)
      | none => false
    let digit := p.digits ≠ 0 && run' ≥ 2 && (run' - 1) % p.digits = 0
    if (marked || digit) && !(p.leadSpace && prev = 0x20) then
      cur.reverse :: splitPieces tbl p c run' [c] t
    else splitPieces tbl p c run' (c :: cur) t

/-- Characters of the front of a piece whose UTF-8 form stays within `room` bytes. -/
def fitChars : (room : Nat) → List Nat → Nat
  | _, [] => 0
  | room, c :: t =>
    let n := (utf8Encode c).length
    if n ≤ room then 1 + fitChars (room - n) t else 0

/-- The last boundary at or before character `k` that does not part a U+0020 from what follows it; `k` itself where there
is none (R135, log entry 53). -/
def spaceCut (cs : List Nat) (k : Nat) : Nat :=
  (((List.range k).map (· + 1)).reverse.find? fun j => cs.getD (j - 1) 0 ≠ 0x20).getD k

/-- Cut a piece longer than 4,096 bytes at the last character boundary at or before byte 4,096 (R136); under LEAD_SPACE one
that follows a U+0020 is no boundary (R135). -/
def cutPiece (leadSpace : Bool) : (fuel : Nat) → List Nat → List (List Nat)
  | 0, cs => [cs]
  | n + 1, cs =>
    let k := fitChars 4096 cs
    if k = cs.length ∨ k = 0 then [cs]
    else
      let j := if leadSpace then spaceCut cs k else k
      cs.take j :: cutPiece leadSpace n (cs.drop j)

/-- A member after lib.text_prep. -/
structure Prepared where
  /-- Was the member rejected (R133)? -/
  rejected : Bool
  /-- Replacements counted in TOK_REPLACED. -/
  replaced : Nat
  /-- Offset of the first ill-formed subsequence. -/
  firstBad : Option Nat
  /-- Pieces of the normalized text, in order, as UTF-8. -/
  pieces : List Bytes
deriving DecidableEq, Repr

/-- Text preparation of one member; `chardata` is the body of the character-data table, `classes` the class
table where the stage names one. -/
def textPrep (p : ParseTable) (chardata : Bytes) (classes : Option Bytes) (member : Bytes) : Prepared :=
  let cs := utf8Decode member
  let bad := cs.filter (·.bad)
  let firstBad := (bad.head?).map (·.off)
  if p.reject && !bad.isEmpty then ⟨true, 0, firstBad, []⟩ else
  let cps := cs.map (·.cp)
  let cps := if p.stripBom && cps.head? = some 0xFEFF && (cs.head?.map (·.bad)) = some false then cps.drop 1 else cps
  let norm := if p.normalize = 0 then cps else normalizeText p.normalize chardata cps
  let led := if p.leadSpace && p.addLeadSpace && !norm.isEmpty && norm.head? ≠ some 0x20 then 0x20 :: norm else norm
  let tbl := classes.map List.toArray
  let pieces := (splitPieces tbl p 0 0 [] led).flatMap fun x => cutPiece p.leadSpace x.length x
  ⟨false, bad.length, firstBad, pieces.map fun x => x.flatMap utf8Encode⟩

/-! ### Vocabularies and the lattice (R137 to R142) -/

/-- The header of a vocabulary table (Table 5-2) over its bytes. -/
structure Vocab where
  raw : Array Byte
deriving DecidableEq, Repr

/-- A vocabulary from its table. -/
def vocabOf (t : Bytes) : Vocab := ⟨t.toArray⟩

def Vocab.byteEdges (v : Vocab) : Bool := natBit (u16At v.raw 6) 0
def Vocab.dropLeadSpace (v : Vocab) : Bool := natBit (u16At v.raw 6) 1
def Vocab.size (v : Vocab) : Nat := u32At v.raw 8
def Vocab.nodes (v : Vocab) : Nat := u32At v.raw 0xC
def Vocab.unkId (v : Vocab) : Nat := u32At v.raw 0x10
def Vocab.unkScore (v : Vocab) : Int := s32At v.raw 0x14
def Vocab.bosId (v : Vocab) : Nat := u32At v.raw 0x18
def Vocab.eosId (v : Vocab) : Nat := u32At v.raw 0x1C
def Vocab.byteBase (v : Vocab) : Nat := u32At v.raw 0x20
def Vocab.maxLen (v : Vocab) : Nat := u16At v.raw 0x24

/-- Score of a token. -/
def Vocab.score (v : Vocab) (t : Nat) : Int := s32At v.raw (u32At v.raw 0x2C + 4 * t)

/-- Bytes of a token's string. -/
def Vocab.string (v : Vocab) (t : Nat) : Bytes :=
  let so := u32At v.raw 0x30
  let pool := u32At v.raw 0x34
  let a := u32At v.raw (so + 4 * t)
  let b := u32At v.raw (so + 4 * (t + 1))
  (v.raw.extract (pool + a) (pool + b)).toList

/-- The node that byte `b` leads to from node `n` (R138). -/
def Vocab.child (v : Vocab) (n : Nat) (b : Byte) : Option Nat :=
  let o := u32At v.raw 0x28
  let t : Int := s32At v.raw (o + 12 * n) + b.toNat
  if 1 ≤ t ∧ t < v.nodes ∧ u32At v.raw (o + 12 * t.toNat + 4) = n then some t.toNat else none

/-- Token that ends at a node, or 0xFFFF_FFFF. -/
def Vocab.tokenAt (v : Vocab) (n : Nat) : Nat := u32At v.raw (u32At v.raw 0x28 + 12 * n + 8)

/-- Vocabulary edges from the front of `bs`: lengths and tokens, shortest first, at most `left` bytes long. -/
def Vocab.edges (v : Vocab) : (left node len : Nat) → Bytes → List (Nat × Nat)
  | 0, _, _, _ => []
  | _ + 1, _, _, [] => []
  | k + 1, node, len, b :: t =>
    match v.child node b with
    | none => []
    | some n =>
      let more := v.edges k n (len + 1) t
      if v.tokenAt n = 0xFFFF_FFFF then more else (len + 1, v.tokenAt n) :: more

/-- Best way into a lattice position: score, position before, token, and whether by a fallback edge. -/
structure Best where
  score : Int
  back : Nat
  token : Nat
  fallback : Bool
deriving DecidableEq, Repr

/-- Take an edge into position `j` where it is strictly better (R141). -/
def relax (best : Array (Option Best)) (j : Nat) (b : Best) : Array (Option Best) :=
  match best.getD j none with
  | some x => if b.score > x.score then best.setIfInBounds j (some b) else best
  | none => best.setIfInBounds j (some b)

/-- Bytes of the character at the front of a piece. -/
def charLen (bs : Bytes) : Nat :=
  match utf8Front bs with
  | .char _ n => n
  | .bad n => n
  | .part => bs.length

/-- Relax every edge out of positions `i` onward, in ascending order: into each position the edges then
arrive longest first, the vocabulary edge before the fallback edge. `bound` is where the character at or
before `i` ends. -/
def lattice (v : Vocab) : (i bound : Nat) → Bytes → Array (Option Best) → Array (Option Best)
  | _, _, [], best => best
  | i, bound, b :: t, best =>
    let atChar := i ≥ bound
    let bound' := if atChar then i + charLen (b :: t) else bound
    match best.getD i none with
    | none => lattice v (i + 1) bound' t best
    | some here =>
      let best := (v.edges v.maxLen 0 0 (b :: t)).foldl
        (fun bs e => relax bs (i + e.1) ⟨here.score + v.score e.2, i, e.2, false⟩) best
      let best :=
        if v.byteEdges then
          let tok := v.byteBase + b.toNat
          relax best (i + 1) ⟨here.score + v.score tok, i, tok, true⟩
        else if atChar then relax best bound' ⟨here.score + v.unkScore, i, v.unkId, true⟩
        else best
      lattice v (i + 1) bound' t best

/-- A token of the output: identifier, offset of its first byte in the piece, by fallback or not. -/
structure Token where
  id : Nat
  off : Nat
  fallback : Bool
deriving DecidableEq, Repr

/-- Read tokens back from position `j` to 0. -/
def readBack (best : Array (Option Best)) : (fuel j : Nat) → List Token → List Token
  | 0, _, acc => acc
  | n + 1, j, acc =>
    if j = 0 then acc else
    match best.getD j none with
    | none => acc
    | some b => readBack best n b.back (⟨b.token, b.back, b.fallback⟩ :: acc)

/-- Tokens of a piece (R141). -/
def tokenizePiece (v : Vocab) (piece : Bytes) : List Token :=
  let n := piece.length
  let start := (Array.replicate (n + 1) (none : Option Best)).setIfInBounds 0 (some ⟨0, 0, 0, false⟩)
  readBack (lattice v 0 0 piece start) n n []

/-- Tokens of the pieces of a sample, with offsets in the normalized text. -/
def tokenizePieces (v : Vocab) : (off : Nat) → List Bytes → List Token
  | _, [] => []
  | off, p :: ps =>
    (tokenizePiece v p).map (fun t => { t with off := off + t.off }) ++ tokenizePieces v (off + p.length) ps

/-! ### Detokenization and stop strings (R144 to R147) -/

/-- Bytes that a token contributes to a stream (R144). -/
def detokBytes (v : Vocab) (t : Nat) : Bytes :=
  if t ≥ v.size then utf8Encode 0xFFFD
  else if t = v.bosId ∨ t = v.eosId then []
  else v.string t

/-- Stop strings of a stop set (R164). -/
def stopStrings (t : Bytes) : List (List Nat) :=
  (List.range (fieldAt t 0 4)).map fun i =>
    let o := 8 + 260 * i
    (List.range (fieldAt t o 4)).map fun j => fieldAt t (o + 4 + 4 * j) 4

/-- Index and length of the stop string that the last character of `cs` completes: the one with the
earliest first character, then the lowest index (R146). -/
def stopHit (stops : List (List Nat)) (cs : List Nat) : Option (Nat × Nat) :=
  let hits := (stops.zipIdx.filter fun s => s.1.isSuffixOf cs && !s.1.isEmpty).map fun s => (s.2, s.1.length)
  hits.foldl (fun best h =>
    match best with
    | none => some h
    | some b => if h.2 > b.2 then some h else some b) none

/-- How many of the last characters of `cs` can still begin a match: the longest suffix that is a proper
prefix of a stop string (R147). -/
def heldCount (stops : List (List Nat)) (cs : List Nat) : Nat :=
  (((List.range (min cs.length 63)).map (· + 1)).reverse.find? fun k =>
    stops.any fun s => k < s.length && (cs.drop (cs.length - k)).isPrefixOf s).getD 0

/-! ### Grammar automata (R152 to R154, R396) -/

/-- A configuration: a state and a stack, top first. -/
structure GrammarConfig where
  state : Nat
  stack : List Nat
deriving DecidableEq, Repr

/-- Offset of a state entry. -/
def gramState (g : Array Byte) (q : Nat) : Nat := u32At g 0x24 + 32 * q
def gramWindow (g : Array Byte) (q : Nat) : Nat := (g.getD (gramState g q) 0).toNat
def gramAccepting (g : Array Byte) (q : Nat) : Bool := natBit (g.getD (gramState g q + 1) 0).toNat 0
def gramCost (g : Array Byte) (q : Nat) : Nat := u32At g (gramState g q + 4)
def gramV (g : Array Byte) : Nat := u32At g 0x10

/-- A transition (Table 5-12): byte, op, symbol, next state. -/
structure Transition where
  byte : Nat
  op : Nat
  symbol : Nat
  next : Nat
deriving DecidableEq, Repr

/-- The transitions of a state. -/
def gramTrans (g : Array Byte) (q : Nat) : List Transition :=
  let s := gramState g q
  (List.range (u32At g (s + 0xC))).map fun i =>
    let o := u32At g 0x28 + 8 * (u32At g (s + 8) + i)
    ⟨(g.getD o 0).toNat, (g.getD (o + 1) 0).toNat, u16At g (o + 2), u16At g (o + 4)⟩

/-- The initial configuration. -/
def gramInitial (g : Array Byte) : GrammarConfig := ⟨u16At g 0xE, []⟩

/-- Is a configuration accepting? -/
def GrammarConfig.accepting (g : Array Byte) (c : GrammarConfig) : Bool := gramAccepting g c.state && c.stack.isEmpty

/-- One byte: POP on the top symbol, else READ, else PUSH, else refused (R396); the stack never beyond 256. -/
def gramByte (g : Array Byte) (c : GrammarConfig) (b : Byte) : Option GrammarConfig :=
  let ts := (gramTrans g c.state).filter fun t => t.byte = b.toNat
  match ts.find? fun t => t.op = 2 && c.stack.head? = some t.symbol with
  | some t => some ⟨t.next, c.stack.drop 1⟩
  | none =>
    match ts.find? fun t => t.op = 0 with
    | some t => some ⟨t.next, c.stack⟩
    | none =>
      match ts.find? fun t => t.op = 1 with
      | some t => if c.stack.length < 256 then some ⟨t.next, t.symbol :: c.stack⟩ else none
      | none => none

/-- Walk a byte string. -/
def gramWalk (g : Array Byte) : GrammarConfig → Bytes → Option GrammarConfig
  | c, [] => some c
  | c, b :: t =>
    match gramByte g c b with
    | none => none
    | some c' => gramWalk g c' t

/-- The window contents of a configuration: four slots, 0xFFFF where there is no symbol (R396). -/
def gramWindowOf (g : Array Byte) (c : GrammarConfig) : List Nat :=
  let w := gramWindow g c.state
  (List.range 4).map fun i => if i < w then c.stack.getD i 0xFFFF else 0xFFFF

/-- The long-reach tokens of a state. -/
def gramLong (g : Array Byte) (q : Nat) : List Nat :=
  let s := gramState g q
  (List.range (u32At g (s + 0x1C))).map fun i => u32At g (u32At g 0x34 + 4 * (u32At g (s + 0x18) + i))

/-- The ranges of the window mask of a configuration, where the table lists its pair. -/
def gramRanges (g : Array Byte) (c : GrammarConfig) : List (Nat × Nat) :=
  let s := gramState g c.state
  let w := gramWindowOf g c
  let pairs := (List.range (u32At g (s + 0x14))).map fun i => u32At g 0x2C + 16 * (u32At g (s + 0x10) + i)
  match pairs.find? fun o => (List.range 4).map (fun k => u16At g (o + 2 * k)) = w with
  | none => []
  | some o =>
    (List.range (u32At g (o + 12))).map fun i =>
      let r := u32At g 0x30 + 8 * (u32At g (o + 8) + i)
      (u32At g r, u32At g (r + 4))

/-- Bytes by which a configuration advances over a token: a byte token is its byte. -/
def gramTokenBytes (v : Vocab) (t : Nat) : Bytes := v.string t

/-- Is token `t` allowed in a configuration (R154)? -/
def gramAllowed (g : Array Byte) (v : Vocab) (c : GrammarConfig) (t : Nat) : Bool :=
  if t = v.eosId then c.accepting g
  else if t = v.bosId then false
  else if (gramLong g c.state).contains t then (gramWalk g c (gramTokenBytes v t)).isSome
  else (gramRanges g c).any fun r => r.1 ≤ t && t ≤ r.2

/-- The configuration after a token that was accepted. A table whose masks its transitions do not imply may
allow a token that they refuse (R154); the spec states no configuration then (`Config.strayConfig`). -/
def gramAdvance (g : Array Byte) (v : Vocab) (c : GrammarConfig) (t : Nat) : GrammarConfig :=
  if t = v.eosId then c else
  match gramWalk g c (gramTokenBytes v t) with
  | some c' => c'
  | none =>
    let r := Config.strayConfig c.state c.stack t
    ⟨r.1, r.2⟩

/-- The bitmap of a mask: bit `t mod 8` of byte `t / 8` (R156). -/
def maskBitmap (g : Array Byte) (v : Vocab) (c : GrammarConfig) : Bytes :=
  (List.range (ceilDiv v.size 8)).map fun i =>
    BitVec.ofNat 8 ((List.range 8).foldl (fun n k =>
      let t := 8 * i + k
      if t < v.size && gramAllowed g v c t then n + 2 ^ k else n) 0)

/-- Number of allowed tokens. -/
def maskCount (g : Array Byte) (v : Vocab) (c : GrammarConfig) : Nat :=
  (List.range v.size).countP fun t => gramAllowed g v c t

/-- The mask message of R156: header, then bitmap. -/
def maskMessage (stream step : Nat) (late : Bool) (allowed : Nat) (bitmap : Bytes) : Bytes :=
  leBytes 2 stream ++ leBytes 2 late.toNat ++ leBytes 4 step ++ leBytes 2 0 ++ leBytes 2 0 ++ leBytes 4 allowed ++ bitmap

/-- The END message of R156. -/
def endMessage (stream step status : Nat) : Bytes :=
  leBytes 2 stream ++ leBytes 2 2 ++ leBytes 4 step ++ leBytes 2 status ++ leBytes 2 0 ++ leBytes 4 0

/-- Offset of a mask or END message within MASK_BUF (R156). -/
def maskOffset (step v : Nat) : Nat := step % 2 * roundUp (16 + ceilDiv v 8) 64

/-- The immediate of a mask or END message. -/
def maskImmediate (stream step : Nat) : Nat := stream * 65536 + step % 65536

/-- Stream end codes (Table 5-7). -/
def ST_TOK_STOP : Nat := 0x0040
def ST_TOK_EOS : Nat := 0x0041
def ST_TOK_CLOSED : Nat := 0x0042
def ST_TOK_LIMIT : Nat := 0x0043
def ST_TOK_GRAMMAR : Nat := 0x0044
def ST_TOK_STEP : Nat := 0x0045
def ST_TOK_STREAM : Nat := 0x0046
def ST_TOK_TOKEN : Nat := 0x0047

/-- A stream result record (Table 5-4) with its text, padded to a multiple of 8. -/
def resultRecord (jobId stream status tokens step stopOffset stopIndex : Nat) (text : Bytes) : Bytes :=
  leBytes 4 jobId ++ leBytes 2 stream ++ leBytes 2 status ++ leBytes 4 tokens ++ leBytes 4 step ++
    leBytes 4 stopOffset ++ leBytes 1 stopIndex ++ leBytes 3 0 ++ leBytes 4 text.length ++ leBytes 4 0 ++
    text ++ List.replicate (roundUp text.length 8 - text.length) 0

end Sys2Proof.Machine
end

