-- ==== Sys2Proof/Machine/Types.lean ====
section
/-! DEFINITION. The parts that State is made of, one group per unit of the device. -/

namespace Sys2Proof.Machine

/-! ### The part, the host port and the pins -/

/-- What is fixed for one device: order code (Table 0-1), fitted kennels and DRAM (R389). -/
structure Part where
  /-- GLB_DEVICE_ID.GRADE and TEMP: 0x50 for HL8-80, 0 for -C (R31). -/
  grade : Nat
  extended : Bool
  /-- Fitted kennels. -/
  kennels : Nat
  /-- Installed DRAM in bytes; 31/32 of it is addressable. -/
  dramInstalled : Nat
deriving DecidableEq, Repr

/-- A coalesced interrupt source: is its interval running, is an event held back? -/
structure Coalesce where
  running : Bool
  held : Bool
deriving DecidableEq, Repr

/-- A GSIG pin (R384): function code, owner (hedge 0 to 15, 0x1F management, 0xFF none), level, and for a
CAPTURE_TRIGGER the network time in nanoseconds of the last accepted edge. -/
structure Pin where
  function : Nat
  owner : Nat
  level : Bool
  /-- End of a PPS_OUT pulse, in ns of uptime. -/
  highUntil : Nat
  lastEdge : Option Nat
deriving DecidableEq, Repr

/-- A pin that nothing uses. -/
def Pin.free : Pin := ⟨0, 0xFF, false, 0, none⟩

/-- The host port and the board signals. -/
structure Board where
  pins : List Pin
  /-- THERMTRIP_N, POR_N and WARM_RST_N levels (R382). -/
  thermtrip : Bool
  por : Bool
  warm : Bool
  /-- The last SMBus answer; none is a NACK (R391). -/
  smbus : Option Bytes
  /-- The last answer to a configuration request: true for Request Retry Status (R382). -/
  cfgRetry : Option Bool
  /-- Times that each MSI-X vector was raised (R387). -/
  irq : Tab Nat
  /-- The last answer on the management port (R375). -/
  mgmt : Option Bytes
  coalesce : Tab Coalesce
deriving DecidableEq, Repr

/-! ### Claims and images -/

/-- An entry of the device claim table (R39). -/
structure Claimed where
  rtype : Nat
  index : Nat
  owner : Nat
deriving DecidableEq, Repr

/-- The load or unload in progress (R53). -/
structure LoadOp where
  op : Nat
  hedge : Nat
  /-- ENL_LOAD_LEN at GO. -/
  len : Nat
  bytes : Bytes
deriving DecidableEq, Repr

/-- An epoch timer that runs a program (R48). -/
structure TimerRun where
  program : TimerProgram
  pulseHigh : Bool
  /-- Network time of the next firing. -/
  nextNs : Nat
deriving DecidableEq, Repr

/-! ### Jobs, samples and queues -/

/-- A destination of a delivery map (Table 8-8). -/
structure DestEntry where
  node : Nat
  addr : Nat
  port : Nat
  sub : Nat
  tclass : Nat
deriving DecidableEq, Repr

/-- An address entry of a delivery map. -/
structure AddrEntry where
  mode : Nat
  dscp : Nat
  vlan : Nat
  mac : Bytes
  ip : Bytes
deriving DecidableEq, Repr

/-- A delivery map. -/
structure DeliveryMap where
  ranks : List (Nat × Nat)
  dests : List DestEntry
  addrs : List AddrEntry
  context : Nat
  keyId : Nat
  jobEpoch : Nat
  fleet : Bool
deriving DecidableEq, Repr

/-- What a sample is at an edge of the graph: nothing, where it has no output; stored bytes that CRYPT still has to
decrypt, with the plaintext of at-rest units (R101); bytes; a picture or frames that the decode engines emit (R104,
R108). -/
inductive Payload where
  | nothing
  | stored (cipher : Bytes) (plain : Option Bytes)
  | bytes (b : Bytes)
  | picture (p : Picture)
  | frames (fs : List VideoFrame)
deriving DecidableEq, Repr

/-- A sample waiting for, or in, a stage: the data of its input port (R83, R98). -/
structure Item where
  slot : Nat
  stage : Nat
  port : Nat
  /-- Member port of the container split that it descends from (R99). -/
  member : Nat
  epoch : Nat
  position : Nat
  sample : Nat
  payload : Payload
  flags : Nat
  /-- Pieces of the text that the item stands for, between lib.text_prep and TOKENIZE (R136). -/
  pieces : List Bytes
  /-- Frames of a steered sample that are emitted (R114), and its units that were concealed. -/
  frame : Nat
  concealed : Nat
  /-- Of a live capture: the access units since a random access point before this one, none for each that was dropped (R117). -/
  past : List (Option Bytes)
  /-- Output ports on which its stage has emitted it, and whether those are all that edges leave (R84, R179). -/
  emitted : List Nat
  done : Bool
  /-- The core that holds it, once dispatched, and its input handle. -/
  core : Option (Nat × Nat)
deriving DecidableEq, Repr

/-- Sticky facts of a sample while it is in a window (R118, R120, R179, R180, R205). -/
structure SampleFacts where
  flags : Nat
  exception : Nat
  input : Option Bytes
  /-- Stages that already wrote a damage record for it. -/
  damagedAt : List Nat
  /-- The stored bytes after CRYPT, before decompression (R97). -/
  raw : Option Bytes
  /-- The output that reached PACK's input, with its input port and member port (R179). -/
  output : Option Bytes
  outKey : Nat
  /-- Network time of the edge that a live frame began at (R117). -/
  stamp : Option Nat
  /-- The DIGEST stage that took its input digest (R215). -/
  inputAt : Option Nat
deriving DecidableEq, Repr

/-- A place of a reorder window: a position that is assigned and not yet released (R178, R179). -/
structure Place where
  epoch : Nat
  position : Nat
  sample : Nat
  facts : SampleFacts
  complete : Bool
  /-- Its last positions of the stream's epoch: the epoch ends with it. -/
  epochLast : Bool
deriving DecidableEq, Repr

/-- One destination of a rank: credits and the batch in delivery (R241 to R243). -/
structure Delivery where
  /-- Credits in arrival order: BUFFER, GENERATION, LENGTH (R241). -/
  credits : List (Nat × Nat × Nat)
  /-- The credit in use, and the ordinal of the batch in delivery or next to deliver. -/
  credit : Option (Nat × Nat × Nat)
  ordinal : Nat
  /-- Message ids of the batch not yet acknowledged, and whether the last message was sent. -/
  open_ : List Nat
  lastSent : Bool
  /-- Repeats after UNCONFIRMED, waiting for the retry timer, held under R336. -/
  repeats : Nat
  waiting : Bool
  held : Bool
  /-- The whole batch is to be sent again on its credit (R243, R336). -/
  again : Bool
deriving DecidableEq, Repr

/-- A delivery that has nothing in progress. -/
def Delivery.idle : Delivery := ⟨[], none, 0, [], false, 0, false, false, false⟩

/-- An entry of a prepared-batch queue (R193): the batch, its ordinal, the destinations still to be served,
and whether Heel compared it (R210). -/
structure QueueEntry where
  batch : Closed
  /-- The resume record of the batch after it (R332). -/
  after : Bytes
  ordinal : Nat
  refs : Nat
  compared : Bool
  at_ : Nat
deriving DecidableEq, Repr

/-- A prepared-batch queue. -/
structure Queue where
  job : Nat
  rank : Nat
  base : Nat
  entries : List QueueEntry
deriving DecidableEq, Repr

/-- The stream of one rank (R171, R178 to R192). -/
structure Stream where
  rank : Nat
  queue : Nat
  next : Option Cursor
  window : List Place
  /-- Deferred samples not yet complete, and those that are, in the order of completion (R184). -/
  deferred : List Place
  late : List Place
  /-- An epoch whose last position was released, while deferred samples of it are outstanding. -/
  ending : Option Nat
  packer : Packer
  /-- Ordinal of the next batch that the packer closes, and of the first that is not discarded (R339). -/
  ordinal : Nat
  floor : Nat
  /-- Ordinals below this one count as recomputed (R338), and the ordinal at which this device took the rank up. -/
  recompute : Nat
  base : Nat
  deliveries : List Delivery
  /-- A resume record's held document: its position, and tokens to skip (R332). -/
  skip : Option (Nat × Nat)
  /-- The resume record of the next batch to deliver (R332). -/
  resume : Bytes
  done : Bool
deriving DecidableEq, Repr

/-- A live-capture ring (R117): the frame of the last edge and that edge's network time, the bytes received since,
whether that frame is dropped, and the access units that wait for a position: frame, stamp, bytes. -/
structure LiveRing where
  frame : Nat
  stamp : Nat
  open_ : List Bytes
  dropping : Bool
  waiting : List (Nat × Nat × Bytes)
  /-- Access units that were taken since a random access point, none for each that was dropped; the frame after them. -/
  past : List (Option Bytes)
  taken : Nat
deriving DecidableEq, Repr

/-- A message that a grammar mask engine works on, and the mask that follows it (R155, R158): the step of the mask,
the step cost, when the message arrived, automaton and configuration, and where the mask goes. -/
structure MaskWork where
  step : Nat
  cost : Nat
  arrival : Nat
  grammar : Nat
  config : GrammarConfig
  maskBuf : Nat
  maskGen : Nat
  dest : Nat
deriving DecidableEq, Repr

/-- A generation stream (R145 to R151, R396). -/
structure GenStream where
  open_ : Bool
  config : GrammarConfig
  grammar : Nat
  stopSet : Nat
  options : Nat
  maxTokens : Nat
  maskBuf : Nat
  maskGen : Nat
  dest : Nat
  /-- Step of the next message to handle, and messages held for later steps: step, arrival, message. -/
  step : Nat
  held : List (Nat × Nat × Bytes)
  tokens : Nat
  /-- Did a token contribute bytes; UTF-8 bytes not yet complete, characters held back, and text produced. -/
  begun : Bool
  pendingUtf8 : Bytes
  /-- The token that supplied the last byte, as the count with it, and how many characters were its own by then (R144, R146). -/
  lastToken : Nat
  lastOwn : Nat
  chars : List Nat
  text : Bytes
deriving DecidableEq, Repr

/-- A stream identifier that was never used. -/
def GenStream.idle : GenStream := ⟨false, ⟨0, []⟩, 0, 0, 0, 0, 0, 0, 0, 0, [], 0, false, [], 0, 0, [], []⟩

/-- A line of a vocabulary cache (R140): the hedge and the digest of its image, the table, and the line of 64 bytes within it. -/
structure VocabLine where
  hedge : Nat
  image : Bytes
  table : Nat
  line : Nat
deriving DecidableEq, Repr

/-- An entry of a mask cache (R157): hedge and MASK stage, automaton, state and window contents, and the window mask in the smaller
of its two forms. -/
structure MaskEntry where
  hedge : Nat
  stage : Nat
  automaton : Nat
  state : Nat
  window : List Nat
  ranges : Bool
  mask : Bytes
deriving DecidableEq, Repr

/-- What the text path holds beside the streams: the vocabulary cache of each hub die and the mask caches, most recently
used first, and the messages that the grammar mask engines have not finished, in the order of their arrival: slot, stream
and work (R140, R157, R158). -/
structure TextUnits where
  vocab0 : List VocabLine
  vocab1 : List VocabLine
  masks : List MaskEntry
  work : List (Nat × Nat × MaskWork)
deriving DecidableEq, Repr

/-- Empty caches, and no message. -/
def TextUnits.reset : TextUnits := ⟨[], [], [], []⟩

/-- A job in a slot (R57). Its STATE and CODE are ENL_JOB_STATUS. -/
structure Job where
  desc : JobDesc
  manifest : Manifest
  map : DeliveryMap
  streams : List Stream
  /-- Index tables that were read and checked, by shard (R96). -/
  indexes : List (Nat × Bytes)
  /-- Model stages whose package is loaded, with the weights (R356). -/
  models : List (Nat × Bytes)
  gens : Tab GenStream
  live : Tab LiveRing
  /-- Region lists received: stage, position, frame, list (R114). -/
  regions : List (Nat × Nat × Nat × Bytes)
  /-- Records that wait at STORE stages (R322). -/
  store : List (Nat × Nat × Bytes)
  /-- Consecutive data-caused exceptions per stage (R86). -/
  faults : Tab Nat
  /-- The job was RUNNING: START was done, START waits for Heel or a roster. -/
  starting : Bool
  /-- DRAINING came about because EPOCHS were used up (R333). -/
  exhausted : Bool
deriving DecidableEq, Repr

/-! ### Cores and kennels -/

/-- A message on a channel (R81): a scalar, a wide register, or the token of a region. -/
inductive ChanMsg where
  | scalar (v : BitVec 64)
  | wide (v : BitVec 2048)
  | region (r : Nat)
deriving DecidableEq, Repr

/-- Why a core does not retire its next instruction (R79, R81, R83, R85). -/
inductive Blocked where
  | no
  | sin (d : Nat)
  | oalloc
  | send
  | recv
  | tag
deriving DecidableEq, Repr

/-- A GET or PUT under a tag (R79): the copy and its range in core memory. -/
structure TagOp where
  put : Bool
  local_ : Nat
  handle : Nat
  offset : Nat
  length : Nat
deriving DecidableEq, Repr

/-- One kennel core (R63, R64). -/
structure Core where
  s : Tab (BitVec 64)
  w : Tab (BitVec 2048)
  p : Tab (BitVec 256)
  pc : Nat
  flags : FpFlags
  budget : Nat
  imem : Memory
  dmem : Memory
  tags : Tab TagOp
  /-- Per outbound channel the messages in flight; per inbound channel those that arrived (R81). -/
  outq : Tab (List ChanMsg)
  inq : Tab (List ChanMsg)
  /-- The sample held between SIN and SDONE, and the output ports served. -/
  held : Option ItemRef
  served : List Nat
  blocked : Blocked
  halted : Bool
  /-- The exception that stopped it, until its group restarts (Table 3-8). -/
  exception : Nat
deriving DecidableEq, Repr

/-- What a kennel is bound to (R37): hedge, stage, group position within the stage, place in the group. -/
structure Binding where
  hedge : Nat
  stage : Nat
  group : Nat
  groupIdx : Nat
deriving DecidableEq, Repr

/-- State of a kennel-store region (Table 3-8 of R76): SHARED, FREE, or owned by a core. -/
inductive Region where
  | shared
  | owned (core : Nat)
  | inFlight
deriving DecidableEq, Repr

/-- A kennel. -/
structure Kennel where
  store : Memory
  regions : Tab Region
  /-- Single-bit memory errors that were corrected (R76). -/
  corrected : Nat
  bound : Option Binding
deriving DecidableEq, Repr

/-! ### Heel -/

/-- A digest that waits in a Heel session (R210, R211): KEY_A, EPOCH, KEY_B, digest, and LAST_POSITION of a
batch closed under STOP. -/
structure HeelDigest where
  keyA : Nat
  epoch : Nat
  keyB : Nat
  digest : Bytes
  stop : Option Nat
deriving DecidableEq, Repr

/-- A block of 64 positions at a stage (R211): per position that is done its flags and output, or none where the
stage did not handle it; and what the stage has emitted so far: position, the ports that order the pieces, flags, bytes. -/
structure HeelBlock where
  stage : Nat
  epoch : Nat
  first : Nat
  done : List (Nat × Option (Nat × Bytes))
  parts : List (Nat × Nat × Nat × Bytes)
deriving DecidableEq, Repr

/-- A mismatch (R215): of a stage block or a batch, with both digests. -/
structure Mismatch where
  stage : Bool
  keyA : Nat
  epoch : Nat
  keyB : Nat
  own : Bytes
  peer : Bytes
deriving DecidableEq, Repr

/-- A located divergence: what the HEEL_DIV_ registers show. -/
structure Divergence where
  kind : Nat
  stage : Nat
  position : Nat
  offset : Nat
  epoch : Nat
  batch : Nat
  rank : Nat
  own : Bytes
  peer : Bytes
deriving DecidableEq, Repr

/-- The locate procedure (R215) on the leader: mismatches still to locate, what was asked last with its argument,
the position found so far, and the divergences located. -/
structure Locate where
  todo : List Mismatch
  asked : Nat
  arg : Nat
  position : Nat
  found : List Divergence
deriving DecidableEq, Repr

/-- A Heel session. -/
structure HeelSession where
  setupSent : Option Bytes
  setupGot : Option Bytes
  ownBatch : List HeelDigest
  peerBatch : List HeelDigest
  ownStage : List HeelDigest
  peerStage : List HeelDigest
  blocks : List HeelBlock
  /-- Blocks whose digest was sent: stage, epoch, first position. -/
  closed : List (Nat × Nat × Nat)
  mismatches : List Mismatch
  locate : Option Locate
  /-- Pin link: SEQ of the next frame, SEQ expected, frames not acknowledged, the last frame put on the pin. -/
  nextSeq : Nat
  expected : Nat
  unacked : List (Nat × Bytes)
  wire : Bytes
  /-- Payload of a message of which further frames are still to come in sequence (R213). -/
  rx : Bytes
  /-- The job ended its EPOCHS, and digests of it may still wait (R210, R214). -/
  ended : Bool
  /-- Buffers kept while a block is uncompared: handle, the stage that was done with it, epoch, first position (R211). -/
  kept : List (Nat × Nat × Nat × Nat)
deriving DecidableEq, Repr

/-- A session that was never used. -/
def HeelSession.idle : HeelSession := ⟨none, none, [], [], [], [], [], [], [], none, 0, 0, [], [], [], false, []⟩

/-! ### Plyn -/

/-- The header of Table 8-2. -/
structure PltHeader where
  version : Nat
  opcode : Nat
  flags : Nat
  phase : Nat
  tclass : Nat
  context : Nat
  fragment : Nat
  count : Nat
  msgId : Nat
  source : Nat
  dest : Nat
  jobEpoch : Nat
  roleEpoch : Nat
  peerEpoch : Nat
  timestamp : Nat
  buffer : Nat
  generation : Nat
  offset : Nat
  length : Nat
  aux : Nat
deriving DecidableEq, Repr

/-- A buffer that a context exposes (Table 8-7). A return ring, a region buffer and a live-capture ring hold
their own bytes. -/
structure CtxBuffer where
  id : Nat
  kind : Nat
  access : Nat
  stage : Nat
  arg : Nat
  generation : Nat
  mem : Memory
deriving DecidableEq, Repr

/-- An entry of a replay filter (R230). -/
structure FilterEntry where
  key : MsgKey
  timestamp : Nat
  executed : List Nat
  /-- A refusal: code with AUX bit 8, and DETAIL. -/
  nak : Option (Nat × Nat)
  result : Option Bytes
deriving DecidableEq, Repr

/-- What a message of this device is for: what is told of its end. -/
inductive Purpose where
  | batch (slot rank dest ordinal : Nat)
  /-- A mask with the arrival time of its message in ns (R160), or an END message. -/
  | mask (slot stream arrival : Nat) (ended : Bool)
  | read (item : ItemRef)
  | fleet (kind : Nat)
  | heel (session : Nat)
deriving DecidableEq, Repr

/-- Where a message leaves the device: port, sub-port, class and address entry (R219, R246). -/
structure PltRoute where
  port : Nat
  sub : Nat
  tclass : Nat
  addr : Option AddrEntry
deriving DecidableEq, Repr

/-- A fragment of an outgoing message (R229, R239). -/
structure OutFrag where
  header : PltHeader
  payload : Bytes
  /-- The frame as first sent; retransmissions are bit-identical (R225). -/
  frame : Option Bytes
  acked : Bool
  resent : Bool
  sentNs : Nat
  timeoutUs : Nat
  /-- Consecutive NAK_RETRY_LATER answers for it (R239). -/
  laters : Nat
deriving DecidableEq, Repr

/-- An outgoing message (R229). -/
structure OutMsg where
  msgId : Nat
  purpose : Purpose
  route : PltRoute
  frags : List OutFrag
  bornNs : Option Nat
deriving DecidableEq, Repr

/-- The sender's side of one (context, DEST, JOB_EPOCH) (R225, R229). -/
structure Sender where
  dest : Nat
  jobEpoch : Nat
  msgs : List OutMsg
  /-- Holds under R239: message, fragment and length in µs. -/
  holds : List (Nat × Nat × Nat)
deriving DecidableEq, Repr

/-- A READ_REQ that waits for its answer (R234). -/
structure ReadWait where
  tag : Nat
  item : ItemRef
  length : Nat
  got : List (Nat × Bytes)
deriving DecidableEq, Repr

/-- A context record (R236, R237) with its filter, generations, phases and unacknowledged fragments. -/
structure Context where
  hedge : Nat
  keySource : Nat
  flags : Nat
  keyId : Nat
  filterLog2 : Nat
  tclass : Nat
  dramClaim : Nat
  onChip : Bool
  stamp : Nat
  fetching : Bool
  job : Option Nat
  jobEpoch : Nat
  buffers : List CtxBuffer
  filter : List FilterEntry
  /-- Per source and job epoch (source + 2^32 × epoch): current key phase, and the previous one while it is still
  accepted. -/
  phases : Tab (Nat × Option Nat)
  /-- Per source: executed fragments not yet acknowledged (message id, fragment). -/
  toAck : Tab (List (Nat × Nat))
  /-- Per source: the port and sub-port on which its last packet came. -/
  cameOn : Tab (Nat × Nat)
  /-- Messages whose immediate is not yet posted: partially executed WRITE_IMMs. -/
  partialImm : List MsgKey
  /-- Immediates posted to the owners of buffers, oldest first: BUFFER and immediate (R222). -/
  posted : List (Nat × Nat)
  senders : List Sender
  /-- Per destination: the smoothed round trip in ns, once there was a sample (R229). -/
  trips : Tab Nat
  /-- Messages given up, with the code that was reported to the function that issued them, oldest first (R229). -/
  reports : List (Purpose × Nat)
  reads : List ReadWait
deriving DecidableEq, Repr

/-- A frame in an egress queue: a fragment of a tracked message, or an answer. -/
structure TxFrame where
  header : PltHeader
  payload : Bytes
  tracked : Bool
  addr : Option AddrEntry
deriving DecidableEq, Repr

/-- A frame on the wire (R219, R220): the headers before what it carries, the Plyn part or the PTP message that it
carries, and its FCS. -/
structure WireFrame where
  head : Bytes
  bytes : Bytes
  fcs : Bytes
deriving DecidableEq, Repr

/-- A gate control list that runs on a port, or waits for its first cycle (R247). -/
structure GateRun where
  list : GateList
  /-- Its image is unloaded: the gates open at `endNs`. -/
  ending : Bool
  startNs : Nat
  endNs : Nat
deriving DecidableEq, Repr

/-- A port. Link, gates and occupancy shown to the host are in registers. -/
structure Port where
  gate : Option GateRun
  /-- Per sub-port and class (8 × sub + class): frames waiting, oldest first. -/
  txq : Tab (List TxFrame)
  /-- The frame last put on the wire of each sub-port. -/
  wire : Tab WireFrame
  /-- The miss queue (R238): sub-port and frame. -/
  missq : List (Nat × Bytes)
  /-- Per sub-port and class: tokens in 1/8000 of a byte, and when they were counted (R248). -/
  shapers : Tab (Nat × Nat)
  /-- Frames that arrived at a sub-port that a paused check-value unit stalls, oldest first (R269): sub-port, opcode of the
  row, frame. -/
  held : List (Nat × Nat × Bytes)
deriving DecidableEq, Repr

/-- A port that was never used. -/
def Port.idle : Port := ⟨none, Tab.empty, Tab.empty, [], Tab.empty, []⟩

/-- Kinds of PTP message (IEEE 1588-2019). -/
inductive PtpKind where
  | sync | delayReq | peerReq | peerResp | followUp | delayResp | peerFollowUp | announce
deriving DecidableEq, Repr

/-- A PTP message: its source port identity, the correction in 2^-16 ns, its timestamp in ns, the identity of the
requesting port, and for an Announce the dataset that it carries. -/
structure PtpMessage where
  kind : PtpKind
  source : Nat
  seq : Nat
  twoStep : Bool
  correction : Int
  time : Nat
  peer : Nat
  dataset : List Nat
deriving DecidableEq, Repr

/-- Role of a PTP port. -/
inductive PtpRole where
  | listening | master | slave | passive
deriving DecidableEq, Repr

/-- A sub-port's part of the PTP clock (R244). -/
structure PtpPort where
  role : PtpRole
  /-- The best Announce heard: its sender and its dataset. -/
  heard : Option (Nat × List Nat)
  /-- Sequence number of the next message of this port. -/
  seq : Nat
  /-- A two-step Sync that waits for its Follow_Up: sequence, arrival, correction. -/
  sync : Option (Nat × Nat × Int)
  /-- Arrival of the last Sync less its origin, in ns: the offset from the master with the path delay in it. -/
  behind : Option Int
  /-- The delay request in flight: sequence, and its departure once it left. -/
  asked : Option (Nat × Option Nat)
  /-- A two-step Pdelay_Resp that waits for its Follow_Up: receipt at the peer, arrival, correction. -/
  turn : Option (Nat × Nat × Int)
  /-- The path delay in ns. -/
  delay : Int
  /-- Messages that wait for the next frame boundary. -/
  queue : List PtpMessage
deriving DecidableEq, Repr

/-- A PTP port on which nothing happened. -/
def PtpPort.idle : PtpPort := ⟨.listening, none, 0, none, none, none, none, 0, []⟩

/-- Network time, its servo, and the PTP ports (8 × port + sub-port) that steer it (R244, R245). -/
structure NetTime where
  sec : Nat
  ns : Nat
  good : Nat
  ppsEdge : Option Nat
  ptp : Tab PtpPort
deriving DecidableEq, Repr

/-- Nanoseconds since the epoch of the counter. -/
def NetTime.total (t : NetTime) : Nat := t.sec * 1000000000 + t.ns

/-- The counter some nanoseconds later, seconds modulo 2^48. -/
def NetTime.advance (t : NetTime) (n : Nat) : NetTime :=
  { t with sec := (t.sec + (t.ns + n) / 1000000000) % 2 ^ 48, ns := (t.ns + n) % 1000000000 }

/-! ### Movers, pools and checks -/

/-- A DMA descriptor (Table 9-1). -/
structure DmaDesc where
  src : Nat
  dst : Nat
  srcStride : Int
  dstStride : Int
  srcLine : Nat
  srcLines : Nat
  dstLine : Nat
  dstLines : Nat
  next : Nat
  ctrl : Nat
  tag : Nat
deriving DecidableEq, Repr

/-- The descriptor in progress on a channel (R252 to R259). -/
structure DmaRun where
  at_ : Nat
  desc : DmaDesc
deriving DecidableEq, Repr

/-- A requester of a pool (R260). -/
structure Requester where
  stage : Nat
  priority : Nat
  quota : Nat
deriving DecidableEq, Repr

/-- A HELD buffer: its reference count and the stage it counts against (R261, R262). -/
structure HeldBuffer where
  count : Nat
  stage : Nat
deriving DecidableEq, Repr

/-- A loaded buffer pool. -/
structure Pool where
  hedge : Nat
  dram : Bool
  base : Nat
  bufSize : Nat
  buffers : Nat
  requesters : List Requester
  held : Tab HeldBuffer
  /-- Requests that wait, oldest first: the stage and, for OALLOC, the core and its destination register. -/
  waiting : List (Nat × Option (Nat × Nat))
deriving DecidableEq, Repr

/-- A check-value unit: the values that CHK_RUNNING and CHK_BYTES show when read. -/
structure ChkUnit where
  running : Word64
  bytes : Nat
  /-- Bytes of the running record that were fed before the stream that comes next (R269). -/
  into : Nat
deriving DecidableEq, Repr

/-- A unit after reset. -/
def ChkUnit.idle : ChkUnit := ⟨0, 0, 0⟩

/-- A Briar descriptor (Table 10-3). -/
structure BriDesc where
  op : Nat
  flags : Nat
  dictLog2 : Nat
  blockLog2 : Nat
  options : Nat
  inAddr : Nat
  inLen : Nat
  outCap : Nat
  outAddr : Nat
  stateAddr : Nat
  next : Nat
  tag : Nat
deriving DecidableEq, Repr

/-- The descriptor in progress on a Briar engine: what it consumed and produced. -/
structure BriRun where
  at_ : Nat
  desc : BriDesc
  consumed : Nat
  produced : Nat
  /-- The end found by a block: code and ERR_BIT; none while blocks remain. -/
  ended : Option (Nat × Nat)
  /-- CRC when the stream ended. -/
  crc : Nat
deriving DecidableEq, Repr

/-- A Briar engine. -/
structure BriEngine where
  stream : Option BriStream
  run : Option BriRun
deriving DecidableEq, Repr

/-! ### Block store -/

/-- A stored unit with its metadata (Table 11-3). -/
structure StoredUnit where
  data : Bytes
  pseq : Nat
  origin : Nat
  flags : Nat
  keyGen : Nat
  group : Nat
  groupCount : Nat
  block : Nat
  protection : Bytes
  /-- Fails read recovery until rewritten (R310). -/
  bad : Bool
deriving DecidableEq, Repr

/-- A unit as it lies on NAND (Table 11-3), mapped or superseded: its namespace and block address, 0 for a trim, format or
checkpoint record, and for a trim or format record the range that it names. -/
structure NandUnit where
  nsid : Nat
  lba : Nat
  names : Option (Nat × Nat × Nat)
  unit : StoredUnit
deriving DecidableEq, Repr

/-- A namespace. Its state, size and key slots are FTL_NS_ registers. -/
structure Namespace where
  sealed : Option Bytes
  units : Tab StoredUnit
deriving DecidableEq, Repr

/-- A data block (R315, R316): units programmed into it, the PSEQ of the last, its erasures, and whether
it is open, closed, waiting for erasure or bad. -/
inductive BlockState where
  | open_
  | closed
  | reclaimed
  | bad
deriving DecidableEq, Repr

/-- A block that has been used. -/
structure Block where
  state : BlockState
  programmed : Nat
  lastPseq : Nat
  erases : Nat
deriving DecidableEq, Repr

/-- A command that a TRS holds until it is COMPLETE (R300, R303), as GO captured it. -/
structure TrsCmd where
  opcode : Nat
  nsid : Nat
  lba : Nat
  count : Nat
  addr : Nat
  seq : Nat
  /-- Data of a WRITE, one entry a unit, once it has started. -/
  fetched : List Bytes
  group : Nat
  /-- Blocks and key generations that the units of a started read lay in (R315, R319). -/
  blocks : List Nat
  gens : List Nat
  /-- Units whose NAND read is done, and the first one that failed (R310). -/
  seen : List Nat
  failed : Option Nat
  /-- A WRITE that ends early: leading units that are programmed, and its code (R308, R311). -/
  cut : Option (Nat × Nat)
deriving DecidableEq, Repr

/-- The health counters of Table 11-5. -/
structure Health where
  uncorrectable : Nat
  programFails : Nat
  eraseFails : Nat
  badBlocks : Nat
  hostUnits : Nat
  nandUnits : Nat
  corrected : Tab Nat
  hours : Nat
  /-- The temperature history, newest hour first: maximum, mean and minimum of an hour that was recorded. -/
  temps : List (Option (Int × Int × Int))
  /-- Readings of the running hour, one a second, newest first, and the second of the last one. -/
  readings : List Int
  lastRead : Nat
deriving DecidableEq, Repr

/-- A checkpoint (R313): the PSEQ at which it was taken and the group counter then; the map, of which the segments that
changed are written again and the directory names the rest; the open blocks, and the next free blocks in the order in which
they will be allocated. -/
structure Checkpoint where
  pseq : Nat
  group : Nat
  map : Tab (Tab StoredUnit)
  /-- Segments of 1,024 entries that changed since the one before: namespace and segment. -/
  changed : List (Nat × Nat)
  openBlocks : List Nat
  freeBlocks : List Nat
deriving DecidableEq, Repr

/-- The block store. -/
structure Store where
  namespaces : Tab Namespace
  cmds : Tab TrsCmd
  nextPseq : Nat
  nextGroup : Nat
  blocks : Tab Block
  /-- Never-used blocks start here; erased blocks in the order of erasure. -/
  fresh : Nat
  freed : List Nat
  dataBlocks : Nat
  unitsPerBlock : Nat
  rated : Nat
  /-- Every unit on NAND, in the order of PSEQ, until its block is erased (R309). -/
  nand : List NandUnit
  /-- Units written since the last checkpoint, the checkpoint that is being written, and the complete ones in the ring,
  newest first. -/
  sinceCkpt : Nat
  taking : Option Checkpoint
  ckpts : List Checkpoint
  /-- Data blocks that may be allocated before the next checkpoint, in order, once there is one (R313). -/
  allowed : Option (List Nat)
  activating : Bool
  health : Health
  window : Bytes
  /-- SHARE of each running sweep, by NSID. -/
  sweeps : Tab Nat
deriving DecidableEq, Repr

/-! ### Fleet -/

/-- A roster entry (Table 12-2). -/
structure RosterEntry where
  node : Nat
  role : Nat
  flags : Nat
  buddy : Nat
  roleEpoch : Nat
  held : Nat
deriving DecidableEq, Repr

/-- A roster (R327). -/
structure Roster where
  rosterEpoch : Nat
  jobEpoch : Nat
  ranks : Nat
  entries : List RosterEntry
  owners : List Nat
deriving DecidableEq, Repr

/-- What the manager knows of a worker (R333). -/
structure WorkerView where
  joined : Bool
  packed : Nat
  sawRunning : Bool
  lastState : Nat
  notFull : Bool
  /-- PACKED stands still: the last two heartbeats gave the same count, each RUNNING with NOT_FULL 1. -/
  still : Bool
deriving DecidableEq, Repr

/-- A rank's move (R339). -/
structure RankMove where
  rank : Nat
  from_ : Nat
  to_ : Nat
  ordinal : Nat
  record : Bytes
  /-- The old holder dropped the rank, so that its arrival before H is durable. -/
  dropped : Bool
deriving DecidableEq, Repr

/-- The fleet function of the device. -/
structure Fleet where
  roster : Option Roster
  workers : Tab WorkerView
  /-- Last logged arrival of each worker: barrier and resume records (R331). -/
  arrivals : Tab (Nat × Bytes)
  /-- Arrivals at barriers not yet committed, in the order in which they were logged: barrier and worker. -/
  order : List (Nat × Nat)
  /-- Last arrivers of the last 64 committed barriers, newest first (R340). -/
  lasts : List Nat
  /-- Resume records mirrored for a worker: worker index, records by rank (R337). -/
  mirrors : List (Nat × Nat × Bytes)
  /-- Per held rank: the ordinal of the record whose MIRROR_ACK is awaited. -/
  mirrorWait : Tab Nat
  moves : List RankMove
  /-- Ranks of failed workers whose RECORDS the manager waits for: failed worker, rank, new holder, buddy (R338). -/
  fetching : List (Nat × Nat × Nat × Nat)
  /-- WARM spares: suspect and spare (R340). -/
  shadows : List (Nat × Nat)
  /-- Ranks that wait unheld, with the record to start from (R338). -/
  unheld : List (Nat × Bytes)
  acks : List Nat
  takeover : Option Nat
  /-- Setup digest sent with JOIN was refused (R328). -/
  refused : Bool
  /-- Ranks exempt from the lead rule up to a barrier: the first one reached after a replacement or a move (R331). -/
  exempt : List (Nat × Nat)
  /-- The barrier this worker arrived at, not yet durable. -/
  arriving : Option Nat
  /-- Receivers whose deliveries and fleet messages are held, and the messages: node, kind, barrier and body (R336). -/
  heldNodes : List Nat
  heldMsgs : List (Nat × Nat × Nat × Bytes)
  /-- Ranks that are packed from a suspect's records and not delivered (R340). -/
  shadowed : List Nat
deriving DecidableEq, Repr

/-- A fleet function that takes part in no fleet. -/
def Fleet.idle : Fleet :=
  ⟨none, Tab.empty, Tab.empty, [], [], [], Tab.empty, [], [], [], [], [], none, false, [], none, [], [], []⟩

/-! ### Security and Sheepdog -/

/-- A key of the key store (Table 13-1). -/
structure KeyEntry where
  owner : Nat
  usage : Nat
  secret : Bytes
deriving DecidableEq, Repr

/-- The security function. -/
structure Security where
  keys : Tab KeyEntry
  owners : Tab Bytes
  anchors : List Bytes
  /-- SHA-256 of the HEDGE section in force; empty for the reset partition. -/
  partitionDigest : Bytes
  tlsSessions : Nat
deriving DecidableEq, Repr

/-- What Sheepdog is doing (R372 to R374, R382). -/
inductive SheepMode where
  | starting
  | ready
  | fallback
  | failed
  | held
  | thermalOff
deriving DecidableEq, Repr

/-- A sensor's filter (R366): the last five raw samples, newest first, and the filtered value times 8^k
kept as an exact fraction over 2^24. -/
structure Sensor where
  raws : List Int
  value : Int
deriving DecidableEq, Repr

/-- A sensor that was never sampled. -/
def Sensor.idle : Sensor := ⟨[], 0⟩

/-- Sheepdog. -/
structure Sheepdog where
  mode : SheepMode
  /-- Firmware slots A and B, and the running one is SHD_BOOT.SLOT; the slot being staged is verified. -/
  slotA : Bytes
  slotB : Bytes
  staged : Bool
  /-- Reason and detail recorded for the last failed start; none while the start that runs has none. -/
  recorded : Option (Nat × Nat)
  /-- The last start failed: the next one boots the other slot (R373). -/
  otherSlot : Bool
  switching : Bool
  /-- NAND targets recorded at the last Ready, and those that the last scan found, as 16 × channel + target (R372). -/
  nandTargets : List Nat
  nandFound : List Nat
  planMax : Nat
  sites : Tab Sensor
  volts : Tab Sensor
  amps : Tab Sensor
  /-- Power samples of the open 100 ms window: sum in mW and count; the last complete mean. -/
  windowSum : Nat
  windowCount : Nat
  shownMw : Nat
  /-- Fine energy per job in µJ, and the coarsened counters sampled at the last 10 ms boundary (R361). -/
  energy : Tab Nat
  sampled : Tab Word64
deriving DecidableEq, Repr

end Sys2Proof.Machine
end

