-- ==== Sys2Proof/Machine/State.lean ====
section
/-! DEFINITION. The state of the HL8, its faults and refusals, and the state after reset. -/

namespace Sys2Proof.Machine

/-- The state of the device: every register, memory, queue and unit that the spec gives it, and the queue
of the commands that wait. -/
structure State where
  /-- Commands that wait, first in first out. -/
  pending : List Instr
  /-- Free values drawn so far (log entry 1). -/
  free : Nat
  /-- Data of the last host read that a row of the table makes (log entry 9). -/
  hostRead : Word64
  /-- BAR0 registers by offset; an unlisted one holds its reset value. -/
  regs : Tab Word64
  /-- Pending lower halves of 64-bit registers (R13). -/
  regPend : Tab (BitVec 32)
  part : Part
  board : Board
  /-- Retired engines: class and number (R123, R287). -/
  retired : List (Nat × Nat)
  /-- Stretch steps of the islands that stretch (R25). -/
  islands : Tab Nat
  /-- Channels reported as hung (R26). -/
  hung : List (Nat × Nat)
  /-- The dies whose faults took the device out of service, in the order of the faults (R29). -/
  outOfService : List Nat
  claims : List Claimed
  partition : Partition
  /-- The partition under which resources last served a hedge, and per range of pool SRAM (base, size) the hedge that it
  last served, newest first (R347). -/
  served : Partition
  sramServed : List (Nat × Nat × Nat)
  loadOp : Option LoadOp
  images : Tab Image
  timers : Tab TimerRun
  jobs : Tab Job
  items : List Item
  text : TextUnits
  queues : Tab Queue
  cores : Tab Core
  kennels : Tab Kennel
  /-- Groups that wait for GROUP_RESTART, and groups that wait for RESERVE_RELOAD_DONE: hedge, stage, group. -/
  restarting : List (Nat × Nat × Nat)
  reloading : List (Nat × Nat × Nat)
  heel : Tab HeelSession
  contexts : Tab Context
  /-- Per context, destination and job epoch: the key phase and the next message id (R225). -/
  msgIds : Tab (Nat × Nat)
  /-- Stamp of the last use of a context record. -/
  clock : Nat
  ports : Tab Port
  time : NetTime
  /-- Nanoseconds since power-on, which no servo steps. -/
  uptime : Nat
  dma : Tab DmaRun
  pools : Tab Pool
  chk : Tab ChkUnit
  bri : Tab BriEngine
  sram : Memory
  dram : Memory
  hostMem : Memory
  store : Store
  fleet : Fleet
  security : Security
  sheep : Sheepdog
deriving DecidableEq, Repr

/-- Faults of the model. -/
inductive Fault where
  /-- Raised by a command that names a kennel core or an engine that the part does not have (R2, R18; log entry 47):
  no such event can occur. Safe: the device has nothing there that could go on. -/
  | noSuchUnit
deriving DecidableEq, Repr

/-- Refusals of the model. -/
inductive Refusal where
  /-- Raised by an arm of exec whose meaning is not written. Safe: the model stops where the device goes on. -/
  | notModelled (mnemonic : String)
deriving DecidableEq, Repr

/-- The part that the model takes: HL8-80-C with 32 DRAM devices of 16 GiB (log entry 2). -/
def Part.hl8_80_c : Part := ⟨0x50, false, 1000, 32 * 16 * 2 ^ 30⟩

/-- A board after power-on: every pin NONE (R385), resets high (log entry 4). -/
def Board.reset : Board :=
  ⟨List.replicate 16 Pin.free, true, true, true, none, none, Tab.empty, none, Tab.empty⟩

/-- A new block store: no namespace, nothing written (log entry 6). -/
def Store.reset : Store where
  namespaces := Tab.empty
  cmds := Tab.empty
  nextPseq := 1
  nextGroup := 1
  blocks := Tab.empty
  fresh := 0
  freed := []
  dataBlocks := 0
  unitsPerBlock := 1
  rated := 1
  nand := []
  sinceCkpt := 0
  taking := none
  ckpts := []
  allowed := none
  activating := false
  health := ⟨0, 0, 0, 0, 0, 0, Tab.empty, 0, [], [], 0⟩
  window := []
  sweeps := Tab.empty

/-- A part whose security state was never set: no imported key, no owner key, no anchor (log entry 7). -/
def Security.reset : Security := ⟨Tab.empty, Tab.empty, [], [], 0⟩

/-- Sheepdog at power-on (log entry 8). -/
def Sheepdog.reset : Sheepdog where
  mode := .starting
  slotA := []
  slotB := []
  staged := false
  recorded := none
  otherSlot := false
  switching := false
  nandTargets := []
  nandFound := []
  planMax := 16
  sites := Tab.empty
  volts := Tab.empty
  amps := Tab.empty
  windowSum := 0
  windowCount := 0
  shownMw := 0
  energy := Tab.empty
  sampled := Tab.empty

/-- A core before its first program (R63, log entry 11). -/
def Core.reset : Core where
  s := Tab.empty
  w := Tab.empty
  p := Tab.empty
  pc := 0
  flags := FpFlags.none
  budget := 0
  imem := Tab.empty
  dmem := Tab.empty
  tags := Tab.empty
  outq := Tab.empty
  inq := Tab.empty
  held := none
  served := []
  blocked := .no
  halted := false
  exception := 0

/-- A kennel that is bound to nothing. -/
def Kennel.reset : Kennel := ⟨Tab.empty, Tab.empty, 0, none⟩

/-- Registers whose value at reset is the part's: a 1 for every enabled kennel (R31, log entry 3), the determinism class of the firmware
(log entry 5) and the boot stage. -/
def regsReset (p : Part) : Tab Word64 :=
  (List.range 32).foldl (fun t n =>
      Tab.set regDefault t (Reg.GLB_KENNEL_HEALTH n) (BitVec.ofNat 64 (2 ^ min 32 (p.kennels - 32 * n) - 1)))
    ((Tab.empty.insert Reg.SHD_BOOT 1).insert Reg.HEEL_DCLASS 1)

/-- The device as power-on leaves it: boot stage 1 begins, PD0 alone is on, nothing is loaded. -/
def State.reset : State where
  pending := []
  free := 0
  hostRead := 0
  regs := regsReset Part.hl8_80_c
  regPend := Tab.empty
  part := Part.hl8_80_c
  board := Board.reset
  retired := []
  islands := Tab.empty
  hung := []
  outOfService := []
  claims := []
  partition := Partition.reset
  served := Partition.reset
  sramServed := []
  loadOp := none
  images := Tab.empty
  timers := Tab.empty
  jobs := Tab.empty
  items := []
  text := TextUnits.reset
  queues := Tab.empty
  cores := Tab.empty
  kennels := Tab.empty
  restarting := []
  reloading := []
  heel := Tab.empty
  contexts := Tab.empty
  msgIds := Tab.empty
  clock := 0
  ports := Tab.empty
  time := ⟨0, 0, 0, none, Tab.empty⟩
  uptime := 0
  dma := Tab.empty
  pools := Tab.empty
  chk := Tab.empty
  bri := Tab.empty
  sram := Tab.empty
  dram := Tab.empty
  hostMem := Tab.empty
  store := Store.reset
  fleet := Fleet.idle
  security := Security.reset
  sheep := Sheepdog.reset

end Sys2Proof.Machine
end

