-- ==== Sys2Proof/Machine/Ops.lean ====
section
/-! DEFINITION. The named operations that the meanings share: registers, memories, interrupts, free values,
job state, and when a command reaches the device at all. -/

namespace Sys2Proof.Machine

/-! ### Registers -/

/-- The value that a register holds. -/
def State.reg (s : State) (off : Nat) : Word64 := Tab.get regDefault s.regs off

/-- Give a register a value. -/
def State.setReg (s : State) (off : Nat) (v : Word64) : State := { s with regs := Tab.set regDefault s.regs off v }

/-- A field of a word. -/
def getFld (f : Fld) (v : Word64) : Nat := natField v.toNat f.lo f.len

/-- A word with a field replaced. -/
def putFld (f : Fld) (v : Word64) (x : Nat) : Word64 :=
  let m := BitVec.ofNat 64 ((2 ^ f.len - 1) * 2 ^ f.lo)
  (v &&& ~~~m) ||| (BitVec.ofNat 64 (x % 2 ^ f.len * 2 ^ f.lo) &&& m)

/-- A field of a register. -/
def State.fld (s : State) (off : Nat) (f : Fld) : Nat := getFld f (s.reg off)

/-- A one-bit field of a register. -/
def State.bit (s : State) (off : Nat) (f : Fld) : Bool := s.fld off f = 1

/-- Give a field of a register a value. -/
def State.setFld (s : State) (off : Nat) (f : Fld) (x : Nat) : State := s.setReg off (putFld f (s.reg off) x)

/-- Give a one-bit field a value. -/
def State.setBit (s : State) (off : Nat) (f : Fld) (b : Bool) : State := s.setFld off f (if b then 1 else 0)

/-- Add to a counting field, which wraps. -/
def State.bump (s : State) (off : Nat) (f : Fld) (n : Nat := 1) : State := s.setFld off f (s.fld off f + n)

/-- Add to a counting field that saturates. -/
def State.bumpSat (s : State) (off : Nat) (f : Fld) (n : Nat := 1) : State :=
  s.setFld off f (min (s.fld off f + n) (2 ^ f.len - 1))

/-- A register takes its reset value. -/
def State.clearReg (s : State) (off : Nat) : State := { s with regs := s.regs.erase off }

/-- Every listed register of a range of offsets takes its reset value. -/
def State.clearRegs (s : State) (lo hi : Nat) : State := { s with regs := s.regs.keep fun k _ => !(lo ≤ k && k < hi) }

/-- Eight 32-bit registers show the 32 bytes of a digest, little-endian words. -/
def State.showWords (s : State) (reg : Nat → Nat) (d : Bytes) : State :=
  (List.range 8).foldl (fun t w => t.setReg (reg w) (BitVec.ofNat 64 (fieldAt d (4 * w) 4))) s

/-- The 32 bytes that eight 32-bit registers show. -/
def State.wordsOf (s : State) (reg : Nat → Nat) : Bytes := (List.range 8).flatMap fun w => leBytes 4 (s.reg (reg w)).toNat

/-- Extend a measurement register: M = SHA-256(M ‖ digest) (R359). -/
def State.measure (s : State) (i : Nat) (digest : Bytes) : State :=
  s.showWords (Reg.SEC_MEAS i) (sha256 (s.wordsOf (Reg.SEC_MEAS i) ++ digest))

/-! ### Free values -/

/-- A free value for a position of the counter (log entry 1). -/
def State.freeValue (s : State) : Nat := Config.freeBits s.free

/-- The counter moves on, so that the next free value is another one. -/
def State.drew (s : State) : State := { s with free := s.free + 1 }

/-! ### Memories -/

/-- The memory spaces of DMA (Table 9-1). -/
inductive Space where
  | dram
  | sram
  | host
deriving DecidableEq, Repr

/-- The memory of a space. -/
def State.mem (s : State) : Space → Memory
  | .dram => s.dram
  | .sram => s.sram
  | .host => s.hostMem

/-- The state with the memory of a space replaced. -/
def State.setMem (s : State) : Space → Memory → State
  | .dram, m => { s with dram := m }
  | .sram, m => { s with sram := m }
  | .host, m => { s with hostMem := m }

/-- Read bytes of a space. -/
def State.readMem (s : State) (sp : Space) (a n : Nat) : Bytes := (s.mem sp).read a n

/-- Write bytes of a space. -/
def State.writeMem (s : State) (sp : Space) (a : Nat) (bs : Bytes) : State := s.setMem sp ((s.mem sp).write a bs)

/-- Bytes that a space holds: addressable DRAM is 31/32 of the installed (R389), pool SRAM 20 MiB (R22), the
host bus has 64-bit addresses. -/
def State.spaceSize (s : State) : Space → Nat
  | .dram => s.part.dramInstalled / 32 * 31
  | .sram => 20 * 2 ^ 20
  | .host => 2 ^ 64

/-! ### Interrupts -/

/-- Raise an MSI-X vector (R387). -/
def State.raise (s : State) (v : Nat) : State :=
  { s with board := { s.board with irq := s.board.irq.insert v (((s.board.irq.find v).getD 0) + 1) } }

/-- Raise the vector of a coalesced source: at once when no interval runs, which starts one; otherwise the
event is held back (R48, R118, R195, R370). -/
def State.raiseCoalesced (s : State) (source v : Nat) : State :=
  match s.board.coalesce.find source with
  | some ⟨true, _⟩ => { s with board := { s.board with coalesce := s.board.coalesce.insert source ⟨true, true⟩ } }
  | _ =>
    let t := s.raise v
    { t with board := { t.board with coalesce := t.board.coalesce.insert source ⟨true, false⟩ } }

/-- Key of a coalesced source. -/
def coalesceKey : CoalesceSource → Nat
  | .damage => 0
  | .lowWater q => 0x1000 + q.val
  | .timers => 0x2000
  | .alarm => 0x2001

/-- Vector of a coalesced source (Table 15-5). -/
def coalesceVector : CoalesceSource → Nat
  | .damage => 3
  | .lowWater _ => 4
  | .timers => 12
  | .alarm => 10

/-! ### When a command reaches the device -/

/-- The hub dies, in the order of Table 1-1: K-die 0 to K-die 3, H-die 0, H-die 1. -/
def dieH0 : Nat := 4
def dieH1 : Nat := 5

/-- Is the device in service (R29)? -/
def State.live (s : State) : Bool := s.outOfService.isEmpty

/-- A meaning that acts on a device in service and does nothing on one that is not. -/
def act (f : State → State) (s : State) : Host.Outcome State Fault Refusal := .next (if s.live then f s else s)

/-- Is a power domain on (R365)? -/
def State.domainOn (s : State) (d : Nat) : Bool := natBit (s.fld Reg.PWR_DOMAINS Fld.PWR_DOMAINS_ON) d

/-- Does a host access to a BAR0 offset reach a register? The host port must be up and the device out of reset; in
fallback and after a failed start only the SHD block answers (R373). -/
def State.hostReaches (s : State) (off : Nat) : Bool :=
  s.live && s.domainOn 14 &&
    match s.sheep.mode with
    | .held | .thermalOff => false
    | .fallback | .failed => 0x100000 ≤ off && off < 0x200000
    | _ => true

/-- A meaning that a host access to an offset starts: nothing happens where the access reaches nothing. -/
def hostAct (off : Nat) (f : State → State) (s : State) : Host.Outcome State Fault Refusal :=
  .next (if s.hostReaches off then f s else s)

/-- Is a hedge confidential? -/
def State.confidential (s : State) (h : Nat) : Bool := s.partition.confidential h

/-- Is any hedge confidential (R350, R361)? -/
def State.anyConfidential (s : State) : Bool := s.partition.hedges.any (·.confidential)

/-! ### Claims -/

/-- The owner of a claimed resource. -/
def State.claimOwner (s : State) (rtype i : Nat) : Option Nat :=
  (s.claims.find? fun c => c.rtype = rtype && c.index = i).map (·.owner)

/-- Enter a claim. -/
def State.addClaim (s : State) (rtype i owner : Nat) : State := { s with claims := s.claims ++ [⟨rtype, i, owner⟩] }

/-- Release the claims of an owner on a resource. -/
def State.dropClaim (s : State) (rtype i owner : Nat) : State :=
  { s with claims := s.claims.filter fun c => !(c.rtype = rtype && c.index = i && c.owner = owner) }

/-- Owner value of the host and of management (R39). -/
def ownerManagement : Nat := 0x1F

/-! ### Jobs -/

/-- Job states (R58). -/
def jobEmpty : Nat := 0
def jobReady : Nat := 1
def jobRunning : Nat := 2
def jobDraining : Nat := 3
def jobStopped : Nat := 4
def jobHalted : Nat := 5

/-- STATE of a job slot. -/
def State.jobState (s : State) (n : Nat) : Nat := s.fld (Reg.ENL_JOB_STATUS n) Fld.ENL_JOB_STATUS_STATE

/-- Set STATE and CODE of a job slot; a change of state raises vector 2. -/
def State.setJobState (s : State) (n st code : Nat) : State :=
  let t := (s.setFld (Reg.ENL_JOB_STATUS n) Fld.ENL_JOB_STATUS_STATE st).setFld (Reg.ENL_JOB_STATUS n)
    Fld.ENL_JOB_STATUS_CODE code
  if s.jobState n = st then t else t.raise 2

/-- Set CODE of a job slot. -/
def State.setJobCode (s : State) (n code : Nat) : State :=
  s.setFld (Reg.ENL_JOB_STATUS n) Fld.ENL_JOB_STATUS_CODE code

/-- Is a job RUNNING or DRAINING? -/
def State.jobActive (s : State) (n : Nat) : Bool := s.jobState n = jobRunning || s.jobState n = jobDraining

/-- A RUNNING or DRAINING job halts with a code (R60). -/
def State.haltJob (s : State) (n code : Nat) : State :=
  if s.jobActive n || s.jobState n = jobReady then s.setJobState n jobHalted code else s

/-- Change the job of a slot. -/
def State.adjustJob (s : State) (n : Nat) (f : Job → Job) : State := { s with jobs := s.jobs.adjust n f }

/-- The image that the job of a slot runs. -/
def State.jobImage (s : State) (n : Nat) : Option Image := (s.jobs.find n).bind fun j => s.images.find j.desc.hedge

/-- Change one stream of a job. -/
def Job.adjustStream (j : Job) (rank : Nat) (f : Stream → Stream) : Job :=
  { j with streams := j.streams.map fun st => if st.rank = rank then f st else st }

/-- The stream of a rank. -/
def Job.stream (j : Job) (rank : Nat) : Option Stream := j.streams.find? fun st => st.rank = rank

/-! ### Units of the device with a state at rest -/

/-- A core. -/
def State.core (s : State) (c : Nat) : Core := (s.cores.find c).getD Core.reset

/-- Change a core. -/
def State.setCore (s : State) (c : Nat) (x : Core) : State := { s with cores := s.cores.insert c x }

/-- A scalar register of a core; s0 reads as zero (R64). -/
def Core.getS (c : Core) (r : Nat) : BitVec 64 := if r = 0 then 0 else Tab.get (fun _ => 0) c.s r

/-- Write a scalar register; a write of s0 is discarded (R64). -/
def Core.setS (c : Core) (r : Nat) (v : BitVec 64) : Core :=
  if r = 0 then c else { c with s := Tab.set (fun _ => 0) c.s r v }

/-- An instruction retires and the next one in sequence follows: the pc moves on by 8 within the 4 KiB of
instruction memory, and one instruction of the budget is used (R70, R87). -/
def Core.retire (c : Core) : Core := { c with pc := (c.pc + 8) % 4096, budget := c.budget - 1, blocked := .no }

/-- A kennel. -/
def State.kennel (s : State) (k : Nat) : Kennel := (s.kennels.find k).getD Kennel.reset

/-- Change a kennel. -/
def State.setKennel (s : State) (k : Nat) (x : Kennel) : State := { s with kennels := s.kennels.insert k x }

/-- A port. -/
def State.port (s : State) (p : Nat) : Port := (s.ports.find p).getD Port.idle

/-- Change a port. -/
def State.setPort (s : State) (p : Nat) (x : Port) : State := { s with ports := s.ports.insert p x }

/-- A check-value unit. -/
def State.chkUnit (s : State) (u : Nat) : ChkUnit := (s.chk.find u).getD ChkUnit.idle

/-- Change a check-value unit. -/
def State.setChk (s : State) (u : Nat) (x : ChkUnit) : State := { s with chk := s.chk.insert u x }

/-- A Briar engine. -/
def State.briEngine (s : State) (e : Nat) : BriEngine := (s.bri.find e).getD ⟨none, none⟩

/-- Change a Briar engine. -/
def State.setBri (s : State) (e : Nat) (x : BriEngine) : State := { s with bri := s.bri.insert e x }

/-- A Heel session. -/
def State.heelSession (s : State) (k : Nat) : HeelSession := (s.heel.find k).getD HeelSession.idle

/-- Change a Heel session. -/
def State.setHeel (s : State) (k : Nat) (x : HeelSession) : State := { s with heel := s.heel.insert k x }

/-- A namespace, where it exists. -/
def State.nsPresent (s : State) (n : Nat) : Bool :=
  1 ≤ n && n ≤ 64 && s.bit (Reg.FTL_NS_STATE n) Fld.FTL_NS_STATE_PRESENT

/-- Contents of a namespace. -/
def State.ns (s : State) (n : Nat) : Namespace := (s.store.namespaces.find n).getD ⟨none, Tab.empty⟩

/-- Network time in microseconds. -/
def State.nowUs (s : State) : Nat := s.time.total / 1000

/-- Is kennel `k` enabled (R2) and healthy (R19)? -/
def State.kennelOk (s : State) (k : Nat) : Bool :=
  k < s.part.kennels && natBit (s.reg (Reg.GLB_KENNEL_HEALTH (k / 32))).toNat (k % 32)

/-- The device identity: SHA-256 of the DIK public key (R353). -/
def deviceIdentity : Bytes := sha256 (publicKey Config.deviceScalar)

/-- Is a secret usable by a hedge for a purpose (R353)? -/
def State.mayUseKey (s : State) (hedge keyId usageBit : Nat) : Bool :=
  match s.security.keys.find keyId with
  | some k => keyId < 0x10000 && k.owner = hedge && natBit k.usage usageBit
  | none => false

/-- The secret of a key. -/
def State.secret (s : State) (keyId : Nat) : Bytes := ((s.security.keys.find keyId).map (·.secret)).getD []

end Sys2Proof.Machine
end

