-- ==== Sys2Proof/Machine/Checks.lean ====
section
/-! DEFINITION. The check-value units (R266 to R269, R273). -/

namespace Sys2Proof.Machine

/-- Codes of Table 9-6. -/
def ST_CHK_CONFIG : Nat := 0x008B

/-- A unit's configuration in force (CHK_CFG). -/
structure ChkConfig where
  poly : Poly
  mode : Nat
  kind : Nat
  outbound : Bool
  index : Nat
  recordLog2 : Nat
deriving DecidableEq, Repr

/-- The configuration that CHK_CFG holds. -/
def State.chkConfig (s : State) (u : Nat) : ChkConfig :=
  let v := s.reg (Reg.CHK_CFG u)
  { poly := Poly.ofCode (getFld Fld.CHK_CFG_POLY v)
    mode := getFld Fld.CHK_CFG_MODE v
    kind := getFld Fld.CHK_CFG_KIND v
    outbound := getFld Fld.CHK_CFG_DIR v = 1
    index := getFld Fld.CHK_CFG_INDEX v
    recordLog2 := getFld Fld.CHK_CFG_RECORD_LOG2 v }

/-- Modes of Table R267. -/
def chkRead : Nat := 0
def chkAppend : Nat := 1
def chkStrip : Nat := 2

/-- Does a configuration keep the rules of R267? -/
def ChkConfig.ok (c : ChkConfig) : Bool :=
  c.mode ≤ 2 && c.kind ≤ 2 &&
  (c.mode ≠ chkAppend || c.outbound) && (c.mode ≠ chkStrip || !c.outbound) &&
  (if c.recordLog2 = 0 then c.mode = chkRead else 9 ≤ c.recordLog2 && c.recordLog2 ≤ 16) &&
  (if c.kind = 0 then c.index < 48 && (c.recordLog2 = 0 || c.recordLog2 = 9 || c.recordLog2 = 12)
   else if c.kind = 1 then c.index < 20 else c.index < 64)

/-- Bytes of the check value. -/
def ChkConfig.width (c : ChkConfig) : Nat := c.poly.width / 8

/-- Record length. -/
def ChkConfig.record (c : ChkConfig) : Nat := 2 ^ c.recordLog2

/-- Is a unit snooping? -/
def State.chkOn (s : State) (u : Nat) : Bool := s.bit (Reg.CHK_CTRL u) Fld.CHK_CTRL_ENABLE

/-- Is a unit PAUSED, so that its source is stalled? -/
def State.chkPaused (s : State) (u : Nat) : Bool := s.bit (Reg.CHK_CTRL u) Fld.CHK_CTRL_PAUSED

/-- The units that snoop a source: KIND, INDEX, direction, and the NSID or context of the stream (CHK_FILTER). -/
def State.chkUnitsOn (s : State) (kind index : Nat) (outbound : Bool) (stream : Nat) : List Nat :=
  (List.range 16).filter fun u =>
    let c := s.chkConfig u
    s.chkOn u && c.kind = kind && c.index = index && c.outbound = outbound &&
      (!s.bit (Reg.CHK_FILTER u) Fld.CHK_FILTER_EN || s.fld (Reg.CHK_FILTER u) Fld.CHK_FILTER_MATCH = stream)

/-- Feed data bytes to the running value (R266). -/
def State.chkFeed (s : State) (u : Nat) (data : Bytes) : State :=
  let x := s.chkUnit u
  s.setChk u { running := (s.chkConfig u).poly.feedAll x.running data, bytes := x.bytes + data.length, into := x.into + data.length }

/-- A record ends: CHK_RESULT takes the finished value and the running value starts anew; in continuous mode
CHK_RESULT shows the current finished value and the running value goes on (R267). -/
def State.chkEndRecord (s : State) (u : Nat) : State :=
  let c := s.chkConfig u
  let x := s.chkUnit u
  let t := s.setReg (Reg.CHK_RESULT u) (c.poly.finish x.running)
  t.setChk u { x with running := if c.recordLog2 = 0 then x.running else c.poly.initial, into := 0 }

/-- A STRIP mismatch at a stream offset (R268). -/
def State.chkMismatch (s : State) (u at_ : Nat) : State :=
  let t := s.bumpSat (Reg.CHK_MISMATCH u) Fld.CHK_MISMATCH_COUNT
  let t := if s.reg (Reg.CHK_MISMATCH_AT u) = 0xFFFF_FFFF_FFFF_FFFF then t.setReg (Reg.CHK_MISMATCH_AT u) (BitVec.ofNat 64 at_) else t
  t.raise 7

/-- One record of the snooped stream: its data and, in STRIP mode, the value that followed it. Answers the
state, the value to insert in APPEND mode, and whether the values agree (R267, R268). -/
def State.chkRecord (s : State) (u : Nat) (data trailer : Bytes) : State × Bytes × Bool :=
  let c := s.chkConfig u
  let at_ := (s.chkUnit u).bytes - (s.chkUnit u).into
  let t := (s.chkFeed u data).chkEndRecord u
  let value := c.poly.appended (t.reg (Reg.CHK_RESULT u))
  if c.mode = chkStrip then
    if value = trailer then (t, [], true) else (t.chkMismatch u at_, [], false)
  else if c.mode = chkAppend then (t, value, true)
  else (t, [], true)

/-- Split a stream into the records of a unit, of `extra` more bytes each, the first of them the rest of the record that is
running. -/
def ChkConfig.recordsOf (c : ChkConfig) (into extra : Nat) (data : Bytes) : List Bytes :=
  let first := c.record - into + extra
  if c.recordLog2 = 0 then [data]
  else if data.isEmpty then []
  else data.take first :: chunksOf (c.record + extra) data.length (data.drop first)

/-- Feed records in order: the stream that leaves the unit, and whether every STRIP value agreed. -/
def chkRecords (u : Nat) : List (Bytes × Bytes) → State → State × Bytes × Bool
  | [], s => (s, [], true)
  | (data, trailer) :: t, s =>
    let (s1, value, ok) := s.chkRecord u data trailer
    let (s2, rest, ok2) := chkRecords u t s1
    (s2, data ++ value ++ rest, ok && ok2)

/-- Run a stream of a source through a unit. Of a stream that stops partway a record that is cut short does not end: its data
bytes are fed, and the unit stands within it. -/
def State.chkStream (s : State) (u : Nat) (data : Bytes) (whole : Bool) : State × Bytes × Bool :=
  let c := s.chkConfig u
  let into := (s.chkUnit u).into
  let extra := if c.mode = chkStrip then c.width else 0
  let pieces := c.recordsOf into extra data
  let full := fun (e : Bytes × Nat) => whole || e.1.length = c.record - (if e.2 = 0 then into else 0) + extra
  let ended := (pieces.zipIdx.filter full).map fun e => (e.1.take (e.1.length - extra), e.1.drop (e.1.length - extra))
  let r := chkRecords u ended s
  match pieces.zipIdx.find? fun e => !full e with
  | none => r
  | some e =>
    let p := e.1.take (c.record - (if e.2 = 0 then into else 0))
    (r.1.chkFeed u p, r.2.1 ++ p, r.2.2)

/-- Length of a stream after a STRIP unit took its values out. -/
def ChkConfig.stripped (c : ChkConfig) (len : Nat) : Nat := len - c.width * ceilDiv len (c.record + c.width)

/-- Length of a stream after an APPEND unit put its values in. -/
def ChkConfig.appended (c : ChkConfig) (len : Nat) : Nat := len + c.width * ceilDiv len c.record

/-- Does an image claim the unit (RTYPE 0x0B)? -/
def State.chkClaimed (s : State) (u : Nat) : Bool :=
  match s.claimOwner 0x0B u with
  | some o => o ≠ ownerManagement
  | none => false

/-- Does the host hold the unit? -/
def State.chkHeld (s : State) (u : Nat) : Bool := s.bit (Reg.CHK_CTRL u) Fld.CHK_CTRL_HOLD

/-- ENABLE = 1 (R267): a configuration outside the rules leaves the unit disabled. -/
def State.chkEnable (s : State) (u : Nat) : State :=
  if s.chkHeld u then
    if (s.chkConfig u).ok then
      let t := (s.setBit (Reg.CHK_CTRL u) Fld.CHK_CTRL_ENABLE true).setFld (Reg.CHK_CTRL u) Fld.CHK_CTRL_CODE 0
      (t.setChk u ⟨(s.chkConfig u).poly.initial, 0, 0⟩).setReg (Reg.CHK_MISMATCH_AT u) 0xFFFF_FFFF_FFFF_FFFF
    else (s.setBit (Reg.CHK_CTRL u) Fld.CHK_CTRL_ENABLE false).setFld (Reg.CHK_CTRL u) Fld.CHK_CTRL_CODE ST_CHK_CONFIG
  else s

/-- ENABLE = 0 stops the unit. -/
def State.chkDisable (s : State) (u : Nat) : State :=
  if s.chkHeld u then
    ((s.setBit (Reg.CHK_CTRL u) Fld.CHK_CTRL_ENABLE false).setBit (Reg.CHK_CTRL u) Fld.CHK_CTRL_PAUSE false).setBit
      (Reg.CHK_CTRL u) Fld.CHK_CTRL_PAUSED false
  else s

/-- CHK_ENABLE (R267). -/
def execChkEnable (unit : Fin 16) (s : State) : Host.Outcome State Fault Refusal :=
  hostAct (Reg.CHK_CTRL unit) (fun s => s.chkEnable unit) s

/-- PAUSE = 1 asks for a stall. -/
def State.chkPause (s : State) (u : Nat) : State :=
  if s.chkHeld u && s.chkOn u then s.setBit (Reg.CHK_CTRL u) Fld.CHK_CTRL_PAUSE true else s

/-- PAUSE = 0 resumes from the values written. -/
def State.chkResume (s : State) (u : Nat) : State :=
  if s.chkHeld u then
    (s.setBit (Reg.CHK_CTRL u) Fld.CHK_CTRL_PAUSE false).setBit (Reg.CHK_CTRL u) Fld.CHK_CTRL_PAUSED false
  else s

/-- CHK_PAUSE (R269). -/
def execChkPause (unit : Fin 16) (s : State) : Host.Outcome State Fault Refusal :=
  hostAct (Reg.CHK_CTRL unit) (fun s => s.chkPause unit) s

/-- CHK_PAUSED (R269): the source reaches the boundary and stalls. -/
def execChkPaused (unit : Fin 16) (s : State) : Host.Outcome State Fault Refusal :=
  act (fun s =>
    if s.chkOn unit && s.bit (Reg.CHK_CTRL unit) Fld.CHK_CTRL_PAUSE then
      s.setBit (Reg.CHK_CTRL unit) Fld.CHK_CTRL_PAUSED true
    else s) s

/-- HOLD = 1 under the rules of R251; ignored for a unit that an image claims (R269). -/
def State.chkHold (s : State) (u : Nat) : State :=
  if s.chkHeld u || (s.claimOwner 0x0B u).isSome then s
  else (s.setBit (Reg.CHK_CTRL u) Fld.CHK_CTRL_HOLD true).addClaim 0x0B u ownerManagement

/-- HOLD = 0: the unit stops and is free. -/
def State.chkRelease (s : State) (u : Nat) : State :=
  if s.chkHeld u then ((s.chkDisable u).setBit (Reg.CHK_CTRL u) Fld.CHK_CTRL_HOLD false).dropClaim 0x0B u ownerManagement
  else s

/-- CHK_HOLD (R269). -/
def execChkHold (unit : Fin 16) (s : State) : Host.Outcome State Fault Refusal :=
  hostAct (Reg.CHK_CTRL unit) (fun s => s.chkHold unit) s

/-- Bits of CHK_CFG and CHK_FILTER that hold fields. -/
def chkCfgMask : Word64 := 0x001F_3F7F
def chkFilterMask : Word64 := 0x0001_FFFF

/-- A write of CHK_CFG or CHK_FILTER, ignored for a unit that an image claims (R269). -/
def State.chkConfigWrite (s : State) (u : Nat) (filter : Bool) (v : Word64) : State :=
  if s.chkClaimed u then s
  else if filter then s.setReg (Reg.CHK_FILTER u) (v &&& chkFilterMask)
  else s.setReg (Reg.CHK_CFG u) (v &&& chkCfgMask)

/-- CHK_CONFIG_WRITE (R269). -/
def execChkConfigWrite (unit : Fin 16) (filter : Bool) (value : Word64) (s : State) : Host.Outcome State Fault Refusal :=
  hostAct (Reg.CHK_CFG unit) (fun s => s.chkConfigWrite unit filter value) s

/-- A write of CHK_RUNNING or CHK_BYTES, effective while the unit is PAUSED or disabled; CHK_BYTES gives the position within
the running record (R269). -/
def State.chkStateWrite (s : State) (u : Nat) (bytes : Bool) (v : Word64) : State :=
  if s.chkOn u && !s.chkPaused u then s
  else if bytes then
    (s.setChk u { s.chkUnit u with bytes := v.toNat, into := v.toNat % (s.chkConfig u).record }).setReg (Reg.CHK_BYTES u) v
  else (s.setChk u { s.chkUnit u with running := v }).setReg (Reg.CHK_RUNNING u) v

/-- CHK_STATE_WRITE (R269). -/
def execChkStateWrite (unit : Fin 16) (bytes : Bool) (value : Word64) (s : State) : Host.Outcome State Fault Refusal :=
  hostAct (Reg.CHK_RUNNING unit) (fun s => s.chkStateWrite unit bytes value) s

/-- A read of CHK_RUNNING latches CHK_BYTES, so that the two form one pair (R269). -/
def State.chkRunningRead (s : State) (u : Nat) : State :=
  let x := s.chkUnit u
  { ((s.setReg (Reg.CHK_RUNNING u) x.running).setReg (Reg.CHK_BYTES u) (BitVec.ofNat 64 x.bytes)) with hostRead := x.running }

/-- CHK_RUNNING_READ (R269). -/
def execChkRunningRead (unit : Fin 16) (s : State) : Host.Outcome State Fault Refusal :=
  hostAct (Reg.CHK_RUNNING unit) (fun s => s.chkRunningRead unit) s

/-- CHK_RECORD (R267, R268): a record of the snooped stream ends. A stalled source sends nothing. -/
def execChkRecord (unit : Fin 16) (data trailer : Bytes) (s : State) : Host.Outcome State Fault Refusal :=
  act (fun s => if s.chkOn unit && !s.chkPaused unit then (s.chkRecord unit data trailer).1 else s) s

end Sys2Proof.Machine
end

