-- ==== Sys2Proof/Machine/Movers.lean ====
section
/-! DEFINITION. The DMA channels (R251 to R259, R271). -/

namespace Sys2Proof.Machine

/-- Codes of Table 9-6. -/
def ST_DMA_ABORTED : Nat := 0x0080
def ST_DMA_DESC : Nat := 0x0081
def ST_DMA_ADDR : Nat := 0x0082
def ST_DMA_OVERLAP : Nat := 0x0083
def ST_DMA_BUS : Nat := 0x0084
def ST_DMA_ECC : Nat := 0x0085
def ST_DMA_NOT_HELD : Nat := 0x0086
def ST_DMA_CHECK : Nat := 0x0087

/-- States of a channel or a Briar engine. -/
def chIdle : Nat := 0
def chBusy : Nat := 1
def chAborting : Nat := 2
def chRetired : Nat := 3

/-- A descriptor from its 64 bytes (Table 9-1). -/
def dmaDescOf (b : Bytes) : DmaDesc where
  src := fieldAt b 0 8
  dst := fieldAt b 8 8
  srcStride := signedOf 64 (fieldAt b 0x10 8)
  dstStride := signedOf 64 (fieldAt b 0x18 8)
  srcLine := fieldAt b 0x20 4
  srcLines := fieldAt b 0x24 4
  dstLine := fieldAt b 0x28 4
  dstLines := fieldAt b 0x2C 4
  next := fieldAt b 0x30 8
  ctrl := fieldAt b 0x38 4
  tag := fieldAt b 0x3C 4

/-- Space of a code of CTRL; 0b11 is reserved. -/
def spaceOf : Nat → Space
  | 0 => .dram
  | 1 => .sram
  | _ => .host

/-- Source and destination space codes, IRQ and LAST of a descriptor. -/
def DmaDesc.srcCode (d : DmaDesc) : Nat := d.ctrl % 4
def DmaDesc.dstCode (d : DmaDesc) : Nat := d.ctrl / 4 % 4
def DmaDesc.irq (d : DmaDesc) : Bool := natBit d.ctrl 4
def DmaDesc.last (d : DmaDesc) : Bool := natBit d.ctrl 5

/-- Stream length T (R253). -/
def DmaDesc.total (d : DmaDesc) : Nat := d.srcLine * d.srcLines

/-- Start of line `i` of a side (R254). -/
def lineAt (base : Nat) (stride : Int) (i : Nat) : Int := (base : Int) + (i : Int) * stride

/-- Lowest byte of a side, and the byte after the highest (R253). -/
def spanOf (base : Nat) (stride : Int) (line lines : Nat) : Int × Int :=
  let last := lineAt base stride (lines - 1)
  (min (base : Int) last, max (base : Int) last + line)

/-- Ranges of a space that a confidential hedge owns: DRAM ranges and pools (R253, R351). -/
def State.withheldRanges (s : State) : Space → List (Nat × Nat)
  | .host => []
  | sp =>
    let ranges := if sp = .dram then
      (s.partition.hedges.filter (·.confidential)).flatMap fun e => e.dram.map fun r => (r.1 * 2 ^ 20, r.2 * 2 ^ 20)
      else []
    let pools := (s.pools.vals.filter fun p => s.confidential p.hedge && (p.dram = (sp = .dram))).map fun p =>
      (p.base, p.bufSize * p.buffers)
    ranges ++ pools

/-- Does a range of bytes meet another? -/
def rangesMeet (a n b m : Nat) : Bool := a < b + m && b < a + n

/-- Ranges of a space by the hedge that owns them: the DRAM ranges of the partition, and the pools (R253). -/
def State.rangeOwners (s : State) (sp : Space) : List (Nat × Nat × Nat) :=
  let ranges := if sp = .dram then
    s.partition.hedges.flatMap fun e => e.dram.map fun r => (e.hedge, r.1 * 2 ^ 20, r.2 * 2 ^ 20)
    else []
  ranges ++ (s.pools.vals.filter fun p => p.dram = (sp = .dram)).map fun p => (p.hedge, p.base, p.bufSize * p.buffers)

/-- Does a hedge own every byte of a range of a space (R253)? What no other hedge owns is hedge 0's. -/
def State.hedgeOwns (s : State) (h : Nat) (sp : Space) (a n : Nat) : Bool :=
  if h = 0 then (s.rangeOwners sp).all fun r => r.1 = 0 || !(a < r.2.1 + r.2.2 && r.2.1 < a + n)
  else (s.rangeOwners sp).any fun r => r.1 = h && r.2.1 ≤ a && a + n ≤ r.2.1 + r.2.2

/-- May a host-held engine reach every byte of a range of a space (R253)? -/
def State.hostMayReach (s : State) (sp : Space) (a n : Nat) : Bool :=
  a + n ≤ s.spaceSize sp && (s.withheldRanges sp).all fun r => !rangesMeet a n r.1 r.2

/-- Are all bytes of a side reachable: by the host, or by the hedge whose image drives the channel? -/
def State.sideReachable (s : State) (hedge : Option Nat) (sp : Space) (base : Nat) (stride : Int) (line lines : Nat) : Bool :=
  let (lo, hi) := spanOf base stride line lines
  0 ≤ lo && hi ≤ (s.spaceSize sp : Int) &&
    match hedge with
    | none =>
      (s.withheldRanges sp).isEmpty || (List.range lines).all fun i => s.hostMayReach sp (lineAt base stride i).toNat line
    | some h =>
      sp = .host || (List.range lines).all fun i => s.hedgeOwns h sp (lineAt base stride i).toNat line

/-- The hedge whose image drives a channel; none for one that the host may hold (R251). -/
def State.dmaHedge (s : State) (ch : Nat) : Option Nat :=
  (s.claimOwner 0x0C ch).bind fun o => if o = ownerManagement then none else some o

/-- Units that snoop a channel's source side and destination side. -/
def State.dmaUnits (s : State) (ch : Nat) (outbound : Bool) : List Nat := s.chkUnitsOn 2 ch outbound 0

/-- The destination length that R267 requires of a stream of `t` bytes; none where a STRIP unit cannot take
its values out of it. -/
def State.dmaDstLength (s : State) (ch t : Nat) : Option Nat :=
  let plain := match (s.dmaUnits ch false).find? fun u => (s.chkConfig u).mode = chkStrip with
    | some u =>
      let c := s.chkConfig u
      let p := c.stripped t
      if c.appended p = t then some p else none
    | none => some t
  plain.map fun p => match (s.dmaUnits ch true).find? fun u => (s.chkConfig u).mode = chkAppend with
    | some u => (s.chkConfig u).appended p
    | none => p

/-- Check a descriptor; 0 where it passes (R253). -/
def State.dmaCheck (s : State) (ch : Nat) (d : DmaDesc) : Nat :=
  let lim := 2 ^ 24
  let ok := fun n => 1 ≤ n && n ≤ lim
  if !(ok d.srcLine && ok d.srcLines && ok d.dstLine && ok d.dstLines) || d.ctrl ≥ 64 || d.srcCode = 3 || (!d.last && d.next % 64 ≠ 0) ||
      d.dstCode = 3 || d.total > 2 ^ 32 || s.dmaDstLength ch d.total ≠ some (d.dstLine * d.dstLines) then ST_DMA_DESC
  else if !s.sideReachable (s.dmaHedge ch) (spaceOf d.srcCode) d.src d.srcStride d.srcLine d.srcLines ||
      !s.sideReachable (s.dmaHedge ch) (spaceOf d.dstCode) d.dst d.dstStride d.dstLine d.dstLines then ST_DMA_ADDR
  else
    let a := spanOf d.src d.srcStride d.srcLine d.srcLines
    let b := spanOf d.dst d.dstStride d.dstLine d.dstLines
    if d.srcCode = d.dstCode && a.1 < b.2 && b.1 < a.2 then ST_DMA_OVERLAP else ST_OK

/-- The stream: the source bytes in line order (R254). -/
def State.dmaStream (s : State) (d : DmaDesc) : Bytes :=
  (List.range d.srcLines).flatMap fun i =>
    s.readMem (spaceOf d.srcCode) (lineAt d.src d.srcStride i).toNat d.srcLine

/-- Write the first bytes of a stream to the destination lines in stream order, so that the byte later in
the stream remains where lines overlap (R254). -/
def State.dmaStore (s : State) (d : DmaDesc) (stream : Bytes) : State :=
  ((chunksOf d.dstLine d.dstLines stream).zipIdx).foldl (fun t e =>
    t.writeMem (spaceOf d.dstCode) (lineAt d.dst d.dstStride e.2).toNat e.1) s

/-- Run a stream through units in order. -/
def State.chkThrough (s : State) (us : List Nat) (data : Bytes) (whole : Bool) : State × Bytes × Bool :=
  us.foldl (fun acc u => let r := acc.1.chkStream u acc.2.1 whole
    (r.1, r.2.1, acc.2.2 && r.2.2)) (s, data, true)

/-- Space of descriptors and status records. -/
def State.dmaSpace (s : State) (ch : Nat) : Space :=
  if s.bit (Reg.DMA_CH_CTRL ch) Fld.DMA_CH_CTRL_DESC_SPACE then .host else .dram

/-- STATE of a channel. -/
def State.dmaState (s : State) (ch : Nat) : Nat := s.fld (Reg.DMA_CH_STATUS ch) Fld.DMA_CH_STATUS_STATE

/-- Write the status record of Table 9-2 and raise the channel's vector (R259). -/
def State.dmaRecord (s : State) (ch tag code desc residue : Nat) : State :=
  let t := s.setReg (Reg.DMA_CH_RESIDUE ch) (BitVec.ofNat 64 residue)
  let rec_ := leBytes 4 tag ++ leBytes 2 code ++ leBytes 2 0 ++ leBytes 8 desc ++ leBytes 8 residue ++
    leBytes 8 (t.reg (Reg.DMA_CH_BYTES ch)).toNat
  (t.writeMem (t.dmaSpace ch) (t.reg (Reg.DMA_CH_WB_ADDR ch)).toNat rec_).raise (64 + ch)

/-- The chain ends with a code (R258, R259). -/
def State.dmaEnd (s : State) (ch : Nat) (run : DmaRun) (code residue : Nat) : State :=
  let t := ((s.setFld (Reg.DMA_CH_STATUS ch) Fld.DMA_CH_STATUS_STATE chIdle).setBit (Reg.DMA_CH_STATUS ch)
    Fld.DMA_CH_STATUS_DONE true).setFld (Reg.DMA_CH_STATUS ch) Fld.DMA_CH_STATUS_CODE code
  let t := if code = ST_OK then t else t.setBit (Reg.DMA_CH_STATUS ch) Fld.DMA_CH_STATUS_ERR true
  { (t.dmaRecord ch run.desc.tag code run.at_ residue) with dma := t.dma.erase ch }

/-- Fetch and check the descriptor at an address (R252, R253). -/
def State.dmaFetch (s : State) (ch at_ : Nat) : State :=
  let d := dmaDescOf (s.readMem (s.dmaSpace ch) at_ 64)
  let t := { (s.setReg (Reg.DMA_CH_CUR_DESC ch) (BitVec.ofNat 64 at_)) with dma := s.dma.insert ch ⟨at_, d⟩ }
  let code := s.dmaCheck ch d
  if code = ST_OK then t else t.dmaEnd ch ⟨at_, d⟩ code d.total

/-- GO (R251, R252); a GO on a channel that is not IDLE changes nothing. -/
def State.dmaGo (s : State) (ch : Nat) : State :=
  if !s.bit (Reg.DMA_CH_CTRL ch) Fld.DMA_CH_CTRL_HOLD then
    s.setFld (Reg.DMA_CH_STATUS ch) Fld.DMA_CH_STATUS_CODE ST_DMA_NOT_HELD
  else if s.dmaState ch ≠ chIdle then s
  else
    let t := ((s.setFld (Reg.DMA_CH_STATUS ch) Fld.DMA_CH_STATUS_STATE chBusy).setFld (Reg.DMA_CH_STATUS ch)
      Fld.DMA_CH_STATUS_CODE ST_OK).setReg (Reg.DMA_CH_BYTES ch) 0
    t.dmaFetch ch (s.reg (Reg.DMA_CH_DESC ch)).toNat

/-- DMA_GO (R252). -/
def execDmaGo (ch : Fin 64) (s : State) : Host.Outcome State Fault Refusal :=
  hostAct (Reg.DMA_CH_CTRL ch) (fun s => s.dmaGo ch) s

/-- ABORT (R258): a BUSY channel issues no new burst; an IDLE one ignores it. -/
def State.dmaAbort (s : State) (ch : Nat) : State :=
  if s.dmaState ch = chBusy then s.setFld (Reg.DMA_CH_STATUS ch) Fld.DMA_CH_STATUS_STATE chAborting else s

/-- DMA_ABORT (R258). -/
def execDmaAbort (ch : Fin 64) (s : State) : Host.Outcome State Fault Refusal :=
  hostAct (Reg.DMA_CH_CTRL ch) (fun s => s.dmaAbort ch) s

/-- HOLD = 1 (R251). -/
def State.dmaHold (s : State) (ch : Nat) : State :=
  if s.bit (Reg.DMA_CH_CTRL ch) Fld.DMA_CH_CTRL_HOLD then s
  else if (s.claimOwner 0x0C ch).isSome then s.setFld (Reg.DMA_CH_STATUS ch) Fld.DMA_CH_STATUS_CODE ST_BUSY_CLAIMED
  else (s.setBit (Reg.DMA_CH_CTRL ch) Fld.DMA_CH_CTRL_HOLD true).addClaim 0x0C ch ownerManagement

/-- DMA_HOLD (R251). -/
def execDmaHold (ch : Fin 64) (s : State) : Host.Outcome State Fault Refusal :=
  hostAct (Reg.DMA_CH_CTRL ch) (fun s => s.dmaHold ch) s

/-- HOLD = 0, ignored while the channel is BUSY or ABORTING (R251). -/
def State.dmaRelease (s : State) (ch : Nat) : State :=
  if s.bit (Reg.DMA_CH_CTRL ch) Fld.DMA_CH_CTRL_HOLD && s.dmaState ch = chIdle then
    (s.setBit (Reg.DMA_CH_CTRL ch) Fld.DMA_CH_CTRL_HOLD false).dropClaim 0x0C ch ownerManagement
  else s

/-- DMA_RELEASE (R251). -/
def execDmaRelease (ch : Fin 64) (s : State) : Host.Outcome State Fault Refusal :=
  hostAct (Reg.DMA_CH_CTRL ch) (fun s => s.dmaRelease ch) s

/-- Is the channel stalled by a paused unit (R269)? -/
def State.dmaStalled (s : State) (ch : Nat) : Bool :=
  (s.dmaUnits ch false ++ s.dmaUnits ch true).any s.chkPaused

/-- The last write response of the descriptor returns (R257, R259). -/
def State.dmaComplete (s : State) (ch : Nat) (run : DmaRun) : State :=
  let (t, plain, ok) := s.chkThrough (s.dmaUnits ch false) (s.dmaStream run.desc) true
  let (t, out, _) := t.chkThrough (s.dmaUnits ch true) plain true
  let t := (t.dmaStore run.desc out).bump (Reg.DMA_CH_BYTES ch) Fld.DMA_CH_BYTES_COUNT run.desc.total
  if !ok then t.dmaEnd ch run ST_DMA_CHECK 0
  else if run.desc.last then t.dmaEnd ch run ST_OK 0
  else
    let t := if run.desc.irq then t.dmaRecord ch run.desc.tag ST_OK run.at_ 0 else t
    t.dmaFetch ch run.desc.next

/-- DMA_DESCRIPTOR_COMPLETE (R257). -/
def execDmaDescriptorComplete (ch : Fin 64) (s : State) : Host.Outcome State Fault Refusal :=
  act (fun s => match s.dma.find ch with
    | some run => if s.dmaState ch = chBusy && !s.dmaStalled ch then s.dmaComplete ch run else s
    | none => s) s

/-- The channel stops partway: the first `done` bytes of the stream are written, and further bytes may be; how many is a
free value (R258). They pass the units that snoop the channel. -/
def State.dmaStop (s : State) (ch : Nat) (run : DmaRun) (done code : Nat) : State :=
  let total := run.desc.total
  let n := min done total
  let more := s.freeValue % (total - n + 1)
  let (t, plain, _) := s.drew.chkThrough (s.dmaUnits ch false) ((s.dmaStream run.desc).take (n + more)) false
  let (t, out, _) := t.chkThrough (s.dmaUnits ch true) plain false
  ((t.dmaStore run.desc out).bump (Reg.DMA_CH_BYTES ch) Fld.DMA_CH_BYTES_COUNT n).dmaEnd ch run code (total - n)

/-- DMA_TRANSFER_ERROR (R258): `prefix_` is the longest prefix of the stream whose writes completed. -/
def execDmaTransferError (ch : Fin 64) (ecc : Bool) (prefix_ : Nat) (s : State) : Host.Outcome State Fault Refusal :=
  act (fun s => match s.dma.find ch with
    | some run => s.dmaStop ch run prefix_ (if ecc then ST_DMA_ECC else ST_DMA_BUS)
    | none => s) s

/-- An ABORT that arrived before the current descriptor was fetched: RESIDUE is all ones (R258). The TAG of a descriptor that
was not read is not stated: a free value. -/
def State.dmaUnfetched (s : State) (ch : Nat) (run : DmaRun) : State :=
  s.drew.dmaEnd ch { run with desc := { run.desc with tag := s.freeValue % 2 ^ 32 } } ST_DMA_ABORTED 0xFFFF_FFFF_FFFF_FFFF

/-- DMA_ABORT_COMPLETE (R258): `prefix_` is the longest prefix of the stream whose writes completed; none where the ABORT
came before the current descriptor was fetched. -/
def execDmaAbortComplete (ch : Fin 64) (prefix_ : Option Nat) (s : State) : Host.Outcome State Fault Refusal :=
  act (fun s => match s.dma.find ch with
    | some run =>
      if s.dmaState ch = chAborting then
        match prefix_ with
        | some n => s.dmaStop ch run n ST_DMA_ABORTED
        | none => s.dmaUnfetched ch run
      else s
    | none => s) s

end Sys2Proof.Machine
end

