-- ==== Sys2Proof/Machine/BriarEngine.lean ====
section
/-! DEFINITION. Host-held Briar engines (R291 to R298). -/

namespace Sys2Proof.Machine

/-- Class and number of a Briar engine (R291). -/
def briClass (e : Nat) : Nat := if e < 32 then 2 else 3
def briNumber (e : Nat) : Nat := if e < 32 then e else e - 32

/-- A descriptor from its 64 bytes (Table 10-3). -/
def briDescOf (b : Bytes) : BriDesc where
  op := fieldAt b 0 1
  flags := fieldAt b 1 1
  dictLog2 := fieldAt b 2 1
  blockLog2 := fieldAt b 3 1
  options := fieldAt b 4 1
  inAddr := fieldAt b 8 8
  inLen := fieldAt b 0x10 4
  outCap := fieldAt b 0x14 4
  outAddr := fieldAt b 0x18 8
  stateAddr := fieldAt b 0x20 8
  next := fieldAt b 0x28 8
  tag := fieldAt b 0x30 4

/-- Flags of Table 10-4. -/
def BriDesc.start (d : BriDesc) : Bool := natBit d.flags 0
def BriDesc.end_ (d : BriDesc) : Bool := natBit d.flags 1
def BriDesc.restore (d : BriDesc) : Bool := natBit d.flags 2
def BriDesc.save (d : BriDesc) : Bool := natBit d.flags 3
def BriDesc.flush (d : BriDesc) : Bool := natBit d.flags 4
def BriDesc.irq (d : BriDesc) : Bool := natBit d.flags 5
def BriDesc.last (d : BriDesc) : Bool := natBit d.flags 6
def BriDesc.compress (d : BriDesc) : Bool := d.op = 1

/-- Are the bytes of a descriptor in range for an engine (Table 10-3, R291)? -/
def State.briDescOk (s : State) (e : Nat) (b : Bytes) : Bool :=
  let d := briDescOf b
  (if e < 32 then d.op = 2 else d.op = 1) && d.flags < 128 && zeroAt b 5 3 && zeroAt b 0x34 12 &&
  (!(d.compress && d.start) || (9 ≤ d.dictLog2 && d.dictLog2 ≤ 16 && 12 ≤ d.blockLog2 && d.blockLog2 ≤ 16)) &&
  d.options < 2 && d.inLen ≤ 2 ^ 30 && d.outCap ≤ 2 ^ 30 &&
  s.hostMayReach .dram d.inAddr d.inLen && s.hostMayReach .dram d.outAddr d.outCap &&
  (!(d.restore || d.save) || (d.stateAddr % 64 = 0 && s.hostMayReach .dram d.stateAddr 64)) &&
  (d.last || (d.next % 64 = 0 && s.hostMayReach .dram d.next 64))

/-- All ones: ERR_BIT of an end without a bit. -/
def noBit : Nat := 2 ^ 64 - 1

/-- STATE of an engine. -/
def State.briState (s : State) (e : Nat) : Nat := s.fld (Reg.BRI_ENG_STATUS e) Fld.BRI_ENG_STATUS_STATE

/-- Change an engine and show whether it holds an open stream. -/
def State.putBri (s : State) (e : Nat) (x : BriEngine) : State :=
  (s.setBri e x).setBit (Reg.BRI_ENG_STATUS e) Fld.BRI_ENG_STATUS_OPEN x.stream.isSome

/-- CRC that a status record shows. -/
def BriEngine.crc (x : BriEngine) (run : BriRun) : Nat :=
  match x.stream with
  | some st => (Poly.crc32c.finish st.crc).toNat
  | none => run.crc

/-- Does an end keep the stream open (R293, R296)? -/
def briKeepsOpen (code : Nat) : Bool := code = ST_OK || code = ST_BRI_OUT_FULL || code = ST_BRI_ABORTED

/-- Write the status record and raise the engine's vector (R295). -/
def State.briRecord (s : State) (e : Nat) (run : BriRun) (code bit : Nat) : State :=
  let rec_ := leBytes 4 run.desc.tag ++ leBytes 2 code ++ leBytes 2 0 ++ leBytes 4 run.consumed ++
    leBytes 4 run.produced ++ leBytes 4 ((s.briEngine e).crc run) ++ leBytes 4 0 ++ leBytes 8 bit
  (s.writeMem .dram (s.reg (Reg.BRI_ENG_WB_ADDR e)).toNat rec_).raise (128 + e)

/-- The chain ends with a code (R293, R295); a verification failure retires the engine (R287). -/
def State.briEnd (s : State) (e : Nat) (run : BriRun) (code bit : Nat) : State :=
  let x := s.briEngine e
  let t := s.putBri e { x with stream := if briKeepsOpen code then x.stream else none }
  let t := t.briRecord e { run with crc := x.crc run } code bit
  let t := t.putBri e { t.briEngine e with run := none }
  let t := ((t.setFld (Reg.BRI_ENG_STATUS e) Fld.BRI_ENG_STATUS_STATE
    (if code = ST_BRI_VERIFY then chRetired else chIdle)).setBit (Reg.BRI_ENG_STATUS e) Fld.BRI_ENG_STATUS_DONE true).setFld
    (Reg.BRI_ENG_STATUS e) Fld.BRI_ENG_STATUS_CODE code
  if code = ST_OK then t
  else (t.setBit (Reg.BRI_ENG_STATUS e) Fld.BRI_ENG_STATUS_ERR true).setReg (Reg.BRI_ENG_ERR_BIT e) (BitVec.ofNat 64 bit)

/-- Input bytes of a descriptor. -/
def State.briInput (s : State) (d : BriDesc) : Array Byte := (s.readMem .dram d.inAddr d.inLen).toArray

/-- Count input taken and output released (R298). -/
def State.briCount (s : State) (e consumed produced : Nat) : State :=
  (s.bump (Reg.BRI_ENG_CONSUMED e) Fld.BRI_ENG_CONSUMED_COUNT consumed).bump (Reg.BRI_ENG_PRODUCED e)
    Fld.BRI_ENG_PRODUCED_COUNT produced

/-- Release bytes to the output of the descriptor in progress, after `consumed` more input bytes. -/
def State.briRelease (s : State) (e : Nat) (run : BriRun) (st : Option BriStream) (consumed : Nat) (out : Bytes) : State :=
  let t := (s.writeMem .dram (run.desc.outAddr + run.produced) out).briCount e consumed out.length
  t.putBri e { stream := st, run := some { run with consumed := run.consumed + consumed, produced := run.produced + out.length } }

/-- Record how the descriptor in progress ends. -/
def State.briMark (s : State) (e code bit : Nat) : State :=
  let x := s.briEngine e
  s.putBri e { x with run := x.run.map fun r => { r with ended := some (code, bit) } }

/-- Open or restore the stream of a descriptor just fetched (R293, R294). -/
def State.briOpen (s : State) (e : Nat) (run : BriRun) : State :=
  let d := run.desc
  let x := s.briEngine e
  -- START leaves an older stream, so that what is recorded of a header that opens none is of no bytes
  let fresh := s.putBri e { x with stream := none }
  if d.start && d.compress then
    let st := { BriStream.new d.dictLog2 d.blockLog2 (d.options = 1) with stream := 16 }
    if d.outCap < 16 then fresh.briMark e ST_BRI_OUT_FULL noBit else s.briRelease e run (some st) 0 (briHeaderBytes st)
  else if d.start then
    match briHeader (s.briInput d) 0 with
    | .ok st => s.briRelease e run (some st) 16 []
    | .error (.bad bit) => fresh.briMark e ST_BRI_FORMAT bit
    | .error _ => if d.end_ then fresh.briMark e ST_BRI_TRUNCATED (8 * d.inLen) else fresh.briMark e ST_OK noBit
  else if d.restore then
    let n := fieldAt (s.readMem .dram (d.stateAddr + 0xC) 4) 0 4
    if !s.hostMayReach .dram d.stateAddr (64 + 8 * (min n 65536 - 1)) then s.briMark e ST_BRI_DESC noBit
    else match briStateOf d.op (s.readMem .dram d.stateAddr (64 + 8 * (min n 65536 - 1))) with
    | some st => s.putBri e { x with stream := some st }
    | none => s.briMark e ST_BRI_STATE noBit
  else s

/-- Fetch and check the descriptor at an address (R292, R293). -/
def State.briFetch (s : State) (e at_ : Nat) : State :=
  let b := s.readMem .dram at_ 64
  let d := briDescOf b
  let run : BriRun := ⟨at_, d, 0, 0, none, 0⟩
  let x := s.briEngine e
  let t := s.putBri e { x with run := some run }
  if !s.hostMayReach .dram at_ 64 || !s.briDescOk e b || (d.start && d.restore) || (!d.start && !d.restore && x.stream.isNone) then
    t.briMark e ST_BRI_DESC noBit
  else t.briOpen e run

/-- GO (R291); a GO on an engine that is not IDLE changes nothing. -/
def State.briGo (s : State) (e : Nat) : State :=
  if !s.bit (Reg.BRI_ENG_CTRL e) Fld.BRI_ENG_CTRL_HOLD then
    s.setFld (Reg.BRI_ENG_STATUS e) Fld.BRI_ENG_STATUS_CODE ST_BRI_NOT_HELD
  else if s.briState e ≠ chIdle then s
  else
    let t := (s.setFld (Reg.BRI_ENG_STATUS e) Fld.BRI_ENG_STATUS_STATE chBusy).setFld (Reg.BRI_ENG_STATUS e)
      Fld.BRI_ENG_STATUS_CODE ST_OK
    t.briFetch e (s.reg (Reg.BRI_ENG_DESC e)).toNat

/-- BRI_GO (R292). -/
def execBriGo (engine : Fin 48) (s : State) : Host.Outcome State Fault Refusal :=
  hostAct (Reg.BRI_ENG_CTRL engine) (fun s => s.briGo engine) s

/-- ABORT (R296); ignored while the engine is IDLE. -/
def State.briAbort (s : State) (e : Nat) : State :=
  if s.briState e = chBusy then s.setFld (Reg.BRI_ENG_STATUS e) Fld.BRI_ENG_STATUS_STATE chAborting else s

/-- BRI_ABORT (R296). -/
def execBriAbort (engine : Fin 48) (s : State) : Host.Outcome State Fault Refusal :=
  hostAct (Reg.BRI_ENG_CTRL engine) (fun s => s.briAbort engine) s

/-- HOLD = 1 (R291): fails on an engine bound to a loaded image; the engine then holds no open stream (R293)
and its counts start at 0. -/
def State.briHold (s : State) (e : Nat) : State :=
  if s.bit (Reg.BRI_ENG_CTRL e) Fld.BRI_ENG_CTRL_HOLD then s
  else if s.bit (Reg.BRI_ENG_STATUS e) Fld.BRI_ENG_STATUS_BOUND then
    s.setFld (Reg.BRI_ENG_STATUS e) Fld.BRI_ENG_STATUS_CODE ST_BUSY_CLAIMED
  else
    let t := (s.setBit (Reg.BRI_ENG_CTRL e) Fld.BRI_ENG_CTRL_HOLD true).addClaim 0x05 (engineKey (briClass e) (briNumber e))
      ownerManagement
    ((t.putBri e ⟨none, none⟩).setReg (Reg.BRI_ENG_CONSUMED e) 0).setReg (Reg.BRI_ENG_PRODUCED e) 0

/-- BRI_HOLD (R291). -/
def execBriHold (engine : Fin 48) (s : State) : Host.Outcome State Fault Refusal :=
  hostAct (Reg.BRI_ENG_CTRL engine) (fun s => s.briHold engine) s

/-- HOLD = 0, ignored while the engine is BUSY or ABORTING (R291). -/
def State.briDrop (s : State) (e : Nat) : State :=
  if s.bit (Reg.BRI_ENG_CTRL e) Fld.BRI_ENG_CTRL_HOLD && s.briState e ≠ chBusy && s.briState e ≠ chAborting then
    (s.setBit (Reg.BRI_ENG_CTRL e) Fld.BRI_ENG_CTRL_HOLD false).dropClaim 0x05 (engineKey (briClass e) (briNumber e))
      ownerManagement
  else s

/-- BRI_RELEASE (R291). -/
def execBriRelease (engine : Fin 48) (s : State) : Host.Outcome State Fault Refusal :=
  hostAct (Reg.BRI_ENG_CTRL engine) (fun s => s.briDrop engine) s

/-- Does the compressor close a block next, and of which raw bytes? Answers the bytes that it takes from
the input and whether they close a block (R285, R293). -/
def briTake (d : BriDesc) (st : BriStream) (left : Nat) : Nat × Bool :=
  let take := min left (2 ^ st.blockLog2 - st.pending.length)
  let full := st.pending.length + take = 2 ^ st.blockLog2
  (take, full || (take = left && (d.flush || d.save || d.end_) && 0 < st.pending.length + take))

/-- A block failed its self-verification: nothing of it is released, and the engine is retired (R287). -/
def State.briVerifyFailed (s : State) (e : Nat) : State :=
  { (s.bump (Reg.BRI_ENG_VERIFY_FAIL e) Fld.BRI_ENG_VERIFY_FAIL_COUNT) with
    retired := s.retired ++ [(briClass e, briNumber e)] }.briMark e ST_BRI_VERIFY noBit

/-- One block of a compressor: emitted when verified, otherwise the engine is retired (R287). -/
def State.briCompressStep (s : State) (e : Nat) (run : BriRun) (st : BriStream) (verified : Bool) : State :=
  let d := run.desc
  let (take, closes) := briTake d st (d.inLen - run.consumed)
  let more := s.readMem .dram (d.inAddr + run.consumed) take
  if !closes then s.briRelease e run (some { st with pending := st.pending ++ more }) take []
  else if st.pending.length + take + 15 > d.outCap - run.produced then s.briMark e ST_BRI_OUT_FULL noBit
  else if !verified then s.briVerifyFailed e
  else
    let (out, st', stored) := briCompressBlock st (st.pending ++ more)
    let t := if stored then s.bump Reg.BRI_STORED_BLOCKS Fld.BRI_STORED_BLOCKS_COUNT else s
    t.briRelease e run (some st') take out

/-- The end of a compressor's descriptor: END writes the end block, once its CRC is checked (R287). -/
def State.briCompressEnd (s : State) (e : Nat) (run : BriRun) (st : BriStream) (verified : Bool) : State :=
  let d := run.desc
  if !d.end_ then s.briMark e ST_OK noBit
  else if 8 > d.outCap - run.produced then s.briMark e ST_BRI_OUT_FULL noBit
  else if !verified then s.briVerifyFailed e
  else
    let t := s.briRelease e run none 0 (briEndBlock st)
    let x := t.briEngine e
    (t.putBri e { x with run := x.run.map fun r => { r with crc := (Poly.crc32c.finish st.crc).toNat } }).briMark e ST_OK noBit

/-- One block of a decompressor, or the end that the input has come to (R284, R293, R295). -/
def State.briDecodeStep (s : State) (e : Nat) (run : BriRun) (st : BriStream) : State :=
  let d := run.desc
  let inp := s.briInput d
  let q := run.consumed
  let room := d.outCap - run.produced
  let raw := (inp.getD (q + 2) 0).toNat + 256 * (inp.getD (q + 3) 0).toNat + 1
  let keep := fun (out : Bytes) => s.briRelease e run (some st) 0 (out.take room)
  match briDecodeBlock inp q st with
  | (out, st', .ok next) =>
    if raw > room then s.briMark e ST_BRI_OUT_FULL noBit else s.briRelease e run (some st') (next - q) out
  | (_, st', .done next ok) =>
    let crc := (Poly.crc32c.finish st'.crc).toNat
    let t := s.briRelease e run none (if ok then next - q else 0) []
    let x := t.briEngine e
    let t := t.putBri e { x with run := x.run.map fun r => { r with crc := crc } }
    if ok then t.briMark e ST_OK noBit else t.briMark e ST_BRI_CHECK (8 * (q + 4))
  | (out, _, .bad bit) =>
    if bit ≥ 8 * (q + 8) && raw > room then s.briMark e ST_BRI_OUT_FULL noBit
    else (keep out).briMark e ST_BRI_FORMAT bit
  | (out, _, .short) =>
    if d.end_ && q + 8 ≤ inp.size && (inp.getD q 0).toNat % 4 ≠ 3 && raw > room then s.briMark e ST_BRI_OUT_FULL noBit
    else if d.end_ then (keep out).briMark e ST_BRI_TRUNCATED (8 * d.inLen) else s.briMark e ST_OK noBit

/-- Work that remains in the descriptor: does a data block come next? -/
def State.briBlockNext (s : State) (run : BriRun) (st : BriStream) : Bool :=
  if run.desc.compress then 0 < run.desc.inLen - run.consumed || (briTake run.desc st 0).2
  else
    match briDecodeBlock (s.briInput run.desc) run.consumed st with
    | (_, _, .ok _) => true
    | _ => false

/-- One block of the descriptor in progress, or its end. -/
def State.briStep (s : State) (e : Nat) (verified : Bool) : State :=
  let x := s.briEngine e
  match x.run, x.stream with
  | some run, some st =>
    if run.ended.isSome then s
    else if run.desc.compress then
      if s.briBlockNext run st then s.briCompressStep e run st verified else s.briCompressEnd e run st verified
    else s.briDecodeStep e run st
  | some run, none => if run.ended.isSome then s else s.briMark e ST_OK noBit
  | none, _ => s

/-- SAVE at the end of a descriptor: the state record (R293, R294). -/
def State.briSave (s : State) (e : Nat) (run : BriRun) (code : Nat) : State :=
  match (s.briEngine e).stream with
  | some st => if run.desc.save && code = ST_OK then s.writeMem .dram run.desc.stateAddr (briStateRecord run.desc.op st) else s
  | none => s

/-- An aborting engine stops at a block's end (R296); the code of a block that ended with an error stands. -/
def State.briStop (s : State) (e : Nat) : State :=
  match (s.briEngine e).run with
  | none => s
  | some run =>
    match run.ended with
    | some (code, bit) => if code = ST_OK then s.briEnd e run ST_BRI_ABORTED noBit else s.briEnd e run code bit
    | none => s.briEnd e run ST_BRI_ABORTED noBit

/-- BRI_BLOCK_DONE (R287): a block is released; an aborting engine then stops. -/
def execBriBlockDone (engine : Fin 48) (verified : Bool) (s : State) : Host.Outcome State Fault Refusal :=
  act (fun s =>
    let t := s.briStep engine verified
    if s.briState engine = chAborting then t.briStop engine else t) s

/-- Does the record that SAVE writes lie where the host may not write (R291)? -/
def State.briSaveBad (s : State) (e : Nat) (run : BriRun) : Bool :=
  run.desc.save && (s.briEngine e).stream.any fun st => !s.hostMayReach .dram run.desc.stateAddr (64 + 8 * (st.n - 1))

/-- The descriptor in progress ends, and the next of the chain is fetched (R292, R295). -/
def State.briComplete (s : State) (e : Nat) : State :=
  let x := s.briEngine e
  let t := match x.run, x.stream with
    | some run, some st => if run.ended.isNone && !s.briBlockNext run st then s.briStep e true else s
    | some _, none => s.briStep e true
    | none, _ => s
  match (t.briEngine e).run with
  | none => t
  | some run =>
    match run.ended with
    | none => t
    | some (code, bit) =>
      if code = ST_OK && t.briSaveBad e run then t.briEnd e run ST_BRI_DESC noBit else
      let t := t.briSave e run code
      if code ≠ ST_OK || run.desc.last then t.briEnd e run code bit
      else
        let t := if run.desc.irq then t.briRecord e run code bit else t
        t.briFetch e run.desc.next

/-- BRI_DESCRIPTOR_COMPLETE (R295). -/
def execBriDescriptorComplete (engine : Fin 48) (s : State) : Host.Outcome State Fault Refusal :=
  act (fun s =>
    if s.briState engine = chBusy then s.briComplete engine
    else if s.briState engine = chAborting then s.briStop engine
    else s) s

end Sys2Proof.Machine
end

