-- ==== Sys2Proof/Machine/Audio.lean ====
section
/-! DEFINITION. The decoding of audio by the library routines of R109: FLAC, WAV, and what is checked of Opus. The formats are
PRESUMED from RFC 9639, RFC 7845 and the WAV format, which R109 names; Opus decoding itself is a constant of Config. What the
spec leaves open beside them is in log entries 15 and 16. -/

namespace Sys2Proof.Machine

/-- What an audio routine decodes. -/
structure AudioStream where
  channels : Nat
  /-- Bits of a sample; of floating-point samples, 32. -/
  depth : Nat
  float : Bool
  /-- Samples in time order: is one concealed, and its value in each channel. -/
  samples : Array (Bool × List Int)
  damage : Option Damage
deriving DecidableEq, Repr

/-- The outcome of an audio routine. -/
inductive AudioResult where
  /-- No usable format. -/
  | unusable
  /-- Outside the limits of R109. -/
  | unsupported
  | stream (a : AudioStream)
deriving DecidableEq, Repr

/-! ### FLAC -/

/-- A check value of `w` bits, most significant bit first, from 0. -/
def crcMsb (w taps : Nat) (bs : Bytes) : Nat :=
  bs.foldl (fun v b => (List.range 8).foldl (fun v _ =>
    let s := 2 * v % 2 ^ w
    if v < 2 ^ (w - 1) then s else s ^^^ taps) (v ^^^ (b.toNat * 2 ^ (w - 8)))) 0

/-- The fields of STREAMINFO. -/
structure FlacInfo where
  block : Nat
  rate : Nat
  channels : Nat
  depth : Nat
  total : Nat
deriving DecidableEq, Repr

/-- Read STREAMINFO. -/
def flacInfo (b : Bytes) : FlacInfo :=
  let v := beFieldAt b 10 8
  ⟨beFieldAt b 0 2, v / 2 ^ 44, v / 2 ^ 41 % 8 + 1, v / 2 ^ 36 % 32 + 1, v % 2 ^ 36⟩

/-- The byte after the metadata blocks from a byte on. -/
def flacBlocks (bs : Bytes) : (fuel o : Nat) → Option Nat
  | 0, _ => none
  | fuel + 1, o =>
    let h := fieldAt bs o 1
    let next := o + 4 + beFieldAt bs (o + 1) 3
    if bs.length < next || bs.length < o + 4 then none else if natBit h 7 then some next else flacBlocks bs fuel next

/-- A frame header. -/
structure FlacHeader where
  /-- Position of the frame's first sample. -/
  start : Nat
  block : Nat
  /-- Channel assignment code. -/
  channels : Nat
  depth : Nat
  /-- Its length in bytes, check value included. -/
  size : Nat
deriving DecidableEq, Repr

/-- The coded number at a byte, and its length. -/
def flacNumber (bs : Bytes) (o : Nat) : Option (Nat × Nat) :=
  let b := fieldAt bs o 1
  let ones := ((List.range 8).takeWhile fun i => natBit b (7 - i)).length
  if ones = 0 then some (b, 1)
  else if ones = 1 || ones = 8 || bs.length < o + ones then none
  else
    let tail := (sliceAt bs (o + 1) (ones - 1))
    if tail.any fun x => x.toNat / 64 ≠ 2 then none
    else some (tail.foldl (fun v x => 64 * v + x.toNat % 64) (b % 2 ^ (7 - ones)), ones)

/-- A frame header at a byte; none where there is none, or its check value is wrong. -/
def flacHeader (i : FlacInfo) (bs : Bytes) (o : Nat) : Option FlacHeader :=
  let a := beFieldAt bs o 2
  let codes := fieldAt bs (o + 2) 1
  let more := fieldAt bs (o + 3) 1
  let blockCode := codes / 16
  let rateCode := codes % 16
  let depthCode := more / 2 % 8
  if bs.length < o + 6 || a / 2 ≠ 0x7FFC || more % 2 = 1 || blockCode = 0 || rateCode = 15 || 10 < more / 16 || depthCode = 3 then none else
  match flacNumber bs (o + 4) with
  | none => none
  | some (number, n) =>
    let p := o + 4 + n
    let blockLen := if blockCode = 6 then 1 else if blockCode = 7 then 2 else 0
    let rateLen := if rateCode = 12 then 1 else if rateCode = 13 || rateCode = 14 then 2 else 0
    let block :=
      if blockCode = 1 then 192
      else if blockCode ≤ 5 then 144 * 2 ^ blockCode
      else if blockCode ≤ 7 then beFieldAt bs p blockLen + 1
      else 2 ^ blockCode
    let fin := p + blockLen + rateLen
    if bs.length < fin + 1 || crcMsb 8 0x07 (sliceAt bs o (fin - o)) ≠ fieldAt bs fin 1 then none
    else
      some ⟨if a % 2 = 1 then number else number * i.block, block, more / 16,
        [i.depth, 8, 12, 0, 16, 20, 24, 32].getD depthCode 0, fin + 1 - o⟩

/-- A signed number of `n` bits at a bit position. -/
def flacSigned (d : Array Byte) (pos n : Nat) : Option Int := (msbBits d pos n).map (signedOf n)

/-- Zeros before the next one at a bit position. -/
def flacUnary (d : Array Byte) : (fuel pos n : Nat) → Option Nat
  | 0, _, _ => none
  | fuel + 1, pos, n =>
    match msbBits d pos 1 with
    | none => none
    | some 1 => some n
    | some _ => flacUnary d fuel (pos + 1) (n + 1)

/-- `n` residuals of one partition. -/
def flacResiduals (d : Array Byte) (param : Nat) : (n pos : Nat) → Array Int → Option (Array Int × Nat)
  | 0, pos, acc => some (acc, pos)
  | n + 1, pos, acc =>
    match flacUnary d (8 * d.size) pos 0 with
    | none => none
    | some q =>
      match msbBits d (pos + q + 1) param with
      | none => none
      | some r =>
        let v := q * 2 ^ param + r
        let e : Int := if v % 2 = 0 then (v / 2 : Nat) else -((v / 2 : Nat) : Int) - 1
        flacResiduals d param n (pos + q + 1 + param) (acc.push e)

/-- `n` residuals written out in `w` bits each. -/
def flacEscaped (d : Array Byte) (w : Nat) : (n pos : Nat) → Array Int → Option (Array Int × Nat)
  | 0, pos, acc => some (acc, pos)
  | n + 1, pos, acc =>
    if w = 0 then flacEscaped d w n pos (acc.push 0)
    else
      match flacSigned d pos w with
      | none => none
      | some v => flacEscaped d w n (pos + w) (acc.push v)

/-- The partitions of a residual: `sizes` are their numbers of samples. -/
def flacPartitions (d : Array Byte) (width : Nat) : (sizes : List Nat) → (pos : Nat) → Array Int → Option (Array Int × Nat)
  | [], pos, acc => some (acc, pos)
  | n :: rest, pos, acc =>
    match msbBits d pos width with
    | none => none
    | some param =>
      let part :=
        if param = 2 ^ width - 1 then (msbBits d (pos + width) 5).bind fun w => flacEscaped d w n (pos + width + 5) acc
        else flacResiduals d param n (pos + width) acc
      match part with
      | none => none
      | some (acc, pos) => flacPartitions d width rest pos acc

/-- The coded residual of a subframe of a predictor of some order. -/
def flacResidual (d : Array Byte) (block order pos : Nat) : Option (Array Int × Nat) :=
  match msbBits d pos 6 with
  | none => none
  | some h =>
    let method := h / 16
    let parts := 2 ^ (h % 16)
    if method > 1 || block % parts ≠ 0 || block / parts < order then none
    else flacPartitions d (4 + method) ((List.range parts).map fun i => if i = 0 then block / parts - order else block / parts) (pos + 6) #[]

/-- `n` signed numbers of `w` bits. -/
def flacSamples (d : Array Byte) (w : Nat) : (n pos : Nat) → Array Int → Option (Array Int × Nat)
  | 0, pos, acc => some (acc, pos)
  | n + 1, pos, acc =>
    match flacSigned d pos w with
    | none => none
    | some v => flacSamples d w n (pos + w) (acc.push v)

/-- A predictor at work: coefficients of the last samples, newest first, and the shift of their sum. -/
def flacPredict (coefs : List Int) (shift : Nat) (warm residual : Array Int) : Array Int :=
  residual.foldl (fun (s : Array Int) e =>
    let sum := coefs.zipIdx.foldl (fun (a : Int) c => a + c.1 * s.getD (s.size - 1 - c.2) 0) 0
    s.push (e + sum / ((2 ^ shift : Nat) : Int))) warm

/-- The predictors of fixed order. -/
def flacFixed (order : Nat) : List Int := [[], [1], [2, -1], [3, -3, 1], [4, -6, 4, -1]].getD order []

/-- A subframe of samples of `depth` bits. -/
def flacSubframe (d : Array Byte) (block depth pos : Nat) : Option (Array Int × Nat) :=
  (msbBits d pos 8).bind fun h =>
    let kind := h / 2
    let zeros := if h % 2 = 1 then flacUnary d (8 * d.size) (pos + 8) 0 else some 0
    zeros.bind fun z =>
      let wasted := if h % 2 = 1 then z + 1 else 0
      let pos := pos + 8 + wasted
      if depth ≤ wasted || 64 ≤ kind then none else
      let w := depth - wasted
      let body : Option (Array Int × Nat) :=
        if kind = 0 then (flacSigned d pos w).map fun v => (Array.replicate block v, pos + w)
        else if kind = 1 then flacSamples d w block pos #[]
        else if 8 ≤ kind && kind ≤ 12 && kind - 8 ≤ block then
          (flacSamples d w (kind - 8) pos #[]).bind fun r =>
            (flacResidual d block (kind - 8) r.2).map fun e => (flacPredict (flacFixed (kind - 8)) 0 r.1 e.1, e.2)
        else if 32 ≤ kind && kind - 31 ≤ block then
          let order := kind - 31
          (flacSamples d w order pos #[]).bind fun r =>
            (msbBits d r.2 4).bind fun prec => (flacSigned d (r.2 + 4) 5).bind fun shift =>
              if prec = 15 || shift < 0 then none
              else
                (flacSamples d (prec + 1) order (r.2 + 9) #[]).bind fun c =>
                  (flacResidual d block order c.2).map fun e => (flacPredict c.1.toList shift.toNat r.1 e.1, e.2)
        else none
      body.map fun r => (r.1.map fun v => v * ((2 ^ wasted : Nat) : Int), r.2)

/-- The subframes of a frame. -/
def flacSubframes (d : Array Byte) (block : Nat) : (depths : List Nat) → (pos : Nat) → List (Array Int) → Option (List (Array Int) × Nat)
  | [], pos, acc => some (acc, pos)
  | w :: rest, pos, acc =>
    match flacSubframe d block w pos with
    | none => none
    | some (s, pos) => flacSubframes d block rest pos (acc ++ [s])

/-- The channels of a frame from its subframes (channel assignment codes 8 to 10: left and side, side and right, mid and side). -/
def flacChannels (code : Nat) (subs : List (Array Int)) : List (Array Int) :=
  let both := fun (f : Int → Int → Int) => (Array.zip (subs.getD 0 #[]) (subs.getD 1 #[])).map fun x => f x.1 x.2
  match code with
  | 8 => [subs.getD 0 #[], both fun l s => l - s]
  | 9 => [both fun s r => s + r, subs.getD 1 #[]]
  | 10 => [both fun m s => (2 * m + s % 2 + s) / 2, both fun m s => (2 * m + s % 2 - s) / 2]
  | _ => subs

/-- A frame at a byte whose header was read: its samples and the byte after it. -/
def flacFrame (d : Array Byte) (o : Nat) (h : FlacHeader) : Option (List (Array Int) × Nat) :=
  let depths := match h.channels with
    | 8 | 10 => [h.depth, h.depth + 1]
    | 9 => [h.depth + 1, h.depth]
    | n => List.replicate (n + 1) h.depth
  (flacSubframes d h.block depths (8 * (o + h.size)) []).map fun r => (flacChannels h.channels r.1, ceilDiv r.2 8)

/-- The next byte at which a frame header stands, or the end. -/
def flacResync (i : FlacInfo) (bs : Bytes) : (fuel o : Nat) → Nat
  | 0, _ => bs.length
  | fuel + 1, o => if bs.length ≤ o then bs.length else if (flacHeader i bs o).isSome then o else flacResync i bs fuel (o + 1)

/-- The frames from a byte on: samples with their place, and the first damage. A damaged frame gives none; one that cannot be
decoded and has no frame after it ran past the end of the input. -/
def flacFrames (i : FlacInfo) (bs : Bytes) (d : Array Byte) : (fuel o : Nat) → List (Nat × List (Array Int)) → Option Damage →
    List (Nat × List (Array Int)) × Option Damage
  | 0, _, acc, dmg => (acc, dmg)
  | fuel + 1, o, acc, dmg =>
    let hurt := fun (code : Nat) => dmg.or (some { damageAt code o with unit := 6 })
    let next := flacResync i bs bs.length (o + 1)
    let skip := fun (code : Nat) => flacFrames i bs d fuel next acc (hurt code)
    if bs.length ≤ o then (acc, dmg) else
    match flacHeader i bs o with
    | none => skip (if bs.length < o + 6 then dmgTruncated else dmgSyntax)
    | some h =>
      let channels := if h.channels < 8 then h.channels + 1 else 2
      if h.depth ≠ i.depth || channels ≠ i.channels then skip dmgSyntax else
      match flacFrame d o h with
      | none => skip (if next = bs.length then dmgTruncated else dmgSyntax)
      | some (s, next) =>
        if bs.length < next + 2 then (acc, hurt dmgTruncated)
        else if crcMsb 16 0x8005 (sliceAt bs o (next - o)) ≠ beFieldAt bs next 2 then flacFrames i bs d fuel (next + 2) acc (hurt dmgChecksum)
        else flacFrames i bs d fuel (next + 2) (acc ++ [(h.start, s)]) dmg

/-- lib.flac_dec (R109): a damaged frame and a missing tail are zero (Table 4-9). -/
def flacDecode (bs : Bytes) : AudioResult :=
  let i := flacInfo (bs.drop 8)
  if bs.take 4 ≠ ascii "fLaC" || fieldAt bs 4 1 % 128 ≠ 0 || beFieldAt bs 5 3 ≠ 34 || bs.length < 42 then .unusable
  else if i.depth < 8 || 24 < i.depth || 384000 < i.rate then .unsupported
  else
    match flacBlocks bs bs.length 4 with
    | none => .unusable
    | some o =>
      let r := flacFrames i bs bs.toArray (bs.length + 1) o [] none
      let seen := r.1.foldl (fun n f => max n (f.1 + (f.2.headD #[]).size)) 0
      let total := if i.total = 0 then seen else i.total
      let blank : Array (Bool × List Int) := Array.replicate total (true, List.replicate i.channels 0)
      let filled := r.1.foldl (fun (a : Array (Bool × List Int)) f =>
        (List.range (f.2.headD #[]).size).foldl (fun a k => a.setIfInBounds (f.1 + k) (false, f.2.map fun c => c.getD k 0)) a) blank
      let short := if seen < total then some { damageAt dmgTruncated bs.length with unit := 6 } else none
      .stream ⟨i.channels, i.depth, false, filled, r.2.or short⟩

/-! ### WAV -/

/-- The chunks of a RIFF form from a byte on: id, place of the data, length as it is written. -/
def riffChunks (bs : Bytes) : (fuel o : Nat) → List (Bytes × Nat × Nat)
  | 0, _ => []
  | fuel + 1, o =>
    if bs.length < o + 8 then [] else
    let n := fieldAt bs (o + 4) 4
    (sliceAt bs o 4, o + 8, n) :: riffChunks bs fuel (o + 8 + roundUp n 2)

/-- The rest of the SubFormat of WAVE_FORMAT_EXTENSIBLE after its format code. -/
def wavGuid : Bytes := [0, 0, 0, 0, 0x10, 0, 0x80, 0, 0, 0xAA, 0, 0x38, 0x9B, 0x71]

/-- lib.wav_pcm (R109): a missing tail is zero (Table 4-9). -/
def wavDecode (bs : Bytes) : AudioResult :=
  let chunks := riffChunks bs bs.length 12
  let find := fun (id : String) => chunks.find? fun c => c.1 = ascii id
  match find "fmt ", find "data" with
  | some (_, f, flen), some (_, at_, n) =>
    let tag := fieldAt bs f 2
    let channels := fieldAt bs (f + 2) 2
    let depth := fieldAt bs (f + 14) 2
    let tag2 := if tag = 0xFFFE && 40 ≤ flen && sliceAt bs (f + 26) 14 = wavGuid then fieldAt bs (f + 24) 2 else tag
    if bs.take 4 ≠ ascii "RIFF" || sliceAt bs 8 4 ≠ ascii "WAVE" || flen < 16 || channels = 0 then .unusable
    else if 8 < channels || !((tag2 = 1 && [8, 16, 24, 32].contains depth) || (tag2 = 3 && depth = 32)) then .unsupported
    else
      let step := channels * (depth / 8)
      let have_ := min n (bs.length - at_) / step
      let value := fun (o : Nat) =>
        if tag2 = 3 then ((fieldAt bs o 4 : Nat) : Int)
        else if depth = 8 then ((fieldAt bs o 1 : Nat) : Int) - 128
        else signedOf depth (fieldAt bs o (depth / 8))
      let sample := fun (k : Nat) => (List.range channels).map fun c => value (at_ + k * step + c * (depth / 8))
      .stream ⟨channels, depth, tag2 = 3,
        ((List.range (n / step)).map fun k => if k < have_ then (false, sample k) else (true, List.replicate channels 0)).toArray,
        if bs.length < at_ + n then some { damageAt dmgTruncated bs.length with unit := 6 } else none⟩
  | _, _ => .unusable

/-! ### Opus -/

/-- lib.opus_dec (R109): the identification header of RFC 7845 gives the channels and the mapping family; what the decoder
then computes, its packet loss concealment included, is a constant of Config. -/
def opusDecode (bs : Bytes) : AudioResult :=
  match oggPageAt bs with
  | none => .unusable
  | some p =>
    let head := p.body
    let channels := fieldAt head 9 1
    if head.take 8 ≠ ascii "OpusHead" || head.length < 19 || channels = 0 then .unusable
    else if 1 < fieldAt head 18 1 || 8 < channels then .unsupported
    else
      let r := Config.opusSamples bs
      .stream ⟨channels, 32, true, (r.1.map fun s => (s.1, s.2.map fun v => ((v % 2 ^ 32 : Nat) : Int))).toArray, r.2⟩

/-! ### Output -/

/-- The bytes of a sample in the output type: 16-bit integers as s16 and floats as fp32 as they are; zero as zero; what else
becomes of a sample the spec does not state. -/
def audioSample (s16 float : Bool) (depth : Nat) (v : Int) : Bytes :=
  if s16 then leBytes 2 (if v = 0 then 0 else if depth = 16 && !float then wrapInt 16 v else Config.audioToS16 float depth v)
  else leBytes 4 (if v = 0 then 0 else if float then wrapInt 32 v else Config.audioToFp32 depth v)

/-- A clip: its samples, concealed and zero beyond the end of the stream, and whether it reaches beyond. COUNT 0 is to the
end (Table 4-14). -/
def AudioStream.clip (a : AudioStream) (offset count : Nat) : List (Bool × List Int) × Bool :=
  let n := if count = 0 then a.samples.size - offset else count
  ((List.range n).map fun i => a.samples.getD (offset + i) (true, List.replicate a.channels 0), decide (a.samples.size < offset + n))

/-- The output of a clip. Its layout over the channels the spec does not state. -/
def audioBytes (s16 : Bool) (a : AudioStream) (clip : List (Bool × List Int)) : Bytes :=
  if Config.audioPlanar then
    (List.range a.channels).flatMap fun c => clip.flatMap fun s => audioSample s16 a.float a.depth (s.2.getD c 0)
  else clip.flatMap fun s => s.2.flatMap (audioSample s16 a.float a.depth)

end Sys2Proof.Machine
end

