-- ==== Sys2Proof/Machine/Jpeg.lean ====
section
/-! DEFINITION. The decoding of JPEG images within the limits of R104, the concealment of R119 and the split of R121. The format
is PRESUMED from ITU-T T.81, which R104 names; what the spec leaves open beside it is in log entry 16. -/

namespace Sys2Proof.Machine

/-! ### Entropy-coded data -/

/-- The bytes between two markers without their stuffing, each with its place in the input. -/
structure JpegSegment where
  /-- m of the RSTm that begins it; none for the first of a scan. -/
  restart : Option Nat
  data : Array Byte
  places : Array Nat
  /-- Place of what ends it, and whether that is the end of the input. -/
  stop : Nat
  cut : Bool
deriving DecidableEq, Repr

/-- One segment from a byte on. -/
def jpegSegment (d : Array Byte) : (fuel o : Nat) → JpegSegment → JpegSegment
  | 0, o, s => { s with stop := o, cut := true }
  | fuel + 1, o, s =>
    let next := fun (n : Nat) => jpegSegment d fuel (o + n) { s with data := s.data.push (d.getD o 0), places := s.places.push o }
    if o ≥ d.size then { s with stop := o, cut := true }
    else if d.getD o 0 ≠ 0xFF then next 1
    else if o + 1 ≥ d.size then { s with stop := o, cut := true }
    else if d.getD (o + 1) 0 = 0 then next 2
    else { s with stop := o }

/-- Is there an RSTm at a byte? -/
def restartAt (d : Array Byte) (o : Nat) : Option Nat :=
  let b := (d.getD (o + 1) 0).toNat
  if d.getD o 0 = 0xFF && 0xD0 ≤ b && b ≤ 0xD7 then some (b - 0xD0) else none

/-- The segments of a scan from a byte on. -/
def jpegSegments (d : Array Byte) : (fuel o : Nat) → Option Nat → List JpegSegment
  | 0, _, _ => []
  | fuel + 1, o, m =>
    let s := jpegSegment d (d.size + 1) o ⟨m, #[], #[], o, false⟩
    match restartAt d s.stop with
    | some m => s :: jpegSegments d fuel (s.stop + 2) (some m)
    | none => [s]

/-- Why a unit could not be decoded: its data ended, or an invalid code stands in it. -/
inductive JpegStop where
  | ended
  | invalid
deriving DecidableEq, Repr

/-- `n` bits at a bit position of a segment, and the position after them. -/
def jpegBits (d : Array Byte) (pos n : Nat) : Except JpegStop (Nat × Nat) :=
  match msbBits d pos n with
  | none => .error .ended
  | some v => .ok (v, pos + n)

/-- A Huffman table: codes of each length 1 to 16, and the values in code order. -/
structure JpegCode where
  counts : List Nat
  vals : Array Nat
deriving DecidableEq, Repr

/-- Decode a value, one bit at a time. -/
def jpegWalk (d : Array Byte) (vals : Array Nat) : List Nat → (pos code first index : Nat) → Except JpegStop (Nat × Nat)
  | [], _, _, _, _ => .error .invalid
  | c :: cs, pos, code, first, index =>
    match jpegBits d pos 1 with
    | .error e => .error e
    | .ok (b, pos) =>
      let code := code + b
      if code < first + c then .ok (vals.getD (index + (code - first)) 0, pos)
      else jpegWalk d vals cs pos (2 * code) (2 * (first + c)) (index + c)

/-- Decode a value of a table. -/
def JpegCode.next (t : JpegCode) (d : Array Byte) (pos : Nat) : Except JpegStop (Nat × Nat) := jpegWalk d t.vals t.counts pos 0 0 0

/-- The signed value of `s` additional bits. -/
def jpegExtend (v s : Nat) : Int := if s ≠ 0 ∧ v < 2 ^ (s - 1) then (v : Int) + 1 - 2 ^ s else v

/-- A value of `s` additional bits. -/
def jpegSigned (d : Array Byte) (pos s : Nat) : Except JpegStop (Int × Nat) :=
  (jpegBits d pos s).map fun r => (jpegExtend r.1 s, r.2)

/-! ### The frame -/

/-- A component of a frame. -/
structure JpegComponent where
  id : Nat
  hSamp : Nat
  vSamp : Nat
  quantId : Nat
  /-- Quantization table in force at its first scan. -/
  quant : Option (Array Nat)
  blockCols : Nat
  blockRows : Nat
  /-- Coefficients of every block in raster order, each in zigzag order; and whether a block has a DC value. -/
  coefs : Array (Array Int)
  hasDc : Array Bool
deriving DecidableEq, Repr

/-- A frame. -/
structure JpegFrame where
  w : Nat
  h : Nat
  progressive : Bool
  comps : Array JpegComponent
deriving DecidableEq, Repr

/-- Greatest sampling factors of a frame. -/
def JpegFrame.hMax (f : JpegFrame) : Nat := f.comps.foldl (fun m c => max m c.hSamp) 1
def JpegFrame.vMax (f : JpegFrame) : Nat := f.comps.foldl (fun m c => max m c.vSamp) 1

/-- Columns and rows of MCUs of a scan of all components. -/
def JpegFrame.mcuCols (f : JpegFrame) : Nat := ceilDiv f.w (8 * f.hMax)
def JpegFrame.mcuRows (f : JpegFrame) : Nat := ceilDiv f.h (8 * f.vMax)

/-- Tables in force: quantization and Huffman tables by number, and the restart interval. -/
structure JpegTables where
  quant : Tab (Array Nat)
  dc : Tab JpegCode
  ac : Tab JpegCode
  interval : Nat
deriving DecidableEq, Repr

/-- A scan: its components with their tables, and its coefficients and bits. -/
structure JpegScan where
  comps : List (Nat × JpegCode × JpegCode)
  first : Nat
  last : Nat
  high : Nat
  low : Nat
deriving DecidableEq, Repr

/-- Columns and MCUs of a scan: of one component every block that the image reaches is one. -/
def JpegScan.grid (s : JpegScan) (f : JpegFrame) : Nat × Nat :=
  match s.comps with
  | [(i, _)] =>
    match f.comps[i]? with
    | some c =>
      let cols := ceilDiv (ceilDiv (f.w * c.hSamp) f.hMax) 8
      (cols, cols * ceilDiv (ceilDiv (f.h * c.vSamp) f.vMax) 8)
    | none => (1, 0)
  | _ => (f.mcuCols, f.mcuCols * f.mcuRows)

/-- The blocks of an MCU in order: position of the component in the scan, and the block. -/
def JpegScan.blocksOf (s : JpegScan) (f : JpegFrame) (mcu : Nat) : List (Nat × Nat) :=
  let cols := (s.grid f).1
  match s.comps with
  | [(i, _)] => [(0, mcu / cols * ((f.comps[i]?.map (·.blockCols)).getD 0) + mcu % cols)]
  | cs => cs.zipIdx.flatMap fun e =>
    match f.comps[e.1.1]? with
    | some c => (List.range (c.hSamp * c.vSamp)).map fun k =>
        (e.2, (mcu / cols * c.vSamp + k / c.hSamp) * c.blockCols + mcu % cols * c.hSamp + k % c.hSamp)
    | none => []

/-- What an interval carries from MCU to MCU: bit position, DC predictors, blocks left of an end-of-band run. -/
structure JpegRun where
  pos : Nat
  preds : List Int
  eob : Nat
deriving DecidableEq, Repr

/-! ### Blocks -/

/-- AC coefficients of a baseline block from index `k` on. -/
def jpegAc (d : Array Byte) (t : JpegCode) : (fuel k pos : Nat) → Array Int → Except JpegStop (Array Int × Nat)
  | 0, _, pos, c => .ok (c, pos)
  | fuel + 1, k, pos, c =>
    if k > 63 then .ok (c, pos) else
    match t.next d pos with
    | .error e => .error e
    | .ok (rs, pos) =>
      let r := rs / 16
      let s := rs % 16
      if s = 0 then (if r = 15 then jpegAc d t fuel (k + 16) pos c else if r = 0 then .ok (c, pos) else .error .invalid)
      else if k + r > 63 || s > 10 then .error .invalid
      else
        match jpegSigned d pos s with
        | .error e => .error e
        | .ok (v, pos) => jpegAc d t fuel (k + r + 1) pos (c.setIfInBounds (k + r) v)

/-- The DC difference of a block. -/
def jpegDc (d : Array Byte) (t : JpegCode) (pos : Nat) : Except JpegStop (Int × Nat) :=
  match t.next d pos with
  | .error e => .error e
  | .ok (s, pos) => if s > 11 then .error .invalid else jpegSigned d pos s

/-- First scan of a band: coefficients from index `k` on. The result has the blocks left of an end-of-band run. -/
def jpegBand (d : Array Byte) (t : JpegCode) (last low : Nat) : (fuel k pos : Nat) → Array Int → Except JpegStop (Array Int × Nat × Nat)
  | 0, _, pos, c => .ok (c, 0, pos)
  | fuel + 1, k, pos, c =>
    if k > last then .ok (c, 0, pos) else
    match t.next d pos with
    | .error e => .error e
    | .ok (rs, pos) =>
      let r := rs / 16
      let s := rs % 16
      if s = 0 then
        if r = 15 then jpegBand d t last low fuel (k + 16) pos c
        else (jpegBits d pos r).map fun x => (c, 2 ^ r + x.1 - 1, x.2)
      else if k + r > last || s > 10 then .error .invalid
      else
        match jpegSigned d pos s with
        | .error e => .error e
        | .ok (v, pos) => jpegBand d t last low fuel (k + r + 1) pos (c.setIfInBounds (k + r) (v * 2 ^ low))

/-- One more bit of the coefficients from index `k` on that are not zero, past `skip` ones that are: stops at the zero after
them, or behind `last`. -/
def jpegCorrect (d : Array Byte) (last low : Nat) : (fuel skip k pos : Nat) → Array Int → Except JpegStop (Array Int × Nat × Nat)
  | 0, _, k, pos, c => .ok (c, k, pos)
  | fuel + 1, skip, k, pos, c =>
    let v := c.getD k 0
    if k > last then .ok (c, k, pos)
    else if v = 0 then (if skip = 0 then .ok (c, k, pos) else jpegCorrect d last low fuel (skip - 1) (k + 1) pos c)
    else
      match jpegBits d pos 1 with
      | .error e => .error e
      | .ok (b, pos) =>
        let c := if b = 1 then c.setIfInBounds k (if v < 0 then v - 2 ^ low else v + 2 ^ low) else c
        jpegCorrect d last low fuel skip (k + 1) pos c

/-- One more bit of a band from index `k` on; the result has the blocks left of an end-of-band run, this one counted. -/
def jpegRefine (d : Array Byte) (t : JpegCode) (last low : Nat) : (fuel k pos : Nat) → Array Int → Except JpegStop (Array Int × Nat × Nat)
  | 0, _, pos, c => .ok (c, 0, pos)
  | fuel + 1, k, pos, c =>
    if k > last then .ok (c, 0, pos) else
    match t.next d pos with
    | .error e => .error e
    | .ok (rs, pos) =>
      let r := rs / 16
      let s := rs % 16
      if s > 1 then .error .invalid
      else if s = 0 && r < 15 then
        match jpegBits d pos r with
        | .error e => .error e
        | .ok (x, pos) => (jpegCorrect d last low 64 64 k pos c).map fun z => (z.1, 2 ^ r + x, z.2.2)
      else
        match jpegBits d pos s with
        | .error e => .error e
        | .ok (b, pos) =>
          match jpegCorrect d last low 64 r k pos c with
          | .error e => .error e
          | .ok (c, k, pos) =>
            if s = 1 && k > last then .error .invalid
            else jpegRefine d t last low fuel (k + 1) pos (if s = 1 then c.setIfInBounds k (if b = 1 then 2 ^ low else -(2 ^ low)) else c)

/-- A block of a scan: its coefficients, and what goes on to the next. `i` is the component's place in the scan. -/
def jpegBlock (s : JpegScan) (progressive : Bool) (d : Array Byte) (i : Nat) (dcT acT : JpegCode) (run : JpegRun) (c : Array Int) :
    Except JpegStop (Array Int × JpegRun) :=
  let pred := run.preds.getD i 0
  if !progressive then
    match jpegDc d dcT run.pos with
    | .error e => .error e
    | .ok (v, pos) =>
      (jpegAc d acT 64 1 pos ((Array.replicate 64 (0 : Int)).setIfInBounds 0 (pred + v))).map fun r =>
        (r.1, { run with pos := r.2, preds := run.preds.set i (pred + v) })
  else if s.first = 0 then
    if s.high = 0 then
      (jpegDc d dcT run.pos).map fun r =>
        (c.setIfInBounds 0 ((pred + r.1) * 2 ^ s.low), { run with pos := r.2, preds := run.preds.set i (pred + r.1) })
    else
      (jpegBits d run.pos 1).map fun r =>
        (if r.1 = 1 then c.setIfInBounds 0 (c.getD 0 0 + 2 ^ s.low) else c, { run with pos := r.2 })
  else if s.high = 0 then
    if 0 < run.eob then .ok (c, { run with eob := run.eob - 1 })
    else (jpegBand d acT s.last s.low 64 s.first run.pos c).map fun r => (r.1, { run with pos := r.2.2, eob := r.2.1 })
  else if 0 < run.eob then
    (jpegCorrect d s.last s.low 64 64 s.first run.pos c).map fun r => (r.1, { run with pos := r.2.2, eob := run.eob - 1 })
  else (jpegRefine d acT s.last s.low 64 s.first run.pos c).map fun r => (r.1, { run with pos := r.2.2, eob := r.2.1 - 1 })

/-- Put a block's coefficients into a frame. A scan that holds the DC coefficient gives the block its DC value. -/
def JpegFrame.put (f : JpegFrame) (s : JpegScan) (i block : Nat) (c : Array Int) : JpegFrame :=
  { f with comps := f.comps.modify i fun k =>
      { k with coefs := k.coefs.setIfInBounds block c, hasDc := if s.first = 0 then k.hasDc.setIfInBounds block true else k.hasDc } }

/-- The blocks of one MCU. -/
def jpegMcu (s : JpegScan) (d : Array Byte) : List (Nat × Nat) → JpegFrame → JpegRun → Except JpegStop (JpegFrame × JpegRun)
  | [], f, run => .ok (f, run)
  | (e, block) :: rest, f, run =>
    match s.comps[e]? with
    | none => .error .invalid
    | some (i, dcT, acT) =>
      let old := ((f.comps[i]?).bind fun k => k.coefs[block]?).getD #[]
      match jpegBlock s f.progressive d e dcT acT run old with
      | .error x => .error x
      | .ok (c, run) => jpegMcu s d rest (f.put s i block c) run

/-- MCUs of an interval, as far as they can be decoded: the frame with those, how many, where the last one ended, and why
they end early. -/
def jpegMcus (s : JpegScan) (d : Array Byte) : (n mcu : Nat) → JpegFrame → JpegRun → JpegFrame × Nat × JpegRun × Option JpegStop
  | 0, mcu, f, run => (f, mcu, run, none)
  | n + 1, mcu, f, run =>
    match jpegMcu s d (s.blocksOf f mcu) f run with
    | .error e => (f, mcu, run, some e)
    | .ok (f, run) => jpegMcus s d n (mcu + 1) f run

/-! ### Scans (R119) -/

/-- A scan at work: the frame, and the first damage. -/
structure JpegWork where
  frame : JpegFrame
  damage : Option Damage
deriving DecidableEq, Repr

/-- Damage at an MCU of a scan; an earlier one is the one that counts. -/
def JpegWork.damaged (w : JpegWork) (cols mcu code at_ : Nat) : JpegWork :=
  { w with damage := w.damage.or (some ⟨code, at_, 1, 0, mcu % cols, mcu / cols⟩) }

/-- The place in the input of a bit of a segment. -/
def JpegSegment.place (s : JpegSegment) (pos : Nat) : Nat := s.places.getD (pos / 8) s.stop

/-- Decode the segments of a scan, of which the first is that of interval `i`. In a baseline scan a segment after damage
belongs to the first interval that its RSTm can begin; what lies between stays grey. In a progressive scan nothing after
damage counts (Table 4-9). -/
def jpegIntervals (s : JpegScan) (interval cols total : Nat) : List JpegSegment → (i : Nat) → JpegWork → JpegWork
  | [], _, w => w
  | g :: rest, i, w =>
    let from_ := i * interval
    if total ≤ from_ then w else
    let n := if interval = 0 then total else min interval (total - from_)
    let r := jpegMcus s g.data n from_ w.frame ⟨0, List.replicate s.comps.length 0, 0⟩
    let w2 := { w with frame := r.1 }
    let fin := decide (total ≤ from_ + n)
    let more := (rest.head?).bind (·.restart)
    let atStop := if g.cut then dmgTruncated else dmgSyntax
    -- the MCU at which damage begins, its code and its place
    let hurt : Option (Nat × Nat × Nat) := match r.2.2.2 with
      | some .invalid => some (r.2.1, dmgSyntax, g.place r.2.2.1.pos)
      | some .ended => some (r.2.1, atStop, g.stop)
      | none =>
        if r.2.2.1.pos + 8 ≤ 8 * g.data.size then some (min r.2.1 (total - 1), dmgSyntax, g.place (r.2.2.1.pos + 7))
        else if !fin && more ≠ some (i % 8) then some (r.2.1, atStop, g.stop)
        else none
    let w3 := match hurt with
      | some (mcu, code, at_) => w2.damaged cols mcu code at_
      | none => w2
    match more with
    | none => w3
    | some m =>
      if interval = 0 || (hurt.isSome && w.frame.progressive) then w3
      else jpegIntervals s interval cols total rest (i + (m + 8 - i % 8) % 8 + 1) w3

/-! ### Markers -/

/-- Zigzag order: place in the block, in row order, of each coefficient. -/
def zigzag : Array Nat :=
  ((List.range 15).flatMap fun s =>
    let ks := (List.range (s + 1)).filter fun y => y < 8 && s - y < 8
    (if s % 2 = 1 then ks else ks.reverse).map fun y => 8 * y + (s - y)).toArray

/-- The decoder between markers. -/
structure JpegState where
  tables : JpegTables
  frame : Option JpegFrame
  orientation : Nat
  damage : Option Damage
  /-- Most restart intervals of a scan. -/
  intervals : Nat
  unsupported : Bool
deriving DecidableEq, Repr

/-- Damage outside of any MCU. -/
def JpegState.fail (j : JpegState) (code at_ : Nat) : JpegState := { j with damage := j.damage.or (some (damageAt code at_)) }

/-- Quantization tables of a DQT segment. -/
def readDqt : (fuel : Nat) → Bytes → Tab (Array Nat) → Option (Tab (Array Nat))
  | 0, b, t => if b.isEmpty then some t else none
  | fuel + 1, b, t =>
    if b.isEmpty then some t else
    let p := fieldAt b 0 1
    let wide := p / 16
    let n := 1 + 64 * (wide + 1)
    if wide > 1 || p % 16 > 3 || b.length < n then none
    else readDqt fuel (b.drop n) (t.insert (p % 16) ((List.range 64).map fun i => beFieldAt b (1 + (wide + 1) * i) (wide + 1)).toArray)

/-- Does a list of counts fit the codes of its lengths? -/
def codeFits (counts : List Nat) : Bool :=
  (counts.foldl (fun (r : Bool × Nat) c => (r.1 && decide (c ≤ 2 * r.2), 2 * r.2 - c)) (true, 1)).1

/-- Huffman tables of a DHT segment: those of class 0 are for DC. -/
def readDht : (fuel : Nat) → Bytes → JpegTables → Option JpegTables
  | 0, b, t => if b.isEmpty then some t else none
  | fuel + 1, b, t =>
    if b.isEmpty then some t else
    let p := fieldAt b 0 1
    let counts := (List.range 16).map fun i => fieldAt b (1 + i) 1
    let n := counts.foldl (· + ·) 0
    let code : JpegCode := ⟨counts, ((b.drop 17).take n).map (·.toNat) |>.toArray⟩
    if p / 16 > 1 || p % 16 > 3 || n > 256 || b.length < 17 + n || !codeFits counts then none
    else
      readDht fuel (b.drop (17 + n))
        (if p / 16 = 0 then { t with dc := t.dc.insert (p % 16) code } else { t with ac := t.ac.insert (p % 16) code })

/-- What a frame header gives. -/
inductive SofResult where
  | unusable
  | unsupported
  | frame (f : JpegFrame)
deriving DecidableEq, Repr

/-- Read a frame header (R104). -/
def readSof (marker : Nat) (b : Bytes) : SofResult :=
  let n := fieldAt b 5 1
  let h := beFieldAt b 1 2
  let w := beFieldAt b 3 2
  let factors := (List.range n).map fun i => (fieldAt b (7 + 3 * i) 1 / 16, fieldAt b (7 + 3 * i) 1 % 16)
  if b.length < 6 || b.length < 6 + 3 * n || w = 0 || h = 0 then .unusable
  else if (marker ≠ 0xC0 && marker ≠ 0xC2) || fieldAt b 0 1 ≠ 8 || (n ≠ 1 && n ≠ 3) || 2 ^ 28 < w * h ||
      factors.any (fun f => f.1 < 1 || 2 < f.1 || f.2 < 1 || 2 < f.2) then .unsupported
  else
    let hm := factors.foldl (fun m f => max m f.1) 1
    let vm := factors.foldl (fun m f => max m f.2) 1
    .frame ⟨w, h, marker = 0xC2, (factors.zipIdx.map fun f =>
      let cols := ceilDiv w (8 * hm) * f.1.1
      let rows := ceilDiv h (8 * vm) * f.1.2
      { id := fieldAt b (6 + 3 * f.2) 1, hSamp := f.1.1, vSamp := f.1.2, quantId := fieldAt b (8 + 3 * f.2) 1, quant := none
        blockCols := cols, blockRows := rows, coefs := Array.replicate (cols * rows) (Array.replicate 64 0)
        hasDc := Array.replicate (cols * rows) false }).toArray⟩

/-- Read a scan header: the frame with the quantization tables of its components, and the scan. -/
def readSos (t : JpegTables) (f : JpegFrame) (b : Bytes) : Option (JpegFrame × JpegScan) :=
  let n := fieldAt b 0 1
  let first := fieldAt b (1 + 2 * n) 1
  let last := fieldAt b (2 + 2 * n) 1
  let high := fieldAt b (3 + 2 * n) 1 / 16
  let low := fieldAt b (3 + 2 * n) 1 % 16
  let ids := (List.range n).map fun i => f.comps.findIdx? fun c => c.id = fieldAt b (1 + 2 * i) 1
  let table := fun (i : Nat) => fieldAt b (2 + 2 * i) 1
  let empty : JpegCode := ⟨[], #[]⟩
  let comps := ids.zipIdx.map fun x => (x.1.getD 0, (t.dc.find (table x.2 / 16)).getD empty, (t.ac.find (table x.2 % 16)).getD empty)
  let needDc := !f.progressive || (first = 0 && high = 0)
  let needAc := !f.progressive || first ≠ 0
  let quants := f.comps.toList.map fun c => c.quant.or (t.quant.find c.quantId)
  let range := if f.progressive then
      decide (last ≤ 63 ∧ first ≤ last) && (first ≠ 0 || last = 0) && (first = 0 || n = 1) && (high = 0 || high = low + 1) && decide (low ≤ 13)
    else first = 0 && last = 63 && high = 0 && low = 0
  if b.length ≠ 4 + 2 * n || n = 0 || 4 < n || ids.any Option.isNone || !ids.Nodup || !range then none
  else if comps.any (fun c => ((quants.getD c.1 none).isNone) || (needDc && c.2.1.counts.isEmpty) || (needAc && c.2.2.counts.isEmpty)) then none
  else
    some ({ f with comps := f.comps.mapIdx fun i c => if comps.any (fun x => x.1 = i) then { c with quant := quants.getD i none } else c },
      ⟨comps, first, last, high, low⟩)

/-- Orientation of an EXIF segment: tag 0x0112 of its first directory (R104). -/
def exifOrientation (b : Bytes) : Option Nat :=
  let t := b.drop 6
  let big := t.take 2 = ascii "MM"
  let num := fun (o n : Nat) => if big then beFieldAt t o n else fieldAt t o n
  let dir := num 4 4
  if b.take 6 ≠ ascii "Exif" ++ [0, 0] || !(big || t.take 2 = ascii "II") then none
  else ((List.range (num dir 2)).find? fun i => num (dir + 2 + 12 * i) 2 = 0x0112).map fun i => num (dir + 10 + 12 * i) 2

/-- Markers and their segments from a byte on, to EOI or to a fault. -/
def jpegMarkers (bs : Bytes) (d : Array Byte) : (fuel o : Nat) → JpegState → JpegState
  | 0, o, j => j.fail dmgTruncated o
  | fuel + 1, o, j =>
    let m := (d.getD (o + 1) 0).toNat
    let len := beFieldAt bs (o + 2) 2
    let body := sliceAt bs (o + 4) (len - 2)
    let next := fun (j : JpegState) => jpegMarkers bs d fuel (o + 2 + len) j
    let take := fun (r : Option JpegState) => match r with
      | some j => next j
      | none => j.fail dmgSyntax o
    if d.size < o + 2 then j.fail dmgTruncated d.size
    else if d.getD o 0 ≠ 0xFF || m = 0 then j.fail dmgSyntax o
    else if m = 0xFF then jpegMarkers bs d fuel (o + 1) j
    else if m = 0xD9 then j
    else if m < 0xC0 || (0xD0 ≤ m && m ≤ 0xD8) then j.fail dmgSyntax o
    else if d.size < o + 4 || d.size < o + 2 + len then j.fail dmgTruncated d.size
    else if len < 2 then j.fail dmgSyntax (o + 2)
    else
      match m with
      | 0xDB => take ((readDqt body.length body j.tables.quant).map fun q => { j with tables := { j.tables with quant := q } })
      | 0xC4 => take ((readDht body.length body j.tables).map fun t => { j with tables := t })
      | 0xDD => take (if len = 4 then some { j with tables := { j.tables with interval := beFieldAt body 0 2 } } else none)
      | 0xE1 => next { j with orientation := (exifOrientation body).getD j.orientation }
      | 0xDA =>
        match j.frame.bind fun f => readSos j.tables f body with
        | none => j.fail dmgSyntax o
        | some (f, s) =>
          let segs := jpegSegments d (d.size + 1) (o + 2 + len) none
          let grid := s.grid f
          let w := jpegIntervals s j.tables.interval grid.1 grid.2 segs 0 ⟨f, j.damage⟩
          let stop := (segs.getLast?.map (·.stop)).getD d.size
          jpegMarkers bs d fuel stop { j with frame := some w.frame, damage := w.damage, intervals := max j.intervals segs.length }
      | _ =>
        if (0xC0 ≤ m && m ≤ 0xCF && m ≠ 0xC8 && m ≠ 0xCC) then
          match readSof m body with
          | .unusable => j.fail dmgSyntax o
          | .unsupported => { j with unsupported := true }
          | .frame f => if j.frame.isSome then j.fail dmgSyntax o else next { j with frame := some f }
        else if m = 0xCC || m = 0xDE || m = 0xDF then { j with unsupported := true }
        else next j

/-! ### Pictures -/

/-- The samples of a block: grey where it has no DC value (Table 4-9). -/
def JpegComponent.block (c : JpegComponent) (i : Nat) : Array Nat :=
  if c.hasDc.getD i false then
    let z := c.coefs.getD i #[]
    let q := c.quant.getD #[]
    idctBlock (((List.range 64).foldl (fun (a : Array Int) k => a.setIfInBounds (zigzag.getD k 0) (z.getD k 0 * q.getD k 0))
      (Array.replicate 64 0)).toList)
  else Array.replicate 64 128

/-- The plane of a component. -/
def jpegPlane (w h : Nat) (c : JpegComponent) : Plane :=
  let blocks := ((List.range (c.blockCols * c.blockRows)).map c.block).toArray
  mkPlane w h fun x y => (blocks.getD (y / 8 * c.blockCols + x / 8) #[]).getD (y % 8 * 8 + x % 8) 128

/-- The picture of a frame: component planes at their coded resolution, orientation as side data (R104). -/
def jpegPicture (f : JpegFrame) (orientation : Nat) : Picture where
  w := f.w
  h := f.h
  depth := 8
  model := if f.comps.size = 3 then .ycc else .grey
  orientation := orientation
  planes := f.comps.toList.map fun c => jpegPlane (ceilDiv (f.w * c.hSamp) f.hMax) (ceilDiv (f.h * c.vSamp) f.vMax) c

/-- Restart intervals that each piece of a split baseline JPEG decodes (R121): none where it is not split. -/
def jpegPieces (pixels intervals : Nat) (baseline damaged : Bool) : List Nat :=
  if baseline && 4194304 ≤ pixels && 2 ≤ intervals && !damaged then
    let p := min 16 (min intervals (ceilDiv pixels 4194304))
    (List.range p).map fun i => intervals / p + if i < intervals % p then 1 else 0
  else []

/-- What a decode engine makes of the bytes of a JPEG. -/
inductive JpegResult where
  /-- No usable dimensions or format. -/
  | unusable
  /-- Outside the limits of R104. -/
  | unsupported
  /-- A picture, its grey blocks and its blocks in all, the pieces it was decoded in, and the first damage. -/
  | image (p : Picture) (grey blocks : Nat) (pieces : List Nat) (damage : Option Damage)
deriving DecidableEq, Repr

/-- Decode a JPEG (R104, R119, R121). -/
def jpegDecode (bs : Bytes) : JpegResult :=
  let j := jpegMarkers bs bs.toArray (bs.length + 1) 2 ⟨⟨Tab.empty, Tab.empty, Tab.empty, 0⟩, none, 1, none, 0, false⟩
  if bs.take 2 ≠ [0xFF, 0xD8] then .unusable
  else if j.unsupported then .unsupported
  else
    match j.frame with
    | none => .unusable
    | some f =>
      .image (jpegPicture f j.orientation)
        (f.comps.foldl (fun n c => n + c.hasDc.count false) 0) (f.comps.foldl (fun n c => n + c.hasDc.size) 0)
        (jpegPieces (f.w * f.h) j.intervals (!f.progressive) j.damage.isSome) j.damage

end Sys2Proof.Machine
end

