-- ==== Sys2Proof/Machine/Model.lean ====
section
/-! DEFINITION. The encoder-model runner of the library (R90 to R92): the layout of the weights, the layers, pooling and the
output head. Activations are bf16; matrix products are formed by WDOT in fp32. The approximations of its functions and the
order of its reductions are constants without a body (log entry 15). -/

namespace Sys2Proof.Machine

/-- A value of fp32 as bf16, and one of bf16 as fp32. -/
def narrow (v : Nat) : Nat := (pack bf16 (unpack fp32 v)).1
def widen (v : Nat) : Nat := (toFp32 bf16 v).1

/-- Sum and product in fp32. -/
def fAdd (a b : Nat) : Nat := (fpAdd fp32 a b).1
def fMul (a b : Nat) : Nat := (fpMul fp32 a b).1

/-- A number in fp32. -/
def fOf (n : Nat) : Nat := (pack fp32 (.fin false n 0)).1

/-- A sum in the order of the routine (R89). -/
def modelSum (l : List Nat) : Nat := (Config.modelOrder l.length).foldl (fun acc i => fAdd acc (l.getD i 0)) 0

/-- The product of two bf16 vectors: WDOT lanes over pairs of elements, and the sum of the lanes (R92). -/
def modelDot (a b : List Nat) : Nat :=
  let at_ := fun (l : List Nat) i => l.getD i 0
  (Config.modelLanes (ceilDiv a.length 2)).foldl (fun sum lane =>
    fAdd sum (lane.foldl (fun acc k => (dotFp bf16 acc (at_ a (2 * k)) (at_ b (2 * k)) (at_ a (2 * k + 1)) (at_ b (2 * k + 1))).1) 0)) 0

/-- What a model description says of the shape (Table 3-11). -/
structure ModelShape where
  layers : Nat
  heads : Nat
  width : Nat
  rms : Bool
  hidden : Nat
  ffn : Nat
  maxInput : Nat
  act : Nat
  rotary : Bool
  output : Nat
  outs : Nat
  vocab : Nat
  ropeBase : Nat
  eps : Nat

/-- The shape that a model description gives. -/
def modelShapeOf (b : Bytes) : ModelShape where
  layers := fieldAt b 0 1
  heads := fieldAt b 1 1
  width := fieldAt b 2 1
  rms := fieldAt b 3 1 = 1
  hidden := fieldAt b 4 2
  ffn := fieldAt b 6 2
  maxInput := fieldAt b 8 2
  act := fieldAt b 0xA 1
  rotary := fieldAt b 0xB 1 = 1
  output := fieldAt b 0xC 1
  outs := fieldAt b 0xE 2
  vocab := fieldAt b 0x10 4
  ropeBase := fieldAt b 0x58 4
  eps := fieldAt b 0x5C 4

/-- Elements of a norm: a gain and, for LayerNorm, a bias. -/
def ModelShape.normSize (m : ModelShape) : Nat := if m.rms then m.hidden else 2 * m.hidden

/-- Elements of a square matrix with its bias. -/
def ModelShape.squareSize (m : ModelShape) : Nat := m.hidden * m.hidden + m.hidden

/-- Elements of one layer (R91). -/
def ModelShape.layerSize (m : ModelShape) : Nat :=
  2 * m.normSize + 4 * m.squareSize + (m.hidden * m.ffn + m.ffn) + (m.ffn * m.hidden + m.hidden)

/-- Element of the first layer. -/
def ModelShape.layersAt (m : ModelShape) : Nat := m.vocab * m.hidden + if m.rotary then 0 else m.maxInput * m.hidden

/-- Elements `i` to `i + n - 1` of the weights, which are bf16 and little-endian. -/
def weightsAt (w : Bytes) (i n : Nat) : List Nat := (List.range n).map fun k => fieldAt w (2 * (i + k)) 2

/-- A vector times the [rows × columns] matrix at an element of the weights, whose bias follows it: bf16. -/
def matVec (w : Bytes) (at_ rows cols : Nat) (x : List Nat) : List Nat :=
  (List.range cols).map fun j =>
    let col := (List.range rows).map fun i => fieldAt w (2 * (at_ + i * cols + j)) 2
    narrow (fAdd (modelDot x col) (widen (fieldAt w (2 * (at_ + rows * cols + j)) 2)))

/-- Elementwise sum of two bf16 vectors: the residual. -/
def addBf (a b : List Nat) : List Nat := List.zipWith (fun x y => narrow (fAdd (widen x) (widen y))) a b

/-- LayerNorm or RMSNorm in fp32, with the gain and bias at an element of the weights. -/
def modelNorm (m : ModelShape) (w : Bytes) (at_ : Nat) (x : List Nat) : List Nat :=
  let xs := x.map widen
  let inv := Config.modelRecip (fOf m.hidden)
  let mean := if m.rms then 0 else fMul (modelSum xs) inv
  let centred := xs.map fun v => fAdd v (mean ^^^ 2 ^ 31)
  let scale := Config.modelRsqrt (fAdd (fMul (modelSum (centred.map fun v => fMul v v)) inv) m.eps)
  centred.zipIdx.map fun (e : Nat × Nat) =>
    let y := fMul (fMul e.1 scale) (widen (fieldAt w (2 * (at_ + e.2)) 2))
    narrow (if m.rms then y else fAdd y (widen (fieldAt w (2 * (at_ + m.hidden + e.2)) 2)))

/-- The activation: GELU in its tanh form, SiLU or ReLU. The constants are √(2/π) and 0.044715 in fp32. -/
def modelAct (act x : Nat) : Nat :=
  let v := widen x
  let half := 0x3F000000
  let one := 0x3F800000
  narrow (
    if act = 0 then
      let inner := fMul 0x3F4C422A (fAdd v (fMul 0x3D372713 (fMul v (fMul v v))))
      fMul (fMul half v) (fAdd one (Config.modelTanh inner))
    else if act = 1 then fMul v (Config.modelRecip (fAdd one (Config.modelExp (v ^^^ 2 ^ 31))))
    else if natBit v 31 then 0 else v)

/-- The rotary position of one head's vector. -/
def rotate (m : ModelShape) (pos : Nat) (x : List Nat) : List Nat :=
  let half := m.width / 2
  (List.range m.width).map fun i =>
    let pair := if Config.rotaryNeighbours then i / 2 else i % half
    let first := if Config.rotaryNeighbours then i % 2 = 0 else i < half
    let other := if Config.rotaryNeighbours then (if i % 2 = 0 then i + 1 else i - 1) else (if i < half then i + half else i - half)
    let cs := Config.modelRotary m.ropeBase m.width pair pos
    let a := fMul (widen (x.getD i 0)) cs.1
    let b := fMul (widen (x.getD other 0)) cs.2
    narrow (fAdd a (if first then b ^^^ 2 ^ 31 else b))

/-- The softmax of a list of scores in fp32, as bf16 weights. -/
def softmax (l : List Nat) : List Nat :=
  let top := l.foldl (fun a b => (fpMinMax fp32 true a b).1) (l.headD 0)
  let es := l.map fun v => Config.modelExp (fAdd v (top ^^^ 2 ^ 31))
  let inv := Config.modelRecip (modelSum es)
  es.map fun e => narrow (fMul e inv)

/-- One head's output for one query: every token attends to every token. -/
def attend (m : ModelShape) (q : List Nat) (ks vs : List (List Nat)) : List Nat :=
  let scale := Config.modelRsqrt (fOf m.width)
  let p := softmax (ks.map fun k => fMul (modelDot q k) scale)
  (List.range m.width).map fun i => narrow (modelDot p (vs.map fun v => v.getD i 0))

/-- The vectors of one head. -/
def headOf (m : ModelShape) (h : Nat) (x : List Nat) : List Nat := (x.drop (h * m.width)).take m.width

/-- Attention over all tokens, at the four matrices of a layer. -/
def attention (m : ModelShape) (w : Bytes) (at_ : Nat) (xs : List (List Nat)) : List (List Nat) :=
  let proj := fun i => xs.map (matVec w (at_ + i * m.squareSize) m.hidden m.hidden)
  let turn := fun (l : List (List Nat)) h => l.zipIdx.map fun (e : List Nat × Nat) =>
    let x := headOf m h e.1
    if m.rotary then rotate m e.2 x else x
  let q := proj 0
  let k := proj 1
  let v := proj 2
  let heads := (List.range m.heads).map fun h =>
    let ks := turn k h
    let vs := v.map (headOf m h)
    (turn q h).map fun x => attend m x ks vs
  (List.range xs.length).map fun t =>
    matVec w (at_ + 3 * m.squareSize) m.hidden m.hidden (heads.flatMap fun h => h.getD t [])

/-- One layer at an element of the weights (R91). -/
def modelLayer (m : ModelShape) (w : Bytes) (at_ : Nat) (xs : List (List Nat)) : List (List Nat) :=
  let sq := at_ + m.normSize
  let norm2 := sq + 4 * m.squareSize
  let up := norm2 + m.normSize
  let down := up + m.hidden * m.ffn + m.ffn
  let ys := List.zipWith addBf xs (attention m w sq (xs.map (modelNorm m w at_)))
  ys.map fun y =>
    addBf y (matVec w down m.ffn m.hidden ((matVec w up m.hidden m.ffn (modelNorm m w norm2 y)).map (modelAct m.act)))

/-- The token embedding, with the learned position. -/
def embed (m : ModelShape) (w : Bytes) (pos tok : Nat) : List Nat :=
  let e := weightsAt w (tok * m.hidden) m.hidden
  if m.rotary then e else addBf e (weightsAt w (m.vocab * m.hidden + pos * m.hidden) m.hidden)

/-- The mean over the tokens, in bf16. -/
def meanPool (m : ModelShape) (xs : List (List Nat)) : List Nat :=
  let inv := Config.modelRecip (fOf xs.length)
  (List.range m.hidden).map fun i => narrow (fMul (modelSum (xs.map fun x => widen (x.getD i 0))) inv)

/-- The runner on the tokens of a sample: the output elements as bits of fp32. -/
def modelRun (desc w : Bytes) (toks : List Nat) : List Nat :=
  let m := modelShapeOf desc
  if toks.isEmpty || m.maxInput < toks.length || toks.any (m.vocab ≤ ·) then Config.modelStray desc w toks
  else
    let xs := (List.range m.layers).foldl (fun xs l => modelLayer m w (m.layersAt + l * m.layerSize) xs)
      (toks.zipIdx.map fun (t : Nat × Nat) => embed m w t.2 t.1)
    let last := m.layersAt + m.layers * m.layerSize
    let ys := xs.map (modelNorm m w last)
    let pooled := if m.output = 1 || (m.output = 2 && Config.scoresFromFirst) then ys.headD [] else meanPool m ys
    let head := last + m.normSize
    (List.range m.outs).map fun j =>
      let col := (List.range m.hidden).map fun i => fieldAt w (2 * (head + i * m.outs + j)) 2
      fAdd (modelDot pooled col) (widen (fieldAt w (2 * (head + m.hidden * m.outs + j)) 2))

end Sys2Proof.Machine
end

