-- ==== Sys2Proof/Machine/Png.lean ====
section
/-! DEFINITION. The decoding of PNG images within the limits of R106, with the concealment of R119. The format is PRESUMED from
ISO/IEC 15948, which R106 names; what the spec leaves open beside it is in log entry 16. -/

namespace Sys2Proof.Machine

/-- A chunk: its type, its place in the input, its data, and whether its CRC agrees. -/
structure PngChunk where
  kind : Bytes
  at_ : Nat
  body : Bytes
  good : Bool
deriving DecidableEq, Repr

/-- Is a chunk one that a decoder must understand? -/
def PngChunk.critical (c : PngChunk) : Bool := !natBit (fieldAt c.kind 0 1) 5

/-- The chunks from a byte on, to IEND or to the end of the input; with them whether IEND was reached. Of a piece of image data
that the end of the input cuts, what is there counts. -/
def pngChunks (bs : Bytes) (len : Nat) : (fuel o : Nat) → List PngChunk × Bool
  | 0, _ => ([], false)
  | fuel + 1, o =>
    let n := beFieldAt bs o 4
    if len < o + 12 + n then
      (if sliceAt bs (o + 4) 4 = ascii "IDAT" ∧ o + 8 ≤ len then [⟨ascii "IDAT", o, (bs.drop (o + 8)).take n, true⟩] else [], false)
    else
    let c : PngChunk := ⟨sliceAt bs (o + 4) 4, o, sliceAt bs (o + 8) n, crc32 (sliceAt bs (o + 4) (n + 4)) = beFieldAt bs (o + 8 + n) 4⟩
    if c.kind = ascii "IEND" then ([c], true)
    else
      let more := pngChunks bs len fuel (o + 12 + n)
      (c :: more.1, more.2)

/-- The header of an image. -/
structure PngHeader where
  w : Nat
  h : Nat
  depth : Nat
  colour : Nat
  interlaced : Bool
deriving DecidableEq, Repr

/-- Read IHDR; none where it gives no usable dimensions or format. -/
def pngHeader (c : PngChunk) : Option PngHeader :=
  let w := beFieldAt c.body 0 4
  let h := beFieldAt c.body 4 4
  let depth := fieldAt c.body 8 1
  let colour := fieldAt c.body 9 1
  let depths : List Nat := match colour with
    | 0 => [1, 2, 4, 8, 16]
    | 3 => [1, 2, 4, 8]
    | 2 | 4 | 6 => [8, 16]
    | _ => []
  if c.kind ≠ ascii "IHDR" || !c.good || c.body.length ≠ 13 || w = 0 || h = 0 || 2 ^ 31 ≤ w || 2 ^ 31 ≤ h || !depths.contains depth ||
      fieldAt c.body 10 1 ≠ 0 || fieldAt c.body 11 1 ≠ 0 || 1 < fieldAt c.body 12 1 then none
  else some ⟨w, h, depth, colour, fieldAt c.body 12 1 = 1⟩

/-- Samples of a pixel as they are stored. -/
def PngHeader.channels (p : PngHeader) : Nat :=
  match p.colour with
  | 2 => 3
  | 4 => 2
  | 6 => 4
  | _ => 1

/-- Bytes of a pixel. -/
def PngHeader.pixelBytes (p : PngHeader) : Nat := p.channels * (p.depth / 8)

/-- A pass: its first column and row, and its steps. -/
structure PngPass where
  x0 : Nat
  y0 : Nat
  dx : Nat
  dy : Nat
deriving DecidableEq, Repr

/-- The passes of an image: one, or the seven of Adam7. -/
def PngHeader.passes (p : PngHeader) : List PngPass :=
  if p.interlaced then [⟨0, 0, 8, 8⟩, ⟨4, 0, 8, 8⟩, ⟨0, 4, 4, 8⟩, ⟨2, 0, 4, 4⟩, ⟨0, 2, 2, 4⟩, ⟨1, 0, 2, 2⟩, ⟨0, 1, 1, 2⟩]
  else [⟨0, 0, 1, 1⟩]

/-- Columns and rows of a pass. -/
def PngHeader.passW (p : PngHeader) (a : PngPass) : Nat := ceilDiv (p.w - a.x0) a.dx
def PngHeader.passH (p : PngHeader) (a : PngPass) : Nat := ceilDiv (p.h - a.y0) a.dy

/-- The rows of the image data in order: pass and bytes, the filter byte included. -/
def PngHeader.rows (p : PngHeader) : List (Nat × Nat) :=
  p.passes.zipIdx.flatMap fun a =>
    if p.passW a.1 = 0 then [] else List.replicate (p.passH a.1) (a.2, 1 + p.passW a.1 * p.pixelBytes)

/-- The predictor of filter type 4. -/
def paeth (a b c : Nat) : Nat :=
  let p : Int := (a : Int) + b - c
  let da := (p - a).natAbs
  let db := (p - b).natAbs
  let dc := (p - c).natAbs
  if da ≤ db ∧ da ≤ dc then a else if db ≤ dc then b else c

/-- A row without its filter; none where its type is not assigned. `step` is the width of a pixel in bytes. -/
def pngRow (step : Nat) (above : Array Nat) (row : Bytes) : Option (Array Nat) :=
  match row with
  | [] => none
  | f :: data =>
    if f.toNat > 4 then none else
    some (data.foldl (fun (out : Array Nat) b =>
      let i := out.size
      let left := if i < step then 0 else out.getD (i - step) 0
      let up := above.getD i 0
      let guess := match f.toNat with
        | 0 => 0
        | 1 => left
        | 2 => up
        | 3 => (left + up) / 2
        | _ => paeth left up (if i < step then 0 else above.getD (i - step) 0)
      out.push ((b.toNat + guess) % 256)) #[])

/-- The rows that the data completes, each with its pass; a row that cannot be decoded ends them. `ok` says whether the
bytes of a row can stand. -/
def pngRows (step : Nat) (ok : Array Nat → Bool) : List (Nat × Nat) → Bytes → (Nat × Array Nat) → Array (Nat × Array Nat) → Array (Nat × Array Nat)
  | [], _, _, acc => acc
  | (pass, n) :: rest, data, above, acc =>
    let prior := if above.1 = pass then above.2 else #[]
    if (data.take n).length < n then acc else
    match pngRow step prior (data.take n) with
    | none => acc
    | some r => if ok r then pngRows step ok rest (data.drop n) (pass, r) (acc.push (pass, r)) else acc

/-- What the chunks before IEND give: palette, transparency, and the pieces of the image data with their places. -/
structure PngParts where
  palette : Bytes
  trns : Bytes
  data : List (Nat × Bytes)
  /-- The first chunk whose CRC fails, or that breaks the format: code and place. -/
  fault : Option (Nat × Nat)
  /-- A chunk that the decoder needs failed: it reads no further. -/
  stopped : Bool
deriving DecidableEq, Repr

/-- The decoder takes a chunk. It decodes image data as it comes: that of a chunk whose CRC fails is decoded, and none after it. -/
def PngParts.take_ (p : PngParts) (colour : Nat) (c : PngChunk) : PngParts :=
  let fail := fun (q : PngParts) (code at_ : Nat) => { q with fault := q.fault.or (some (code, at_)), stopped := c.critical }
  let crcAt := c.at_ + 8 + c.body.length
  if p.stopped then p
  else if c.kind = ascii "IDAT" then
    if colour = 3 && p.palette.isEmpty then fail p dmgSyntax c.at_
    else
      let q := { p with data := p.data ++ [(c.at_ + 8, c.body)] }
      if c.good then q else fail q dmgChecksum crcAt
  else if !c.good then fail p dmgChecksum crcAt
  else if c.kind = ascii "PLTE" then
    if c.body.isEmpty || c.body.length % 3 ≠ 0 || 768 < c.body.length || !p.data.isEmpty then fail p dmgSyntax c.at_ else { p with palette := c.body }
  else if c.kind = ascii "tRNS" then { p with trns := c.body }
  else if c.critical && c.kind ≠ ascii "IEND" then fail p dmgSyntax c.at_
  else p

/-- The place in the input of a byte of the image data. -/
def placeIn : List (Nat × Bytes) → Nat → Nat → Nat
  | [], _, last => last
  | (at_, b) :: rest, i, _ => if i < b.length then at_ + i else placeIn rest (i - b.length) (at_ + b.length)

/-- What the image data gives: raw bytes, and the first fault with its byte in the data. -/
def pngInflate (d : Bytes) (size : Nat) : Bytes × Option (Nat × Nat) :=
  let a := d.toArray
  let head := beFieldAt d 0 2
  if d.length < 2 then ([], some (dmgTruncated, d.length))
  else if head / 256 % 16 ≠ 8 || 8 ≤ head / 4096 || head % 31 ≠ 0 || natBit head 5 then ([], some (dmgSyntax, 0))
  else
    let f := inflate a 2 size #[]
    let e := ceilDiv f.pos 8
    let fault := match f.halt with
      | some (.bad o) => some (dmgSyntax, o)
      | some .early => some (dmgTruncated, d.length)
      | some _ => none
      | none =>
        if d.length < e + 4 then some (dmgTruncated, d.length)
        else if f.out.size < size then some (dmgTruncated, e)
        else if adler32 f.out.toList ≠ beFieldAt d e 4 then some (dmgChecksum, e)
        else none
    (f.out.toList, fault)

/-- The alpha of a pixel under tRNS; `px` are its samples as stored. -/
def pngAlpha (p : PngHeader) (trns : Bytes) (px : List Nat) : Nat :=
  let top := 2 ^ p.depth - 1
  if p.colour = 3 then (if px.getD 0 0 < trns.length then fieldAt trns (px.getD 0 0) 1 else top)
  else if px.zipIdx.all (fun s => decide (s.1 = beFieldAt trns (2 * s.2) 2 % 2 ^ p.depth)) then 0 else top

/-- The samples of a pixel as they are emitted. -/
def pngPixel (p : PngHeader) (parts : PngParts) (px : List Nat) : List Nat :=
  let colour := if p.colour = 3 then (List.range 3).map fun i => fieldAt parts.palette (3 * px.getD 0 0 + i) 1 else px
  if parts.trns.isEmpty || p.colour = 4 || p.colour = 6 then colour else colour ++ [pngAlpha p parts.trns px]

/-- A grey pixel: alpha at its maximum (Table 4-9). -/
def pngGrey (p : PngHeader) (parts : PngParts) : List Nat :=
  let n := if p.colour = 3 then 3 else p.channels
  let grey := 2 ^ (p.depth - 1)
  let top := 2 ^ p.depth - 1
  if p.colour = 4 || p.colour = 6 then List.replicate (n - 1) grey ++ [top]
  else if parts.trns.isEmpty then List.replicate n grey else List.replicate n grey ++ [top]

/-- The pixel of a row. -/
def pngSamples (p : PngHeader) (row : Array Nat) (x : Nat) : List Nat :=
  (List.range p.channels).map fun c =>
    let o := x * p.pixelBytes + c * (p.depth / 8)
    if p.depth = 16 then 256 * row.getD o 0 + row.getD (o + 1) 0 else row.getD o 0

/-- Every pixel of the image in raster order; none where no decoded row has written it. -/
def pngPixels (p : PngHeader) (parts : PngParts) (rows : Array (Nat × Array Nat)) : List (Option (List Nat)) :=
  let byPass := (p.passes.zipIdx.map fun a => (rows.filter fun r => r.1 = a.2)).toArray
  (List.range p.h).flatMap fun y => (List.range p.w).map fun x =>
    let pass := p.passes.findIdx fun a => x % a.dx = a.x0 && y % a.dy = a.y0
    let a := p.passes.getD pass ⟨0, 0, 1, 1⟩
    ((byPass.getD pass #[])[y / a.dy]?).map fun r => pngPixel p parts (pngSamples p r.2 (x / a.dx))

/-- An image that was decoded: its header, its pixels' samples plane by plane, how many are grey, the first damage. -/
structure PngImage where
  header : PngHeader
  planes : List Plane
  grey : Nat
  damage : Option Damage
deriving DecidableEq, Repr

/-- The damage of a PNG. Where a row is lost, the unit is the first such row: its pass, numbered from 1 and 0 where the image
has no passes, and its row within the pass. -/
def pngDamage (p : PngHeader) (rows : Nat) (code at_ : Nat) : Damage :=
  match p.rows[rows]? with
  | none => ⟨code, at_, 0, 0, 0, 0⟩
  | some r =>
    let before := ((p.rows.take rows).filter fun x => x.1 = r.1).length
    ⟨code, at_, 2, 0, if p.interlaced then r.1 + 1 else 0, before⟩

/-- Decode the image that a header and the chunks after it give. -/
def pngImage (p : PngHeader) (chunks : List PngChunk) (ended : Bool) (len : Nat) : PngImage :=
  let parts := chunks.foldl (fun (q : PngParts) c => q.take_ p.colour c) ⟨[], [], [], none, false⟩
  let data := parts.data.flatMap (·.2)
  let size := p.rows.foldl (fun n r => n + r.2) 0
  let raw := pngInflate data size
  let ok := fun (r : Array Nat) => p.colour ≠ 3 || r.all fun i => 3 * i < parts.palette.length
  let rows := pngRows p.pixelBytes ok p.rows raw.1 (p.passes.length, #[]) #[]
  let done := (p.rows.take rows.size).foldl (fun n r => n + r.2) 0
  -- a row that the data gives and that cannot be decoded
  let broken := match p.rows[rows.size]? with
    | some r => decide (done + r.2 ≤ raw.1.length)
    | none => false
  let rowFault : Option (Nat × Nat) :=
    if broken then some (dmgSyntax, placeIn parts.data (((inflate data.toArray 2 done #[]).pos - 1) / 8) len) else none
  let own := rowFault.or (raw.2.bind fun f =>
    if parts.stopped && f.1 = dmgTruncated then none else some (f.1, placeIn parts.data f.2 len))
  let cut := if ended || parts.stopped then none else some (dmgTruncated, len)
  -- of several faults the first in the order of the input
  let first := [parts.fault, own, cut].foldl (fun (a : Option (Nat × Nat)) b =>
    match a, b with
    | some x, some y => some (if y.2 < x.2 then y else x)
    | none, y => y
    | x, none => x) none
  let px := pngPixels p parts rows
  let grey := pngGrey p parts
  { header := p
    planes := (List.range grey.length).map fun c => ⟨p.w, p.h, (px.map fun o => (o.getD grey).getD c 0).toArray⟩
    grey := px.countP Option.isNone
    damage := first.map fun f => pngDamage p rows.size f.1 f.2 }

/-- The signature that a PNG begins with. -/
def pngSignature : Bytes := [0x89, 0x50, 0x4E, 0x47, 0x0D, 0x0A, 0x1A, 0x0A]

/-- What a decode engine makes of the bytes of a PNG. -/
inductive PngResult where
  /-- No usable dimensions or format. -/
  | unusable
  /-- A bit depth of 1, 2 or 4 (R106). -/
  | unsupported
  | image (p : PngImage)
deriving DecidableEq, Repr

/-- Decode a PNG (R106, R119). -/
def pngDecode (bs : Bytes) : PngResult :=
  if bs.take 8 ≠ pngSignature then .unusable else
  match pngChunks bs bs.length (bs.length + 1) 8 with
  | ([], _) => .unusable
  | (c :: rest, ended) =>
    match pngHeader c with
    | none => .unusable
    | some p => if p.depth < 8 then .unsupported else .image (pngImage p rest ended bs.length)

/-- A PNG as the engine emits it: greyscale with its alpha, or colour. Orientation is not part of it (R106). -/
def PngImage.picture (i : PngImage) : Picture where
  w := i.header.w
  h := i.header.h
  depth := i.header.depth
  model := if i.planes.length ≤ 2 then .grey else .rgb
  orientation := 1
  planes := i.planes

end Sys2Proof.Machine
end

