-- ==== Sys2Proof/Machine/Domains.lean ====
section
/-! DEFINITION. Power domains while the device is Ready (R365). -/

namespace Sys2Proof.Machine

/-- Cores of a kennel (R22). -/
def coresPerKennel : Nat := 80

/-- Is a kennel bound to a stage of a loaded image, as one of its kennels or as reserve? -/
def State.kennelBound (s : State) (k : Nat) : Bool :=
  s.images.vals.any fun im => (im.bound.any fun e => e.2.contains k) || (im.reserve.any fun e => e.2.contains k)

/-- Is an image or video decode engine bound to a loaded image? -/
def State.decodeBound (s : State) : Bool :=
  s.images.vals.any fun im => im.engines.any fun e =>
    !e.2.isEmpty && (((im.stage e.1).map fun st => st.engineClass = 4 || st.engineClass = 5).getD false)

/-- First kennel of a half-die domain PD3 to PD10, and the first one above it. A K-die holds a quarter of the logical
kennels (R18); which of them lie in its first half-die is not stated: the model takes the lower numbers, and the odd one
of an HL8-72 (DESIGN CHOICE, log entry 50). -/
def State.halfDieFirst (s : State) (d : Nat) : Nat :=
  let die := s.part.kennels / 4
  die * ((d - 3) / 2) + (if d % 2 = 1 then 0 else ceilDiv die 2)
def State.halfDieEnd (s : State) (d : Nat) : Nat :=
  let die := s.part.kennels / 4
  die * ((d - 3) / 2) + (if d % 2 = 1 then ceilDiv die 2 else die)

/-- Is anything in a domain needed? Only the domains that may be off while Ready are asked about. -/
def State.domainNeeded (s : State) (d : Nat) : Bool :=
  let port := fun p => s.bit (Reg.PLT_PORT_CFG p) Fld.PLT_PORT_CFG_ENABLE
  if 3 ≤ d && d ≤ 10 then (List.range (s.halfDieEnd d - s.halfDieFirst d)).any fun i => s.kennelBound (s.halfDieFirst d + i)
  else if d = 12 then port 0 || port 1
  else if d = 13 then port 2 || port 3 || port 4
  else if d = 19 then s.decodeBound
  else true

/-- A half-die that is off loses its local memories and kennel stores. -/
def State.loseHalfDie (s : State) (d : Nat) : State :=
  let lost := fun k => s.halfDieFirst d ≤ k && k < s.halfDieEnd d
  { s with cores := s.cores.keep fun c _ => !lost (c / coresPerKennel)
           kennels := s.kennels.keep fun k _ => !lost k }

/-- Switch a domain on or off. -/
def State.powerDomain (s : State) (d : Nat) (on : Bool) : State :=
  let v := s.fld Reg.PWR_DOMAINS Fld.PWR_DOMAINS_ON
  if natBit v d = on then s
  else
    let t := s.setFld Reg.PWR_DOMAINS Fld.PWR_DOMAINS_ON (if on then v + 2 ^ d else v - 2 ^ d)
    if !on && 3 ≤ d && d ≤ 10 then t.loseHalfDie d else t

/-- Domains marked Yes in Table 14-1. -/
def switchedDomains : List Nat := [3, 4, 5, 6, 7, 8, 9, 10, 12, 13, 19]

/-- While Ready, each switched domain is on exactly while something in it is needed. -/
def State.settleDomains (s : State) : State :=
  if s.sheep.mode = .ready then switchedDomains.foldl (fun t d => t.powerDomain d (t.domainNeeded d)) s else s

/-- The clock plan (R49, R369): PLAN_MAX is the least of the value set and the requests of the loaded images, and
the plan step the least of PLAN_MAX and the three ceilings. -/
def State.settlePlan (s : State) : State :=
  let most := s.images.vals.foldl (fun n im => if im.planReq = 0 then n else min n im.planReq) s.sheep.planMax
  let t := s.setFld Reg.PWR_PLAN Fld.PWR_PLAN_MAX most
  t.setFld Reg.PWR_PLAN Fld.PWR_PLAN_STEP (min most (min (t.fld Reg.PWR_PLAN Fld.PWR_PLAN_CAP)
    (min (t.fld Reg.PWR_PLAN Fld.PWR_PLAN_THERMAL) (t.fld Reg.PWR_PLAN Fld.PWR_PLAN_DROOP))))

end Sys2Proof.Machine
end

