-- ==== Sys2Proof/Machine/Plyn.lean ====
section
/-! DEFINITION. Plyn's wire format: the header of Table 8-2, control entries, sealing, delivery maps, transport
tables and buffer lists (R219 to R226, R236, R240), as functions of bytes. -/

namespace Sys2Proof.Machine

/-! ### Opcodes and codes -/

/-- Opcodes of Table 8-3. -/
def opWrite : Nat := 1
def opWriteImm : Nat := 2
def opReadReq : Nat := 3
def opReadResp : Nat := 4
def opAtomicAdd : Nat := 5
def opAtomicCas : Nat := 6
def opAck : Nat := 7
def opNak : Nat := 8
def opCredit : Nat := 9

/-- NAK codes (Tables 8-9 and 9-6). -/
def NAK_STALE_GEN : Nat := 0x01
def NAK_RETRY_LATER : Nat := 0x02
def NAK_ROLE_STALE : Nat := 0x03
def NAK_JOB_STALE : Nat := 0x04
def NAK_NO_BUFFER : Nat := 0x05
def NAK_ACCESS : Nat := 0x06
def NAK_BOUNDS : Nat := 0x07
def NAK_ALIGN : Nat := 0x08
def NAK_CHECK : Nat := 0x09

/-- Status codes of Table 8-9. -/
def ST_DLV_FORMAT : Nat := 0x0070
def ST_DLV_CONTEXT : Nat := 0x0071
def ST_DLV_KEY : Nat := 0x0072
def ST_DLV_PORT : Nat := 0x0073
def ST_PLT_UNCONFIRMED : Nat := 0x0074

/-- Does a message of an opcode execute at the receiver, with a replay filter entry (R230)? -/
def opFiltered (op : Nat) : Bool :=
  op = opWrite || op = opWriteImm || op = opReadReq || op = opAtomicAdd || op = opAtomicCas || op = opCredit

/-- Is an opcode sent only in LOCKED, HOLDOVER or GRANDMASTER (R245)? -/
def opNeedsTime (op : Nat) : Bool := opFiltered op

/-! ### The header -/

/-- The 64 bytes of a header. -/
def PltHeader.bytes (h : PltHeader) : Bytes :=
  [BitVec.ofNat 8 (h.version * 16 + h.opcode), BitVec.ofNat 8 h.flags, BitVec.ofNat 8 h.phase, BitVec.ofNat 8 h.tclass] ++
  beBytes 2 h.context ++ beBytes 2 h.fragment ++ beBytes 2 h.count ++ beBytes 6 h.msgId ++ beBytes 4 h.source ++
  beBytes 4 h.dest ++ beBytes 4 h.jobEpoch ++ beBytes 4 h.roleEpoch ++ beBytes 4 h.peerEpoch ++ beBytes 4 h.timestamp ++
  beBytes 4 h.buffer ++ beBytes 4 h.generation ++ beBytes 8 h.offset ++ beBytes 4 h.length ++ beBytes 4 h.aux

/-- Read a header. -/
def pltHeaderOf (b : Bytes) : PltHeader where
  version := beFieldAt b 0 1 / 16
  opcode := beFieldAt b 0 1 % 16
  flags := beFieldAt b 1 1
  phase := beFieldAt b 2 1
  tclass := beFieldAt b 3 1
  context := beFieldAt b 4 2
  fragment := beFieldAt b 6 2
  count := beFieldAt b 8 2
  msgId := beFieldAt b 0xA 6
  source := beFieldAt b 0x10 4
  dest := beFieldAt b 0x14 4
  jobEpoch := beFieldAt b 0x18 4
  roleEpoch := beFieldAt b 0x1C 4
  peerEpoch := beFieldAt b 0x20 4
  timestamp := beFieldAt b 0x24 4
  buffer := beFieldAt b 0x28 4
  generation := beFieldAt b 0x2C 4
  offset := beFieldAt b 0x30 8
  length := beFieldAt b 0x38 4
  aux := beFieldAt b 0x3C 4

/-- FLAGS bits. -/
def PltHeader.atomicResult (h : PltHeader) : Bool := natBit h.flags 0
def PltHeader.unauth (h : PltHeader) : Bool := natBit h.flags 1
def PltHeader.ackNow (h : PltHeader) : Bool := natBit h.flags 2

/-- Does a header pass the tests of R221 at a receiver? -/
def PltHeader.valid (h : PltHeader) (me : Nat) : Bool :=
  h.version = 1 && 1 ≤ h.opcode && h.opcode ≤ 9 && h.flags < 8 && h.tclass < 8 && h.dest = me && me ≠ 0 &&
    h.fragment < h.count

/-- Payload bytes that follow the header: READ_REQ and an UNAUTH NAK carry none. -/
def PltHeader.payloadBytes (h : PltHeader) : Nat := if h.opcode = opReadReq || h.unauth then 0 else h.length

/-- Is a frame as long as its header says (R220)? -/
def pltFrameLength (h : PltHeader) : Nat := 64 + h.payloadBytes + (if h.unauth then 0 else 16)

/-- Age of a packet in µs (R227). -/
def pltAge (nowUs timestamp : Nat) : Int := signedOf 32 (nowUs + 2 ^ 32 - timestamp)

/-! ### Sealing (R225) -/

/-- The pair key of R355. -/
def pairKey (contextKey : Bytes) (ctx jobEpoch source dest phase : Nat) : Bytes :=
  kdf contextKey (ascii "HPLTPAIR") (beBytes 2 ctx ++ beBytes 4 jobEpoch ++ beBytes 4 source ++ beBytes 4 dest ++ beBytes 1 phase)

/-- The pair key of a packet. -/
def PltHeader.key (h : PltHeader) (contextKey : Bytes) : Bytes :=
  pairKey contextKey h.context h.jobEpoch h.source h.dest h.phase

/-- The nonce of a packet. -/
def PltHeader.nonce (h : PltHeader) : Bytes := beBytes 4 h.source ++ beBytes 6 h.msgId ++ beBytes 2 h.fragment

/-- The Plyn part of a frame: header, payload under the pair key, tag. -/
def sealFrame (contextKey : Bytes) (h : PltHeader) (payload : Bytes) : Bytes :=
  if h.unauth then h.bytes
  else
    let c := gcmSeal (h.key contextKey) h.nonce h.bytes payload
    h.bytes ++ c.1 ++ c.2

/-- The payload of a received frame, where its tag agrees. -/
def openFrame (contextKey : Bytes) (h : PltHeader) (frame : Bytes) : Option Bytes :=
  let n := h.payloadBytes
  gcmOpen (h.key contextKey) h.nonce (frame.take 64) ((frame.drop 64).take n) (frame.drop (64 + n))

/-! ### Control entries (Table 8-4) -/

/-- An ACK entry: message, first and last fragment. -/
def ackEntry (e : Nat × Nat × Nat) : Bytes := beBytes 6 e.1 ++ beBytes 2 e.2.1 ++ beBytes 2 e.2.2 ++ [0, 0]

/-- The ACK entries of a payload. -/
def ackEntriesOf (b : Bytes) : List (Nat × Nat × Nat) :=
  (List.range (b.length / 12)).map fun i => (beFieldAt b (12 * i) 6, beFieldAt b (12 * i + 6) 2, beFieldAt b (12 * i + 8) 2)

/-- A NAK entry. -/
def nakEntry (msgId fragment detail : Nat) : Bytes := beBytes 6 msgId ++ beBytes 2 fragment ++ beBytes 4 detail ++ [0, 0, 0, 0]

/-- A credit entry: RANK, BUFFER, GENERATION, LENGTH. -/
def creditEntriesOf (b : Bytes) : List (Nat × Nat × Nat × Nat) :=
  (List.range (b.length / 16)).map fun i =>
    let o := 16 * i
    (beFieldAt b o 2, beFieldAt b (o + 4) 4, beFieldAt b (o + 8) 4, beFieldAt b (o + 12) 4)

/-- Is the payload of a control message of its stated shape (R224)? -/
def controlShapeOk (h : PltHeader) (payload : Bytes) : Bool :=
  if h.opcode = opAck then
    if h.atomicResult then payload.length = 20
    else 12 ≤ payload.length && payload.length ≤ 768 && payload.length % 12 = 0
  else if h.opcode = opNak then payload.length = 16
  else if h.opcode = opCredit then 16 ≤ payload.length && payload.length ≤ 1024 && payload.length % 16 = 0
  else if h.opcode = opAtomicAdd then payload.length = 8
  else if h.opcode = opAtomicCas then payload.length = 16
  else if h.opcode = opReadReq then 1 ≤ h.length && h.length ≤ 2 ^ 24
  else true

/-- Fragments as runs of one message, in the order gathered (R228). -/
def ackRuns : List (Nat × Nat) → List (Nat × Nat × Nat)
  | [] => []
  | (m, f) :: t =>
    match ackRuns t with
    | (m2, a, z) :: r => if m2 = m && a = f + 1 then (m, f, z) :: r else (m, f, f) :: (m2, a, z) :: r
    | [] => [(m, f, f)]

/-- Cut a list into pieces of `n`; `fuel` bounds the count. -/
def piecesOf {α : Type} (n : Nat) : (fuel : Nat) → List α → List (List α)
  | 0, _ => []
  | f + 1, l => if l.isEmpty then [] else l.take n :: piecesOf n f (l.drop n)

/-! ### Framing (R219, R246) -/

/-- Bytes of a frame on the wire with preamble and inter-frame gap: 8 + MAC header and tag + IP and UDP
headers + Plyn part + FCS 4 + gap 12. -/
def wireLength (a : AddrEntry) (plyn : Nat) : Nat :=
  8 + (if a.vlan = 0 then 14 else 18) + (if a.mode = 2 then 28 else if a.mode = 3 then 48 else 0) + plyn + 4 + 12

/-! ### Delivery maps (Table 8-8) -/

/-- A destination entry. -/
def destEntryAt (b : Bytes) (o : Nat) : DestEntry where
  node := fieldAt b o 4
  addr := fieldAt b (o + 4) 2
  port := fieldAt b (o + 6) 1 % 8
  sub := fieldAt b (o + 6) 1 / 8 % 4
  tclass := fieldAt b (o + 7) 1

/-- An address entry. -/
def addrEntryAt (b : Bytes) (o : Nat) : AddrEntry where
  mode := fieldAt b o 1
  dscp := fieldAt b (o + 1) 1
  vlan := fieldAt b (o + 2) 2
  mac := sliceAt b (o + 4) 6
  ip := sliceAt b (o + 0x10) 16

/-- Offsets of the parts of a delivery map. -/
def mapDestsAt (b : Bytes) : Nat := 64 + 4 * fieldAt b 6 2
def mapAddrsAt (b : Bytes) : Nat := mapDestsAt b + 16 * fieldAt b 8 2

/-- Read a delivery map. -/
def deliveryMapOf (b : Bytes) : DeliveryMap where
  ranks := (List.range (fieldAt b 6 2)).map fun i => (fieldAt b (64 + 4 * i) 2, fieldAt b (64 + 4 * i + 2) 1)
  dests := (List.range (fieldAt b 8 2)).map fun i => destEntryAt b (mapDestsAt b + 16 * i)
  addrs := (List.range (fieldAt b 0xA 2)).map fun i => addrEntryAt b (mapAddrsAt b + 32 * i)
  context := fieldAt b 0xC 2
  keyId := fieldAt b 0x10 4
  jobEpoch := fieldAt b 0x14 4
  fleet := natBit (fieldAt b 0x18 4) 0

/-- Are the layout and the field ranges of a delivery map right (R240)? R172 judges RANKS above 256 (log entry 46). -/
def deliveryMapFormatOk (b : Bytes) (len : Nat) : Bool :=
  let r := fieldAt b 6 2
  let d := fieldAt b 8 2
  let a := fieldAt b 0xA 2
  let fl := fieldAt b 0x18 4
  fieldAt b 0 4 = 0x564C4448 && fieldAt b 4 2 = 1 && 1 ≤ r && 1 ≤ d && d ≤ 2048 && 1 ≤ a &&
    a ≤ 2048 && zeroAt b 0xE 2 && fl ≤ 1 && zeroAt b 0x1C 36 && len = 64 + 4 * r + 16 * d + 32 * a &&
    ((List.range r).all fun i =>
      let o := 64 + 4 * i
      1 ≤ fieldAt b (o + 2) 1 && fieldAt b (o + 2) 1 ≤ 8 && fieldAt b o 2 + fieldAt b (o + 2) 1 ≤ d && zeroAt b (o + 3) 1) &&
    ((List.range d).all fun i =>
      let o := mapDestsAt b + 16 * i
      fieldAt b (o + 4) 2 < a && fieldAt b (o + 6) 1 < 32 && fieldAt b (o + 6) 1 % 8 ≤ 4 && fieldAt b (o + 7) 1 ≤ 7 &&
        zeroAt b (o + 8) 8) &&
    ((List.range a).all fun i =>
      let o := mapAddrsAt b + 32 * i
      1 ≤ fieldAt b o 1 && fieldAt b o 1 ≤ 3 && fieldAt b (o + 1) 1 < 64 && fieldAt b (o + 2) 2 / 4096 % 2 = 0 &&
        zeroAt b (o + 0xA) 6)

/-- The destinations of a rank, in order. -/
def DeliveryMap.destsOf (m : DeliveryMap) (rank : Nat) : List DestEntry :=
  match m.ranks[rank]? with
  | some r => (m.dests.drop r.1).take r.2
  | none => []

/-- The route to a destination. -/
def DeliveryMap.routeTo (m : DeliveryMap) (d : DestEntry) : PltRoute := ⟨d.port, d.sub, d.tclass, m.addrs[d.addr]?⟩

/-! ### Transport tables and buffer lists (Tables 8-6, 8-7) -/

/-- A context descriptor. -/
structure CtxDesc where
  context : Nat
  keySource : Nat
  flags : Nat
  keyId : Nat
  filterLog2 : Nat
  tclass : Nat
  buffers : Nat
  bufferList : Nat
  dramClaim : Nat
deriving DecidableEq, Repr

/-- A descriptor at an offset of a transport table. -/
def ctxDescAt (b : Bytes) (o : Nat) : CtxDesc where
  context := fieldAt b o 2
  keySource := fieldAt b (o + 2) 1
  flags := fieldAt b (o + 3) 1
  keyId := fieldAt b (o + 4) 4
  filterLog2 := fieldAt b (o + 8) 1
  tclass := fieldAt b (o + 9) 1
  buffers := fieldAt b (o + 0xA) 2
  bufferList := fieldAt b (o + 0xC) 4
  dramClaim := fieldAt b (o + 0x10) 4

/-- The descriptors of a transport table. -/
def ctxDescsOf (b : Bytes) : List CtxDesc := (List.range (b.length / 32)).map fun i => ctxDescAt b (32 * i)

/-- The buffers of a buffer list, each with generation 1. -/
def ctxBuffersOf (b : Bytes) : List CtxBuffer :=
  (List.range (b.length / 16)).map fun i =>
    let o := 16 * i
    ⟨fieldAt b o 4, fieldAt b (o + 4) 1, fieldAt b (o + 5) 1, fieldAt b (o + 6) 2, fieldAt b (o + 8) 8, 1, Tab.empty⟩

/-- ARG of a buffer of KIND 0x05: namespace, first unit, units. -/
def CtxBuffer.nsid (b : CtxBuffer) : Nat := natField b.arg 0 8
def CtxBuffer.firstUnit (b : CtxBuffer) : Nat := natField b.arg 8 32
def CtxBuffer.units (b : CtxBuffer) : Nat := natField b.arg 40 24
/-- ARG of a buffer of KIND 0x01: first byte and length of its DRAM range. -/
def CtxBuffer.dramAt (b : CtxBuffer) : Nat := natField b.arg 0 32 * 2 ^ 20
def CtxBuffer.dramLength (b : CtxBuffer) : Nat := natField b.arg 32 32 * 2 ^ 20

/-- Length of a buffer (Table 8-7). The table gives a ring and a region buffer no length: a free value. -/
def CtxBuffer.length (b : CtxBuffer) : Nat :=
  if b.kind = 1 then b.dramLength else if b.kind = 5 then 4096 * b.units else Config.ringLength b.kind b.arg

/-- ACCESS bits. -/
def CtxBuffer.writable (b : CtxBuffer) : Bool := natBit b.access 0
def CtxBuffer.readable (b : CtxBuffer) : Bool := natBit b.access 1
def CtxBuffer.atomics (b : CtxBuffer) : Bool := natBit b.access 2

/-- The next generation (R232): after 2^32 − 1 comes 1. -/
def nextGeneration (g : Nat) : Nat := if g + 1 < 2 ^ 32 then g + 1 else 1

/-- FLAGS bits of a descriptor. -/
def Context.roleCheck (c : Context) : Bool := natBit c.flags 0
def Context.pin (c : Context) : Bool := natBit c.flags 1
def Context.ingress (c : Context) : Bool := natBit c.flags 2

/-- Has a context outgoing fragments that are not acknowledged (R237)? -/
def Context.unacked (c : Context) : Bool :=
  c.senders.any fun x => x.msgs.any fun m => m.frags.any fun f => f.frame.isSome && !f.acked

/-- Is a record pinned (R237)? -/
def Context.pinned (c : Context) : Bool := c.pin || c.unacked || !c.partialImm.isEmpty || c.fetching

/-! ### Gate control lists (R247) -/

/-- Gate bits and entry number at a time within a cycle: the last entry holds to the end of the cycle. -/
def gateAt : (entries : List (Nat × Nat)) → (i t : Nat) → Nat × Nat
  | [], i, _ => (0xFF, i)
  | [e], i, _ => (e.1, i)
  | e :: rest, i, t => if t < e.2 then (e.1, i) else gateAt rest (i + 1) (t - e.2)

/-- Start of the list in ns. -/
def GateList.baseTotal (g : GateList) : Nat := g.baseSec * 1000000000 + g.baseNs

/-- Gates at a network time: all open before the list has taken over. -/
def GateRun.gatesAt (r : GateRun) (now : Nat) : Nat × Nat :=
  if now < r.startNs then (0xFF, 0) else gateAt r.list.entries 0 ((now - r.list.baseTotal) % r.list.cycleNs)

/-- The first cycle start at or after a time. -/
def GateList.cycleStart (g : GateList) (now : Nat) : Nat :=
  if now ≤ g.baseTotal then g.baseTotal else g.baseTotal + ceilDiv (now - g.baseTotal) g.cycleNs * g.cycleNs

/-- Ns from offset `t` of the cycle through entries while class `c` stays open; none when it stays open to
the end of the cycle, with `left` ns in the cycle. -/
def openRun (c : Nat) : List (Nat × Nat) → (t left acc : Nat) → Option Nat
  | [], _, _, _ => none
  | [e], _, left, acc => if natBit e.1 c || left = 0 then none else some acc
  | e :: rest, t, left, acc =>
    if left = 0 then none else
    let d := min e.2 left
    if t < d then (if natBit e.1 c then openRun c rest 0 (left - d) (acc + (d - t)) else some acc)
    else openRun c rest (t - d) (left - d) acc

/-- Ns until the gate of class `c`, open now, next closes; none when it never does (R246). -/
def GateRun.closesIn (r : GateRun) (now c : Nat) : Option Nat :=
  let g := r.list
  let first := if now < r.startNs then r.startNs - now else 0
  let t := if now < r.startNs then 0 else (now - g.baseTotal) % g.cycleNs
  match openRun c g.entries t g.cycleNs 0 with
  | some n => some (first + n)
  | none =>
    if r.ending then none
    else (openRun c g.entries 0 g.cycleNs 0).map fun n => first + (g.cycleNs - t) + n

/-- Is a class ever open in a list (R240)? Entries that start past the end of the cycle are never reached. -/
def everOpen (c : Nat) : List (Nat × Nat) → (left : Nat) → Bool
  | [], _ => false
  | e :: rest, left => (0 < left && natBit e.1 c) || everOpen c rest (left - e.2)

end Sys2Proof.Machine
end

