-- ==== Sys2Proof/Machine/Framing.lean ====
section
/-! DEFINITION. Ethernet framing of Plyn packets and PTP messages: what is sent around them, and what a received frame is
found to carry (R219, R244). -/

namespace Sys2Proof.Machine

/-- EtherTypes and UDP ports that the encapsulations use. -/
def etherVlan : Nat := 0x8100
def etherService : Nat := 0x88A8
def etherIpv4 : Nat := 0x0800
def etherIpv6 : Nat := 0x86DD
def etherPtp : Nat := 0x88F7
def portPtpEvent : Nat := 319
def portPtpGeneral : Nat := 320

/-! ### Checksums -/

/-- Sum of the big-endian 16-bit words of some bytes; an odd byte is the high half of the last word. -/
def wordSum : Bytes → Nat
  | a :: b :: rest => 256 * a.toNat + b.toNat + wordSum rest
  | [a] => 256 * a.toNat
  | [] => 0

/-- The one's-complement checksum over words of a sum; it is never 0. -/
def onesCheck (sum : Nat) : Nat := 65535 - sum % 65535

/-- The FCS of a frame, in the order in which its bytes leave. -/
def frameFcs (body : Bytes) : Bytes := leBytes 4 (crc32 body)

/-- The pseudo header of IPv6 for a UDP datagram. -/
def udpPseudo (src dst : Bytes) (len : Nat) : Bytes := src ++ dst ++ beBytes 4 len ++ [0, 0, 0, 17]

/-! ### Sending -/

/-- What a sub-port puts into the frames it sends beside the address entry: its own addresses, the EtherType and the UDP
ports. -/
structure Framing where
  mac : Nat
  ip : Nat
  etherType : Nat
  srcPort : Nat
  dstPort : Nat
deriving DecidableEq, Repr

/-- The MAC header to an address entry: the next hop, the sender, the optional tag, and the EtherType. -/
def macHead (a : AddrEntry) (f : Framing) : Bytes :=
  let t := if a.mode = 2 then etherIpv4 else if a.mode = 3 then etherIpv6 else f.etherType
  a.mac ++ beBytes 6 f.mac ++ (if a.vlan = 0 then [] else beBytes 2 etherVlan ++ beBytes 2 a.vlan) ++ beBytes 2 t

/-- The UDP header of a datagram with a checksum. -/
def udpHead (f : Framing) (n check : Nat) : Bytes := beBytes 2 f.srcPort ++ beBytes 2 f.dstPort ++ beBytes 2 (8 + n) ++ beBytes 2 check

/-- IPv4 header with DF set and TTL 64, then UDP with checksum 0. -/
def ipv4Head (a : AddrEntry) (f : Framing) (n : Nat) : Bytes :=
  let first := [0x45, BitVec.ofNat 8 (4 * a.dscp)] ++ beBytes 2 (28 + n) ++ beBytes 2 (Config.ipIdent n) ++ [0x40, 0, 64, 17]
  let addrs := beBytes 4 f.ip ++ a.ip.take 4
  first ++ beBytes 2 (onesCheck (wordSum (first ++ addrs))) ++ addrs ++ udpHead f n 0

/-- IPv6 header with hop limit 64, then UDP with its checksum. -/
def ipv6Head (a : AddrEntry) (f : Framing) (body : Bytes) : Bytes :=
  let n := body.length
  let src := beBytes 16 f.ip
  let sum := wordSum (udpPseudo src a.ip (8 + n) ++ udpHead f n 0 ++ body)
  beBytes 4 (6 * 2 ^ 28 + a.dscp * 2 ^ 22 + Config.flowLabel n % 2 ^ 20) ++ beBytes 2 (8 + n) ++ [17, 64] ++ src ++ a.ip ++
    udpHead f n (onesCheck sum)

/-- The headers before the Plyn part, or before a PTP message, in the encapsulation of an address entry (R219). -/
def frameHead (a : AddrEntry) (f : Framing) (body : Bytes) : Bytes :=
  macHead a f ++ (if a.mode = 2 then ipv4Head a f body.length else if a.mode = 3 then ipv6Head a f body else [])

/-! ### Receiving -/

/-- What a received frame carries. -/
inductive Carried where
  /-- A frame that R219 drops. -/
  | invalid
  | plyn (body : Bytes)
  | ptp (body : Bytes)
deriving DecidableEq, Repr

/-- A UDP datagram: what it carries follows from its destination port. -/
def udpCarried (udpPort : Nat) (u : Bytes) : Carried :=
  let port := beFieldAt u 2 2
  let len := beFieldAt u 4 2
  if u.length < 8 || len < 8 || u.length < len then .invalid
  else if port = udpPort then .plyn ((u.take len).drop 8)
  else if port = portPtpEvent || port = portPtpGeneral then .ptp ((u.take len).drop 8)
  else .invalid

/-- An IPv4 packet: options and fragmentation make it invalid; the UDP checksum is ignored. -/
def ipv4Carried (udpPort : Nat) (p : Bytes) : Carried :=
  if p.length < 20 || byteAt p 0 ≠ 0x45 || beFieldAt p 6 2 % 0x4000 ≠ 0 || byteAt p 9 ≠ 17 then .invalid
  else udpCarried udpPort ((p.take (beFieldAt p 2 2)).drop 20)

/-- An IPv6 packet: extension headers, fragmentation among them, and a bad UDP checksum make it invalid. -/
def ipv6Carried (udpPort : Nat) (p : Bytes) : Carried :=
  let u := (p.drop 40).take (beFieldAt p 4 2)
  if p.length < 40 || beFieldAt p 0 1 / 16 ≠ 6 || byteAt p 6 ≠ 17 then .invalid
  else if beFieldAt u 6 2 = 0 || wordSum (udpPseudo (sliceAt p 8 16) (sliceAt p 24 16) u.length ++ u) % 65535 ≠ 0 then .invalid
  else udpCarried udpPort u

/-- What a received frame, from its destination address to its FCS, carries (R219). At most one tag may stand before
the EtherType. -/
def carried (etherType udpPort : Nat) (frame : Bytes) : Carried :=
  let body := frame.take (frame.length - 4)
  let tagged : Bool := beFieldAt frame 12 2 = etherVlan
  let at_ := if tagged then 16 else 12
  let t := beFieldAt body at_ 2
  let p := body.drop (at_ + 2)
  if frame.length < 18 || frame.drop (frame.length - 4) ≠ frameFcs body then .invalid
  else if tagged && (t = etherVlan || t = etherService) then .invalid
  else if t = etherType then .plyn p
  else if t = etherPtp then .ptp p
  else if t = etherIpv4 then ipv4Carried udpPort p
  else if t = etherIpv6 then ipv6Carried udpPort p
  else .invalid

end Sys2Proof.Machine
end

