-- ==== Sys2Proof/Machine/Ptp.lean ====
section
/-! DEFINITION. The PTP ports: messages of IEEE 1588-2019, their departure past gates and shapers, the measurements and the
best master clock algorithm (R244). The servo is in Machine/Clock.lean. Which of the roles, mechanisms and transports a
sub-port uses is no register of the spec: Config says it (log entry 55). -/

namespace Sys2Proof.Machine

/-! ### Messages -/

/-- Type numbers. -/
def PtpKind.number : PtpKind → Nat
  | .sync => 0
  | .delayReq => 1
  | .peerReq => 2
  | .peerResp => 3
  | .followUp => 8
  | .delayResp => 9
  | .peerFollowUp => 10
  | .announce => 11

/-- The kind of a type number. -/
def ptpKindOf (n : Nat) : Option PtpKind :=
  [PtpKind.sync, .delayReq, .peerReq, .peerResp, .followUp, .delayResp, .peerFollowUp, .announce].find? fun k => k.number = n

/-- Event messages are timestamped; they go to UDP port 319, the others to 320. -/
def PtpKind.event (k : PtpKind) : Bool := k.number < 4

/-- Is a message one of the peer delay mechanism? -/
def PtpKind.peer (k : PtpKind) : Bool := k = .peerReq || k = .peerResp || k = .peerFollowUp

/-- Bytes of a message. -/
def PtpKind.length (k : PtpKind) : Nat := if k = .announce then 64 else if k.peer || k = .delayResp then 54 else 44

/-- A PTP timestamp: 48-bit seconds and 32-bit nanoseconds. -/
def ptpTimeBytes (ns : Nat) : Bytes := beBytes 6 (ns / 1000000000) ++ beBytes 4 (ns % 1000000000)

/-- Read a PTP timestamp. -/
def ptpTimeAt (b : Bytes) (o : Nat) : Nat := beFieldAt b o 6 * 1000000000 + beFieldAt b (o + 6) 4

/-- Widths of the dataset of an Announce: priority 1, class, accuracy, variance, priority 2, identity, steps removed. -/
def ptpDatasetWidths : List Nat := [1, 1, 1, 2, 1, 8, 2]

/-- What follows the header of a message. -/
def PtpMessage.tail (m : PtpMessage) : Bytes :=
  let t := ptpTimeBytes m.time
  if m.kind = .announce then
    t ++ [0, 0, 0] ++ (ptpDatasetWidths.zip m.dataset).flatMap (fun e => beBytes e.1 e.2) ++ [0xA0]
  else if m.kind = .peerReq then t ++ List.replicate 10 0
  else if m.kind.length = 54 then t ++ beBytes 10 m.peer
  else t

/-- The bytes of a message. -/
def PtpMessage.bytes (m : PtpMessage) : Bytes :=
  beBytes 1 m.kind.number ++ [0x12] ++ beBytes 2 m.kind.length ++ beBytes 1 Config.ptpDomain ++ [0, if m.twoStep then 2 else 0, 0] ++
    beBytes 8 (wrapInt 64 m.correction) ++ [0, 0, 0, 0] ++ beBytes 10 m.source ++ beBytes 2 m.seq ++
    [if m.kind = .sync then 0 else if m.kind = .delayReq then 1 else if m.kind = .followUp then 2
      else if m.kind = .delayResp then 3 else 5, 0x7F] ++ m.tail

/-- Fields of widths from an offset. -/
def ptpFields (b : Bytes) : (o : Nat) → List Nat → List Nat
  | _, [] => []
  | o, w :: rest => beFieldAt b o w :: ptpFields b (o + w) rest

/-- Read a message of this clock's domain. -/
def ptpMessageOf (b : Bytes) : Option PtpMessage :=
  (ptpKindOf (beFieldAt b 0 1 % 16)).bind fun k =>
    if b.length < k.length || beFieldAt b 1 1 % 16 ≠ 2 || beFieldAt b 4 1 ≠ Config.ptpDomain % 256 then none
    else some
      { kind := k
        source := beFieldAt b 20 10
        seq := beFieldAt b 30 2
        twoStep := natBit (beFieldAt b 6 1) 1
        correction := signedOf 64 (beFieldAt b 8 8)
        time := ptpTimeAt b 34
        peer := if k.length = 54 && k ≠ .peerReq then beFieldAt b 44 10 else 0
        dataset := if k = .announce then ptpFields b 47 ptpDatasetWidths else [] }

/-! ### Ports -/

/-- Key of a sub-port. -/
def ptpKey (port sub : Nat) : Nat := 8 * port + sub

/-- Port identity of a sub-port. -/
def ptpIdentity (k : Nat) : Nat := Config.ptpClock % 2 ^ 64 * 2 ^ 16 + (k + 1)

/-- A PTP port. -/
def State.ptpPort (s : State) (k : Nat) : PtpPort := (s.time.ptp.find k).getD PtpPort.idle

/-- Change a PTP port. -/
def State.adjustPtp (s : State) (k : Nat) (f : PtpPort → PtpPort) : State :=
  { s with time := { s.time with ptp := s.time.ptp.insert k (f (s.ptpPort k)) } }

/-- A message of a port with its sequence number. -/
def ptpOwn (k : Nat) (kind : PtpKind) (seq : Nat) : PtpMessage := ⟨kind, ptpIdentity k, seq, false, 0, 0, 0, []⟩

/-- Put a message at the end of a port's queue. -/
def PtpPort.push (p : PtpPort) (m : PtpMessage) : PtpPort := { p with queue := p.queue ++ [m] }

/-- A hardware timestamp: the network time at the reference plane, within ±4 ns. -/
def State.ptpStamp (s : State) (k : Nat) : Nat := s.time.total + Config.ptpStampError (16 * s.time.total + k) % 9 - 4

/-! ### Departure -/

/-- The address entry of a PTP message: the multicast addresses of its transport. -/
def ptpAddress (k : Nat) (kind : PtpKind) : AddrEntry :=
  let t := Config.ptpTransport k
  if t = 2 then
    { mode := 2, dscp := 0, vlan := 0, mac := [0x01, 0x00, 0x5E, 0x00] ++ (if kind.peer then [0x00, 0x6B] else [0x01, 0x81])
      ip := [224, 0] ++ (if kind.peer then [0, 107] else [1, 129]) ++ List.replicate 12 0 }
  else if t = 3 then
    { mode := 3, dscp := 0, vlan := 0, mac := [0x33, 0x33, 0x00, 0x00] ++ (if kind.peer then [0x00, 0x6B] else [0x01, 0x81])
      ip := [0xFF, if kind.peer then 0x02 else 0x0E] ++ List.replicate 12 0 ++ (if kind.peer then [0x00, 0x6B] else [0x01, 0x81]) }
  else
    { mode := 1, dscp := 0, vlan := 0
      mac := if kind.peer then [0x01, 0x80, 0xC2, 0x00, 0x00, 0x0E] else [0x01, 0x1B, 0x19, 0x00, 0x00, 0x00]
      ip := List.replicate 16 0 }

/-- The frame of a body: headers, body, padding to 60 bytes, FCS. -/
def wireFrame (head body : Bytes) : WireFrame :=
  let body := body ++ List.replicate (60 - (head.length + body.length)) 0
  ⟨head, body, frameFcs (head ++ body)⟩

/-- The frame of a PTP message. -/
def ptpFrame (k : Nat) (m : PtpMessage) : WireFrame :=
  let port := if m.kind.event then portPtpEvent else portPtpGeneral
  wireFrame (frameHead (ptpAddress k m.kind) ⟨Config.portMac k, Config.portIp k, etherPtp, port, port⟩ m.bytes) m.bytes

/-- A message as it leaves at a time: a Sync takes its origin, a Pdelay_Resp its turnaround; under two-step egress the time
goes into a Follow_Up, which is queued. A request's departure is remembered. -/
def PtpPort.depart (p : PtpPort) (k at_ : Nat) (m : PtpMessage) : PtpPort × PtpMessage :=
  let two := Config.ptpTwoStep k
  match m.kind with
  | .sync =>
    if two then (p.push { m with kind := .followUp, time := at_ }, { m with twoStep := true })
    else (p, { m with time := at_ })
  | .delayReq | .peerReq => ({ p with asked := some (m.seq, some at_) }, m)
  | .peerResp =>
    if two then (p.push { m with kind := .peerFollowUp, correction := 0, time := at_ }, { m with twoStep := true })
    else (p, { m with correction := m.correction + ((at_ : Int) - m.time) * 65536, time := 0 })
  | _ => (p, m)

/-- The first PTP message of a sub-port leaves at the frame boundary (R244). -/
def State.sendPtp (s : State) (port sub : Nat) (m : PtpMessage) (rest : List PtpMessage) : State :=
  let k := ptpKey port sub
  let (p, m) := { s.ptpPort k with queue := rest }.depart k (s.ptpStamp k) m
  let t := s.adjustPtp k fun _ => p
  t.setPort port { t.port port with wire := (t.port port).wire.insert sub (ptpFrame k m) }

/-! ### Best master (default profiles) -/

/-- Is a list below another, field by field? -/
def lexBelow : List Nat → List Nat → Bool
  | [], [] => false
  | [], _ :: _ => true
  | _ :: _, [] => false
  | a :: x, b :: y => a < b || (a = b && lexBelow x y)

/-- This clock's own dataset, with its identity and no steps. -/
def ptpOwnDataset : List Nat := Config.ptpDataset ++ [Config.ptpClock % 2 ^ 64, 0]

/-- What an Announce ranks by: its dataset one step further, and its sender. -/
def announceRank (e : Nat × List Nat) : List Nat := e.2 ++ [e.1]

/-- The port with the best Announce, of all. -/
def State.bestPort (s : State) : Option (Nat × Nat × List Nat) :=
  s.time.ptp.entries.foldl (fun (best : Option (Nat × Nat × List Nat)) e =>
    match e.2.heard, best with
    | some h, some b => if lexBelow (announceRank h) (announceRank b.2) then some (e.1, h) else best
    | some h, none => some (e.1, h)
    | none, _ => best) none

/-- Is the best Announce heard better than this clock itself? -/
def State.masterAbove (s : State) : Option (Nat × Nat × List Nat) :=
  s.bestPort.bind fun b => if Config.ptpSlaveOnly || lexBelow b.2.2 ptpOwnDataset then some b else none

/-- The dataset that this clock announces: its master's one step further, or its own. -/
def State.announced (s : State) : List Nat :=
  match s.masterAbove with
  | some b => b.2.2.take 6 ++ [(b.2.2.getD 6 0) + 1]
  | none => ptpOwnDataset

/-- The role of a port after a decision: the best port is the slave; a port that hears a clock better than what this one
announces is passive; the others are masters, as a boundary clock or a grandmaster has them. -/
def State.ptpRole (s : State) (k : Nat) (p : PtpPort) : PtpRole :=
  match s.masterAbove with
  | none => .master
  | some b =>
    if k = b.1 then .slave
    else if Config.ptpSlaveOnly then .listening
    else match p.heard with
      | some h => if lexBelow (announceRank h) (s.announced ++ [ptpIdentity k]) then .passive else .master
      | none => .master

/-- The roles of every port after a decision. A port that becomes slave measures afresh. -/
def State.settleRoles (s : State) : State :=
  ((List.range 5).flatMap fun p => (List.range 4).map (ptpKey p)).foldl (fun t k =>
    let r := s.ptpRole k (s.ptpPort k)
    if (s.ptpPort k).role = r then t
    else t.adjustPtp k fun p => { p with role := r, sync := none, behind := none, asked := none, turn := none, delay := 0 }) s

/-- The master is lost: what the slave port heard of it is forgotten, until an Announce decides again. -/
def State.forgetMaster (s : State) : State :=
  { s with time := { s.time with ptp := s.time.ptp.mapVals fun _ p =>
      if p.role = .slave then { p with role := .listening, heard := none } else p } }

/-! ### Messages that this device sends -/

/-- A port sends a message of a kind that it may send of itself: Sync and Announce as master, a delay request under its
mechanism. -/
def State.ptpSend (s : State) (k : Nat) (kind : PtpKind) : State :=
  let p := s.ptpPort k
  let m := ptpOwn k kind p.seq
  let go := fun (m : PtpMessage) => s.adjustPtp k fun p => { p.push m with seq := (p.seq + 1) % 2 ^ 16 }
  match kind with
  | .sync => if p.role = .master then go m else s
  | .announce => if p.role = .master then go { m with dataset := s.announced } else s
  | .delayReq =>
    if p.role = .slave && !Config.ptpPeerDelay k then (go m).adjustPtp k fun p => { p with asked := some (m.seq, none) } else s
  | .peerReq => if Config.ptpPeerDelay k then (go m).adjustPtp k fun p => { p with asked := some (m.seq, none), turn := none } else s
  | _ => s

/-! ### Messages that arrive -/

/-- Correction in whole nanoseconds. -/
def PtpMessage.corrNs (m : PtpMessage) : Int := m.correction / 65536

/-- A Sync or its Follow_Up ends a measurement: offset with the path delay in it. -/
def PtpPort.measure (p : PtpPort) (arrival origin : Nat) (corr : Int) : PtpPort :=
  { p with sync := none, behind := some ((arrival : Int) - origin - corr) }

/-- A port takes a message that arrived at a time. Answers the port, and the offset from the master where one was
measured. -/
def PtpPort.take (p : PtpPort) (k at_ : Nat) (m : PtpMessage) : PtpPort × Option Int :=
  let fromMaster : Bool := p.role = .slave && (p.heard.map (·.1)) = some m.source
  let measured := fun (q : PtpPort) => (q, q.behind.map (· - q.delay))
  match m.kind with
  | .sync =>
    if !fromMaster then (p, none)
    else if m.twoStep then ({ p with sync := some (m.seq, at_, m.corrNs) }, none)
    else measured (p.measure at_ m.time m.corrNs)
  | .followUp =>
    match p.sync with
    | some (q, t, c) => if fromMaster && q = m.seq then measured (p.measure t m.time (c + m.corrNs)) else (p, none)
    | none => (p, none)
  | .delayReq =>
    if p.role = .master && !Config.ptpPeerDelay k then
      (p.push { ptpOwn k .delayResp m.seq with time := at_, peer := m.source, correction := m.correction }, none)
    else (p, none)
  | .delayResp =>
    match p.asked, p.behind with
    | some (q, some left), some b =>
      if fromMaster && m.peer = ptpIdentity k && q = m.seq then
        measured { p with asked := none, delay := (b + ((m.time : Int) - m.corrNs - left)) / 2 }
      else (p, none)
    | _, _ => (p, none)
  | .peerReq =>
    if Config.ptpPeerDelay k then
      (p.push { ptpOwn k .peerResp m.seq with time := at_, peer := m.source, correction := m.correction }, none)
    else (p, none)
  | .peerResp =>
    match p.asked with
    | some (q, some left) =>
      if m.peer = ptpIdentity k && q = m.seq then
        if m.twoStep then ({ p with turn := some (m.time, at_, m.corrNs) }, none)
        else ({ p with asked := none, delay := ((at_ : Int) - left - m.corrNs) / 2 }, none)
      else (p, none)
    | _ => (p, none)
  | .peerFollowUp =>
    match p.asked, p.turn with
    | some (q, some left), some (receipt, arrival, c) =>
      if m.peer = ptpIdentity k && q = m.seq then
        ({ p with asked := none, turn := none, delay := ((arrival : Int) - left - ((m.time : Int) - receipt) - c - m.corrNs) / 2 }, none)
      else (p, none)
    | _, _ => (p, none)
  | .announce =>
    let e := (m.source, m.dataset)
    if m.source / 2 ^ 16 = Config.ptpClock % 2 ^ 64 then (p, none) else
    match p.heard with
    | some h => if h.1 = m.source || lexBelow (announceRank e) (announceRank h) then ({ p with heard := some e }, none) else (p, none)
    | none => ({ p with heard := some e }, none)

end Sys2Proof.Machine
end

