-- ==== Sys2Proof/Machine/Pools.lean ====
section
/-! DEFINITION. The buffer pool managers (R260 to R265, R272). -/

namespace Sys2Proof.Machine

/-- Codes of Table 9-6. -/
def ST_POOL_DOUBLE_FREE : Nat := 0x0088
def ST_POOL_NOT_HELD : Nat := 0x0089
def ST_POOL_HANDLE : Nat := 0x008A

/-- Pool and index of a handle (R261). -/
def handlePool (h : Nat) : Nat := h / 2 ^ 26 % 64
def handleIndex (h : Nat) : Nat := h % 2 ^ 26
/-- The handle of a buffer. -/
def handleOf (pool index : Nat) : Nat := pool * 2 ^ 26 + index

/-- FREE buffers of a pool. -/
def Pool.free (p : Pool) : Nat := p.buffers - p.held.entries.length

/-- Warning level of Table 9-4. -/
def Pool.level (p : Pool) : Nat :=
  if p.free * 16 < p.buffers then 3 else if p.free * 8 < p.buffers then 2 else if p.free * 4 < p.buffers then 1 else 0

/-- The registers show a pool as it is now (R272). -/
def State.showPool (s : State) (k : Nat) (p : Pool) : State :=
  let t := s.setFld (Reg.POOL_FREE k) Fld.POOL_FREE_COUNT p.free
  let t := t.setFld (Reg.POOL_STATUS k) Fld.POOL_STATUS_LEVEL p.level
  let t := t.setBit (Reg.POOL_STATUS k) Fld.POOL_STATUS_EMPTY (p.free = 0)
  t.setFld (Reg.POOL_MIN_FREE k) Fld.POOL_MIN_FREE_COUNT (min (t.fld (Reg.POOL_MIN_FREE k) Fld.POOL_MIN_FREE_COUNT) p.free)

/-- Change a pool. -/
def State.setPool (s : State) (k : Nat) (p : Pool) : State := { s with pools := s.pools.insert k p }.showPool k p

/-- The requester entry of a stage. -/
def Pool.requester (p : Pool) (stage : Nat) : Option Requester := p.requesters.find? fun r => r.stage = stage

/-- Buffers that count against a stage's QUOTA (R262). -/
def Pool.heldBy (p : Pool) (stage : Nat) : Nat := (p.held.vals.filter fun b => b.stage = stage).length

/-- The grant test of Table 9-4 for `f` buffers free after the grant. -/
def grantTest (priority f buffers : Nat) : Bool :=
  match priority with
  | 3 => f * 4 ≥ buffers
  | 2 => f * 8 ≥ buffers
  | 1 => f * 16 ≥ buffers
  | _ => true

/-- Is a request of a stage granted now (R262)? -/
def Pool.grants (p : Pool) (stage : Nat) : Bool :=
  match p.requester stage with
  | some r => 0 < p.free && p.heldBy stage < r.quota && grantTest r.priority (p.free - 1) p.buffers
  | none => false

/-- FREE buffers in ascending order. -/
def Pool.freeList (p : Pool) : List Nat := (List.range p.buffers).filter fun i => (p.held.find i).isNone

/-- Allocate a FREE buffer for a stage: which one is a free value (R261). Answers its index. -/
def State.poolTake (s : State) (k : Nat) (p : Pool) (stage : Nat) : State × Nat :=
  let i := p.freeList.getD (s.freeValue % p.free) 0
  (s.drew.setPool k { p with held := p.held.insert i ⟨1, stage⟩ }, i)

/-- The waiting request that is served next: of highest priority, the oldest, that passes its test (R263). -/
def Pool.nextServed (p : Pool) : Option Nat :=
  let ok := p.waiting.zipIdx.filter fun e => p.grants e.1.1
  let pr := fun (e : (Nat × Option (Nat × Nat)) × Nat) => ((p.requester e.1.1).map (·.priority)).getD 0
  (ok.foldl (fun (best : Option ((Nat × Option (Nat × Nat)) × Nat)) e =>
    match best with
    | none => some e
    | some b => if pr e > pr b then some e else some b) none).map (·.2)

/-- A granted OALLOC: the core takes the handle and goes on (R85). -/
def State.grantCore (s : State) (who : Option (Nat × Nat)) (handle : Nat) : State :=
  match who with
  | none => s
  | some (c, d) => s.setCore c (((s.core c).setS d (BitVec.ofNat 64 handle)).retire)

/-- Serve waiting requests after a release (R263); `n` bounds their number. -/
def State.poolServe (k : Nat) : (n : Nat) → State → State
  | 0, s => s
  | n + 1, s =>
    match s.pools.find k with
    | none => s
    | some p =>
      match p.nextServed with
      | none => s
      | some i =>
        let w := p.waiting.getD i (0, none)
        let (t, idx) := s.poolTake k { p with waiting := p.waiting.eraseIdx i } w.1
        let t := t.bump (Reg.POOL_WAITS k) Fld.POOL_WAITS_COUNT
        State.poolServe k n (t.grantCore w.2 (handleOf k idx))

/-- A request of a stage: granted, with the index of the buffer, or waiting (R262, R263). -/
def State.poolRequest (s : State) (k stage : Nat) (who : Option (Nat × Nat)) : State × Option Nat :=
  match s.pools.find k with
  | none => (s, none)
  | some p =>
    if p.grants stage then let r := s.poolTake k p stage; (r.1, some r.2)
    else if (p.requester stage).isSome then (s.setPool k { p with waiting := p.waiting ++ [(stage, who)] }, none)
    else (s, none)

/-- A refusal (R265). -/
def State.poolRefuse (s : State) (handle stage code : Nat) : State :=
  let k := handlePool handle
  let t := (s.setBit (Reg.POOL_STATUS k) Fld.POOL_STATUS_ERR true).bumpSat (Reg.POOL_ERRORS k) Fld.POOL_ERRORS_COUNT
  let t := t.setFld (Reg.POOL_ERR_HANDLE k) Fld.POOL_ERR_HANDLE_HANDLE handle
  let t := (t.setFld (Reg.POOL_ERR_INFO k) Fld.POOL_ERR_INFO_STAGE stage).setFld (Reg.POOL_ERR_INFO k) Fld.POOL_ERR_INFO_CODE code
  t.raise 6

/-- A release: the count goes down by one, the buffer is FREE at 0, and waiting requests are served (R264). -/
def State.poolRelease (s : State) (handle stage : Nat) : State :=
  let k := handlePool handle
  match s.pools.find k with
  | none => s.poolRefuse handle stage ST_POOL_HANDLE
  | some p =>
    if handleIndex handle ≥ p.buffers then s.poolRefuse handle stage ST_POOL_HANDLE else
    match p.held.find (handleIndex handle) with
    | none => s.poolRefuse handle stage ST_POOL_DOUBLE_FREE
    | some b =>
      if b.count ≤ 1 then
        State.poolServe k (p.waiting.length + 1) (s.setPool k { p with held := p.held.erase (handleIndex handle) })
      else s.setPool k { p with held := p.held.insert (handleIndex handle) { b with count := b.count - 1 } }

/-- A holder sets the count of a HELD buffer (R264). -/
def State.poolSetCount (s : State) (handle stage count : Nat) : State :=
  let k := handlePool handle
  match s.pools.find k with
  | none => s.poolRefuse handle stage ST_POOL_HANDLE
  | some p =>
    if handleIndex handle ≥ p.buffers then s.poolRefuse handle stage ST_POOL_HANDLE else
    match p.held.find (handleIndex handle) with
    | none => s.poolRefuse handle stage ST_POOL_NOT_HELD
    | some b =>
      if 1 ≤ count ∧ count ≤ 255 then s.setPool k { p with held := p.held.insert (handleIndex handle) { b with count := count } }
      else s

/-- POOL_REQUEST (R262): a stage that is not a requester of the pool allocates nothing (R260). -/
def execPoolRequest (pool : Fin 64) (stage : Nat) (s : State) : Host.Outcome State Fault Refusal :=
  act (fun s => (s.poolRequest pool stage none).1) s

/-- POOL_RELEASE (R264, R265). -/
def execPoolRelease (handle stage : Nat) (s : State) : Host.Outcome State Fault Refusal :=
  act (fun s => s.poolRelease handle stage) s

/-- POOL_SET_COUNT (R264, R265). -/
def execPoolSetCount (handle stage count : Nat) (s : State) : Host.Outcome State Fault Refusal :=
  act (fun s => s.poolSetCount handle stage count) s

/-- A read of POOL_MIN_FREE (R272). -/
def State.poolMinFreeRead (s : State) (k : Nat) : State :=
  { s.setFld (Reg.POOL_MIN_FREE k) Fld.POOL_MIN_FREE_COUNT (s.fld (Reg.POOL_FREE k) Fld.POOL_FREE_COUNT) with
    hostRead := s.reg (Reg.POOL_MIN_FREE k) }

/-- POOL_MIN_FREE_READ (R272). -/
def execPoolMinFreeRead (pool : Fin 64) (s : State) : Host.Outcome State Fault Refusal :=
  hostAct (Reg.POOL_MIN_FREE pool) (fun s => s.poolMinFreeRead pool) s

/-- Address of a buffer's first byte. -/
def Pool.bufferAt (p : Pool) (index : Nat) : Nat := p.base + index * p.bufSize

/-- Space, address and size of the buffer that a handle names, where it names one. -/
def State.bufferOf (s : State) (handle : Nat) : Option (Space × Nat × Nat) :=
  (s.pools.find (handlePool handle)).bind fun p =>
    if handleIndex handle < p.buffers then
      some (if p.dram then .dram else .sram, p.bufferAt (handleIndex handle), p.bufSize)
    else none

end Sys2Proof.Machine
end

