-- ==== Sys2Proof/Machine/Queues.lean ====
section
/-! DEFINITION. The prepared-batch queues (R172, R193 to R197). -/

namespace Sys2Proof.Machine

/-- The stage of a kind with the lowest STAGE_ID (log entry 28). -/
def Image.stageOfKind (im : Image) (kind : Nat) : Option Stage :=
  (im.stages.filter fun st => st.kind = kind).foldl (fun (best : Option Stage) (st : Stage) => match best with
    | some b => if st.id < b.id then some st else some b
    | none => some st) none

/-- The pack table of a job's image. -/
def State.packTable (s : State) (slot : Nat) : PackTable :=
  match s.jobImage slot with
  | some im => packTableOf (((im.stageOfKind kindPack).map fun st => im.table st.table).getD [])
  | none => packTableOf []

/-- The order table of a job's image: the TABLE of its SOURCE stage (R167). -/
def State.orderTable (s : State) (slot : Nat) : OrderTable :=
  match s.jobImage slot with
  | some im => orderTableOf (((im.stageOfKind kindSource).map fun st => im.table st.table).getD [])
  | none => orderTableOf []

/-- First byte and length of the DRAM range that a claim of an image names. -/
def Image.claimRange (im : Image) (i : Nat) : Nat × Nat :=
  match im.claims[i]? with
  | some c => if c.rtype = 0x08 then (c.index * 2 ^ 20, c.count * 2 ^ 20) else (0, 0)
  | none => (0, 0)

/-- DEPTH of a queue in bytes. -/
def State.queueDepth (s : State) (q : Nat) : Nat := s.fld (Reg.PBQ_DEPTH q) Fld.PBQ_DEPTH_MIB * 2 ^ 20

/-- Entries that a queue holds (R193). -/
def State.queueCapacity (s : State) (q : Nat) : Nat :=
  match s.queues.find q with
  | some x => s.queueDepth q / (s.packTable x.job).entrySize
  | none => 0

/-- Ready batches: packed and not yet fully delivered (R197). -/
def State.queueReady (s : State) (q : Nat) : Nat :=
  ((s.queues.find q).map fun x => (x.entries.filter fun e => e.refs ≠ 0).length).getD 0

/-- Is a queue full? An entry counts until it is freed. -/
def State.queueFull (s : State) (q : Nat) : Bool :=
  s.queueCapacity q ≤ ((s.queues.find q).map (·.entries.length)).getD 0

/-- The registers show a queue whose ready count was `old` (R195): it becomes PRIMED at the mark; a fall to
just below the mark alarms while the job is RUNNING; BELOW clears at the mark. -/
def State.showQueue (s : State) (q old : Nat) : State :=
  let now := s.queueReady q
  let mark := s.fld (Reg.PBQ_LOW_WATER q) Fld.PBQ_LOW_WATER_BATCHES
  let job := ((s.queues.find q).map (·.job)).getD 0
  let primed := s.bit (Reg.PBQ_STATUS q) Fld.PBQ_STATUS_PRIMED
  let t := s.setFld (Reg.PBQ_READY q) Fld.PBQ_READY_COUNT now
  let t := t.setBit (Reg.PBQ_STATUS q) Fld.PBQ_STATUS_FULL (s.queueFull q)
  let t := if mark ≤ now && mark ≠ 0 && s.jobActive job then
      (t.setBit (Reg.PBQ_STATUS q) Fld.PBQ_STATUS_PRIMED true).setBit (Reg.PBQ_STATUS q) Fld.PBQ_STATUS_BELOW false
    else t
  if primed && mark ≠ 0 && s.jobState job = jobRunning && old = mark && now + 1 = mark then
    let t := (t.setBit (Reg.PBQ_STATUS q) Fld.PBQ_STATUS_BELOW true).setBit (Reg.PBQ_STATUS q) Fld.PBQ_STATUS_ALARM true
    (t.bumpSat (Reg.PBQ_ALARMS q) Fld.PBQ_ALARMS_COUNT).raiseCoalesced (0x1000 + q) 4
  else t

/-- The Heel session of a job, where one is enabled (R208). -/
def State.heelOf (s : State) (slot : Nat) : Option Nat :=
  (List.range 4).find? fun k => s.bit (Reg.HEEL_CTRL k) Fld.HEEL_CTRL_ENABLE && s.fld (Reg.HEEL_CTRL k) Fld.HEEL_CTRL_JOB = slot

/-! ### Resume records (R332) -/

/-- A resume record (Table 12-4). -/
structure Resume where
  rank : Nat
  held : Bool
  done : Bool
  epoch : Nat
  index : Nat
  ordinal : Nat
  next : Nat
  docPos : Nat
  docToken : Nat
deriving DecidableEq, Repr

/-- The 48 bytes of a resume record. -/
def Resume.bytes (r : Resume) : Bytes :=
  leBytes 2 r.rank ++ leBytes 2 (r.held.toNat + 2 * r.done.toNat) ++ leBytes 4 r.epoch ++ leBytes 8 r.index ++
    leBytes 8 r.ordinal ++ leBytes 8 r.next ++ leBytes 8 r.docPos ++ leBytes 4 r.docToken ++ leBytes 4 0

/-- Read a resume record. -/
def resumeOf (b : Bytes) : Resume where
  rank := fieldAt b 0 2
  held := natBit (fieldAt b 2 2) 0
  done := natBit (fieldAt b 2 2) 1
  epoch := fieldAt b 4 4
  index := fieldAt b 8 8
  ordinal := fieldAt b 0x10 8
  next := fieldAt b 0x18 8 % 2 ^ 48
  docPos := fieldAt b 0x20 8
  docToken := fieldAt b 0x28 4

/-- Where a rank goes on from a record: at its held document, which lies before NEXT_POSITION in the order of the
rank, or at NEXT_POSITION (R332). -/
def Resume.cursor (r : Resume) : Cursor :=
  if r.held then ⟨if r.docPos < r.next then r.epoch else r.epoch - 1, r.docPos⟩ else ⟨r.epoch, r.next⟩

/-- Ranks of a job (R171, R330). -/
def Job.ranks (j : Job) : Nat := j.map.ranks.length

/-- Does a job run an epoch (R58)? EPOCHS 0 runs until stopped. -/
def Job.hasEpoch (j : Job) (e : Nat) : Bool := j.desc.epochs = 0 || e < j.desc.startEpoch + j.desc.epochs

/-- The cursor of a rank at or after a place; none when the job has no further position of it. -/
def State.rankCursor (s : State) (slot rank : Nat) (c : Cursor) : Option Cursor :=
  (s.jobs.find slot).bind fun j =>
    (streamCursor j.manifest.total (s.orderTable slot).deal j.ranks rank c).filter fun x => j.hasEpoch x.epoch

/-- PBQ_NEXT_POS of a stream's queue shows its first position at or after a place (R197); where the stream has none, the
register stands. -/
def State.showCursor (s : State) (slot rank : Nat) (c : Cursor) : State :=
  match (s.jobs.find slot).bind fun j => (j.stream rank).map fun st => (j, st) with
  | some (j, st) =>
    match streamCursor j.manifest.total (s.orderTable slot).deal j.ranks rank c with
    | some x => if (s.queues.find st.queue).isSome then s.setFld (Reg.PBQ_NEXT_POS st.queue) Fld.PBQ_NEXT_POS_POSITION x.pos else s
    | none => s
  | none => s

/-- The record of a rank at the job's start. -/
def State.resumeStart (s : State) (slot rank : Nat) : Resume :=
  match s.jobs.find slot with
  | none => ⟨rank, false, true, 0, 0, 0, 0, 0, 0⟩
  | some j =>
    match s.rankCursor slot rank ⟨j.desc.startEpoch, j.desc.startPosition⟩ with
    | some c => ⟨rank, false, false, c.epoch, 0, 0, c.pos, 0, 0⟩
    | none => ⟨rank, false, true, j.desc.startEpoch, 0, 0, 0, 0, 0⟩

/-- The record of the batch after a closed one: NEXT_POSITION follows its LAST_POSITION within the rank, and
its last entry tells whether a document continues. -/
def State.resumeAfter (s : State) (slot rank ordinal : Nat) (b : Closed) : Resume :=
  let lastEntry := b.entries.getLast?
  let held := (lastEntry.map fun e => hasFlag e.flags flagContinues).getD false
  let docPos := if held then (lastEntry.map (·.position)).getD 0 else 0
  let at_ : Cursor := ⟨b.lastEpoch, b.last + 1⟩
  let beyond := (s.jobs.find slot).bind fun j => streamCursor j.manifest.total (s.orderTable slot).deal j.ranks rank at_
  let next := s.rankCursor slot rank at_
  let epoch := (beyond.map (·.epoch)).getD b.lastEpoch
  let first := if held then b.lastEpoch else epoch
  { rank := rank, held := held, done := next.isNone && !held, epoch := epoch
    index := if first = b.epoch then b.index + 1 else 0
    ordinal := ordinal + 1, next := (beyond.map (·.pos)).getD 0, docPos := docPos
    docToken := if held then b.docToken else 0 }

/-- Write a closed batch to the queue of a rank (R193): the entry lies in the ring at its ordinal. -/
def State.pushBatch (s : State) (slot q ordinal refs : Nat) (b : Closed) : State :=
  match s.queues.find q with
  | none => s
  | some x =>
    let cap := s.queueCapacity q
    let at_ := x.base + ordinal % (max cap 1) * (s.packTable slot).entrySize
    let e : QueueEntry := ⟨b, (s.resumeAfter slot x.rank ordinal b).bytes, ordinal, refs, (s.heelOf slot).isNone, at_⟩
    let old := s.queueReady q
    let t := { (s.writeMem .dram at_ b.data) with queues := s.queues.insert q { x with entries := x.entries ++ [e] } }
    (t.bump (Reg.PBQ_PACKED q) Fld.PBQ_PACKED_COUNT).showQueue q old

/-- Free the entries at the front that are delivered and compared (R193, R210). -/
def State.freeEntries (s : State) (q : Nat) : State :=
  match s.queues.find q with
  | none => s
  | some x =>
    let rest := x.entries.dropWhile fun e => e.refs = 0 && e.compared
    State.showQueue { s with queues := s.queues.insert q { x with entries := rest } } q (s.queueReady q)

/-- One completed delivery of an entry: the reference count goes down, and a batch whose delivery is
complete is counted (R193, R243, R264). -/
def State.releaseEntry (s : State) (q ordinal : Nat) : State :=
  match s.queues.find q with
  | none => s
  | some x =>
    let done := x.entries.any fun e => e.ordinal = ordinal && e.refs = 1
    let es := x.entries.map fun e => if e.ordinal = ordinal then { e with refs := e.refs - 1 } else e
    let t := { s with queues := s.queues.insert q { x with entries := es } }
    let t := if done then t.bump (Reg.ENL_JOB_BATCHES x.job) Fld.ENL_JOB_BATCHES_COUNT else t
    (t.showQueue q (s.queueReady q)).freeEntries q

/-- A batch counts as compared (R210). -/
def State.markCompared (s : State) (q epoch index : Nat) : State :=
  match s.queues.find q with
  | none => s
  | some x =>
    let es := x.entries.map fun e => if e.batch.epoch = epoch && e.batch.index = index then { e with compared := true } else e
    { s with queues := s.queues.insert q { x with entries := es } }.freeEntries q

/-- Empty a queue (R186, R336). -/
def State.emptyQueue (s : State) (q : Nat) : State :=
  match s.queues.find q with
  | none => s
  | some x => { s with queues := s.queues.insert q { x with entries := [] } }.showQueue q 0

/-- Queues that lie in the same claimed range as job `slot`'s queues would: those of non-EMPTY jobs of the
same hedge whose image names the same claim. -/
def State.queuesInClaim (s : State) (slot : Nat) : List (Nat × Queue) :=
  let h := (s.jobs.find slot).map (·.desc.hedge)
  s.queues.entries.filter fun e => (s.jobs.find e.2.job).map (·.desc.hedge) = h

/-- The lowest address of a range where `need` bytes fit among the ranges in use. -/
def firstFit (start len need : Nat) (used : List (Nat × Nat)) : Option Nat :=
  let starts := start :: used.map fun u => u.1 + u.2
  let ok := starts.filter fun a => start ≤ a && a + need ≤ start + len && used.all fun u => !rangesMeetNat a need u.1 u.2
  ok.foldl (fun (best : Option Nat) a => match best with
    | some b => some (min a b)
    | none => some a) none
where
  /-- Do two ranges share a byte? -/
  rangesMeetNat (a n b m : Nat) : Bool := a < b + m && b < a + n

/-- First byte and length of the range in which the queues of a job lie. -/
def State.queueRange (s : State) (slot : Nat) : Nat × Nat :=
  ((s.jobImage slot).map fun im => im.claimRange (s.packTable slot).queueClaim).getD (0, 0)

/-- Do the queues of a claim, and `need` bytes beside them, exceed its range: the test of R172? -/
def State.queuesExceed (s : State) (slot need : Nat) : Bool :=
  decide ((s.queueRange slot).2 < (s.queuesInClaim slot).foldl (fun n e => n + s.queueDepth e.1) need)

/-- The queues of a claim are moved together at its start, in the order of their places, with the batches that they hold: done
where no hole of the range is long enough although the queues do not exceed it (DESIGN CHOICE, log entry 52). -/
def State.gatherQueues (s : State) (slot : Nat) : State :=
  let qs := (s.queuesInClaim slot).mergeSort fun (a b : Nat × Queue) => decide (a.2.base ≤ b.2.base)
  let move := fun (acc : State × Nat) (e : Nat × Queue) =>
    let place := fun (x : QueueEntry) => x.at_ - e.2.base + acc.2
    let t := e.2.entries.foldl (fun (t : State) x => t.writeMem .dram (place x) (s.readMem .dram x.at_ x.batch.data.length)) acc.1
    let q := { e.2 with base := acc.2, entries := e.2.entries.map fun x => { x with at_ := place x } }
    (({ t with queues := t.queues.insert e.1 q }).setReg (Reg.PBQ_BASE e.1) (BitVec.ofNat 64 acc.2), acc.2 + s.queueDepth e.1)
  (qs.foldl move (s, (s.queueRange slot).1)).1

/-- The lowest place in the range of a job's claim for a queue of `need` bytes. -/
def State.freePlace (s : State) (slot need : Nat) : Option Nat :=
  firstFit (s.queueRange slot).1 (s.queueRange slot).2 need ((s.queuesInClaim slot).map fun e => (e.2.base, s.queueDepth e.1))

/-- Allocate one queue for a rank of a job (R172, R330): its number, or the code. -/
def State.allocQueue (s : State) (slot rank : Nat) : Except Nat (State × Nat) :=
  match s.jobs.find slot, (List.range 1024).find? fun q => (s.queues.find q).isNone with
  | some _, some q =>
    let t := s.packTable slot
    let need := t.depthMib * 2 ^ 20
    if s.queuesExceed slot need then .error ST_PBQ_SPACE
    else
      let v := if (s.freePlace slot need).isNone then s.gatherQueues slot else s
      let base := (v.freePlace slot need).getD (s.queueRange slot).1
      let u := { (v.clearRegs (Reg.PBQ_OWNER q) (Reg.PBQ_OWNER q + 0x40)) with queues := v.queues.insert q ⟨slot, rank, base, []⟩ }
      let u := ((u.setFld (Reg.PBQ_OWNER q) Fld.PBQ_OWNER_JOB slot).setFld (Reg.PBQ_OWNER q) Fld.PBQ_OWNER_RANK rank).setBit
        (Reg.PBQ_OWNER q) Fld.PBQ_OWNER_VALID true
      let u := (u.setFld (Reg.PBQ_DEPTH q) Fld.PBQ_DEPTH_MIB t.depthMib).setFld (Reg.PBQ_LOW_WATER q)
        Fld.PBQ_LOW_WATER_BATCHES t.lowWater
      let u := u.setReg (Reg.PBQ_BASE q) (BitVec.ofNat 64 base)
      .ok (u.setFld (Reg.PBQ_ENTRIES q) Fld.PBQ_ENTRIES_COUNT (t.depthMib * 2 ^ 20 / t.entrySize), q)
  | _, _ => .error ST_PBQ_QUEUES

/-- Free a queue: its registers return to their reset values (R172). -/
def State.freeQueue (s : State) (q : Nat) : State :=
  { (s.clearRegs (Reg.PBQ_OWNER q) (Reg.PBQ_OWNER q + 0x40)) with queues := s.queues.erase q }

/-- Free every queue of a job. -/
def State.freeQueues (s : State) (slot : Nat) : State :=
  (s.queues.entries.filter fun e => e.2.job = slot).foldl (fun t e => t.freeQueue e.1) s

/-- Place the queues of a job again with the depths that PBQ_DEPTH gives (R194): the state, or the code. Each goes to the
lowest hole that holds it; where one finds none, the queues of the claim are moved together. -/
def State.placeQueues (s : State) (slot : Nat) : Except Nat State :=
  let entry := (s.packTable slot).entrySize
  let own := s.queues.entries.filter fun e => e.2.job = slot
  if (own.any fun e => s.queueDepth e.1 / entry < 2) || s.queuesExceed slot 0 then .error ST_PBQ_SPACE
  else
    let others := ((s.queuesInClaim slot).filter fun e => e.2.job ≠ slot).map fun e => (e.2.base, s.queueDepth e.1)
    let place := fun (acc : Option (State × List (Nat × Nat))) (e : Nat × Queue) =>
      acc.bind fun a => (firstFit (s.queueRange slot).1 (s.queueRange slot).2 (s.queueDepth e.1) a.2).map fun base =>
        (({ a.1 with queues := a.1.queues.insert e.1 { e.2 with base := base } }).setReg (Reg.PBQ_BASE e.1) (BitVec.ofNat 64 base),
          (base, s.queueDepth e.1) :: a.2)
    let t := ((own.foldl place (some (s, others))).map (·.1)).getD (s.gatherQueues slot)
    .ok (own.foldl (fun (t : State) e => t.setFld (Reg.PBQ_ENTRIES e.1) Fld.PBQ_ENTRIES_COUNT (s.queueDepth e.1 / entry)) t)

/-- A write of PBQ_DEPTH takes effect only while the job is READY (R194). -/
def State.pbqDepthWrite (s : State) (q : Nat) (v : Word64) : State :=
  match s.queues.find q with
  | some x =>
    let mib := getFld Fld.PBQ_DEPTH_MIB v
    if s.jobState x.job = jobReady && 1 ≤ mib && mib ≤ 16384 then
      let t := s.setFld (Reg.PBQ_DEPTH q) Fld.PBQ_DEPTH_MIB mib
      t.setFld (Reg.PBQ_ENTRIES q) Fld.PBQ_ENTRIES_COUNT (t.queueCapacity q)
    else s
  | none => s

/-- PBQ_DEPTH_WRITE (R194). -/
def execPbqDepthWrite (queue : Fin 1024) (value : Word64) (s : State) : Host.Outcome State Fault Refusal :=
  hostAct (Reg.PBQ_DEPTH queue) (fun s => s.pbqDepthWrite queue value) s

end Sys2Proof.Machine
end

