-- ==== Sys2Proof/Machine/Transport.lean ====
section
/-! DEFINITION. Plyn's sending side, answers, gates and shapers (R219, R221 to R229, R237, R239, R245 to R248). -/

namespace Sys2Proof.Machine

/-! ### Registers and records -/

/-- Count in PLT_COUNTER. -/
def State.pltCount (s : State) (i : Nat) : State := s.bump (Reg.PLT_COUNTER i) Fld.PLT_COUNTER_COUNT

/-- This device's source id. -/
def State.sourceId (s : State) : Nat := s.fld Reg.PLT_SOURCE_ID Fld.PLT_SOURCE_ID_ID

/-- Change a context record. -/
def State.adjustCtx (s : State) (c : Nat) (f : Context → Context) : State := { s with contexts := s.contexts.adjust c f }

/-- PAYLOAD of a port in bytes. -/
def State.portPayload (s : State) (p : Nat) : Nat :=
  match s.fld (Reg.PLT_PORT_CFG p) Fld.PLT_PORT_CFG_PAYLOAD with
  | 0 => 1024
  | 1 => 4096
  | _ => 8192

/-- Sub-ports of a port (Table 8-1). -/
def State.portSubs (s : State) (p : Nat) : Nat := 2 ^ s.fld (Reg.PLT_PORT_CFG p) Fld.PLT_PORT_CFG_SPLIT

/-- Is a port enabled? -/
def State.portEnabled (s : State) (p : Nat) : Bool := s.bit (Reg.PLT_PORT_CFG p) Fld.PLT_PORT_CFG_ENABLE

/-- Is a sub-port's link up? -/
def State.linkUp (s : State) (p sub : Nat) : Bool :=
  s.portEnabled p && sub < s.portSubs p && natBit (s.fld (Reg.PLT_PORT_STATUS p) Fld.PLT_PORT_STATUS_LINK) sub

/-- Servo states of R245. -/
def ptpFree : Nat := 0
def ptpAcquiring : Nat := 1
def ptpLocked : Nat := 2
def ptpHoldover : Nat := 3
def ptpGrandmaster : Nat := 4

/-- The servo state. -/
def State.servo (s : State) : Nat := s.fld Reg.PLT_PTP_STATUS Fld.PLT_PTP_STATUS_STATE

/-- The device's own role epoch, and the one that it holds for a source (R335): 0 for one that no roster lists. -/
def State.ownRoleEpoch (s : State) : Nat := s.fld Reg.FLT_ROLE_EPOCH Fld.FLT_ROLE_EPOCH_EPOCH
def State.heldRoleEpoch (s : State) (node : Nat) : Nat :=
  match s.fleet.roster with
  | some r => ((r.entries.find? fun e => e.node = node).map (·.roleEpoch)).getD 0
  | none => 0

/-- The context key (R355): the job key of a delivery context, else a key of the key store. -/
def State.contextKey (s : State) (c : Context) : Option Bytes :=
  if c.keySource = 0 && c.job.isNone then none else (s.security.keys.find c.keyId).map (·.secret)

/-- Records on chip, and those being fetched. -/
def State.onChipCount (s : State) : Nat := (s.contexts.vals.filter fun c => c.onChip || c.fetching).length

/-- Records pinned. -/
def State.pinnedCount (s : State) : Nat := (s.contexts.vals.filter fun c => (c.onChip || c.fetching) && c.pinned).length

/-- The least recently used record that is on chip and not pinned. -/
def State.victim (s : State) : Option Nat :=
  ((s.contexts.entries.filter fun e => e.2.onChip && !e.2.pinned).foldl
    (fun (best : Option (Nat × Nat)) e => match best with
      | some b => if e.2.stamp < b.2 then some (e.1, e.2.stamp) else some b
      | none => some (e.1, e.2.stamp)) none).map (·.1)

/-- Make room for one more record (R237): none while every record is pinned. -/
def State.makeRoom (s : State) : Option State :=
  if s.onChipCount < 4096 then some s
  else s.victim.map fun v => s.adjustCtx v fun c => { c with onChip := false }

/-- A record is used. -/
def State.touchCtx (s : State) (c : Nat) : State :=
  { s.adjustCtx c (fun x => { x with stamp := s.clock }) with clock := s.clock + 1 }

/-- Is a context's record on chip, or can it be brought there to send? One that is being fetched is waited for. -/
def State.recordReady (s : State) (ctx : Nat) : Bool :=
  match s.contexts.find ctx with
  | some c => c.onChip || (!c.fetching && s.makeRoom.isSome)
  | none => false

/-- The record of a context is used to send: it is brought on chip first (R237). -/
def State.useRecord (s : State) (ctx : Nat) : State :=
  match s.contexts.find ctx, s.makeRoom with
  | some c, some t => (if c.onChip then s else t.adjustCtx ctx fun c => { c with onChip := true }).touchCtx ctx
  | some _, none => s.touchCtx ctx
  | none, _ => s

/-! ### Framing (R219) -/

/-- What a sub-port puts into its Plyn frames. -/
def State.framing (s : State) (port sub : Nat) : Framing :=
  ⟨Config.portMac (ptpKey port sub), Config.portIp (ptpKey port sub), s.fld Reg.PLT_ETHERTYPE Fld.PLT_ETHERTYPE_TYPE,
    Config.udpSource (ptpKey port sub), s.fld Reg.PLT_UDP_PORT Fld.PLT_UDP_PORT_PORT⟩

/-- What a received frame carries, under the EtherType and the UDP port that are set. -/
def State.carriedBy (s : State) (frame : Bytes) : Carried :=
  carried (s.fld Reg.PLT_ETHERTYPE Fld.PLT_ETHERTYPE_TYPE) (s.fld Reg.PLT_UDP_PORT Fld.PLT_UDP_PORT_PORT) frame

/-- The address of a node that no address table names: the spec gives none (log entry 27). -/
def nodeEntry (node : Nat) : AddrEntry :=
  let a := Config.nodeAddress node
  ⟨a.1 % 3 + 1, a.2.1 % 64, a.2.2.1, beBytes 6 a.2.2.2.1, beBytes 16 a.2.2.2.2⟩

/-- The address entry that frames a queued packet. -/
def TxFrame.entry (f : TxFrame) : AddrEntry := f.addr.getD (nodeEntry f.header.dest)

/-! ### Senders -/

/-- The sender of a context for a destination under the context's job epoch. -/
def Context.sender (c : Context) (dest : Nat) : Sender :=
  (c.senders.find? fun x => x.dest = dest && x.jobEpoch = c.jobEpoch).getD
    ⟨dest, c.jobEpoch, [], []⟩

/-- Put a sender back. -/
def Context.setSender (c : Context) (x : Sender) : Context :=
  let same := fun y : Sender => y.dest = x.dest && y.jobEpoch = x.jobEpoch
  if c.senders.any same then { c with senders := c.senders.map fun y => if same y then x else y }
  else { c with senders := c.senders ++ [x] }

/-- Key of the message ids of a context, destination and job epoch. -/
def idKey (ctx dest jobEpoch : Nat) : Nat := ctx * 2 ^ 64 + dest * 2 ^ 32 + jobEpoch

/-- Allocate a MSG_ID, and answer its key phase and the id: at 2^48 − 1 the phase advances and ids restart at 0 (R225). An
id once used stays used, whatever becomes of its context (log entry 55). -/
def State.allocateId (s : State) (ctx dest jobEpoch : Nat) : State × Nat × Nat :=
  let k := idKey ctx dest jobEpoch
  let x := (s.msgIds.find k).getD (0, 0)
  let x := if x.2 = 2 ^ 48 - 1 then ((x.1 + 1) % 256, 0) else x
  ({ s with msgIds := s.msgIds.insert k (x.1, x.2 + 1) }, x)

/-- Fragments to a destination of a context that are sent and not acknowledged (R229). -/
def Context.inFlight (c : Context) (dest : Nat) : Nat :=
  ((c.senders.filter fun x => x.dest = dest).flatMap fun x => x.msgs.map fun m =>
    (m.frags.filter fun f => f.frame.isSome && !f.acked).length).foldl (· + ·) 0

/-- The smoothed round trip to a destination in ns: 50 µs before the first sample (R229). -/
def Context.srttNs (c : Context) (dest : Nat) : Nat := (c.trips.find dest).getD 50000

/-- Is a fragment held under R239: a fragment named by a hold, or a later one? -/
def Sender.isHeld (x : Sender) (msgId fragment : Nat) : Bool :=
  x.holds.any fun h => h.1 < msgId || (h.1 = msgId && h.2.1 ≤ fragment)

/-- Change one message. -/
def Sender.adjustMsg (x : Sender) (msgId : Nat) (f : OutMsg → OutMsg) : Sender :=
  { x with msgs := x.msgs.map fun m => if m.msgId = msgId then f m else m }

/-- Change one fragment. -/
def OutMsg.adjustFrag (m : OutMsg) (i : Nat) (f : OutFrag → OutFrag) : OutMsg :=
  { m with frags := m.frags.zipIdx.map fun e => if e.2 = i then f e.1 else e.1 }

/-- Take a message out, with the holds of its fragments. -/
def Sender.drop (x : Sender) (msgId : Nat) : Sender :=
  { x with msgs := x.msgs.filter fun m => m.msgId ≠ msgId, holds := x.holds.filter fun h => h.1 ≠ msgId }

/-- The route to a node (R219): addresses come from address tables only, so the first destination entry of a
delivery map that names the node gives it; else the sub-port on which its last packet came, or the lowest enabled
port, with an address that the spec does not give (log entry 27). -/
def State.routeTo (s : State) (c : Context) (node tclass : Nat) : PltRoute :=
  let known := s.jobs.vals.findSome? fun j => (j.map.dests.find? fun d => d.node = node).map fun d => j.map.routeTo d
  match known with
  | some r => { r with tclass := tclass }
  | none =>
    let p := (c.cameOn.find node).getD (((List.range 5).find? s.portEnabled).getD 0, 0)
    ⟨p.1, p.2, tclass, none⟩

/-- Key of an egress queue of a port. -/
def txKey (sub cls : Nat) : Nat := 8 * sub + cls

/-- Put a frame at the end of an egress queue. -/
def State.pushTx (s : State) (r : PltRoute) (f : TxFrame) : State :=
  let p := s.port r.port
  let k := txKey r.sub r.tclass
  s.setPort r.port { p with txq := p.txq.insert k ((p.txq.find k).getD [] ++ [f]) }

/-- A message that a function of the device hands to Plyn. -/
structure Outgoing where
  ctx : Nat
  dest : Nat
  opcode : Nat
  buffer : Nat
  generation : Nat
  offset : Nat
  aux : Nat
  /-- Bytes asked for by a READ_REQ. -/
  ask : Nat
  payload : Bytes
  route : PltRoute
  purpose : Purpose
deriving DecidableEq, Repr

/-- The header of a fragment before its first transmission. -/
def Outgoing.header (o : Outgoing) (c : Context) (phase msgId count fragment offset length : Nat) : PltHeader where
  version := 1
  opcode := o.opcode
  flags := 0
  phase := phase
  tclass := o.route.tclass
  context := o.ctx
  fragment := fragment
  count := count
  msgId := msgId
  source := 0
  dest := o.dest
  jobEpoch := c.jobEpoch
  roleEpoch := 0
  peerEpoch := 0
  timestamp := 0
  buffer := o.buffer
  generation := o.generation
  offset := offset
  length := length
  aux := o.aux

/-- The check-value units on a sub-port that take a fragment: those with data, WRITE, WRITE_IMM and READ_RESP
(R267, log entry 38). -/
def State.plynUnits (s : State) (port sub : Nat) (outbound : Bool) (ctx opcode : Nat) : List Nat :=
  if opcode = opWrite || opcode = opWriteImm || opcode = opReadResp then s.chkUnitsOn 1 (4 * port + sub) outbound ctx else []

/-- Check-value bytes that APPEND units add to a fragment (R267). -/
def State.appendBytes (s : State) (port sub ctx opcode : Nat) : Nat :=
  (((s.plynUnits port sub true ctx opcode).filter fun u => (s.chkConfig u).mode = chkAppend).map fun u => (s.chkConfig u).width).sum

/-- Data bytes of a fragment: PAYLOAD less the check values that APPEND units insert (R267). -/
def State.dataRoom (s : State) (port sub ctx opcode : Nat) : Nat := s.portPayload port - s.appendBytes port sub ctx opcode

/-- A fragment's payload passes the units of its sub-port: each takes it as one record, and APPEND inserts its
value. -/
def State.appendChecks (s : State) (units : List Nat) (payload : Bytes) : State × Bytes :=
  units.foldl (fun (acc : State × Bytes) u =>
    let r := acc.1.chkRecord u acc.2 []
    (r.1, acc.2 ++ r.2.1)) (s, payload)

/-- Most fragments of a message (R223). -/
def maxFragments : Nat := 32768

/-- Send a message (R223, R225): its fragments join the egress queue of its route. Answers the MSG_ID. Payloads of
READ_RESP, fleet and Heel messages are below 32,768 fragments of any PAYLOAD; a batch is cut to that by `batchPieces`. -/
def State.sendMessage (s : State) (o : Outgoing) : State × Nat :=
  match s.contexts.find o.ctx with
  | none => (s, 0)
  | some c =>
    let size := s.dataRoom o.route.port o.route.sub o.ctx o.opcode
    let x := c.sender o.dest
    let (s, phase, id) := s.allocateId o.ctx o.dest c.jobEpoch
    let chunks := if o.payload.isEmpty then [[]] else chunksOf size o.payload.length (o.payload.take (maxFragments * size))
    let frags : List OutFrag := chunks.zipIdx.map fun e =>
      let len := if o.opcode = opReadReq then o.ask else e.1.length
      { header := o.header c phase id chunks.length e.2 (o.offset + size * e.2) len
        payload := e.1, frame := none, acked := false, resent := false, sentNs := 0, timeoutUs := 0, laters := 0 }
    let m : OutMsg := ⟨id, o.purpose, o.route, frags, none⟩
    let t := s.adjustCtx o.ctx fun _ => c.setSender { x with msgs := x.msgs ++ [m] }
    (frags.foldl (fun t f => t.pushTx o.route ⟨f.header, f.payload, true, o.route.addr⟩) t, id)

/-- Send an answer: ACK, NAK or READ_RESP. It is neither acknowledged nor retransmitted. -/
def State.answer (s : State) (ctx dest opcode flags aux tclass : Nat) (payload : Bytes) : State :=
  match s.contexts.find ctx with
  | none => s
  | some c =>
    let r := s.routeTo c dest tclass
    let size := s.dataRoom r.port r.sub ctx opcode
    let (s, phase, id) := s.allocateId ctx dest c.jobEpoch
    let o : Outgoing := ⟨ctx, dest, opcode, 0, 0, 0, aux, 0, payload, r, .fleet 0⟩
    let chunks := if payload.length ≤ size then [payload] else chunksOf size payload.length payload
    chunks.zipIdx.foldl (fun t e =>
      t.pushTx r ⟨{ o.header c phase id chunks.length e.2 (size * e.2) e.1.length with flags := flags }, e.1, false, r.addr⟩) s

/-- Class of ACK and NAK. -/
def State.ackClass (s : State) : Nat := s.fld Reg.PLT_ACK_TC Fld.PLT_ACK_TC_TC

/-- Refuse a fragment (R224). -/
def State.nak (s : State) (h : PltHeader) (code detail auxBit : Nat) : State :=
  let t := s.answer h.context h.source opNak 0 (code + 256 * auxBit) s.ackClass (nakEntry h.msgId h.fragment detail)
  if code = NAK_RETRY_LATER then t.pltCount 6 else t

/-- The UNAUTH NAK_RETRY_LATER of R238 for a packet that a full miss queue drops. It names the dropped packet in
its own header. It takes the route of an answer, and where no address table names the source the sub-port of arrival. -/
def State.unauthNak (s : State) (port sub : Nat) (h : PltHeader) : State :=
  let r := match s.contexts.find h.context with
    | some c => s.routeTo { c with cameOn := c.cameOn.insert h.source (port, sub) } h.source s.ackClass
    | none => ⟨port, sub, s.ackClass, none⟩
  let a : PltHeader := { h with opcode := opNak, flags := 2, tclass := s.ackClass, count := max 1 h.count, source := h.dest
                                dest := h.source, buffer := 0, generation := 0, offset := 0, length := 0, aux := NAK_RETRY_LATER }
  (s.pushTx r ⟨a, [], false, r.addr⟩).pltCount 6

/-- Send every gathered acknowledgement of a source (R224, R228). -/
def State.flushAcks (s : State) (ctx source : Nat) : State :=
  match s.contexts.find ctx with
  | none => s
  | some c =>
    let runs := ackRuns ((c.toAck.find source).getD [])
    let t := s.adjustCtx ctx fun c => { c with toAck := c.toAck.erase source }
    (piecesOf 64 runs.length runs).foldl (fun t p => t.answer ctx source opAck 0 0 t.ackClass (p.flatMap ackEntry)) t

/-- Acknowledge an executed fragment or a duplicate of one (R228): at 32 gathered or at ACK_NOW they are sent;
otherwise ACK_TIMER sends them. -/
def State.queueAck (s : State) (h : PltHeader) : State :=
  match s.contexts.find h.context with
  | none => s
  | some c =>
    let l := (c.toAck.find h.source).getD [] ++ [(h.msgId, h.fragment)]
    let t := s.adjustCtx h.context fun c => { c with toAck := c.toAck.insert h.source l }
    if h.ackNow || 32 ≤ l.length then t.flushAcks h.context h.source else t

/-- Acknowledge an atomic at once, with its result (R224, R228). -/
def State.ackAtomic (s : State) (h : PltHeader) (result : Bytes) : State :=
  s.answer h.context h.source opAck 1 0 s.ackClass (ackEntry (h.msgId, h.fragment, h.fragment) ++ result)

/-- Drop the messages of this device that a test names. -/
def State.cancelMessages (s : State) (test : Purpose → Bool) : State :=
  { s with contexts := s.contexts.mapVals fun _ c =>
      { c with senders := c.senders.map fun x =>
          let gone := (x.msgs.filter fun m => test m.purpose).map (·.msgId)
          { x with msgs := x.msgs.filter fun m => !test m.purpose, holds := x.holds.filter fun h => !gone.contains h.1 } } }

/-! ### Gates (R247) -/

/-- The pins whose function is GATE_OUT of a port follow its gates (Table 15-4). -/
def State.showGatePins (s : State) (p : Nat) : State :=
  let g := s.fld (Reg.PLT_PORT_STATUS p) Fld.PLT_PORT_STATUS_GATES
  { s with board := { s.board with pins := s.board.pins.map fun x =>
      if 0x10 + 8 * p ≤ x.function && x.function < 0x18 + 8 * p then { x with level := natBit g (x.function - 0x10 - 8 * p) } else x } }

/-- The gates and the entry of a port are shown. -/
def State.showGates (s : State) (p gates entry : Nat) : State :=
  ((s.setFld (Reg.PLT_PORT_STATUS p) Fld.PLT_PORT_STATUS_GATES gates).setFld (Reg.PLT_PORT_STATUS p)
    Fld.PLT_PORT_STATUS_ENTRY entry).showGatePins p

/-- The gate state of a port from the network time: a list that waits takes over at its first cycle start, and
one whose image is gone opens every gate at the end of its cycle. -/
def State.recomputeGates (s : State) (p : Nat) : State :=
  let port := s.port p
  match port.gate with
  | none => s.showGates p 0xFF 0
  | some r =>
    let now := s.time.total
    if r.ending && r.endNs ≤ now then (s.setPort p { port with gate := none }).showGates p 0xFF 0
    else if now < r.startNs then s.showGates p 0xFF 0
    else
      let g := r.gatesAt now
      s.showGates p g.1 g.2

/-- A list is committed on a port. -/
def State.commitGates (s : State) (p : Nat) (l : GateList) : State :=
  (s.setPort p { s.port p with gate := some ⟨l, false, l.cycleStart s.time.total, 0⟩ }).recomputeGates p

/-- The list's image is unloaded: the gates open at the end of the current cycle. -/
def State.endGates (s : State) (p : Nat) : State :=
  let port := s.port p
  match port.gate with
  | none => s
  | some r =>
    if s.time.total < r.startNs then (s.setPort p { port with gate := none }).recomputeGates p
    else s.setPort p { port with gate := some { r with ending := true, endNs := r.list.cycleStart (s.time.total + 1) } }

/-! ### Shapers (R248) -/

/-- Effective burst: values below 16,384 act as 16,384. -/
def State.shaperBurst (s : State) (p sub c : Nat) : Nat :=
  max 16384 (s.fld (Reg.PLT_SHAPER_BURST p sub c) Fld.PLT_SHAPER_BURST_BYTES)

/-- Rate in Mbit/s; 0 is unshaped. -/
def State.shaperRate (s : State) (p sub c : Nat) : Nat := s.fld (Reg.PLT_SHAPER_RATE p sub c) Fld.PLT_SHAPER_RATE_MBPS

/-- Tokens now, in 1/8000 of a byte: they accrue at all times, 1 Mbit/s being 1/8000 byte a nanosecond. -/
def State.shaperTokens (s : State) (p sub c : Nat) : Nat :=
  let cell := ((s.port p).shapers.find (txKey sub c)).getD (8000 * 0x10000, 0)
  min (8000 * s.shaperBurst p sub c) (cell.1 + s.shaperRate p sub c * (s.uptime - cell.2))

/-- Set the tokens; PLT_SHAPER_TOKENS shows whole bytes. -/
def State.setTokens (s : State) (p sub c fine : Nat) : State :=
  let t := s.setPort p { s.port p with shapers := (s.port p).shapers.insert (txKey sub c) (fine, s.uptime) }
  t.setFld (Reg.PLT_SHAPER_TOKENS p sub c) Fld.PLT_SHAPER_TOKENS_BYTES (fine / 8000)

/-- After a write of rate or burst the tokens are BURST or 0. -/
def State.resetTokens (s : State) (p sub c : Nat) : State :=
  s.setTokens p sub c (if s.bit (Reg.PLT_SHAPER_RATE p sub c) Fld.PLT_SHAPER_RATE_RESET_FULL then 8000 * s.shaperBurst p sub c else 0)

/-! ### Transmission (R225, R229, R239, R246) -/

/-- Is a job halted by a Heel freeze, which lets writes already started complete (R214)? -/
def State.heelFrozen (s : State) (slot : Nat) : Bool :=
  s.jobState slot = jobHalted && ((s.heelOf slot).map fun k => decide (3 ≤ s.fld (Reg.HEEL_STATUS k) Fld.HEEL_STATUS_STATE)).getD false

/-- Is what a message is for still wanted: deliveries, masks and reads end with their job (R243)? -/
def State.purposeLive (s : State) : Purpose → Bool
  | .batch slot _ _ _ => s.jobActive slot || s.heelFrozen slot
  | .mask slot _ _ _ => s.jobActive slot
  | .read item => s.jobActive item.slot.val
  | .fleet _ => s.bit Reg.FLT_CTRL Fld.FLT_CTRL_ENABLE
  | .heel k => s.bit (Reg.HEEL_CTRL k) Fld.HEEL_CTRL_ENABLE

/-- The message and fragment that a tracked frame carries. -/
def State.fragOf (s : State) (h : PltHeader) : Option (Sender × OutMsg × OutFrag) :=
  (s.contexts.find h.context).bind fun c =>
    (c.senders.find? fun x => x.dest = h.dest && x.jobEpoch = h.jobEpoch).bind fun x =>
      (x.msgs.find? fun m => m.msgId = h.msgId).bind fun m => (m.frags[h.fragment]?).map fun f => (x, m, f)

/-- Is there a key for the packets of a context? Without one nothing but an UNAUTH NAK is sent on it (R225). -/
def State.hasKey (s : State) (ctx : Nat) : Bool := ((s.contexts.find ctx).bind s.contextKey).isSome

/-- Is a queued frame of no further use? A repeat that its fragment is too old for is not sent (R229). -/
def State.frameDead (s : State) (f : TxFrame) : Bool :=
  (!f.header.unauth && !s.hasKey f.header.context) ||
    (if f.tracked then
      match s.fragOf f.header with
      | some (_, m, fr) => fr.acked || !s.purposeLive m.purpose || (fr.frame.isSome && 3500000 ≤ s.uptime - fr.sentNs)
      | none => true
    else false)

/-- Does a paused check-value unit stall what a sub-port sends (R269)? -/
def State.egressStalled (s : State) (p sub : Nat) : Bool :=
  (List.range 16).any fun u =>
    let c := s.chkConfig u
    s.chkOn u && s.chkPaused u && c.kind = 1 && c.outbound && c.index = 4 * p + sub

/-- May a frame be sent now: the source id, the servo state, the context record, the sender's holds and the in-flight
limit of the context and destination? -/
def State.frameReady (s : State) (f : TxFrame) : Bool :=
  s.sourceId ≠ 0 && (!opNeedsTime f.header.opcode || ptpLocked ≤ s.servo) && (f.header.unauth || s.recordReady f.header.context) &&
    (if f.tracked then
      match s.contexts.find f.header.context, s.fragOf f.header with
      | some c, some (x, _, fr) =>
        !x.isHeld f.header.msgId f.header.fragment && (fr.frame.isSome || c.inFlight f.header.dest < 512)
      | _, _ => false
    else true)

/-- Bytes of the Plyn part of a queued frame as it leaves, with the check values that APPEND units add. -/
def State.plynBytes (s : State) (p sub : Nat) (f : TxFrame) : Nat :=
  match (if f.tracked then (s.fragOf f.header).bind fun x => x.2.2.frame else none) with
  | some b => b.length
  | none => if f.header.unauth then 64 else 80 + f.payload.length + s.appendBytes p sub f.header.context f.header.opcode

/-- Wire length of a queued frame, counting preamble and inter-frame gap (R246). -/
def State.wireBytes (s : State) (p sub : Nat) (f : TxFrame) : Nat := wireLength f.entry (s.plynBytes p sub f)

/-- Does a frame pass gate, shaper and closing time (R246)? -/
def State.egressOk (s : State) (p sub c : Nat) (f : TxFrame) : Bool :=
  let wire := s.wireBytes p sub f
  natBit (s.fld (Reg.PLT_PORT_STATUS p) Fld.PLT_PORT_STATUS_GATES) c &&
    (s.shaperRate p sub c = 0 || 8000 * wire ≤ s.shaperTokens p sub c) &&
    (match (s.port p).gate with
    | none => true
    | some r => match r.closesIn s.time.total c with
      | none => true
      | some n => wire * s.portSubs p < 200 * n)

/-- A mask's first transmission: LATE, and the counters of R160. Answers the payload that is sent. -/
def State.maskSent (s : State) (slot arrival : Nat) (payload : Bytes) : State × Bytes :=
  let lat := s.time.total - arrival
  let late := 200000 < lat
  let t := s.bump (Reg.TOK_MASK_STEPS slot) Fld.TOK_MASK_STEPS_COUNT
  let t := if late then t.bump (Reg.TOK_MASK_LATE slot) Fld.TOK_MASK_LATE_COUNT else t
  let t := t.setFld (Reg.TOK_MASK_MAXLAT slot) Fld.TOK_MASK_MAXLAT_NS
    (max (t.fld (Reg.TOK_MASK_MAXLAT slot) Fld.TOK_MASK_MAXLAT_NS) (min lat (2 ^ 32 - 1)))
  (t, if late then spliceAt payload 2 [byteAt payload 2 ||| 1] else payload)

/-- The header as it leaves for the first time: source id, role epochs and TIMESTAMP. -/
def State.stamp (s : State) (h : PltHeader) : PltHeader :=
  let roles := match s.contexts.find h.context with
    | some c => if c.roleCheck then (s.ownRoleEpoch, s.heldRoleEpoch h.dest) else (0, 0)
    | none => (0, 0)
  { h with source := s.sourceId, roleEpoch := roles.1, peerEpoch := roles.2, timestamp := s.nowUs % 2 ^ 32 }

/-- Seal a header and payload under the key of its context, which a frame that is sent has. -/
def State.sealed (s : State) (h : PltHeader) (payload : Bytes) : Bytes :=
  match s.contexts.find h.context with
  | some c => sealFrame ((s.contextKey c).getD []) h payload
  | none => sealFrame [] h payload

/-- The bytes of a frame at its transmission on a sub-port; a fragment keeps those of its first one (R225, R229). -/
def State.frameBytes (s : State) (port sub : Nat) (f : TxFrame) : State × Bytes :=
  let units := s.plynUnits port sub true f.header.context f.header.opcode
  if !f.tracked then
    if f.header.unauth then (s, { f.header with timestamp := s.nowUs % 2 ^ 32 }.bytes)
    else
      let (t, payload) := s.appendChecks units f.payload
      (t, t.sealed (t.stamp { f.header with length := f.header.length + (payload.length - f.payload.length) }) payload)
  else
    match s.fragOf f.header with
    | none => (s, [])
    | some (x, m, fr) =>
      match fr.frame with
      | some b => (s.pltCount 3, b)
      | none =>
        let (t, payload) := match m.purpose with
          | .mask slot _ arrival false => if f.header.fragment = 0 then s.maskSent slot arrival f.payload else (s, f.payload)
          | _ => (s, f.payload)
        let (t, whole) := t.appendChecks units payload
        let b := t.sealed (t.stamp { f.header with length := f.header.length + (whole.length - payload.length) }) whole
        let srtt := ((s.contexts.find f.header.context).map fun c => c.srttNs f.header.dest).getD 50000
        let x2 := x.adjustMsg m.msgId fun m =>
          { m.adjustFrag f.header.fragment fun fr =>
              { fr with payload := payload, frame := some b, sentNs := t.uptime, timeoutUs := max 10 (ceilDiv (2 * srtt) 1000) } with
            bornNs := m.bornNs.or (some t.uptime) }
        (t.adjustCtx f.header.context fun c => c.setSender x2, b)

/-- One class of a sub-port at a frame boundary: its oldest frame that is ready, where it passes the tests, and
the queue without it and without frames of no further use. -/
def State.pickFrame (s : State) (p sub c : Nat) : List TxFrame × Option TxFrame :=
  let q := (((s.port p).txq.find (txKey sub c)).getD []).filter fun f => !s.frameDead f
  match (if s.egressStalled p sub then none else q.findIdx? s.frameReady) with
  | none => (q, none)
  | some i =>
    match q[i]? with
    | some f => if s.egressOk p sub c f then (q.eraseIdx i, some f) else (q, none)
    | none => (q, none)

/-- Send the first frame that classes offer, from the highest down. -/
def State.transmitFrom (s : State) (p sub : Nat) : (classes : List Nat) → State
  | [] => s
  | c :: rest =>
    let (q, got) := s.pickFrame p sub c
    let t := s.setPort p { s.port p with txq := (s.port p).txq.insert (txKey sub c) q }
    match got with
    | none => State.transmitFrom t p sub rest
    | some f =>
      let wire := t.wireBytes p sub f
      let t := if f.header.unauth then t else t.useRecord f.header.context
      let (u, b) := t.frameBytes p sub f
      let u := if u.shaperRate p sub c = 0 then u else u.setTokens p sub c (u.shaperTokens p sub c - 8000 * wire)
      u.setPort p { u.port p with wire := (u.port p).wire.insert sub (wireFrame (frameHead f.entry (u.framing p sub) b) b) }

/-- A frame boundary of a sub-port: a PTP message goes first, past gates and shapers (R244). -/
def State.transmit (s : State) (p sub : Nat) : State :=
  match (s.ptpPort (ptpKey p sub)).queue with
  | m :: rest => s.sendPtp p sub m rest
  | [] => s.transmitFrom p sub [7, 6, 5, 4, 3, 2, 1, 0]

/-- FRAME_TRANSMIT (R246). -/
def execFrameTransmit (port : Fin 5) (sub : Fin 4) (s : State) : Host.Outcome State Fault Refusal :=
  act (fun s => if s.linkUp port sub then s.transmit port sub else s) s

/-- GATE_ENTRY_CHANGE (R247). -/
def execGateEntryChange (port : Fin 5) (s : State) : Host.Outcome State Fault Refusal :=
  act (fun s => s.recomputeGates port) s

/-! ### Retransmission (R229) -/

/-- An unacknowledged fragment is sent again, with its timeout doubled up to 1,000 µs, while its age is below
3,500 µs and no hold names it. The repeat is counted when it leaves. -/
def State.retransmit (s : State) (ctx dest msgId fragment : Nat) : State :=
  match s.contexts.find ctx with
  | none => s
  | some c =>
    match c.senders.find? fun x => x.dest = dest && x.msgs.any fun m => m.msgId = msgId with
    | none => s
    | some x =>
      match x.msgs.find? fun m => m.msgId = msgId with
      | none => s
      | some m =>
        match m.frags[fragment]? with
        | none => s
        | some f =>
          if f.frame.isNone || f.acked || x.isHeld msgId fragment || !s.purposeLive m.purpose ||
              3500000 ≤ s.uptime - f.sentNs then s
          else
            let x2 := x.adjustMsg msgId fun m => m.adjustFrag fragment fun f =>
              { f with resent := true, timeoutUs := min 1000 (2 * f.timeoutUs) }
            let t := s.adjustCtx ctx fun c => c.setSender x2
            t.pushTx m.route ⟨f.header, f.payload, true, m.route.addr⟩

/-- RETRANSMIT_TIMEOUT (R229). -/
def execRetransmitTimeout (ctx dest msgId fragment : Nat) (s : State) : Host.Outcome State Fault Refusal :=
  act (fun s => s.retransmit ctx dest msgId fragment) s

/-- RETRY_HOLD_EXPIRY (R239). -/
def execRetryHoldExpiry (ctx dest msgId fragment : Nat) (s : State) : Host.Outcome State Fault Refusal :=
  act (fun s => s.adjustCtx ctx fun c =>
    { c with senders := c.senders.map fun x =>
        if x.dest = dest then { x with holds := x.holds.filter fun h => !(h.1 = msgId && h.2.1 = fragment) } else x }) s

/-- ACK_TIMER (R228). -/
def execAckTimer (ctx source : Nat) (s : State) : Host.Outcome State Fault Refusal :=
  act (fun s => s.flushAcks ctx source) s

/-- FILTER_ENTRY_EXPIRY (R230): an entry goes once its message's age exceeds 4,100 µs, and with it a WRITE_IMM that can no
longer complete (R237). -/
def execFilterEntryExpiry (ctx : Nat) (key : MsgKey) (s : State) : Host.Outcome State Fault Refusal :=
  act (fun s => s.adjustCtx ctx fun c =>
    let old := fun (e : FilterEntry) => e.key = key && 4100 < pltAge s.nowUs e.timestamp
    { c with
      filter := c.filter.filter fun e => !old e
      partialImm := c.partialImm.filter fun k => !(k = key && c.filter.any old) }) s

/-- KEY_PHASE_WINDOW_EXPIRY (R225): packets of the previous phase are no longer accepted. -/
def execKeyPhaseWindowExpiry (ctx source : Nat) (s : State) : Host.Outcome State Fault Refusal :=
  act (fun s => s.adjustCtx ctx fun c =>
    { c with phases := c.phases.mapVals fun k p => if k % 2 ^ 32 = source then (p.1, none) else p }) s

/-! ### Port rows -/

/-- A write of PLT_PORT_CFG (R218): SPLIT and PAYLOAD change only while ENABLE is 0, and a reserved value
leaves them; enabling a port powers its domain (R365); disabling it takes its links down. -/
def State.portCfgWrite (s : State) (p : Nat) (v : Word64) : State :=
  let on := s.portEnabled p
  let split := getFld Fld.PLT_PORT_CFG_SPLIT v
  let payload := getFld Fld.PLT_PORT_CFG_PAYLOAD v
  let t := if on || split = 3 then s else s.setFld (Reg.PLT_PORT_CFG p) Fld.PLT_PORT_CFG_SPLIT split
  let t := if on || payload = 3 then t else t.setFld (Reg.PLT_PORT_CFG p) Fld.PLT_PORT_CFG_PAYLOAD payload
  let en := getFld Fld.PLT_PORT_CFG_ENABLE v = 1
  let t := t.setBit (Reg.PLT_PORT_CFG p) Fld.PLT_PORT_CFG_ENABLE en
  (if en then t else t.setFld (Reg.PLT_PORT_STATUS p) Fld.PLT_PORT_STATUS_LINK 0).settleDomains

/-- PLT_PORT_CFG_WRITE (R218, R365). -/
def execPltPortCfgWrite (port : Fin 5) (value : Word64) (s : State) : Host.Outcome State Fault Refusal :=
  hostAct (Reg.PLT_PORT_CFG port) (fun s => s.portCfgWrite port value) s

/-- LINK_STATE_CHANGE (R218): only a sub-port of an enabled port under its split has a link. -/
def execLinkStateChange (port : Fin 5) (sub : Fin 4) (up : Bool) (s : State) : Host.Outcome State Fault Refusal :=
  act (fun s =>
    let v := s.fld (Reg.PLT_PORT_STATUS port) Fld.PLT_PORT_STATUS_LINK
    let there : Bool := s.portEnabled port && sub.val < s.portSubs port
    let want := up && there
    if natBit v sub = want then s
    else s.setFld (Reg.PLT_PORT_STATUS port) Fld.PLT_PORT_STATUS_LINK (if want then v + 2 ^ sub.val else v - 2 ^ sub.val)) s

/-- A write of PLT_SHAPER_RATE. -/
def State.shaperRateWrite (s : State) (p sub c : Nat) (v : Word64) : State :=
  let t := s.setFld (Reg.PLT_SHAPER_RATE p sub c) Fld.PLT_SHAPER_RATE_MBPS (getFld Fld.PLT_SHAPER_RATE_MBPS v)
  (t.setFld (Reg.PLT_SHAPER_RATE p sub c) Fld.PLT_SHAPER_RATE_RESET_FULL (getFld Fld.PLT_SHAPER_RATE_RESET_FULL v)).resetTokens p sub c

/-- A write of PLT_SHAPER_BURST: a value below 16,384 acts, and reads back, as 16,384 (R10). -/
def State.shaperBurstWrite (s : State) (p sub c : Nat) (v : Word64) : State :=
  (s.setFld (Reg.PLT_SHAPER_BURST p sub c) Fld.PLT_SHAPER_BURST_BYTES (max 16384 (getFld Fld.PLT_SHAPER_BURST_BYTES v))).resetTokens p sub c

/-- SHAPER_RATE_WRITE (R248). -/
def execShaperRateWrite (port : Fin 5) (sub : Fin 4) (cls : Fin 8) (value : Word64) (s : State) :
    Host.Outcome State Fault Refusal :=
  hostAct (Reg.PLT_SHAPER_RATE port sub cls) (fun s => s.shaperRateWrite port sub cls value) s

/-- SHAPER_BURST_WRITE (R248). -/
def execShaperBurstWrite (port : Fin 5) (sub : Fin 4) (cls : Fin 8) (value : Word64) (s : State) :
    Host.Outcome State Fault Refusal :=
  hostAct (Reg.PLT_SHAPER_BURST port sub cls) (fun s => s.shaperBurstWrite port sub cls value) s

/-- A read of PLT_TIME_NS latches the seconds (R250). -/
def State.timeNsRead (s : State) : State :=
  { (s.setReg Reg.PLT_TIME_NS (BitVec.ofNat 64 s.time.ns)).setReg Reg.PLT_TIME_SEC (BitVec.ofNat 64 s.time.sec) with
    hostRead := BitVec.ofNat 64 s.time.ns }

/-- PLT_TIME_NS_READ (R250). -/
def execPltTimeNsRead (s : State) : Host.Outcome State Fault Refusal := hostAct Reg.PLT_TIME_NS (fun s => s.timeNsRead) s

/-- A read of PLT_MISSQ clears HIGH (R250). -/
def State.missqRead (s : State) (p : Nat) : State :=
  { s.setFld (Reg.PLT_MISSQ p) Fld.PLT_MISSQ_HIGH 0 with hostRead := s.reg (Reg.PLT_MISSQ p) }

/-- PLT_MISSQ_READ (R250). -/
def execPltMissqRead (port : Fin 5) (s : State) : Host.Outcome State Fault Refusal :=
  hostAct (Reg.PLT_MISSQ port) (fun s => s.missqRead port) s

end Sys2Proof.Machine
end

