-- ==== Sys2Proof/Machine/Clock.lean ====
section
/-! DEFINITION. Network time, its servo, the pins that follow it and the epoch timers (R48, R244, R245, R384). -/

namespace Sys2Proof.Machine

/-- Level of a pin (Table 15-4). -/
def State.pinLevel (s : State) (i : Nat) : Bool :=
  match s.board.pins[i]? with
  | some p => p.level || s.uptime < p.highUntil
  | none => false

/-- Change a pin. -/
def State.adjustPin (s : State) (i : Nat) (f : Pin → Pin) : State :=
  { s with board := { s.board with pins := s.board.pins.zipIdx.map fun e => if e.2 = i then f e.1 else e.1 } }

/-- Function code of a pin. -/
def State.pinFunction (s : State) (i : Nat) : Nat := ((s.board.pins[i]?).map (·.function)).getD 0

/-- First firing of a program at or after a network time (R48). -/
def TimerProgram.firstAt (p : TimerProgram) (now : Nat) : Nat :=
  let base := p.baseSec * 1000000000 + p.baseNs
  if now ≤ base then base else base + ceilDiv (now - base) p.periodNs * p.periodNs

/-- The timers start over from the new time after a step of the counter. -/
def State.retimeTimers (s : State) : State :=
  { s with timers := s.timers.mapVals fun _ r => { r with nextNs := r.program.firstAt s.time.total } }

/-- A network time in nanoseconds as the counter holds it. -/
def NetTime.setTotal (t : NetTime) (n : Nat) : NetTime := { t with sec := n / 1000000000 % 2 ^ 48, ns := n % 1000000000 }

/-- The counter takes a new time at once: gates and timers follow it (R245, R247, R48). -/
def State.stepCounter (s : State) (total : Nat) : State :=
  let t := { s with time := s.time.setTotal total }
  ((List.range 5).foldl (fun t p => t.recomputeGates p) t).retimeTimers

/-- The servo enters a state; leaving LOCKED sets LOST. -/
def State.setServo (s : State) (st : Nat) : State :=
  let t := if s.servo = ptpLocked && st ≠ ptpLocked then s.setBit Reg.PLT_PTP_STATUS Fld.PLT_PTP_STATUS_LOST true else s
  { t.setFld Reg.PLT_PTP_STATUS Fld.PLT_PTP_STATUS_STATE st with time := { t.time with good := 0 } }

/-- A master is found: measurement begins. -/
def State.masterFound (s : State) : State :=
  if s.servo = ptpLocked || s.servo = ptpAcquiring then s else s.setServo ptpAcquiring

/-- An offset is measured: 8 in a row within ±100 ns lock the servo. -/
def State.ptpOffset (s : State) (ns : Int) : State :=
  if s.servo ≠ ptpLocked && s.servo ≠ ptpAcquiring then s else
  let t := s.setFld Reg.PLT_PTP_OFFSET Fld.PLT_PTP_OFFSET_NS (wrapInt 32 ns)
  let good := if -100 ≤ ns ∧ ns ≤ 100 then s.time.good + 1 else 0
  let t := { t with time := { t.time with good := good } }
  if s.servo = ptpAcquiring && 8 ≤ good then t.setServo ptpLocked else t

/-- After an Announce: the roles, and the servo with them. A device that hears no better clock becomes the grandmaster,
one that hears a better one measures against it. -/
def State.masterDecision (s : State) : State :=
  let t := s.settleRoles
  match s.masterAbove with
  | some _ => if s.servo = ptpFree || s.servo = ptpGrandmaster || s.servo = ptpHoldover then t.masterFound else t
  | none => if s.servo = ptpGrandmaster then t else t.setServo ptpGrandmaster

/-- A PTP message arrives at a sub-port at a hardware timestamp. -/
def State.ptpTake (s : State) (k : Nat) (m : PtpMessage) : State :=
  let r := (s.ptpPort k).take k (s.ptpStamp k) m
  let t := s.adjustPtp k fun _ => r.1
  let t := if m.kind = .announce then t.masterDecision else t
  match r.2 with
  | some ns => t.ptpOffset ns
  | none => t

/-- A frame arrives that carries PTP; R219 counts one that is invalid. -/
def State.ptpReceive (s : State) (port sub : Nat) (frame : Bytes) : State :=
  if !s.linkUp port sub then s else
  match s.carriedBy frame with
  | .invalid => s.pltCount 2
  | .plyn _ => s
  | .ptp b => match ptpMessageOf b with
    | some m => s.ptpTake (ptpKey port sub) m
    | none => s

/-- A PTP event. -/
def State.ptpEvent (s : State) : PtpEvent → State
  | .masterFound => s.masterFound
  | .offset ns => s.ptpOffset ns
  | .step ns => s.stepCounter ((s.time.total : Int) + ns).toNat
  | .grandmaster => (s.setServo ptpGrandmaster).settleRoles
  | .frame port sub bytes => s.ptpReceive port sub bytes
  | .sendSync port sub => s.ptpSend (ptpKey port sub) .sync
  | .sendAnnounce port sub => s.ptpSend (ptpKey port sub) .announce
  | .sendRequest port sub => s.ptpSend (ptpKey port sub) (if Config.ptpPeerDelay (ptpKey port sub) then .peerReq else .delayReq)

/-- PTP_EVENT_MESSAGE (R244, R245). -/
def execPtpEventMessage (event : PtpEvent) (s : State) : Host.Outcome State Fault Refusal :=
  act (fun s => s.ptpEvent event) s

/-- MASTER_LOSS (R245): a servo that has a master enters HOLDOVER. -/
def execMasterLoss (s : State) : Host.Outcome State Fault Refusal :=
  act (fun s => if s.servo = ptpLocked || s.servo = ptpAcquiring then (s.setServo ptpHoldover).forgetMaster else s) s

/-- HOLDOVER_TIMEOUT (R245). -/
def execHoldoverTimeout (s : State) : Host.Outcome State Fault Refusal :=
  act (fun s => if s.servo = ptpHoldover then s.setServo ptpFree else s) s

/-- PPS_IN_EDGE (Table 15-4): the edge is timestamped; in GRANDMASTER the nearest whole second is aligned to it. -/
def execPpsInEdge (pin : Fin 16) (s : State) : Host.Outcome State Fault Refusal :=
  act (fun s =>
    if s.pinFunction pin = 2 then
      let t := { s with time := { s.time with ppsEdge := some s.time.total } }
      if s.servo = ptpGrandmaster then t.stepCounter ((s.time.total + 500000000) / 1000000000 * 1000000000) else t
    else s) s

/-- PPS_SECOND (Table 15-4): a PPS_OUT pin is high for 100 ms from the whole second. -/
def execPpsSecond (pin : Fin 16) (s : State) : Host.Outcome State Fault Refusal :=
  act (fun s =>
    if s.pinFunction pin = 1 then s.adjustPin pin fun p => { p with highUntil := s.uptime + 100000000 } else s) s

/-- An epoch timer fires (R48). -/
def State.timerFire (s : State) (i : Nat) : State :=
  match s.timers.find i with
  | none => s
  | some r =>
    let t := s.bump (Reg.SHD_TIMER_STATUS i) Fld.SHD_TIMER_STATUS_COUNT
    let t := { t with timers := t.timers.insert i { r with pulseHigh := r.program.pulse, nextNs := r.program.firstAt (max s.time.total r.nextNs + 1) } }
    let t := if r.program.pulse then t.adjustPin r.program.pin fun p => { p with level := true } else t
    if r.program.interrupt then t.raiseCoalesced 0x2000 12 else t

/-- EPOCH_TIMER_FIRE (R48). -/
def execEpochTimerFire (timer : Fin 8) (s : State) : Host.Outcome State Fault Refusal := act (fun s => s.timerFire timer) s

/-- TIMER_PULSE_END (R48): the pin falls WIDTH_NS after the firing. -/
def execTimerPulseEnd (timer : Fin 8) (s : State) : Host.Outcome State Fault Refusal :=
  act (fun s =>
    match s.timers.find timer with
    | some r =>
      if r.pulseHigh then
        { s with timers := s.timers.insert timer { r with pulseHigh := false } }.adjustPin r.program.pin fun p => { p with level := false }
      else s
    | none => s) s

/-- A timer starts with a program for an owner (R48). -/
def State.startTimer (s : State) (i : Nat) (p : TimerProgram) (owner : Nat) : State :=
  let t := { s with timers := s.timers.insert i ⟨p, false, p.firstAt s.time.total⟩ }
  let t := t.setFld (Reg.SHD_TIMER_STATUS i) Fld.SHD_TIMER_STATUS_COUNT 0
  (t.setFld (Reg.SHD_TIMER_STATUS i) Fld.SHD_TIMER_STATUS_OWNER owner).setBit (Reg.SHD_TIMER_STATUS i)
    Fld.SHD_TIMER_STATUS_RUNNING true

/-- A timer stops: a pulse that is high ends, and the timer's register returns to its reset value. -/
def State.stopTimer (s : State) (i : Nat) : State :=
  match s.timers.find i with
  | none => s
  | some r =>
    let t := { s with timers := s.timers.erase i }.clearReg (Reg.SHD_TIMER_STATUS i)
    if r.pulseHigh then t.adjustPin r.program.pin fun p => { p with level := false } else t

/-- MSIX_COALESCE_EXPIRY (R48, R118, R195, R370): an interval ends; a held event raises its vector and starts the
next interval. -/
def execMsixCoalesceExpiry (source : CoalesceSource) (s : State) : Host.Outcome State Fault Refusal :=
  act (fun s =>
    let k := coalesceKey source
    match s.board.coalesce.find k with
    | some ⟨true, true⟩ =>
      let t := s.raise (coalesceVector source)
      { t with board := { t.board with coalesce := t.board.coalesce.insert k ⟨true, false⟩ } }
    | _ => { s with board := { s.board with coalesce := s.board.coalesce.erase k } }) s

end Sys2Proof.Machine
end

