-- ==== Sys2Proof/Machine/Heel.lean ====
section
/-! DEFINITION. Heel sessions: messages and links, digests and their comparison, freezing (R207, R210 to R214). -/

namespace Sys2Proof.Machine

/-- Codes of Table 7-4. -/
def ST_JOB_WEIGHTS : Nat := 0x0025
def ST_DCLASS_BUSY : Nat := 0x0060
def ST_HEEL_SETUP : Nat := 0x0061
def ST_HEEL_VARIES : Nat := 0x0062
def ST_HEEL_DIVERGED : Nat := 0x0063
def ST_HEEL_TIMEOUT : Nat := 0x0064
def ST_HEEL_PEER_HALTED : Nat := 0x0065

/-- Kinds of Table 7-3; a frame of KIND 0x00 carries only an acknowledgement. -/
def heelAck : Nat := 0
def heelSetup : Nat := 1
def heelBatch : Nat := 2
def heelStage : Nat := 3
def heelFreeze : Nat := 4
def heelRequest : Nat := 5
def heelAnswer : Nat := 6
def heelReport : Nat := 7

/-- Session states. -/
def heelIdle : Nat := 0
def heelWaitPeer : Nat := 1
def heelPaired : Nat := 2
def heelIsFrozen : Nat := 3
def heelLocated : Nat := 4

/-- STATE of a session, and its job. -/
def State.heelState (s : State) (k : Nat) : Nat := s.fld (Reg.HEEL_STATUS k) Fld.HEEL_STATUS_STATE
def State.heelJob (s : State) (k : Nat) : Nat := s.fld (Reg.HEEL_CTRL k) Fld.HEEL_CTRL_JOB
def State.setHeelState (s : State) (k st : Nat) : State := s.setFld (Reg.HEEL_STATUS k) Fld.HEEL_STATUS_STATE st
def State.setHeelCode (s : State) (k code : Nat) : State := s.setFld (Reg.HEEL_STATUS k) Fld.HEEL_STATUS_CODE code

/-! ### Links (R207, R212, R213) -/

/-- One 48-byte message of Table 7-3. -/
def heelMessage (kind session keyA epoch keyB : Nat) (digest : Bytes) : Bytes :=
  [BitVec.ofNat 8 kind, BitVec.ofNat 8 session] ++ beBytes 2 keyA ++ beBytes 4 epoch ++ beBytes 8 keyB ++ sliceAt digest 0 32

/-- A message with its payload: a longer payload follows in further messages of the same kind. -/
def heelMessages (kind session keyA epoch keyB : Nat) (payload : Bytes) : List Bytes :=
  let pieces := if payload.isEmpty then [[]] else chunksOf 32 payload.length payload
  pieces.map (heelMessage kind session keyA epoch keyB)

/-- CRC-32C of a pin-link frame. -/
def heelCrc (seq ack : Nat) (msg : Bytes) : Nat := crc32c (beBytes 2 seq ++ beBytes 2 ack ++ msg)

/-- A 60-byte frame of the pin link. -/
def heelFrame (seq ack : Nat) (msg : Bytes) : Bytes :=
  [0x55, 0x55, 0x55, 0xD5] ++ beBytes 2 seq ++ beBytes 2 ack ++ msg ++ Poly.crc32c.appended (BitVec.ofNat 64 (heelCrc seq ack msg))

/-- ACK_SEQ of the frames that a session sends: the last frame received in sequence. -/
def HeelSession.ackSeq (x : HeelSession) : Nat := (x.expected + 65535) % 65536

/-- Put a message on the pin link (R213). -/
def HeelSession.pinSend (x : HeelSession) (msg : Bytes) : HeelSession :=
  { x with nextSeq := (x.nextSeq + 1) % 65536, unacked := x.unacked ++ [(x.nextSeq, msg)]
           wire := heelFrame x.nextSeq x.ackSeq msg }

/-- A frame that carries only an acknowledgement; its SEQ repeats that of the next message frame. -/
def HeelSession.pinAck (x : HeelSession) (k : Nat) : HeelSession :=
  { x with wire := heelFrame x.nextSeq x.ackSeq (heelMessage heelAck k 0 0 0 []) }

/-- An acknowledgement arrives: the frames up to it are done. -/
def HeelSession.acked (x : HeelSession) (seq : Nat) : HeelSession :=
  if x.unacked.any fun u => u.1 = seq then { x with unacked := (x.unacked.dropWhile fun u => u.1 ≠ seq).drop 1 } else x

/-- Send a message of a session over its link. -/
def State.heelSend (s : State) (k kind keyA epoch keyB : Nat) (payload : Bytes) : State :=
  let msgs := heelMessages kind k keyA epoch keyB payload
  if s.bit (Reg.HEEL_CTRL k) Fld.HEEL_CTRL_LINK then
    s.setHeel k (msgs.foldl HeelSession.pinSend (s.heelSession k))
  else
    let ctx := s.fld (Reg.HEEL_LINKSEL k) Fld.HEEL_LINKSEL_CONTEXT
    match s.contexts.find ctx with
    | none => s
    | some c =>
      let dest := Config.heelPeer ctx
      msgs.foldl (fun t m =>
        (t.sendMessage ⟨ctx, dest, opWriteImm, Config.heelBuffer ctx, 1, 0, kind, 0, m, s.routeTo c dest c.tclass, .heel k⟩).1) s

/-- A frame of the pin link is taken: one with a good CRC and the SEQ that is expected, which is acknowledged; a frame that carries
only an acknowledgement whatever its SEQ (R213). Answers the session, and whether the frame was taken. -/
def HeelSession.pinTake (x : HeelSession) (kind k : Nat) (f : HeelFrame) (p : HeelPiece) : HeelSession × Bool :=
  if p.crc.toNat ≠ heelCrc p.seq p.ackSeq (heelMessage kind k f.keyA f.epoch f.keyB p.digest) then (x, false)
  else if kind = heelAck then (x.acked p.ackSeq, true)
  else if p.seq ≠ x.expected then (x, false)
  else (({ x.acked p.ackSeq with expected := (x.expected + 1) % 65536 }).pinAck k, true)

/-- Frames of one message are taken in turn: a discarded one leaves the later ones out of sequence, and what was taken waits for
the peer to send from there again. Answers the payload so far, and whether the last frame was taken. -/
def HeelSession.pinTakeAll (kind k : Nat) (f : HeelFrame) : HeelSession → Bytes → Bool → List HeelPiece → HeelSession × Bytes × Bool
  | x, got, whole, [] => (x, got, whole)
  | x, got, _, p :: ps =>
    match x.pinTake kind k f p with
    | (x, true) => HeelSession.pinTakeAll kind k f x (got ++ p.digest) true ps
    | (x, false) => HeelSession.pinTakeAll kind k f x got false ps

/-- A message arrives on the link of a session: the state after it, and the whole payload where the message is complete. -/
def State.heelReceive (s : State) (kind : Nat) (f : HeelFrame) : State × Option Bytes :=
  let k := f.session.val
  let isPin := s.bit (Reg.HEEL_CTRL k) Fld.HEEL_CTRL_LINK
  if !s.bit (Reg.HEEL_CTRL k) Fld.HEEL_CTRL_ENABLE || isPin ≠ f.pinLink then (s, none)
  else if !isPin then (s, some (f.digest ++ f.rest.flatMap (·.digest)))
  else
    let x := s.heelSession k
    let r := HeelSession.pinTakeAll kind k f x x.rx false (⟨f.seq, f.ackSeq, f.crc, f.digest⟩ :: f.rest)
    let rx := if kind = heelAck then x.rx else if r.2.2 then [] else r.2.1
    (s.setHeel k { r.1 with rx := rx }, if r.2.2 then some r.2.1 else none)

/-! ### Digests (R210, R211) -/

/-- HEEL_PENDING shows the digests that wait for the peer's. -/
def State.showPending (s : State) (k : Nat) : State :=
  let x := s.heelSession k
  (s.setFld (Reg.HEEL_PENDING k) Fld.HEEL_PENDING_BATCH (min 1024 x.ownBatch.length)).setFld (Reg.HEEL_PENDING k)
    Fld.HEEL_PENDING_STAGE (min 1024 x.ownStage.length)

/-- The queue of a rank of a job. -/
def State.queueOf (s : State) (slot rank : Nat) : Option Nat :=
  (s.queues.entries.find? fun e => e.2.job = slot && e.2.rank = rank).map (·.1)

/-- A session freezes (R214): it sends a freeze message, its job halts with the code unless it is halted already, and vector 5 is
raised. The code of a job that STOP or ABORT ended stands, since the rule names none for it (log entry 54). -/
def State.freezeSession (s : State) (k code : Nat) : State :=
  if s.heelState k ≠ heelPaired then s else
  let t := s.heelSend k heelFreeze 0 0 0 []
  let t := (t.setHeelState k heelIsFrozen).setHeelCode k code
  let t := if code = ST_HEEL_DIVERGED then t.setBit (Reg.HEEL_STATUS k) Fld.HEEL_STATUS_DIVERGED true else t
  let slot := s.heelJob k
  (if s.jobActive slot || s.jobState slot = jobStopped then t.setJobState slot jobHalted code else t).raise 5

/-- Freeze every paired session whose job has left RUNNING and DRAINING other than by the end of its EPOCHS. One whose job ended
its EPOCHS stays paired: digests may still wait. -/
def State.heelSettle (s : State) : State :=
  [0, 1, 2, 3].foldl (fun t k =>
    let slot := t.heelJob k
    if t.heelState k = heelPaired && !t.jobActive slot && !(t.heelSession k).ended then
      if ((t.jobs.find slot).map (·.exhausted)).getD false && t.jobState slot = jobStopped then
        t.setHeel k { t.heelSession k with ended := true }
      else t.freezeSession k (t.fld (Reg.ENL_JOB_STATUS slot) Fld.ENL_JOB_STATUS_CODE)
    else t) s

/-- A meaning that may end a job's run, in service; the Heel sessions follow. -/
def jobAct (f : State → State) (s : State) : Host.Outcome State Fault Refusal := act (fun s => (f s).heelSettle) s

/-- A mismatch found after the freeze, before the leader locates: the session's code becomes ST_HEEL_DIVERGED, and
with it that of a job that the freeze halted (R214, R215). -/
def State.lateMismatch (s : State) (k : Nat) : State :=
  let slot := s.heelJob k
  let code := s.fld (Reg.HEEL_STATUS k) Fld.HEEL_STATUS_CODE
  let t := (s.setBit (Reg.HEEL_STATUS k) Fld.HEEL_STATUS_DIVERGED true).setHeelCode k ST_HEEL_DIVERGED
  if s.jobState slot = jobHalted && s.fld (Reg.ENL_JOB_STATUS slot) Fld.ENL_JOB_STATUS_CODE = code &&
      (code = ST_HEEL_TIMEOUT || code = ST_HEEL_PEER_HALTED) then t.setJobCode slot ST_HEEL_DIVERGED
  else t

/-- A mismatch is kept for the locate procedure and freezes the session. -/
def State.heelMismatch (s : State) (k : Nat) (m : Mismatch) : State :=
  let x := s.heelSession k
  let t := s.setHeel k { x with mismatches := x.mismatches ++ [m] }
  if s.heelState k = heelIsFrozen then t.lateMismatch k else t.freezeSession k ST_HEEL_DIVERGED

/-- Compare the two digests of a batch (R210). Batches closed under STOP compare only where both closed at the
same LAST_POSITION; others stay uncompared, so that GATE never delivers them and their entries are not freed. -/
def State.compareBatch (s : State) (k : Nat) (own peer : HeelDigest) : State :=
  if own.stop ≠ peer.stop then s.bumpSat (Reg.HEEL_UNCOMPARED k) Fld.HEEL_UNCOMPARED_COUNT
  else if own.digest = peer.digest then
    let t := s.bump (Reg.HEEL_COMPARED k) Fld.HEEL_COMPARED_COUNT
    match t.queueOf (s.heelJob k) own.keyA with
    | some q => t.markCompared q own.epoch own.keyB
    | none => t
  else s.heelMismatch k ⟨false, own.keyA, own.epoch, own.keyB, own.digest, peer.digest⟩

/-- Has the block of a stage compared equal: its digest was sent and waits no more (R211)? -/
def HeelSession.blockDone (x : HeelSession) (stage epoch first : Nat) : Bool :=
  x.closed.contains (stage, epoch, first) &&
    !(x.ownStage.any fun d => d.keyA = stage && d.epoch = epoch && d.keyB = first) &&
    !(x.mismatches.any fun m => m.stage && m.keyA = stage && m.epoch = epoch && m.keyB = first)

/-- May an input buffer of a stage go: has the block compared equal at every stage whose output it may be (R211)? -/
def State.bufferFree (s : State) (k stage epoch first : Nat) : Bool :=
  match s.jobImage (s.heelJob k) with
  | some im => (im.edges.filter fun e => e.toStage = stage).all fun e => (s.heelSession k).blockDone e.fromStage epoch first
  | none => true

/-- Is a buffer still held? -/
def State.poolHolds (s : State) (handle : Nat) : Bool :=
  ((s.pools.find (handlePool handle)).map fun p => (p.held.find (handleIndex handle)).isSome).getD false

/-- Release kept buffers of a session that a test picks. -/
def State.dropKept (s : State) (k : Nat) (free : Nat × Nat × Nat × Nat → Bool) : State :=
  let x := s.heelSession k
  let t := s.setHeel k { x with kept := x.kept.filter fun e => !free e }
  (x.kept.filter free).foldl (fun (t : State) e => if t.poolHolds e.1 then t.poolRelease e.1 e.2.1 else t) t

/-- A stage is done with an input buffer (R84): it is released, or under STAGES kept while the block it belongs to is uncompared. -/
def State.releaseInput (s : State) (slot handle stage epoch pos : Nat) : State :=
  match s.heelOf slot with
  | some k =>
    let first := pos / 64 * 64
    if s.bit (Reg.HEEL_CTRL k) Fld.HEEL_CTRL_STAGES && s.heelState k = heelPaired && !s.bufferFree k stage epoch first then
      s.setHeel k { s.heelSession k with kept := (s.heelSession k).kept ++ [(handle, stage, epoch, first)] }
    else s.poolRelease handle stage
  | none => s.poolRelease handle stage

/-- A job leaves its slot: a session that was paired with it is idle, and keeps nothing. -/
def State.heelLeave (s : State) (slot : Nat) : State :=
  [0, 1, 2, 3].foldl (fun (t : State) k =>
    if t.heelJob k = slot && t.bit (Reg.HEEL_CTRL k) Fld.HEEL_CTRL_ENABLE then
      let u := t.dropKept k fun _ => true
      if u.heelState k = heelPaired then u.setHeelState k heelIdle else u
    else t) s

/-- Compare the two digests of a stage block; a block that compares equal frees what was kept of it (R211). -/
def State.compareStage (s : State) (k : Nat) (own peer : HeelDigest) : State :=
  if own.digest = peer.digest then
    let x := s.heelSession k
    let t := (s.setHeel k { x with blocks := x.blocks.filter fun b => !(b.stage = own.keyA && b.epoch = own.epoch && b.first = own.keyB) }).bump
      (Reg.HEEL_BLOCKS k) Fld.HEEL_BLOCKS_COUNT
    t.dropKept k fun e => t.bufferFree k e.2.1 e.2.2.1 e.2.2.2
  else s.heelMismatch k ⟨true, own.keyA, own.epoch, own.keyB, own.digest, peer.digest⟩

/-- Do two digests have the same key? -/
def HeelDigest.sameKey (a b : HeelDigest) : Bool := a.keyA = b.keyA && a.epoch = b.epoch && a.keyB = b.keyB

/-- A local batch digest: it is sent, and compared where the peer's is there. -/
def State.heelOwnBatch (s : State) (k : Nat) (d : HeelDigest) : State :=
  let t := s.heelSend k heelBatch d.keyA d.epoch d.keyB (d.digest ++ (match d.stop with | some p => beBytes 8 p | none => []))
  let x := t.heelSession k
  (match x.peerBatch.find? d.sameKey with
  | some p => (t.setHeel k { x with peerBatch := x.peerBatch.filter fun e => !d.sameKey e }).compareBatch k d p
  | none => t.setHeel k { x with ownBatch := x.ownBatch ++ [d] }).showPending k

/-- A peer's batch digest. -/
def State.heelPeerBatch (s : State) (k : Nat) (d : HeelDigest) : State :=
  let x := s.heelSession k
  (match x.ownBatch.find? d.sameKey with
  | some o => (s.setHeel k { x with ownBatch := x.ownBatch.filter fun e => !d.sameKey e }).compareBatch k o d
  | none => s.setHeel k { x with peerBatch := x.peerBatch ++ [d] }).showPending k

/-- A local stage block digest. -/
def State.heelOwnStage (s : State) (k : Nat) (d : HeelDigest) : State :=
  let t := s.heelSend k heelStage d.keyA d.epoch d.keyB d.digest
  let x := t.heelSession k
  (match x.peerStage.find? d.sameKey with
  | some p => (t.setHeel k { x with peerStage := x.peerStage.filter fun e => !d.sameKey e }).compareStage k d p
  | none => t.setHeel k { x with ownStage := x.ownStage ++ [d] }).showPending k

/-- A peer's stage block digest. -/
def State.heelPeerStage (s : State) (k : Nat) (d : HeelDigest) : State :=
  let x := s.heelSession k
  (match x.ownStage.find? d.sameKey with
  | some o => (s.setHeel k { x with ownStage := x.ownStage.filter fun e => !d.sameKey e }).compareStage k o d
  | none => s.setHeel k { x with peerStage := x.peerStage ++ [d] }).showPending k

/-! ### Stage blocks (R211) -/

/-- Chunk digests of a stage output. -/
def chunkDigests (out : Bytes) : List Bytes := (chunksOf 4096 out.length out).map sha256

/-- Sample digest: 32 zero bytes where the stage did not handle the sample. -/
def sampleDigest : Option (Nat × Bytes) → Bytes
  | none => List.replicate 32 0
  | some (flags, out) => sha256 (leBytes 2 flags ++ leBytes 4 out.length ++ (chunkDigests out).flatten)

/-- Positions of the block that begins at `first`: 64, or fewer at the end of the epoch. -/
def blockSize (n first : Nat) : Nat := min 64 (n - first)

/-- What a block knows of a position; a position before the job's start counts as not handled. -/
def HeelBlock.at_ (b : HeelBlock) (p : Nat) : Option (Nat × Bytes) := ((b.done.find? fun e => e.1 = p).map (·.2)).getD none

/-- Sample digests of a block in position order. -/
def HeelBlock.digests (b : HeelBlock) (n : Nat) : List Bytes :=
  (List.range (blockSize n b.first)).map fun i => sampleDigest (b.at_ (b.first + i))

/-- Is every position of a block done: emitted, released, or before the job's start? -/
def HeelBlock.complete (b : HeelBlock) (n startEpoch startPos : Nat) : Bool :=
  (List.range (blockSize n b.first)).all fun i =>
    let p := b.first + i
    (b.done.any fun e => e.1 = p) || (b.epoch = startEpoch && p < startPos)

/-- What a stage has emitted for a position: flags and output, the pieces in the order of their ports. -/
def HeelBlock.output (b : HeelBlock) (pos : Nat) : Option (Nat × Bytes) :=
  match b.parts.filter fun p => p.1 = pos with
  | [] => none
  | ps =>
    some (ps.foldl (fun n p => setFlags n p.2.2.1) 0,
      (ps.mergeSort fun a b => decide (a.2.1 ≤ b.2.1)).flatMap fun p => p.2.2.2)

/-- The session of a job that takes stage digests: paired, with STAGES. -/
def State.stageSession (s : State) (slot : Nat) : Option Nat :=
  (s.heelOf slot).filter fun k => s.bit (Reg.HEEL_CTRL k) Fld.HEEL_CTRL_STAGES && s.heelState k = heelPaired

/-- The block of a position at a stage. -/
def HeelSession.block (x : HeelSession) (stage epoch pos : Nat) : HeelBlock :=
  (x.blocks.find? fun b => b.stage = stage && b.epoch = epoch && b.first = pos / 64 * 64).getD ⟨stage, epoch, pos / 64 * 64, [], []⟩

/-- A block stands in its session. -/
def HeelSession.setBlock (x : HeelSession) (b : HeelBlock) : HeelSession :=
  { x with blocks := (x.blocks.filter fun y => !(y.stage = b.stage && y.epoch = b.epoch && y.first = b.first)) ++ [b] }

/-- Does a sample still wait at a stage or before it? -/
def State.waitsAt (s : State) (im : Image) (slot stage epoch pos : Nat) : Bool :=
  s.items.any fun (x : Item) => x.slot = slot && x.epoch = epoch && x.position = pos && !x.done &&
    im.leadsTo im.stages.length x.stage stage

/-- A stage is done with a position once the sample waits neither there nor before it: what it emitted stands, none where it
emitted nothing. A block that becomes complete has its digest sent and compared. -/
def State.heelDone (s : State) (im : Image) (slot stage epoch pos : Nat) : State :=
  match s.stageSession slot, s.jobs.find slot with
  | some k, some j =>
    let x := s.heelSession k
    let b := x.block stage epoch pos
    if (b.done.any fun e => e.1 = pos) || x.closed.contains (stage, epoch, b.first) || s.waitsAt im slot stage epoch pos then s else
    let b := { b with done := b.done ++ [(pos, b.output pos)] }
    let x := x.setBlock b
    if b.complete j.manifest.total j.desc.startEpoch j.desc.startPosition then
      (s.setHeel k { x with closed := (stage, epoch, b.first) :: x.closed }).heelOwnStage k
        ⟨stage, epoch, b.first, sha256 (b.digests j.manifest.total).flatten, none⟩
    else s.setHeel k x
  | _, _ => s

/-- A stage emitted pieces of its output for a position, each with the ports that order them, its flags and its bytes. -/
def State.heelEmitted (s : State) (slot stage epoch pos : Nat) (parts : List (Nat × Nat × Bytes)) : State :=
  match s.stageSession slot, s.jobImage slot with
  | some k, some im =>
    let x := s.heelSession k
    let b := x.block stage epoch pos
    let t :=
      if x.closed.contains (stage, epoch, b.first) then s
      else s.setHeel k (x.setBlock { b with parts := b.parts ++ parts.map fun p => (pos, p.1, p.2.1 % 65536, p.2.2) })
    t.heelDone im slot stage epoch pos
  | _, _ => s

/-- A position was released past PACK: every stage that it neither waits at nor before is done with it. -/
def State.heelReleased (s : State) (slot epoch pos : Nat) : State :=
  match s.jobImage slot with
  | none => s
  | some im => im.stages.foldl (fun t st => t.heelDone im slot st.id epoch pos) s

/-- A batch was packed (R210). -/
def State.heelPacked (s : State) (slot rank : Nat) (b : Closed) : State :=
  match s.heelOf slot with
  | some k =>
    if s.heelState k = heelPaired then
      s.heelOwnBatch k ⟨rank, b.epoch, b.index, b.provenance, if b.stopped then some b.last else none⟩
    else s
  | none => s

/-- Does a session hold assignment back (R212)? -/
def State.heelPauses (s : State) (slot : Nat) : Bool :=
  match s.heelOf slot with
  | some k => 1024 ≤ (s.heelSession k).ownBatch.length || 1024 ≤ (s.heelSession k).ownStage.length
  | none => false

/-- May a batch be delivered under GATE (R210)? -/
def State.heelAllows (s : State) (slot : Nat) (e : QueueEntry) : Bool :=
  match s.heelOf slot with
  | some k => !s.bit (Reg.HEEL_CTRL k) Fld.HEEL_CTRL_GATE || e.compared
  | none => true

/-- A bare acknowledgement arrives (R213): HEEL_ACK_FRAME. -/
def execHeelAckFrame (frame : HeelFrame) (s : State) : Host.Outcome State Fault Refusal :=
  act (fun s => (s.heelReceive heelAck frame).1) s

/-- HEEL_FRAME_RESEND (R213): the frames from one onwards are sent again; the last stays on the pin. -/
def execHeelFrameResend (session : Fin 4) (seq : Nat) (s : State) : Host.Outcome State Fault Refusal :=
  act (fun s =>
    let x := s.heelSession session
    let again := x.unacked.dropWhile fun u => u.1 ≠ seq
    if s.bit (Reg.HEEL_CTRL session) Fld.HEEL_CTRL_LINK then
      match again.getLast? with
      | some u => s.setHeel session { x with wire := heelFrame u.1 x.ackSeq u.2 }
      | none => s
    else s) s

end Sys2Proof.Machine
end

