-- ==== Sys2Proof/Machine/Packing.lean ====
section
/-! DEFINITION. Releasing samples from the reorder windows, packing them, closing batches and queueing them
(R178 to R193). -/

namespace Sys2Proof.Machine

/-- Does a job vary, through its image or its manifest (R202)? -/
def State.jobVaries (s : State) (slot : Nat) : Bool :=
  match s.jobs.find slot with
  | some j => ((s.images.find j.desc.hedge).map (·.varies)).getD false || j.manifest.varies
  | none => false

/-- What PACK takes from the job for a rank. -/
def State.packEnv (s : State) (slot rank : Nat) : PackEnv where
  table := s.packTable slot
  last := (s.orderTable slot).last
  imageDigest := ((s.jobImage slot).map (·.digest)).getD []
  seed := ((s.jobs.find slot).map (·.desc.seed)).getD []
  manifestDigest := ((s.jobs.find slot).map (·.manifest.digest)).getD []
  dclass := s.fld Reg.HEEL_DCLASS Fld.HEEL_DCLASS_CLASS
  jobId := ((s.jobs.find slot).map (·.desc.jobId)).getD 0
  rank := rank
  varies := s.jobVaries slot

/-- Destinations of a rank. -/
def Job.destCount (j : Job) (rank : Nat) : Nat := (j.map.destsOf rank).length

/-- Batches that wait for queue room go into the queue while it is not full (R193). A batch below the floor of a
moved rank is discarded and counted (R339), and one that an earlier holder may have packed is counted (R338). -/
def State.pushWaiting (slot rank : Nat) : (n : Nat) → State → State
  | 0, s => s
  | n + 1, s =>
    match (s.jobs.find slot).bind fun j => (j.stream rank).map fun st => (j, st) with
    | none => s
    | some (j, st) =>
      match st.packer.waiting with
      | [] => s
      | b :: rest =>
        let next := fun (t : State) => t.adjustJob slot fun j => j.adjustStream rank fun st =>
          { st with packer := { st.packer with waiting := rest }, ordinal := st.ordinal + 1 }
        let again := fun (t : State) =>
          if st.ordinal < st.recompute then t.bump Reg.FLT_RECOMPUTED Fld.FLT_RECOMPUTED_COUNT else t
        if st.ordinal < st.floor then
          State.pushWaiting slot rank n ((next s).bump Reg.FLT_RECOMPUTED Fld.FLT_RECOMPUTED_COUNT)
        else if s.queueFull st.queue then s
        else
          let t := again ((next s).pushBatch slot st.queue st.ordinal (j.destCount rank) b)
          State.pushWaiting slot rank n (t.heelPacked slot rank b)

/-- Every batch that waits, as far as the queue has room. -/
def State.pushAll (s : State) (slot rank : Nat) : State :=
  match (s.jobs.find slot).bind (·.stream rank) with
  | some st => State.pushWaiting slot rank st.packer.waiting.length s
  | none => s

/-- How a released sample is treated (R181): removed under rule 1, removed under rule 2, or kept. -/
inductive Treatment where
  | drop
  | filter
  | keep
deriving DecidableEq, Repr

/-- The first rule of R181 that applies; under TIMELY corrupt samples are treated as under CONCEAL (R184). -/
def treatmentOf (o : OrderTable) (flags : Nat) : Treatment :=
  if o.policy = policyDropFill && (isCorrupt flags || (hasFlag flags flagConcealed && o.dropConcealed)) then .drop
  else if hasFlag flags flagFiltered && !o.filterMark then .filter
  else .keep

/-- A released place as PACK receives it: a FILTERED sample has length 0 (R84, R183). -/
def Place.sampleFor (p : Place) (flags skip : Nat) : PackSample :=
  let output := if hasFlag flags flagFiltered then p.facts.output.map fun _ => [] else p.facts.output
  ⟨p.epoch, p.position, p.sample, flags, p.facts.exception, p.facts.input.getD (List.replicate 32 0), p.facts.inputAt, output, p.epochLast, skip⟩

/-- A sample that PACK has taken goes to the cores of the PACK stage too, after those released before it (R83). What the device
packs is fixed with the release, so its outputs count as emitted (DESIGN CHOICE, log entry 52). -/
def State.packItem (s : State) (slot : Nat) (p : Place) (d : PackSample) : State :=
  match (s.jobImage slot).bind fun im => (im.stageOfKind kindPack).map fun st => (im, st) with
  | some (im, st) =>
    { s with items := s.items ++ [{
        slot := slot, stage := st.id, port := 0, member := 0, epoch := p.epoch, position := p.position, sample := p.sample
        payload := match d.payload with
          | some b => .bytes b
          | none => .nothing
        flags := d.flags + 65536 * d.exception, pieces := [], frame := 0, concealed := 0, past := []
        emitted := im.outPorts st.id, done := true, core := none }] }
  | none => s

/-- Release one place of a stream: pack or remove it, and remember where its epoch ends. -/
def State.releasePlace (s : State) (slot rank : Nat) (p : Place) (extra : Nat) : State :=
  match (s.jobs.find slot).bind (·.stream rank) with
  | none => s
  | some st =>
    let env := s.packEnv slot rank
    let flags := setFlags p.facts.flags extra
    let skip := match st.skip with
      | some (pos, k) => if p.position = pos then k else 0
      | none => 0
    let others := (st.deferred ++ st.late).any fun q => q.epoch = p.epoch
    let ends := (p.epochLast || st.ending = some p.epoch) && !others
    let d := { p with epochLast := ends }.sampleFor flags skip
    let tr := treatmentOf (s.orderTable slot) flags
    let packer := match tr with
      | .drop => st.packer.remove d true
      | .filter => st.packer.remove d false
      | .keep => st.packer.add env d
    let t := match tr with
      | .drop => s.bump (Reg.PBQ_JOB_DROPPED slot) Fld.PBQ_JOB_DROPPED_COUNT
      | .filter => s.bump (Reg.PBQ_JOB_FILTERED slot) Fld.PBQ_JOB_FILTERED_COUNT
      | .keep => s.packItem slot p d
    let t := t.adjustJob slot fun j => j.adjustStream rank fun st =>
      { st with packer := packer, ending := if p.epochLast then some p.epoch else st.ending
                skip := if skip = 0 then st.skip else none }
    t.heelReleased slot p.epoch p.position

/-- Close the open batch of a stream as at the end of an epoch (R185). -/
def State.closeEpoch (s : State) (slot rank epoch : Nat) (stopped : Bool) : State :=
  match (s.jobs.find slot).bind fun j => (j.stream rank).map fun st => (j, st) with
  | none => s
  | some (j, st) =>
    let more := j.hasEpoch (epoch + 1) && (s.jobState slot = jobRunning || j.exhausted)
    let r := st.packer.endEpoch (s.packEnv slot rank) epoch more stopped
    let t := s.adjustJob slot fun j => j.adjustStream rank fun st => { st with packer := r.1, ending := none }
    t.bump (Reg.PBQ_JOB_PADDED slot) Fld.PBQ_JOB_PADDED_COUNT r.2

/-- One release step of a stream, where one is possible: batches move on to the queue first, and while one waits
for room PACK is blocked; then deferred samples that are complete, the end of an epoch, the head of the window,
and under STOP the open batch. -/
def State.releaseStep (s : State) (slot rank : Nat) : Option State :=
  match (s.jobs.find slot).bind fun j => (j.stream rank).map fun st => (j, st) with
  | none => none
  | some (j, st) =>
    if !s.jobActive slot || !st.packer.waiting.isEmpty then none else
    match st.late.find? fun p => st.ending = none || st.ending = some p.epoch with
    | some p =>
      some ((s.adjustJob slot fun j => j.adjustStream rank fun st => { st with late := st.late.erase p }).releasePlace slot rank p flagDeferred)
    | none =>
      match st.ending with
      | some e =>
        if st.deferred.any fun p => p.epoch = e then none else some (s.closeEpoch slot rank e false)
      | none =>
        match st.window with
        | p :: rest =>
          if p.complete then
            some ((s.adjustJob slot fun j => j.adjustStream rank fun st => { st with window := rest }).releasePlace slot rank p 0)
          else none
        | [] =>
          if s.jobState slot = jobDraining && !j.exhausted && st.deferred.isEmpty && (st.packer.batch.isSome || st.packer.held.isSome) then
            some (s.closeEpoch slot rank ((st.packer.batch.map (·.epoch)).getD 0) true)
          else none

/-- Release what a stream can release; `n` bounds the steps. -/
def State.releaseLoop (slot rank : Nat) : (n : Nat) → State → State
  | 0, s => s
  | n + 1, s =>
    let t := s.pushAll slot rank
    match t.releaseStep slot rank with
    | some u => State.releaseLoop slot rank n u
    | none => t

/-- Let a stream release, pack and queue what it can (R179, R193). -/
def State.packOn (s : State) (slot rank : Nat) : State :=
  match (s.jobs.find slot).bind (·.stream rank) with
  | none => s
  | some st => State.releaseLoop slot rank (2 * (st.window.length + st.late.length) + st.packer.waiting.length + 8) s

/-- Has a stream nothing left to assign, release, pack or queue? -/
def Stream.packed (st : Stream) : Bool :=
  st.next.isNone && st.window.isEmpty && st.deferred.isEmpty && st.late.isEmpty && st.packer.batch.isNone &&
    st.packer.held.isNone && st.packer.waiting.isEmpty && st.ending.isNone

end Sys2Proof.Machine
end

