-- ==== Sys2Proof/Machine/Delivery.lean ====
section
/-! DEFINITION. Batch delivery (R241 to R243) with the fleet's conditions on it, and the sending of fleet messages
(R329, R331, R334, R337). -/

namespace Sys2Proof.Machine

/-! ### The fleet, as delivery sees it -/

/-- States of FLT_STATUS. -/
def fltIdle : Nat := 0
def fltJoining : Nat := 1
def fltActive : Nat := 2
def fltIsolated : Nat := 3
def fltFenced : Nat := 4

/-- Roles of Table 12-2. -/
def roleSpare : Nat := 0
def roleWorker : Nat := 1
def roleManager : Nat := 2
def roleStandby : Nat := 3
def roleFailed : Nat := 4
def roleWarm : Nat := 5

/-- Kinds of Table 12-3. -/
def kindJoin : Nat := 0x01
def kindRoster : Nat := 0x02
def kindHeartbeat : Nat := 0x03
def kindHbAck : Nat := 0x04
def kindArrive : Nat := 0x05
def kindArriveAck : Nat := 0x06
def kindCommit : Nat := 0x07
def kindMirror : Nat := 0x08
def kindMirrorAck : Nat := 0x09
def kindMove : Nat := 0x0A
def kindFetch : Nat := 0x0B
def kindRecords : Nat := 0x0C
def kindTakeover : Nat := 0x0D
def kindTakeoverAck : Nat := 0x0E
def kindResolve : Nat := 0x0F

/-- All ones: no barrier. -/
def noBarrier : Nat := 2 ^ 64 - 1

def State.fltState (s : State) : Nat := s.fld Reg.FLT_STATUS Fld.FLT_STATUS_STATE
def State.fltRole (s : State) : Nat := s.fld Reg.FLT_STATUS Fld.FLT_STATUS_ROLE
def State.setFltState (s : State) (st : Nat) : State := s.setFld Reg.FLT_STATUS Fld.FLT_STATUS_STATE st
def State.setFltCode (s : State) (c : Nat) : State := s.setFld Reg.FLT_STATUS Fld.FLT_STATUS_CODE c
def State.fleetOn (s : State) : Bool := s.bit Reg.FLT_CTRL Fld.FLT_CTRL_ENABLE
def State.fleetSlot (s : State) : Nat := s.fld Reg.FLT_CTRL Fld.FLT_CTRL_JOB
def State.fleetContext (s : State) : Nat := s.fld Reg.FLT_CONTEXT Fld.FLT_CONTEXT_CONTEXT
def State.ownIndex (s : State) : Nat := s.fld Reg.FLT_INDEX Fld.FLT_INDEX_INDEX
def State.arrived (s : State) : Nat := s.fld Reg.FLT_ARRIVED Fld.FLT_ARRIVED_BARRIER

/-- Is a slot's job bound to the enabled fleet? -/
def State.inFleet (s : State) (slot : Nat) : Bool := s.fleetOn && s.fleetSlot = slot

/-- Change the fleet function. -/
def State.adjustFleet (s : State) (f : Fleet → Fleet) : State := { s with fleet := f s.fleet }

/-- The entry of a roster index. -/
def Fleet.entry (f : Fleet) (i : Nat) : Option RosterEntry := f.roster.bind fun r => r.entries[i]?

/-- Index of the first entry with a role. -/
def Fleet.indexOfRole (f : Fleet) (role : Nat) : Option Nat := f.roster.bind fun r => r.entries.findIdx? fun e => e.role = role

/-- Node of a role. -/
def Fleet.nodeOfRole (f : Fleet) (role : Nat) : Option Nat := (f.indexOfRole role).bind fun i => (f.entry i).map (·.node)

/-- Owner of a rank; 0xFFFF for none. -/
def Fleet.ownerOf (f : Fleet) (rank : Nat) : Nat := (f.roster.bind fun r => r.owners[rank]?).getD 0xFFFF

/-- A fleet message (R329): the 16-byte header and the body, little-endian. -/
def fleetMessage (kind sender rosterEpoch barrier : Nat) (body : Bytes) : Bytes :=
  leBytes 1 kind ++ [0] ++ leBytes 2 sender ++ leBytes 4 rosterEpoch ++ leBytes 8 barrier ++ body

/-- ROSTER_EPOCH of a message: that of the roster in force. JOIN and RESOLVE ask for a roster because the sender has none or
doubts its own, so they carry all ones, which no receiver discards (DESIGN CHOICE, log entry 41). -/
def State.sentEpoch (s : State) (kind : Nat) : Nat :=
  if kind = kindJoin || kind = kindResolve then 2 ^ 32 - 1 else s.fld Reg.FLT_ROSTER_EPOCH Fld.FLT_ROSTER_EPOCH_EPOCH

/-- Send a fleet message to a node, as one WRITE_IMM to buffer 1 on the fleet context with KIND as the immediate. -/
def State.fleetPost (s : State) (node kind barrier : Nat) (body : Bytes) : State :=
  match s.contexts.find s.fleetContext with
  | none => s
  | some c =>
    let sender := if s.ownIndex = 0x1FFF then 0xFFFF else s.ownIndex
    let msg := fleetMessage kind sender (s.sentEpoch kind) barrier body
    (s.sendMessage ⟨s.fleetContext, node, opWriteImm, 1, 1, 0, kind, 0, msg, s.routeTo c node c.tclass, .fleet kind⟩).1

/-- Send a fleet message, or keep it while what goes to the node is held (R336). RESOLVE itself is not held. -/
def State.fleetSend (s : State) (node kind barrier : Nat) (body : Bytes) : State :=
  if s.fleet.heldNodes.contains node && kind ≠ kindResolve then
    s.adjustFleet fun f => { f with heldMsgs := f.heldMsgs ++ [(node, kind, barrier, body)] }
  else s.fleetPost node kind barrier body

/-- Send to the holder of a role, where there is one. -/
def State.fleetSendRole (s : State) (role kind barrier : Nat) (body : Bytes) : State :=
  match s.fleet.nodeOfRole role with
  | some node => if node = s.sourceId then s else s.fleetSend node kind barrier body
  | none => s

/-- Ranks that this worker holds. -/
def State.heldRanks (s : State) : List Nat :=
  match s.fleet.roster with
  | some r => (r.owners.zipIdx.filter fun e => e.1 = s.ownIndex).map (·.2)
  | none => []

/-- The resume record of a held rank, with DONE once the rank has no further batch. -/
def State.rankRecord (s : State) (slot rank : Nat) : Bytes :=
  match (s.jobs.find slot).bind (·.stream rank) with
  | some st =>
    if st.packed && s.queueReady st.queue = 0 then ({ resumeOf st.resume with done := true }).bytes else st.resume
  | none => []

/-- Has a rank passed a barrier: its last ordinal is delivered, or the rank has no further batch (R331)? -/
def State.rankPassed (s : State) (slot rank j : Nat) : Bool :=
  match (s.jobs.find slot).bind (·.stream rank) with
  | some st => 64 * j + 64 ≤ max (resumeOf st.resume).ordinal st.base || (st.packed && s.queueReady st.queue = 0)
  | none => false

/-- The barrier that this worker arrives at next. -/
def State.nextBarrier (s : State) : Nat := if s.arrived = noBarrier then 0 else s.arrived + 1

/-- The first barrier whose last ordinal some held rank still has to deliver bounds an arrival: a worker whose
ranks were all taken over at a later ordinal arrives at the barrier of that ordinal. A rank that this worker dropped for a
move counts no more. -/
def State.barrierReached (s : State) (slot : Nat) : Option Nat :=
  let gone := fun (r : Nat) => s.fleet.moves.any fun m => m.rank = r && m.from_ = s.ownIndex && m.dropped
  let ranks := s.heldRanks.filter fun r => !gone r
  let least : Nat := ranks.foldl (fun (n : Nat) (r : Nat) =>
    match (s.jobs.find slot).bind (·.stream r) with
    | some st => min n (st.base / 64)
    | none => n) (2 ^ 58)
  let j := if s.arrived = noBarrier then (if least = 2 ^ 58 then 0 else least) else s.arrived + 1
  if !ranks.isEmpty && ranks.all fun r => s.rankPassed slot r j && !s.fleet.shadowed.contains r then some j else none

/-- A worker that reached a barrier sends ARRIVE to the manager and the standby, once per barrier (R331). -/
def State.arriveCheck (s : State) (slot : Nat) : State :=
  if !s.inFleet slot || s.fltRole ≠ roleWorker || !s.jobActive slot then s else
  match s.barrierReached slot with
  | none => s
  | some j =>
    if s.fleet.arriving = some j then s
    else
      let body := s.heldRanks.flatMap fun r => s.rankRecord slot r
      let t := s.adjustFleet fun f => { f with arriving := some j }
      (t.fleetSendRole roleManager kindArrive j body).fleetSendRole roleStandby kindArrive j body

/-- May a batch's delivery start (R331, R334, R338, R339): the worker is not isolated, the roster gives it the
rank, and not only to pack it beforehand, and the lead rule allows the ordinal? -/
def State.fleetMayStart (s : State) (slot rank ordinal : Nat) : Bool :=
  match s.jobs.find slot with
  | none => false
  | some j =>
    if !j.map.fleet then true
    else
      s.fltState = fltActive && s.fleet.ownerOf rank = s.ownIndex && s.fltRole = roleWorker && !s.fleet.shadowed.contains rank &&
        (ordinal < 64 || (s.arrived ≠ noBarrier && ordinal / 64 - 1 ≤ s.arrived) ||
          s.fleet.exempt.any fun e => e.1 = rank && e.2 = ordinal / 64)

/-- Node of this worker's buddy. -/
def State.buddyNode (s : State) : Option Nat :=
  ((s.fleet.entry s.ownIndex).bind fun e => if e.buddy = 0xFFFF then none else s.fleet.entry e.buddy).map (·.node)

/-- May the WRITE_IMM of a rank's batch be sent to a destination (R334, R337): the worker is not isolated, every destination
has the batch before it, and the buddy, where there is one, acknowledged its MIRROR? -/
def State.fleetMayFinish (s : State) (slot : Nat) (st : Stream) (ordinal : Nat) : Bool :=
  !s.inFleet slot ||
    (s.fltState ≠ fltIsolated && (s.buddyNode.isNone ||
      ((s.fleet.mirrorWait.find st.rank).isNone && ordinal ≤ max (resumeOf st.resume).ordinal st.base)))

/-- Mirror the record of a rank to the buddy (R337). -/
def State.mirror (s : State) (slot rank : Nat) : State :=
  match s.buddyNode with
  | none => s.adjustFleet fun f => { f with mirrorWait := f.mirrorWait.erase rank }
  | some node =>
    let r := s.rankRecord slot rank
    let n := (resumeOf r).ordinal
    (s.adjustFleet fun f => { f with mirrorWait := if n = 0 then f.mirrorWait.erase rank else f.mirrorWait.insert rank n }).fleetSend
      node kindMirror 0 r

/-- A fleet worker completed a batch of a rank (R331, R337). -/
def State.fleetDelivered (s : State) (slot rank : Nat) : State :=
  if s.inFleet slot && s.fltRole = roleWorker then (s.mirror slot rank).arriveCheck slot else s

/-! ### Deliveries -/

/-- The delivery of a destination of a rank. -/
def State.delivery (s : State) (slot rank dest : Nat) : Option (Job × Stream × Delivery × DestEntry) :=
  (s.jobs.find slot).bind fun j => (j.stream rank).bind fun st =>
    match st.deliveries[dest]?, (j.map.destsOf rank)[dest]? with
    | some d, some e => some (j, st, d, e)
    | _, _ => none

/-- Change the delivery of a destination. -/
def State.adjustDelivery (s : State) (slot rank dest : Nat) (f : Delivery → Delivery) : State :=
  s.adjustJob slot fun j => j.adjustStream rank fun st =>
    { st with deliveries := st.deliveries.zipIdx.map fun e => if e.2 = dest then f e.1 else e.1 }

/-- The entry of an ordinal in a queue. -/
def State.queueEntry (s : State) (q ordinal : Nat) : Option QueueEntry :=
  (s.queues.find q).bind fun x => x.entries.find? fun e => e.ordinal = ordinal

/-- Bytes of a queued batch, read from the queue's ring in DRAM. -/
def State.batchBytes (s : State) (slot : Nat) (e : QueueEntry) : Bytes := s.readMem .dram e.at_ (s.packTable slot).batchSize

/-- The messages of a batch to a destination (R242): pieces of at most 32,768 fragments with their offsets, which is 32,768
× PAYLOAD bytes where no APPEND unit takes a part of a fragment (R223, R267). -/
def State.batchPieces (s : State) (slot : Nat) (e : QueueEntry) (ctx : Nat) (de : DestEntry) : List (Nat × Bytes) :=
  let data := s.batchBytes slot e
  let size := maxFragments * s.dataRoom de.port de.sub ctx opWrite
  (chunksOf size data.length data).zipIdx.map fun p => (size * p.2, p.1)

/-- Send one message of a batch to a credit. -/
def State.sendPiece (s : State) (slot rank dest : Nat) (j : Job) (de : DestEntry) (c : Nat × Nat × Nat) (e : QueueEntry)
    (piece : Nat × Bytes) (last : Bool) : State × Nat :=
  s.sendMessage ⟨j.map.context, de.node, if last then opWriteImm else opWrite, c.1, c.2.1, piece.1,
    if last then e.batch.index % 2 ^ 32 else 0, 0, piece.2, j.map.routeTo de, .batch slot rank dest e.ordinal⟩

/-- Start a batch on a credit: every message but the last goes as WRITE (R242). -/
def State.startBatch (s : State) (slot rank dest : Nat) (j : Job) (de : DestEntry) (c : Nat × Nat × Nat) (e : QueueEntry) : State :=
  let pieces := s.batchPieces slot e j.map.context de
  let r := (pieces.take (pieces.length - 1)).foldl (fun (acc : State × List Nat) p =>
    let x := acc.1.sendPiece slot rank dest j de c e p false
    (x.1, acc.2 ++ [x.2])) (s, [])
  r.1.adjustDelivery slot rank dest fun d => { d with credit := some c, open_ := r.2, lastSent := false, again := false }

/-- One step of a delivery, where one is possible (R242): discard a short credit, start a batch on the oldest
credit, start it again on the credit that it has, send its last message as WRITE_IMM, or complete. -/
def State.deliveryStep (s : State) (slot rank dest : Nat) : Option State :=
  match s.delivery slot rank dest with
  | none => none
  | some (j, st, d, de) =>
    if !s.jobActive slot || d.waiting || d.held then none else
    match s.queueEntry st.queue d.ordinal with
    | none => none
    | some e =>
      match d.credit with
      | none =>
        if !s.heelAllows slot e || !s.fleetMayStart slot rank d.ordinal then none else
        match d.credits with
        | [] => none
        | c :: rest =>
          let t := s.adjustDelivery slot rank dest fun d => { d with credits := rest }
          if c.2.2 < (s.packTable slot).batchSize then
            some (t.bumpSat (Reg.PLT_JOB_SHORT_CREDIT slot) Fld.PLT_JOB_SHORT_CREDIT_COUNT)
          else some (t.startBatch slot rank dest j de c e)
      | some c =>
        if d.again then if s.fleetMayStart slot rank d.ordinal then some (s.startBatch slot rank dest j de c e) else none
        else if !d.open_.isEmpty then none
        else if d.lastSent then
          let t := s.adjustDelivery slot rank dest fun d =>
            { d with credit := none, ordinal := d.ordinal + 1, lastSent := false, repeats := 0 }
          let t := t.bump (Reg.PLT_JOB_BYTES slot) Fld.PLT_JOB_BYTES_COUNT (s.packTable slot).batchSize
          let t := t.releaseEntry st.queue e.ordinal
          if e.refs = 1 then
            let t := t.adjustJob slot fun j => j.adjustStream rank fun st => { st with resume := e.after }
            some (t.fleetDelivered slot rank)
          else some t
        else if !s.fleetMayFinish slot st d.ordinal then none
        else
          match (s.batchPieces slot e j.map.context de).getLast? with
          | none => none
          | some p =>
            let r := s.sendPiece slot rank dest j de c e p true
            some (r.1.adjustDelivery slot rank dest fun d => { d with open_ := [r.2], lastSent := true })

/-- Take a delivery as far as it goes; `n` bounds the steps. -/
def State.deliveryLoop (slot rank dest : Nat) : (n : Nat) → State → State
  | 0, s => s
  | n + 1, s =>
    match s.deliveryStep slot rank dest with
    | some t => State.deliveryLoop slot rank dest n t
    | none => s

/-- Take every delivery of a rank as far as it goes. -/
def State.deliverRank (s : State) (slot rank : Nat) : State :=
  match (s.jobs.find slot).bind (·.stream rank) with
  | none => s
  | some st => (List.range st.deliveries.length).foldl (fun t dest =>
      State.deliveryLoop slot rank dest (((st.deliveries[dest]?).map (·.credits.length)).getD 0 + 5) t) s

/-- Pack and deliver what a rank can: a freed queue entry lets PACK go on (R193), and a batch that it queues may
start (R242). -/
def State.flowRank (s : State) (slot rank : Nat) : State :=
  ((s.packOn slot rank).deliverRank slot rank).packOn slot rank |>.deliverRank slot rank

/-- Pack and deliver what a job can. -/
def State.flowJob (s : State) (slot : Nat) : State :=
  match s.jobs.find slot with
  | none => s
  | some j => j.streams.foldl (fun t st => t.flowRank slot st.rank) s

/-- A message of a batch is acknowledged in full. -/
def State.batchMessageDone (s : State) (slot rank dest ordinal msgId : Nat) : State :=
  match s.delivery slot rank dest with
  | some (_, _, d, _) =>
    if s.jobActive slot && d.ordinal = ordinal && d.open_.contains msgId then
      (s.adjustDelivery slot rank dest fun d => { d with open_ := d.open_.filter (· ≠ msgId) }).flowRank slot rank
    else s
  | none => s

/-- Is a purpose the batch of a destination? -/
def isBatchOf (slot rank dest : Nat) : Purpose → Bool
  | .batch a b c _ => a = slot && b = rank && c = dest
  | _ => false

/-- The batch in delivery begins again, the whole of it: what was sent of it is forgotten. -/
def State.restartBatch (s : State) (slot rank dest : Nat) (credit : Option (Nat × Nat × Nat)) : State :=
  (s.cancelMessages (isBatchOf slot rank dest)).adjustDelivery slot rank dest fun d =>
    { d with credit := credit, open_ := [], lastSent := false, again := credit.isSome }

/-- A batch message was refused: the credit is discarded and the whole batch goes to the next one (R243). The
spec names NAK_STALE_GEN, which is counted; other refusals of a credit's buffer are treated alike (log entry 27). -/
def State.batchRefused (s : State) (slot rank dest code : Nat) : State :=
  let t := s.restartBatch slot rank dest none
  let t := if code = NAK_STALE_GEN then t.bumpSat (Reg.PLT_JOB_STALE_GEN slot) Fld.PLT_JOB_STALE_GEN_COUNT else t
  t.flowRank slot rank

/-- A batch message is UNCONFIRMED: the delivery waits for its retry timer (R243). -/
def State.batchUnconfirmed (s : State) (slot rank dest : Nat) : State :=
  match s.delivery slot rank dest with
  | none => s
  | some (_, _, d, _) => (s.restartBatch slot rank dest d.credit).adjustDelivery slot rank dest fun d => { d with waiting := true }

/-- Send the whole batch again to the same credit, under new message ids: at once, or when an isolated worker or a held
delivery may start messages again (R334, R336). -/
def State.repeatBatch (s : State) (slot rank dest : Nat) : State :=
  match s.delivery slot rank dest with
  | none => s
  | some (_, _, d, _) =>
    if !s.jobActive slot || !d.waiting then s
    else
      let t := s.bump (Reg.PLT_JOB_RETRIES slot) Fld.PLT_JOB_RETRIES_COUNT
      (t.adjustDelivery slot rank dest fun d => { d with waiting := false, repeats := d.repeats + 1 }).flowRank slot rank

/-- DELIVERY_RETRY_TIMER (R243): the waits of 1 ms, doubled up to 64 ms, are the command's own passage of time. -/
def execDeliveryRetryTimer (slot : Fin 64) (rank dest : Nat) (s : State) : Host.Outcome State Fault Refusal :=
  jobAct (fun s => s.repeatBatch slot rank dest) s

/-- The credit entries of a CREDIT message by destination (R241): the first destination of the rank whose NODE is
the source. -/
def Job.creditDest (j : Job) (source rank : Nat) : Option Nat := (j.map.destsOf rank).findIdx? fun d => d.node = source

/-- Credits that a CREDIT message would add to a destination. -/
def Job.creditsFor (j : Job) (source rank dest : Nat) (es : List (Nat × Nat × Nat × Nat)) : List (Nat × Nat × Nat) :=
  (es.filter fun e => e.1 = rank && j.creditDest source e.1 = some dest).map fun e => e.2

/-- Would a CREDIT overfill a FIFO of 64? -/
def Job.creditOverfills (j : Job) (source : Nat) (es : List (Nat × Nat × Nat × Nat)) : Bool :=
  j.streams.any fun st => st.deliveries.zipIdx.any fun d =>
    64 < d.1.credits.length + (j.creditsFor source st.rank d.2 es).length

/-- Entries that match no destination of a stream that the job has. -/
def Job.creditUnmatched (j : Job) (source : Nat) (es : List (Nat × Nat × Nat × Nat)) : Nat :=
  (es.filter fun e => (j.creditDest source e.1).isNone || (j.stream e.1).isNone).length

/-- Take the entries of a CREDIT message. -/
def State.takeCredits (s : State) (slot source : Nat) (es : List (Nat × Nat × Nat × Nat)) : State :=
  match s.jobs.find slot with
  | none => s
  | some j =>
    let t := s.adjustJob slot fun j =>
      { j with streams := j.streams.map fun st =>
          { st with deliveries := st.deliveries.zipIdx.map fun d =>
              { d.1 with credits := d.1.credits ++ j.creditsFor source st.rank d.2 es } } }
    let t := t.bumpSat (Reg.PLT_JOB_CREDIT_DROP slot) Fld.PLT_JOB_CREDIT_DROP_COUNT (j.creditUnmatched source es)
    t.flowJob slot

/-- Forget every message of a job's slot: what an earlier job of the slot had in flight. -/
def State.forgetMessages (s : State) (slot : Nat) : State :=
  s.cancelMessages fun p => match p with
    | .batch a _ _ _ => a = slot
    | .mask a _ _ _ => a = slot
    | .read item => item.slot.val = slot
    | _ => false

end Sys2Proof.Machine
end

