-- ==== Sys2Proof/Machine/Store.lean ====
section
/-! DEFINITION. The block store (R299 to R319): units, blocks and the map, the task register sets, controller
reset, checkpoints, reclaiming, wear and the health log. -/

namespace Sys2Proof.Machine

/-- Codes of Table 11-7. -/
def ST_ABORT_RESET : Nat := 0x00A0
def ST_ABORT_ACTIVATE : Nat := 0x00A1
def ST_MEDIUM_EXHAUSTED : Nat := 0x00A2
def ST_MEDIUM_UNREADABLE : Nat := 0x00A3
def ST_NS_READ_ONLY : Nat := 0x00A4
def ST_NS_INVALID : Nat := 0x00A5
def ST_NS_ACCESS : Nat := 0x00A6
def ST_TRS_FIELD : Nat := 0x00A7
def ST_TRS_BUS : Nat := 0x00A8
def ST_KEY_IN_USE : Nat := 0x00A9
def ST_KEY_SLOTS : Nat := 0x00AA
def ST_KEY_STATE : Nat := 0x00AB
def ST_NS_EXISTS : Nat := 0x00AC
def ST_NS_CAPACITY : Nat := 0x00AD
def ST_NS_BUSY : Nat := 0x00AE
def ST_STORE_FULL : Nat := 0x00AF

/-- Opcodes of Table 11-1. -/
def blkRead : Nat := 1
def blkWrite : Nat := 2
def blkAtomic : Nat := 3
def blkFlush : Nat := 4
def blkTrim : Nat := 5
def blkVerify : Nat := 6
def blkFormat : Nat := 7

/-- States of a TRS (R300). -/
def trsIdle : Nat := 0
def trsPending : Nat := 1
def trsStarted : Nat := 2
def trsComplete : Nat := 3

/-- NSID of a FLUSH of every namespace. -/
def allNamespaces : Nat := 0xFFFF_FFFF

/-- FLAGS bits of Table 11-3. -/
def unitAtomic : Nat := 1
def unitCommit : Nat := 2
def unitTrimRec : Nat := 4
def unitFormatRec : Nat := 8

/-- States of a key slot (R318). -/
def keyFree : Nat := 0
def keyActive : Nat := 1
def keyRetiring : Nat := 2

/-- Bytes of a logical block. -/
def unitBytes : Nat := 4096

/-! ### Namespaces and their units -/

/-- Change the block store. -/
def State.adjustStore (s : State) (f : Store → Store) : State := { s with store := f s.store }

/-- Change the health counters. -/
def State.adjustHealth (s : State) (f : Health → Health) : State :=
  s.adjustStore fun st => { st with health := f st.health }

/-- SIZE of a namespace in units. -/
def State.nsSize (s : State) (n : Nat) : Nat := s.fld (Reg.FTL_NS_SIZE n) Fld.FTL_NS_SIZE_UNITS

/-- Key slots of a namespace: slot, generation, state. -/
def State.keySlots (s : State) (n : Nat) : List (Nat × Nat × Nat) :=
  [0, 1, 2, 3].map fun k =>
    (k, s.fld (Reg.FTL_NS_KEY n k) Fld.FTL_NS_KEY_GEN, s.fld (Reg.FTL_NS_KEY n k) Fld.FTL_NS_KEY_STATE)

/-- The ACTIVE generation; 0 for a namespace without encryption (R318). -/
def State.activeGen (s : State) (n : Nat) : Nat :=
  ((s.keySlots n).find? fun k => k.2.2 = keyActive).map (·.2.1) |>.getD 0

/-- FTL_NS_USED and FTL_NS_KEY_PAGES follow the map. -/
def State.showNs (s : State) (n : Nat) : State :=
  let units := (s.ns n).units
  let t := s.setReg (Reg.FTL_NS_USED n) (BitVec.ofNat 64 units.entries.length)
  (s.keySlots n).foldl (fun t k =>
    let pages := if k.2.2 = keyFree then 0 else (units.vals.filter fun u => u.keyGen = k.2.1).length
    t.setReg (Reg.FTL_NS_KEY_PAGES n k.1) (BitVec.ofNat 64 pages)) t

/-- Replace the units of a namespace. -/
def State.setUnits (s : State) (n : Nat) (f : Tab StoredUnit → Tab StoredUnit) : State :=
  let x := s.ns n
  s.adjustStore fun st => { st with namespaces := st.namespaces.insert n { x with units := f x.units } }

/-- A mapped unit. -/
def State.mapped (s : State) (n lba : Nat) : Option StoredUnit := (s.ns n).units.find lba

/-- Contents of a unit; one that is not mapped reads as zeros (R302). -/
def State.unitData (s : State) (n lba : Nat) : Bytes :=
  ((s.mapped n lba).map (·.data)).getD (List.replicate unitBytes 0)

/-- Contents of `count` units. -/
def State.unitsData (s : State) (n lba count : Nat) : Bytes :=
  (List.range count).flatMap fun i => s.unitData n (lba + i)

/-- Does a unit of a range fail read recovery (R310)? -/
def State.unitsBad (s : State) (n lba count : Nat) : Bool :=
  (s.ns n).units.entries.any fun e => lba ≤ e.1 && e.1 < lba + count && e.2.bad

/-- Buffers of KIND 0x05 that meet a range of units that was written, trimmed or formatted take the next
generation (R236). -/
def State.bumpRange (s : State) (n lba count : Nat) : State :=
  let meets := fun b : CtxBuffer =>
    b.kind = 5 && b.nsid = n && b.firstUnit < lba + count && lba < b.firstUnit + b.units
  { s with contexts := s.contexts.mapVals fun _ c =>
      { c with buffers := c.buffers.map fun b => if meets b then { b with generation := nextGeneration b.generation } else b } }

/-- Write bytes that the spec leaves undefined: each is a free value. -/
def State.writeFree (s : State) (sp : Space) (a n : Nat) : State :=
  let bytes := (List.range n).map fun i => BitVec.ofNat 8 (Config.freeBits (s.free + i))
  { (s.writeMem sp a bytes) with free := s.free + n }

/-! ### Blocks (R315, R316) -/

/-- Free data blocks: those never used and those erased. -/
def Store.freeBlocks (st : Store) : Nat := (st.dataBlocks - st.fresh) + st.freed.length

/-- Data blocks that can be allocated before the next checkpoint (R313). -/
def Store.allocatable (st : Store) : Nat :=
  match st.allowed with
  | some l => l.length
  | none => st.freeBlocks

/-- Units that can be programmed before a block must be erased, or a checkpoint be taken. -/
def Store.room (st : Store) : Nat :=
  st.allocatable * st.unitsPerBlock +
    st.blocks.vals.foldl (fun n b => if b.state = .open_ then n + (st.unitsPerBlock - b.programmed) else n) 0

/-- Valid units of a block. -/
def Store.validIn (st : Store) (b : Nat) : Nat :=
  st.namespaces.vals.foldl (fun n x => n + (x.units.vals.filter fun u => u.block = b).length) 0

/-- Mapped units of every namespace. -/
def Store.validUnits (st : Store) : Nat := st.namespaces.vals.foldl (fun n x => n + x.units.entries.length) 0

/-- The first `n` free blocks in the order in which they are allocated: the order of erasure, blocks that were never used
coming first (log entry 6). -/
def Store.freeOrder (st : Store) (n : Nat) : List Nat :=
  ((List.range (min n (st.dataBlocks - st.fresh))).map (st.fresh + ·) ++ st.freed).take n

/-- The next block to program into: an open one, else the first of the newest checkpoint's list, else the first free one. -/
def Store.pickBlock (st : Store) : Nat :=
  match st.blocks.entries.find? fun e => e.2.state = .open_ with
  | some e => e.1
  | none => ((st.allowed.getD []).head?.or (st.freeOrder 1).head?).getD st.fresh

/-- The store with that block open. -/
def Store.openBlock (st : Store) : Store :=
  let b := st.pickBlock
  let left := st.allowed.map fun l => l.filter (· ≠ b)
  match st.blocks.find b with
  | some x =>
    if x.state = .open_ then st
    else { st with
      blocks := st.blocks.insert b { x with state := .open_, programmed := 0 }, freed := st.freed.filter (· ≠ b), allowed := left }
  | none => { st with blocks := st.blocks.insert b ⟨.open_, 0, 0, 0⟩, fresh := st.fresh + 1, allowed := left }

/-- One unit is programmed into the open block: PSEQ, the block's fill and the counters move on. -/
def Store.programmed (st : Store) : Store :=
  let t := st.openBlock
  let b := st.pickBlock
  { t with
    nextPseq := t.nextPseq + 1
    sinceCkpt := t.sinceCkpt + 1
    health := { t.health with nandUnits := t.health.nandUnits + 1 }
    blocks := t.blocks.adjust b fun x =>
      { x with programmed := x.programmed + 1, lastPseq := t.nextPseq
               state := if t.unitsPerBlock ≤ x.programmed + 1 then .closed else .open_ } }

/-- The registers show reclaiming and throttling (R315). -/
def State.showBlocks (s : State) : State :=
  let n := s.store.freeBlocks
  (s.setBit Reg.FTL_STATE Fld.FTL_STATE_GC_ACTIVE (n * 100 < s.store.dataBlocks)).setBit Reg.FTL_STATE
    Fld.FTL_STATE_THROTTLED (n * 400 < s.store.dataBlocks)

/-- Check values of a unit's records that outbound units of its channel insert, in record order (R267). -/
def State.protectUnit (s : State) (channel n : Nat) (data : Bytes) : State × Bytes :=
  let r := (s.chkUnitsOn 0 (channel % 48) true n).foldl (fun (acc : State × Bytes) u =>
    ((acc.1.chkConfig u).recordsOf (acc.1.chkUnit u).into 0 data).foldl (fun (acc : State × Bytes) rec_ =>
      let x := acc.1.chkRecord u rec_ []
      (x.1, acc.2 ++ x.2.1)) acc) (s, [])
  (r.1, sliceAt r.2 0 64)

/-- Is a NAND channel stalled for a namespace by a paused unit (R269)? -/
def State.nandStalled (s : State) (block n : Nat) (outbound : Bool) : Bool :=
  (s.chkUnitsOn 0 (Config.blockChannel block % 48) outbound n).any s.chkPaused

/-- Run a unit that was read through the inbound check units of its channel: do all STRIP values agree? -/
def State.checkUnit (s : State) (channel n : Nat) (u : StoredUnit) : State × Bool :=
  (s.chkUnitsOn 0 (channel % 48) false n).foldl (fun (acc : State × Bool) k =>
    let c := acc.1.chkConfig k
    let recs := (c.recordsOf (acc.1.chkUnit k).into 0 u.data).zipIdx.map fun e => (e.1, sliceAt u.protection (c.width * e.2) c.width)
    let x := chkRecords k recs acc.1
    (x.1, acc.2 && x.2.2)) (s, true)

/-! ### Read recovery (R310) -/

/-- Bucket of the histogram of corrected bits (Table 11-5). -/
def correctedBucket (bits : Nat) : Nat := min 15 (Nat.log2 bits)

/-- A decode that corrected bits is counted. -/
def State.countCorrected (s : State) : NandOutcome → State
  | .hard 0 => s
  | .hard n => s.adjustHealth fun h => { h with corrected := h.corrected.insert (correctedBucket n) (((h.corrected.find (correctedBucket n)).getD 0) + 1) }
  | .soft => s.adjustHealth fun h => { h with corrected := h.corrected.insert 15 (((h.corrected.find 15).getD 0) + 1) }
  | .uncorrectable => s

/-- The unit on NAND with a PSEQ fails on every read from now on, wherever the map or a checkpoint names it. -/
def State.markBad (s : State) (pseq : Nat) : State :=
  let mark := fun (u : StoredUnit) => if u.pseq = pseq then { u with bad := true } else u
  s.adjustStore fun st => { st with
    nand := st.nand.map fun x => { x with unit := mark x.unit }
    namespaces := st.namespaces.mapVals fun _ n => { n with units := n.units.mapVals fun _ u => mark u }
    ckpts := st.ckpts.map fun c => { c with map := c.map.mapVals fun _ m => m.mapVals fun _ u => mark u } }

/-- A unit failed its recovery (R310): where the medium did, it fails again on every read until it is rewritten. -/
def State.unitFailed (s : State) (pseq : Nat) (medium : Bool) : State :=
  let t := s.adjustHealth fun h => { h with uncorrectable := h.uncorrectable + 1 }
  if medium then t.markBad pseq else t

/-- A mapped unit is read: its decode is counted, and the check units of its channel see it. Answers whether its recovery
succeeded. A unit that is not mapped needs no read. -/
def State.readUnit (s : State) (n lba : Nat) (outcome : NandOutcome) : State × Bool :=
  match s.mapped n lba with
  | none => (s, true)
  | some u =>
    let t := s.countCorrected (if u.bad then .uncorrectable else outcome)
    let lost : Bool := u.bad || outcome = .uncorrectable
    let r := if lost then (t, true) else t.checkUnit (Config.blockChannel u.block) n u
    if lost || !r.2 then (r.1.unitFailed u.pseq lost, false) else (r.1, true)

/-- Units of a namespace are read, each with its outcome, which is a clean decode where none is listed. Answers whether all
recoveries succeeded. -/
def State.readUnits (s : State) (n : Nat) (units : List Nat) (outcomes : List NandOutcome) : State × Bool :=
  units.zipIdx.foldl (fun (acc : State × Bool) e =>
    let r := acc.1.readUnit n e.1 (outcomes.getD e.2 (.hard 0))
    (r.1, acc.2 && r.2)) (s, true)

/-- Is one of these units on a channel that is stalled for reads? -/
def State.unitsStalled (s : State) (n : Nat) (units : List Nat) : Bool :=
  units.any fun lba => (s.mapped n lba).any fun u => s.nandStalled u.block n false

/-- Put a unit on NAND (R309). -/
def State.putNand (s : State) (x : NandUnit) : State :=
  (s.adjustStore Store.programmed).adjustStore fun st => { st with nand := st.nand ++ [x] }

/-- Program a unit of a namespace, not yet mapped: ORIGIN is the new PSEQ for data of a command, and kept for a copy
(Table 11-3). Its data is encrypted under the ACTIVE generation (R318). Answers the unit. -/
def State.writeUnit (s : State) (n lba : Nat) (data : Bytes) (origin : Option Nat) (flags group groupCount : Nat) (bad : Bool) :
    State × StoredUnit :=
  let b := s.store.pickBlock
  let pseq := s.store.nextPseq
  let (t, prot) := s.protectUnit (Config.blockChannel b) n data
  let u : StoredUnit := ⟨data, pseq, origin.getD pseq, flags, s.activeGen n, group, groupCount, b, prot, bad⟩
  (t.putNand ⟨n, lba, none, u⟩, u)

/-- Program a unit of a namespace and map it. -/
def State.programUnit (s : State) (n lba : Nat) (data : Bytes) (origin : Option Nat) (flags group groupCount : Nat) (bad : Bool) :
    State :=
  let r := s.writeUnit n lba data origin flags group groupCount bad
  r.1.setUnits n fun m => m.insert lba r.2

/-- Copy a mapped unit under its ORIGIN and the ACTIVE generation (R315, R319): it is read first, and one that fails
recovery fails in its copy too. A copy is of a unit that the map names, so no group is left to wait for, and it carries none
(log entry 56). -/
def State.copyUnit (s : State) (n lba : Nat) : State :=
  let r := s.readUnit n lba (.hard 0)
  match r.1.mapped n lba with
  | some u => r.1.programUnit n lba u.data (some u.origin) 0 0 0 u.bad
  | none => s

/-- Copy every valid unit that passes a test. -/
def State.copyUnits (s : State) (p : Nat → StoredUnit → Bool) : State :=
  let t := s.store.namespaces.entries.foldl (fun t e =>
    let u := (e.2.units.entries.filter fun x => p e.1 x.2).foldl (fun t x => t.copyUnit e.1 x.1) t
    u.showNs e.1) s
  t.showBlocks

/-- Set the state of a block. -/
def State.setBlock (s : State) (b : Nat) (x : BlockState) : State :=
  s.adjustStore fun st => { st with blocks := st.blocks.adjust b fun y => { y with state := x } }

/-- The score of a block (R315). -/
def State.blockScore (s : State) (b : Nat) (x : Block) : Int :=
  let cap := s.fld Reg.FTL_CAPACITY Fld.FTL_CAPACITY_UNITS
  let w := fun f => (s.fld Reg.FTL_GC_WEIGHTS f : Int)
  let share := fun (a m : Nat) => ((65536 * min a m / m : Nat) : Int)
  let invalid := x.programmed - s.store.validIn b
  w Fld.FTL_GC_WEIGHTS_W_INVALID * ((65536 * invalid / s.store.unitsPerBlock : Nat) : Int) +
    w Fld.FTL_GC_WEIGHTS_W_AGE * share (s.store.nextPseq - 1 - x.lastPseq) cap -
    w Fld.FTL_GC_WEIGHTS_W_ERASE * share x.erases s.store.rated

/-- The victim: the closed block with an invalid unit of highest score; ties take the lowest number. -/
def State.storeVictim (s : State) : Option Nat :=
  let cands := s.store.blocks.entries.filter fun e => e.2.state = .closed && s.store.validIn e.1 < e.2.programmed
  (cands.foldl (fun (best : Option (Nat × Int)) e =>
    let sc := s.blockScore e.1 e.2
    match best with
    | some b => if b.2 < sc then some (e.1, sc) else some b
    | none => some (e.1, sc)) none).map (·.1)

/-- One turn of garbage collection: while free blocks are below 1 %, the victim's valid units are copied, where
there is room for the copies, and the block waits for its erasure. -/
def State.collect (s : State) : State :=
  if s.store.dataBlocks ≤ s.store.freeBlocks * 100 then s.showBlocks else
  match s.storeVictim with
  | none => s.showBlocks
  | some b =>
    if s.store.room < s.store.validIn b then s.showBlocks
    else ((s.copyUnits fun _ u => u.block = b).setBlock b .reclaimed).showBlocks

/-- GARBAGE_COLLECTION (R315). -/
def execGarbageCollection (s : State) : Host.Outcome State Fault Refusal := act (fun s => s.collect) s

/-- Is a read in progress that has mapped a unit in a block? -/
def State.blockRead (s : State) (b : Nat) : Bool := s.store.cmds.vals.any fun c => c.blocks.contains b

/-- Does a block hold a trim or format record, or a unit of an atomic group, that replay from the newest checkpoint still
needs (log entry 56)? -/
def State.recordNeeded (s : State) (b : Nat) : Bool :=
  let done := (s.store.ckpts.head?.map (·.pseq)).getD 0
  s.store.nand.any fun x => x.unit.block = b && (x.names.isSome || natBit x.unit.flags 0) && done < x.unit.pseq

/-- BLOCK_ERASE (R315): the block becomes the last of the free ones, and what it held is gone. -/
def execBlockErase (block : Nat) (s : State) : Host.Outcome State Fault Refusal :=
  act (fun s => match s.store.blocks.find block with
    | some x =>
      if x.state = .reclaimed && !s.blockRead block && !s.recordNeeded block then
        (s.adjustStore fun st =>
          { st with blocks := st.blocks.insert block ⟨.reclaimed, 0, 0, x.erases + 1⟩
                    nand := st.nand.filter fun x => x.unit.block ≠ block
                    freed := st.freed.filter (· ≠ block) ++ [block] }).showBlocks
      else s
    | none => s) s

/-- A block is retired as grown bad: NOW falls by one, and below 10 % of INITIAL SPARE_LOW is set (R316). -/
def State.retireBlock (s : State) (b : Nat) : State :=
  let now := s.fld Reg.FTL_SPARE Fld.FTL_SPARE_NOW
  let initial := s.fld Reg.FTL_SPARE Fld.FTL_SPARE_INITIAL
  let t := (s.setBlock b .bad).adjustStore fun st =>
    { st with freed := st.freed.filter (· ≠ b), health := { st.health with badBlocks := st.health.badBlocks + 1 } }
  let t := t.setFld Reg.FTL_SPARE Fld.FTL_SPARE_NOW (now - 1)
  let t := if (now - 1) * 10 < initial && initial ≤ now * 10 then
      (t.setBit Reg.FTL_EVENT Fld.FTL_EVENT_SPARE_LOW true).raise 8
    else t
  t.showBlocks

/-- PROGRAM_FAILURE (R316): a block that holds data fails to program; its valid units are relocated. -/
def execProgramFailure (block : Nat) (s : State) : Host.Outcome State Fault Refusal :=
  act (fun s => match s.store.blocks.find block with
    | some x =>
      if x.state = .open_ then
        ((s.adjustHealth fun h => { h with programFails := h.programFails + 1 }).retireBlock block).copyUnits fun _ u => u.block = block
      else s
    | none => s) s

/-- ERASE_FAILURE (R316). -/
def execEraseFailure (block : Nat) (s : State) : Host.Outcome State Fault Refusal :=
  act (fun s => match s.store.blocks.find block with
    | some x =>
      if x.state = .reclaimed && !s.store.freed.contains block then
        (s.adjustHealth fun h => { h with eraseFails := h.eraseFails + 1 }).retireBlock block
      else s
    | none => s) s

/-- Can a write reserve its units (R316): spare is left, or reclaiming can free enough beside the units that
started writes hold reserved? -/
def State.canReserve (s : State) (count : Nat) : Bool :=
  let bad := (s.store.blocks.vals.filter fun b => b.state = .bad).length
  let good := (s.store.dataBlocks - bad) * s.store.unitsPerBlock
  let held := s.store.cmds.vals.foldl (fun n c => n + c.fetched.length) 0
  s.fld Reg.FTL_SPARE Fld.FTL_SPARE_NOW ≠ 0 || s.store.validUnits + held + count ≤ good

/-- A write could not reserve its units: its namespace is read-only for good. -/
def State.exhaust (s : State) (n : Nat) : State :=
  ((s.setBit (Reg.FTL_NS_STATE n) Fld.FTL_NS_STATE_READ_ONLY true).setBit Reg.FTL_EVENT Fld.FTL_EVENT_READ_ONLY true).raise 8

/-- Program and map `data`, one entry a unit, from `lba` on: with a group for a WRITE_ATOMIC, whose unit at the
highest LBA carries COMMIT. -/
def State.putUnits (s : State) (n lba : Nat) (data : List Bytes) (group : Option Nat) : State :=
  let k := data.length
  let t := data.zipIdx.foldl (fun t e => match group with
    | some g => t.programUnit n (lba + e.2) e.1 none (if e.2 + 1 = k then unitAtomic + unitCommit else unitAtomic) g k false
    | none => t.programUnit n (lba + e.2) e.1 none 0 0 0 false) s
  (t.showNs n).showBlocks

/-- Store `data` as one command of a namespace: HOST_UNITS counts it, and generations of buffers on the range move on. -/
def State.storeUnits (s : State) (n lba : Nat) (data : List Bytes) (group : Option Nat) : State :=
  ((s.putUnits n lba data group).adjustHealth fun h => { h with hostUnits := h.hostUnits + data.length }).bumpRange n lba data.length

/-- The trim or format record of a range (R305, Table 11-3): NSID 0, the range in its data. -/
def State.rangeRecord (s : State) (n lba count flags : Nat) : State :=
  let pseq := s.store.nextPseq
  let data := leBytes 8 n ++ leBytes 8 lba ++ leBytes 8 count
  s.putNand ⟨0, 0, some (n, lba, count), ⟨data, pseq, pseq, flags, 0, 0, 0, s.store.pickBlock, [], false⟩⟩

/-- Unmap a range, with its record programmed (R305). -/
def State.unmapUnits (s : State) (n lba count flags : Nat) : State :=
  let t := (s.rangeRecord n lba count flags).setUnits n fun m => m.keep fun k _ => !(lba ≤ k && k < lba + count)
  ((t.showNs n).bumpRange n lba count).showBlocks

/-! ### Task register sets (R300 to R307) -/

/-- STATE of a TRS. -/
def State.trsState (s : State) (t : Nat) : Nat := s.fld (Reg.TRS_STATUS t) Fld.TRS_STATUS_STATE

/-- A TRS reaches COMPLETE (R300). -/
def State.trsFinish (s : State) (t code done : Nat) : State :=
  let u := { s with store := { s.store with cmds := s.store.cmds.erase t } }
  let u := u.setReg (Reg.TRS_STATUS t) (putFld Fld.TRS_STATUS_DONE_COUNT
    (putFld Fld.TRS_STATUS_CODE (putFld Fld.TRS_STATUS_STATE 0 trsComplete) code) done)
  let u := u.setReg (Reg.TRS_DONE (t / 32)) (u.reg (Reg.TRS_DONE (t / 32)) ||| BitVec.ofNat 64 (2 ^ (t % 32)))
  if u.bit (Reg.TRS_CTRL t) Fld.TRS_CTRL_IRQ then u.raise (256 + t) else u

/-- Does an opcode modify (R304)? -/
def blkModifies (op : Nat) : Bool := op = blkWrite || op = blkAtomic || op = blkTrim || op = blkFormat

/-- Does an opcode take a range? -/
def blkHasRange (op : Nat) : Bool := op ≠ blkFlush && op ≠ blkFormat

/-- Is COUNT within Table 11-1? -/
def blkCountOk (op count : Nat) : Bool :=
  if op = blkRead || op = blkWrite || op = blkVerify then 1 ≤ count && count ≤ 65536
  else if op = blkAtomic then 1 ≤ count && count ≤ 64
  else if op = blkTrim then 1 ≤ count && count ≤ 0xFFFF_FFFF
  else count = 0

/-- Is a namespace withheld: owned by a confidential hedge, or sealed (R299, R352)? -/
def State.nsWithheld (s : State) (n : Nat) : Bool :=
  s.confidential (s.partition.ownerOf 0x09 n) || (s.ns n).sealed.isSome

/-- The checks of R301, in order; 0 where all pass. -/
def State.trsCheck (s : State) (op nsid lba count addr : Nat) : Nat :=
  if !(1 ≤ op && op ≤ 7) || !blkCountOk op count || addr % 64 ≠ 0 || (!blkHasRange op && lba ≠ 0) ||
      (op ≠ blkRead && op ≠ blkWrite && op ≠ blkAtomic && addr ≠ 0) then ST_TRS_FIELD
  else if !(s.nsPresent nsid || (op = blkFlush && nsid = allNamespaces)) then ST_NS_INVALID
  else if blkHasRange op && s.nsSize nsid < lba + count then ST_TRS_FIELD
  else if nsid ≠ allNamespaces && s.nsWithheld nsid then ST_NS_ACCESS
  else if blkModifies op && s.bit (Reg.FTL_NS_STATE nsid) Fld.FTL_NS_STATE_READ_ONLY then ST_NS_READ_ONLY
  else if s.store.activating then ST_ABORT_ACTIVATE
  else ST_OK

/-- The next submission sequence number is taken (R303). -/
def State.takeSeq (s : State) : State := s.bump Reg.TRS_NEXT_SEQ Fld.TRS_NEXT_SEQ_SEQ

/-- GO on a TRS (R300, R301, R303). -/
def State.trsGo (s : State) (t : Nat) : State :=
  if s.bit Reg.TRS_RESET Fld.TRS_RESET_BUSY || s.trsState t = trsPending || s.trsState t = trsStarted then s else
  let op := (s.reg (Reg.TRS_OPCODE t)).toNat
  let nsid := s.fld (Reg.TRS_NSID t) Fld.TRS_NSID_NSID
  let lba := s.fld (Reg.TRS_LBA t) Fld.TRS_LBA_LBA
  let count := s.fld (Reg.TRS_COUNT t) Fld.TRS_COUNT_COUNT
  let addr := (s.reg (Reg.TRS_HOST_ADDR t)).toNat
  let code := s.trsCheck op nsid lba count addr
  if code ≠ ST_OK then (s.setReg (Reg.TRS_SEQ t) 0).trsFinish t code 0
  else
    let seq := s.reg Reg.TRS_NEXT_SEQ
    let c : TrsCmd := ⟨op, nsid, lba, count, addr, seq.toNat, [], 0, [], [], [], none, none⟩
    let u := (s.setReg (Reg.TRS_SEQ t) seq).setReg (Reg.TRS_STATUS t) (putFld Fld.TRS_STATUS_STATE 0 trsPending)
    { u.takeSeq with store := { u.takeSeq.store with cmds := u.takeSeq.store.cmds.insert t c } }

/-- A GO row: GO is written while TRS_OPCODE holds the row's opcode. -/
def trsGoRow (set : Fin 256) (op : Nat) (s : State) : Host.Outcome State Fault Refusal :=
  hostAct (Reg.TRS_CTRL set)
    (fun s => if s.fld (Reg.TRS_OPCODE set) Fld.TRS_OPCODE_OPCODE = op then s.trsGo set else s) s

/-- TRS_READ (R302). -/
def execTrsRead (set : Fin 256) (s : State) : Host.Outcome State Fault Refusal := trsGoRow set blkRead s

/-- TRS_WRITE (R302). -/
def execTrsWrite (set : Fin 256) (s : State) : Host.Outcome State Fault Refusal := trsGoRow set blkWrite s

/-- TRS_WRITE_ATOMIC (R306). -/
def execTrsWriteAtomic (set : Fin 256) (s : State) : Host.Outcome State Fault Refusal := trsGoRow set blkAtomic s

/-- TRS_FLUSH (R307). -/
def execTrsFlush (set : Fin 256) (s : State) : Host.Outcome State Fault Refusal := trsGoRow set blkFlush s

/-- TRS_TRIM (R302). -/
def execTrsTrim (set : Fin 256) (s : State) : Host.Outcome State Fault Refusal := trsGoRow set blkTrim s

/-- TRS_VERIFY (R302). -/
def execTrsVerify (set : Fin 256) (s : State) : Host.Outcome State Fault Refusal := trsGoRow set blkVerify s

/-- TRS_FORMAT (R302). -/
def execTrsFormat (set : Fin 256) (s : State) : Host.Outcome State Fault Refusal := trsGoRow set blkFormat s

/-- Do two commands overlap (R304)? -/
def TrsCmd.overlaps (a b : TrsCmd) : Bool :=
  a.nsid = b.nsid && a.opcode ≠ blkFlush && b.opcode ≠ blkFlush &&
    (a.opcode = blkFormat || b.opcode = blkFormat || (a.lba < b.lba + b.count && b.lba < a.lba + a.count))

/-- Does an outstanding command of lower SEQ stand before a command under R304 or R306? -/
def State.trsBlocked (s : State) (c : TrsCmd) : Bool :=
  s.store.cmds.vals.any fun d => d.seq < c.seq && d.overlaps c && (blkModifies d.opcode || blkModifies c.opcode)

/-- Does a FLUSH still wait (R307)? -/
def State.flushWaits (s : State) (c : TrsCmd) : Bool :=
  s.store.cmds.vals.any fun d =>
    d.seq < c.seq && blkModifies d.opcode && (c.nsid = allNamespaces || c.nsid = d.nsid)

/-- Change the command of a TRS. -/
def State.adjustCmd (s : State) (t : Nat) (f : TrsCmd → TrsCmd) : State :=
  s.adjustStore fun st => { st with cmds := st.cmds.adjust t f }

/-- STATE becomes STARTED. -/
def State.trsStart (s : State) (t : Nat) : State := s.setFld (Reg.TRS_STATUS t) Fld.TRS_STATUS_STATE trsStarted

/-- Mapped units of a command's range. -/
def State.unitsOf (s : State) (c : TrsCmd) : List (Nat × StoredUnit) :=
  (s.ns c.nsid).units.entries.filter fun e => c.lba ≤ e.1 && e.1 < c.lba + c.count

/-- A PENDING command starts (R303): reads, TRIM and FORMAT once nothing stands before them; a write at any time,
reserving its units (R316). A WRITE_ATOMIC takes the next group (R306). -/
def State.trsBegin (s : State) (t : Nat) (c : TrsCmd) : State :=
  if c.opcode = blkWrite || c.opcode = blkAtomic then
    if !s.canReserve c.count then (s.exhaust c.nsid).trsFinish t ST_MEDIUM_EXHAUSTED 0
    else
      let data := chunksOf unitBytes c.count (s.readMem .host c.addr (unitBytes * c.count))
      if c.opcode = blkAtomic then
        ((s.adjustCmd t fun c => { c with fetched := data, group := s.store.nextGroup }).adjustStore fun st =>
          { st with nextGroup := st.nextGroup + 1 }).trsStart t
      else (s.adjustCmd t fun c => { c with fetched := data }).trsStart t
  else if c.opcode = blkFlush || s.trsBlocked c then s
  else if c.opcode = blkRead || c.opcode = blkVerify then
    let us := s.unitsOf c
    (s.adjustCmd t fun c => { c with blocks := us.map (·.2.block), gens := us.map (·.2.keyGen) }).trsStart t
  else s.trsStart t

/-- TRS_COMMAND_START (R303). -/
def execTrsCommandStart (set : Fin 256) (s : State) : Host.Outcome State Fault Refusal :=
  act (fun s => match s.store.cmds.find set with
    | some c => if s.trsState set = trsPending then s.trsBegin set c else s
    | none => s) s

/-- The read of one unit of a READ or VERIFY ends (R310); nothing ends on a channel that a paused unit stalls (R269). -/
def State.nandRead (s : State) (t unit : Nat) (c : TrsCmd) (u : StoredUnit) (outcome : NandOutcome) : State :=
  if s.nandStalled u.block c.nsid false then s else
  let r := s.readUnit c.nsid (c.lba + unit) outcome
  r.1.adjustCmd t fun c =>
    { c with seen := unit :: c.seen
             failed := if r.2 then c.failed else some (min unit (c.failed.getD unit)) }

/-- NAND_READ_DONE (R310): of a unit that a started READ or VERIFY waits for. -/
def execNandReadDone (set : Fin 256) (unit : Nat) (outcome : NandOutcome) (s : State) : Host.Outcome State Fault Refusal :=
  act (fun s => match s.store.cmds.find set with
    | some c =>
      match s.mapped c.nsid (c.lba + unit) with
      | some u =>
        if s.trsState set = trsStarted && (c.opcode = blkRead || c.opcode = blkVerify) && unit < c.count &&
            !c.seen.contains unit then s.nandRead set unit c u outcome
        else s
      | none => s
    | none => s) s

/-- Are all units of a read below `n` there? -/
def State.unitsSeen (s : State) (c : TrsCmd) (n : Nat) : Bool :=
  (s.unitsOf c).all fun e => n ≤ e.1 - c.lba || c.seen.contains (e.1 - c.lba)

/-- Blocks that the next `n` units may be programmed into. -/
def Store.blocksFor (st : Store) (n : Nat) : List Nat :=
  st.pickBlock :: (st.allowed.getD (st.freeOrder (n / st.unitsPerBlock + 1))).take (n / st.unitsPerBlock + 1)

/-- Does a write of `n` units meet a channel that a paused unit stalls (R269)? -/
def State.writeStalled (s : State) (ns n : Nat) : Bool := (s.store.blocksFor n).any fun b => s.nandStalled b ns true

/-- A command reaches COMPLETE, where R304 to R307 let it (R305). A write waits while there is no room before the
next erasure or checkpoint (R313, R315), and while its channel is stalled. -/
def State.trsEnd (s : State) (t : Nat) (c : TrsCmd) : State :=
  if c.opcode = blkFlush then
    if s.flushWaits c then s else s.trsFinish t ST_OK 0
  else if s.trsState t ≠ trsStarted || s.trsBlocked c then s
  else if c.opcode = blkRead || c.opcode = blkVerify then
    let n := c.failed.getD c.count
    if !s.unitsSeen c n then s
    else
      let u := if c.opcode = blkRead then s.writeMem .host c.addr (s.unitsData c.nsid c.lba n) else s
      u.trsFinish t (if c.failed.isSome then ST_MEDIUM_UNREADABLE else ST_OK) n
  else if c.opcode = blkWrite || c.opcode = blkAtomic then
    let (n, code) := c.cut.getD (c.count, ST_OK)
    if s.store.room < n || s.writeStalled c.nsid n then s
    else (s.storeUnits c.nsid c.lba (c.fetched.take n) (if c.opcode = blkAtomic then some c.group else none)).trsFinish t code n
  else if s.store.room < 1 then s
  else if c.opcode = blkTrim then (s.unmapUnits c.nsid c.lba c.count unitTrimRec).trsFinish t ST_OK c.count
  else (s.unmapUnits c.nsid 0 (s.nsSize c.nsid) unitFormatRec).trsFinish t ST_OK 0

/-- TRS_COMMAND_COMPLETE (R305). -/
def execTrsCommandComplete (set : Fin 256) (s : State) : Host.Outcome State Fault Refusal :=
  act (fun s => match s.store.cmds.find set with
    | some c => s.trsEnd set c
    | none => s) s

/-- A host-bus error meets a transfer (R311): `units` leading units of a READ reached the host, or of a WRITE were
fetched whole. -/
def State.trsBus (s : State) (t units : Nat) (c : TrsCmd) : State :=
  let n := min units c.count
  if c.opcode = blkRead then
    ((s.writeMem .host c.addr (s.unitsData c.nsid c.lba n)).writeFree .host (c.addr + unitBytes * n)
      (unitBytes * (c.count - n))).trsFinish t ST_TRS_BUS n
  else if c.opcode = blkWrite then s.adjustCmd t fun c => { c with cut := c.cut.or (some (n, ST_TRS_BUS)) }
  else if c.opcode = blkAtomic then s.trsFinish t ST_TRS_BUS 0
  else s

/-- TRS_BUS_ERROR (R311). -/
def execTrsBusError (set : Fin 256) (units : Nat) (s : State) : Host.Outcome State Fault Refusal :=
  act (fun s => match s.store.cmds.find set with
    | some c => if s.trsState set = trsStarted then s.trsBus set units c else s
    | none => s) s

/-! ### Resets (R308, Table 11-2, Table 11-4) -/

/-- One command meets a controller reset. How far a started READ came, and how many units a started WRITE had
fetched, are free values. -/
def State.resetCmd (s : State) (t : Nat) (c : TrsCmd) : State :=
  if s.trsState t = trsPending then s.trsFinish t ST_ABORT_RESET 0
  else if c.opcode = blkRead then
    let n := s.freeValue % (c.count + 1)
    (s.drew.writeFree .host c.addr (unitBytes * c.count)).trsFinish t ST_ABORT_RESET n
  else if c.opcode = blkVerify then s.drew.trsFinish t ST_ABORT_RESET (s.freeValue % (c.count + 1))
  else if c.opcode = blkWrite then
    let n := s.freeValue % (c.count + 1)
    s.drew.adjustCmd t fun c => { c with cut := c.cut.or (some (n, ST_ABORT_RESET)) }
  else s

/-- A controller reset begins (R308). -/
def State.controllerReset (s : State) : State :=
  if s.bit Reg.TRS_RESET Fld.TRS_RESET_BUSY then s
  else s.store.cmds.entries.foldl (fun t e => t.resetCmd e.1 e.2) (s.setBit Reg.TRS_RESET Fld.TRS_RESET_BUSY true)

/-- CONTROLLER_RESET (R308). -/
def execControllerReset (s : State) : Host.Outcome State Fault Refusal :=
  hostAct Reg.TRS_RESET (fun s => s.controllerReset) s

/-- CONTROLLER_RESET_DONE (R308): once every command that the reset lets finish has finished. -/
def execControllerResetDone (s : State) : Host.Outcome State Fault Refusal :=
  act (fun s =>
    if s.bit Reg.TRS_RESET Fld.TRS_RESET_BUSY && s.store.cmds.entries.isEmpty then
      (s.setBit Reg.TRS_RESET Fld.TRS_RESET_BUSY false).raise 8
    else s) s

/-- The commands in SEQ order. -/
def State.cmdsInOrder (s : State) : List (Nat × TrsCmd) :=
  s.store.cmds.entries.foldl (fun l e => l.takeWhile (fun x => x.2.seq < e.2.seq) ++ e :: l.dropWhile fun x => x.2.seq < e.2.seq) []

/-- Units of a WRITE_ATOMIC that power loss cut short, programmed without COMMIT: the map never names them (R306). -/
def State.uncommitted (s : State) (c : TrsCmd) (n : Nat) : State :=
  (c.fetched.take n).zipIdx.foldl (fun t e =>
    (t.writeUnit c.nsid (c.lba + e.2) e.1 none unitAtomic c.group c.count false).1) s

/-- What a command that power loss cuts short leaves (Table 11-4): each unit that a started WRITE had fetched is old or
new, a started TRIM or FORMAT is applied whole or not at all, as free values decide; a WRITE_ATOMIC leaves all old, with
some of its units on NAND. -/
def State.lossCmd (s : State) (t : Nat) (c : TrsCmd) : State :=
  if s.trsState t ≠ trsStarted then s
  else if c.opcode = blkWrite then
    (c.fetched.take ((c.cut.map (·.1)).getD c.count)).zipIdx.foldl (fun u e =>
      if u.freeValue % 2 = 1 && 1 ≤ u.store.room then u.drew.storeUnits c.nsid (c.lba + e.2) [e.1] none else u.drew) s
  else if c.opcode = blkAtomic then
    let n := s.freeValue % c.count
    if n ≤ s.store.room then s.drew.uncommitted c n else s.drew
  else if c.opcode = blkTrim then
    if s.freeValue % 2 = 1 then s.drew.unmapUnits c.nsid c.lba c.count unitTrimRec else s.drew
  else if c.opcode = blkFormat then
    if s.freeValue % 2 = 1 then s.drew.unmapUnits c.nsid 0 (s.nsSize c.nsid) unitFormatRec else s.drew
  else s

/-- Every sweep ends (R319). -/
def State.endSweeps (s : State) : State :=
  s.store.sweeps.keys.foldl (fun t n =>
    [0, 1, 2, 3].foldl (fun t k => t.setBit (Reg.FTL_NS_KEY n k) Fld.FTL_NS_KEY_SWEEP false) t)
    (s.adjustStore fun st => { st with sweeps := Tab.empty })

/-- The block store as after a power loss, every TRS IDLE with its registers at their reset values (R374). -/
def State.storeLoss (s : State) : State :=
  let t := (s.cmdsInOrder.foldl (fun t e => t.lossCmd e.1 e.2) s).endSweeps
  let seq := t.reg Reg.TRS_NEXT_SEQ
  let t := t.adjustStore fun st => { st with cmds := Tab.empty, taking := none, activating := false }
  ((t.clearRegs (Reg.TRS_OPCODE 0) (Reg.TRS_DONE 8)).setReg Reg.TRS_NEXT_SEQ seq).setBit Reg.FTL_STATE
    Fld.FTL_STATE_CKPT_BUSY false

/-- Quiescing for a firmware activation (R308): no GO is accepted, and every PENDING command ends. -/
def State.quiesceStore (s : State) : State :=
  let t := s.adjustStore fun st => { st with activating := true }
  t.store.cmds.entries.foldl (fun t e => if t.trsState e.1 = trsPending then t.trsFinish e.1 ST_ABORT_ACTIVATE 0 else t) t

/-! ### Checkpoints (R313) -/

/-- Segments of 1,024 entries in which two maps differ: namespace and segment. -/
def changedSegments (old new : Tab (Tab StoredUnit)) : List (Nat × Nat) :=
  let entries := fun (m : Tab (Tab StoredUnit)) => m.entries.flatMap fun n => n.2.entries.map fun e => (n.1, e.1, e.2.pseq)
  let lacks := fun (m : Tab (Tab StoredUnit)) (e : Nat × Nat × Nat) =>
    ((m.find e.1).bind fun u => u.find e.2.1).map (·.pseq) ≠ some e.2.2
  (((entries new).filter (lacks old) ++ (entries old).filter (lacks new)).map fun e => (e.1, e.2.1 / 1024)).eraseDups

/-- What a checkpoint taken now holds (R313). -/
def Store.checkpoint (st : Store) : Checkpoint :=
  let map := st.namespaces.mapVals fun _ x => x.units
  { pseq := st.nextPseq - 1, group := st.nextGroup, map := map
    changed := changedSegments ((st.ckpts.head?.map (·.map)).getD Tab.empty) map
    openBlocks := (st.blocks.entries.filter fun e => e.2.state = .open_).map (·.1)
    freeBlocks := st.freeOrder 4096 }

/-- A checkpoint begins at the PSEQ reached. -/
def State.startCheckpoint (s : State) : State :=
  (s.adjustStore fun st => { st with taking := some st.checkpoint, sinceCkpt := 0 }).setBit Reg.FTL_STATE
    Fld.FTL_STATE_CKPT_BUSY true

/-- Is a data block free? -/
def Store.isFree (st : Store) (b : Nat) : Bool := (st.fresh ≤ b && b < st.dataBlocks) || st.freed.contains b

/-- Data blocks are allocated only from the list of a complete checkpoint from now on (R313). -/
def Store.allow (st : Store) (c : Checkpoint) : Store := { st with allowed := some (c.freeBlocks.filter st.isFree) }

/-- The closing record is programmed: the checkpoint is complete, and the ring keeps the one before it (log entry 56). How
many units a checkpoint takes is not stated: a free value. -/
def State.endCheckpoint (s : State) (c : Checkpoint) : State :=
  let n := 1 + s.freeValue
  let t := s.drew.adjustStore fun st =>
    { st with taking := none, ckpts := (c :: st.ckpts).take 2, nextPseq := st.nextPseq + n
              health := { st.health with nandUnits := st.health.nandUnits + n } }
  ((t.adjustStore fun st => st.allow c).setReg Reg.FTL_CKPT_PSEQ (BitVec.ofNat 64 c.pseq)).setBit Reg.FTL_STATE
    Fld.FTL_STATE_CKPT_BUSY false

/-- CHECKPOINT_START (R313): at least one unit was written since the last one. -/
def execCheckpointStart (s : State) : Host.Outcome State Fault Refusal :=
  act (fun s => if s.store.sinceCkpt = 0 || s.store.taking.isSome then s else s.startCheckpoint) s

/-- CHECKPOINT_DONE (R313). -/
def execCheckpointDone (s : State) : Host.Outcome State Fault Refusal :=
  act (fun s => match s.store.taking with
    | some c => s.endCheckpoint c
    | none => s) s

/-! ### Replay (R314) -/

/-- The units that replay reads after a checkpoint, in the order of PSEQ: those above its PSEQ in the blocks that it names;
where the ring never held a checkpoint, every unit. -/
def Store.replayUnits (st : Store) (c : Option Checkpoint) : List NandUnit :=
  match c with
  | none => st.nand
  | some c => st.nand.filter fun x => c.pseq < x.unit.pseq && (c.openBlocks ++ c.freeBlocks).contains x.unit.block

/-- Is a unit that replay read applied (step 6): it is of no group, or its group's COMMIT unit and all its units are there? -/
def groupWhole (units : List NandUnit) (x : NandUnit) : Bool :=
  let mates := units.filter fun y => natBit y.unit.flags 0 && y.unit.group = x.unit.group && y.nsid = x.nsid
  !natBit x.unit.flags 0 ||
    (mates.any (fun y => natBit y.unit.flags 1) && (mates.map (·.lba)).eraseDups.length = x.unit.groupCount)

/-- Does a trim or format record among the units unmap an entry (step 5)? -/
def unmapped (units : List NandUnit) (n lba origin : Nat) : Bool :=
  units.any fun x => match x.names with
    | some (m, first, count) => m = n && first ≤ lba && lba < first + count && origin < x.unit.origin
    | none => false

/-- The map that replay rebuilds on a checkpoint (R314, steps 2 to 6). An entry of the checkpoint whose unit is on NAND no
more fails read recovery (log entry 56). -/
def Store.replay (st : Store) (c : Option Checkpoint) : Tab (Tab StoredUnit) :=
  let units := st.replayUnits c
  let base := (c.map (·.map)).getD Tab.empty
  let base := base.mapVals fun n m => m.mapVals fun lba u =>
    if st.nand.any fun x => x.unit.pseq = u.pseq && x.nsid = n && x.lba = lba then u else { u with bad := true }
  let won := (units.filter fun x => x.names.isNone && groupWhole units x).foldl (fun (m : Tab (Tab StoredUnit)) x =>
    let old := (m.find x.nsid).getD Tab.empty
    if (old.find x.lba).all fun u => u.origin ≤ x.unit.origin then m.insert x.nsid (old.insert x.lba x.unit) else m) base
  won.mapVals fun n m => m.keep fun lba u => !unmapped units n lba u.origin

/-- Replay on the newest checkpoint but `failed`, whose closing CRC is not valid. -/
def State.replayStore (s : State) (failed : Nat) : State :=
  let st := s.store
  let left := st.ckpts.drop failed
  let c := left.head?
  let map := st.replay c
  let found := (st.replayUnits c).foldl (fun g x => max g x.unit.group) 0
  let t := s.adjustStore fun st =>
    let st := { st with
      ckpts := left, taking := none
      namespaces := st.namespaces.mapVals fun n x => { x with units := (map.find n).getD Tab.empty }
      nextGroup := max ((c.map fun (k : Checkpoint) => k.group).getD 1) (found + 1) }
    match c with
    | some c => st.allow c
    | none => { st with allowed := none }
  let t := t.store.namespaces.keys.foldl (fun t n => t.showNs n) t
  (t.setReg Reg.FTL_CKPT_PSEQ (BitVec.ofNat 64 ((c.map (·.pseq)).getD 0))).showBlocks

/-! ### Health (R317) -/

/-- A percentage of Table 11-5, saturating; of nothing, which is not stated, a free value. -/
def percentOf (free a b : Nat) : Nat := if b = 0 then free % 256 else min 255 (100 * a / b)

/-- An entry of the temperature history: an hour without a reading is not recorded. -/
def tempEntry (e : Option (Int × Int × Int)) : Bytes :=
  match e with
  | some (a, b, c) => [BitVec.ofInt 8 a, BitVec.ofInt 8 b, BitVec.ofInt 8 c, 1]
  | none => [0, 0, 0, 0]

/-- The health log of Table 11-5. -/
def State.healthLog (s : State) : Bytes :=
  let h := s.store.health
  let erases := s.store.blocks.vals.foldl (fun n b => n + b.erases) 0
  let worst := s.store.blocks.vals.foldl (fun n b => max n b.erases) 0
  let pct := fun i a b => BitVec.ofNat 8 (percentOf (Config.freeBits (s.free + i)) a b)
  leBytes 4 0x544C4848 ++ leBytes 2 1 ++
    [pct 0 (s.fld Reg.FTL_SPARE Fld.FTL_SPARE_NOW) (s.fld Reg.FTL_SPARE Fld.FTL_SPARE_INITIAL),
      pct 1 erases (s.store.dataBlocks * s.store.rated), pct 2 worst s.store.rated] ++ leBytes 7 0 ++
    leBytes 8 h.uncorrectable ++ leBytes 8 h.programFails ++ leBytes 8 h.eraseFails ++ leBytes 8 h.badBlocks ++
    leBytes 8 h.hostUnits ++ leBytes 8 h.nandUnits ++
    (List.range 16).flatMap (fun k => leBytes 8 ((h.corrected.find k).getD 0)) ++ leBytes 8 h.hours ++
    List.replicate 56 0 ++ (List.range 168).flatMap fun i => tempEntry (h.temps.getD i none)

/-- The live values are copied into the window (R317). -/
def State.healthSnap (s : State) : State :=
  { (s.adjustStore fun st => { st with window := s.healthLog }) with free := s.free + 3 }

/-- HEALTH_SNAPSHOT (R317). -/
def execHealthSnapshot (s : State) : Host.Outcome State Fault Refusal :=
  hostAct Reg.FTL_HEALTH_SNAP (fun s => s.healthSnap) s

/-- A sum of `n` temperatures in hundredths of °C, in whole °C as an s8 holds them: its mean, rounded up or down. -/
def wholeDegrees (up : Bool) (n : Nat) (sum : Int) : Int :=
  let d : Int := 100 * n
  max (-128) (min 127 (if up then -(-sum / d) else sum / d))

/-- MAX, MEAN and MIN of the readings of an hour; none without a reading. Table 11-5 does not say how they come to whole
degrees: each operand says whether that one is rounded up (log entry 56). -/
def hourOf (max_ mean min_ : Bool) : List Int → Option (Int × Int × Int)
  | [] => none
  | x :: xs =>
    some (wholeDegrees max_ 1 (xs.foldl max x), wholeDegrees mean (xs.length + 1) (xs.foldl (· + ·) x), wholeDegrees min_ 1 (xs.foldl min x))

/-- A whole hour ends: its readings become an entry of the history. -/
def Health.endHour (max_ mean min_ : Bool) (h : Health) : Health :=
  { h with
    hours := if h.readings.isEmpty then h.hours else h.hours + 1
    temps := (hourOf max_ mean min_ h.readings :: h.temps).take 168, readings := [] }

/-- A reading of the hottest site, the first of a second: `second` counts from 1 (log entry 56). -/
def Health.read (h : Health) (second : Nat) (hottest : Int) : Health :=
  if h.lastRead = second then h else { h with readings := hottest :: h.readings, lastRead := second }

/-- TEMPERATURE_HOUR (R317). -/
def execTemperatureHour (max mean min : Bool) (s : State) : Host.Outcome State Fault Refusal :=
  act (fun s => s.adjustHealth (Health.endHour max mean min)) s

/-! ### Keys (R318, R319) -/

/-- Does a unit name a RETIRING generation of its namespace? -/
def State.retiring (s : State) (n : Nat) (u : StoredUnit) : Bool :=
  (s.keySlots n).any fun k => k.2.2 = keyRetiring && k.2.1 = u.keyGen

/-- A sweep has copied every unit of the RETIRING generations. -/
def State.sweepDone (s : State) (n : Nat) : State :=
  let t := s.copyUnits fun m u => m = n && s.retiring n u
  let t := [0, 1, 2, 3].foldl (fun t k => t.setBit (Reg.FTL_NS_KEY n k) Fld.FTL_NS_KEY_SWEEP false) t
  ((t.adjustStore fun st => { st with sweeps := st.sweeps.erase n }).setBit Reg.FTL_EVENT Fld.FTL_EVENT_SWEEP_DONE true).raise 8

/-- SWEEP_DONE (R319). -/
def execSweepDone (nsid : Nat) (s : State) : Host.Outcome State Fault Refusal :=
  act (fun s => if (s.store.sweeps.find nsid).isSome then s.sweepDone nsid else s) s

/-! ### Weights and owners -/

/-- The weights in force follow the image of hedge 0 (R315): the STORE table with GC set of lowest STAGE_ID. -/
def State.settleWeights (s : State) : State :=
  let tables : List (Nat × Bytes) := match s.images.find 0 with
    | some im => (im.stages.filter fun (st : Stage) => st.kind = kindStore && natBit (fieldAt (im.table st.table) 1 1) 0).map
        fun (st : Stage) => (st.id, im.table st.table)
    | none => []
  let best := tables.foldl (fun (b : Option (Nat × Bytes)) e => match b with
    | some x => if e.1 < x.1 then some e else some x
    | none => some e) none
  match best with
  | none => s.clearReg Reg.FTL_GC_WEIGHTS
  | some (_, t) =>
    s.setReg Reg.FTL_GC_WEIGHTS (BitVec.ofNat 64 (fieldAt t 2 2 + fieldAt t 4 2 * 2 ^ 16 + fieldAt t 6 2 * 2 ^ 32 + 2 ^ 48))

/-- Namespaces that exist. -/
def State.nsList (s : State) : List Nat := ((List.range 64).map (· + 1)).filter s.nsPresent

/-- FTL_NS_STATE shows the owner, and a namespace of a confidential hedge is sealed to its owner key (R352). -/
def State.settleOwners (s : State) : State :=
  s.nsList.foldl (fun t n =>
    let h := t.partition.ownerOf 0x09 n
    let t := t.setFld (Reg.FTL_NS_STATE n) Fld.FTL_NS_STATE_HEDGE h
    match t.security.owners.find h, (t.ns n).sealed with
    | some key, none =>
      if t.confidential h then
        t.adjustStore fun st => { st with namespaces := st.namespaces.insert n { t.ns n with sealed := some (sha256 key) } }
      else t
    | _, _ => t) s

end Sys2Proof.Machine
end

