-- ==== Sys2Proof/Machine/TableRules.lean ====
section
/-! DEFINITION. The rules that a table's contents keep (step 8 of Table 2-8, R45): each answers the offset within
the table of the first faulty field. -/

namespace Sys2Proof.Machine

/-- A field of a structure with the least and the greatest value it may hold. -/
structure FieldRule where
  off : Nat
  size : Nat
  lo : Nat
  hi : Nat
deriving DecidableEq, Repr

/-- A field of `n` bytes with a range. -/
def fr (off n lo hi : Nat) : FieldRule := ⟨off, n, lo, hi⟩

/-- A field of `n` bytes that may hold anything. -/
def anyField (off n : Nat) : FieldRule := ⟨off, n, 0, 256 ^ n - 1⟩

/-- A RsvdZ field of `n` bytes. -/
def rz (off n : Nat) : FieldRule := ⟨off, n, 0, 0⟩

/-- A field whose values go from `lo` to `hi`, or that names nothing. -/
def FieldRule.broken (r : FieldRule) (b : Bytes) (base : Nat) : Bool :=
  b.length < base + r.off + r.size || fieldAt b (base + r.off) r.size < r.lo || r.hi < fieldAt b (base + r.off) r.size

/-- Offset of the first field of a structure at `base` that breaks its range. -/
def firstBroken (b : Bytes) (base : Nat) (rs : List FieldRule) : Option Nat :=
  (rs.find? fun r => r.broken b base).map fun r => base + r.off

/-- A fault at an offset. -/
def badIf (c : Bool) (off : Nat) : Option Nat := if c then some off else none

/-- The first fault that a list of things shows. -/
def firstFault {α : Type} (l : List α) (f : α → Option Nat) : Option Nat := l.findSome? f

/-- Index or none: below a limit, or 0xFFFF_FFFF. -/
def belowOrNone (v lim : Nat) : Bool := v < lim || v = noIndex

/-- What the rules ask of the image that holds a table, and of the device. -/
structure TableWorld where
  claims : List Claim
  tables : List ImageTable
  /-- SIZE of each namespace that exists. -/
  namespaces : List (Nat × Nat)
  /-- V of the vocabularies that MASK stages name, and those tables' indices. -/
  maskVs : List Nat
  maskTables : List Nat
deriving DecidableEq, Repr

/-- Does a claim name resource `i` of a type, with a PARAM where one is asked? -/
def claimed (cs : List Claim) (rtype i : Nat) (param : Option Nat := none) : Bool :=
  cs.any fun c => c.rtype = rtype && c.index ≤ i && i < c.index + c.count && (param.isNone || param = some c.param)

/-- Is an index in CLAIMS that of a DRAM range? -/
def isDramClaim (cs : List Claim) (i : Nat) : Bool := ((cs[i]?).map fun c => c.rtype == 0x08).getD false

/-! ### Tables of one stage -/

/-- Order table (R167, R117). -/
def orderBad (w : TableWorld) (b : Bytes) : Option Nat :=
  let live : Bool := fieldAt b 0x14 1 ≠ 0xFF
  firstBroken b 0 [fr 0 1 0 2, fr 1 1 0 2, fr 2 2 0 11, fr 4 4 1 (2 ^ 24), fr 8 4 1 (2 ^ 20), fr 0xC 4 100 10000000,
    anyField 0x10 4, anyField 0x14 1, fr 0x15 1 0 64, rz 0x16 42] <|>
  badIf (live && (fieldAt b 0 1 ≠ 0 || !claimed w.claims 0x01 (fieldAt b 0x14 1) (some 0x03))) 0x14 <|>
  badIf (if live then fieldAt b 0x15 1 < 2 else fieldAt b 0x15 1 ≠ 0) 0x15

/-- Pack table (R168, R188). -/
def packBad (w : TableWorld) (b : Bytes) : Option Nat :=
  let tensor : Bool := fieldAt b 0 1 = 1
  let batch := fieldAt b 4 4
  let slot := fieldAt b 8 4
  let seq := fieldAt b 0xC 4
  let per := if tensor then slot else seq * 4 * (if natBit (fieldAt b 2 2) 0 then 3 else 2)
  firstBroken b 0 [fr 0 1 1 2, fr 1 1 0 1, fr 2 2 0 1, fr 4 4 1 (2 ^ 20), fr 8 4 0 (2 ^ 30), fr 0xC 4 0 (2 ^ 20),
    anyField 0x10 4, fr 0x14 4 1 (2 ^ 20), anyField 0x18 4, fr 0x1C 2 1 16384, anyField 0x1E 2, rz 0x20 32] <|>
  badIf (tensor && fieldAt b 1 1 ≠ 0) 1 <|>
  badIf (!tensor && 65536 < batch) 4 <|>
  badIf (if tensor then slot < 64 || slot % 64 ≠ 0 else slot ≠ 0) 8 <|>
  badIf (if tensor then seq ≠ 0 else seq = 0) 0xC <|>
  badIf (tensor && fieldAt b 0x14 4 ≠ batch) 0x14 <|>
  badIf (!isDramClaim w.claims (fieldAt b 0x18 4)) 0x18 <|>
  badIf (2 ^ 30 < roundUp (batch * per) 64 + 128 + 16 * fieldAt b 0x14 4) 4

/-- STORE table (R321). -/
def storeBad (w : TableWorld) (b : Bytes) : Option Nat :=
  let n := fieldAt b 0 1
  let size := (w.namespaces.find? fun x => x.1 = n).map (·.2)
  firstBroken b 0 [fr 0 1 1 64, fr 1 1 0 1, anyField 2 2, anyField 4 2, anyField 6 2, anyField 8 8, anyField 0x10 8,
    rz 0x18 8] <|>
  badIf (!claimed w.claims 0x09 n) 0 <|>
  (match size with
  | none => some 0
  | some z => badIf (fieldAt b 0x10 8 = 0 || z < fieldAt b 8 8 + fieldAt b 0x10 8) 0x10)

/-- CRYPT table (R125). -/
def cryptBad (b : Bytes) : Option Nat :=
  firstBroken b 0 [fr 0 1 0 1, rz 1 3, anyField 4 4, anyField 8 4, rz 0xC 4] <|>
  badIf (fieldAt b 0 1 = 0 && fieldAt b 4 4 ≠ 0) 4

/-- Keys by which a dictionary is found: its Adler-32, and the Dictionary_ID that a Zstandard dictionary declares (after
its magic number, RFC 8878, log entry 16). -/
def dictKeys (b : Bytes) : List (Bool × Nat) :=
  (false, adler32 b) :: if fieldAt b 0 4 = 0xEC30A437 then [(true, fieldAt b 4 4)] else []

/-- Do two dictionaries of a list share a key (R126)? -/
def dictsClash : List Bytes → Bool
  | [] => false
  | d :: t => (t.any fun e => (dictKeys d).any fun k => (dictKeys e).contains k) || dictsClash t

/-- DECOMPRESS table (R126). -/
def decompressBad (w : TableWorld) (b : Bytes) : Option Nat :=
  let first := fieldAt b 8 4
  let n := fieldAt b 0xC 1
  firstBroken b 0 [fr 0 4 1 (2 ^ 30), anyField 4 4, anyField 8 4, fr 0xC 1 0 64, rz 0xD 3] <|>
  badIf (n = 0 && first ≠ noIndex && w.tables.length ≤ first) 8 <|>
  badIf (dictsClash ((List.range n).map fun i => ((w.tables[first + i]?).map (·.body)).getD [])) 8

/-- DECODE table (R127). -/
def decodeBad (b : Bytes) : Option Nat :=
  firstBroken b 0 [fr 0 1 1 5, fr 1 1 0 15, fr 2 2 0 256, anyField 4 4, fr 8 4 1 65536, fr 0xC 4 1 65536,
    fr 0x10 4 0 1000000, anyField 0x14 4, anyField 0x18 8, anyField 0x20 8, rz 0x28 24]

/-- RESAMPLE table (R128). -/
def resampleBad (b : Bytes) : Option Nat :=
  let fl := fieldAt b 0 2
  firstBroken b 0 [fr 0 2 0 1023] <|>
  badIf (natField fl 1 2 = 3 || natField fl 3 2 = 3) 0 <|>
  firstBroken b 0 [fr 2 1 0 3, fr 3 1 0 4] <|>
  badIf (natBit fl 7 != (2 ≤ fieldAt b 3 1 : Bool)) 3 <|>
  firstBroken b 0 [fr 4 2 1 65535, fr 6 2 1 65535, fr 8 1 1 3] <|>
  badIf (fieldAt b 8 1 = 2) 8 <|>
  firstBroken b 0 [rz 9 1, anyField 0xA 8, anyField 0x12 2] <|>
  badIf (fieldAt b 0x14 2 < fieldAt b 0x12 2) 0x14 <|>
  firstBroken b 0 [rz 0x16 2, anyField 0x18 24, rz 0x30 16]

/-- PARSE text table (R161). -/
def parseBad (b : Bytes) : Option Nat :=
  firstBroken b 0 [fr 0 1 0 15, fr 1 1 0 2, fr 2 1 0 15, rz 3 1, anyField 4 4, anyField 8 4, rz 0xC 4] <|>
  badIf ((fieldAt b 1 1 = 0 : Bool) != (fieldAt b 4 4 = noIndex : Bool)) 4 <|>
  badIf (b.length ≠ 16) 0

/-- TOKENIZE or DETOKENIZE table (R162); the marks are checked with the stage. -/
def tokenizeBad (b : Bytes) : Option Nat := firstBroken b 0 [anyField 0 4, fr 4 1 0 7, rz 5 11]

/-- MASK table (R163). -/
def maskTableBad (b : Bytes) : Option Nat :=
  firstBroken b 0 [anyField 0 4, fr 4 2 1 16384, fr 6 1 0 7, rz 7 1, anyField 8 2, anyField 0xA 2, anyField 0xC 4, rz 0x10 16]

/-- COMPRESS table (R290). -/
def compressBad (b : Bytes) : Option Nat := firstBroken b 0 [fr 0 1 9 16, fr 1 1 12 16, fr 2 1 0 1, rz 3 5]

/-- Elements of the weight layout of R91. -/
def modelParams (b : Bytes) : Nat :=
  let h := fieldAt b 4 2
  let ffn := fieldAt b 6 2
  let norm := if fieldAt b 3 1 = 0 then 2 * h else h
  let layer := 2 * norm + 4 * (h * h + h) + (h * ffn + ffn) + (ffn * h + h)
  fieldAt b 0x10 4 * h + (if fieldAt b 0xB 1 = 0 then fieldAt b 8 2 * h else 0) + fieldAt b 0 1 * layer + norm +
    (h + 1) * fieldAt b 0xE 2

/-- Model description (R90, R91). -/
def modelBad (w : TableWorld) (b : Bytes) : Option Nat :=
  firstBroken b 0 [fr 0 1 1 48, fr 1 1 1 32, fr 2 1 64 128, fr 3 1 0 1, fr 4 2 64 2048, fr 6 2 1 8192, fr 8 2 1 2048,
    fr 0xA 1 0 2, fr 0xB 1 0 1, fr 0xC 1 0 2, fr 0xD 1 0 1, fr 0xE 2 1 2048, fr 0x10 4 1 4194304, fr 0x14 4 0 400000000,
    fr 0x18 1 1 64, rz 0x19 7, anyField 0x20 8, anyField 0x28 8, anyField 0x30 32, anyField 0x50 1, fr 0x51 1 0 1,
    rz 0x52 2, anyField 0x54 4, anyField 0x58 4, anyField 0x5C 4, rz 0x60 32] <|>
  badIf ((fieldAt b 2 1 ≠ 64 && fieldAt b 2 1 ≠ 128) || fieldAt b 1 1 * fieldAt b 2 1 ≠ fieldAt b 4 2) 2 <|>
  badIf (fieldAt b 0xC 1 = 2 && fieldAt b 0xD 1 ≠ 0) 0xD <|>
  badIf (fieldAt b 0xC 1 = 2 && 16 < fieldAt b 0xE 2) 0xE <|>
  badIf (fieldAt b 0x14 4 ≠ modelParams b) 0x14 <|>
  badIf (!claimed w.claims 0x09 (fieldAt b 0x18 1)) 0x18 <|>
  badIf (fieldAt b 0xB 1 = 0 && fieldAt b 0x58 4 ≠ 0) 0x58

/-! ### Tables that stages name in turn -/

/-- Bytes of a routing key that its KEY_KIND uses. -/
def keyUsed : Nat → Nat
  | 1 => 16
  | 2 => 1
  | 3 => 6
  | _ => 2

/-- Text of a TAR suffix key: ASCII, at least one byte, zero-padded. -/
def suffixKeyOk (k : Bytes) : Bool :=
  let t := k.takeWhile (· ≠ 0)
  !t.isEmpty && t.all (fun c => c.toNat < 128) && (k.drop t.length).all (· = 0)

/-- Routing table (R124). -/
def routingBad (b : Bytes) : Option Nat :=
  let n := fieldAt b 0 2
  firstBroken b 0 [fr 0 2 1 64, rz 2 14] <|>
  badIf (b.length < 16 + 32 * n) 0 <|>
  firstFault (List.range n) fun i =>
    let o := 16 + 32 * i
    let key := sliceAt b (o + 4) 16
    firstBroken b o [fr 0 1 1 4, fr 1 1 0 7, fr 2 1 0 1, rz 3 1] <|>
    badIf (if fieldAt b o 1 = 1 then !suffixKeyOk key else !(key.drop (keyUsed (fieldAt b o 1))).all (· = 0)) (o + 4) <|>
    firstBroken b o [rz 0x14 12]

/-- Class table (R161). -/
def classesBad (b : Bytes) : Option Nat :=
  let a := b.toArray
  let n := u32At a 0
  firstBroken b 0 [fr 0 4 0 1048576, rz 4 4] <|>
  badIf (b.length ≠ 40 + 12 * n) 0 <|>
  firstFault (List.range n) fun i =>
    let o := 40 + 12 * i
    let first := u32At a o
    let last := u32At a (o + 4)
    badIf (0x10FFFF < first || (0 < i && first ≤ u32At a (o - 8))) o <|>
    badIf (last < first || 0x10FFFF < last) (o + 4) <|>
    badIf (15 < (a.getD (o + 8) 0).toNat) (o + 8) <|>
    badIf (u32At a (o + 8) / 256 ≠ 0) (o + 9)

/-- Character data (R135). -/
def chardataBad (b : Bytes) : Option Nat :=
  let body := b.drop 64
  let digest := sha256 body
  firstBroken b 0 [fr 0 4 0x54444348 0x54444348, fr 4 2 1 1, fr 6 2 0x0F01 0x0F01, anyField 8 4] <|>
  badIf (b.length ≠ 64 + fieldAt b 8 4) 8 <|>
  firstBroken b 0 [rz 0xC 4] <|>
  badIf (digest ≠ sliceAt b 0x10 32 || digest ≠ Config.chardataDigest) 0x10 <|>
  firstBroken b 0 [rz 0x30 16]

/-- Is a code point a Unicode scalar value? -/
def isScalarValue (c : Nat) : Bool := c ≤ 0x10FFFF && !(0xD800 ≤ c && c ≤ 0xDFFF)

/-- Stop set (R164). -/
def stopSetBad (b : Bytes) : Option Nat :=
  let n := fieldAt b 0 4
  firstBroken b 0 [fr 0 4 1 16, rz 4 4] <|>
  badIf (b.length < 8 + 260 * n) 0 <|>
  firstFault (List.range n) fun i =>
    let o := 8 + 260 * i
    let len := fieldAt b o 4
    firstBroken b o [fr 0 4 1 64] <|>
    firstFault (List.range 64) fun j =>
      let c := fieldAt b (o + 4 + 4 * j) 4
      badIf (if j < len then !isScalarValue c else c ≠ 0) (o + 4 + 4 * j)

/-- Region list in a DECODE stage's table (Table 4-8). -/
def regionsBad (b : Bytes) : Option Nat :=
  firstBroken b 0 [anyField 0 12, fr 0xC 2 0 64, rz 0xE 2] <|> badIf (b.length < 16 + 8 * fieldAt b 0xC 2) 0xC

/-- Vocabulary (R137 to R139), in the order of R139. -/
def vocabBad (b : Bytes) (masked : Bool) : Option Nat :=
  let a := b.toArray
  let v := vocabOf b
  let n := a.size
  let nodeOff := u32At a 0x28
  let scoreOff := u32At a 0x2C
  let strOff := u32At a 0x30
  let poolOff := u32At a 0x34
  let str := fun k => u32At a (strOff + 4 * k)
  firstBroken b 0 [fr 0 4 0x434F5648 0x434F5648, fr 4 2 1 1, fr 6 2 0 3, fr 8 4 1 4194304, fr 0xC 4 1 (2 ^ 28)] <|>
  badIf (!v.byteEdges && v.size ≤ v.unkId) 0x10 <|>
  badIf (!belowOrNone v.bosId v.size) 0x18 <|>
  badIf (!belowOrNone v.eosId v.size) 0x1C <|>
  firstBroken b 0 [fr 0x24 2 1 255, rz 0x26 2, rz 0x38 8] <|>
  badIf (n < nodeOff + 12 * v.nodes) 0x28 <|>
  badIf (n < scoreOff + 4 * v.size) 0x2C <|>
  badIf (n < strOff + 4 * (v.size + 1)) 0x30 <|>
  badIf (n < poolOff) 0x34 <|>
  firstFault (List.range (v.size + 1)) (fun k =>
    badIf ((k = 0 && str 0 ≠ 0) || (0 < k && str k < str (k - 1)) || (k = v.size && n < poolOff + str k)) (strOff + 4 * k)) <|>
  firstFault (List.range v.size) (fun k => badIf (v.maxLen < str (k + 1) - str k) (strOff + 4 * k)) <|>
  firstFault (List.range v.nodes) (fun k => badIf (!belowOrNone (v.tokenAt k) v.size) (nodeOff + 12 * k + 8)) <|>
  (if v.byteEdges then
    badIf (v.size ≤ v.byteBase + 255) 0x20 <|>
    firstFault (List.range 256) (fun i => badIf (v.string (v.byteBase + i) ≠ [BitVec.ofNat 8 i]) (strOff + 4 * (v.byteBase + i)))
  else none) <|>
  badIf (masked && 262144 < v.size) 8

/-- Do two arrays share a byte? -/
def arraysMeet (x y : Nat × Nat) : Bool := 0 < x.2 && 0 < y.2 && x.1 < y.1 + y.2 && y.1 < x.1 + x.2

/-- A fault in the transitions of a state: out of BYTE order, or two that a byte cannot choose between (R396). -/
def transOrderBad (a : Array Byte) (toff first count : Nat) : Option Nat :=
  firstFault (List.range count) fun i =>
    let o := toff + 8 * (first + i)
    let byte := fun o => (a.getD o 0).toNat
    badIf ((0 < i && byte o < byte (o - 8)) ||
      (List.range i).any fun j =>
        let p := toff + 8 * (first + j)
        byte p = byte o && (if byte (o + 1) = 2 then byte (p + 1) = 2 && u16At a (p + 2) = u16At a (o + 2)
          else byte (p + 1) ≠ 2)) o

/-- Window contents of a pair. -/
def pairWindow (a : Array Byte) (o : Nat) : List Nat := [0, 1, 2, 3].map fun j => u16At a (o + 2 * j)

/-- Strictly before in the order of lists of numbers. -/
def listBefore : List Nat → List Nat → Bool
  | [], [] => false
  | [], _ :: _ => true
  | _ :: _, [] => false
  | x :: s, y :: t => x < y || (x = y && listBefore s t)

/-- A symbol of a pair that is neither below SYMBOLS nor the bottom marker, whether or not a state names the pair. -/
def symbolsBad (a : Array Byte) (poff symbols pairs : Nat) : Option Nat :=
  firstFault (List.range pairs) fun k =>
    firstFault (List.range 4) fun j =>
      let x := u16At a (poff + 16 * k + 2 * j)
      badIf (x ≠ 0xFFFF && decide (symbols ≤ x)) (poff + 16 * k + 2 * j)

/-- A fault in the pairs of a state. -/
def pairsBad (a : Array Byte) (poff ranges window first count : Nat) : Option Nat :=
  firstFault (List.range count) fun i =>
    let o := poff + 16 * (first + i)
    let w := pairWindow a o
    firstFault (List.range 4) (fun j =>
      let x := w.getD j 0
      badIf (x ≠ 0xFFFF && (window ≤ j || (w.take j).any (· = 0xFFFF))) (o + 2 * j)) <|>
    badIf (0 < i && !listBefore (pairWindow a (o - 16)) w) o <|>
    badIf (ranges < u32At a (o + 8) + u32At a (o + 12)) (o + 8)

/-- Grammar automaton (R396), the checks in the order in which the rule lists them. -/
def grammarBad (w : TableWorld) (b : Bytes) : Option Nat :=
  let a := b.toArray
  let states := u32At a 8
  let symbols := u16At a 0xC
  let trans := u32At a 0x14
  let pairs := u32At a 0x18
  let ranges := u32At a 0x1C
  let long := u32At a 0x20
  let soff := u32At a 0x24
  let toff := u32At a 0x28
  let poff := u32At a 0x2C
  let roff := u32At a 0x30
  let loff := u32At a 0x34
  let arrays := [(soff, 32 * states), (toff, 8 * trans), (poff, 16 * pairs), (roff, 8 * ranges), (loff, 4 * long)]
  let byte := fun o => (a.getD o 0).toNat
  let eachState := fun (f : Nat → Option Nat) => firstFault (List.range states) fun q => f (soff + 32 * q)
  firstBroken b 0 [fr 0 4 0x4D524748 0x4D524748, fr 4 2 1 1, fr 6 2 0 1, fr 8 4 1 65536, fr 0xC 2 1 4096,
    fr 0xE 2 0 (states - 1), fr 0x10 4 1 262144, anyField 0x14 4, fr 0x18 4 0 (2 ^ 20), anyField 0x1C 28, rz 0x38 8] <|>
  firstFault (List.range 5) (fun i =>
    let x := arrays.getD i (0, 0)
    badIf (a.size < x.1 + x.2 || (arrays.take i).any (arraysMeet x)) (0x24 + 4 * i)) <|>
  eachState (fun o =>
    badIf (4 < byte o) o <|> badIf (1 < byte (o + 1)) (o + 1) <|> badIf (u16At a (o + 2) ≠ 0) (o + 2) <|>
    badIf (trans < u32At a (o + 8) + u32At a (o + 12)) (o + 8) <|>
    badIf (pairs < u32At a (o + 16) + u32At a (o + 20)) (o + 16) <|>
    badIf (long < u32At a (o + 24) + u32At a (o + 28)) (o + 24)) <|>
  firstFault (List.range trans) (fun k =>
    let o := toff + 8 * k
    badIf (2 < byte (o + 1)) (o + 1) <|>
    badIf (symbols ≤ u16At a (o + 2) || (byte (o + 1) = 0 && u16At a (o + 2) ≠ 0)) (o + 2) <|>
    badIf (states ≤ u16At a (o + 4)) (o + 4) <|> badIf (u16At a (o + 6) ≠ 0) (o + 6)) <|>
  eachState (fun o => transOrderBad a toff (u32At a (o + 8)) (u32At a (o + 12))) <|>
  symbolsBad a poff symbols pairs <|>
  eachState (fun o => pairsBad a poff ranges (byte o) (u32At a (o + 16)) (u32At a (o + 20))) <|>
  firstFault (List.range ranges) (fun k =>
    let o := roff + 8 * k
    badIf (u32At a (o + 4) < u32At a o) o <|> badIf (u32At a 0x10 ≤ u32At a (o + 4)) (o + 4)) <|>
  firstFault (List.range pairs) (fun k =>
    let o := poff + 16 * k
    firstFault (List.range (u32At a (o + 12))) fun i =>
      let r := roff + 8 * (u32At a (o + 8) + i)
      badIf (0 < i && u32At a r ≤ u32At a (r - 4) + 1) r) <|>
  firstFault (List.range long) (fun k => badIf (u32At a 0x10 ≤ u32At a (loff + 4 * k)) (loff + 4 * k)) <|>
  eachState (fun o =>
    firstFault (List.range (u32At a (o + 28))) fun i =>
      let r := loff + 4 * (u32At a (o + 24) + i)
      badIf (0 < i && u32At a r ≤ u32At a (r - 4)) r) <|>
  badIf (!w.maskVs.isEmpty && !w.maskVs.contains (u32At a 0x10)) 0x10

/-- Pool configuration (R260); its placement is checked with the claims. -/
def poolBad (b : Bytes) : Option Nat :=
  let n := fieldAt b 2 2
  let buffers := fieldAt b 8 4
  let entries := (List.range n).map fun i => 32 + 8 * i
  let urgent := entries.foldl (fun t o => if fieldAt b (o + 2) 1 = 0 then t + fieldAt b (o + 4) 4 else t) 0
  firstBroken b 0 [fr 0 1 0 1, rz 1 1, fr 2 2 1 256, fr 4 4 64 (2 ^ 28), fr 8 4 1 (2 ^ 26), anyField 0xC 4, rz 0x10 16] <|>
  badIf (fieldAt b 4 4 % 64 ≠ 0) 4 <|>
  badIf (b.length < 32 + 8 * n) 2 <|>
  firstFault entries (fun o => firstBroken b o [anyField 0 2, fr 2 1 0 3, rz 3 1, fr 4 4 1 buffers]) <|>
  badIf (buffers / 16 < urgent) 32

/-- Transport table (R236). -/
def transportBad (w : TableWorld) (b : Bytes) : Option Nat :=
  badIf (b.length = 0 || b.length % 32 ≠ 0) 0 <|>
  firstFault (List.range (b.length / 32)) fun i =>
    let o := 32 * i
    let list := fieldAt b (o + 0xC) 4
    let ctx := fieldAt b o 2
    firstBroken b o [anyField 0 2, fr 2 1 0 1, fr 3 1 0 7, anyField 4 4, fr 8 1 10 22, fr 9 1 0 7, fr 0xA 2 0 4096,
      anyField 0xC 4, anyField 0x10 4, rz 0x14 12] <|>
    badIf (!claimed w.claims 0x07 ctx || (List.range i).any fun j => fieldAt b (32 * j) 2 = ctx) o <|>
    badIf (if list = noIndex then fieldAt b (o + 0xA) 2 ≠ 0
      else ((w.tables[list]?).map (·.body.length)).getD 0 ≠ 16 * fieldAt b (o + 0xA) 2) (o + 0xA) <|>
    badIf (!isDramClaim w.claims (fieldAt b (o + 0x10) 4)) (o + 0x10)

/-- Buffer list (R236). -/
def bufferListBad (w : TableWorld) (b : Bytes) : Option Nat :=
  firstFault (List.range (b.length / 16)) fun i =>
    let o := 16 * i
    let arg := fieldAt b (o + 8) 8
    let size := (w.namespaces.find? fun x => x.1 = natField arg 0 8).map (·.2)
    firstBroken b o [anyField 0 4, fr 4 1 1 5, fr 5 1 0 7, anyField 6 2] <|>
    badIf (fieldAt b (o + 4) 1 = 5 &&
      (natField arg 40 24 = 0 || match size with
        | none => true
        | some z => z < natField arg 8 32 + natField arg 40 24)) (o + 8)

/-- The first fault in the contents of table `i` (R45, step 8). -/
def tableBad (w : TableWorld) (i : Nat) (t : ImageTable) : Option Nat :=
  let b := t.body
  match t.kind with
  | 0x01 => orderBad w b
  | 0x02 => packBad w b
  | 0x03 => storeBad w b
  | 0x04 => vocabBad b (w.maskTables.contains i)
  | 0x05 => stopSetBad b
  | 0x06 => grammarBad w b
  | 0x07 => poolBad b
  | 0x08 => transportBad w b
  | 0x09 => bufferListBad w b
  | 0x0A => modelBad w b
  | 0x0B => routingBad b
  | 0x0C => cryptBad b
  | 0x0D => decompressBad w b
  | 0x0E => decodeBad b
  | 0x0F => resampleBad b
  | 0x10 => parseBad b
  | 0x11 => classesBad b
  | 0x12 => chardataBad b
  | 0x13 => tokenizeBad b
  | 0x14 => maskTableBad b
  | 0x15 => compressBad b
  | 0x17 => regionsBad b
  | _ => none

end Sys2Proof.Machine
end

