-- ==== Sys2Proof/Machine/LoadChecks.lean ====
section
/-! DEFINITION. The checks of Table 2-8 on an image, each step in the order of its rules (R54). -/

namespace Sys2Proof.Machine

/-- Codes of the loader. -/
def ENL_ERR_FORMAT : Nat := 1
def ENL_ERR_DCLASS : Nat := 2
def ENL_ERR_STATE : Nat := 3
def ENL_ERR_HEDGE : Nat := 4
def ENL_ERR_SIGNATURE : Nat := 5
def ENL_ERR_GRAPH : Nat := 6
def ENL_ERR_PROGRAM : Nat := 7
def ENL_ERR_LIMIT : Nat := 8
def ENL_ERR_HEDGE_BOUNDS : Nat := 9
def ENL_ERR_KENNELS : Nat := 10
def ENL_ERR_CLAIM : Nat := 11
def ENL_ERR_BUSY : Nat := 12

/-- OWNER where no hedge answers. -/
def ownerNone : Nat := 0xFF

/-- An error that refers to no image (R54). -/
def plainError (code : Nat) : LoadError := ⟨code, 0, 0, ownerNone, 0⟩

/-- What the checks read of an image. -/
structure LoadView where
  img : Bytes
  dirs : List DirEntry
  stages : List Stage
  edges : List Edge
  claims : List Claim
  tables : List ImageTable
deriving DecidableEq, Repr

/-- The view of an image. -/
def loadView (img : Bytes) : LoadView :=
  ⟨img, dirEntries img, stagesOf img, edgesOf img, claimsOf img, tablesOf img⟩

/-- The type of the section in which an offset lies; 0 for the header and the directory. -/
def LoadView.sectionAt (v : LoadView) (off : Nat) : Nat :=
  if off < 0x40 + 16 * v.dirs.length then 0 else
  ((v.dirs.find? fun d => d.offset ≤ off && off < d.offset + d.length).map (·.type)).getD 0

/-- A fault at an offset of the image (R54). -/
def LoadView.fault (v : LoadView) (code : Nat) (off : Option Nat) : Option LoadError :=
  off.map fun o => ⟨code, v.sectionAt o, 0, ownerNone, o⟩

/-- A field of the image. -/
def LoadView.at_ (v : LoadView) (o n : Nat) : Nat := fieldAt v.img o n

/-- LOAD_MODE and HEDGE of the header. -/
def LoadView.mode (v : LoadView) : Nat := v.at_ 0x14 1
def LoadView.hedge (v : LoadView) : Nat := v.at_ 0x15 1

/-- The directory entry of a section. -/
def LoadView.dir (v : LoadView) (type : Nat) : Option DirEntry := v.dirs.find? fun d => d.type = type

/-- Contents of the table that a stage names. -/
def LoadView.stageBody (v : LoadView) (st : Stage) : Bytes := ((v.tables[st.table]?).map (·.body)).getD []

/-- Kind of a table; 0 where there is none. -/
def LoadView.tableKind (v : LoadView) (i : Nat) : Nat := ((v.tables[i]?).map (·.kind)).getD 0

/-- Offset within the image of the directory entry of a table (R45). -/
def LoadView.tableEntry (v : LoadView) (i : Nat) : Nat := sectionStart v.img 4 + 16 + 16 * i

/-- Stages in ascending STAGE_ID. -/
def LoadView.byId (v : LoadView) : List Stage :=
  v.stages.mergeSort fun a b => a.id ≤ b.id

/-! ### Steps 1 and 2 -/

/-- Step 1. -/
def step1 (v : LoadView) (len : Nat) : Option Nat :=
  badIf (v.at_ 0 4 ≠ 0x4C414E45) 0 <|> badIf (v.at_ 4 2 ≠ 1) 4 <|>
  badIf (v.at_ 8 8 ≠ len || 2 ^ 30 < v.at_ 8 8) 8

/-- Do two byte ranges meet? -/
def spansMeet (a n b m : Nat) : Bool := a < b + m && b < a + n

/-- The directory (R32, R33). -/
def directoryBad (v : LoadView) : Option Nat :=
  firstFault v.dirs.zipIdx fun (x : DirEntry × Nat) =>
    let e := x.1
    let before := v.dirs.take x.2
    firstBroken v.img e.at_ [fr 0 2 1 7, fr 2 2 1 1, anyField 4 4, anyField 8 8] <|>
    badIf (before.any fun d => d.type = e.type) e.at_ <|>
    badIf (e.offset % 64 ≠ 0 || e.offset < 0x40 + 16 * v.dirs.length || v.img.length < e.offset + e.length) (e.at_ + 8) <|>
    badIf (before.any fun d => spansMeet d.offset d.length e.offset e.length) e.at_

/-- Does any stage bind kennels? -/
def LoadView.bindsKennels (v : LoadView) : Bool := v.stages.any fun st => st.kennels ≠ 0

/-- The first required section that is missing, in the order of Table 2-3. -/
def missingSection (v : LoadView) : Option Nat :=
  ([(1, true), (2, true), (3, (v.dir 2).isSome && v.bindsKennels), (5, v.mode == 0), (6, true)].find?
    fun (e : Nat × Bool) => e.2 && (v.dir e.1).isNone).map (·.1)

/-- The TABLES directory (R45). -/
def tablesDirBad (v : LoadView) : Option Nat :=
  match v.dir 4 with
  | none => none
  | some d =>
    let n := v.at_ d.offset 4
    let entry := fun i => d.offset + 16 + 16 * i
    badIf (d.length < 16) d.offset <|>
    firstBroken v.img d.offset [fr 0 4 0 65536, rz 4 12] <|>
    badIf (d.length < 16 + 16 * n) d.offset <|>
    firstFault (List.range n) fun i =>
      let o := entry i
      let a := v.at_ o 8
      let len := v.at_ (o + 8) 4
      firstBroken v.img o [anyField 0 8, anyField 8 4, fr 0xC 2 1 0x18, rz 0xE 2] <|>
      badIf (a % 64 ≠ 0 || d.length < a + len || spansMeet 0 (16 + 16 * n) a len ||
        (List.range i).any fun j => spansMeet (v.at_ (entry j) 8) (v.at_ (entry j + 8) 4) a len) o

/-- INDEX range of Table 2-7 as first index and end; DRAM ends with addressable memory. -/
def claimRange (dramMib rtype : Nat) : Nat × Nat :=
  match rtype with
  | 0x01 => (0, 16)
  | 0x02 => (0, 8)
  | 0x03 => (0, 1)
  | 0x04 => (0, 64)
  | 0x07 => (0, 65536)
  | 0x08 => (0, dramMib)
  | 0x09 => (1, 65)
  | 0x0A => (0, 5)
  | 0x0B => (0, 16)
  | 0x0C => (0, 64)
  | _ => (0, 0)

/-- Does a claim lie in its range? COUNT of an engine share or of the kennels is no range of indices. -/
def Claim.inRange (c : Claim) (dramMib : Nat) : Bool :=
  if c.rtype = 0x05 then 1 ≤ c.index && c.index ≤ 10
  else if c.rtype = 0x06 then c.index = 0
  else (claimRange dramMib c.rtype).1 ≤ c.index && c.index + c.count ≤ (claimRange dramMib c.rtype).2

/-- Does Table 2-7 give a type's PARAM a meaning? -/
def claimTakesParam (rtype : Nat) : Bool := rtype = 0x01 || rtype = 0x02 || rtype = 0x04 || rtype = 0x0A

/-- Is the form of a claim entry one that R38 accepts? -/
def Claim.formOk (c : Claim) (v : LoadView) (dramMib : Nat) : Bool :=
  1 ≤ c.rtype && c.rtype ≤ 0x0C && (c.mode = if c.rtype = 0x03 then 1 else 0) && c.count ≠ 0 &&
  v.at_ (c.at_ + 2) 2 = 0 && c.inRange dramMib && (claimTakesParam c.rtype || c.param = 0)

/-- The CLAIMS section. -/
def claimsBad (v : LoadView) (dramMib : Nat) : Option Nat :=
  ((v.dir 1).bind fun d => badIf (d.length % 16 ≠ 0 || 16 * 4096 < d.length) (d.at_ + 4)) <|>
  firstFault v.claims fun (c : Claim) => badIf (!c.formOk v dramMib) c.at_

/-- Step 2. -/
def step2 (v : LoadView) (dramMib : Nat) : Option LoadError :=
  let bad := v.fault ENL_ERR_FORMAT
  bad (firstBroken v.img 0 [fr 0 4 0x4C414E45 0x4C414E45, fr 4 2 1 1, fr 6 2 3 7, anyField 8 8, anyField 0x10 4,
    fr 0x14 1 0 1, fr 0x15 1 0 15, fr 0x16 2 0 1, rz 0x18 40]) <|>
  bad (directoryBad v) <|>
  ((missingSection v).map fun t => ⟨ENL_ERR_FORMAT, t, 0, ownerNone, 6⟩) <|>
  bad ((v.dir 5).bind fun d => badIf (v.mode = 1) d.at_) <|>
  bad ((v.dir 7).bind fun d => badIf (v.dirs.any fun e => d.offset < e.offset) (d.at_ + 8)) <|>
  bad (tablesDirBad v) <|>
  bad (claimsBad v dramMib)

/-! ### Steps 3 to 5 -/

/-- Step 4: the request against the header, then R50. A whole-device image whose HEDGE is not 0 fails here, at HEDGE: Table
2-1 forbids it and no check of Table 2-8 names it (DESIGN CHOICE, log entry 51). -/
def step4 (v : LoadView) (s : State) (op hedge : Nat) : Option LoadError :=
  let held := (s.images.find v.hedge).isSome
  v.fault ENL_ERR_HEDGE (badIf (op ≠ v.mode) 0x14) <|>
  v.fault ENL_ERR_HEDGE (badIf (hedge ≠ v.hedge || (v.mode = 0 && v.hedge ≠ 0)) 0x15) <|>
  v.fault ENL_ERR_STATE (badIf (v.mode = 0 && !s.images.entries.isEmpty) 0x14) <|>
  v.fault ENL_ERR_HEDGE (badIf (v.mode = 1 && (!s.partition.exists_ v.hedge || held)) 0x15)

/-- The bytes that the image digest covers (R34). -/
def digestedBytes (img : Bytes) : Bytes :=
  match sectionOf img 7 with
  | some (o, _) => img.take o
  | none => img

/-- The image digest. -/
def imageDigest (img : Bytes) : Bytes := sha256 (digestedBytes img)

/-- Step 5 (R352): an image of a confidential hedge is signed by the hedge's owner key. -/
def step5 (v : LoadView) (s : State) : Option LoadError :=
  if s.confidential v.hedge then
    match v.dir 7, s.security.owners.find v.hedge with
    | none, _ => some ⟨ENL_ERR_SIGNATURE, 7, 0, ownerNone, 6⟩
    | some d, none => some ⟨ENL_ERR_SIGNATURE, 7, 0, ownerNone, d.offset⟩
    | some d, some key =>
      if d.length = 96 && ecdsaVerify key (imageDigest v.img) ((v.img.drop d.offset).take 96) then none
      else some ⟨ENL_ERR_SIGNATURE, 7, 0, ownerNone, d.offset⟩
  else none

/-! ### Step 6: the graph -/

/-- What a kind may bind (Table 2-5): kennels, engine classes, nothing. -/
def kindBinds (kind : Nat) : Bool × List Nat × Bool :=
  match kind with
  | 0x01 => (false, [0x09], false)
  | 0x02 => (false, [0x01], false)
  | 0x03 => (true, [0x02], false)
  | 0x05 => (true, [0x04, 0x05], false)
  | 0x06 => (true, [0x06], false)
  | 0x07 => (false, [0x07], false)
  | 0x0B => (false, [], true)
  | 0x0C => (true, [0x0A], false)
  | 0x0E => (false, [0x08], false)
  | 0x0F => (false, [], true)
  | 0x10 => (false, [0x03], false)
  | _ => (true, [], false)

/-- The lowest field of a stage entry that breaks R35, Table 2-4 or the multiples of GROUP. -/
def bindingBad (st : Stage) : Option Nat :=
  let o := st.at_
  let b := kindBinds st.kind
  badIf (st.kennels % st.group ≠ 0 || (st.kennels ≠ 0 && !b.1)) (o + 4) <|>
  badIf (st.reserve % st.group ≠ 0) (o + 6) <|>
  if st.kennels ≠ 0 then
    badIf (st.minKennels = 0 || st.kennels < st.minKennels) (o + 8) <|>
    badIf (st.program = noIndex) (o + 0xC) <|>
    badIf (st.engineClass ≠ 0) (o + 0x10) <|> badIf (st.engines ≠ 0) (o + 0x12)
  else
    badIf (st.minKennels ≠ 0) (o + 8) <|>
    badIf (st.program ≠ noIndex) (o + 0xC) <|>
    if b.2.2 then badIf (st.engineClass ≠ 0) (o + 0x10) <|> badIf (st.engines ≠ 0) (o + 0x12)
    else badIf (!b.2.1.contains st.engineClass) (o + 0x10) <|> badIf (st.engines = 0) (o + 0x12)

/-- Layout and ranges of the GRAPH section (R36). GROUP is at least 1 in an engine stage too, whose GROUP has no range in the
spec (DESIGN CHOICE, log entry 51). -/
def graphFormBad (v : LoadView) : Option Nat :=
  (v.dir 2).bind fun d =>
    let g := d.offset
    badIf (d.length < 16) g <|>
    firstBroken v.img g [fr 0 2 1 256, fr 2 2 0 1024, rz 4 12] <|>
    badIf (d.length ≠ 16 + 32 * v.at_ g 2 + 8 * v.at_ (g + 2) 2) (d.at_ + 4) <|>
    (firstFault v.stages.zipIdx fun (x : Stage × Nat) =>
      let st := x.1
      firstBroken v.img st.at_ [fr 0 2 0 255, fr 2 1 1 0x10, fr 3 1 0 1, anyField 4 6, fr 0xA 2 1 65535, anyField 0xC 4,
        fr 0x10 1 0 10, rz 0x11 1, anyField 0x12 6, rz 0x18 8] <|>
      badIf ((v.stages.take x.2).any fun y => y.id = st.id) st.at_ <|>
      bindingBad st) <|>
    (firstFault v.edges fun (e : Edge) =>
      let has := fun id => v.stages.any fun st => st.id = id
      badIf (!has e.fromStage) e.at_ <|> badIf (7 < e.fromPort) (e.at_ + 2) <|>
      badIf (!has e.toStage) (e.at_ + 4) <|> badIf (7 < e.toPort) (e.at_ + 6))

/-- Stages that a set of stages reaches in one edge, added to the set. -/
def reachStep (edges : List Edge) (through : Nat → Bool) (set : List Nat) : List Nat :=
  edges.foldl (fun acc (e : Edge) =>
    if acc.contains e.fromStage && through e.fromStage && !acc.contains e.toStage then acc ++ [e.toStage] else acc) set

/-- Stages that a stage reaches, leaving stages only where `through` lets a path go on; `n` bounds the rounds. -/
def reach (edges : List Edge) (through : Nat → Bool) : (n : Nat) → List Nat → List Nat
  | 0, set => set
  | n + 1, set =>
    let t := reachStep edges through set
    if t.length = set.length then set else reach edges through n t

/-- The lowest edge on a cycle. -/
def cycleBad (v : LoadView) : Option Nat :=
  firstFault v.edges fun (e : Edge) =>
    badIf ((reach v.edges (fun _ => true) 256 [e.toStage]).contains e.fromStage) e.at_

/-- A stage without input or without output. -/
def endsBad (v : LoadView) : Option Nat :=
  firstFault v.stages fun (st : Stage) =>
    let fed := v.edges.any fun e => e.toStage = st.id
    let feeds := v.edges.any fun e => e.fromStage = st.id
    badIf ((!fed && st.kind ≠ kindSource) || (!feeds && st.kind ≠ kindDeliver && st.kind ≠ kindStore)) st.at_

/-- A reference to a table of a kind. -/
def LoadView.refBad (v : LoadView) (i kind off : Nat) (optional : Bool := true) : Option Nat :=
  badIf (!(optional && i = noIndex) && v.tableKind i ≠ kind) off

/-- TABLE of each stage kind (Table 2-13): none for a stage that takes no table. -/
def stageTableKind : Nat → Option Nat
  | 0x01 => some 0x01
  | 0x02 => some 0x0C
  | 0x03 => some 0x0D
  | 0x05 => some 0x0E
  | 0x06 => some 0x0F
  | 0x07 => some 0x13
  | 0x08 => some 0x0A
  | 0x09 => some 0x0A
  | 0x0A => some 0x02
  | 0x0D => some 0x13
  | 0x0E => some 0x14
  | 0x0F => some 0x03
  | 0x10 => some 0x15
  | _ => none

/-- PROGRAM_COUNT. -/
def LoadView.programCount (v : LoadView) : Nat := ((v.dir 3).map fun d => v.at_ d.offset 4).getD 0

/-- Indices of a stage entry (R45). A PROGRAM at or above PROGRAM_COUNT fails here and not at step 7, which the spec leaves
open (DESIGN CHOICE, log entry 51). A PARSE stage takes a text table, program data or none: which of its programs
is lib.text_prep no field of the image says. -/
def stageRefsBad (v : LoadView) : Option Nat :=
  firstFault v.byId fun (st : Stage) =>
    badIf (st.program ≠ noIndex && v.programCount ≤ st.program) (st.at_ + 0xC) <|>
    if st.kind = kindParse then
      badIf (st.table ≠ noIndex && v.tableKind st.table ≠ 0x10 && v.tableKind st.table ≠ 0x18) (st.at_ + 0x14)
    else match stageTableKind st.kind with
      | some k => v.refBad st.table k (st.at_ + 0x14) false
      | none => badIf (st.table ≠ noIndex) (st.at_ + 0x14)

/-- Indices that a table holds: offset, kind, may it name nothing. -/
def tableRefs : Nat → List (Nat × Nat × Bool)
  | 0x01 => [(0x10, 0x0B, true)]
  | 0x0C => [(8, 0x0B, true)]
  | 0x0D => [(4, 0x0B, true)]
  | 0x10 => [(4, 0x12, true), (8, 0x11, true)]
  | 0x13 => [(0, 0x04, false)]
  | 0x0E => [(0x14, 0x17, true)]
  | 0x14 => [(0, 0x04, false)]
  | _ => []

/-- Indices of one table. -/
def tableRefsBad (v : LoadView) (i : Nat) (t : ImageTable) : Option Nat :=
  (firstFault (tableRefs t.kind) fun (r : Nat × Nat × Bool) =>
    if r.1 + 4 ≤ t.body.length then v.refBad (fieldAt t.body r.1 4) r.2.1 (t.at_ + r.1) r.2.2 else none) <|>
  (if t.kind = 0x0D && 13 ≤ t.body.length then
    firstFault (List.range (fieldAt t.body 0xC 1)) fun j => v.refBad (fieldAt t.body 8 4 + j) 0x16 (t.at_ + 8) false
  else none) <|>
  (if t.kind = 0x08 then
    badIf ((v.tables.take i).any fun x => x.kind = 0x08) (v.tableEntry i) <|>
    firstFault (List.range (t.body.length / 32)) fun j =>
      v.refBad (fieldAt t.body (32 * j + 0xC) 4) 0x09 (t.at_ + 32 * j + 0xC)
  else none)

/-- Where the header of a program stands and its LENGTH, where its directory entry lies in the section. -/
def LoadView.programSpan (v : LoadView) (k : Nat) : Option (Nat × Nat) :=
  (v.dir 3).bind fun d =>
    let o := d.offset + 16 + 8 * k
    let a := v.at_ o 4
    let len := v.at_ (o + 4) 4
    if 16 + 8 * (k + 1) ≤ d.length && 64 ≤ len && a + len ≤ d.length then some (d.offset + a, len) else none

/-- Indices of the programs' region tables. -/
def programRefsBad (v : LoadView) : Option Nat :=
  firstFault (List.range (min v.programCount 4096)) fun k =>
    (v.programSpan k).bind fun (sp : Nat × Nat) =>
      firstFault (List.range (v.at_ (sp.1 + 0x18) 2)) fun r =>
        let o := v.at_ (sp.1 + 0x28) 4 + 12 * r
        let t := v.at_ (sp.1 + o + 4) 4
        badIf (o + 12 ≤ sp.2 && t < v.tables.length && v.tableKind t ≠ 0x18) (sp.1 + o + 4)

/-- The context descriptors of the image's transport table. -/
def LoadView.contexts (v : LoadView) : List CtxDesc :=
  ((v.tables.find? fun t => t.kind = 0x08).map fun t => ctxDescsOf t.body).getD []

/-- Buffers of a context. -/
def LoadView.ctxBuffers (v : LoadView) (c : CtxDesc) : List CtxBuffer :=
  (ctxBuffersOf (((v.tables[c.bufferList]?).map (·.body)).getD [])).take c.buffers

/-- Is a SOURCE fed by a Plyn ingress context (R36)? -/
def LoadView.ingress (v : LoadView) (id : Nat) : Bool :=
  v.contexts.any fun c => natBit c.flags 2 && claimed v.claims 0x07 c.context &&
    (v.ctxBuffers c).any fun b => b.kind = 4 && b.stage = id

/-- LIVE_PIN of a SOURCE. -/
def LoadView.livePin (v : LoadView) (st : Stage) : Nat :=
  if 0x15 ≤ (v.stageBody st).length then fieldAt (v.stageBody st) 0x14 1 else 0xFF

/-- A SOURCE with LIVE_PIN and no ingress context, and a path without PACK. -/
def pathsBad (v : LoadView) : Option Nat :=
  let sources := v.stages.filter fun st => st.kind = kindSource
  let kindOf := fun id => ((v.stages.find? fun st => st.id = id).map (·.kind)).getD 0
  (firstFault sources fun (st : Stage) =>
    badIf (v.livePin st ≠ 0xFF && !v.ingress st.id) (((v.tables[st.table]?).map (·.at_)).getD 0 + 0x14)) <|>
  let open_ := (sources.filter fun st => v.livePin st = 0xFF).map (·.id)
  let got := reach v.edges (fun id => kindOf id ≠ kindPack) 256 open_
  firstFault v.stages fun (st : Stage) => badIf (st.kind = kindDeliver && got.contains st.id) st.at_

/-- Engines that the image's claims give it of a class. -/
def LoadView.share (v : LoadView) (cls : Nat) : Nat :=
  (v.claims.filter fun c => c.rtype = 0x05 && c.index = cls).foldl (fun n c => n + c.count) 0

/-- Engines over the claim: the first stage whose running sum passes it. -/
def engineSumBad (v : LoadView) : Option Nat :=
  firstFault v.stages.zipIdx fun (x : Stage × Nat) =>
    let sum := (v.stages.take (x.2 + 1)).foldl (fun n (st : Stage) => if st.engineClass = x.1.engineClass then n + st.engines else n) 0
    badIf (x.1.engines ≠ 0 && v.share x.1.engineClass < sum) x.1.at_

/-- KENNELS and RESERVE over all stages. -/
def LoadView.kennelSum (v : LoadView) : Nat := v.stages.foldl (fun n (st : Stage) => n + st.kennels + st.reserve) 0

/-- The kennel claim (R36). -/
def kennelClaimBad (v : LoadView) : Option Nat :=
  let cs := v.claims.filter fun c => c.rtype = 0x06
  match v.stages.find? fun st => st.kennels ≠ 0, cs with
  | some st, [] => some st.at_
  | none, c :: _ => some (c.at_ + 8)
  | some _, c :: t => badIf (c.count ≠ v.kennelSum) (c.at_ + 8) <|> (t.head?).map (·.at_)
  | none, [] => none

/-- DECODE and MASK stages against their binding and against each other (R127, R157, R163). -/
def stageTablesBad (v : LoadView) : Option Nat :=
  firstFault v.byId fun (st : Stage) =>
    let b := v.stageBody st
    let o := ((v.tables[st.table]?).map (·.at_)).getD 0
    if st.kind = kindDecode then
      let f := fieldAt b 0 1
      badIf (1 ≤ f && f ≤ 5 && !(if f = 1 then st.engineClass = 4 else if f = 2 then st.engineClass = 5 else st.kennels ≠ 0)) o
    else if st.kind = kindMask && 16 ≤ b.length then
      let ctx := fieldAt b 0xA 2
      match v.stages.find? fun x => x.id = fieldAt b 8 2 && x.kind = kindDetokenize with
      | none => some (o + 8)
      | some d =>
        badIf (fieldAt (v.stageBody d) 0 4 ≠ fieldAt b 0 4) o <|>
        badIf (!claimed v.claims 0x07 ctx) (o + 0xA) <|>
        badIf (!((v.contexts.filter fun c => c.context = ctx).any fun c =>
          (v.ctxBuffers c).any fun x => x.id = fieldAt b 0xC 4 && x.kind = 2)) (o + 0xC)
    else none

/-- Does a stage use an item marked Varies (R36)? -/
def LoadView.usesVaries (v : LoadView) (st : Stage) : Bool :=
  let b := v.stageBody st
  (st.kind = kindSource && (fieldAt b 1 1 = 2 || v.livePin st ≠ 0xFF)) || (st.kind = kindDecode && natBit (fieldAt b 1 1) 2)

/-- The VARIES marks. -/
def variesBad (v : LoadView) : Option Nat :=
  badIf (natBit (v.at_ 0x16 2) 0 != v.stages.any fun st => natBit st.flags 0) 0x16 <|>
  firstFault v.stages fun (st : Stage) => badIf (v.usesVaries st && !natBit st.flags 0) (st.at_ + 3)

/-- Does a stage's program hold an OALLOC instruction (Table 3-5)? Only the words of its INSTR part are code at load. -/
def LoadView.allocates (v : LoadView) (st : Stage) : Bool :=
  match v.programSpan st.program with
  | none => false
  | some sp => (List.range (min (v.at_ (sp.1 + 8) 4) 4096 / 8)).any fun i => v.at_ (sp.1 + v.at_ (sp.1 + 0x20) 4 + 8 * i) 1 = 0x3B

/-- Does the configuration of a pool that the image claims list a stage (Table 9-3)? -/
def LoadView.poolLists (v : LoadView) (id : Nat) : Bool :=
  v.claims.any fun c => c.rtype = 0x04 &&
    let b := ((v.tables[c.param]?).map (·.body)).getD []
    (List.range (fieldAt b 2 2)).any fun i => fieldAt b (32 + 8 * i) 2 = id

/-- A kennel stage that allocates output buffers from no pool that lists it (R260): the graph is refused at the stage's
PROGRAM. -/
def allocatesBad (v : LoadView) : Option Nat :=
  firstFault (v.stages.filter fun st => st.kennels ≠ 0) fun (st : Stage) =>
    badIf (v.allocates st && !v.poolLists st.id) (st.at_ + 0xC)

/-- Step 6. -/
def step6 (v : LoadView) : Option Nat :=
  graphFormBad v <|> cycleBad v <|> endsBad v <|> stageRefsBad v <|>
  (firstFault (v.claims.filter fun c => c.rtype = 0x04) fun (c : Claim) => v.refBad c.param 0x07 (c.at_ + 0xC) false) <|>
  (firstFault v.tables.zipIdx fun (x : ImageTable × Nat) => tableRefsBad v x.2 x.1) <|>
  programRefsBad v <|> allocatesBad v <|> pathsBad v <|> engineSumBad v <|> kennelClaimBad v <|> stageTablesBad v <|>
  variesBad v

/-! ### Step 7: programs -/

/-- A position of a channel: group position, core, channel. -/
abbrev ChanPoint := Nat × Nat × Nat

/-- The entries of one direction expanded over a group of `g` kennels: point, peer, offset of the entry (R44). An entry
whose GROUPIDX is not below GROUP, and not 0xFFFF, names no position and expands to nothing (DESIGN CHOICE, log entry 51). -/
def expandChannels (cs : List ChannelEntry) (dir g : Nat) : List (ChanPoint × ChanPoint × Nat) :=
  (cs.filter fun c => c.dir = dir).flatMap fun c =>
    let ps := if c.groupIdx = 0xFFFF then List.range g else if c.groupIdx < g then [c.groupIdx] else []
    ps.map fun p => ((p, c.core, c.channel), (if c.peerGroupIdx = 0xFFFF then p else c.peerGroupIdx, c.peerCore, c.peerChannel), c.at_)

/-- A point that stands twice. -/
def twiceBad : List ChanPoint → List (ChanPoint × ChanPoint × Nat) → Option Nat
  | _, [] => none
  | seen, e :: t => if seen.contains e.1 then some e.2.2 else twiceBad (e.1 :: seen) t

/-- A channel whose peer does not name it: the later of the two entries, or the entry itself where the peer is unbound
(R54). -/
def peersBad (xs ys : List (ChanPoint × ChanPoint × Nat)) : Option Nat :=
  firstFault xs fun (e : ChanPoint × ChanPoint × Nat) =>
    match ys.find? fun f => f.1 = e.2.1 with
    | some f => badIf (f.2.1 ≠ e.1) (max f.2.2 e.2.2)
    | none => some e.2.2

/-- The channel table of a program for a GROUP (R44). R44 asks that an outbound channel and the inbound one it names name
each other; an inbound entry whose outbound channel names another one, or is unbound, is refused too (DESIGN CHOICE, log
entry 51). -/
def channelsBad (cs : List ChannelEntry) (g : Nat) : Option Nat :=
  let out := expandChannels cs 0 g
  let inn := expandChannels cs 1 g
  (firstFault cs fun (c : ChannelEntry) => badIf (c.peerGroupIdx ≠ 0xFFFF && g ≤ c.peerGroupIdx) (c.at_ + 6)) <|>
  twiceBad [] out <|> twiceBad [] inn <|> peersBad out inn <|> peersBad inn out

/-- One program: header, parts, region table, channel table. -/
def programBad (v : LoadView) (k : Nat) (b len : Nat) : Option Nat :=
  let p := programAt v.img b len
  let part := fun (f n : Nat) => badIf (len < v.at_ (b + f) 4 + n) (b + f)
  let users := v.stages.filter fun st => st.program = k
  firstBroken v.img b [fr 0 4 0x47525048 0x47525048, fr 4 2 1 1, fr 6 2 0 3, fr 8 4 8 4096, fr 0xC 4 0 12288,
    anyField 0x10 8, fr 0x18 2 0 256, anyField 0x1A 2, rz 0x1C 4, anyField 0x20 16, rz 0x30 16] <|>
  badIf (p.instrLen % 8 ≠ 0) (b + 8) <|>
  badIf (p.entry % 8 ≠ 0 || p.instrLen ≤ p.entry) (b + 0x10) <|>
  part 0x20 p.instrLen <|> part 0x24 p.dataLen <|> part 0x28 (12 * v.at_ (b + 0x18) 2) <|>
  part 0x2C (12 * v.at_ (b + 0x1A) 2) <|>
  badIf (users.any fun st => !natBit st.flags 0 && (natBit p.flags 1 || !natBit p.flags 0)) (b + 6) <|>
  (firstFault p.regions.zipIdx fun (x : RegionEntry × Nat) =>
    let r := x.1
    firstBroken v.img r.at_ [anyField 0 1, fr 1 1 0 2, fr 2 1 0 79, rz 3 1, anyField 4 8] <|>
    badIf ((p.regions.take x.2).any fun y => y.region = r.region) r.at_ <|>
    badIf (r.state ≠ 1 && r.core ≠ 0) (r.at_ + 2) <|>
    badIf (r.table ≠ noIndex && (r.state ≠ 2 || v.tables.length ≤ r.table)) (r.at_ + 4) <|>
    badIf (r.offset % 64 ≠ 0) (r.at_ + 8)) <|>
  (firstFault p.channels fun (c : ChannelEntry) =>
    firstBroken v.img c.at_ [anyField 0 2, fr 2 1 0 79, fr 3 1 0 1, fr 4 1 0 7, rz 5 1, anyField 6 2, fr 8 1 0 79,
      fr 9 1 0 7, rz 0xA 2]) <|>
  firstFault users fun (st : Stage) => channelsBad p.channels st.group

/-- Step 7 (R43, R44). -/
def step7 (v : LoadView) : Option Nat :=
  (v.dir 3).bind fun d =>
    let n := v.programCount
    badIf (d.length < 16) d.offset <|>
    firstBroken v.img d.offset [fr 0 4 1 4096, rz 4 12] <|>
    badIf (d.length < 16 + 8 * n) d.offset <|>
    firstFault (List.range n) fun k =>
      let o := d.offset + 16 + 8 * k
      let a := v.at_ o 4
      let len := v.at_ (o + 4) 4
      badIf (a % 64 ≠ 0 || a < 16 + 8 * n || d.length < a + len) o <|>
      badIf (len < 64) (o + 4) <|> programBad v k (d.offset + a) len

/-! ### Step 8: limits -/

/-- Two of the byte fields that give the bits of a hedge entry's resources share a bit with another entry or with the
common marks (R46): RTYPE of each, and whether a context, DRAM range or bit of the two is the same. -/
def HedgeEntry.clash (a b : HedgeEntry) : Bool :=
  let ctx := spansMeet a.contextFirst a.contextCount b.contextFirst b.contextCount && a.contextCount ≠ 0 && b.contextCount ≠ 0
  let dram := a.dram.any fun x => b.dram.any fun y => spansMeet x.1 x.2 y.1 y.2
  a.gsig &&& b.gsig ≠ 0 || a.timers &&& b.timers ≠ 0 || a.gcl &&& b.gcl ≠ 0 || a.pools &&& b.pools ≠ 0 ||
    a.namespaces &&& b.namespaces ≠ 0 || a.dma &&& b.dma ≠ 0 || a.chk &&& b.chk ≠ 0 || ctx || dram

/-- The HEDGE section (R46). Counts that together exceed the part are reported at the field of the first entry (DESIGN
CHOICE, log entry 51). -/
def hedgeBad (v : LoadView) (kennels dramMib : Nat) : Option Nat :=
  (v.dir 5).bind fun d =>
    let h := d.offset
    let p := partitionOf v.img
    let entryAt := fun i => h + 32 + 128 * i
    badIf (d.length < 32) h <|>
    firstBroken v.img h [fr 0 1 1 15, rz 1 1, anyField 2 3, fr 5 1 0 31, rz 6 26] <|>
    badIf (d.length < 32 + 128 * v.at_ h 1) h <|>
    (firstFault p.hedges.zipIdx fun (x : HedgeEntry × Nat) =>
      let o := entryAt x.2
      firstBroken v.img o [fr 0 1 1 15, fr 1 1 0 1, anyField 2 5, fr 7 1 0 31, anyField 8 20, rz 0x1C 4, anyField 0x20 4,
        rz 0x24 4, anyField 0x28 58, rz 0x62 30] <|>
      badIf ((p.hedges.take x.2).any fun e => x.1.hedge ≤ e.hedge) o <|>
      badIf (65536 < x.1.contextFirst + x.1.contextCount) (o + 0x22) <|>
      firstFault [0, 1, 2, 3] fun j => badIf (v.at_ (o + 0x3C + 8 * j) 4 ≠ 0 && dramMib < v.at_ (o + 0x38 + 8 * j) 4 + v.at_ (o + 0x3C + 8 * j) 4) (o + 0x38 + 8 * j)) <|>
    badIf (kennels < p.hedges.foldl (fun n e => n + e.kennels) 0) (entryAt 0 + 2) <|>
    (firstFault (List.range 10) fun i =>
      badIf (engineCount (i + 1) < p.hedges.foldl (fun n e => n + e.engines.getD i 0) 0) (entryAt 0 + 8 + 2 * i)) <|>
    firstFault p.hedges.zipIdx fun (x : HedgeEntry × Nat) =>
      let e := x.1
      let o := entryAt x.2
      badIf (e.gsig &&& p.commonGsig ≠ 0 || e.timers &&& p.commonTimers ≠ 0 || e.gcl &&& p.commonGcl ≠ 0 ||
        (p.hedges.take x.2).any fun y => y.clash e) o <|>
      firstFault [1, 2, 3] fun j =>
        let lo := fun k => v.at_ (o + 0x38 + 8 * k) 4
        let n := fun k => v.at_ (o + 0x3C + 8 * k) 4
        badIf ((List.range j).any fun k => n k ≠ 0 && n j ≠ 0 && spansMeet (lo k) (n k) (lo j) (n j)) (o + 0x38 + 8 * j)

/-- A timer program of the SCHEDULE section (Table 2-15). -/
def timerBad (v : LoadView) (b : Nat) (named : Bool) : Option Nat :=
  let t := timerProgramAt v.img b
  firstBroken v.img b [fr 0 1 0 3, anyField 1 1, rz 2 2, anyField 4 4, fr 8 8 0 (2 ^ 48 - 1), fr 0x10 4 0 999999999,
    fr 0x14 4 1000 4000000000, rz 0x18 8] <|>
  if t.pulse then
    badIf (15 < t.pin || (named && !claimed v.claims 0x01 t.pin (some 0x06))) (b + 1) <|>
    badIf (t.widthNs < 10 || t.periodNs < t.widthNs + 10) (b + 4)
  else badIf (t.pin ≠ 0xFF) (b + 1) <|> badIf (t.widthNs ≠ 0) (b + 4)

/-- A gate control list (Table 2-16). -/
def gateListBad (v : LoadView) (b : Nat) : Option Nat :=
  firstBroken v.img b [fr 0 8 0 (2 ^ 48 - 1), fr 8 4 0 999999999, fr 0xC 4 1000 1000000000, fr 0x10 2 1 1024, rz 0x12 14] <|>
  firstFault (List.range (v.at_ (b + 0x10) 2)) fun i =>
    firstBroken v.img (b + 32 + 8 * i) [anyField 0 1, rz 1 3, fr 4 4 100 1000000000]

/-- The SCHEDULE section (R47). -/
def scheduleBad (v : LoadView) : Option Nat :=
  (v.dir 6).bind fun d =>
    let h := d.offset
    let timers := v.at_ h 2
    let n := timers + v.at_ (h + 2) 2
    let plan := v.at_ (h + 4) 1
    badIf (d.length < 16) h <|>
    firstBroken v.img h [fr 0 2 0 8, fr 2 2 0 5, fr 4 1 0 16, rz 5 11] <|>
    badIf (0 < plan && plan < 4) (h + 4) <|>
    badIf (d.length < 16 + 8 * n) h <|>
    firstFault (List.range n) fun i =>
      let o := h + 16 + 8 * i
      let a := v.at_ o 4
      let len := v.at_ (o + 4) 4
      let entries := v.at_ (h + a + 0x10) 2
      badIf (a % 64 ≠ 0 || d.length < a + len) o <|>
      badIf (len < 32 || (timers ≤ i && entries ≤ 1024 && len < 32 + 8 * entries)) (o + 4) <|>
      if i < timers then timerBad v (h + a) (v.claims.any fun c => c.rtype = 0x02 && c.param = i) else gateListBad v (h + a)

/-- What the table rules ask of the image and the device. -/
def LoadView.world (v : LoadView) (s : State) : TableWorld :=
  let masks := v.stages.filter fun st => st.kind = kindMask
  let vocabs := masks.map fun st => fieldAt (v.stageBody st) 0 4
  { claims := v.claims
    tables := v.tables
    namespaces := s.nsList.map fun n => (n, s.nsSize n)
    maskVs := (vocabs.filter fun i => i < v.tables.length).map fun i => fieldAt (((v.tables[i]?).map (·.body)).getD []) 8 4
    maskTables := vocabs }

/-- STREAMS of the MASK stages of the images that are loaded. -/
def State.maskStreams (s : State) : Nat :=
  s.images.vals.foldl (fun n im => im.stages.foldl (fun n (st : Stage) =>
    if st.kind = kindMask then n + fieldAt (im.table st.table) 4 2 else n) n) 0

/-- Rules that join a stage and its tables (R148, R162, Table 3-11). -/
def stageLimitsBad (v : LoadView) (s : State) : Option Nat :=
  firstFault v.byId.zipIdx fun (x : Stage × Nat) =>
    let st := x.1
    let b := v.stageBody st
    let o := ((v.tables[st.table]?).map (·.at_)).getD 0
    let vocab := ((v.tables[fieldAt b 0 4]?).map (·.body)).getD []
    let fl := fieldAt b 4 1
    if st.kind = kindDetokenize then badIf (fl ≠ 0) (o + 4)
    else if st.kind = kindTokenize then
      badIf ((natBit fl 0 && fieldAt vocab 0x18 4 = noIndex) || (natBit fl 1 && fieldAt vocab 0x1C 4 = noIndex)) (o + 4)
    else if st.kind = kindFilter then badIf (fieldAt b 0xE 2 ≤ fieldAt b 0x50 1) (o + 0x50)
    else if st.kind = kindModel then badIf (fieldAt b 0x50 1 ≠ 0) (o + 0x50)
    else if st.kind = kindMask then
      let sum := (v.byId.take (x.2 + 1)).foldl (fun n (y : Stage) =>
        if y.kind = kindMask then n + fieldAt (v.stageBody y) 4 2 else n) s.maskStreams
      badIf (16384 < sum) (o + 4)
    else none

/-- Is a code one of Table 15-4? -/
def pinCodeOk (p : Nat) : Bool := p ≤ 6 || (0x10 ≤ p && p ≤ 0x37)

/-- Claims against the part and against SCHEDULE. -/
def claimLimitsBad (v : LoadView) (kennels : Nat) : Option Nat :=
  let sched := sectionStart v.img 6
  firstFault v.claims fun (c : Claim) =>
    badIf ((c.rtype = 0x05 && engineCount c.index < c.count) || (c.rtype = 0x06 && kennels < c.count)) (c.at_ + 8) <|>
    badIf ((c.rtype = 0x01 && !pinCodeOk c.param) || (c.rtype = 0x02 && v.at_ sched 2 ≤ c.param) ||
      (c.rtype = 0x0A && v.at_ (sched + 2) 2 ≤ c.param)) (c.at_ + 0xC)

/-- Pools of the image in ascending pool number, with their configuration table. -/
def LoadView.pools (v : LoadView) : List (Nat × ImageTable) :=
  (List.range 64).filterMap fun k =>
    (v.claims.find? fun c => c.rtype = 0x04 && c.index ≤ k && k < c.index + c.count).bind fun c =>
      (v.tables[c.param]?).map fun t => (k, t)

/-- Insert a range in ascending order. -/
def addRange (r : Nat × Nat) : List (Nat × Nat) → List (Nat × Nat)
  | [] => [r]
  | x :: t => if r.1 ≤ x.1 then r :: x :: t else x :: addRange r t

/-- Pool SRAM. -/
def sramBytes : Nat := 20 * 2 ^ 20

/-- Place pools: the first base of each, or the offset of the field that does not fit (R260). `used` holds the ranges of
pool SRAM that are taken. -/
def placePools (v : LoadView) : List (Nat × ImageTable) → (used : List (Nat × Nat)) → List (Nat × Nat) → Except Nat (List (Nat × Nat))
  | [], _, acc => .ok acc
  | (k, t) :: rest, used, acc =>
    let size := fieldAt t.body 8 4 * fieldAt t.body 4 4
    if fieldAt t.body 0 1 = 0 then
      match firstFit 0 sramBytes size used with
      | some a => placePools v rest (addRange (a, size) used) (acc ++ [(k, a)])
      | none => .error (t.at_ + 8)
    else
      match v.claims[fieldAt t.body 0xC 4]? with
      | some c =>
        if c.rtype ≠ 0x08 then .error (t.at_ + 0xC)
        else if c.count * 2 ^ 20 < size then .error (t.at_ + 8)
        else placePools v rest used (acc ++ [(k, c.index * 2 ^ 20)])
      | none => .error (t.at_ + 0xC)

/-- Ranges of pool SRAM in use, ascending. -/
def State.sramUsed (s : State) : List (Nat × Nat) :=
  s.pools.vals.foldl (fun l p => if p.dram then l else addRange (p.base, p.buffers * p.bufSize) l) []

/-- Step 8. -/
def step8 (v : LoadView) (s : State) : Option Nat :=
  let dramMib := s.spaceSize .dram / 2 ^ 20
  hedgeBad v s.part.kennels dramMib <|> scheduleBad v <|>
  (firstFault v.tables.zipIdx fun (x : ImageTable × Nat) => (tableBad (v.world s) x.2 x.1).map fun o => x.1.at_ + o) <|>
  stageLimitsBad v s <|> claimLimitsBad v s.part.kennels <|>
  match placePools v v.pools s.sramUsed [] with
  | .error o => some o
  | .ok _ => none

/-! ### Steps 9 to 11 -/

/-- The partition under which an image is checked: its own, or the one in force (R51). -/
def LoadView.partition (v : LoadView) (s : State) : Partition := if v.mode = 0 then partitionOf v.img else s.partition

/-- Engines of a class that a hedge holds under a partition: first number and count. -/
def Partition.engineSpan (p : Partition) (cls h : Nat) : Nat × Nat :=
  p.spanOf (fun e => e.engines.getD (cls - 1) 0) (engineCount cls) h

/-- Is a namespace sealed to another owner key than a hedge's (R352)? -/
def State.sealedFrom (s : State) (n h : Nat) : Bool :=
  match (s.ns n).sealed with
  | none => false
  | some d => (s.security.owners.find h).map sha256 ≠ some d

/-- A claim outside the hedge (R51). -/
def claimBounds (v : LoadView) (s : State) (c : Claim) : Option LoadError :=
  let p := v.partition s
  let h := v.hedge
  let err := fun owner index => LoadError.mk ENL_ERR_HEDGE_BOUNDS 1 c.rtype owner index
  if c.rtype = 0x05 then
    if (p.engineSpan c.index h).2 < c.count then some (err ownerNone c.index) else none
  else if c.rtype = 0x06 then none
  else
    (List.range c.count).findSome? fun i =>
      let x := c.index + i
      if !p.allows h c.rtype x then some (err (p.ownerOf c.rtype x) x)
      else if c.rtype = 0x09 && s.sealedFrom x h then some (err ownerNone x)
      else none

/-- A key that the hedge may not use (R51, R353). -/
def keyBounds (s : State) (h keyId usage : Nat) : Option LoadError :=
  if s.mayUseKey h keyId usage then none
  else some ⟨ENL_ERR_HEDGE_BOUNDS, 4, 0, ((s.security.keys.find keyId).map (·.owner)).getD ownerNone, keyId⟩

/-- Step 9. -/
def step9 (v : LoadView) (s : State) : Option LoadError :=
  v.claims.findSome? (claimBounds v s) <|>
  v.tables.findSome? fun (t : ImageTable) =>
    if t.kind = 0x0C && fieldAt t.body 0 1 = 1 then keyBounds s v.hedge (fieldAt t.body 4 4) 1
    else if t.kind = 0x08 then
      (ctxDescsOf t.body).findSome? fun (c : CtxDesc) => if c.keySource = 1 then keyBounds s v.hedge c.keyId 2 else none
    else none

/-- Healthy kennels of the image's hedge that no image holds, ascending. -/
def LoadView.kennelsFree (v : LoadView) (s : State) : List Nat :=
  let sp := (v.partition s).spanOf (·.kennels) s.part.kennels v.hedge
  ((List.range sp.2).map (sp.1 + ·)).filter fun k => s.kennelOk k && !s.kennelBound k

/-- Step 10: no rule gives the registers a content for it, so they stay at their reset values. -/
def step10 (v : LoadView) (s : State) : Option LoadError :=
  if (v.kennelsFree s).length < v.kennelSum then some (plainError ENL_ERR_KENNELS) else none

/-- The resources that a claim names, as the claim table counts them. -/
def Claim.resources (c : Claim) : List Nat :=
  if c.rtype = 0x05 || c.rtype = 0x06 then [c.index] else (List.range c.count).map (c.index + ·)

/-- Is a type entered in the device's claim table? Kennels and engine shares come from the hedge, and the
network-time counter is shared. -/
def rtypeTabled (rtype : Nat) : Bool := rtype ≠ 0x03 && rtype ≠ 0x05 && rtype ≠ 0x06

/-- Engines of a class that a hedge holds and the host does not (R291). -/
def LoadView.enginesFree (v : LoadView) (s : State) (cls : Nat) : List Nat :=
  let sp := (v.partition s).engineSpan cls v.hedge
  ((List.range sp.2).map (sp.1 + ·)).filter fun e => s.claimOwner 0x05 (engineKey cls e) = none

/-- Step 11 (R40): the first claim in conflict. An engine share conflicts where the engines that the host does not hold are
too few (R291). -/
def step11 (v : LoadView) (s : State) : Option LoadError :=
  v.claims.zipIdx.findSome? fun (x : Claim × Nat) =>
    let c := x.1
    let earlier := v.claims.take x.2
    if c.rtype = 0x03 then none
    else if c.rtype = 0x05 && (v.enginesFree s c.index).length < c.count then
      some ⟨ENL_ERR_CLAIM, 1, c.rtype, ownerManagement, c.index⟩
    else c.resources.findSome? fun i =>
      let err := fun owner => some (LoadError.mk ENL_ERR_CLAIM 1 c.rtype owner i)
      match if rtypeTabled c.rtype then s.claimOwner c.rtype i else none with
      | some o => err o
      | none => if earlier.any fun e => e.rtype = c.rtype && e.resources.contains i then err ownerNone else none

/-- The checks of Table 2-8 in order. -/
def loadCheck (s : State) (op hedge len : Nat) (img : Bytes) : Option LoadError :=
  let v := loadView img
  v.fault ENL_ERR_FORMAT (step1 v len) <|>
  step2 v (s.spaceSize .dram / 2 ^ 20) <|>
  v.fault ENL_ERR_DCLASS (badIf (v.at_ 0x10 4 ≠ (s.reg Reg.HEEL_DCLASS).toNat) 0x10) <|>
  step4 v s op hedge <|>
  step5 v s <|>
  v.fault ENL_ERR_GRAPH (step6 v) <|>
  v.fault ENL_ERR_PROGRAM (step7 v) <|>
  v.fault ENL_ERR_LIMIT (step8 v s) <|>
  step9 v s <|> step10 v s <|> step11 v s

end Sys2Proof.Machine
end

