-- ==== Sys2Proof/Machine/Loader.lean ====
section
/-! DEFINITION. The loader (R53 to R56): the copy of an image, its commit with the bindings and the resources that
its claims start, and the unload. -/

namespace Sys2Proof.Machine

/-! ### Kennels and their programs (R37, R43, R44, R77) -/

/-- A core at the entry of a program (R43, R63). -/
def Program.core (p : Program) : Core :=
  { Core.reset with
    pc := p.entry
    budget := p.budget
    imem := Memory.write Tab.empty 0 p.instr
    dmem := Memory.write Tab.empty 0 p.data }

/-- A kennel store as a region table leaves it (R44, R77). -/
def Image.storeOf (im : Image) (p : Program) : Kennel :=
  p.regions.foldl (fun (k : Kennel) (r : RegionEntry) =>
    if r.state = 1 then { k with regions := k.regions.insert r.region (.owned r.core) }
    else if r.state = 2 then
      { k with regions := k.regions.insert r.region .shared
               store := k.store.write (1024 * r.region) (if r.table = noIndex then [] else ((im.table r.table).drop r.offset).take 1024) }
    else k) Kennel.reset

/-- Load a kennel with the program of a stage and bind it to a place in a group. -/
def State.loadKennel (s : State) (im : Image) (hedge : Nat) (st : Stage) (k group idx : Nat) : State :=
  match im.programs[st.program]? with
  | none => s
  | some p =>
    let t := s.setKennel k { im.storeOf p with bound := some ⟨hedge, st.id, group, idx⟩ }
    (List.range coresPerKennel).foldl (fun t i => t.setCore (coresPerKennel * k + i) p.core) t

/-- A kennel that nothing is bound to any more. -/
def State.freeKennel (s : State) (k : Nat) : State :=
  match s.kennels.find k with
  | some x => s.setKennel k { x with bound := none }
  | none => s

/-- The local memory and the store of a kennel are zeroed (R347, R349). -/
def State.zeroKennel (s : State) (k : Nat) : State :=
  { s with kennels := s.kennels.erase k
           cores := s.cores.keep fun c _ => !(coresPerKennel * k ≤ c && c < coresPerKennel * (k + 1)) }

/-- Kennels of a stage that run as the groups of a list, in order. -/
def State.loadGroups (s : State) (im : Image) (hedge : Nat) (st : Stage) (ks : List Nat) : State :=
  ks.zipIdx.foldl (fun t (x : Nat × Nat) => t.loadKennel im hedge st x.1 (x.2 / st.group) (x.2 % st.group)) s

/-! ### Resources that move between hedges (R347) -/

/-- The hedge that a partition gives a kennel to. -/
def Partition.kennelOwner (p : Partition) (total k : Nat) : Nat :=
  ((p.hedges.find? fun e => let sp := p.spanOf (·.kennels) total e.hedge; sp.1 ≤ k && k < sp.1 + sp.2).map (·.hedge)).getD 0

/-- The hedge that a partition gives an engine to. -/
def Partition.engineOwner (p : Partition) (cls e : Nat) : Nat :=
  ((p.hedges.find? fun h => let sp := p.engineSpan cls h.hedge; sp.1 ≤ e && e < sp.1 + sp.2).map (·.hedge)).getD 0

/-- Everything that a partition gives to another hedge than the one it last served is cleared. -/
def State.moveTo (s : State) (p : Partition) : State :=
  let old := s.served
  let moved := fun k => old.kennelOwner s.part.kennels k ≠ p.kennelOwner s.part.kennels k
  { s with
    served := p
    kennels := s.kennels.keep fun k _ => !moved k
    cores := s.cores.keep fun c _ => !moved (c / coresPerKennel)
    bri := s.bri.keep fun e _ => old.engineOwner 0x03 e = p.engineOwner 0x03 e
    dram := s.dram.keep fun a _ => old.ownerOf 0x08 (a / 2 ^ 20) = p.ownerOf 0x08 (a / 2 ^ 20) }

/-- The hedge that a byte of pool SRAM last served, where it served one. -/
def State.sramLast (s : State) (a : Nat) : Option Nat :=
  (s.sramServed.find? fun e => e.1 ≤ a && a < e.1 + e.2.1).map (·.2.2)

/-- A range of pool SRAM begins to serve a hedge. -/
def State.serveSram (s : State) (base size hedge : Nat) : State :=
  { s with
    sram := s.sram.keep fun a _ => !(base ≤ a && a < base + size) || s.sramLast a = none || s.sramLast a = some hedge
    sramServed := (base, size, hedge) :: s.sramServed }

/-! ### Commit -/

/-- Take from a list for each entry in turn: what each receives. -/
def dealOut : List (Nat × Nat) → List Nat → List (Nat × List Nat)
  | [], _ => []
  | (id, n) :: t, free => (id, free.take n) :: dealOut t (free.drop n)

/-- Kennels of each stage and its reserve, in STAGE_ID order (R37). -/
def LoadView.kennelBindings (v : LoadView) (free : List Nat) : List (Nat × List Nat) × List (Nat × List Nat) :=
  let wants := v.byId.flatMap fun (st : Stage) => [(st.id, st.kennels), (st.id, st.reserve)]
  let got := (dealOut wants free).zipIdx
  ((got.filter fun e => e.2 % 2 = 0).map (·.1), (got.filter fun e => e.2 % 2 = 1).map (·.1))

/-- Engines of each stage: those of its class that the hedge has, the host does not hold and are not retired, by number,
up to the image's share. -/
def LoadView.engineBindings (v : LoadView) (s : State) : List (Nat × List Nat) :=
  (List.range 10).flatMap fun i =>
    let cls := i + 1
    let free := ((v.enginesFree s cls).filter fun e => !s.retired.contains (cls, e)).take (v.share cls)
    dealOut ((v.byId.filter fun st => st.engineClass = cls && st.engines ≠ 0).map fun (st : Stage) => (st.id, st.engines)) free

/-- The image as the loader keeps it. -/
def LoadView.image (v : LoadView) (s : State) : Image :=
  let k := v.kennelBindings (v.kennelsFree s)
  { bytes := v.img
    digest := imageDigest v.img
    varies := natBit (v.at_ 0x16 2) 0
    stages := v.stages
    edges := v.edges
    claims := v.claims
    programs := programsOf v.img
    tables := v.tables
    timers := timersOf v.img
    gates := gatesOf v.img
    planReq := v.at_ (sectionStart v.img 6 + 4) 1
    bound := k.1
    reserve := k.2
    engines := v.engineBindings s }

/-- ENL_IMAGE_DIGEST of a slot. -/
def State.showDigest (s : State) (h : Nat) (d : Bytes) : State :=
  (List.range 8).foldl (fun t w => t.setFld (Reg.ENL_IMAGE_DIGEST h w) Fld.ENL_IMAGE_DIGEST_DIGEST (fieldAt d (4 * w) 4)) s

/-- A pool begins (R260). -/
def State.startPool (s : State) (h k base : Nat) (b : Bytes) : State :=
  let p : Pool :=
    { hedge := h
      dram := fieldAt b 0 1 = 1
      base := base
      bufSize := fieldAt b 4 4
      buffers := fieldAt b 8 4
      requesters := (List.range (fieldAt b 2 2)).map fun i =>
        ⟨fieldAt b (32 + 8 * i) 2, fieldAt b (34 + 8 * i) 1, fieldAt b (36 + 8 * i) 4⟩
      held := Tab.empty
      waiting := [] }
  let t := if p.dram then s else s.serveSram base (p.buffers * p.bufSize) h
  let t := t.clearRegs (Reg.POOL_CFG k) (Reg.POOL_CFG k + 0x40)
  let t := ((t.setBit (Reg.POOL_CFG k) Fld.POOL_CFG_VALID true).setBit (Reg.POOL_CFG k) Fld.POOL_CFG_MEMORY p.dram).setFld
    (Reg.POOL_CFG k) Fld.POOL_CFG_HEDGE h
  let t := (t.setFld (Reg.POOL_BUF_SIZE k) Fld.POOL_BUF_SIZE_BYTES p.bufSize).setFld (Reg.POOL_BUFFERS k) Fld.POOL_BUFFERS_COUNT p.buffers
  t.setPool k p

/-- The record of a context (R236); it is on chip while there is room. -/
def State.startContext (s : State) (h : Nat) (v : LoadView) (d : CtxDesc) : State :=
  let c : Context :=
    { hedge := h
      keySource := d.keySource
      flags := d.flags
      keyId := d.keyId
      filterLog2 := d.filterLog2
      tclass := d.tclass
      dramClaim := d.dramClaim
      onChip := s.onChipCount < 4096
      stamp := s.clock
      fetching := false
      job := none
      jobEpoch := 0
      buffers := v.ctxBuffers d
      filter := []
      phases := Tab.empty
      toAck := Tab.empty
      cameOn := Tab.empty
      partialImm := []
      posted := []
      senders := []
      trips := Tab.empty
      reports := []
      reads := [] }
  { s with contexts := s.contexts.insert d.context c }

/-- What a claim starts: a pin's function, a timer's program, a port's gate control list. -/
def State.startClaim (s : State) (h : Nat) (im : Image) (c : Claim) : State :=
  let t := if rtypeTabled c.rtype then c.resources.foldl (fun t i => t.addClaim c.rtype i h) s else s
  c.resources.foldl (fun t i =>
    if c.rtype = 0x01 then t.adjustPin i fun _ => { Pin.free with function := c.param, owner := h }
    else if c.rtype = 0x02 then
      match im.timers[c.param]? with
      | some p => t.startTimer i p h
      | none => t
    else if c.rtype = 0x0A then
      match im.gates[c.param]? with
      | some g => t.commitGates i g
      | none => t
    else t) t

/-- SEC_DEBUG.LOCKED and SEC_CONF follow the partition (R350, R363). -/
def State.settleLocked (s : State) : State :=
  let word := fun (p : Nat → Bool) => (List.range 16).foldl (fun n h => if p h then n + 2 ^ h else n) 0
  let t := s.setBit Reg.SEC_DEBUG Fld.SEC_DEBUG_LOCKED s.anyConfidential
  let t := t.setFld Reg.SEC_CONF Fld.SEC_CONF_CONF (word fun h => h ≠ 0 && s.partition.confidential h)
  t.setFld Reg.SEC_CONF Fld.SEC_CONF_PRESENT (word s.partition.exists_)

/-- Is an engine bound to a loaded image (R298)? -/
def State.engineBound (s : State) (cls e : Nat) : Bool :=
  s.images.vals.any fun im => im.stages.any fun st => st.engineClass = cls && (assocList im.engines st.id).contains e

/-- BOUND of the Briar engines: 0 to 31 decompress, 32 to 47 compress (R291, R298). -/
def State.settleBriBound (s : State) : State :=
  (List.range 48).foldl (fun t e => t.setBit (Reg.BRI_ENG_STATUS e) Fld.BRI_ENG_STATUS_BOUND
    (if e < 32 then s.engineBound 2 e else s.engineBound 3 (e - 32))) s

/-- What follows from the set of loaded images: power domains, the clock plan, reclaiming weights, namespace owners,
debug, bound engines. -/
def State.settleImages (s : State) : State :=
  s.settleDomains.settlePlan.settleWeights.settleOwners.settleLocked.settleBriBound

/-- The commit of an image that passed every check. -/
def State.commitImage (s : State) (v : LoadView) : State :=
  let h := v.hedge
  let im := v.image s
  let p := v.partition s
  let t := (({ s with images := s.images.insert h im }.settleDomains).moveTo p)
  let t := { t with partition := p }
  let t := im.stages.foldl (fun t (st : Stage) => t.loadGroups im h st (assocList im.bound st.id)) t
  let bases := match placePools v v.pools s.sramUsed [] with
    | .ok l => l
    | .error _ => []
  let t := bases.foldl (fun t (e : Nat × Nat) =>
    match v.pools.find? fun x => x.1 = e.1 with
    | some x => t.startPool h e.1 e.2 x.2.body
    | none => t) t
  let t := v.contexts.foldl (fun t (d : CtxDesc) => t.startContext h v d) t
  let t := im.claims.foldl (fun t (c : Claim) => t.startClaim h im c) t
  ((t.showDigest h im.digest).settleImages)

/-! ### The procedure (R53) -/

/-- BUSY of the loader. -/
def State.loading (s : State) : Bool := s.bit Reg.ENL_LOAD_STATUS Fld.ENL_LOAD_STATUS_BUSY

/-- A load or unload ends (R53, R54). ERR is W1C and shows how this operation ended: one that succeeds clears an ERR that
the host left standing (DESIGN CHOICE, log entry 51). -/
def State.loadEnd (s : State) (e : Option LoadError) : State :=
  let t := { s with loadOp := none }.setBit Reg.ENL_LOAD_STATUS Fld.ENL_LOAD_STATUS_BUSY false
  let t := (t.setBit Reg.ENL_LOAD_STATUS Fld.ENL_LOAD_STATUS_DONE true).setBit Reg.ENL_LOAD_STATUS Fld.ENL_LOAD_STATUS_ERR e.isSome
  let t := t.setFld Reg.ENL_LOAD_STATUS Fld.ENL_LOAD_STATUS_CODE ((e.map (·.code)).getD 0)
  let t := match e with
    | none => t
    | some x =>
      let t := (t.setFld Reg.ENL_LOAD_ERR_RES Fld.ENL_LOAD_ERR_RES_SECTION x.sect).setFld Reg.ENL_LOAD_ERR_RES
        Fld.ENL_LOAD_ERR_RES_RTYPE x.rtype
      (t.setFld Reg.ENL_LOAD_ERR_RES Fld.ENL_LOAD_ERR_RES_OWNER x.owner).setFld Reg.ENL_LOAD_ERR_INDEX
        Fld.ENL_LOAD_ERR_INDEX_INDEX x.index
  t.raise 1

/-- GO with an operation for a hedge (R53, R54, R56). The image is copied as it stands at GO: of one longer than
1 GiB, which step 1 refuses, the header only. -/
def State.loadGo (s : State) (op hedge : Nat) : State :=
  if s.loading then s
  else
    let t := s.setFld Reg.ENL_LOAD_STATUS Fld.ENL_LOAD_STATUS_HEDGE hedge
    let t := (t.clearReg Reg.ENL_LOAD_ERR_RES).clearReg Reg.ENL_LOAD_ERR_INDEX
    if op = 3 then t.loadEnd (some (plainError ENL_ERR_FORMAT))
    else
      let len := (s.reg Reg.ENL_LOAD_LEN).toNat
      let img := if op = 2 then [] else s.readMem .host (s.reg Reg.ENL_LOAD_ADDR).toNat (if len ≤ 2 ^ 30 then len else 64)
      { t with loadOp := some ⟨op, hedge, len, img⟩ }.setBit Reg.ENL_LOAD_STATUS Fld.ENL_LOAD_STATUS_BUSY true

/-- A GO row: OP and HEDGE are written with GO. -/
def loadGoRow (op : Nat) (hedge : Fin 16) (s : State) : Host.Outcome State Fault Refusal :=
  hostAct Reg.ENL_LOAD_CTRL (fun s =>
    ((s.setFld Reg.ENL_LOAD_CTRL Fld.ENL_LOAD_CTRL_OP op).setFld Reg.ENL_LOAD_CTRL Fld.ENL_LOAD_CTRL_HEDGE hedge.val).loadGo
      op hedge.val) s

/-- WHOLE_DEVICE_LOAD (R53). -/
def execWholeDeviceLoad (hedge : Fin 16) (s : State) : Host.Outcome State Fault Refusal := loadGoRow 0 hedge s

/-- PER_HEDGE_LOAD (R53). -/
def execPerHedgeLoad (hedge : Fin 16) (s : State) : Host.Outcome State Fault Refusal := loadGoRow 1 hedge s

/-- UNLOAD (R55). -/
def execUnload (hedge : Fin 16) (s : State) : Host.Outcome State Fault Refusal := loadGoRow 2 hedge s

/-- RESERVED_LOAD_OP (R56). -/
def execReservedLoadOp (hedge : Fin 16) (s : State) : Host.Outcome State Fault Refusal := loadGoRow 3 hedge s

/-- A whole-device load extends M4 by the digest of its HEDGE section, or by 32 zero bytes where it has none (R359). -/
def State.measurePartition (s : State) (o : LoadOp) : State :=
  if o.op ≠ 0 then s
  else
    let sect := (sectionOf o.bytes 5).map fun x => sha256 ((o.bytes.drop x.1).take x.2)
    let t := s.measure 4 (sect.getD (List.replicate 32 0))
    { t with security := { t.security with partitionDigest := sect.getD [] } }

/-- A load ends: the checks see the claim table as it stands now (R39). -/
def State.loadDone (s : State) (o : LoadOp) : State :=
  match loadCheck s o.op o.hedge o.len o.bytes with
  | some e => s.loadEnd (some e)
  | none => (((s.commitImage (loadView o.bytes)).measurePartition o)).loadEnd none

/-- LOAD_COMPLETE (R54). -/
def execLoadComplete (s : State) : Host.Outcome State Fault Refusal :=
  act (fun s => match s.loadOp with
    | some o => if o.op ≠ 2 then s.loadDone o else s
    | none => s) s

/-! ### Unload (R55, R349) -/

/-- A job leaves its slot: the slot becomes EMPTY, and nothing of the job stays. -/
def State.dropJob (s : State) (slot : Nat) : State :=
  let t := ((s.freeQueues slot).forgetMessages slot).heelLeave slot
  { t with
    jobs := t.jobs.erase slot
    items := t.items.filter fun it => it.slot ≠ slot
    text := { t.text with work := t.text.work.filter fun w => w.1 ≠ slot }
    contexts := t.contexts.mapVals fun _ c =>
      { c with job := if c.job = some slot then none else c.job
               reads := c.reads.filter fun r => r.item.slot.val ≠ slot } }.setJobState slot jobEmpty 0

/-- Slots of the jobs of a hedge. -/
def State.slotsOf (s : State) (h : Nat) : List Nat := (s.jobs.entries.filter fun e => e.2.desc.hedge = h).map (·.1)

/-- A resource that a claim held is free again. -/
def State.endClaim (s : State) (h : Nat) (c : Claimed) : State :=
  if c.owner ≠ h then s
  else if c.rtype = 0x01 then s.adjustPin c.index fun _ => Pin.free
  else if c.rtype = 0x02 then s.stopTimer c.index
  else if c.rtype = 0x0A then s.endGates c.index
  else s

/-- What the unload of a confidential hedge zeroes (R349), its lines of the vocabulary caches with it (R140). -/
def State.zeroHedge (s : State) (h : Nat) (im : Image) : State :=
  let ks := (im.bound ++ im.reserve).flatMap (·.2)
  let s := { s with text := { s.text with
    vocab0 := s.text.vocab0.filter fun l => l.hedge ≠ h
    vocab1 := s.text.vocab1.filter fun l => l.hedge ≠ h } }
  let t := ks.foldl (fun t k => t.zeroKennel k) s
  let t := s.pools.vals.foldl (fun t p =>
    if p.hedge = h then t.setMem (if p.dram then .dram else .sram) ((t.mem (if p.dram then .dram else .sram)).clear p.base (p.buffers * p.bufSize))
    else t) t
  s.queues.entries.foldl (fun t e =>
    if ((s.jobs.find e.2.job).map (·.desc.hedge)) = some h then t.setMem .dram (t.dram.clear e.2.base (s.queueDepth e.1)) else t) t

/-- The image of a hedge is unloaded. -/
def State.unloadImage (s : State) (h : Nat) (im : Image) : State :=
  let t := if s.confidential h then s.zeroHedge h im else s
  let t := (s.slotsOf h).foldl (fun t n => t.dropJob n) t
  let t := s.claims.foldl (fun t c => t.endClaim h c) t
  let t := ((im.bound ++ im.reserve).flatMap (·.2)).foldl (fun t k => t.freeKennel k) t
  let mine := (s.pools.entries.filter fun e => e.2.hedge = h).map (·.1)
  let t := mine.foldl (fun t k => t.clearRegs (Reg.POOL_CFG k) (Reg.POOL_CFG k + 0x40)) t
  let t := { t with
    claims := t.claims.filter fun c => c.owner ≠ h
    pools := t.pools.keep fun _ p => p.hedge ≠ h
    contexts := t.contexts.keep fun _ c => c.hedge ≠ h
    text := { t.text with masks := t.text.masks.filter fun e => e.hedge ≠ h }
    restarting := t.restarting.filter fun g => g.1 ≠ h
    reloading := t.reloading.filter fun g => g.1 ≠ h
    images := t.images.erase h }
  let t := t.showDigest h (List.replicate 32 0)
  let t := if h = 0 && t.images.entries.isEmpty then
      { t with partition := Partition.reset, security := { t.security with partitionDigest := [] } }
    else t
  t.settleImages

/-- An unload ends. -/
def State.unloadDone (s : State) (h : Nat) : State :=
  match s.images.find h with
  | none => s.loadEnd (some (plainError ENL_ERR_HEDGE))
  | some im =>
    if (s.slotsOf h).any fun n => s.jobState n = jobReady || s.jobActive n then s.loadEnd (some (plainError ENL_ERR_BUSY))
    else (s.unloadImage h im).loadEnd none

/-- UNLOAD_COMPLETE (R55). -/
def execUnloadComplete (s : State) : Host.Outcome State Fault Refusal :=
  act (fun s => match s.loadOp with
    | some o => if o.op = 2 then s.unloadDone o.hedge else s
    | none => s) s

end Sys2Proof.Machine
end

