-- ==== Sys2Proof/Machine/Jobs.lean ====
section
/-! DEFINITION. Jobs: ACCEPT with its checks, START, STOP, ABORT, CLEAR and the ends of a run (R57, R58, R93 to R95,
R172, R186, R209, R240, R330). -/

namespace Sys2Proof.Machine

/-- Codes of Table 12-5 that START and ENABLE report. -/
def ST_FLT_ROSTER : Nat := 0x00B1
def ST_FLT_SETUP : Nat := 0x00B0

/-! ### ACCEPT (R57) -/

/-- Resources of a type that an image claims. -/
def Image.claimed (im : Image) (rtype : Nat) : List Nat := (im.claims.filter fun c => c.rtype = rtype).flatMap Claim.resources

/-- What ACCEPT's shard checks see (R95). -/
def State.shardWorld (s : State) (h : Nat) (im : Image) : ShardWorld where
  namespaces := ((im.claimed 0x09).filter s.nsPresent).map fun n => (n, s.bit (Reg.FTL_NS_STATE n) Fld.FTL_NS_STATE_ENCRYPT, s.nsSize n)
  nsClaimed := im.claimed 0x09
  ctxClaimed := (im.claims.filter fun c => c.rtype = 0x07).map fun c => (c.index, c.count)
  keys := (s.security.keys.keys.filter fun k => s.mayUseKey h k 0)

/-- Does a destination entry name an enabled port, a sub-port that it has, and a class that its gate control list
opens at some time (R240)? -/
def State.destOk (s : State) (d : DestEntry) : Bool :=
  s.portEnabled d.port && d.sub < s.portSubs d.port &&
    (match (s.port d.port).gate with
    | some g => everOpen d.tclass g.list.entries g.list.cycleNs
    | none => true)

/-- Code of the first rule of R240 that a delivery map breaks for a hedge, or ST_OK. -/
def State.mapCheck (s : State) (h : Nat) (b : Bytes) (len : Nat) : Nat :=
  let m := deliveryMapOf b
  if !deliveryMapFormatOk b len then ST_DLV_FORMAT
  else if !(match s.contexts.find m.context with
      | some c => c.hedge = h && c.keySource = 0 && c.job.isNone
      | none => false) then ST_DLV_CONTEXT
  else if !s.mayUseKey h m.keyId 2 then ST_DLV_KEY
  else if !m.dests.all s.destOk then ST_DLV_PORT
  else ST_OK

/-- A manifest as ACCEPT reads it: of one whose header or length breaks R93, the header only. -/
def State.readManifest (s : State) (d : JobDesc) : Bytes :=
  let head := s.readMem .host d.manifestAddr 64
  if manifestFormatOk head d.manifestLen then s.readMem .host d.manifestAddr d.manifestLen else head

/-- A delivery map as ACCEPT reads it: of one whose length its header does not give, the header only. -/
def State.readMap (s : State) (d : JobDesc) : Bytes :=
  let head := s.readMem .host d.deliveryAddr 64
  if d.deliveryLen = mapAddrsAt head + 32 * fieldAt head 0xA 2 then s.readMem .host d.deliveryAddr d.deliveryLen else head

/-- A stream of a rank before its first position (R171). -/
def Job.newStream (j : Job) (rank queue : Nat) (r : Resume) (next : Option Cursor) : Stream where
  rank := rank
  queue := queue
  next := next
  window := []
  deferred := []
  late := []
  ending := none
  packer := { Packer.new with indexes := [(r.cursor.epoch, r.index)] }
  ordinal := r.ordinal
  floor := r.ordinal
  recompute := r.ordinal
  base := r.ordinal
  deliveries := (j.map.destsOf rank).map fun _ => { Delivery.idle with ordinal := r.ordinal }
  skip := if r.held then some (r.docPos, r.docToken) else none
  resume := r.bytes
  done := false

/-- Number that stands for no queue, for a job whose graph has no PACK. -/
def noQueue : Nat := 1024

/-- The registers of a slot as ACCEPT leaves them (R62, R130, R166, R197, R250, R378): its counters are cleared. -/
def State.clearJobRegs (s : State) (slot : Nat) : State :=
  let t := s.clearRegs (Reg.DEC_DMG_HEAD slot) (Reg.DEC_DMG_BASE slot + 0x40)
  let t := t.clearRegs (Reg.TOK_TOKENS slot) (Reg.TOK_TOKENS slot + 0x40)
  let t := t.clearRegs (Reg.PBQ_JOB_DROPPED slot) (Reg.PBQ_JOB_DROPPED slot + 0x40)
  let t := t.clearRegs (Reg.PLT_JOB_BYTES slot) (Reg.PLT_JOB_BYTES slot + 0x40)
  let t := (t.clearReg (Reg.PWR_JOB_ENERGY slot)).clearReg (Reg.ENL_JOB_BATCHES slot)
  { t with sheep := { t.sheep with energy := t.sheep.energy.erase slot, sampled := t.sheep.sampled.erase (Reg.PWR_JOB_ENERGY slot) } }

/-- Give a job a stream for a rank that starts at a resume record. -/
def State.addStream (s : State) (slot rank queue : Nat) (r : Resume) (next : Option Cursor) : State :=
  (s.adjustJob slot fun j => { j with streams := j.streams ++ [j.newStream rank queue r next] }).showCursor slot rank r.cursor

/-- Allocate the queues of every rank of a job, each with its stream (R172); a graph without PACK has no queue. -/
def State.allocAll (s : State) (slot : Nat) (j : Job) (hasPack : Bool) : Except Nat State :=
  if 256 < j.ranks then .error ST_PBQ_QUEUES
  else if hasPack && ((List.range 1024).filter fun q => (s.queues.find q).isNone).length < j.ranks then .error ST_PBQ_QUEUES
  else (List.range j.ranks).foldl (fun (acc : Except Nat State) rank => do
    let t ← acc
    if hasPack then
      let (u, q) ← t.allocQueue slot rank
      .ok (u.addStream slot rank q (u.resumeStart slot rank) none)
    else .ok (t.addStream slot rank noQueue (t.resumeStart slot rank) none)) (.ok s)

/-- Bind the delivery context of a job (R240); the generations of the hedge's buffers are 1 at ACCEPT (R236, log entry
29). -/
def State.bindContext (s : State) (slot h : Nat) (m : DeliveryMap) : State :=
  { s with contexts := s.contexts.mapVals fun i c =>
      let c := if i = m.context then { c with job := some slot, jobEpoch := m.jobEpoch, keyId := m.keyId } else c
      if c.hedge = h then { c with buffers := c.buffers.map fun b => { b with generation := 1 } } else c }

/-- START_LBA of the log region of a job's STORE stage (R321). -/
def State.startLog (s : State) (slot : Nat) (im : Image) : State :=
  match im.stageOfKind kindStore with
  | some st => s.setFld (Reg.FTL_JOB_STORE_LBA slot) Fld.FTL_JOB_STORE_LBA_LBA (fieldAt (im.table st.table) 8 8)
  | none => s

/-- A job as ACCEPT makes it. -/
def newJob (d : JobDesc) (m : Manifest) (dm : DeliveryMap) : Job where
  desc := d
  manifest := m
  map := dm
  streams := []
  indexes := []
  models := []
  gens := Tab.empty
  live := Tab.empty
  regions := []
  store := []
  faults := Tab.empty
  starting := false
  exhausted := false

/-- The checks of ACCEPT, in order, and the slot READY; or the code (R57, R93 to R95, R172, R240). A hedge
without an image is found before a bad descriptor, an order that the spec leaves open (DESIGN CHOICE, log entry 51). -/
def State.acceptJob (s : State) (slot : Nat) : Except Nat State := do
  let b := s.readMem .host (s.reg (Reg.ENL_JOB_DESC slot)).toNat 128
  let d := jobDescOf b
  match s.images.find d.hedge with
  | none => .error ST_JOB_NO_IMAGE
  | some im =>
    if !jobDescOk b || (s.jobs.vals.any fun j => j.desc.jobId = d.jobId) then .error ST_JOB_BAD_DESC else
    let mb := s.readManifest d
    let mc := manifestCheck (s.shardWorld d.hedge im) mb d.manifestLen
    if mc ≠ ST_OK then .error mc else
    let m := manifestOf mb
    if m.total ≤ d.startPosition then .error ST_JOB_BAD_DESC else
    let dmb := s.readMap d
    let dc := s.mapCheck d.hedge dmb d.deliveryLen
    if dc ≠ ST_OK then .error dc else
    let dm := deliveryMapOf dmb
    let j := newJob d m dm
    let t := { s with jobs := s.jobs.insert slot j }
    let t ← if dm.fleet then .ok t else t.allocAll slot j (im.stageOfKind kindPack).isSome
    let t := ((t.clearJobRegs slot).forgetMessages slot).bindContext slot d.hedge dm
    let t := (t.startLog slot im).setFld (Reg.ENL_JOB_EPOCH slot) Fld.ENL_JOB_EPOCH_EPOCH d.startEpoch
    .ok (t.setJobState slot jobReady ST_OK)

/-- ACCEPT on a slot. -/
def State.accept (s : State) (slot : Nat) : State :=
  if s.jobState slot ≠ jobEmpty then s.setJobCode slot ST_JOB_STATE
  else match s.acceptJob slot with
    | .ok t => t
    | .error code => s.setJobCode slot code

/-- A command written to ENL_JOB_CTRL; the Heel sessions follow. -/
def jobCommand (slot : Fin 64) (f : State → State) (s : State) : Host.Outcome State Fault Refusal :=
  hostAct (Reg.ENL_JOB_CTRL slot) (fun s => (f s).heelSettle) s

/-- ACCEPT (R57, R58). -/
def execAccept (slot : Fin 64) (s : State) : Host.Outcome State Fault Refusal := jobCommand slot (fun s => s.accept slot) s

/-! ### START (R58) -/

/-- EPOCHS used up: a RUNNING job with nothing left to assign passes to DRAINING without a command. -/
def State.settleExhausted (s : State) (slot : Nat) : State :=
  match s.jobs.find slot with
  | none => s
  | some j =>
    if s.jobState slot = jobRunning && !j.streams.isEmpty && j.streams.all fun st => st.next.isNone then
      (s.adjustJob slot fun j => { j with exhausted := true }).setJobState slot jobDraining ST_OK
    else s

/-- A job that begins to run with a stage below MIN_KENNELS, counting groups that are being reloaded, or with a stage
whose engines are all retired, halts (R60, R123; DEDUCED for a loss before START, log entry 45). -/
def State.haltUnserved (s : State) (slot : Nat) : State :=
  match s.jobs.find slot, s.jobImage slot with
  | some j, some im =>
    let reloads := fun (st : Stage) => (s.reloading.filter fun r => r.1 = j.desc.hedge && r.2.1 = st.id).length
    let low := im.stages.any fun st => (assocList im.bound st.id).length + st.group * reloads st < st.minKennels
    let gone := im.stages.any fun st =>
      let es := assocList im.engines st.id
      !es.isEmpty && es.all fun e => s.retired.contains (st.engineClass, e)
    if low then s.haltJob slot ST_JOB_KENNELS else if gone then s.haltJob slot ST_JOB_ENGINES else s
  | _, _ => s

/-- A job begins to run: positions are assigned from where each rank stands. -/
def State.beginRun (s : State) (slot : Nat) : State :=
  match s.jobs.find slot with
  | none => s
  | some j =>
    let next := fun (st : Stream) =>
      let r := resumeOf st.resume
      if r.done then none else s.rankCursor slot st.rank r.cursor
    let t := s.adjustJob slot fun j =>
      { j with starting := false, exhausted := false, streams := j.streams.map fun st => { st with next := next st } }
    let t := t.setFld (Reg.ENL_JOB_EPOCH slot) Fld.ENL_JOB_EPOCH_EPOCH j.desc.startEpoch
    ((t.setJobState slot jobRunning ST_OK).haltUnserved slot).settleExhausted slot

/-- The numbers of the layout of R199: R, START_EPOCH, START_POSITION and EPOCHS, little-endian as in the spec's tables (DESIGN
CHOICE, log entry 30: the rule gives neither byte order nor widths). -/
def Job.layout (j : Job) : Bytes :=
  leBytes 2 j.ranks ++ leBytes 4 j.desc.startEpoch ++ leBytes 8 j.desc.startPosition ++ leBytes 4 j.desc.epochs

/-- The resume records that a job is started from, the rest of its layout (R199): those of streams that do not stand at the
job's own start. -/
def State.resumeRecords (s : State) (slot : Nat) (j : Job) : List Bytes :=
  (j.streams.filter fun st => st.resume ≠ (s.resumeStart slot st.rank).bytes).map (·.resume)

/-- The pin link of a session has its pins (R385). -/
def State.heelPinsOk (s : State) (k h : Nat) : Bool :=
  let held := fun (i f : Nat) => match s.board.pins[i]? with
    | some p => p.function = f && (p.owner = h || p.owner = ownerManagement)
    | none => false
  held (s.fld (Reg.HEEL_LINKSEL k) Fld.HEEL_LINKSEL_PIN_OUT) 0x04 && held (s.fld (Reg.HEEL_LINKSEL k) Fld.HEEL_LINKSEL_PIN_IN) 0x05

/-- What the setup digests cover: image digest ‖ SEED ‖ manifest digest ‖ DCLASS (R209, R328). -/
def State.setupInput (s : State) (j : Job) : Bytes :=
  ((s.images.find j.desc.hedge).map (·.digest)).getD [] ++ j.desc.seed ++ j.manifest.digest ++
    leBytes 4 (s.fld Reg.HEEL_DCLASS Fld.HEEL_DCLASS_CLASS)

/-- The setup record of a session (R209, log entry 30): the digest, the batch policy, GATE, STAGES, whether the job varies, the
role, then the layout with its resume records. -/
def State.setupRecord (s : State) (k slot : Nat) (j : Job) : Bytes :=
  let o := s.orderTable slot
  sha256 (s.setupInput j) ++ [BitVec.ofNat 8 o.policy, BitVec.ofNat 8 (s.fld (Reg.HEEL_CTRL k) Fld.HEEL_CTRL_GATE),
    BitVec.ofNat 8 (s.fld (Reg.HEEL_CTRL k) Fld.HEEL_CTRL_STAGES), BitVec.ofNat 8 (s.jobVaries slot).toNat,
    BitVec.ofNat 8 (s.fld (Reg.HEEL_CTRL k) Fld.HEEL_CTRL_ROLE)] ++ j.layout ++
    leBytes 2 (s.resumeRecords slot j).length ++ (s.resumeRecords slot j).flatten

/-- Offsets in a setup record of whether the job varies, and of the role. -/
def setupVaries : Nat := 35
def setupRole : Nat := 36

/-- Compare two setup records: ST_OK, or the code with which START fails (R209). Zeros may follow the peer's record, up to
the end of its last message. -/
def setupCode (own received : Bytes) : Nat :=
  let peer := received.take own.length
  if fieldAt own setupVaries 1 = 1 || fieldAt peer setupVaries 1 = 1 then ST_HEEL_VARIES
  else if own.take setupVaries ≠ peer.take setupVaries || own.drop (setupRole + 1) ≠ peer.drop (setupRole + 1) ||
      fieldAt own setupRole 1 = fieldAt peer setupRole 1 then ST_HEEL_SETUP
  else ST_OK

/-- START fails in Heel's setup: the job stays READY with the code in both status registers. -/
def State.setupFailed (s : State) (k slot code : Nat) : State :=
  let t := s.adjustJob slot fun j => { j with starting := false }
  let t := (t.setHeel k { t.heelSession k with setupSent := none, setupGot := none }).setHeelState k heelIdle
  (t.setHeelCode k code).setJobCode slot code

/-- Both setup records are there: the session pairs and the job runs, or START fails. -/
def State.setupBoth (s : State) (k slot : Nat) : State :=
  let x := s.heelSession k
  match x.setupSent, x.setupGot with
  | some own, some peer =>
    let code := setupCode own peer
    if code ≠ ST_OK then s.setupFailed k slot code
    else
      let t := s.setHeel k { x with setupSent := none, setupGot := none }
      ((t.setHeelState k heelPaired).setHeelCode k ST_OK).beginRun slot
  | _, _ => s

/-- DRAM_CLAIM of a record that no image claims. -/
def noDramClaim : Nat := 0xFFFF_FFFF

/-- A context that only a Heel session claims (R231): its record has the job's key and no buffer (log entry 39). -/
def State.heelClaim (s : State) (k slot : Nat) (j : Job) : State :=
  let ctx := s.fld (Reg.HEEL_LINKSEL k) Fld.HEEL_LINKSEL_CONTEXT
  if s.bit (Reg.HEEL_CTRL k) Fld.HEEL_CTRL_LINK || (s.contexts.find ctx).isSome then s
  else { s with contexts := s.contexts.insert ctx {
    hedge := j.desc.hedge, keySource := 0, flags := 0, keyId := j.map.keyId, filterLog2 := 10, tclass := 0
    dramClaim := noDramClaim, onChip := s.onChipCount < 4096, stamp := s.clock, fetching := false, job := some slot
    jobEpoch := j.map.jobEpoch, buffers := [], filter := [], phases := Tab.empty, toAck := Tab.empty, cameOn := Tab.empty
    partialImm := [], posted := [], senders := [], trips := Tab.empty, reports := [], reads := [] } }

/-- START with a Heel session (R207, R209, R385): the setup record goes to the peer, wherever the link is there; then START fails
at once where the own job varies, and under STAGES on a pin link. -/
def State.startHeel (s : State) (k slot : Nat) (j : Job) : State :=
  let pins := s.bit (Reg.HEEL_CTRL k) Fld.HEEL_CTRL_LINK
  if pins && !s.heelPinsOk k j.desc.hedge then s.setupFailed k slot ST_HEEL_SETUP
  else
    let r := s.setupRecord k slot j
    let s := s.dropKept k fun _ => true
    let fresh := { s.heelSession k with
      ended := false, ownBatch := [], peerBatch := [], ownStage := [], peerStage := [], blocks := [], closed := [], mismatches := [], locate := none }
    let t := (((s.heelClaim k slot j).setHeel k fresh).adjustJob slot fun j => { j with starting := true }).heelSend k heelSetup 0 0 0 r
    let t := (t.setHeel k { t.heelSession k with setupSent := some r }).setHeelState k heelWaitPeer
    if s.jobVaries slot then t.setupFailed k slot ST_HEEL_VARIES
    else if pins && s.bit (Reg.HEEL_CTRL k) Fld.HEEL_CTRL_STAGES then t.setupFailed k slot ST_HEEL_SETUP
    else t.setupBoth k slot

/-- Everything but the fleet allows a START: the queues must fit (R194), then Heel pairs. -/
def State.startNow (s : State) (slot : Nat) : State :=
  match s.jobs.find slot with
  | none => s
  | some j =>
    let placed : Except Nat State := if (s.queues.vals.any fun q => q.job = slot) then s.placeQueues slot else .ok s
    match placed with
    | .error code => (s.adjustJob slot fun j => { j with starting := false }).setJobCode slot code
    | .ok t =>
      match t.heelOf slot with
      | some k => t.startHeel k slot j
      | none => t.beginRun slot

/-- START (R58, R328, R330): a fleet job needs an enabled fleet, is ignored when its JOIN was refused, and waits for
the first roster, except on the manager. -/
def State.start (s : State) (slot : Nat) : State :=
  match s.jobs.find slot with
  | none => s.setJobCode slot ST_JOB_STATE
  | some j =>
    if s.jobState slot ≠ jobReady then s.setJobCode slot ST_JOB_STATE
    else if j.starting then s
    else if !j.map.fleet then s.startNow slot
    else if !s.inFleet slot then s.setJobCode slot ST_FLT_SETUP
    else if s.fleet.refused then s
    else if s.fleet.roster.isNone then s.adjustJob slot fun j => { j with starting := true }
    else s.startNow slot

/-- START (R58). -/
def execStart (slot : Fin 64) (s : State) : Host.Outcome State Fault Refusal := jobCommand slot (fun s => s.start slot) s

/-! ### The ends of a run -/

/-- STOP (R58, R185): no new position is assigned, and each stream closes its open batch once what it holds is
released. -/
def State.stop (s : State) (slot : Nat) : State :=
  if s.jobState slot ≠ jobRunning then s.setJobCode slot ST_JOB_STATE
  else
    let t := s.adjustJob slot fun j => { j with streams := j.streams.map fun st => { st with next := none } }
    (t.setJobState slot jobDraining ST_OK).flowJob slot

/-- STOP (R58). -/
def execStop (slot : Fin 64) (s : State) : Host.Outcome State Fault Refusal := jobCommand slot (fun s => s.stop slot) s

/-- Empty the queues of a job. -/
def State.emptyQueues (s : State) (slot : Nat) : State :=
  (s.queues.entries.filter fun e => e.2.job = slot).foldl (fun t e => t.emptyQueue e.1) s

/-- Samples in flight, windows, deferred samples and open batches of a job are discarded (R186). -/
def State.discardWork (s : State) (slot : Nat) : State :=
  let t := { s with items := s.items.filter fun it => it.slot ≠ slot }
  t.adjustJob slot fun j => { j with
    store := []
    streams := j.streams.map fun st =>
      { st with next := none, window := [], deferred := [], late := [], ending := none, packer := Packer.new, skip := none } }

/-- ABORT (R58, R186): STOPPED at once. -/
def State.abort (s : State) (slot : Nat) : State :=
  if !s.jobActive slot then s.setJobCode slot ST_JOB_STATE
  else
    let t := ((s.discardWork slot).emptyQueues slot).adjustJob slot fun j => { j with exhausted := false }
    t.setJobState slot jobStopped ST_OK

/-- ABORT (R186). -/
def execAbort (slot : Fin 64) (s : State) : Host.Outcome State Fault Refusal := jobCommand slot (fun s => s.abort slot) s

/-- CLEAR (R58): a READY, STOPPED or HALTED slot becomes EMPTY. -/
def State.clearSlot (s : State) (slot : Nat) : State :=
  let st := s.jobState slot
  if st = jobReady || st = jobStopped || st = jobHalted then s.dropJob slot else s.setJobCode slot ST_JOB_STATE

/-- CLEAR (R58). -/
def execClear (slot : Fin 64) (s : State) : Host.Outcome State Fault Refusal := jobCommand slot (fun s => s.clearSlot slot) s

/-- Is an item one that PACK has taken and the cores of its stage have not yet released (R83)? -/
def State.packedItem (s : State) (it : Item) : Bool :=
  it.done && ((s.jobImage it.slot).map fun im => decide (im.stageKind it.stage = kindPack)).getD false

/-- Is everything that a DRAINING job was assigned finished, packed and delivered? -/
def State.drained (s : State) (slot : Nat) : Bool :=
  match s.jobs.find slot with
  | none => false
  | some j =>
    (j.streams.all fun st => st.packed) && j.store.isEmpty && (s.items.all fun it => it.slot ≠ slot || s.packedItem it) &&
      s.queues.vals.all fun q => q.job ≠ slot || q.entries.all fun e => e.refs = 0

/-- DRAIN_COMPLETE (R58). -/
def State.drainComplete (s : State) (slot : Nat) : State :=
  if s.jobState slot = jobDraining && s.drained slot then s.setJobState slot jobStopped ST_OK else s

/-- DRAIN_COMPLETE (R58). -/
def execDrainComplete (slot : Fin 64) (s : State) : Host.Outcome State Fault Refusal := jobAct (fun s => s.drainComplete slot) s

end Sys2Proof.Machine
end

