-- ==== Sys2Proof/Machine/Samples.lean ====
section
/-! DEFINITION. Samples on their way through the stage graph: where a sample stands, how a stage hands it on, when it
completes, and how damage is recorded (R98 to R101, R118, R120, R179). -/

namespace Sys2Proof.Machine

/-! ### Where a sample stands -/

/-- Position of a sample, by slot, epoch and position. -/
structure SampleKey where
  slot : Nat
  epoch : Nat
  position : Nat
deriving DecidableEq, Repr

/-- The sample of an item. -/
def Item.key (it : Item) : SampleKey := ⟨it.slot, it.epoch, it.position⟩

/-- The rank of a position of a job (R171). -/
def State.rankOf (s : State) (k : SampleKey) : Nat :=
  streamOf (s.orderTable k.slot).deal (((s.jobs.find k.slot).map (·.ranks)).getD 1) k.position

/-- Is a place that of a sample? -/
def Place.is (p : Place) (k : SampleKey) : Bool := p.epoch = k.epoch && p.position = k.position

/-- The place of a sample, in its window or among the deferred ones. -/
def State.place (s : State) (k : SampleKey) : Option Place :=
  ((s.jobs.find k.slot).bind fun j => j.stream (s.rankOf k)).bind fun st => (st.window ++ st.deferred).find? fun p => p.is k

/-- Change the place of a sample. -/
def State.adjustPlace (s : State) (k : SampleKey) (f : Place → Place) : State :=
  let g := fun (p : Place) => if p.is k then f p else p
  s.adjustJob k.slot fun j => j.adjustStream (s.rankOf k) fun st =>
    { st with window := st.window.map g, deferred := st.deferred.map g }

/-- Change what is known of a sample. -/
def State.adjustFacts (s : State) (k : SampleKey) (f : SampleFacts → SampleFacts) : State :=
  s.adjustPlace k fun p => { p with facts := f p.facts }

/-- What is known of a sample at its beginning. -/
def SampleFacts.new : SampleFacts := ⟨0, 0, none, [], none, none, 0, none, none⟩

/-- Items of a sample that a stage has still to emit. -/
def State.itemsOf (s : State) (k : SampleKey) : List Item := s.items.filter fun it => it.key = k && !it.done

/-- Is an item the one that a reference names? -/
def Item.is (it : Item) (r : ItemRef) : Bool :=
  it.slot = r.slot.val && it.stage = r.stage && it.epoch = r.epoch && it.position = r.position

/-- The item that a command names, which no core holds: the oldest one. -/
def State.item (s : State) (r : ItemRef) : Option Item := s.items.find? fun it => it.is r && it.core.isNone

/-- Take one item out. -/
def State.takeItem (s : State) (it : Item) : State := { s with items := s.items.erase it }

/-- An item is replaced where it stands. -/
def State.putItem (s : State) (it it2 : Item) : State := { s with items := s.items.map fun x => if x = it then it2 else x }

/-! ### Payloads -/

/-- The samples of a plane, one byte each, or two bytes little-endian above 8 bits. -/
def Plane.bytes (depth : Nat) (p : Plane) : Bytes := p.px.toList.flatMap fun v => leBytes (if depth ≤ 8 then 1 else 2) v

/-- The planes of a picture in order. -/
def Picture.bytes (p : Picture) : Bytes := p.planes.flatMap (Plane.bytes p.depth)

/-- The samples of a decoded frame plane by plane, as `Plane.bytes` gives them. -/
def frameBytesOf (f : VideoFrame) : Bytes :=
  f.planes.flatMap fun p => p.2.2.flatMap fun v => leBytes (if f.bitDepth ≤ 8 then 1 else 2) v

/-- The bytes of a payload. -/
def Payload.toBytes : Payload → Bytes
  | .nothing => []
  | .stored c _ => c
  | .bytes b => b
  | .picture p => p.bytes
  | .frames fs => fs.flatMap frameBytesOf

/-- A payload as an output, where it has one. -/
def Payload.output : Payload → Option Bytes
  | .nothing => none
  | p => some p.toBytes

/-! ### Damage (R118) -/

/-- A damage record (Table 4-10). -/
def damageRecord (position sample stage : Nat) (d : Damage) : Bytes :=
  leBytes 8 position ++ leBytes 8 sample ++ leBytes 4 d.byteOffset ++ leBytes 2 stage ++ leBytes 1 d.code ++ leBytes 1 d.unit ++
    leBytes 4 d.frame ++ leBytes 2 d.unitX ++ leBytes 2 d.unitY

/-- Write a record to a job's damage log, or count it as lost (R118, R130): of the interrupts of all logs together at most one
is raised in 100 µs. A log that is disabled takes no record (log entry 31). -/
def State.logDamage (s : State) (slot : Nat) (record : Bytes) : State :=
  let base := (s.reg (Reg.DEC_DMG_BASE slot)).toNat
  let size := 2 ^ s.fld (Reg.DEC_DMG_SIZE slot) Fld.DEC_DMG_SIZE_LOG2
  let head := s.fld (Reg.DEC_DMG_HEAD slot) Fld.DEC_DMG_HEAD_HEAD
  let used := (head + 2 ^ 32 - s.fld (Reg.DEC_DMG_TAIL slot) Fld.DEC_DMG_TAIL_TAIL) % 2 ^ 32
  if base = 0 then s
  else if size ≤ used then s.bumpSat (Reg.DEC_DMG_LOST slot) Fld.DEC_DMG_LOST_LOST
  else
    let t := s.writeMem .host (base + 32 * (head % size)) record
    (t.setFld (Reg.DEC_DMG_HEAD slot) Fld.DEC_DMG_HEAD_HEAD (head + 1)).raiseCoalesced 0 3

/-- A stage finds damage in a sample: the first that it finds there is recorded, and a sample with its first record
is counted in DEC_DAMAGED. -/
def State.damage (s : State) (it : Item) (d : Damage) : State :=
  let record := damageRecord it.position it.sample it.stage d
  match s.place it.key with
  | none =>
    -- found on another branch after the sample was released
    let t := if isCorrupt it.flags || hasFlag it.flags flagConcealed then s else s.bump (Reg.DEC_DAMAGED it.slot) Fld.DEC_DAMAGED_COUNT
    t.logDamage it.slot record
  | some p =>
    if p.facts.damagedAt.contains it.stage then s
    else
      let t := if p.facts.damagedAt.isEmpty then s.bump (Reg.DEC_DAMAGED it.slot) Fld.DEC_DAMAGED_COUNT else s
      let t := t.adjustFacts it.key fun f => { f with damagedAt := it.stage :: f.damagedAt }
      t.logDamage it.slot record

/-- A stage finds damage for which the spec states no byte offset: it is a constant of Config applied to what the stage received. -/
def State.damageFree (s : State) (it : Item) (code : Nat) : State :=
  s.damage it (damageAt code (Config.damageOffset code it.payload.toBytes % 2 ^ 32))

/-- An item with a flag set. -/
def Item.flag (it : Item) (f : Nat) : Item := { it with flags := setFlags it.flags f }

/-- An item that is UNDECODABLE and has no output. -/
def Item.undecodable (it : Item) : Item := { it.flag flagUndecodable with payload := .nothing, pieces := [] }

/-! ### Handing on (R35, R99, R179) -/

/-- Is a stage one after which units may be split: SOURCE, DECOMPRESS, or a CRYPT that decrypts (R99, R125)? -/
def Image.maySplit (im : Image) (st : Stage) : Bool :=
  st.kind = kindSource || st.kind = kindDecompress || (st.kind = kindCrypt && fieldAt (im.table st.table) 0 1 = 0)

/-- Can a stage reach another of them along the edges? `fuel` bounds the path. -/
def Image.reachesSplit (im : Image) : (fuel id : Nat) → Bool
  | 0, _ => false
  | n + 1, id =>
    (im.edges.filter fun e => e.fromStage = id).any fun e =>
      ((im.stage e.toStage).map im.maySplit).getD false || im.reachesSplit n e.toStage

/-- Does a stage split units into members: is it the last CRYPT, DECOMPRESS or SOURCE on its paths (R99)? -/
def Image.splits (im : Image) (st : Stage) : Bool := im.maySplit st && !im.reachesSplit im.stages.length st.id

/-- The lowest connected output port of a stage. -/
def Image.lowPort (im : Image) (id : Nat) : Nat := (im.outPorts id).headD 0

/-- A sample's output arrives at PACK: of several members the one with the lowest input port, then the lowest member
port, is the output, and later pieces of one with the same ports follow it (R99, R179, log entry 32). -/
def SampleFacts.arrive (f : SampleFacts) (it : Item) : SampleFacts :=
  let f := { f with flags := setFlags f.flags it.flags }
  let k := 8 * it.port + it.member
  match it.payload.output, f.output with
  | none, _ => f
  | some b, none => { f with output := some b, outKey := k }
  | some b, some old =>
    if k < f.outKey then { f with output := some b, outKey := k }
    else if k = f.outKey then { f with output := some (old ++ b) }
    else f

/-- Does a DECODE stage take its region lists from the accelerator: REGION_ACCEL of its table (Table 4-14)? -/
def Image.regionAccel (im : Image) (id : Nat) : Bool := natBit (fieldAt (im.stageTable id) 1 1) 2

/-- An item arrives at the stage and port that an edge names. -/
def State.arrive (s : State) (im : Image) (it : Item) (target : Nat × Nat) : State :=
  let x := { it with stage := target.1, port := target.2, core := none, frame := 0, concealed := 0, emitted := [], done := false }
  let kind := im.stageKind target.1
  if kind = kindPack then s.adjustFacts it.key fun f => f.arrive x
  else if kind = kindStore then
    let t := s.adjustFacts it.key fun f => { f with flags := setFlags f.flags it.flags }
    match it.payload.output with
    | some b => t.adjustJob it.slot fun j => { j with store := j.store ++ [(target.1, 2, b)] }
    | none => t
  else if kind = kindDeliver then s.adjustFacts it.key fun f => { f with flags := setFlags f.flags it.flags }
  else if kind = kindDecode && target.2 = 1 then
    -- a list from a core program counts where the table does not name the accelerator as the source (R114)
    if im.regionAccel target.1 then s else
    s.adjustJob it.slot fun j =>
      { j with regions := j.regions ++ [(target.1, fieldAt x.payload.toBytes 0 8, fieldAt x.payload.toBytes 8 4, x.payload.toBytes)] }
  else { s with items := s.items ++ [x] }

/-- A stage emits an item on a port: of several edges of one port, each sample takes one, and which is a constant of Config
applied to the stage, the port and the sample (R15, R35, R83, log entry 32). What no edge takes leaves its flags with the sample. -/
def State.emit (s : State) (im : Image) (it : Item) (port : Nat) : State :=
  match im.feeds it.stage port with
  | [] => s.adjustFacts it.key fun f => { f with flags := setFlags f.flags it.flags }
  | [e] => s.arrive im it e
  | e :: es => s.arrive im it ((e :: es).getD (Config.edgeChoice it.stage port it.epoch it.position % (es.length + 1)) e)

/-- Items of a sample that some stage on the way to PACK has still to emit; those of a branch that does not lead there hold
its release back only in a graph that has no PACK (R179). -/
def State.heldBack (s : State) (k : SampleKey) : Bool :=
  match (s.jobImage k.slot).bind fun im => (im.stageOfKind kindPack).map fun st => (im, st) with
  | some (im, st) => (s.itemsOf k).any fun it => im.leadsTo im.stages.length it.stage st.id
  | none => !(s.itemsOf k).isEmpty

/-- A sample that no stage before PACK handles any more is complete: its place in the window is, or as a deferred one it
joins those that wait for release (R179, R184). -/
def State.completeSample (s : State) (k : SampleKey) : State :=
  if (s.place k).isNone then s.heelReleased k.slot k.epoch k.position
  else if s.heldBack k then s
  else
    let r := s.rankOf k
    let t := s.adjustJob k.slot fun j => j.adjustStream r fun st =>
      { st with
        window := st.window.map fun p => if p.is k then { p with complete := true } else p
        deferred := st.deferred.filter fun p => !p.is k
        late := st.late ++ (st.deferred.filter fun p => p.is k).map fun p => { p with complete := true } }
    t.flowRank k.slot r

/-- The ports that order a piece of a stage's output for a sample: the input port and the member of the item, then the output port. -/
def Item.pieceKey (it : Item) (port : Nat) : Nat := 64 * it.port + 8 * it.member + port

/-- A stage emits outputs of an item, each on its port, and Heel hears of them (R211). -/
def State.emitAll (s : State) (im : Image) (it : Item) (outs : List (Nat × Item)) : State :=
  let t := outs.foldl (fun (t : State) (o : Nat × Item) => t.emit im o.2 o.1) s
  t.heelEmitted it.slot it.stage it.epoch it.position
    (outs.map fun (o : Nat × Item) => (it.pieceKey o.1, o.2.flags, o.2.payload.toBytes))

/-- A stage is done with an item: it hands on what it emits, and the sample may be complete. -/
def State.handOn (s : State) (im : Image) (it : Item) (outs : List (Nat × Item)) : State :=
  ((s.takeItem it).emitAll im it outs).completeSample it.key

/-- The routing table of a splitting stage (R124). -/
def Image.routing (im : Image) (st : Stage) : Option Bytes :=
  let i := if st.kind = kindSource then fieldAt (im.table st.table) 0x10 4
    else if st.kind = kindCrypt then fieldAt (im.table st.table) 8 4
    else fieldAt (im.table st.table) 4 4
  if i = noIndex then none else (im.tables[i]?).map (·.body)

/-- CONTAINER of the shard that holds a sample. -/
def Job.shardOf (j : Job) (sample : Nat) : Option (Nat × Shard) := j.manifest.shardOf sample

/-- What a stage emits of the bytes of a sample: split into members where it splits them (R99, R100). A container
fault damages the sample. -/
def State.splitOuts (s : State) (im : Image) (st : Stage) (it : Item) : State × List (Nat × Item) :=
  if hasFlag it.flags flagUndecodable || it.payload = .nothing then (s, [(im.lowPort st.id, it)])
  else if !im.splits st then (s, [(0, it)])
  else
    let container := (((s.jobs.find it.slot).bind fun j => j.shardOf it.sample).map (·.2.container)).getD 0
    let r := splitUnit container (im.routing st) it.payload.toBytes
    match r.2 with
    | some off => (s.damage it (damageAt dmgContainer off), [(im.lowPort st.id, it.undecodable)])
    | none => (s, r.1.map fun m => (m.1, { it with payload := .bytes m.2, member := m.1 }))

/-- A stage hands on the bytes of a sample, split where it splits them. -/
def State.passOn (s : State) (im : Image) (st : Stage) (it0 it : Item) : State :=
  let r := s.splitOuts im st it
  r.1.handOn im it0 r.2

/-! ### Meanings over one item -/

/-- Does an engine stage stall its output: a request of it for a buffer waits at a pool of its hedge (R263)? -/
def State.engineStalled (s : State) (hedge stage : Nat) : Bool :=
  s.pools.vals.any fun p => p.hedge = hedge && p.waiting.contains (stage, none)

/-- What an engine row acts on: the job is running, the item waits in a stage of the kind that the row serves, the stage has
an engine left, and no request of it for a buffer waits. -/
def State.engineItem (s : State) (r : ItemRef) (kind : Nat) : Option (Image × Stage × Item) :=
  if !s.jobActive r.slot || s.heelFrozen r.slot then none else
  match s.jobImage r.slot, s.item r with
  | some im, some it =>
    match im.stage r.stage with
    | some st => if st.kind = kind && st.kennels = 0 && !s.engineStalled (((s.jobs.find r.slot).map fun j => j.desc.hedge).getD 0) st.id then some (im, st, it) else none
    | none => none
  | _, _ => none

/-- A row of an engine stage: f acts on the item where the stage can take it; otherwise nothing happens. -/
def engineRow (r : ItemRef) (kind : Nat) (f : State → Image → Stage → Item → State) (s : State) : Host.Outcome State Fault Refusal :=
  jobAct (fun s => match s.engineItem r kind with
    | some (im, st, it) => f s im st it
    | none => s) s

/-- Does an item pass through a stage as it is: corrupt, or filtered (R183, log entry 32)? -/
def Item.passes (it : Item) : Bool := isCorrupt it.flags || hasFlag it.flags flagFiltered

end Sys2Proof.Machine
end

