-- ==== Sys2Proof/Machine/Sources.lean ====
section
/-! DEFINITION. The SOURCE stage (R96, R98, R117, R178): assigning positions, reading index tables and samples from NAND
and from peers, and live capture. -/

namespace Sys2Proof.Machine

/-! ### Byte ranges of a shard -/

/-- The stored bytes that hold a range of a shard's plaintext, as offset and length within the shard: for object
GCM the header and the chunks that overlap the range (R101). -/
def Shard.storedRanges (sh : Shard) (off len : Nat) : List (Nat × Nat) :=
  if sh.crypt = 2 then
    let (c0, c1) := chunkSpan off len
    [(0, 16), (16 + 65552 * c0, min (65552 * (c1 + 1)) (sh.length - 16) - 65552 * c0)]
  else [(off, len)]

/-- First unit and number of units that overlap a range of bytes of a namespace (R98). -/
def unitSpan (at_ len : Nat) : Nat × Nat := (at_ / unitBytes, ceilDiv (at_ + len) unitBytes - at_ / unitBytes)

/-- The units that a range of a NAND shard needs, each once, in ascending order of their first use (R98). -/
def Shard.units (sh : Shard) (off len : Nat) : List Nat :=
  ((sh.storedRanges off len).flatMap fun r =>
    let u := unitSpan (sh.start + r.1) r.2
    (List.range u.2).map (u.1 + ·)).eraseDups

/-- Bytes of a namespace from a byte offset. -/
def State.nsBytes (s : State) (n at_ len : Nat) : Bytes :=
  let u := unitSpan at_ len
  ((s.unitsData n u.1 u.2).drop (at_ - unitBytes * u.1)).take len

/-- KEY_ID of an at-rest key (Table 13-1). -/
def atRestKeyId (nsid gen : Nat) : Nat := 0x8000_0000 + 0x1_0000 * nsid + gen

/-- A unit as it lies on NAND: under the key generation that the page records (R101, R318). -/
def State.unitCipher (s : State) (n lba : Nat) : Bytes :=
  match s.mapped n lba with
  | some u => xtsEncrypt (s.secret (atRestKeyId n u.keyGen)) lba u.data
  | none => List.replicate unitBytes 0

/-- Stored bytes of an encrypted namespace from a byte offset. -/
def State.nsCipher (s : State) (n at_ len : Nat) : Bytes :=
  let u := unitSpan at_ len
  (((List.range u.2).flatMap fun i => s.unitCipher n (u.1 + i)).drop (at_ - unitBytes * u.1)).take len

/-- What a NAND shard gives for a range of its plaintext. -/
def State.nandPayload (s : State) (sh : Shard) (off len : Nat) : Payload :=
  let bytes := (sh.storedRanges off len).flatMap fun r => s.nsBytes sh.locator (sh.start + r.1) r.2
  if sh.crypt = 1 then .stored (s.nsCipher sh.locator (sh.start + off) len) (some bytes)
  else if sh.crypt = 2 then .stored bytes none
  else .bytes bytes

/-- The plaintext of what was read of a range of a shard; none where a GCM tag fails (R101). -/
def State.plainOf (s : State) (sh : Shard) (off len : Nat) : Payload → Option Bytes
  | .stored c none => objectPart (s.secret sh.keyId) c off len
  | .stored _ (some b) => some b
  | p => some p.toBytes

/-! ### Remote reads (R98, R234) -/

/-- The stage number that stands in a reference for the read of an index table; its position is the shard. -/
def indexStage : Nat := 256

/-- Reference of the read of an index table. -/
def indexRef (slot shard : Nat) : ItemRef := ⟨Fin.ofNat 64 slot, indexStage, 0, shard⟩

/-- Reference of a sample at a stage. -/
def Item.ref (it : Item) : ItemRef := ⟨Fin.ofNat 64 it.slot, it.stage, it.epoch, it.position⟩

/-- A range cut into requests of at most 16 MiB (Table 8-3). -/
def cutRange : (fuel : Nat) → (off len : Nat) → List (Nat × Nat)
  | 0, _, _ => []
  | n + 1, off, len => if len = 0 then [] else (off, min len (2 ^ 24)) :: cutRange n (off + 2 ^ 24) (len - 2 ^ 24)

/-- Issue one READ_REQ for a range of a remote shard. -/
def State.readPiece (s : State) (sh : Shard) (ref : ItemRef) (r : Nat × Nat) : State :=
  match s.contexts.find sh.locator with
  | none => s
  | some c =>
    let tag := 1 + c.reads.foldl (fun n w => max n w.tag) 0
    let node := Config.remoteNode sh.locator sh.remoteBuf
    let t := s.adjustCtx sh.locator fun c => { c with reads := c.reads ++ [⟨tag, ref, r.2, []⟩] }
    (t.sendMessage
      { ctx := sh.locator, dest := node, opcode := opReadReq, buffer := sh.remoteBuf, generation := sh.remoteGen
        offset := sh.start + r.1, aux := tag, ask := r.2, payload := [], route := s.routeTo c node c.tclass
        purpose := .read ref }).1

/-- Issue the READ_REQs for a range of a remote shard's plaintext. -/
def State.readRemote (s : State) (sh : Shard) (ref : ItemRef) (off len : Nat) : State :=
  ((sh.storedRanges off len).flatMap fun r => cutRange (r.2 / 2 ^ 24 + 1) r.1 r.2).foldl (fun t r => t.readPiece sh ref r) s

/-- The reads of a reference, in the order in which they were issued. -/
def Context.readsOf (c : Context) (ref : ItemRef) : List ReadWait := c.reads.filter fun w => decide (w.item = ref)

/-- Has a read every byte it asked for? -/
def ReadWait.full (w : ReadWait) : Bool := w.length ≤ w.got.foldl (fun n g => n + g.2.length) 0

/-- The bytes of a read, its fragments in the order of their offsets. -/
def ReadWait.bytes (w : ReadWait) : Bytes :=
  (w.got.mergeSort fun (a b : Nat × Bytes) => decide (a.1 ≤ b.1)).flatMap fun (g : Nat × Bytes) => g.2

/-- What the peer answered to a reference, where every read of it is complete. -/
def State.remoteBytes (s : State) (sh : Shard) (ref : ItemRef) : Option Bytes :=
  match s.contexts.find sh.locator with
  | none => none
  | some c =>
    let ws := c.readsOf ref
    if ws.isEmpty || !ws.all ReadWait.full then none else some (ws.flatMap ReadWait.bytes)

/-- The reads of a reference are over: what came for them later finds no request. -/
def State.endReads (s : State) (sh : Shard) (ref : ItemRef) : State :=
  let t := s.adjustCtx sh.locator fun c => { c with reads := c.reads.filter fun w => decide (w.item ≠ ref) }
  t.cancelMessages fun p => decide (p = .read ref)

/-- What a peer gave for a range of a remote shard's plaintext. -/
def remotePayload (sh : Shard) (bytes : Bytes) : Payload := if sh.crypt = 2 then .stored bytes none else .bytes bytes

/-! ### Index tables (R96) -/

/-- The index table of a shard, once it was read. -/
def Job.indexOf (j : Job) (shard : Nat) : Option Bytes := (j.indexes.find? fun e => e.1 = shard).map (·.2)

/-- Plaintext length of a shard's index table. -/
def Shard.indexLength (sh : Shard) : Nat := sh.entrySize * sh.samples

/-- The index entry of a sample, where its table was read. -/
def Job.entryOf (j : Job) (sample : Nat) : Option (Nat × Shard × IndexEntry) :=
  match j.shardOf sample with
  | none => none
  | some (k, sh) => (j.indexOf k).map fun t => (k, sh, indexEntryAt sh t (sample - sh.first))

/-- The items of a job that wait at SOURCE for bytes of a shard. -/
def State.waitingAt (s : State) (slot : Nat) (j : Job) (shard : Nat) : List Item :=
  s.items.filter fun it => it.slot = slot && it.payload = .nothing &&
    (((s.jobImage slot).map fun im => im.stageKind it.stage).getD 0 = kindSource) && ((j.shardOf it.sample).map (·.1)) = some shard

/-- Ask a peer for what an item at SOURCE needs: for its sample, or first for the index table of its shard. -/
def State.requestItem (s : State) (it : Item) : State :=
  match s.jobs.find it.slot with
  | none => s
  | some j =>
    match j.shardOf it.sample, j.entryOf it.sample with
    | some (_, sh), some (_, _, e) => if sh.kind = 2 then s.readRemote sh it.ref e.offset e.length else s
    | some (k, sh), none =>
      let ref := indexRef it.slot k
      let asked := ((s.contexts.find sh.locator).map fun c => !(c.readsOf ref).isEmpty).getD false
      if sh.kind = 2 && !asked then s.readRemote sh ref sh.indexOffset sh.indexLength else s
    | none, _ => s

/-- The plaintext of an index table is there: it is checked, and reads of samples that waited for it are issued. A
GCM tag that fails gives no table, which halts the job as a wrong one does (R96, R101). -/
def State.takeIndex (s : State) (slot shard : Nat) (j : Job) (sh : Shard) (table : Option Bytes) : State :=
  match table with
  | some t =>
    if indexTableOk sh t then
      let u := s.adjustJob slot fun j => { j with indexes := j.indexes ++ [(shard, t)] }
      (s.waitingAt slot j shard).foldl State.requestItem u
    else s.haltJob slot ST_MAN_INDEX
  | none => s.haltJob slot ST_MAN_INDEX

/-- SOURCE reads the index table of a shard, the first time that it needs an entry of it (R96). A NAND read that
fails halts the job (DEDUCED, log entry 33). -/
def State.indexRead (s : State) (slot shard : Nat) (outcomes : List NandOutcome) : State :=
  match s.jobs.find slot with
  | none => s
  | some j =>
    match j.manifest.shards[shard]? with
    | none => s
    | some sh =>
      if !s.jobActive slot || (j.indexOf shard).isSome || (s.waitingAt slot j shard).isEmpty then s
      else if sh.kind = 1 then
        let units := sh.units sh.indexOffset sh.indexLength
        if s.unitsStalled sh.locator units then s else
        let r := s.readUnits sh.locator units outcomes
        if !r.2 then r.1.haltJob slot ST_SRC_UNREADABLE
        else r.1.takeIndex slot shard j sh (s.plainOf sh sh.indexOffset sh.indexLength (s.nandPayload sh sh.indexOffset sh.indexLength))
      else
        match s.remoteBytes sh (indexRef slot shard) with
        | none => s
        | some b =>
          let t := s.endReads sh (indexRef slot shard)
          t.takeIndex slot shard j sh (s.plainOf sh sh.indexOffset sh.indexLength (remotePayload sh b))

/-- INDEX_TABLE_READ. -/
def execIndexTableRead (slot : Fin 64) (shard : NandRead) (s : State) : Host.Outcome State Fault Refusal :=
  jobAct (fun s => s.indexRead slot shard.of_ shard.outcomes) s

/-! ### Samples (R98) -/

/-- An unreadable read (R98): the job halts, or under CORRUPT the sample is damaged. -/
def State.unreadable (s : State) (im : Image) (st : Stage) (it : Item) (sh : Shard) : State :=
  if sh.corruptOnUnreadable then
    (s.damageFree it dmgUnreadable).passOn im st it it.undecodable
  else s.haltJob it.slot ST_SRC_UNREADABLE

/-- A read that a reference stands for is unreadable (R98): of an index table it halts the job. -/
def State.readFailed (s : State) (ref : ItemRef) : State :=
  match s.jobs.find ref.slot, s.jobImage ref.slot with
  | some j, some im =>
    if ref.stage = indexStage then
      match j.manifest.shards[ref.position]? with
      | some sh => (s.endReads sh ref).haltJob ref.slot ST_SRC_UNREADABLE
      | none => s
    else
      match s.item ref, im.stage ref.stage with
      | some it, some st =>
        match j.shardOf it.sample with
        | some (_, sh) => (s.endReads sh ref).unreadable im st it sh
        | none => s
      | _, _ => s
  | _, _ => s

/-- The bytes of a sample are there: SOURCE hands it on. The input digest is over the bytes after CRYPT, which are
these where nothing is encrypted (R97). -/
def State.sampleRead (s : State) (im : Image) (st : Stage) (it : Item) (p : Payload) : State :=
  let t := match p with
    | .bytes b => s.adjustFacts it.key fun f => { f with raw := some b }
    | _ => s
  t.passOn im st it { it with payload := p }

/-- SAMPLE_READ_DONE. -/
def State.readDone (s : State) (ref : ItemRef) (result : ReadResult) : State :=
  match s.engineItem ref kindSource, s.jobs.find ref.slot with
  | some (im, st, it), some j =>
    match j.entryOf it.sample with
    | none => s
    | some (_, sh, e) =>
      match result with
      | .nand outcomes =>
        let units := sh.units e.offset e.length
        if sh.kind ≠ 1 || s.unitsStalled sh.locator units then s
        else
          let r := s.readUnits sh.locator units outcomes
          if !r.2 then r.1.unreadable im st it sh
          else r.1.sampleRead im st it (s.nandPayload sh e.offset e.length)
      | .remote =>
        if sh.kind ≠ 2 then s
        else
          match s.remoteBytes sh ref with
          | some b => (s.endReads sh ref).sampleRead im st it (remotePayload sh b)
          | none => s
  | _, _ => s

/-- SAMPLE_READ_DONE. -/
def execSampleReadDone (item : ItemRef) (result : ReadResult) (s : State) : Host.Outcome State Fault Refusal :=
  jobAct (fun s => s.readDone item result) s

/-! ### Access units of a live capture (R117) -/

/-- What came before an access unit, from the last random access point on: one that was dropped leaves a gap (R117). -/
def LiveRing.before (r : LiveRing) (frame : Nat) : List (Option Bytes) := r.past ++ List.replicate (frame - r.taken) none

/-- The oldest access unit of a ring is taken. -/
def LiveRing.takeUnit (r : LiveRing) (frame : Nat) (bytes : Bytes) : LiveRing :=
  { r with
    waiting := r.waiting.drop 1
    past := if Config.randomAccess bytes then [some bytes] else r.before frame ++ [some bytes]
    taken := frame + 1 }

/-! ### Assigning positions (R170, R173, R178) -/

/-- Is the next position of a stream the lowest that SOURCE may assign: does no other stream of the job whose window has a
free place stand at a lower one (R170, R178)? -/
def Job.ascends (j : Job) (rank : Nat) (c : Cursor) : Bool :=
  j.streams.all fun st => st.rank = rank || 4096 ≤ st.window.length || match st.next with
    | some d => decide (c.epoch < d.epoch) || (c.epoch = d.epoch && decide (c.pos < d.pos))
    | none => true

/-- A stream takes its next position: a place in its window, and an item at SOURCE. -/
def State.takePosition (s : State) (slot rank : Nat) (src : Stage) (c : Cursor) (sample : Nat) (p : Payload) : State × Item :=
  let next := s.rankCursor slot rank ⟨c.epoch, c.pos + 1⟩
  let s := s.showCursor slot rank ⟨c.epoch, c.pos + 1⟩
  let ends := (next.map fun (n : Cursor) => decide (n.epoch ≠ c.epoch)).getD true
  let facts := match p with
    | .bytes b => { SampleFacts.new with raw := some b }
    | _ => SampleFacts.new
  let place : Place := ⟨c.epoch, c.pos, sample, facts, false, ends⟩
  let it : Item :=
    { slot := slot, stage := src.id, port := 0, member := 0, epoch := c.epoch, position := c.pos, sample := sample
      payload := p, flags := 0, pieces := [], frame := 0, concealed := 0, past := [], emitted := [], done := false
      core := none }
  let t := s.adjustJob slot fun j => j.adjustStream rank fun st => { st with next := next, window := st.window ++ [place] }
  let epochReg := Reg.ENL_JOB_EPOCH slot
  let t := t.setFld epochReg Fld.ENL_JOB_EPOCH_EPOCH (max (t.fld epochReg Fld.ENL_JOB_EPOCH_EPOCH) c.epoch)
  ({ t with items := t.items ++ [it] }, it)

/-- SOURCE assigns the next position of a stream: POSITION_ASSIGN, which does nothing while another stream of the job has a
lower one to take. A full window holds it back and is counted; Heel
may hold it back (R212); a live stream waits for an access unit (R117). -/
def State.assignPosition (s : State) (slot rank : Nat) : State :=
  match s.jobs.find slot, s.jobImage slot with
  | some j, some im =>
    match j.stream rank, im.stageOfKind kindSource with
    | some st, some src =>
      match st.next with
      | none => s
      | some c =>
        let o := s.orderTable slot
        if s.jobState slot ≠ jobRunning || s.heelPauses slot then s
        else if 4096 ≤ st.window.length then s.bump (Reg.PBQ_JOB_STALLS slot) Fld.PBQ_JOB_STALLS_COUNT
        else if !j.ascends rank c then s
        else if o.livePin = 0xFF then
          let (t, it) := s.takePosition slot rank src c (sigma o j.desc.seed j.manifest c.epoch c.pos) .nothing
          (t.requestItem it).settleExhausted slot
        else
          match (j.live.find o.livePin).bind fun r => r.waiting.head?.map fun x => (r, x) with
          | none => s
          | some (r, frame, stamp, bytes) =>
            let t := s.adjustJob slot fun j => { j with live := j.live.insert o.livePin (r.takeUnit frame bytes) }
            let (t, it) := t.takePosition slot rank src c frame (.bytes bytes)
            let t := t.adjustFacts it.key fun f => { f with stamp := some stamp }
            let past := if Config.randomAccess bytes then [] else r.before frame
            (t.passOn im src it { it with past := past }).settleExhausted slot
    | _, _ => s
  | _, _ => s

/-- POSITION_ASSIGN. -/
def execPositionAssign (slot : Fin 64) (rank : Nat) (s : State) : Host.Outcome State Fault Refusal :=
  jobAct (fun s => s.assignPosition slot rank) s

/-! ### Live capture (R117) -/

/-- The pin function CAPTURE_TRIGGER (R384). -/
def pinCapture : Nat := 3

/-- An edge ends the frame of the edge before it, and begins the next one where the ring has a free buffer; else
that one is dropped whole and counted. -/
def LiveRing.edge (r : LiveRing) (ring now : Nat) : LiveRing × Bool :=
  let waiting := if r.dropping then r.waiting else r.waiting ++ [(r.frame, r.stamp, r.open_.flatten)]
  let drop := decide (ring < waiting.length + 1)
  ({ r with frame := r.frame + 1, stamp := now, open_ := [], dropping := drop, waiting := waiting }, drop)

/-- The first edge begins frame 0. -/
def LiveRing.first (now : Nat) : LiveRing := ⟨0, now, [], false, [], [], 0⟩

/-- An edge for one job: it acts where the job runs and its SOURCE captures from the pin. -/
def State.liveEdge (s : State) (slot pin : Nat) : State :=
  let o := s.orderTable slot
  match s.jobs.find slot with
  | none => s
  | some j =>
    if s.jobState slot ≠ jobRunning || o.livePin ≠ pin then s
    else
      match j.live.find pin with
      | none => s.adjustJob slot fun j => { j with live := j.live.insert pin (LiveRing.first s.time.total) }
      | some r =>
        let (r2, drop) := r.edge o.liveRing s.time.total
        let t := s.adjustJob slot fun j => { j with live := j.live.insert pin r2 }
        if drop then t.bumpSat (Reg.DEC_LIVE_DROPS slot) Fld.DEC_LIVE_DROPS_COUNT else t

/-- A rising edge on a capture-trigger pin: CAPTURE_TRIGGER. An edge within 1 µs of the last accepted one is ignored
(R384). -/
def State.captureEdge (s : State) (pin : Nat) : State :=
  let now := s.time.total
  let soon := match (s.board.pins[pin]?).bind (·.lastEdge) with
    | some t => decide (now < t + 1000)
    | none => false
  if s.pinFunction pin ≠ pinCapture || soon then s
  else
    let t := s.adjustPin pin fun p => { p with lastEdge := some now }
    t.jobs.entries.foldl (fun (t : State) (e : Nat × Job) => t.liveEdge e.1 pin) t

/-- CAPTURE_TRIGGER. -/
def execCaptureTrigger (pin : Fin 16) (s : State) : Host.Outcome State Fault Refusal := act (fun s => s.captureEdge pin) s

/-! ### Deadlines (R184) -/

/-- The deadline of a window's head expires under TIMELY: it is deferred, and the next position becomes the head. -/
def State.deadline (s : State) (slot rank : Nat) : State :=
  match (s.jobs.find slot).bind (·.stream rank) with
  | none => s
  | some st =>
    if !s.jobActive slot || (s.orderTable slot).policy ≠ policyTimely then s
    else
      match st.window with
      | [] => s
      | p :: rest =>
        if p.complete || 64 ≤ st.deferred.length + st.late.length then s
        else
          let t := s.bump (Reg.PBQ_JOB_DEFERRED slot) Fld.PBQ_JOB_DEFERRED_COUNT
          let t := t.adjustJob slot fun j => j.adjustStream rank fun st =>
            { st with window := rest, deferred := st.deferred ++ [{ p with epochLast := false }]
                      ending := if p.epochLast then some p.epoch else st.ending }
          t.flowRank slot rank

/-- DEADLINE_EXPIRY. -/
def execDeadlineExpiry (slot : Fin 64) (rank : Nat) (s : State) : Host.Outcome State Fault Refusal :=
  jobAct (fun s => s.deadline slot rank) s

end Sys2Proof.Machine
end

