-- ==== Sys2Proof/Machine/Video.lean ====
section
/-! DEFINITION. What the spec says of video beside its standards: the profiles of Table 4-6, concealment and taint (Table 4-9),
region lists and units (R114, R115), the split of R121. The standards' decoding processes are constants of Config (log
entry 15). -/

namespace Sys2Proof.Machine

/-- Is a stream within Table 4-6 and the limits of R107? -/
def videoSupported (s : VideoStream) : Bool :=
  let eightOrTen := s.depth = 8 || s.depth = 10
  let form := match s.standard with
    | 1 => s.profiles.contains 100 && s.level ≤ 52 && s.depth = 8 && s.chroma ≤ 1
    | 2 => (s.profiles.contains 1 || s.profiles.contains 2) && !s.highTier && s.level ≤ 61 && eightOrTen && s.chroma = 1
    | _ => s.profiles.contains 0 && s.level ≤ 61 && eightOrTen && s.chroma ≤ 1
  form && s.width ≤ 8192 && s.height ≤ 4352 && s.references ≤ 16

/-- UNIT of a damage record of a standard (Table 4-10). -/
def videoUnitKind (s : VideoStream) : Nat := if s.standard = 1 then 3 else if s.standard = 2 then 4 else 5

/-- A decoded frame as a picture (R110). -/
def framePicture (f : VideoFrame) : Picture :=
  ⟨f.width, f.height, f.bitDepth, if f.planes.length = 3 then .video f.matrix f.fullRange else .grey, 1,
    f.planes.map fun p => ⟨p.1, p.2.1, p.2.2.toArray⟩⟩

/-- A grey frame of the form of another. -/
def greyFrame (f : VideoFrame) : VideoFrame :=
  { f with planes := f.planes.map fun p => (p.1, p.2.1, p.2.2.map fun _ => greyOf f.bitDepth), tainted := false }

/-- A rectangle in luma samples; its right and lower edges are exclusive. -/
structure Rect where
  x0 : Nat
  y0 : Nat
  x1 : Nat
  y1 : Nat
deriving DecidableEq, Repr

/-- Bounding rectangle of a unit. -/
def Rect.of (u : VideoUnit) : Rect := ⟨u.x0, u.y0, u.x1, u.y1⟩

/-- Do two rectangles meet? -/
def Rect.meets (a b : Rect) : Bool := a.x0 < b.x1 && b.x0 < a.x1 && a.y0 < b.y1 && b.y0 < a.y1

/-- The rectangles of a region list (Table 4-8). -/
def regionRects (b : Bytes) : List Rect :=
  (List.range (fieldAt b 0xC 2)).map fun i =>
    let o := 0x10 + 8 * i
    ⟨fieldAt b o 2, fieldAt b (o + 2) 2, fieldAt b (o + 4) 2, fieldAt b (o + 6) 2⟩

/-- A frame with a rectangle of every plane taken from another frame. -/
def copyArea (f src : VideoFrame) (r : Rect) : VideoFrame :=
  { f with planes := (f.planes.zip src.planes).map fun p =>
      let half := if p.1.1 < f.width then 2 else 1
      let old := p.1.2.2.toArray
      let new := p.2.2.2.toArray
      (p.1.1, p.1.2.1, (List.range (p.1.1 * p.1.2.1)).map fun i =>
        let x := i % p.1.1 * half
        let y := i / p.1.1 * half
        if r.x0 ≤ x ∧ x < r.x1 ∧ r.y0 ≤ y ∧ y < r.y1 then new.getD i 0 else old.getD i 0) }

/-- The video that a sample is decoded from: its stream, and of a live capture the access units before it (R117). -/
structure VideoSource where
  bytes : Bytes
  stream : VideoStream
  /-- Units whose prediction reads a frame that was dropped. -/
  lost : List Nat
  /-- Frames and bytes that are of the access units before. -/
  skip : Nat
  before : Nat
deriving DecidableEq, Repr

/-- The video of a sample; none where its headers give no usable dimensions or format. -/
def videoSource (past : List (Option Bytes)) (own : Bytes) : Option VideoSource :=
  let before := past.flatMap fun a => a.getD []
  (Config.videoStream (before ++ own)).map fun s =>
    ⟨before ++ own, s, if past.isEmpty then [] else Config.videoLost (past ++ [some own]),
      if past.isEmpty then 0 else ((Config.videoStream before).map fun p => p.frames.length).getD 0, before.length⟩

/-- The units of a frame, with their places in the stream's list. -/
def VideoSource.unitsOf (v : VideoSource) (i : Nat) : List (Nat × VideoUnit) :=
  (v.stream.units.zipIdx.filter fun u => u.1.frame = i).map fun u => (u.2, u.1)

/-- The units of the sample's own frames. -/
def VideoSource.ownUnits (v : VideoSource) : List VideoUnit := v.stream.units.filter fun u => v.skip ≤ u.frame

/-- The sample's own frames. -/
def VideoSource.ownFrames (v : VideoSource) : Nat := v.stream.frames.length - v.skip

/-- The damage of a unit that is decoded: its own, or that its prediction reads a dropped frame. Frames and bytes count within the
sample. -/
def VideoSource.damageOf (v : VideoSource) (k : Nat) : Option Damage :=
  (v.stream.units[k]?).bind fun u =>
    (u.damage.or (if v.lost.contains k then some ⟨dmgRefTaint, u.at_, videoUnitKind v.stream, 0, u.col, u.row⟩ else none)).map fun d =>
      { d with frame := u.frame - v.skip, byteOffset := d.byteOffset - v.before }

/-- Decoding at work: the frames so far, whether a frame up to the next random access point is tainted, and the units of the sample's
own frames that were concealed. -/
structure VideoWork where
  frames : List VideoFrame
  tainted : Bool
  concealed : List Nat
deriving DecidableEq, Repr

/-- Decode the next frame: every unit of it, or those that `wanted` lists. Each damaged one is copied from the co-located area of the
frame that Table 4-9 names, or grey. -/
def VideoSource.step (v : VideoSource) (wanted : Nat → Option (List Nat)) (w : VideoWork) (i : Nat) : VideoWork :=
  match v.stream.frames[i]? with
  | none => w
  | some head =>
    let taint := w.tainted && !head.randomAccess
    let f := Config.videoFrame v.bytes i w.frames
    let src := (head.source.bind fun j => w.frames[j]?).getD (greyFrame f)
    let bad := (v.unitsOf i).filter fun u => (v.damageOf u.1).isSome && ((wanted i).map fun ws => ws.contains u.1).getD true
    let out := bad.foldl (fun (f : VideoFrame) u => copyArea f src (Rect.of u.2)) { f with tainted := taint }
    ⟨w.frames ++ [out], taint || !bad.isEmpty, if i < v.skip then w.concealed else w.concealed ++ bad.map (·.1)⟩

/-- The first `n` frames in decode order. -/
def VideoSource.decode (v : VideoSource) (n : Nat) (wanted : Nat → Option (List Nat)) : VideoWork :=
  (List.range n).foldl (v.step wanted) ⟨[], false, []⟩

/-- The sample's own frames in presentation order, each with its place in decode order. -/
def VideoSource.presented (v : VideoSource) (fs : List VideoFrame) : List (VideoFrame × Nat) :=
  let place := fun (i : Nat) => (v.stream.frames[i]?.map (·.shown)).getD i
  (fs.zipIdx.drop v.skip).mergeSort fun a b => decide (place a.2 ≤ place b.2)

/-- Are the frames of the sample reordered between decode and presentation (R114)? -/
def VideoSource.reordered (v : VideoSource) : Bool :=
  let shown := (v.stream.frames.drop v.skip).map (·.shown)
  decide (shown.mergeSort (fun a b => decide (a ≤ b)) ≠ shown)

/-- The units of a frame that a region list selects, or all of them (R115). -/
def VideoSource.chosen (v : VideoSource) (i : Nat) (rects : Option (List Rect)) : List (Nat × VideoUnit) :=
  match rects with
  | some rs => (v.unitsOf i).filter fun u => rs.any fun r => r.meets (Rect.of u.2)
  | none => v.unitsOf i

/-- The units of a frame that are reconstructed under a region list: all of a frame that later ones reference, else the selected ones
and those that their in-loop filters read (R115). -/
def VideoSource.wanted (v : VideoSource) (i : Nat) (rects : List Rect) : Option (List Nat) :=
  if (v.stream.frames[i]?).any (·.referenced) then none
  else
    let chosen := (v.chosen i (some rects)).map (·.1)
    some (chosen ++ Config.videoNeighbours v.bytes chosen)

/-- Pieces that a video sample is decoded in (R121): at most four engines, each with whole slices or tiles of every frame. 0 where it is
not split. -/
def VideoSource.pieces (v : VideoSource) : Nat :=
  let counts := (List.range v.ownFrames).map fun i => (v.unitsOf (v.skip + i)).length
  if counts.isEmpty || v.stream.width * v.stream.height < 8294400 || counts.any (· < 2) then 0
  else min 4 (counts.foldl min 4)

end Sys2Proof.Machine
end

