-- ==== Sys2Proof/Machine/Vocabulary.lean ====
section
/-! DEFINITION. The vocabulary caches of the hub dies (R140, R166). -/

namespace Sys2Proof.Machine

/-- Lines of a vocabulary cache: 8 MiB of 64 bytes on each hub die. -/
def vocabLines : Nat := 131072

/-- Read a line through a cache of lines, the most recently used first: the cache after it, and whether it was a hit (R140). -/
def readLine (lines : List VocabLine) (x : VocabLine) : List VocabLine × Bool :=
  if lines.contains x then (x :: lines.erase x, true) else ((x :: lines).take vocabLines, false)

/-- Lines of a vocabulary's node and score arrays that reads at offsets of its table touch: the caches hold no other. -/
def Vocab.linesOf (v : Vocab) (offs : List Nat) : List Nat :=
  let within := fun (o start len : Nat) => decide (start ≤ o ∧ o < start + len)
  (offs.filter fun o => within o (u32At v.raw 0x28) (12 * v.nodes) || within o (u32At v.raw 0x2C) (4 * v.size)).map (· / 64)

/-- An engine of a hub die reads lines of a vocabulary of an image: hits and misses are counted (R140, R166). -/
def State.readVocab (s : State) (die1 : Bool) (h table : Nat) (im : Image) (lines : List Nat) : State :=
  let start := if die1 then s.text.vocab1 else s.text.vocab0
  let r := lines.foldl (fun (acc : List VocabLine × Nat) n =>
    let x := readLine acc.1 ⟨h, im.digest, table, n⟩
    (x.1, acc.2 + x.2.toNat)) (start, 0)
  let t := { s with text := if die1 then { s.text with vocab1 := r.1 } else { s.text with vocab0 := r.1 } }
  (t.bump Reg.TOK_VCACHE_HITS Fld.TOK_VCACHE_HITS_COUNT r.2).bump Reg.TOK_VCACHE_MISSES Fld.TOK_VCACHE_MISSES_COUNT (lines.length - r.2)

end Sys2Proof.Machine
end

