-- ==== Sys2Proof/Machine/Zstandard.lean ====
section
/-! DEFINITION. The decompression of Zstandard units (R102, R103, R126). The format is PRESUMED from RFC 8878, which R102
names; where its streams run backwards, the byte that a fault is placed at is the model's choice (log entry 16). -/

namespace Sys2Proof.Machine

/-! ### Bits -/

/-- `n` bits below bit position `left` of a string that is read from its end; with them the position that is left. -/
def backBits (d : Array Byte) (left n : Nat) : Option (Nat × Nat) :=
  if n > left then none else (takeBits d (left - n) n).map fun v => (v, left - n)

/-- The bits of a string that is read from its end: those below the highest set bit of its last byte. None where that
byte is 0 or missing. -/
def backStart (d : Array Byte) : Option Nat :=
  let b := (d.getD (d.size - 1) 0).toNat
  if d.isEmpty || b = 0 then none else some (8 * (d.size - 1) + Nat.log2 b)

/-! ### Finite state entropy codes (RFC 8878, 4.1) -/

/-- A cell of an FSE table: its symbol, and the bits and base of the next state. -/
structure FseCell where
  sym : Nat
  bits : Nat
  base : Nat
deriving DecidableEq, Repr

/-- An FSE table of 2^log cells. -/
structure FseTable where
  log : Nat
  cells : Array FseCell
deriving DecidableEq, Repr

/-- A table of one symbol, which takes no bits. -/
def FseTable.one (sym : Nat) : FseTable := ⟨0, #[⟨sym, 0, 0⟩]⟩

/-- Where the symbols of a table stand: `less` are the cells that symbols of probability "less than 1" took at its end. -/
def fseSpread (size less : Nat) : (syms : List Nat) → (fuel pos : Nat) → Array Nat → Array Nat
  | [], _, _, a => a
  | _, 0, _, a => a
  | s :: rest, fuel + 1, pos, a =>
    let next := (pos + size / 2 + size / 8 + 3) % size
    if pos < size - less then fseSpread size less rest fuel next (a.setIfInBounds pos s)
    else fseSpread size less (s :: rest) fuel next a

/-- The table of a distribution; −1 stands for a probability less than 1. -/
def fseTable (log : Nat) (probs : List Int) : FseTable :=
  let size := 2 ^ log
  let rare := (probs.zipIdx.filter fun p => p.1 = -1).map (·.2)
  let start := (rare.zipIdx).foldl (fun (a : Array Nat) e => a.setIfInBounds (size - 1 - e.2) e.1) (Array.replicate size 0)
  let spread := probs.zipIdx.flatMap fun p => List.replicate p.1.toNat p.2
  let syms := fseSpread size rare.length spread (2 * size) 0 start
  let counts := (probs.map fun p => if p = -1 then 1 else p.toNat).toArray
  let cells := syms.foldl (fun (r : Array Nat × Array FseCell) s =>
    let n := r.1.getD s 1
    let bits := log - Nat.log2 n
    (r.1.setIfInBounds s (n + 1), r.2.push ⟨s, bits, n * 2 ^ bits - size⟩)) (counts, #[])
  ⟨log, cells.2⟩

/-- Zero probabilities that follow one, in groups of up to three. -/
def fseZeros (d : Array Byte) : (fuel pos : Nat) → List Int → Option (List Int × Nat)
  | 0, _, _ => none
  | fuel + 1, pos, acc =>
    match takeBits d pos 2 with
    | none => none
    | some 3 => fseZeros d fuel (pos + 2) (acc ++ [0, 0, 0])
    | some n => some (acc ++ List.replicate n 0, pos + 2)

/-- The probabilities of a described distribution, of which `left` points are still to be dealt out. -/
def fseProbs (d : Array Byte) : (fuel left pos : Nat) → List Int → Option (List Int × Nat)
  | 0, _, _, _ => none
  | fuel + 1, left, pos, acc =>
    if left = 0 then some (acc, pos) else
    let top := 2 ^ Nat.log2 (left + 1)
    let short := 2 * top - 1 - (left + 1)
    let bits := Nat.log2 top
    match takeBits d pos bits with
    | none => none
    | some low =>
      let read : Option (Nat × Nat) :=
        if low < short then some (low, bits)
        else (takeBits d pos (bits + 1)).map fun v => (if v < top then v else v - short, bits + 1)
      match read with
      | none => none
      | some (v, n) =>
        let p : Int := (v : Int) - 1
        if p.natAbs > left then none
        else if p = 0 then
          match fseZeros d (8 * d.size) (pos + n) (acc ++ [0]) with
          | none => none
          | some (acc, pos) => fseProbs d fuel left pos acc
        else fseProbs d fuel (left - p.natAbs) (pos + n) (acc ++ [p])

/-- A table description at a byte: the table, and the byte after it. -/
def fseRead (d : Array Byte) (o maxLog symbols : Nat) : Option (FseTable × Nat) :=
  match takeBits d (8 * o) 4 with
  | none => none
  | some l =>
    let log := l + 5
    if log > maxLog then none else
    match fseProbs d (8 * d.size) (2 ^ log) (8 * o + 4) [] with
    | none => none
    | some (probs, pos) => if probs.length > symbols then none else some (fseTable log probs, ceilDiv pos 8)

/-! ### Huffman codes (RFC 8878, 4.2) -/

/-- A decoding table: for every string of `bits` bits the symbol that it begins with, and the bits of that one. -/
structure ZHuffman where
  bits : Nat
  cells : Array (Nat × Nat)
deriving DecidableEq, Repr

/-- The table of the weights that are written; the last one follows from their sum. -/
def huffmanOf (ws : List Nat) : Option ZHuffman :=
  let sum := ws.foldl (fun n w => if w = 0 then n else n + 2 ^ (w - 1)) 0
  if sum = 0 then none else
  let bits := Nat.log2 sum + 1
  let rest := 2 ^ bits - sum
  if bits > 11 || 2 ^ Nat.log2 rest ≠ rest || ws.length > 255 then none else
  let all := (ws ++ [Nat.log2 rest + 1]).zipIdx
  some ⟨bits, ((List.range bits).flatMap fun i =>
    (all.filter fun w => w.1 = i + 1).flatMap fun w => List.replicate (2 ^ i) (w.2, bits - i)).toArray⟩

/-- Weights under two FSE states that take turns, until the bits run out. -/
def huffmanWeights (d : Array Byte) (t : FseTable) : (fuel left a b : Nat) → List Nat → List Nat
  | 0, _, _, _, acc => acc
  | fuel + 1, left, a, b, acc =>
    let cell := t.cells.getD a ⟨0, 0, 0⟩
    let acc := acc ++ [cell.sym]
    match backBits d left cell.bits with
    | none => acc ++ [(t.cells.getD b ⟨0, 0, 0⟩).sym]
    | some (v, left) => huffmanWeights d t fuel left b (cell.base + v) acc

/-- A Huffman tree description at a byte: the table, and the byte after it. -/
def huffmanRead (d : Array Byte) (o : Nat) : Option (ZHuffman × Nat) :=
  let h := (d.getD o 0).toNat
  if o ≥ d.size then none
  else if h ≥ 128 then
    let n := h - 127
    let fin := o + 1 + ceilDiv n 2
    if fin > d.size then none
    else
      let ws := (List.range n).map fun i => natField (d.getD (o + 1 + i / 2) 0).toNat (if i % 2 = 0 then 4 else 0) 4
      (huffmanOf ws).map fun t => (t, fin)
  else
    let fin := o + 1 + h
    if fin > d.size then none else
    let own := d.extract (o + 1) fin
    match fseRead own 0 6 256 with
    | none => none
    | some (t, p) =>
      let bits := own.extract p own.size
      match (backStart bits).bind fun n => backBits bits n t.log with
      | none => none
      | some (a, left) =>
        match backBits bits left t.log with
        | none => none
        | some (b, left) => (huffmanOf (huffmanWeights bits t 256 left a b [])).map fun t => (t, fin)

/-- `n` symbols of one stream, which must end with them. -/
def huffmanStream (t : ZHuffman) (d : Array Byte) : (n left : Nat) → Array Byte → Option (Array Byte)
  | 0, left, out => if left = 0 then some out else none
  | n + 1, left, out =>
    let have_ := min left t.bits
    match backBits d left have_ with
    | none => none
    | some (v, _) =>
      let cell := t.cells.getD (v * 2 ^ (t.bits - have_)) (0, 1)
      if cell.2 > left then none else huffmanStream t d n (left - cell.2) (out.push (BitVec.ofNat 8 cell.1))

/-- A whole stream of `n` symbols. -/
def huffmanAll (t : ZHuffman) (n : Nat) (d : Array Byte) : Option (Array Byte) :=
  (backStart d).bind fun left => huffmanStream t d n left #[]

/-! ### Blocks (RFC 8878, 3.1.1) -/

/-- What a frame keeps from block to block: its code tables and the three last offsets. -/
structure ZTables where
  huffman : Option ZHuffman
  ll : Option FseTable
  off : Option FseTable
  ml : Option FseTable
  reps : Nat × Nat × Nat
deriving DecidableEq, Repr

/-- A frame that begins. -/
def ZTables.new : ZTables := ⟨none, none, none, none, (1, 4, 8)⟩

/-- The literals of a block, or none where they are malformed: with the byte after their section and the code that
later blocks may use. -/
def zLiterals (d : Array Byte) (t : ZTables) : Option (Array Byte × Nat × ZTables) :=
  let b := (d.getD 0 0).toNat
  let form := b / 4 % 4
  if d.isEmpty then none
  else if b % 4 < 2 then
    let head := if form % 2 = 0 then 1 else if form = 1 then 2 else 3
    if head > d.size then none else
    let n := leNat ((d.extract 0 head).toList) / (if form % 2 = 0 then 8 else 16)
    if b % 4 = 1 then
      if head + 1 > d.size then none else some (Array.replicate n (d.getD head 0), head + 1, t)
    else if head + n > d.size then none
    else some (d.extract head (head + n), head + n, t)
  else
    let head := if form < 2 then 3 else form + 2
    let width := if form < 2 then 10 else if form = 2 then 14 else 18
    if head > d.size then none else
    let h := leNat ((d.extract 0 head).toList)
    let n := natField h 4 width
    let fin := head + natField h (4 + width) width
    if fin > d.size then none else
    let tree : Option (ZHuffman × Nat) :=
      if b % 4 = 3 then t.huffman.map fun k => (k, head) else huffmanRead (d.extract 0 fin) head
    match tree with
    | none => none
    | some (k, o) =>
      let keep := { t with huffman := some k }
      if form = 0 then (huffmanAll k n (d.extract o fin)).map fun out => (out, fin, keep)
      else if o + 6 > fin then none
      else
        let size := fun i => leNat ((d.extract (o + 2 * i) (o + 2 * i + 2)).toList)
        let a := o + 6
        let cuts := [a, a + size 0, a + size 0 + size 1, a + size 0 + size 1 + size 2, fin]
        let each := ceilDiv n 4
        if cuts.getD 3 0 > fin || n < 3 * each then none else
        let parts := (List.range 4).map fun i =>
          huffmanAll k (if i < 3 then each else n - 3 * each) (d.extract (cuts.getD i 0) (cuts.getD (i + 1) 0))
        if parts.all (·.isSome) then some (parts.foldl (fun a p => a ++ p.getD #[]) #[], fin, keep) else none

/-- Extra bits of the last codes: 6 or 7 bits and one more for every later code. -/
def extrasUp (from_ last : Nat) : List Nat := (List.range (last + 1 - from_)).map fun i => from_ + i

/-- Literal-length and match-length codes. -/
def zLitLengths : Array (Nat × Nat) :=
  (basesFrom 0 (List.replicate 16 0 ++ [1, 1, 1, 1, 2, 2, 3, 3, 4] ++ extrasUp 6 16)).toArray
def zMatchLengths : Array (Nat × Nat) :=
  (basesFrom 3 (List.replicate 32 0 ++ [1, 1, 1, 1, 2, 2, 3, 3, 4, 4, 5] ++ extrasUp 7 16)).toArray

/-- The distributions that are not described (RFC 8878, 3.1.1.3.2.2). -/
def zLitDefault : FseTable :=
  fseTable 6 ([4, 3] ++ List.replicate 11 2 ++ [1, 1, 1] ++ List.replicate 9 2 ++ [3, 2] ++ List.replicate 5 1 ++ List.replicate 4 (-1))
def zMatchDefault : FseTable :=
  fseTable 6 ([1, 4, 3] ++ List.replicate 6 2 ++ List.replicate 37 1 ++ List.replicate 7 (-1))
def zOffDefault : FseTable :=
  fseTable 5 (List.replicate 6 1 ++ [2, 2, 2] ++ List.replicate 15 1 ++ List.replicate 5 (-1))

/-- The table of one kind of code by its mode: predefined, one symbol, described, or as before. With it the byte after. -/
def zTable (d : Array Byte) (o mode maxLog symbols : Nat) (default_ : FseTable) (before : Option FseTable) : Option (FseTable × Nat) :=
  match mode with
  | 0 => some (default_, o)
  | 1 => if o ≥ d.size || symbols ≤ (d.getD o 0).toNat then none else some (FseTable.one (d.getD o 0).toNat, o + 1)
  | 2 => fseRead d o maxLog symbols
  | _ => before.map fun t => (t, o)

/-- How a frame may look back: bytes of history that are its dictionary's, and its window. -/
structure ZReach where
  dict : Nat
  window : Nat
  /-- Output size that must not be passed, with the history counted. -/
  bound : Nat
  /-- Output size at which the block that is decoded is full. -/
  full : Nat
deriving DecidableEq, Repr

/-- May a match look this far back? -/
def ZReach.reaches (r : ZReach) (size off : Nat) : Bool :=
  let own := size - r.dict
  off ≠ 0 && (decide (off ≤ min own r.window) || (decide (own ≤ r.window) && decide (off ≤ size)))

/-- The offset that an offset value stands for, and the three last offsets after it. -/
def zOffset (reps : Nat × Nat × Nat) (value lits : Nat) : Nat × (Nat × Nat × Nat) :=
  let (a, b, c) := reps
  if value > 3 then (value - 3, (value - 3, a, b))
  else
    match value + (if lits = 0 then 1 else 0) with
    | 1 => (a, reps)
    | 2 => (b, (b, a, c))
    | 3 => (c, (c, a, b))
    | _ => (a - 1, (a - 1, a, b))

/-- A block at work. -/
structure ZWork where
  out : Array Byte
  /-- Literals used. -/
  lits : Nat
  left : Nat
  states : Nat × Nat × Nat
  tables : ZTables
  halt : Option Halt
deriving DecidableEq, Repr

/-- The fields of a sequence, read from the end of its bits: offset value, match length, literal length, bits left. -/
def zFields (bits : Array Byte) (left : Nat) (ll off ml : FseCell) : Option (Nat × Nat × Nat × Nat) :=
  if off.sym > 31 then none else
  let m := zMatchLengths.getD ml.sym (0, 0)
  let l := zLitLengths.getD ll.sym (0, 0)
  (backBits bits left off.sym).bind fun x =>
    (backBits bits x.2 m.2).bind fun y =>
      (backBits bits y.2 l.2).map fun z => (2 ^ off.sym + x.1, m.1 + y.1, l.1 + z.1, z.2)

/-- The next states of the three codes: literal length, match length, offset. -/
def zNext (bits : Array Byte) (left : Nat) (ll off ml : FseCell) : Option ((Nat × Nat × Nat) × Nat) :=
  (backBits bits left ll.bits).bind fun x =>
    (backBits bits x.2 ml.bits).bind fun y =>
      (backBits bits y.2 off.bits).map fun z => ((ll.base + x.1, off.base + z.1, ml.base + y.1), z.2)

/-- Sequences of a block: literals, then a match, as each says. `at_` is the unit's byte at which their bits begin. -/
def zSequences (bits : Array Byte) (at_ : Nat) (tl tf tm : FseTable) (r : ZReach) (lits : Array Byte) : (n : Nat) → ZWork → ZWork
  | 0, w => if w.left = 0 then w else { w with halt := some (.bad at_) }
  | n + 1, w =>
    let here := at_ + (w.left - 1) / 8
    let stop := fun h => { w with halt := some h }
    let ll := tl.cells.getD w.states.1 ⟨0, 0, 0⟩
    let off := tf.cells.getD w.states.2.1 ⟨0, 0, 0⟩
    let ml := tm.cells.getD w.states.2.2 ⟨0, 0, 0⟩
    match zFields bits w.left ll off ml with
    | none => stop (.bad here)
    | some (value, mlen, llen, left) =>
      let o := zOffset w.tables.reps value llen
      let before := w.out.size + llen
      if w.lits + llen > lits.size then stop (.bad here)
      else if !r.reaches before o.1 || before + mlen > r.full then stop (.bad here)
      else if before + mlen > r.bound then stop (.over here)
      else
        let out := copyBack o.1 mlen (w.out ++ lits.extract w.lits (w.lits + llen))
        let w2 := { w with out := out, lits := w.lits + llen, left := left, tables := { w.tables with reps := o.2 } }
        if n = 0 then zSequences bits at_ tl tf tm r lits n w2
        else
          match zNext bits left ll off ml with
          | none => { w2 with halt := some (.bad here) }
          | some (states, left) => zSequences bits at_ tl tf tm r lits n { w2 with states := states, left := left }

/-- The three tables of a sequences section, and the byte after them. -/
def zSeqTables (d : Array Byte) (o modes : Nat) (t : ZTables) : Option (FseTable × FseTable × FseTable × Nat) :=
  (zTable d o (natField modes 6 2) 9 36 zLitDefault t.ll).bind fun l =>
    (zTable d l.2 (natField modes 4 2) 8 32 zOffDefault t.off).bind fun f =>
      (zTable d f.2 (natField modes 2 2) 9 53 zMatchDefault t.ml).map fun m => (l.1, f.1, m.1, m.2)

/-- The number of sequences at a byte, and the byte after it. -/
def zSeqCount (d : Array Byte) (o : Nat) : Option (Nat × Nat) :=
  let b := fun i => (d.getD (o + i) 0).toNat
  let size := if b 0 < 128 then 1 else if b 0 < 255 then 2 else 3
  if o + size > d.size then none
  else some (if b 0 < 128 then b 0 else if b 0 < 255 then (b 0 - 128) * 256 + b 1 else b 1 + 256 * b 2 + 0x7F00, o + size)

/-- A compressed block of the bytes `d`, which begin at byte `at_` of the unit. -/
def zBlock (d : Array Byte) (at_ : Nat) (r : ZReach) (t : ZTables) (out : Array Byte) : ZWork :=
  let start : ZWork := ⟨out, 0, 0, (0, 0, 0), t, none⟩
  let fail := fun (o : Nat) => { start with halt := some (.bad (at_ + o)) }
  match zLiterals d t with
  | none => fail 0
  | some (lits, o, t) =>
    let finish := fun (w : ZWork) =>
      let rest := lits.extract w.lits lits.size
      if w.halt.isSome then w
      else if w.out.size + rest.size > r.full then { w with halt := some (.bad at_) }
      else if w.out.size + rest.size > r.bound then { w with halt := some (.over (at_ + d.size - 1)) }
      else { w with out := w.out ++ rest }
    match zSeqCount d o with
    | none => fail o
    | some (0, p) => if p < d.size then fail p else finish { start with tables := t }
    | some (n, p) =>
      let modes := (d.getD p 0).toNat
      if p ≥ d.size || modes % 4 ≠ 0 then fail p else
      match zSeqTables d (p + 1) modes t with
      | none => fail (p + 1)
      | some (tl, tf, tm, q) =>
        let bits := d.extract q d.size
        let states := (backStart bits).bind fun n => (backBits bits n tl.log).bind fun x =>
          (backBits bits x.2 tf.log).bind fun y => (backBits bits y.2 tm.log).map fun z => ((x.1, y.1, z.1), z.2)
        match states with
        | none => fail q
        | some (st, left) =>
          let t := { t with ll := some tl, off := some tf, ml := some tm }
          finish (zSequences bits (at_ + q) tl tf tm r lits n ⟨out, 0, left, st, t, none⟩)

/-! ### Frames -/

/-- A dictionary (RFC 8878, 5): its Dictionary_ID, tables and content. -/
structure ZDict where
  id : Nat
  tables : ZTables
  content : Array Byte
deriving DecidableEq, Repr

/-- Read a dictionary; none where it declares no Dictionary_ID, or is malformed. -/
def zDictOf (bs : Bytes) : Option ZDict :=
  let d := bs.toArray
  if fieldAt bs 0 4 ≠ 0xEC30A437 then none else
  (huffmanRead d 8).bind fun h =>
    (fseRead d h.2 8 32).bind fun f =>
      (fseRead d f.2 9 53).bind fun m =>
        (fseRead d m.2 9 36).bind fun l =>
          let rep := fun i => fieldAt bs (l.2 + 4 * i) 4
          let content := d.extract (l.2 + 12) d.size
          if l.2 + 12 > d.size || ([rep 0, rep 1, rep 2].any fun x => x = 0 || content.size < x) then none
          else some ⟨fieldAt bs 4 4, ⟨some h.1, some l.1, some f.1, some m.1, (rep 0, rep 1, rep 2)⟩, content⟩

/-- A 64-bit lane of XXH64 takes a word. -/
def xxRound (acc w : Nat) : Nat :=
  let x := (acc + w * 0xC2B2AE3D27D4EB4F) % 2 ^ 64
  (((x * 2 ^ 31) % 2 ^ 64 + x / 2 ^ 33) * 0x9E3779B185EBCA87) % 2 ^ 64

/-- Rotate a 64-bit number left. -/
def rotl64 (x n : Nat) : Nat := (x * 2 ^ n) % 2 ^ 64 + x / 2 ^ (64 - n)

/-- What is left after the stripes of XXH64: words of eight bytes, one of four, bytes. -/
def xxTail : (fuel : Nat) → Bytes → Nat → Nat
  | 0, _, h => h
  | fuel + 1, bs, h =>
    if bs.length ≥ 8 then
      xxTail fuel (bs.drop 8) ((rotl64 (h ^^^ xxRound 0 (fieldAt bs 0 8)) 27 * 0x9E3779B185EBCA87 + 0x85EBCA77C2B2AE63) % 2 ^ 64)
    else if bs.length ≥ 4 then
      xxTail fuel (bs.drop 4) ((rotl64 (h ^^^ (fieldAt bs 0 4 * 0x9E3779B185EBCA87 % 2 ^ 64)) 23 * 0xC2B2AE3D27D4EB4F + 0x165667B19E3779F9) % 2 ^ 64)
    else
      match bs with
      | [] => h
      | b :: t => xxTail fuel t (rotl64 (h ^^^ (b.toNat * 0x27D4EB2F165667C5 % 2 ^ 64)) 11 * 0x9E3779B185EBCA87 % 2 ^ 64)

/-- XXH64 with seed 0, which Content_Checksum is taken from. -/
def xxh64 (bs : Bytes) : Nat :=
  let p1 := 0x9E3779B185EBCA87
  let p2 := 0xC2B2AE3D27D4EB4F
  let start := [(p1 + p2) % 2 ^ 64, p2, 0, 2 ^ 64 - p1]
  let stripes := (chunksOf 32 bs.length bs).filter fun s => s.length = 32
  let h :=
    if stripes.isEmpty then 0x27D4EB2F165667C5
    else
      let lanes := stripes.foldl (fun (v : List Nat) s => v.zipIdx.map fun x => xxRound x.1 (fieldAt s (8 * x.2) 8)) start
      let sum := ((lanes.zip [1, 7, 12, 18]).foldl (fun n x => n + rotl64 x.1 x.2) 0) % 2 ^ 64
      lanes.foldl (fun h v => ((h ^^^ xxRound 0 v) * p1 + 0x85EBCA77C2B2AE63) % 2 ^ 64) sum
  let h := xxTail bs.length (bs.drop (32 * stripes.length)) ((h + bs.length) % 2 ^ 64)
  let h := (h ^^^ (h / 2 ^ 33)) * p2 % 2 ^ 64
  let h := (h ^^^ (h / 2 ^ 29)) * 0x165667B19E3779F9 % 2 ^ 64
  h ^^^ (h / 2 ^ 32)

/-- A frame at work: byte position, history and output, tables. -/
structure ZFrame where
  pos : Nat
  out : Array Byte
  tables : ZTables
  halt : Option Halt
deriving DecidableEq, Repr

/-- The blocks of a frame. -/
def zBlocks (d : Array Byte) (r : ZReach) : (fuel : Nat) → ZFrame → ZFrame
  | 0, f => { f with halt := some .early }
  | fuel + 1, f =>
    if f.pos + 3 > d.size then { f with halt := some .early } else
    let h := leNat ((d.extract f.pos (f.pos + 3)).toList)
    let n := h / 8
    let at_ := f.pos + 3
    let limit := min r.window (2 ^ 17)
    let next := fun (g : ZFrame) => if g.halt.isSome || h % 2 = 1 then g else zBlocks d r fuel g
    let room := r.bound - f.out.size
    if n > limit || h / 2 % 4 = 3 then { f with halt := some (.bad f.pos) } else
    match h / 2 % 4 with
    | 0 =>
      let take := min n (min room (d.size - at_))
      let g := { f with pos := at_ + take, out := f.out ++ d.extract at_ (at_ + take) }
      if take = n then next g
      else if room < d.size - at_ then { g with halt := some (.over (at_ + take)) }
      else { g with halt := some .early }
    | 1 =>
      if at_ ≥ d.size then { f with halt := some .early }
      else if room < n then { f with halt := some (.over at_) }
      else next { f with pos := at_ + 1, out := f.out ++ Array.replicate n (d.getD at_ 0) }
    | _ =>
      if at_ + n > d.size then { f with halt := some .early }
      else
        let w := zBlock (d.extract at_ (at_ + n)) at_ { r with full := f.out.size + limit } f.tables f.out
        next ⟨at_ + n, w.out, w.tables, w.halt⟩

/-- The header of a frame: window, content size, checksum flag, the place and value of its Dictionary_ID, and the byte
after it. -/
structure ZHeader where
  window : Nat
  content : Option Nat
  checked : Bool
  dictAt : Nat
  dict : Nat
  next : Nat
deriving DecidableEq, Repr

/-- Read a frame header that begins after the magic number at `o`. -/
def zHeader (bs : Bytes) (len o : Nat) : Except Halt ZHeader :=
  if len < o + 1 then .error .early else
  let f := fieldAt bs o 1
  let single := natBit f 5
  let dictAt := o + (if single then 1 else 2)
  let dictLen := [0, 1, 2, 4].getD (f % 4) 0
  let sizeAt := dictAt + dictLen
  let sizeLen := [if single then 1 else 0, 2, 4, 8].getD (f / 64) 0
  let content := if sizeLen = 0 then none else some (fieldAt bs sizeAt sizeLen + if sizeLen = 2 then 256 else 0)
  let w := fieldAt bs (o + 1) 1
  let base := 2 ^ (10 + w / 8)
  let window := if single then content.getD 0 else base + base / 8 * (w % 8)
  if natBit f 3 then .error (.bad o)
  else if len < sizeAt + sizeLen then .error .early
  else if window > 2 ^ 27 then .error (.unsupported (if single then sizeAt else o + 1))
  else .ok ⟨window, content, natBit f 2, dictAt, fieldAt bs dictAt dictLen, sizeAt + sizeLen⟩

/-- The frames of a unit from a byte on; `first` is the first fault found so far (R103). -/
def unpackZstdFrom (maxOut : Nat) (dicts : List Bytes) (bs : Bytes) (d : Array Byte) :
    (fuel o : Nat) → Array Byte → Option (Nat × Nat) → Unpacked
  | 0, _, out, first => ⟨out.toList, first, false⟩
  | fuel + 1, o, out, first =>
    let stop := fun (out : Array Byte) (h : Halt) => unpackedOf bs.length out.toList first (some h)
    let magic := sliceAt bs o 4
    let rest := d.size - o
    let skip := decide (0x50 ≤ fieldAt bs o 1 ∧ fieldAt bs o 1 ≤ 0x5F) && magic.drop 1 = [0x2A, 0x4D, 0x18]
    let starts := (List.range 0x10).map (fun i => leBytes 4 (0x184D2A50 + i)) ++ [leBytes 4 0xFD2FB528]
    if rest = 0 then ⟨out.toList, first, false⟩
    else if rest < 4 then stop out (if starts.any fun m => m.take rest = bs.drop o then .early else .bad o)
    else if skip then
      if rest < 8 || rest < 8 + fieldAt bs (o + 4) 4 then stop out .early
      else unpackZstdFrom maxOut dicts bs d fuel (o + 8 + fieldAt bs (o + 4) 4) out first
    else if fieldAt bs o 4 ≠ 0xFD2FB528 then stop out (.bad o)
    else
      match zHeader bs d.size (o + 4) with
      | .error h => stop out h
      | .ok h =>
        let dict := if h.dict = 0 then some ⟨0, ZTables.new, #[]⟩
          else (dicts.filterMap zDictOf).find? fun x => x.id = h.dict
        match dict with
        | none => stop out (.unsupported h.dictAt)
        | some dt =>
          let n := dt.content.size
          let f := zBlocks d ⟨n, h.window, n + (maxOut - out.size), 0⟩ (d.size + 1) ⟨h.next, dt.content, dt.tables, none⟩
          let mine := f.out.extract n f.out.size
          let out := out ++ mine
          if f.halt.isSome then unpackedOf bs.length out.toList first f.halt
          else if h.content.any fun c => c ≠ mine.size then stop out (.bad (h.next - 1))
          else if !h.checked then unpackZstdFrom maxOut dicts bs d fuel f.pos out first
          else if f.pos + 4 > d.size then stop out .early
          else
            let wrong := if xxh64 mine.toList % 2 ^ 32 = fieldAt bs f.pos 4 then none else some (dmgChecksum, f.pos)
            unpackZstdFrom maxOut dicts bs d fuel (f.pos + 4) out (first.or wrong)

/-- A Zstandard unit. -/
def unpackZstd (maxOut : Nat) (dicts : List Bytes) (bs : Bytes) : Unpacked :=
  unpackZstdFrom maxOut dicts bs bs.toArray (bs.length + 1) 0 #[] none

end Sys2Proof.Machine
end

