-- ==== Sys2Proof/Machine/Engines.lean ====
section
/-! DEFINITION. The engine stages: CRYPT, DECOMPRESS, DIGEST, DECODE with region steering, RESAMPLE, TOKENIZE and
COMPRESS (R97, R101 to R128, R141, R142, R285, R289). -/

namespace Sys2Proof.Machine

/-! ### CRYPT (R101, R125, R355) -/

/-- NONCE_BASE of re-encrypted output (R355). -/
def reencryptNonce (im : Image) (j : Job) (it : Item) : Bytes :=
  (sha256 (im.digest ++ j.desc.seed ++ j.manifest.digest ++ leBytes 4 it.epoch ++ leBytes 8 it.position)).take 8

/-- The CRYPT stage acts on an item: MODE 0 decrypts what is still encrypted, MODE 1 re-encrypts what the stage is
given. A sample without bytes passes. -/
def State.crypt (s : State) (im : Image) (st : Stage) (it : Item) : State :=
  let table := im.table st.table
  match s.jobs.find it.slot with
  | none => s
  | some j =>
    match it.payload with
    | .nothing => s.passOn im st it it
    | .stored c p =>
      if fieldAt table 0 1 = 1 then
        s.passOn im st it { it with payload := .bytes (sealObject (s.secret (fieldAt table 4 4)) (reencryptNonce im j it) c) }
      else
        match (j.entryOf it.sample).bind fun (e : Nat × Shard × IndexEntry) => s.plainOf e.2.1 e.2.2.offset e.2.2.length (.stored c p) with
        | some b => s.sampleRead im st it (.bytes b)
        | none => (s.damageFree it dmgAuthFail).passOn im st it it.undecodable
    | p =>
      if fieldAt table 0 1 = 1 then
        s.passOn im st it
          { it with payload := .bytes (sealObject (s.secret (fieldAt table 4 4)) (reencryptNonce im j it) p.toBytes) }
      else s.passOn im st it it

/-- CRYPT_STAGE. -/
def execCryptStage (item : ItemRef) (s : State) : Host.Outcome State Fault Refusal :=
  engineRow item kindCrypt (fun s im st it => s.crypt im st it) s

/-! ### DECOMPRESS (R102, R103, R126) -/

/-- The dictionaries of a DECOMPRESS stage. -/
def Image.dicts (im : Image) (table : Bytes) : List Bytes :=
  if fieldAt table 8 4 = noIndex then [] else (List.range (fieldAt table 0xC 1)).map fun i => im.table (fieldAt table 8 4 + i)

/-- Decode a unit by its CODEC (Table 4-5). -/
def unpackBy (codec maxOut : Nat) (dicts : List Bytes) (bs : Bytes) : Unpacked :=
  match codec with
  | 0x01 => unpackDeflate maxOut bs
  | 0x02 => unpackZlib maxOut dicts bs
  | 0x03 => unpackGzip maxOut bs
  | 0x04 => unpackZstd maxOut dicts bs
  | 0x05 => unpackSnappy maxOut bs
  | 0x06 => unpackBriar maxOut bs
  | _ => ⟨bs, none, false⟩

/-- What decompression makes of an item, with the damage it finds recorded. -/
def State.decompressed (s : State) (im : Image) (st : Stage) (it : Item) : State × Item :=
  if it.payload = .nothing then (s, it)
  else
    let table := im.table st.table
    let codec := (((s.jobs.find it.slot).bind fun j => j.shardOf it.sample).map (·.2.codec)).getD 0
    let r := unpackBy codec (fieldAt table 0 4) (im.dicts table) it.payload.toBytes
    let t := match r.fault with
      | some f => s.damage it (damageAt f.1 f.2)
      | none => s
    (t, if r.undecodable then it.undecodable else { it with payload := .bytes r.out })

/-- The DECOMPRESS stage acts on an item. -/
def State.decompress (s : State) (im : Image) (st : Stage) (it : Item) : State :=
  let r := s.decompressed im st it
  r.1.passOn im st it r.2

/-- DECOMPRESS_STAGE. -/
def execDecompressStage (item : ItemRef) (s : State) : Host.Outcome State Fault Refusal :=
  engineRow item kindDecompress (fun s im st it => s.decompress im st it) s

/-! ### DIGEST (R97, R205) -/

/-- The input digest is computed, and compared with the index entry's. -/
def State.digested (s : State) (it : Item) : State × Item :=
  match (s.place it.key).bind (·.facts.raw), s.jobs.find it.slot with
  | some raw, some j =>
    let d := sha256 raw
    let t := s.adjustFacts it.key fun f => { f with input := some d, inputAt := some it.stage }
    match (j.entryOf it.sample).bind fun (e : Nat × Shard × IndexEntry) => e.2.2.digest with
    | some want => if want = d then (t, it) else (t.damageFree it dmgDigest, it.undecodable)
    | none => (t, it)
  | _, _ => (s, it)

/-- DIGEST_STAGE. -/
def execDigestStage (item : ItemRef) (s : State) : Host.Outcome State Fault Refusal :=
  engineRow item kindDigest (fun s im _ it =>
    let r := s.digested it
    r.1.handOn im it [(0, r.2)]) s

/-! ### Images (R104 to R106, R119 to R121) -/

/-- What a decoder finds in an item: its output, the first damage, the concealed units and the units in all, and the pieces that
the sample was decoded in, 0 where it was not split. -/
structure Decoded where
  payload : Payload
  damage : Option Damage
  concealed : Nat
  total : Nat
  pieces : Nat
deriving DecidableEq, Repr

/-- What a decoder makes of a sample. -/
inductive DecodeResult where
  /-- Its header gives no usable dimensions or format (R120). -/
  | unusable
  /-- It is outside the supported profile. -/
  | unsupported
  | decoded (d : Decoded)
deriving DecidableEq, Repr

/-- Decode a still image: a JPEG by its first two bytes, else a PNG (R104, R106). -/
def decodeImage (b : Bytes) : DecodeResult :=
  if b.take 2 = [0xFF, 0xD8] then
    match jpegDecode b with
    | .unusable => .unusable
    | .unsupported => .unsupported
    | .image p grey blocks pieces damage => .decoded ⟨.picture p, damage, grey, blocks, pieces.length⟩
  else
    match pngDecode b with
    | .unusable => .unusable
    | .unsupported => .unsupported
    | .image p => .decoded ⟨.picture p.picture, p.damage, p.grey, p.header.w * p.header.h, 0⟩

/-- Does a concealed share exceed DAMAGE_LIMIT / 256 (R120)? -/
def overLimit (limit concealed total : Nat) : Bool := limit * total < 256 * concealed

/-- A sample that gives no usable format is UNDECODABLE; the spec states no code for it. -/
def State.unusable (s : State) (it : Item) : State × Item :=
  let code := [dmgSyntax, dmgTruncated, dmgUnsupported].getD (Config.unusableCode it.payload.toBytes % 3) dmgSyntax
  (s.damageFree it code, it.undecodable)

/-- A sample that a decoder does not support is UNDECODABLE. -/
def State.unsupported (s : State) (it : Item) : State × Item := (s.damageFree it dmgUnsupported, it.undecodable)

/-- The flags of a decoded item: CONCEALED where damage was concealed, UNDECODABLE over DAMAGE_LIMIT. -/
def Decoded.flagged (d : Decoded) (limit : Nat) (it : Item) : Item :=
  let it := if d.damage.isSome then it.flag flagConcealed else it
  if overLimit limit d.concealed d.total then it.flag flagUndecodable else it

/-- Record what a decoder found: its damage, and a split sample. -/
def State.decodedSample (s : State) (it : Item) (d : Decoded) : State :=
  let t := match d.damage with
    | some x => s.damage it x
    | none => s
  if d.pieces ≠ 0 then t.bump (Reg.DEC_SPLIT it.slot) Fld.DEC_SPLIT_COUNT else t

/-- What a decoder makes of an item, with the damage recorded. -/
def State.decodedItem (s : State) (it : Item) (limit : Nat) : DecodeResult → State × Item
  | .unusable => s.unusable it
  | .unsupported => s.unsupported it
  | .decoded d => (s.decodedSample it d, d.flagged limit { it with payload := d.payload })

/-- An image decode engine acts on an item. -/
def State.imageDecode (s : State) (im : Image) (st : Stage) (it : Item) : State :=
  let table := im.table st.table
  if fieldAt table 0 1 ≠ 1 then s
  else if it.passes || it.payload = .nothing then s.handOn im it [(0, it)]
  else
    let r := s.decodedItem it (fieldAt table 2 2) (decodeImage it.payload.toBytes)
    r.1.handOn im it [(0, r.2)]

/-- IMAGE_DECODE. -/
def execImageDecode (item : ItemRef) (s : State) : Host.Outcome State Fault Refusal :=
  engineRow item kindDecode (fun s im st it => s.imageDecode im st it) s

/-! ### Video (R107, R108, R114 to R117, R121) -/

/-- The fields of a DECODE table that video uses (Table 4-14). -/
structure VideoTable where
  steer : Bool
  grain : Bool
  accel : Bool
  limit : Nat
  first : Nat
  stride : Nat
  count : Nat
  wait : Nat
  initial : Nat
deriving DecidableEq, Repr

/-- Read a DECODE table. -/
def videoTableOf (t : Bytes) : VideoTable :=
  let f := fieldAt t 1 1
  ⟨natBit f 0, natBit f 1, natBit f 2, fieldAt t 2 2, fieldAt t 4 4, fieldAt t 8 4, fieldAt t 0xC 4, fieldAt t 0x10 4, fieldAt t 0x14 4⟩

/-- The frames that the table selects, in presentation order. -/
def VideoTable.selected (v : VideoTable) : List Nat := (List.range v.count).map fun i => v.first + v.stride * i

/-- The video that an item is decoded from. -/
def Item.video (it : Item) : Option VideoSource := videoSource it.past it.payload.toBytes

/-- Decode a video sample: its selected frames, grey where the stream ends before them. -/
def decodeVideo (v : VideoTable) (src : VideoSource) : Decoded :=
  let w := src.decode src.stream.frames.length (fun _ => none)
  let own := src.presented w.frames
  let shown := fun (f : VideoFrame × Nat) => if v.grain then Config.videoGrain src.bytes f.2 f.1 else f.1
  let grey := (own.head?.map fun f => greyFrame f.1).getD ⟨0, 0, 8, [], 0, false, false⟩
  let taint := (v.selected.filterMap fun i => own[i]?).find? fun f => f.1.tainted
  let missing := v.selected.find? fun i => own.length ≤ i
  let damage := (w.concealed.head?.bind src.damageOf).or
    ((taint.map fun f => { damageAt dmgRefTaint 0 with frame := f.2 - src.skip }).or
      (missing.map fun i => { damageAt dmgTruncated (src.bytes.length - src.before) with frame := i }))
  { payload := .frames (v.selected.map fun i => (own[i]?.map shown).getD grey)
    damage := damage
    concealed := w.concealed.length
    total := src.ownUnits.length
    pieces := src.pieces }

/-- The table whose steps 1 and 6 steered pixels pass: that of the RESAMPLE stage that the DECODE stage feeds (log entry 32). -/
def Image.steerTable (im : Image) (id : Nat) : ResampleTable :=
  resampleTableOf ((((im.feeds id 0).find? fun (e : Nat × Nat) => im.stageKind e.1 = kindResample).map fun (e : Nat × Nat) =>
    im.stageTable e.1).getD ([0, 0, 0, 0, 1, 0, 1, 0, 3] ++ List.replicate 55 0))

/-- The record of one unit: X, Y, W, H and its pixels after steps 1 and 6. -/
def unitRecord (t : ResampleTable) (f : VideoFrame) (r : Rect) : Bytes :=
  let planes := (colourStep (natBit t.flags 5) t.channels (framePicture f)).map (cropPlane r.x0 r.y0 (r.x1 - r.x0) (r.y1 - r.y0))
  leBytes 2 r.x0 ++ leBytes 2 r.y0 ++ leBytes 2 (r.x1 - r.x0) ++ leBytes 2 (r.y1 - r.y0) ++ packPlanes t f.bitDepth planes

/-- One frame of a steered sample under a region list, or in full: what it transfers, and the units of it that were concealed. A
frame beyond the stream's end is one grey unit. -/
def steeredFrame (t : ResampleTable) (v : VideoTable) (src : VideoSource) (frame : Nat) (rects : Option (List Rect)) : Bytes × List Nat :=
  let i := src.skip + frame
  let w := src.decode (i + 1) fun j => if j = i then rects.bind (src.wanted i) else none
  match src.stream.frames[i]?, w.frames[i]? with
  | some _, some f =>
    let f := if v.grain then Config.videoGrain src.bytes i f else f
    ((src.chosen i rects).flatMap fun u => unitRecord t f (Rect.of u.2), w.concealed.filter fun k => (src.stream.units[k]?).any fun u => u.frame = i)
  | _, _ =>
    match w.frames[src.skip]? with
    | some f => (unitRecord t (greyFrame f) ⟨0, 0, f.width, f.height⟩, [])
    | none => ([], [])

/-- The region list of a frame of an item, where it has arrived. -/
def Job.regionFor (j : Job) (it : Item) : Option Bytes :=
  (j.regions.find? fun (r : Nat × Nat × Nat × Bytes) => r.1 = it.stage && r.2.1 = it.position && r.2.2.1 = it.frame).map
    fun (r : Nat × Nat × Nat × Bytes) => r.2.2.2

/-- The list that a frame is decoded by: none where the decoder still waits for it, else the rectangles, or none for
the whole frame. -/
def steeredList (im : Image) (v : VideoTable) (j : Job) (it : Item) : Option (Option (List Rect)) :=
  if it.frame = 0 then some (if v.initial = noIndex then none else some (regionRects (im.table v.initial)))
  else (j.regionFor it).map fun b => some (regionRects b)

/-- Decode one frame of a steered sample, emit it if the table selects it, and go on to the next; after the last one the sample
leaves the stage. Damage counts in the units that were reconstructed (R115, R119, R120). -/
def State.steerFrame (s : State) (im : Image) (v : VideoTable) (it : Item) (src : VideoSource) (rects : Option (List Rect))
    (late : Bool) : State :=
  let r := steeredFrame (im.steerTable it.stage) v src it.frame rects
  let beyond := decide (src.ownFrames ≤ it.frame) && v.selected.contains it.frame
  let found := (r.2.head?.bind src.damageOf).or
    (if beyond then some { damageAt dmgTruncated (src.bytes.length - src.before) with frame := it.frame } else none)
  let count := it.concealed + r.2.length
  let d : Decoded := ⟨it.payload, found, count, src.ownUnits.length, if it.frame = 0 then src.pieces else 0⟩
  let t := s.decodedSample it d
  let t := if late then t.bumpSat (Reg.DEC_REGION_DEFAULT it.slot) Fld.DEC_REGION_DEFAULT_COUNT else t
  let t := t.adjustJob it.slot fun j => { j with regions := j.regions.filter fun (r : Nat × Nat × Nat × Bytes) =>
    !(r.1 = it.stage && r.2.1 = it.position && r.2.2.1 = it.frame) }
  let out := if v.selected.contains it.frame then r.1 else []
  let it2 := d.flagged v.limit (if late then it.flag flagRegionDefault else it)
  let piece := { it2 with payload := .bytes out, pieces := [] }
  let next := { it2 with frame := it.frame + 1, concealed := count, pieces := it.pieces ++ [out] }
  if v.first + v.stride * (v.count - 1) ≤ it.frame then
    let t := (t.takeItem it).emit im piece 0
    (t.heelEmitted it.slot it.stage it.epoch it.position [(it.pieceKey 0, it2.flags, next.pieces.flatten)]).completeSample it.key
  else
    let t := t.putItem it next
    if out.isEmpty then t else t.emit im piece 0

/-- A video decode engine acts on an item: the whole sample, or under steering its next frame. A sample whose frames are reordered
is decoded in full (R114). -/
def State.videoDecode (s : State) (im : Image) (st : Stage) (it : Item) : State :=
  let v := videoTableOf (im.table st.table)
  let whole := fun (r : DecodeResult) =>
    let x := s.decodedItem it v.limit r
    x.1.handOn im it [(0, x.2)]
  if fieldAt (im.table st.table) 0 1 ≠ 2 then s
  else if it.passes || it.payload = .nothing then s.handOn im it [(0, it)]
  else
    match it.video, s.jobs.find it.slot with
    | some src, some j =>
      if !videoSupported src.stream then whole .unsupported
      else if v.steer && !src.reordered then
        match steeredList im v j it with
        | some rects => s.steerFrame im v it src rects false
        | none => if v.accel && v.wait = 0 then s.steerFrame im v it src none true else s
      else whole (.decoded (decodeVideo v src))
    | _, _ => whole .unusable

/-- VIDEO_DECODE. -/
def execVideoDecode (item : ItemRef) (s : State) : Host.Outcome State Fault Refusal :=
  engineRow item kindDecode (fun s im st it => s.videoDecode im st it) s

/-- REGION_WAIT passes for a frame's list (R116): the frame is decoded and transferred in full. -/
def State.regionExpired (s : State) (im : Image) (st : Stage) (it : Item) (frame : Nat) : State :=
  let v := videoTableOf (im.table st.table)
  match it.video, s.jobs.find it.slot with
  | some src, some j =>
    if v.steer && v.accel && !src.reordered && it.frame = frame && frame ≠ 0 && (j.regionFor it).isNone then
      s.steerFrame im v it src none true
    else s
  | _, _ => s

/-- REGION_WAIT_EXPIRY. -/
def execRegionWaitExpiry (item : ItemRef) (frame : Nat) (s : State) : Host.Outcome State Fault Refusal :=
  engineRow item kindDecode (fun s im st it => s.regionExpired im st it frame) s

/-! ### RESAMPLE (R110 to R113, R120) -/

/-- The bit depth of a fill tensor: the picture's where there is one; the spec does not say which where there is none. -/
def fillDepth (stage sample : Nat) : Payload → Nat
  | .picture p => p.depth
  | .frames (f :: _) => f.bitDepth
  | _ => [8, 10, 16].getD (Config.fillGrey stage sample % 3) 8

/-- A resampler engine acts on an item. Steered output passes. -/
def State.resampleItem (s : State) (im : Image) (st : Stage) (it : Item) : State :=
  let t := resampleTableOf (im.table st.table)
  match s.jobs.find it.slot with
  | none => s
  | some j =>
    if hasFlag it.flags flagUndecodable then
      s.handOn im it [(0, { it with payload := .bytes (fillTensor t (fillDepth st.id it.sample it.payload)) })]
    else
      let tensor := resample t j.desc.seed it.epoch it.sample st.id
      match it.payload with
      | .picture p => s.handOn im it [(0, { it with payload := .bytes (tensor p) })]
      | .frames fs => s.handOn im it [(0, { it with payload := .bytes (fs.flatMap fun f => tensor (framePicture f)) })]
      | _ => s.handOn im it [(0, it)]

/-- RESAMPLE. -/
def execResample (item : ItemRef) (s : State) : Host.Outcome State Fault Refusal :=
  engineRow item kindResample (fun s im st it => s.resampleItem im st it) s

/-! ### TOKENIZE (R141, R142, R162) -/

/-- The tokens of an item with the offsets of their first bytes, BOS and EOS included; those have no byte in the text,
so their offsets are constants of Config applied to it. -/
def tokenize (v : Vocab) (flags : Nat) (pieces : List Bytes) : List Token :=
  let mark := fun (eos : Bool) => Config.markOffset eos pieces.flatten % 2 ^ 32
  let bos := if natBit flags 0 then [⟨v.bosId, mark false, false⟩] else []
  let eos := if natBit flags 1 then [⟨v.eosId, mark true, false⟩] else []
  bos ++ tokenizePieces v 0 pieces ++ eos

/-- The pieces that TOKENIZE is given: those of lib.text_prep, or the bytes as one piece. -/
def Item.tokenPieces (it : Item) : List Bytes :=
  if it.pieces.isEmpty then (if it.payload.toBytes.isEmpty then [] else [it.payload.toBytes]) else it.pieces

/-- A tokenizer engine acts on an item. A rejected or otherwise UNDECODABLE sample has the empty sequence (R133). -/
def State.tokenizeItem (s : State) (im : Image) (st : Stage) (it : Item) : State :=
  let table := im.table st.table
  let flags := fieldAt table 4 1
  if hasFlag it.flags flagUndecodable then s.handOn im it [(0, { it with payload := .bytes [], pieces := [] })]
  else if it.passes || it.payload = .nothing then s.handOn im it [(0, it)]
  else
    let k := fieldAt table 0 4
    let v := vocabOf (im.table k)
    let toks := tokenize v flags it.tokenPieces
    let es := assocList im.engines st.id
    let engine := es.getD (Config.tokenizerEngine st.id it.epoch it.position % es.length) 0
    let hedge := ((s.jobs.find it.slot).map (·.desc.hedge)).getD 0
    let s := s.readVocab (decide (32 ≤ engine)) hedge k im (v.linesOf (Config.tokenizerReads (im.table k) it.tokenPieces.flatten))
    let t := s.bump (Reg.TOK_TOKENS it.slot) Fld.TOK_TOKENS_COUNT toks.length
    let t := t.bump (Reg.TOK_FALLBACK it.slot) Fld.TOK_FALLBACK_COUNT (toks.filter (·.fallback)).length
    let out := fun (f : Token → Nat) => { it with payload := .bytes (toks.flatMap fun k => leBytes 4 (f k)), pieces := [] }
    t.handOn im it ((0, out (·.id)) :: (if natBit flags 2 then [(1, out (·.off))] else []))

/-- TOKENIZE. -/
def execTokenize (item : ItemRef) (s : State) : Host.Outcome State Fault Refusal :=
  engineRow item kindTokenize (fun s im st it => s.tokenizeItem im st it) s

/-! ### What library routines compute on kennels (R88, R109, R131 to R136, R144, R90 to R92) -/

/-- lib.text_prep on an item of a PARSE stage (R131 to R136): damage, counters and flags of ill-formed text, and the
pieces. -/
def State.textPrepared (s : State) (im : Image) (st : Stage) (it : Item) : State × Item :=
  let p := parseTableOf (im.table st.table)
  let chardata := im.table p.chardata
  let r := textPrep p (sliceAt chardata 64 (fieldAt chardata 8 4)) (if p.classes = noIndex then none else some (im.table p.classes))
    it.payload.toBytes
  let t := match r.firstBad with
    | some off => s.damage it ⟨dmgText, off, 7, 0, 0, 0⟩
    | none => s
  if r.rejected then (t.bumpSat (Reg.TOK_REJECTED it.slot) Fld.TOK_REJECTED_COUNT, it.undecodable)
  else
    let t := t.bump (Reg.TOK_REPLACED it.slot) Fld.TOK_REPLACED_COUNT r.replaced
    let it := if r.firstBad.isSome then it.flag flagConcealed else it
    (t, { it with payload := .bytes r.pieces.flatten, pieces := r.pieces })

/-- lib.detok on the tokens of an item (R144): the text, and the replacements that it counts. -/
def detokenize (v : Vocab) (toks : List Nat) : Bytes × Nat :=
  let cs := utf8Decode (toks.flatMap (detokBytes v))
  let strange := (toks.filter fun t => v.size ≤ t).length
  let cps := cs.map fun (c : Char8) => c.cp
  let cps := if v.dropLeadSpace && cps.head? = some 0x20 then cps.drop 1 else cps
  (cps.flatMap utf8Encode, (cs.filter fun (c : Char8) => c.bad).length + strange)

/-- lib.detok on an item of a DETOKENIZE stage. -/
def State.detokenized (s : State) (im : Image) (st : Stage) (it : Item) : State × Item :=
  let r := detokenize (vocabOf (im.table (fieldAt (im.table st.table) 0 4))) (tokensOf it.payload.toBytes)
  (s.bump (Reg.TOK_REPLACED it.slot) Fld.TOK_REPLACED_COUNT r.2, { it with payload := .bytes r.1 })

/-- Decode audio by FORMAT: the clip of the stage table (R109, R119, R120). -/
def decodeAudio (t b : Bytes) : DecodeResult :=
  match (match fieldAt t 0 1 with
    | 3 => flacDecode b
    | 4 => opusDecode b
    | _ => wavDecode b) with
  | .unusable => .unusable
  | .unsupported => .unsupported
  | .stream a =>
    let c := a.clip (fieldAt t 0x18 8) (fieldAt t 0x20 8)
    let short := if c.2 then some { damageAt dmgTruncated b.length with unit := 6 } else none
    .decoded ⟨.bytes (audioBytes (natBit (fieldAt t 1 1) 3) a c.1), a.damage.or short, (c.1.filter (·.1)).length, c.1.length, 0⟩

/-- An audio routine on an item of a DECODE stage. -/
def State.audioDecoded (s : State) (im : Image) (st : Stage) (it : Item) : State × Item :=
  let t := im.table st.table
  s.decodedItem it (fieldAt t 2 2) (decodeAudio t it.payload.toBytes)

/-- Elements of a model's output as bytes: fp32, or bf16 by OUT_TYPE; scores are always fp32 (Table 3-11). -/
def modelBytes (desc : Bytes) (els : List Nat) : Bytes :=
  if fieldAt desc 0xD 1 = 1 && fieldAt desc 0xC 1 ≠ 2 then els.flatMap fun e => leBytes 2 (pack bf16 (unpack fp32 e)).1
  else els.flatMap (leBytes 4)

/-- Does a score pass a FILTER stage's test (R91)? -/
def filterKeeps (desc : Bytes) (els : List Nat) : Bool :=
  let score := unpack fp32 (els.getD (fieldAt desc 0x50 1) 0)
  let limit := unpack fp32 (fieldAt desc 0x54 4)
  eqVal score limit || (if fieldAt desc 0x51 1 = 0 then ltVal limit score else ltVal score limit)

/-- lib.model on an item of a MODEL stage, whose output is the embedding or the scores, or of a FILTER stage, which
passes what it keeps and rejects the rest with length 0 and FILTERED (R84, R91). -/
def State.modelled (s : State) (im : Image) (st : Stage) (it : Item) : State × Item :=
  let desc := im.table st.table
  let weights := (((s.jobs.find it.slot).bind fun j => j.models.find? fun m => m.1 = st.id).map (·.2)).getD []
  let els := modelRun desc weights (tokensOf it.payload.toBytes)
  if st.kind = kindModel then (s, { it with payload := .bytes (modelBytes desc els) })
  else if filterKeeps desc els then (s, it)
  else (s, { it.flag flagFiltered with payload := .bytes [] })

/-- What a library routine makes of an item, where the stage's kind and table show that it runs one: the outputs, by
port. Items that are corrupt or filtered pass (R183). -/
def State.libraryOuts (s : State) (im : Image) (st : Stage) (it : Item) : Option (State × List (Nat × Item)) :=
  let one := fun (r : State × Item) => some (r.1, [(im.lowPort st.id, r.2)])
  if st.kind = kindDecompress then
    let r := s.decompressed im st it
    some (r.1.splitOuts im st r.2)
  else if st.kind = kindDigest then one (s.digested it)
  else
    let kind := im.tableKind st.table
    let text := st.kind = kindParse && kind = 0x10
    let audio := st.kind = kindDecode && 3 ≤ fieldAt (im.table st.table) 0 1
    let model := (st.kind = kindModel || st.kind = kindFilter) && kind = 0xA
    let detok := st.kind = kindDetokenize
    if !(text || audio || model || detok) then none
    else if it.passes || it.payload = .nothing then one (s, it)
    else if text then one (s.textPrepared im st it)
    else if audio then one (s.audioDecoded im st it)
    else if model then one (s.modelled im st it)
    else one (s.detokenized im st it)

/-! ### COMPRESS and engine faults (R123, R285, R287, R289) -/

/-- The Briar engine of an engine class and number (R291). -/
def briIndex (cls e : Nat) : Option Nat := if cls = 2 then some e else if cls = 3 then some (32 + e) else none

/-- An engine is retired: its samples wait at their stage again, and a job whose stage has no engine left halts. -/
def State.retireEngine (s : State) (cls e : Nat) : State :=
  if s.retired.contains (cls, e) then s
  else
    let t := { s with retired := s.retired ++ [(cls, e)] }
    let t := match briIndex cls e with
      | some b => t.setFld (Reg.BRI_ENG_STATUS b) Fld.BRI_ENG_STATUS_STATE chRetired
      | none => t
    let used := fun (im : Image) (st : Stage) => st.engineClass = cls && (assocList im.engines st.id).contains e
    let gone := fun (im : Image) (st : Stage) => (assocList im.engines st.id).all fun x => t.retired.contains (cls, x)
    t.jobs.entries.foldl (fun (t : State) (x : Nat × Job) =>
      match t.jobImage x.1 with
      | some im =>
        if t.jobActive x.1 && im.stages.any fun st => used im st && gone im st then t.haltJob x.1 ST_JOB_ENGINES else t
      | none => t) t

/-- A compression engine acts on an item. -/
def State.compressItem (s : State) (im : Image) (st : Stage) (it : Item) : State :=
  let t := im.table st.table
  if it.payload = .nothing then s.handOn im it [(0, it)]
  else
    let r := briCompress (fieldAt t 0 1) (fieldAt t 1 1) (natBit (fieldAt t 2 1) 0) it.payload.toBytes
    (s.bump Reg.BRI_STORED_BLOCKS Fld.BRI_STORED_BLOCKS_COUNT r.2).handOn im it [(0, { it with payload := .bytes r.1 })]

/-- COMPRESS_STAGE: the stage hands the sample to one of its engines. A block that fails its self-verification
releases nothing and retires the engine; the sample is issued again. -/
def execCompressStage (item : ItemRef) (engine : Fin 16) (verified : Bool) (s : State) : Host.Outcome State Fault Refusal :=
  engineRow item kindCompress (fun s im st it =>
    if !(assocList im.engines st.id).contains engine.val || s.retired.contains (3, engine.val) then s
    else if verified then s.compressItem im st it
    else (s.retireEngine 3 engine).bump (Reg.BRI_ENG_VERIFY_FAIL (32 + engine.val)) Fld.BRI_ENG_VERIFY_FAIL_COUNT) s

/-- ENGINE_FAULT: an engine reports an internal fault (R123). -/
def execEngineFault (cls engine : Nat) (s : State) : Host.Outcome State Fault Refusal :=
  if engineCount cls ≤ engine then .fault .noSuchUnit else jobAct (fun s => s.retireEngine cls engine) s

end Sys2Proof.Machine
end

