-- ==== Sys2Proof/Machine/Operands.lean ====
section
/-! DEFINITION. Operand forms of the core instructions (R63 to R69, R75 to R77): types, elements, predicates, the
fields that must be zero, and the core address map. -/

namespace Sys2Proof.Machine

/-! ### Exception codes (Table 3-8) -/

def EX_ILLEGAL : Nat := 0x01
def EX_ADDR : Nat := 0x02
def EX_ALIGN : Nat := 0x03
def EX_OWN : Nat := 0x04
def EX_BOUNDS : Nat := 0x05
def EX_CHAN : Nat := 0x06
def EX_SAMPLE : Nat := 0x07
def EX_DEADLOCK : Nat := 0x08
def EX_BUDGET : Nat := 0x09
def EX_MCHECK : Nat := 0x0A

/-! ### Types (Table 3-2) -/

/-- Bytes of a type. -/
def typeBytes (ty : Nat) : Nat :=
  if ty ≤ 1 then 1 else if ty ≤ 3 || ty = 6 || ty = 7 then 2 else if ty ≤ 5 || ty = 8 then 4 else 8

/-- Is a type a signed integer? -/
def typeSigned (ty : Nat) : Bool := ty = 1 || ty = 3 || ty = 5 || ty = 0xA

/-- The floating-point format of a type, where it is one. -/
def typeFormat (ty : Nat) : Option Format :=
  if ty = 6 then some fp16 else if ty = 7 then some bf16 else if ty = 8 then some fp32 else none

/-- Is a type code assigned (R69)? -/
def typeAssigned (ty : Nat) : Bool := ty ≤ 0xA

/-- May elements of a wide register have the type? -/
def typeWide (ty : Nat) : Bool := ty ≤ 8

/-- Bits of a value of a type as a 64-bit register holds it: sign-extended for the signed types (Table 3-2). -/
def extendTo64 (ty v : Nat) : BitVec 64 :=
  let w := 8 * typeBytes ty
  if typeSigned ty then BitVec.ofInt 64 (signedOf w v) else BitVec.ofNat 64 (v % 2 ^ w)

/-! ### Immediates and fields (Table 3-3) -/

/-- IMM as a signed integer. -/
def simm (f : Fields) : Int := f.imm.toInt

/-- IMM as a number. -/
def uimm (f : Fields) : Nat := f.imm.toNat

/-- Form R: IMM is zero but for its lowest function bits (Table 3-4). -/
def formR (f : Fields) (bits : Nat) : Bool := typeAssigned f.ty.val && uimm f < 2 ^ bits

/-- Form I: B and C are zero (Table 3-4). -/
def formI (f : Fields) : Bool := typeAssigned f.ty.val && f.b.val = 0 && f.c.val = 0

/-- Does a field name a wide register: is its bit 4 zero? -/
def isW (r : Fin 32) : Bool := r.val < 16

/-- Does a field name a predicate: are its bits 4 and 3 zero? -/
def isP (r : Fin 32) : Bool := r.val < 8

/-! ### Registers -/

/-- A wide register. -/
def Core.getW (c : Core) (r : Nat) : BitVec 2048 := Tab.get (fun _ => 0) c.w r

/-- Write a wide register. -/
def Core.setW (c : Core) (r : Nat) (v : BitVec 2048) : Core := { c with w := Tab.set (fun _ => 0) c.w r v }

/-- A predicate; p0 reads all ones (R63). -/
def Core.getP (c : Core) (r : Nat) : BitVec 256 := if r = 0 then BitVec.allOnes 256 else Tab.get (fun _ => 0) c.p r

/-- Write a predicate; a write of p0 is ignored. -/
def Core.setP (c : Core) (r : Nat) (v : BitVec 256) : Core := if r = 0 then c else { c with p := Tab.set (fun _ => 0) c.p r v }

/-- Is bit `i` of the governing predicate, XOR PNEG, 1 (R68)? -/
def Core.governs (c : Core) (f : Fields) (i : Nat) : Bool := (c.getP f.pred.val).getLsbD i != f.pneg

/-- Does a scalar instruction execute (R68)? -/
def Core.executes (c : Core) (f : Fields) : Bool := c.governs f 0

/-! ### Elements (R64) -/

/-- Element `e` of a register of elements of `b` bytes. -/
def element (b e : Nat) (v : BitVec 2048) : Nat := natField v.toNat (8 * b * e) (8 * b)

/-- A wide register from its elements of `b` bytes. -/
def fromElements (b : Nat) (els : List Nat) : BitVec 2048 :=
  BitVec.ofNat 2048 (els.foldr (fun v acc => v % 2 ^ (8 * b) + 2 ^ (8 * b) * acc) 0)

/-- Elements of `b` bytes in a wide register. -/
def elementCount (b : Nat) : Nat := 256 / b

/-- Write the elements of a wide register that the governing predicate enables (R68); `new` gives the bits and
the flags of each. Flags of an element that is not written are not raised. -/
def Core.writeElements (c : Core) (f : Fields) (d b : Nat) (new : Nat → Nat × FpFlags) : Core :=
  let old := c.getW d
  let on := fun e => c.governs f (b * e)
  let res := (List.range (elementCount b)).map fun e => if on e then new e else (element b e old, FpFlags.none)
  let flags := res.foldl (fun a r => a.or r.2) c.flags
  { c.setW d (fromElements b (res.map (·.1))) with flags := flags }

/-- As `writeElements`, without flags. -/
def Core.writeInts (c : Core) (f : Fields) (d b : Nat) (new : Nat → Nat) : Core :=
  c.writeElements f d b fun e => (new e, FpFlags.none)

/-! ### The core address map (R75 to R77) -/

/-- First address of data memory and of the kennel store (Table 3-7). -/
def dmemBase : Nat := 0x1_0000
def storeBase : Nat := 0x10_0000

/-- What an address range lies in. -/
inductive CoreSpace where
  | data
  | store
  | nowhere
deriving DecidableEq, Repr

/-- The part of the map that holds `n` bytes from an address. -/
def coreSpaceOf (a n : Nat) : CoreSpace :=
  if dmemBase ≤ a && a + n ≤ dmemBase + 0x3000 then .data
  else if storeBase ≤ a && a + n ≤ storeBase + 0x4_0000 then .store
  else .nowhere

/-- Kennel of a core, and its index within it (R18). -/
def kennelOf (c : Nat) : Nat := c / coresPerKennel
def coreIndex (c : Nat) : Nat := c % coresPerKennel

/-- Regions of the kennel store that a range of it meets. -/
def regionsOf (a n : Nat) : List Nat :=
  let lo := (a - storeBase) / 1024
  (List.range (ceilDiv (a - storeBase + n) 1024 - lo)).map (lo + ·)

/-- May a core touch a region: read it when it is SHARED, or read and write it as its owner (R77)? -/
def regionAllows (r : Option Region) (index : Nat) (write : Bool) : Bool :=
  match r with
  | some .shared => !write
  | some (.owned i) => i = index
  | _ => false

/-- The exception that an access of `n` bytes aligned to `align` raises, if any: the map, alignment, ownership,
in this order (R75 to R77). -/
def State.accessFault (s : State) (c a n align : Nat) (write : Bool) : Option Nat :=
  let k := s.kennel (kennelOf c)
  let sp := coreSpaceOf a n
  if sp = .nowhere then some EX_ADDR
  else if a % align ≠ 0 then some EX_ALIGN
  else if sp = .store && !((regionsOf a n).all fun r => regionAllows (k.regions.find r) (coreIndex c) write) then some EX_OWN
  else none

/-- Read bytes of core memory. -/
def State.coreRead (s : State) (c a n : Nat) : Bytes :=
  match coreSpaceOf a n with
  | .data => (s.core c).dmem.read (a - dmemBase) n
  | .store => (s.kennel (kennelOf c)).store.read (a - storeBase) n
  | .nowhere => []

/-- Write bytes of core memory. -/
def State.coreWrite (s : State) (c a : Nat) (bs : Bytes) : State :=
  match coreSpaceOf a bs.length with
  | .data => s.setCore c { s.core c with dmem := (s.core c).dmem.write (a - dmemBase) bs }
  | .store =>
    let k := s.kennel (kennelOf c)
    s.setKennel (kennelOf c) { k with store := k.store.write (a - storeBase) bs }
  | .nowhere => s

/-- Effective address of a load or store: s[A] + IMM, of 64 bits. -/
def Core.address (c : Core) (f : Fields) : Nat := (c.getS f.a.val + f.imm.signExtend 64).toNat

end Sys2Proof.Machine
end

