-- ==== Sys2Proof/Machine/Kennels.lean ====
section
/-! DEFINITION. Kennels and their groups: retirement and replacement (R19, R59, R60), core exceptions and the restart
of a group (R86), the instruction budget (R87), islands and dies (R25, R26, R29). -/

namespace Sys2Proof.Machine

/-! ### Bindings -/

/-- The binding of a core's kennel. -/
def State.bindingOf (s : State) (c : Nat) : Option Binding := (s.kennel (kennelOf c)).bound

/-- Kennels of a group, by number. -/
def State.groupKennels (s : State) (h st g : Nat) : List Nat :=
  (s.kennels.entries.filter fun (e : Nat × Kennel) =>
    match e.2.bound with
    | some b => b.hedge = h && b.stage = st && b.group = g
    | none => false).map (·.1)

/-- Cores of a kennel. -/
def coresOf (k : Nat) : List Nat := (List.range coresPerKennel).map (coresPerKennel * k + ·)

/-- Cores of a group. -/
def State.groupCores (s : State) (h st g : Nat) : List Nat := (s.groupKennels h st g).flatMap coresOf

/-- The stage that a binding names, in the hedge's image. -/
def State.boundStage (s : State) (b : Binding) : Option (Image × Stage) :=
  (s.images.find b.hedge).bind fun im => (im.stage b.stage).map fun st => (im, st)

/-- The program that a core runs. -/
def State.programOf (s : State) (c : Nat) : Option Program :=
  (s.bindingOf c).bind fun b => (s.boundStage b).bind fun (x : Image × Stage) => x.1.programs[x.2.program]?

/-- The item that a core holds. -/
def State.heldItem (s : State) (c : Nat) : Option Item := s.items.find? fun it => (it.core.map (·.1)) = some c

/-- Change a hedge's image. -/
def State.adjustImage (s : State) (h : Nat) (f : Image → Image) : State := { s with images := s.images.adjust h f }

/-- Replace the entry of a key. -/
def setAssoc (l : List (Nat × List Nat)) (k : Nat) (v : List Nat) : List (Nat × List Nat) :=
  l.map fun e => if e.1 = k then (k, v) else e

/-! ### Retirement (R19, R59, R60) -/

/-- The samples that cores hold are cancelled: they wait at their stage again (R59); requests for buffers that the
cores made are withdrawn. -/
def State.cancelCores (s : State) (cs : List Nat) : State :=
  { s with
    pools := s.pools.mapVals fun _ (p : Pool) => { p with waiting := p.waiting.filter fun (w : Nat × Option (Nat × Nat)) =>
      match w.2 with
      | some (c, _) => !cs.contains c
      | none => true }
    items := s.items.map fun (it : Item) =>
      match it.core with
      | some (c, _) => if cs.contains c then { it with core := none } else it
      | none => it }

/-- Groups of a stage that wait for kennels of its reserve. -/
def State.reloadsOf (s : State) (h st : Nat) : Nat := (s.reloading.filter fun r => r.1 = h && r.2.1 = st).length

/-- A stage below MIN_KENNELS halts the jobs of its image (R60). Kennels that are being reloaded count. -/
def State.checkKennels (s : State) (h : Nat) (st : Stage) : State :=
  let n := (s.kennels.vals.filter fun (k : Kennel) =>
    match k.bound with
    | some b => b.hedge = h && b.stage = st.id
    | none => false).length + st.group * s.reloadsOf h st.id
  if st.minKennels ≤ n then s
  else
    ((s.jobs.entries.filter fun (e : Nat × Job) => e.2.desc.hedge = h).foldl (fun (t : State) (e : Nat × Job) =>
      if t.jobActive e.1 then t.haltJob e.1 ST_JOB_KENNELS else t) s).heelSettle

/-- A group loses a kennel: its samples are cancelled and its kennels unbound; where the reserve holds enough kennels
the group waits for their reload, else the stage goes on with the kennels that remain. -/
def State.loseGroup (s : State) (b : Binding) : State :=
  match s.boundStage b with
  | none => s
  | some (im, st) =>
    let ks := s.groupKennels b.hedge b.stage b.group
    let t := ks.foldl State.freeKennel (s.cancelCores (ks.flatMap coresOf))
    let t := t.adjustImage b.hedge fun im => { im with bound := setAssoc im.bound st.id ((assocList im.bound st.id).filter fun k => !ks.contains k) }
    let t := { t with restarting := t.restarting.filter fun r => r ≠ (b.hedge, b.stage, b.group) }
    let spare := ((assocList im.reserve st.id).filter t.kennelOk).length
    let t := if st.group * (t.reloadsOf b.hedge b.stage + 1) ≤ spare then { t with reloading := t.reloading ++ [(b.hedge, b.stage, b.group)] } else t
    t.checkKennels b.hedge st

/-- A kennel is retired: its health bit reads 0, and its group is replaced (R19, R59). -/
def State.retireKennel (s : State) (k : Nat) : State :=
  if !s.kennelOk k then s
  else
    let r := Reg.GLB_KENNEL_HEALTH (k / 32)
    let t := s.setReg r (s.reg r &&& ~~~ BitVec.ofNat 64 (2 ^ (k % 32)))
    match (t.kennel k).bound with
    | some b => t.loseGroup b
    | none => t

/-- RESERVE_RELOAD_DONE: kennels of the reserve, reloaded from the image copy, take the group's place (R59). -/
def State.reloadDone (s : State) (h st g : Nat) : State :=
  if !s.reloading.contains (h, st, g) then s
  else
    let t := { s with reloading := s.reloading.erase (h, st, g) }
    match s.boundStage ⟨h, st, g, 0⟩ with
    | none => t
    | some (im, stage) =>
      let spare := (assocList im.reserve st).filter t.kennelOk
      if spare.length < stage.group then t.checkKennels h stage
      else
        let ks := spare.take stage.group
        let t := ks.zipIdx.foldl (fun (t : State) (x : Nat × Nat) => t.loadKennel im h stage x.1 g x.2) t
        t.adjustImage h fun im =>
          { im with bound := setAssoc im.bound st (assocList im.bound st ++ ks)
                    reserve := setAssoc im.reserve st ((assocList im.reserve st).filter fun k => !ks.contains k) }

/-- RESERVE_RELOAD_DONE. -/
def execReserveReloadDone (hedge : Fin 16) (stage group : Nat) (s : State) : Host.Outcome State Fault Refusal :=
  act (fun s => s.reloadDone hedge stage group) s

/-! ### Exceptions (R86) -/

/-- The slot whose job an exception counts against: that of the sample, or the lowest active one of the hedge. -/
def State.faultSlot (s : State) (b : Binding) (it : Option Item) : Option Nat :=
  match it with
  | some it => some it.slot
  | none => ((s.jobs.entries.filter fun (e : Nat × Job) => e.2.desc.hedge = b.hedge && s.jobActive e.1).head?).map (·.1)

/-- A stage raises a data-caused exception: at the 64th with no sample completing in between the job halts. -/
def State.countFault (s : State) (slot stage : Nat) : State :=
  match s.jobs.find slot with
  | none => s
  | some j =>
    let n := (j.faults.find stage).getD 0 + 1
    let t := s.adjustJob slot fun j => { j with faults := j.faults.insert stage n }
    if 64 ≤ n && t.jobActive slot then t.haltJob slot ST_JOB_PROGRAM else t

/-- A sample fails with PROGRAM_FAULT and the exception's code: it goes on, without output, over the ports that its
stage has not emitted it on. -/
def State.failSample (s : State) (im : Image) (it : Item) (code : Nat) : State :=
  let t := s.adjustFacts it.key fun f => { f with flags := setFlags f.flags flagProgramFault, exception := code }
  let bad := { it.flag flagProgramFault with payload := .nothing, pieces := [] }
  t.handOn im it (((im.outPorts it.stage).filter fun p => !it.emitted.contains p).map fun p => (p, bad))

/-- The sample that an exception fails: the one that the core holds, or the only one that its group holds. -/
def State.faultItem (s : State) (c : Nat) (b : Binding) : Option Item :=
  match s.heldItem c with
  | some it => some it
  | none =>
    match (s.groupCores b.hedge b.stage b.group).filterMap s.heldItem with
    | [it] => some it
    | _ => none

/-- A core raises an exception and stops (R86): EX_MCHECK retires its kennel; any other fails the group's sample and
leaves the group to restart. -/
def State.exception (s : State) (c code : Nat) : State :=
  let t := s.setCore c { s.core c with exception := code }
  if code = EX_MCHECK then t.retireKennel (kennelOf c)
  else
    match s.bindingOf c with
    | none => t
    | some b =>
      let it := s.faultItem c b
      let group := (b.hedge, b.stage, b.group)
      let t := { t with restarting := if t.restarting.contains group then t.restarting else t.restarting ++ [group] }
      let t := match it, s.boundStage b with
        | some it, some (im, _) => t.failSample im it code
        | _, _ => t
      (match s.faultSlot b it with
        | some slot => t.countFault slot b.stage
        | none => t).heelSettle

/-- A core at its entry point again; instruction memory keeps its overlay. -/
def State.restartCore (s : State) (c : Nat) : State :=
  match s.programOf c with
  | some p => s.setCore c { p.core with imem := (s.core c).imem }
  | none => s

/-- The regions of a kennel return to the states of its region table (R86). -/
def State.restartKennel (s : State) (k : Nat) : State :=
  match (s.kennel k).bound with
  | none => s
  | some b =>
    match s.boundStage b with
    | none => s
    | some (im, st) =>
      match im.programs[st.program]? with
      | some p => s.setKennel k { im.storeOf p with bound := some b, corrected := (s.kennel k).corrected }
      | none => s

/-- GROUP_RESTART: every core of the group restarts; samples that other cores held are issued again. -/
def State.groupRestart (s : State) (h st g : Nat) : State :=
  if !s.restarting.contains (h, st, g) then s
  else
    let ks := s.groupKennels h st g
    let t := { s.cancelCores (ks.flatMap coresOf) with restarting := s.restarting.erase (h, st, g) }
    let t := (ks.flatMap coresOf).foldl State.restartCore t
    ks.foldl State.restartKennel t

/-- GROUP_RESTART. -/
def execGroupRestart (hedge : Fin 16) (stage group : Nat) (s : State) : Host.Outcome State Fault Refusal :=
  act (fun s => s.groupRestart hedge stage group) s

/-! ### Budgets (R87) -/

/-- Has the budget of the sample that a core holds run out before SDONE? -/
def State.exhausted (s : State) (c : Nat) : Bool :=
  (s.core c).held.isSome && (s.core c).budget = 0 && ((s.programOf c).map (·.budget)).getD 0 ≠ 0

/-- Can a core do anything: is its kennel bound and healthy, and did neither HALT nor an exception stop it? -/
def State.coreRuns (s : State) (c : Nat) : Bool :=
  (s.bindingOf c).isSome && s.kennelOk (kennelOf c) && !(s.core c).halted && (s.core c).exception = 0

/-- Does the part have a core? -/
def State.hasCore (s : State) (c : Nat) : Bool := c < coresPerKennel * s.part.kennels

/-- EX_BUDGET. -/
def execExBudget (core : Nat) (s : State) : Host.Outcome State Fault Refusal :=
  if !s.hasCore core then .fault .noSuchUnit
  else act (fun s => if s.coreRuns core && s.exhausted core then s.exception core EX_BUDGET else s) s

/-! ### Rows of the instructions -/

/-- May a core take the instruction of a row: it runs, its budget is not used up, no Heel freeze has halted the stage on the sample
that it holds (R214), and it is not blocked, or blocked in an instruction of the row's kind, which is then tried again? -/
def State.coreReady (s : State) (c : Nat) (retry : Blocked) : Bool :=
  s.coreRuns c && !s.exhausted c && !(((s.core c).held.map fun r => s.heelFrozen r.slot).getD false) && ((s.core c).blocked = .no || ((s.core c).blocked = retry))

/-- The word at the pc of a core, 8 bytes of its instruction memory, little-endian (R67). -/
def State.wordAtPc (s : State) (c : Nat) : Nat := leNat ((s.core c).imem.read (s.core c).pc 8)

/-- Is the opcode of the word at the pc assigned (R69)? -/
def State.opcodeOk (s : State) (c : Nat) : Bool := (decodeCoreWord c (s.wordAtPc c)).isSome

/-- A single-bit error in the memories of a core's kennel is corrected and counted (R76). -/
def State.countEcc (s : State) (c : Nat) : State :=
  s.setKennel (kennelOf c) { s.kennel (kennelOf c) with corrected := (s.kennel (kennelOf c)).corrected + 1 }

/-- A row of an instruction. An uncorrectable memory error or a fault in the core raises EX_MCHECK, a corrected error is
counted (R76, R86). An unassigned opcode at the pc, and what is not legal, raise EX_ILLEGAL (R69); a scalar instruction
that its predicate disables only retires (R68). The row names the instruction and its fields: memory is asked only whether
the opcode is assigned (log entry 14). -/
def coreRow (core : Nat) (f : Fields) (retry : Blocked) (legal scalar : Bool) (body : Core → State → State) (s : State) :
    Host.Outcome State Fault Refusal :=
  if !s.hasCore core then .fault .noSuchUnit
  else act (fun s =>
    if !s.coreReady core retry then s
    else if f.check = .fatal then s.exception core EX_MCHECK
    else
      let s := if f.check = .corrected then s.countEcc core else s
      let c := s.core core
      if !s.opcodeOk core || !legal then s.exception core EX_ILLEGAL
      else if scalar && !c.executes f then s.setCore core c.retire
      else body c s) s

/-- A row whose only effect is on the core's own registers. -/
def registerRow (core : Nat) (f : Fields) (legal scalar : Bool) (g : Core → Core) (s : State) : Host.Outcome State Fault Refusal :=
  coreRow core f .no legal scalar (fun c s => s.setCore core (g c).retire) s

/-! ### Islands, channels and dies (R25, R26, R29) -/

/-- Stretch steps of an island: 0 at the nominal period, 12 at four times it. -/
def State.stretch (s : State) (i : Nat) : Nat := (s.islands.find i).getD 0

/-- Set the stretch steps of an island; islands at the nominal period are not listed. -/
def State.setStretch (s : State) (i n : Nat) : State :=
  { s with islands := if n = 0 then s.islands.erase i else s.islands.insert i n }

/-- ISLAND_DROOP_DETECT: one step longer, up to 4 times the nominal period. -/
def execIslandDroopDetect (island : Fin 1090) (s : State) : Host.Outcome State Fault Refusal :=
  act (fun s => s.setStretch island (min 12 (s.stretch island + 1))) s

/-- STRETCH_STEP_DOWN: one step shorter, down to the nominal period. -/
def execStretchStepDown (island : Fin 1090) (s : State) : Host.Outcome State Fault Refusal :=
  act (fun s => s.setStretch island (s.stretch island - 1)) s

/-- REASON code HUB_FAULT of Table 14-6, whose DETAIL is the die. -/
def reasonHub : Nat := 0x02

/-- The device is out of service, and the failing die is reported: SHD_BOOT and SHD_BOOT_DETAIL, which SHD_DIAG answers on
the management port, show HUB_FAULT and the die (R29; DEDUCED from Table 14-6, log entry 49). -/
def State.takeOut (s : State) (die : Nat) : State :=
  let t := (s.setFld Reg.SHD_BOOT Fld.SHD_BOOT_REASON reasonHub).setFld Reg.SHD_BOOT_DETAIL Fld.SHD_BOOT_DETAIL_DETAIL die
  { t with outOfService := if s.outOfService.contains die then s.outOfService else s.outOfService ++ [die] }

/-- DIE_FAULT. -/
def execDieFault (die : Fin 6) (s : State) : Host.Outcome State Fault Refusal := .next (s.takeOut die)

/-- Islands 0 to 999 are the kennels', 1,000 to 1,044 those of H-die 0, and the rest those of H-die 1 (log entry 34). -/
def islandDie (i : Nat) : Nat := if i < 1045 then dieH0 else dieH1

/-- A channel is reported as hung: the kennel at either end is retired; between two hub islands the device goes out of
service (R26). R26 does not say which of two hub dies counts as failing: the model takes the die of the receiving end
(DESIGN CHOICE, log entry 49). -/
def State.channelHung (s : State) (a b : Nat) : State :=
  let t := { s with hung := if s.hung.contains (a, b) then s.hung else s.hung ++ [(a, b)] }
  if 1000 ≤ a && 1000 ≤ b then t.takeOut (islandDie b)
  else
    let t := if a < 1000 then t.retireKennel a else t
    if b < 1000 then t.retireKennel b else t

/-- CHANNEL_HUNG. -/
def execChannelHung (from_ to_ : Fin 1090) (s : State) : Host.Outcome State Fault Refusal :=
  act (fun s => s.channelHung from_ to_) s

end Sys2Proof.Machine
end

