-- ==== Sys2Proof/Machine/Scalar.lean ====
section
/-! DEFINITION. The scalar instructions: arithmetic, comparison, loads and stores, control flow and control words (R66,
R70, R74, R75). -/

namespace Sys2Proof.Machine

/-! ### Arithmetic (Table 3-5) -/

/-- A scalar instruction that writes s[D]. -/
def scalarRow (core : Nat) (f : Fields) (legal : Bool) (val : Core → BitVec 64) (s : State) : Host.Outcome State Fault Refusal :=
  registerRow core f legal true (fun c => c.setS f.d.val (val c)) s

/-- A scalar instruction of form R on s[A] and s[B]. -/
def binaryRow (core : Nat) (f : Fields) (op : BitVec 64 → BitVec 64 → BitVec 64) (s : State) : Host.Outcome State Fault Refusal :=
  scalarRow core f (formR f 0) (fun c => op (c.getS f.a.val) (c.getS f.b.val)) s

/-- ADD. -/
def execAdd (core : Nat) (f : Fields) (s : State) : Host.Outcome State Fault Refusal := binaryRow core f (· + ·) s

/-- SUB. -/
def execSub (core : Nat) (f : Fields) (s : State) : Host.Outcome State Fault Refusal := binaryRow core f (· - ·) s

/-- AND. -/
def execAnd (core : Nat) (f : Fields) (s : State) : Host.Outcome State Fault Refusal := binaryRow core f (· &&& ·) s

/-- OR. -/
def execOr (core : Nat) (f : Fields) (s : State) : Host.Outcome State Fault Refusal := binaryRow core f (· ||| ·) s

/-- XOR. -/
def execXor (core : Nat) (f : Fields) (s : State) : Host.Outcome State Fault Refusal := binaryRow core f (· ^^^ ·) s

/-- SHL: the count is s[B] modulo 64. -/
def execShl (core : Nat) (f : Fields) (s : State) : Host.Outcome State Fault Refusal :=
  binaryRow core f (fun a b => a <<< (b.toNat % 64)) s

/-- SHR. -/
def execShr (core : Nat) (f : Fields) (s : State) : Host.Outcome State Fault Refusal :=
  binaryRow core f (fun a b => a >>> (b.toNat % 64)) s

/-- SRA. -/
def execSra (core : Nat) (f : Fields) (s : State) : Host.Outcome State Fault Refusal :=
  binaryRow core f (fun a b => a.sshiftRight (b.toNat % 64)) s

/-- ADDI. -/
def execAddi (core : Nat) (f : Fields) (s : State) : Host.Outcome State Fault Refusal :=
  scalarRow core f (formI f) (fun c => c.getS f.a.val + f.imm.signExtend 64) s

/-- MUL: the low 64 bits. -/
def execMul (core : Nat) (f : Fields) (s : State) : Host.Outcome State Fault Refusal := binaryRow core f (· * ·) s

/-- Quotient and remainder of unsigned values; by zero the quotient has every bit set and the remainder is the dividend
(R66). -/
def divU (a b : BitVec 64) : BitVec 64 × BitVec 64 := if b = 0 then (BitVec.allOnes 64, a) else (a / b, a % b)

/-- Quotient, towards zero, and remainder of signed values (PRESUMED, log entry 35). -/
def divS (a b : BitVec 64) : BitVec 64 × BitVec 64 := if b = 0 then (BitVec.allOnes 64, a) else (a.sdiv b, a.srem b)

/-- DIV: TYPE u64 or s64, D at most 30. -/
def execDiv (core : Nat) (f : Fields) (s : State) : Host.Outcome State Fault Refusal :=
  registerRow core f (formR f 0 && (f.ty.val = 9 || f.ty.val = 0xA) && f.d.val ≤ 30) true (fun c =>
    let r := (if f.ty.val = 9 then divU else divS) (c.getS f.a.val) (c.getS f.b.val)
    (c.setS f.d.val r.1).setS (f.d.val + 1) r.2) s

/-- The conditions of CMP in IMM[2:0]: EQ, NE, LT, LE, GT, GE, LTU, LEU. -/
def scalarCond (cond : Nat) (a b : BitVec 64) : Bool :=
  match cond with
  | 0 => a = b
  | 1 => a ≠ b
  | 2 => a.slt b
  | 3 => a.sle b
  | 4 => b.slt a
  | 5 => b.sle a
  | 6 => a.ult b
  | _ => a.ule b

/-- All ones, or zero. -/
def allBits (b : Bool) : BitVec 256 := if b then BitVec.allOnes 256 else 0

/-- CMP: writes p[D]. -/
def execCmp (core : Nat) (f : Fields) (s : State) : Host.Outcome State Fault Refusal :=
  registerRow core f (formR f 3 && isP f.d) true (fun c =>
    c.setP f.d.val (allBits (scalarCond (uimm f) (c.getS f.a.val) (c.getS f.b.val)))) s

/-! ### Loads and stores (R75, R79) -/

/-- Do two byte ranges overlap? -/
def overlap (a n b m : Nat) : Bool := a < b + m && b < a + n

/-- Must a load or store wait: for a GET that writes its bytes, and a store for a PUT that reads them (R79)? -/
def Core.tagged (c : Core) (a n : Nat) (write : Bool) : Bool :=
  c.tags.vals.any fun t => overlap a n t.local_ t.length && (!t.put || write)

/-- An access of `n` bytes of core memory at s[A] + IMM: the exception that it raises, or a wait, or what `go` does. -/
def State.access (s : State) (core : Nat) (f : Fields) (n align : Nat) (write : Bool) (go : Core → Nat → State → State) : State :=
  let c := s.core core
  let a := c.address f
  match s.accessFault core a n align write with
  | some code => s.exception core code
  | none => if c.tagged a n write then s.setCore core { c with blocked := .tag } else go c a s

/-- A row of a scalar load or store. -/
def accessRow (core : Nat) (f : Fields) (legal : Bool) (n : Nat) (write : Bool) (go : Core → Nat → State → State) (s : State) :
    Host.Outcome State Fault Refusal :=
  coreRow core f .tag legal true (fun _ s => s.access core f n n write go) s

/-- LD: zero- or sign-extended as its TYPE states. -/
def execLd (core : Nat) (f : Fields) (s : State) : Host.Outcome State Fault Refusal :=
  let n := typeBytes f.ty.val
  accessRow core f (formI f) n false (fun c a s =>
    s.setCore core ((c.setS f.d.val (extendTo64 f.ty.val (leNat (s.coreRead core a n)))).retire)) s

/-- ST: s[B] with the size of TYPE. -/
def execSt (core : Nat) (f : Fields) (s : State) : Host.Outcome State Fault Refusal :=
  let n := typeBytes f.ty.val
  accessRow core f (typeAssigned f.ty.val && f.c.val = 0) n true (fun c a s =>
    (s.setCore core c.retire).coreWrite core a (leBytes n (c.getS f.b.val).toNat)) s

/-! ### Control flow -/

/-- Go to an address of instruction memory; one outside it, or one that is no multiple of 8, raises an exception
(R63, R75). -/
def State.jump (s : State) (core : Nat) (target : Int) (c : Core) : State :=
  if target < 0 || 4096 ≤ target then s.exception core EX_ADDR
  else if target % 8 ≠ 0 then s.exception core EX_ALIGN
  else s.setCore core { c.retire with pc := target.toNat }

/-- BR: to its own address plus 8 × IMM. -/
def execBr (core : Nat) (f : Fields) (s : State) : Host.Outcome State Fault Refusal :=
  coreRow core f .no (formI f) true (fun c s => s.jump core (c.pc + 8 * simm f) c) s

/-- CALL: the return address goes to s31. -/
def execCall (core : Nat) (f : Fields) (s : State) : Host.Outcome State Fault Refusal :=
  coreRow core f .no (formI f) true (fun c s => s.jump core (c.pc + 8 * simm f) (c.setS 31 (BitVec.ofNat 64 (c.pc + 8)))) s

/-- JR. -/
def execJr (core : Nat) (f : Fields) (s : State) : Host.Outcome State Fault Refusal :=
  coreRow core f .no (formR f 0) true (fun c s => s.jump core (c.getS f.a.val).toNat c) s

/-! ### Control words (R74) -/

/-- What a control word reads (Table 3-6). -/
def State.controlWord (s : State) (core : Nat) (n : Nat) : Option (BitVec 64) :=
  let c := s.core core
  match n with
  | 0 => some (BitVec.ofNat 64 core)
  | 1 => some (BitVec.ofNat 64 (kennelOf core))
  | 2 => some (BitVec.ofNat 64 (((s.bindingOf core).map (·.groupIdx)).getD 0))
  | 3 => some c.flags.toWord
  | 4 => some (BitVec.ofNat 64 c.budget)
  | _ => none

/-- CWR. A word that Table 3-6 does not hold raises EX_ILLEGAL. -/
def execCwr (core : Nat) (f : Fields) (s : State) : Host.Outcome State Fault Refusal :=
  coreRow core f .no (formI f && uimm f ≤ 4) true (fun c s =>
    match s.controlWord core (uimm f) with
    | some v => s.setCore core (c.setS f.d.val v).retire
    | none => s.exception core EX_ILLEGAL) s

/-- CWW: FPFLAGS alone can be written. -/
def execCww (core : Nat) (f : Fields) (s : State) : Host.Outcome State Fault Refusal :=
  registerRow core f (formI f && uimm f = 3) true (fun c => { c with flags := FpFlags.ofWord (c.getS f.a.val) }) s

/-- RDTIME: the cycles of an island are no part of the model: a free value (R70). -/
def execRdtime (core : Nat) (f : Fields) (s : State) : Host.Outcome State Fault Refusal :=
  coreRow core f .no (formR f 0) true (fun c s =>
    s.drew.setCore core (c.setS f.d.val (BitVec.ofNat 64 s.freeValue)).retire) s

/-- HALT. -/
def execHalt (core : Nat) (f : Fields) (s : State) : Host.Outcome State Fault Refusal :=
  registerRow core f (formR f 0) true (fun c => { c with halted := true }) s

end Sys2Proof.Machine
end

