-- ==== Sys2Proof/Machine/Wide.lean ====
section
/-! DEFINITION. The wide instructions (R64 to R66, R68, R70, R72, R75). -/

namespace Sys2Proof.Machine

/-- A wide instruction of form R that names w[D], w[A] and w[B]. -/
def wideLegal (f : Fields) (bits : Nat) (tyOk : Bool) : Bool := formR f bits && tyOk && isW f.d && isW f.a && isW f.b

/-- An element-wise instruction: `op` gives the bits and flags of an element of TYPE. -/
def elementRow (core : Nat) (f : Fields) (legal : Bool) (b : Nat) (op : Core → Nat → Nat × FpFlags) (s : State) :
    Host.Outcome State Fault Refusal :=
  registerRow core f legal false (fun c => c.writeElements f f.d.val b (op c)) s

/-- Element `e` of w[A], of w[B]. -/
def Core.elA (c : Core) (f : Fields) (e : Nat) : Nat := element (typeBytes f.ty.val) e (c.getW f.a.val)
def Core.elB (c : Core) (f : Fields) (e : Nat) : Nat := element (typeBytes f.ty.val) e (c.getW f.b.val)

/-- The integer that bits of an integer type stand for. -/
def typeInt (ty v : Nat) : Int := if typeSigned ty then signedOf (8 * typeBytes ty) v else (v : Int)

/-- An integer result of a type: modulo 2^n, or saturated under SAT (R66). -/
def intResult (ty : Nat) (sat : Bool) (i : Int) : Nat :=
  if sat then saturate (typeSigned ty) (8 * typeBytes ty) i else wrapInt (8 * typeBytes ty) i

/-- One element of WADD, WSUB or WMUL. -/
def arithElement (ty : Nat) (sat : Bool) (fp : Format → Nat → Nat → Nat × FpFlags) (int : Int → Int → Int) (a b : Nat) : Nat × FpFlags :=
  match typeFormat ty with
  | some fm => fp fm a b
  | none => (intResult ty sat (int (typeInt ty a) (typeInt ty b)), FpFlags.none)

/-- A row of WADD, WSUB or WMUL: IMM[0] is SAT, which applies to integer types. -/
def arithRow (core : Nat) (f : Fields) (fp : Format → Nat → Nat → Nat × FpFlags) (int : Int → Int → Int) (s : State) :
    Host.Outcome State Fault Refusal :=
  let ty := f.ty.val
  elementRow core f (wideLegal f 1 (typeWide ty)) (typeBytes ty) (fun c e =>
    arithElement ty (natBit (uimm f) 0) fp int (c.elA f e) (c.elB f e)) s

/-- WADD. -/
def execWadd (core : Nat) (f : Fields) (s : State) : Host.Outcome State Fault Refusal := arithRow core f fpAdd (· + ·) s

/-- WSUB. -/
def execWsub (core : Nat) (f : Fields) (s : State) : Host.Outcome State Fault Refusal := arithRow core f fpSub (· - ·) s

/-- WMUL. -/
def execWmul (core : Nat) (f : Fields) (s : State) : Host.Outcome State Fault Refusal := arithRow core f fpMul (· * ·) s

/-- WFMA: fp32 only, with one rounding. -/
def execWfma (core : Nat) (f : Fields) (s : State) : Host.Outcome State Fault Refusal :=
  elementRow core f (wideLegal f 0 (f.ty.val = 8)) 4 (fun c e =>
    fpFma fp32 (element 4 e (c.getW f.d.val)) (c.elA f e) (c.elB f e)) s

/-- An s32 lane of WDOT: the sum of four products, exact. -/
def dotInt (ty : Nat) (a b : Nat → Nat) : Nat :=
  wrapInt 32 ((List.range 4).foldl (fun (n : Int) j => n + typeInt ty (a j) * typeInt ty (b j)) 0)

/-- WDOT: bf16 or fp16 into fp32 lanes, s8 or u8 into s32 lanes. -/
def execWdot (core : Nat) (f : Fields) (s : State) : Host.Outcome State Fault Refusal :=
  let ty := f.ty.val
  elementRow core f (wideLegal f 0 (ty = 6 || ty = 7 || ty ≤ 1)) 4 (fun c i =>
    match typeFormat ty with
    | some fm => dotFp fm (element 4 i (c.getW f.d.val)) (c.elA f (2 * i)) (c.elB f (2 * i)) (c.elA f (2 * i + 1)) (c.elB f (2 * i + 1))
    | none => (dotInt ty (fun j => c.elA f (4 * i + j)) (fun j => c.elB f (4 * i + j)), FpFlags.none)) s

/-- An element comparison. LTU and LEU compare the bits; the others compare the values of TYPE, and a NaN operand is
unordered: it raises invalid but for quiet EQ and NE (R65). -/
def elementCond (ty cond a b : Nat) : Bool × FpFlags :=
  if cond = 6 then (decide (a < b), FpFlags.none)
  else if cond = 7 then (decide (a ≤ b), FpFlags.none)
  else
    match typeFormat ty with
    | some fm =>
      let x := unpack fm a
      let y := unpack fm b
      let bad := if cond ≤ 1 then isSignalling x || isSignalling y else isNan x || isNan y
      let r := match cond with
        | 0 => eqVal x y
        | 1 => !eqVal x y
        | 2 => ltVal x y
        | 3 => ltVal x y || eqVal x y
        | 4 => ltVal y x
        | _ => ltVal y x || eqVal x y
      (r, { invalid := bad })
    | none =>
      let x := typeInt ty a
      let y := typeInt ty b
      let r := match cond with
        | 0 => decide (x = y)
        | 1 => decide (x ≠ y)
        | 2 => decide (x < y)
        | 3 => decide (x ≤ y)
        | 4 => decide (y < x)
        | _ => decide (y ≤ x)
      (r, FpFlags.none)

/-- Set one bit of a predicate. -/
def putBit (p : BitVec 256) (i : Nat) (b : Bool) : BitVec 256 :=
  if b then p ||| BitVec.ofNat 256 (2 ^ i) else p &&& ~~~ BitVec.ofNat 256 (2 ^ i)

/-- WCMP: writes the bit of each enabled element of p[D] (R64). -/
def execWcmp (core : Nat) (f : Fields) (s : State) : Host.Outcome State Fault Refusal :=
  let ty := f.ty.val
  let b := typeBytes ty
  registerRow core f (formR f 3 && typeWide ty && isP f.d && isW f.a && isW f.b) false (fun c =>
    (List.range (elementCount b)).foldl (fun (x : Core) e =>
      if c.governs f (b * e) then
        let r := elementCond ty (uimm f) (c.elA f e) (c.elB f e)
        { x.setP f.d.val (putBit (x.getP f.d.val) (b * e) r.1) with flags := x.flags.or r.2 }
      else x) c) s

/-- WSEL: element of w[A] where p[C] is set for it, else of w[B]. -/
def execWsel (core : Nat) (f : Fields) (s : State) : Host.Outcome State Fault Refusal :=
  let b := typeBytes f.ty.val
  elementRow core f (wideLegal f 0 (typeWide f.ty.val) && isP f.c) b (fun c e =>
    (if (c.getP f.c.val).getLsbD (b * e) then c.elA f e else c.elB f e, FpFlags.none)) s

/-- WSHUF: byte j of w[D] is byte (w[B] byte j) of w[A]; a byte index is below 256. -/
def execWshuf (core : Nat) (f : Fields) (s : State) : Host.Outcome State Fault Refusal :=
  elementRow core f (wideLegal f 0 true) 1 (fun c j =>
    (element 1 (element 1 j (c.getW f.b.val)) (c.getW f.a.val), FpFlags.none)) s

/-- Convert an element between types; integer targets saturate. -/
def convert (from_ to_ v : Nat) : Nat × FpFlags :=
  let w := 8 * typeBytes to_
  match typeFormat from_, typeFormat to_ with
  | some a, some b => let x := unpack a v; let r := pack b x; (r.1, r.2.or { invalid := isSignalling x })
  | some a, none => fpToInt (typeSigned to_) w v (unpack a v)
  | none, some b => pack b (intVal (typeInt from_ v))
  | none, none => (saturate (typeSigned to_) w (typeInt from_ v), FpFlags.none)

/-- WCVT: from TYPE to the type in IMM[3:0]. Where the types have different sizes, the elements that both registers
hold are converted, and the rest of w[D] keeps its value (log entry 36). -/
def execWcvt (core : Nat) (f : Fields) (s : State) : Host.Outcome State Fault Refusal :=
  let ty := f.ty.val
  let to_ := uimm f
  let b := typeBytes to_
  let n := min (elementCount (typeBytes ty)) (elementCount b)
  elementRow core f (formR f 4 && typeWide ty && typeWide to_ && isW f.d && isW f.a) b (fun c e =>
    if e < n then convert ty to_ (c.elA f e) else (element b e (c.getW f.d.val), FpFlags.none)) s

/-- One element of WMAX or WMIN. -/
def extremeElement (ty : Nat) (isMax : Bool) (a b : Nat) : Nat × FpFlags :=
  match typeFormat ty with
  | some fm => fpMinMax fm isMax a b
  | none => (if decide (typeInt ty a < typeInt ty b) = isMax then b else a, FpFlags.none)

/-- WMAX. -/
def execWmax (core : Nat) (f : Fields) (s : State) : Host.Outcome State Fault Refusal :=
  elementRow core f (wideLegal f 0 (typeWide f.ty.val)) (typeBytes f.ty.val) (fun c e =>
    extremeElement f.ty.val true (c.elA f e) (c.elB f e)) s

/-- WMIN. -/
def execWmin (core : Nat) (f : Fields) (s : State) : Host.Outcome State Fault Refusal :=
  elementRow core f (wideLegal f 0 (typeWide f.ty.val)) (typeBytes f.ty.val) (fun c e =>
    extremeElement f.ty.val false (c.elA f e) (c.elB f e)) s

/-! ### Reductions (R72) -/

/-- One level of the fixed tree: element 2k plus element 2k + 1. -/
def pairSums : List (Nat × FpFlags) → List (Nat × FpFlags)
  | a :: b :: t => (let r := fpAdd fp32 a.1 b.1; (r.1, (a.2.or b.2).or r.2)) :: pairSums t
  | l => l

/-- The fixed pairwise tree; `n` bounds its levels. -/
def treeSum : (n : Nat) → List (Nat × FpFlags) → Nat × FpFlags
  | 0, l => l.headD (0, FpFlags.none)
  | n + 1, l => if l.length ≤ 1 then l.headD (0, FpFlags.none) else treeSum n (pairSums l)

/-- Elements of w[A]. -/
def Core.elementsA (c : Core) (f : Fields) : List Nat := (List.range (elementCount (typeBytes f.ty.val))).map (c.elA f)

/-- The sum of all elements of an integer type, exact. -/
def Core.intSum (c : Core) (f : Fields) : BitVec 64 :=
  BitVec.ofInt 64 ((c.elementsA f).foldl (fun (n : Int) v => n + typeInt f.ty.val v) 0)

/-- WREDU. -/
def execWredu (core : Nat) (f : Fields) (s : State) : Host.Outcome State Fault Refusal :=
  registerRow core f (formR f 0 && typeWide f.ty.val && isW f.a) true (fun c =>
    match typeFormat f.ty.val with
    | some fm =>
      let r := treeSum 8 ((c.elementsA f).map (toFp32 fm))
      { c.setS f.d.val (BitVec.ofNat 64 r.1) with flags := c.flags.or r.2 }
    | none => c.setS f.d.val (c.intSum f)) s

/-- Take the element at an index out of a list. -/
def takeOutAt (l : List (Nat × FpFlags)) (i : Nat) : (Nat × FpFlags) × List (Nat × FpFlags) :=
  (l.getD i (0, FpFlags.none), l.eraseIdx i)

/-- The sum of partial sums in an order that is not fixed: the digits of `r` name the two that are added next; `n` bounds
the additions. Every addition is of fp32 and rounded (R72). -/
def anyOrderSum : (n : Nat) → (r : Nat) → List (Nat × FpFlags) → Nat × FpFlags
  | 0, _, l => l.headD (0, FpFlags.none)
  | n + 1, r, l =>
    if l.length ≤ 1 then l.headD (0, FpFlags.none)
    else
      let m := l.length
      let x := takeOutAt l (r % m)
      let y := takeOutAt x.2 (r / m % (m - 1))
      let z := fpAdd fp32 x.1.1 y.1.1
      anyOrderSum n (r / m / (m - 1)) (y.2 ++ [(z.1, (x.1.2.or y.1.2).or z.2)])

/-- WREDU.U: for fp types the order of the sum is a free value; the sum is in fp32 format. -/
def execWreduU (core : Nat) (f : Fields) (s : State) : Host.Outcome State Fault Refusal :=
  coreRow core f .no (formR f 0 && typeWide f.ty.val && isW f.a) true (fun c s =>
    match typeFormat f.ty.val with
    | some fm =>
      let r := anyOrderSum 128 s.freeValue ((c.elementsA f).map (toFp32 fm))
      s.drew.setCore core { c.setS f.d.val (BitVec.ofNat 64 r.1) with flags := c.flags.or r.2 }.retire
    | none => s.setCore core (c.setS f.d.val (c.intSum f)).retire) s

/-! ### Single elements -/

/-- WINS: element s[B] of w[D] = s[A], where the governing predicate enables that element; an index beyond the
register names no element. -/
def execWins (core : Nat) (f : Fields) (s : State) : Host.Outcome State Fault Refusal :=
  let b := typeBytes f.ty.val
  registerRow core f (formR f 0 && typeWide f.ty.val && isW f.d) false (fun c =>
    c.writeInts f f.d.val b fun e => if e = (c.getS f.b.val).toNat then (c.getS f.a.val).toNat else element b e (c.getW f.d.val)) s

/-- WEXT: s[D] = element s[B] of w[A], extended as in a load; the spec states no value for an index beyond the
register: a function of the operands without a body, since the result of an instruction that is not marked Varies depends
on nothing else (R71). -/
def execWext (core : Nat) (f : Fields) (s : State) : Host.Outcome State Fault Refusal :=
  registerRow core f (formR f 0 && typeWide f.ty.val && isW f.a) true (fun c =>
    let e := (c.getS f.b.val).toNat
    c.setS f.d.val (if e < elementCount (typeBytes f.ty.val) then extendTo64 f.ty.val (c.elA f e)
      else BitVec.ofNat 64 (Config.strayElement f.ty.val e (c.getW f.a.val).toNat))) s

/-- WBCAST: every element of w[D] = the low bits of s[A]. -/
def execWbcast (core : Nat) (f : Fields) (s : State) : Host.Outcome State Fault Refusal :=
  elementRow core f (formR f 0 && typeWide f.ty.val && isW f.d) (typeBytes f.ty.val) (fun c _ =>
    ((c.getS f.a.val).toNat, FpFlags.none)) s

/-! ### Wide loads and stores (R75) -/

/-- A row of a wide load or store of 256 bytes: one that its predicate disables entirely only retires (R68). -/
def wideAccessRow (core : Nat) (f : Fields) (write : Bool) (go : Core → Nat → State → State) (s : State) : Host.Outcome State Fault Refusal :=
  let b := typeBytes f.ty.val
  coreRow core f .tag (formI f && typeWide f.ty.val && isW f.d) false (fun c s =>
    if (List.range (elementCount b)).any fun e => c.governs f (b * e) then s.access core f 256 32 write go
    else s.setCore core c.retire) s

/-- WLD: 256 bytes, 32-byte aligned; elements of TYPE that the predicate disables keep their value. -/
def execWld (core : Nat) (f : Fields) (s : State) : Host.Outcome State Fault Refusal :=
  let b := typeBytes f.ty.val
  wideAccessRow core f false (fun c a s =>
    let v := BitVec.ofNat 2048 (leNat (s.coreRead core a 256))
    s.setCore core (c.writeInts f f.d.val b (fun e => element b e v)).retire) s

/-- WST: the bytes of the elements that the predicate enables. -/
def execWst (core : Nat) (f : Fields) (s : State) : Host.Outcome State Fault Refusal :=
  let b := typeBytes f.ty.val
  wideAccessRow core f true (fun c a s =>
    let new := (List.range (elementCount b)).flatMap fun e =>
      if c.governs f (b * e) then leBytes b (element b e (c.getW f.d.val)) else s.coreRead core (a + b * e) b
    (s.setCore core c.retire).coreWrite core a new) s

end Sys2Proof.Machine
end

