-- ==== Sys2Proof/Machine/Channels.lean ====
section
/-! DEFINITION. Mailbox channels, region tokens, asynchronous copies and overlays (R77 to R82). -/

namespace Sys2Proof.Machine

/-! ### Channels (R44, R80) -/

/-- The entry of the channel table that binds a channel of a core; `dir` is 0 for outbound, 1 for inbound. -/
def State.channelEntry (s : State) (c dir ch : Nat) : Option ChannelEntry :=
  match s.bindingOf c, s.programOf c with
  | some b, some p => p.channels.find? fun e =>
      (e.groupIdx = 0xFFFF || e.groupIdx = b.groupIdx) && e.core = coreIndex c && e.dir = dir && e.channel = ch
  | _, _ => none

/-- The core at the other end of a channel, and its channel number there. -/
def State.channelPeer (s : State) (c dir ch : Nat) : Option (Nat × Nat) :=
  match s.bindingOf c, s.channelEntry c dir ch with
  | some b, some e =>
    let idx := if e.peerGroupIdx = 0xFFFF then b.groupIdx else e.peerGroupIdx
    ((s.groupKennels b.hedge b.stage b.group).find? fun k => ((s.kennel k).bound.map (·.groupIdx)) = some idx).map fun k =>
      (coresPerKennel * k + e.peerCore, e.peerChannel)
  | _, _ => none

/-- Bytes that a message takes in an inbound channel (R81). -/
def ChanMsg.size : ChanMsg → Nat
  | .wide _ => 256
  | _ => 8

/-- Messages of a queue by channel. -/
def queueAt (q : Tab (List ChanMsg)) (ch : Nat) : List ChanMsg := (q.find ch).getD []

/-- Set a queue; an empty one is not listed. -/
def setQueue (q : Tab (List ChanMsg)) (ch : Nat) (l : List ChanMsg) : Tab (List ChanMsg) :=
  if l.isEmpty then q.erase ch else q.insert ch l

/-- Bytes of a list of messages. -/
def msgBytes (l : List ChanMsg) : Nat := l.foldl (fun n m => n + m.size) 0

/-- A core goes on with the instruction that it was blocked in. -/
def State.wake (s : State) (c : Nat) (why : Blocked) : State :=
  if (s.core c).blocked = why then s.setCore c { s.core c with blocked := .no } else s

/-- Is a core blocked in MBSEND, MBRECV or WAIT, and not stopped by an exception (R82)? -/
def Core.waits (c : Core) : Bool := (c.blocked = .send || c.blocked = .recv || c.blocked = .tag) && c.exception = 0

/-- A group in deadlock raises EX_DEADLOCK on core 0 of GROUPIDX 0 (R82). Asked for when a core blocks and when the last
message or copy in flight ends. -/
def State.deadlock (s : State) (c : Nat) : State :=
  match s.bindingOf c with
  | none => s
  | some b =>
    let cs := s.groupCores b.hedge b.stage b.group
    if cs.all fun i => (s.core i).waits && (s.core i).outq.entries.isEmpty && (s.core i).tags.entries.isEmpty then
      match (s.groupKennels b.hedge b.stage b.group).find? fun k => ((s.kennel k).bound.map (·.groupIdx)) = some 0 with
      | some k => s.exception (coresPerKennel * k) EX_DEADLOCK
      | none => s
    else s

/-- A core blocks. -/
def State.block (s : State) (c : Nat) (why : Blocked) : State := (s.setCore c { s.core c with blocked := why }).deadlock c

/-- Channel number and kind of IMM: bit 0 wide, bits [3:1] the channel. -/
def immChannel (f : Fields) : Nat := uimm f / 2 % 8
def immWide (f : Fields) : Bool := natBit (uimm f) 0

/-- Send a message: it blocks while the destination lacks room for it and what is in flight (R81). -/
def State.sendOn (s : State) (core ch : Nat) (m : ChanMsg) : State :=
  match s.channelPeer core 0 ch with
  | none => s.exception core EX_CHAN
  | some (d, dch) =>
    let c := s.core core
    let q := queueAt c.outq ch
    if msgBytes (queueAt (s.core d).inq dch) + msgBytes q + m.size ≤ 512 then
      s.setCore core { c.retire with outq := setQueue c.outq ch (q ++ [m]) }
    else s.block core .send

/-- MBSEND: s[A], or w[A] with IMM[0]. -/
def execMbsend (core : Nat) (f : Fields) (s : State) : Host.Outcome State Fault Refusal :=
  coreRow core f .send (formR f 4 && (!immWide f || isW f.a)) true (fun c s =>
    s.sendOn core (immChannel f) (if immWide f then .wide (c.getW f.a.val) else .scalar (c.getS f.a.val))) s

/-- The registers that a received message writes; none where the kind is another one. -/
def Core.receive (c : Core) (f : Fields) : ChanMsg → Option Core
  | .scalar v => if immWide f then none else some (c.setS f.d.val v)
  | .region r => if immWide f then none else some (c.setS f.d.val (BitVec.ofNat 64 r))
  | .wide v => if immWide f then some (c.setW f.d.val v) else none

/-- Receive from an inbound channel: it blocks until a message is present; a token makes the core the owner of its
region; the sender has room again (R78, R81). -/
def State.receiveOn (s : State) (core : Nat) (f : Fields) : State :=
  let ch := immChannel f
  match s.channelPeer core 1 ch with
  | none => s.exception core EX_CHAN
  | some (src, _) =>
    let c := s.core core
    match queueAt c.inq ch with
    | [] => s.block core .recv
    | m :: rest =>
      match c.receive f m with
      | none => s.exception core EX_CHAN
      | some x =>
        let t := s.setCore core { x.retire with inq := setQueue c.inq ch rest }
        let k := kennelOf core
        let t := match m with
          | .region r => t.setKennel k { t.kennel k with regions := (t.kennel k).regions.insert r (.owned (coreIndex core)) }
          | _ => t
        t.wake src .send

/-- MBRECV. -/
def execMbrecv (core : Nat) (f : Fields) (s : State) : Host.Outcome State Fault Refusal :=
  coreRow core f .recv (formR f 4 && (!immWide f || isW f.d)) true (fun _ s => s.receiveOn core f) s

/-- MBPOLL. -/
def execMbpoll (core : Nat) (f : Fields) (s : State) : Host.Outcome State Fault Refusal :=
  registerRow core f (formR f 4 && !immWide f && isP f.d) true (fun c =>
    c.setP f.d.val (allBits !(queueAt c.inq (immChannel f)).isEmpty)) s

/-- KGIVE: the region leaves its owner at once, and its token joins the channel (R78). -/
def State.kgive (s : State) (core region ch : Nat) : State :=
  let k := s.kennel (kennelOf core)
  let c := s.core core
  if 256 ≤ region || k.regions.find region ≠ some (.owned (coreIndex core)) then s.exception core EX_OWN
  else
    match s.channelPeer core 0 ch with
    | none => s.exception core EX_CHAN
    | some (d, _) =>
      if kennelOf d ≠ kennelOf core then s.exception core EX_CHAN
      else
        let t := s.setKennel (kennelOf core) { k with regions := k.regions.insert region .inFlight }
        t.setCore core { c.retire with outq := setQueue c.outq ch (queueAt c.outq ch ++ [.region region]) }

/-- KGIVE. -/
def execKgive (core : Nat) (f : Fields) (s : State) : Host.Outcome State Fault Refusal :=
  coreRow core f .no (formR f 4 && !immWide f) true (fun c s => s.kgive core (c.getS f.a.val).toNat (immChannel f)) s

/-- May a message leave: a token only once no copy of the owner touches its region (R78)? -/
def Core.mayLeave (c : Core) : ChanMsg → Bool
  | .region r => !c.tagged (storeBase + 1024 * r) 1024 true
  | _ => true

/-- The oldest message on an outbound channel reaches the inbound channel, where there is room for it: MAILBOX_DELIVER. -/
def State.deliverMail (s : State) (core ch : Nat) : State :=
  match s.channelPeer core 0 ch, queueAt (s.core core).outq ch with
  | some (d, dch), m :: rest =>
    let inbox := queueAt (s.core d).inq dch
    if (s.core core).mayLeave m && msgBytes inbox + m.size ≤ 512 then
      let t := s.setCore core { s.core core with outq := setQueue (s.core core).outq ch rest }
      let t := t.setCore d { t.core d with inq := setQueue (t.core d).inq dch (queueAt (t.core d).inq dch ++ [m]) }
      (t.wake d .recv).deadlock core
    else s
  | _, _ => s

/-- MAILBOX_DELIVER. -/
def execMailboxDeliver (core channel : Nat) (s : State) : Host.Outcome State Fault Refusal :=
  if !s.hasCore core then .fault .noSuchUnit else act (fun s => s.deliverMail core channel) s

/-! ### Copies under a tag (R79) -/

/-- What a hub handle names for a core of a hedge: a HELD buffer of one of the hedge's pools, or a table of its image. -/
inductive HubBuffer where
  | buffer (sp : Space) (at_ size : Nat)
  | table (hedge index : Nat) (body : Bytes)
deriving DecidableEq, Repr

/-- Length of a handle. -/
def HubBuffer.length : HubBuffer → Nat
  | .buffer _ _ n => n
  | .table _ _ b => b.length

/-- A HELD buffer of a hedge. -/
def State.heldBuffer (s : State) (hedge handle : Nat) : Option (Space × Nat × Nat) :=
  match s.pools.find (handlePool handle) with
  | none => none
  | some p => if handle < 2 ^ 32 && p.hedge = hedge && (p.held.find (handleIndex handle)).isSome then s.bufferOf handle else none

/-- Resolve a handle: for GET and for PUT it is a pool buffer or a TABLES index (R79). -/
def State.hubBuffer (s : State) (hedge handle : Nat) : Option HubBuffer :=
  match s.heldBuffer hedge handle with
  | some (sp, a, n) => some (.buffer sp a n)
  | none => (s.images.find hedge).bind fun im => (im.tables[handle]?).map fun (t : ImageTable) => HubBuffer.table hedge handle t.body

/-- GET or PUT: the copy is started under its tag, or the core waits for the tag. -/
def State.startCopy (s : State) (core : Nat) (f : Fields) (put : Bool) : State :=
  let c := s.core core
  let tag := uimm f
  let handle := (c.getS f.a.val).toNat
  let off := (c.getS f.b.val).toNat
  let n := (c.getS f.c.val).toNat
  let a := (c.getS f.d.val).toNat
  if (c.tags.find tag).isSome then s.setCore core { c with blocked := .tag }
  else
    match (s.bindingOf core).bind fun b => s.hubBuffer b.hedge handle with
    | none => s.exception core EX_BOUNDS
    | some h =>
      if n = 0 || 65536 < n || h.length < off + n then s.exception core EX_BOUNDS
      else
        match s.accessFault core a n 1 (!put) with
        | some code => s.exception core code
        | none => s.setCore core { c.retire with tags := c.tags.insert tag ⟨put, a, handle, off, n⟩ }

/-- GET. -/
def execGet (core : Nat) (f : Fields) (s : State) : Host.Outcome State Fault Refusal :=
  coreRow core f .tag (formR f 4) true (fun _ s => s.startCopy core f false) s

/-- PUT. -/
def execPut (core : Nat) (f : Fields) (s : State) : Host.Outcome State Fault Refusal :=
  coreRow core f .tag (formR f 4) true (fun _ s => s.startCopy core f true) s

/-- Bytes of a table of an image are overwritten. -/
def Image.putTable (im : Image) (i off : Nat) (bs : Bytes) : Image :=
  { im with tables := im.tables.modify i fun t =>
      { t with body := t.body.take off ++ bs ++ t.body.drop (off + bs.length) } }

/-- The bytes of a copy are moved. A PUT to a table changes the copy of the image that the device holds (R79; DEDUCED, log
entry 22). -/
def State.moveCopy (s : State) (core : Nat) (t : TagOp) : HubBuffer → State
  | .buffer sp a _ =>
    if t.put then s.writeMem sp (a + t.offset) (s.coreRead core t.local_ t.length)
    else s.coreWrite core t.local_ (s.readMem sp (a + t.offset) t.length)
  | .table h i b =>
    if t.put then s.adjustImage h fun im => im.putTable i t.offset (s.coreRead core t.local_ t.length)
    else s.coreWrite core t.local_ (sliceAt b t.offset t.length)

/-- The copy under a tag completes: TAG_COMPLETE. A handle that names nothing any more raises EX_BOUNDS. -/
def State.tagComplete (s : State) (core tag : Nat) : State :=
  match (s.core core).tags.find tag with
  | none => s
  | some op =>
    let t := match (s.bindingOf core).bind fun b => s.hubBuffer b.hedge op.handle with
      | some h => s.moveCopy core op h
      | none => if s.coreRuns core then s.exception core EX_BOUNDS else s
    ((t.setCore core { t.core core with tags := (t.core core).tags.erase tag }).wake core .tag).deadlock core

/-- TAG_COMPLETE. -/
def execTagComplete (core : Nat) (tag : Fin 16) (s : State) : Host.Outcome State Fault Refusal :=
  if !s.hasCore core then .fault .noSuchUnit else act (fun s => s.tagComplete core tag) s

/-- WAIT. -/
def execWait (core : Nat) (f : Fields) (s : State) : Host.Outcome State Fault Refusal :=
  coreRow core f .tag (formR f 4) true (fun c s =>
    if (c.tags.find (uimm f)).isSome then s.block core .tag else s.setCore core c.retire) s

/-- FENCE: stores complete at once; it waits for every GET and PUT. -/
def execFence (core : Nat) (f : Fields) (s : State) : Host.Outcome State Fault Refusal :=
  coreRow core f .tag (formR f 0) true (fun c s =>
    if !c.tags.entries.isEmpty then s.setCore core { c with blocked := .tag } else s.setCore core c.retire) s

/-! ### Overlays (R70, R77) -/

/-- OVL: 2 KiB of SHARED regions into the overlay, and on at its start. An address outside the map raises EX_ADDR (R75),
one that is not that of two SHARED regions at a multiple of 2 KiB raises EX_OWN (R77). -/
def State.overlay (s : State) (core a : Nat) (c : Core) : State :=
  let k := s.kennel (kennelOf core)
  if coreSpaceOf a 2048 = .nowhere then s.exception core EX_ADDR
  else if coreSpaceOf a 2048 ≠ .store || a % 2048 ≠ 0 || !((regionsOf a 2048).all fun r => k.regions.find r = some .shared) then
    s.exception core EX_OWN
  else
    match s.accessFault core a 2048 2048 false with
    | some code => s.exception core code
    | none => s.setCore core { c.retire with imem := c.imem.write 0x800 (s.coreRead core a 2048), pc := 0x800 }

/-- OVL. -/
def execOvl (core : Nat) (f : Fields) (s : State) : Host.Outcome State Fault Refusal :=
  coreRow core f .no (formR f 0) true (fun c s => s.overlay core (c.getS f.a.val).toNat c) s

end Sys2Proof.Machine
end

