-- ==== Sys2Proof/Machine/CoreSamples.lean ====
section
/-! DEFINITION. Samples in and out of the cores (R83 to R85): the dispatcher, SIN, SOUT, SDONE and OALLOC. -/

namespace Sys2Proof.Machine

/-! ### The dispatcher (R83) -/

/-- Is every earlier sample of the stream past a stage: has it no item left at the stage or before it (R83)? -/
def State.inOrderAt (s : State) (im : Image) (it : Item) : Bool :=
  !(s.items.any fun (x : Item) => x.slot = it.slot && !x.done && s.rankOf x.key = s.rankOf it.key &&
    (decide (x.epoch < it.epoch) || (x.epoch = it.epoch && decide (x.position < it.position))) &&
      im.leadsTo im.stages.length x.stage it.stage)

/-- Has the dispatcher given every sample that PACK took from the stream before this one (R83)? -/
def State.inOrderAtPack (s : State) (it : Item) : Bool :=
  (s.items.takeWhile fun x => x ≠ it).all fun (x : Item) =>
    x.slot ≠ it.slot || x.stage ≠ it.stage || s.rankOf x.key ≠ s.rankOf it.key || x.core.isSome

/-- Groups of a stage that are bound, in order. -/
def State.groupsOf (s : State) (h st : Nat) : List Nat :=
  (s.kennels.vals.filterMap fun (k : Kennel) =>
    match k.bound with
    | some b => if b.hedge = h && b.stage = st && b.groupIdx = 0 then some b.group else none
    | none => none).mergeSort (fun a b => decide (a ≤ b))

/-- May the dispatcher give an item to a core: with GROUP 1 to any core of the stage that waits, with a greater one to
core 0 of GROUPIDX 0; in PACK and DETOKENIZE stages each stream's samples to one group in strict order. -/
def State.mayDispatch (s : State) (im : Image) (st : Stage) (it : Item) (core : Nat) : Bool :=
  match s.bindingOf core, s.jobs.find it.slot with
  | some b, some j =>
    let gs := s.groupsOf b.hedge b.stage
    b.hedge = j.desc.hedge && b.stage = st.id && (st.group = 1 || (b.groupIdx = 0 && coreIndex core = 0)) &&
      (st.kind ≠ kindDetokenize || s.inOrderAt im it) && (st.kind ≠ kindPack || s.inOrderAtPack it) &&
      (!(st.kind = kindDetokenize || st.kind = kindPack) || gs[s.rankOf it.key % gs.length]? = some b.group) &&
      (!(st.kind = kindModel || st.kind = kindFilter) || (j.models.any fun m => m.1 = st.id))
  | _, _ => false

/-- Input flags as a core sees them: the flags, and the exception code in bits [23:16] (R180). -/
def State.inputFlags (s : State) (it : Item) : Nat :=
  let facts := ((s.place it.key).map (·.facts)).getD SampleFacts.new
  setFlags it.flags facts.flags + 65536 * facts.exception

/-- The core that waits in SIN takes a sample: the descriptor goes to s[D] to s[D+3], and its budget begins. -/
def Core.takeSample (c : Core) (d : Nat) (it : Item) (handle len flags budget : Nat) : Core :=
  let x := (((c.setS d (BitVec.ofNat 64 handle)).setS (d + 1) (BitVec.ofNat 64 it.position)).setS (d + 2) (BitVec.ofNat 64 len)).setS
    (d + 3) (BitVec.ofNat 64 flags)
  { x.retire with held := some it.ref, served := [], budget := budget - 1 }

/-- SAMPLE_DISPATCH: the sample's bytes are in the HELD buffer that the handle names. -/
def State.dispatch (s : State) (ref : ItemRef) (core handle : Nat) : State :=
  match s.item ref, s.jobImage ref.slot, (s.core core).blocked with
  | some it, some im, .sin d =>
    match im.stage ref.stage, (s.jobs.find ref.slot).bind fun j => s.heldBuffer j.desc.hedge handle with
    | some st, some (sp, a, size) =>
      let data := it.payload.toBytes
      if !s.jobActive ref.slot || !s.coreRuns core || (s.core core).held.isSome || !s.mayDispatch im st it core || size < data.length then s
      else
        let t := (s.writeMem sp a data).putItem it { it with core := some (core, handle) }
        t.setCore core ((s.core core).takeSample d it handle data.length (s.inputFlags it) (((s.programOf core).map (·.budget)).getD 0))
    | _, _ => s
  | _, _, _ => s

/-- SAMPLE_DISPATCH. -/
def execSampleDispatch (item : ItemRef) (core handle : Nat) (s : State) : Host.Outcome State Fault Refusal :=
  if !s.hasCore core then .fault .noSuchUnit else act (fun s => s.dispatch item core handle) s

/-- SIN: the core waits for a sample; D at most 28. -/
def execSin (core : Nat) (f : Fields) (s : State) : Host.Outcome State Fault Refusal :=
  coreRow core f .no (formR f 0 && f.d.val ≤ 28) true (fun c s =>
    if c.held.isSome then s.exception core EX_SAMPLE else s.setCore core { c with blocked := .sin f.d.val }) s

/-! ### SOUT (R84) -/

/-- Free bytes, for what an output descriptor names beyond its buffer. -/
def strayBytes (handle i n : Nat) : Bytes := (List.range n).map fun k => Config.strayByte handle (i + k)

/-- The bytes that an output descriptor names. -/
def State.outputBytes (s : State) (hedge handle len : Nat) : Bytes :=
  match s.heldBuffer hedge handle with
  | some (sp, a, size) => s.readMem sp a (min len size) ++ strayBytes handle size (len - size)
  | none => strayBytes handle 0 len

/-- The flags that a stage may set: bits 0 to 4 (R180). -/
def stageFlags (v : Nat) : Nat := v % 32

/-- Does a kennel stage run the library routine of its kind? -/
def Image.runsLibrary (im : Image) (st : Stage) : Bool :=
  match im.programs[st.program]? with
  | some p => Config.isLibrary st.kind p.instr p.data
  | none => false

/-- Emit a held item on a port, for the first time: what the library routine computes for that port, where the stage runs
one, whose counters and records come with its first SOUT; else the bytes that the descriptor names. -/
def State.emitHeld (s : State) (im : Image) (st : Stage) (it : Item) (port handle len flags : Nat) : State :=
  let it := { it with flags := setFlags it.flags (stageFlags flags) }
  let hedge := ((s.jobs.find it.slot).map (·.desc.hedge)).getD 0
  let new := fun (x : Item) => { x with core := none, emitted := [], done := false }
  let r := match if im.runsLibrary st then s.libraryOuts im st it else none with
    | some (t, outs) =>
      (if it.emitted.isEmpty then t else s, (outs.filter fun (o : Nat × Item) => o.1 = port).map fun (o : Nat × Item) => (port, new o.2))
    | none => (s, [(port, new { it with payload := .bytes (s.outputBytes hedge handle len), pieces := [] })])
  let emitted := it.emitted ++ [port]
  let kept := { it with emitted := emitted, done := (im.outPorts st.id).all emitted.contains }
  let t := r.1.putItem (((s.items.find? fun x => x.core = it.core)).getD it) kept
  let t := t.emitAll im it r.2
  if kept.done then t.completeSample it.key else t

/-- SOUT on a port: a second one for the same port, or one without a sample, raises EX_SAMPLE. What an earlier run of
the same sample has emitted is not emitted again (R59). -/
def State.sout (s : State) (core : Nat) (f : Fields) : State :=
  let c := s.core core
  let port := uimm f
  match s.heldItem core with
  | none => s.exception core EX_SAMPLE
  | some it =>
    if c.served.contains port then s.exception core EX_SAMPLE
    else
      let t := s.setCore core { c.retire with served := c.served ++ [port] }
      match s.jobImage it.slot with
      | none => t
      | some im =>
        match im.stage it.stage with
        | none => t
        | some st =>
          if it.emitted.contains port || !(im.outPorts st.id).contains port then t
          else t.emitHeld im st it port (c.getS f.d.val).toNat (c.getS (f.d.val + 1)).toNat (c.getS (f.d.val + 2)).toNat

/-- SOUT: the descriptor is in s[D] to s[D+2]. -/
def execSout (core : Nat) (f : Fields) (s : State) : Host.Outcome State Fault Refusal :=
  coreRow core f .no (formR f 3 && f.d.val ≤ 29) true (fun _ s => (s.sout core f).heelSettle) s

/-! ### SDONE (R84, R236) -/

/-- The owning stage takes the bytes of an input buffer back: buffers of KIND 0x01 that hold them take the next
generation (R236). -/
def State.bumpInput (s : State) (hedge stage handle : Nat) : State :=
  match s.bufferOf handle with
  | some (.dram, a, n) =>
    { s with contexts := s.contexts.mapVals fun _ (c : Context) =>
        if c.hedge = hedge then
          { c with buffers := c.buffers.map fun (b : CtxBuffer) =>
              if b.kind = 1 && b.stage = stage && b.dramAt < a + n && a < b.dramAt + b.dramLength then
                { b with generation := nextGeneration b.generation }
              else b }
        else c }
  | _ => s

/-- SDONE: the sample is finished and its input buffer released. -/
def State.sdone (s : State) (core : Nat) : State :=
  let c := s.core core
  match s.heldItem core with
  | none => s.exception core EX_SAMPLE
  | some it =>
    let ports := ((s.jobImage it.slot).map fun im => im.outPorts it.stage).getD []
    if !ports.all c.served.contains then s.exception core EX_SAMPLE
    else
      let handle := ((it.core.map (·.2)).getD 0)
      let t := s.setCore core { c.retire with held := none, served := [] }
      let t := (t.takeItem it).adjustJob it.slot fun j => { j with faults := j.faults.erase it.stage }
      let t := (t.bumpInput (((s.jobs.find it.slot).map (·.desc.hedge)).getD 0) it.stage handle).releaseInput it.slot handle
        it.stage it.epoch it.position
      t.completeSample it.key

/-- SDONE. -/
def execSdone (core : Nat) (f : Fields) (s : State) : Host.Outcome State Fault Refusal :=
  coreRow core f .no (formR f 0) true (fun _ s => (s.sdone core).heelSettle) s

/-! ### OALLOC (R85) -/

/-- The output pool of a stage for a size: the lowest pool of the hedge that lists the stage as a requester and whose
buffers are large enough (log entry 18). -/
def State.outputPool (s : State) (hedge stage size : Nat) : Option Nat :=
  (s.pools.entries.find? fun (e : Nat × Pool) => e.2.hedge = hedge && (e.2.requester stage).isSome && size ≤ e.2.bufSize).map (·.1)

/-- OALLOC: granted, or the core blocks until its request is served. -/
def State.oalloc (s : State) (core : Nat) (f : Fields) : State :=
  let c := s.core core
  match (s.bindingOf core).bind fun b => (s.outputPool b.hedge b.stage (c.getS f.a.val).toNat).map fun k => (b.stage, k) with
  | none => s.setCore core { c with blocked := .oalloc }
  | some (stage, k) =>
    let r := s.poolRequest k stage (some (core, f.d.val))
    match r.2 with
    | some i => r.1.setCore core (c.setS f.d.val (BitVec.ofNat 64 (handleOf k i))).retire
    | none => r.1.setCore core { c with blocked := .oalloc }

/-- OALLOC. -/
def execOalloc (core : Nat) (f : Fields) (s : State) : Host.Outcome State Fault Refusal :=
  coreRow core f .no (formR f 0) true (fun _ s => s.oalloc core f) s

end Sys2Proof.Machine
end

