-- ==== Sys2Proof/Machine/Receive.lean ====
section
/-! DEFINITION. Plyn's receiving side: the receive order of Table 8-5, what each opcode does, answers to this device's
own messages, and the end of messages (R221, R222, R227 to R239, R241, R336). -/

namespace Sys2Proof.Machine

/-- Codes of Table 12-5 that a refusal brings. -/
def ST_FLT_FENCED : Nat := 0x00B2
def ST_FLT_JOB_STALE : Nat := 0x00B3

/-! ### Buffers (R232, Table 8-7) -/

/-- Does a Heel session or the fleet function receive its messages in a buffer of a context? -/
def State.functionBuffer (s : State) (ctx id : Nat) : Bool :=
  (s.fleetOn && ctx = s.fleetContext && id = 1) ||
    ((List.range 4).any fun k => s.bit (Reg.HEEL_CTRL k) Fld.HEEL_CTRL_ENABLE && !s.bit (Reg.HEEL_CTRL k) Fld.HEEL_CTRL_LINK &&
      s.fld (Reg.HEEL_LINKSEL k) Fld.HEEL_LINKSEL_CONTEXT = ctx && id = Config.heelBuffer ctx)

/-- The buffer of an id: one of the buffer list, or the buffer of a function of the device, which takes writes. -/
def State.ctxBuffer (s : State) (ctx : Nat) (c : Context) (id : Nat) : Option CtxBuffer :=
  match c.buffers.find? fun b => b.id = id with
  | some b => some b
  | none => if s.functionBuffer ctx id then some ⟨id, 0, 1, 0, 0, 1, Tab.empty⟩ else none

/-- Does an access of `n` bytes lie within a buffer? A function's buffer holds any message. -/
def CtxBuffer.holds (b : CtxBuffer) (offset n : Nat) : Bool := b.kind = 0 || offset + n ≤ b.length

/-- Has a buffer the right that an opcode needs? -/
def CtxBuffer.allows (b : CtxBuffer) (op : Nat) : Bool :=
  if op = opReadReq then b.readable else if op = opAtomicAdd || op = opAtomicCas then b.atomics else b.writable

/-- Whole units of a KIND 0x05 buffer that a byte range meets: first unit and count. -/
def CtxBuffer.unitRange (b : CtxBuffer) (offset n : Nat) : Nat × Nat :=
  (b.firstUnit + offset / unitBytes, ceilDiv (offset + n) unitBytes - offset / unitBytes)

/-- Bytes of a buffer. -/
def State.readBuffer (s : State) (b : CtxBuffer) (offset n : Nat) : Bytes :=
  if b.kind = 1 then s.readMem .dram (b.dramAt + offset) n
  else if b.kind = 5 then
    let r := b.unitRange offset n
    ((s.unitsData b.nsid r.1 r.2).drop (offset % unitBytes)).take n
  else b.mem.read offset n

/-- The units that a range of a buffer meets. -/
def CtxBuffer.unitsOf (b : CtxBuffer) (offset n : Nat) : List Nat :=
  let r := b.unitRange offset n
  if b.kind = 5 then (List.range r.2).map (r.1 + ·) else []

/-- The units of a range are read (R310). Answers whether all could be. -/
def State.readBufferUnits (s : State) (b : CtxBuffer) (offset n : Nat) : State × Bool := s.readUnits b.nsid (b.unitsOf offset n) []

/-- The job that a context serves: the one bound to it, else the lowest active slot of its hedge. -/
def State.contextJob (s : State) (c : Context) : Option Nat :=
  match c.job with
  | some n => some n
  | none => ((s.slotsOf c.hedge).filter fun n => s.jobActive n).head?

/-- Access-unit bytes arrive in a live-capture ring: they belong to the frame that is open (R117, R236). -/
def State.liveBytes (s : State) (slot : Nat) (data : Bytes) : State :=
  s.adjustJob slot fun j =>
    { j with live := j.live.adjust (s.orderTable slot).livePin fun r =>
        if r.dropping then r else { r with open_ := r.open_ ++ [data] } }

/-- Write the payload of a fragment (R222, Table 8-7). -/
def State.writeBuffer (s : State) (ctx : Nat) (c : Context) (b : CtxBuffer) (offset : Nat) (data : Bytes) : State :=
  if data.isEmpty then s
  else if b.kind = 1 then s.writeMem .dram (b.dramAt + offset) data
  else if b.kind = 5 then
    let r := b.unitRange offset data.length
    let whole := spliceAt (s.unitsData b.nsid r.1 r.2) (offset % unitBytes) data
    s.putUnits b.nsid r.1 (chunksOf unitBytes r.2 whole) none
  else
    let t := s.adjustCtx ctx fun c =>
      { c with buffers := c.buffers.map fun x => if x.id = b.id then { x with mem := x.mem.write offset data } else x }
    match s.contextJob c with
    | none => t
    | some slot =>
      if b.kind = 3 then
        -- a list from the accelerator counts where the table names it as the source (R114)
        if !((t.jobImage slot).map fun im => im.regionAccel b.stage).getD false then t else
        t.adjustJob slot fun j => { j with regions := j.regions ++ [(b.stage, fieldAt data 0 8, fieldAt data 8 4, data)] }
      else if b.kind = 4 then t.liveBytes slot data
      else t

/-! ### The replay filter (R230) -/

/-- The name of a message at its receiver. -/
def PltHeader.msgKey (h : PltHeader) : MsgKey := ⟨h.source, h.jobEpoch, h.phase, h.msgId⟩

/-- The entry of a message. -/
def Context.entry (c : Context) (h : PltHeader) : Option FilterEntry := c.filter.find? fun e => e.key = h.msgKey

/-- Is there no room for another message? -/
def Context.filterFull (c : Context) : Bool := 2 ^ c.filterLog2 ≤ c.filter.length

/-- Change the entry of a message; a new message gets one while there is room. -/
def Context.record (c : Context) (h : PltHeader) (f : FilterEntry → FilterEntry) : Context :=
  if (c.entry h).isSome then { c with filter := c.filter.map fun e => if e.key = h.msgKey then f e else e }
  else if c.filterFull then c
  else { c with filter := c.filter ++ [f ⟨h.msgKey, h.timestamp, [], none, none⟩] }

/-- Refuse a fragment and record the refusal, except a NAK_RETRY_LATER; its immediate is never posted (R230, R232). -/
def State.refuse (s : State) (h : PltHeader) (code detail auxBit : Nat) (keep : Bool) : State :=
  let t := if keep && code ≠ NAK_RETRY_LATER then
      s.adjustCtx h.context fun c =>
        { c.record h fun e => { e with nak := some (code + 256 * auxBit, detail) } with
          partialImm := c.partialImm.filter (· ≠ h.msgKey) }
    else s
  t.nak h code detail auxBit

/-- A fragment executed: it is recorded, with the result of an atomic. -/
def State.executed (s : State) (h : PltHeader) (result : Option Bytes) : State :=
  s.adjustCtx h.context fun c => c.record h fun e => { e with executed := e.executed ++ [h.fragment], result := result }

/-- After a fragment of a WRITE_IMM: once all have executed the immediate is posted to the buffer's owner. -/
def State.postImmediate (s : State) (h : PltHeader) : State :=
  s.adjustCtx h.context fun c =>
    let n := ((c.entry h).map (·.executed.length)).getD 0
    let others := c.partialImm.filter (· ≠ h.msgKey)
    if n = h.count then { c with partialImm := others, posted := c.posted ++ [(h.buffer, h.aux)] }
    else { c with partialImm := others ++ [h.msgKey] }

/-! ### Epochs and checks (R232, R235, R268) -/

/-- Step 9: the refusal of a packet whose job epoch or role epochs are wrong, as code, DETAIL and AUX bit 8. -/
def State.epochFault (s : State) (c : Context) (h : PltHeader) : Option (Nat × Nat × Nat) :=
  if h.jobEpoch < c.jobEpoch then some (NAK_JOB_STALE, c.jobEpoch, 0)
  else if c.jobEpoch < h.jobEpoch then some (NAK_RETRY_LATER, 0, 0)
  else if c.roleCheck && h.roleEpoch < s.heldRoleEpoch h.source then some (NAK_ROLE_STALE, s.heldRoleEpoch h.source, 0)
  else if c.roleCheck && h.peerEpoch ≠ s.ownRoleEpoch then some (NAK_ROLE_STALE, s.ownRoleEpoch, 1)
  else none

/-- Step 11 for an access: the refusal of R232, as code and DETAIL. `n` bytes are accessed. A write that a namespace
cannot take any more is refused too (log entry 40). -/
def State.bufferFault (s : State) (c : Context) (h : PltHeader) (n : Nat) : Option (Nat × Nat) :=
  match s.ctxBuffer h.context c h.buffer with
  | none => some (NAK_NO_BUFFER, 0)
  | some b =>
    let atomic : Bool := h.opcode = opAtomicAdd || h.opcode = opAtomicCas
    let n := if atomic then 8 else n
    let units := (b.unitRange h.offset n).2
    if !b.allows h.opcode then some (NAK_ACCESS, 0)
    else if h.generation ≠ b.generation then some (NAK_STALE_GEN, b.generation)
    else if !b.holds h.offset n then some (NAK_BOUNDS, 0)
    else if atomic && h.offset % 8 ≠ 0 then some (NAK_ALIGN, 0)
    else if b.kind = 5 && h.opcode ≠ opReadReq && 0 < n &&
        (s.bit (Reg.FTL_NS_STATE b.nsid) Fld.FTL_NS_STATE_READ_ONLY || !s.canReserve units) then some (NAK_ACCESS, 0)
    else if b.kind = 5 && h.opcode ≠ opReadReq && s.store.room < units then some (NAK_RETRY_LATER, 0)
    else none

/-- The payload of a fragment passes the inbound units of its sub-port: STRIP units take their value off its end.
Answers the data, and whether every value agreed. -/
def State.stripChecks (s : State) (units : List Nat) (payload : Bytes) : State × Bytes × Bool :=
  units.foldl (fun (acc : State × Bytes × Bool) u =>
    let c := acc.1.chkConfig u
    let p := acc.2.1
    if c.mode = chkStrip then
      let r := acc.1.chkRecord u (p.take (p.length - c.width)) (p.drop (p.length - c.width))
      (r.1, p.take (p.length - c.width), acc.2.2 && r.2.2)
    else ((acc.1.chkRecord u p []).1, p, acc.2.2)) (s, payload, true)

/-! ### Execution of requests (R222, R233, R234, R241) -/

/-- WRITE and WRITE_IMM. -/
def State.execWrite (s : State) (c : Context) (h : PltHeader) (data : Bytes) : State :=
  match s.ctxBuffer h.context c h.buffer with
  | none => s
  | some b =>
    let t := (s.writeBuffer h.context c b h.offset data).executed h none
    (if h.opcode = opWriteImm then t.postImmediate h else t).queueAck h

/-- READ_REQ: answered by one READ_RESP; units that fail read recovery are not answered (log entry 40). -/
def State.execRead (s : State) (c : Context) (h : PltHeader) : State :=
  match s.ctxBuffer h.context c h.buffer with
  | none => s
  | some b =>
    if s.unitsStalled b.nsid (b.unitsOf h.offset h.length) then s else
    let r := s.readBufferUnits b h.offset h.length
    if !r.2 then r.1
    else (r.1.executed h none).answer h.context h.source opReadResp 0 h.aux c.tclass (s.readBuffer b h.offset h.length)

/-- The new value of a word and its previous one, for ATOMIC_ADD and ATOMIC_CAS. -/
def atomicResult (op old : Nat) (payload : Bytes) : Nat :=
  if op = opAtomicAdd then (old + beFieldAt payload 0 8) % 2 ^ 64
  else if old = beFieldAt payload 0 8 then beFieldAt payload 8 8 else old

/-- ATOMIC_ADD and ATOMIC_CAS: the word is little-endian in the buffer, operands and result are big-endian. -/
def State.execAtomic (s : State) (c : Context) (h : PltHeader) (payload : Bytes) : State :=
  match s.ctxBuffer h.context c h.buffer with
  | none => s
  | some b =>
    let old := leNat (s.readBuffer b h.offset 8)
    let result := beBytes 8 old
    ((s.writeBuffer h.context c b h.offset (leBytes 8 (atomicResult h.opcode old payload))).executed h (some result)).ackAtomic h result

/-- Would a CREDIT overfill a FIFO? -/
def State.creditFull (s : State) (c : Context) (h : PltHeader) (payload : Bytes) : Bool :=
  match c.job.bind fun n => s.jobs.find n with
  | some j => j.creditOverfills h.source (creditEntriesOf payload)
  | none => false

/-- CREDIT. -/
def State.execCredit (s : State) (c : Context) (h : PltHeader) (payload : Bytes) : State :=
  let t := (s.executed h none).queueAck h
  match c.job with
  | some n => t.takeCredits n h.source (creditEntriesOf payload)
  | none => t

/-- Steps 10 to 12 for a request. -/
def State.request (s : State) (port sub : Nat) (c : Context) (h : PltHeader) (payload : Bytes) : State :=
  if (c.entry h).isNone && c.filterFull then s.nak h NAK_RETRY_LATER 0 0
  else if h.opcode = opCredit then
    if s.creditFull c h payload then s.nak h NAK_RETRY_LATER 0 0 else s.execCredit c h payload
  else
    let units := s.plynUnits port sub false h.context h.opcode
    match s.stripChecks units payload with
    | (t, data, ok) =>
      let n := if h.opcode = opReadReq then h.length else data.length
      match t.bufferFault c h n with
      | some (code, detail) => t.refuse h code detail 0 true
      | none =>
        if !ok then t.refuse h NAK_CHECK 0 0 true
        else if h.opcode = opReadReq then t.execRead c h
        else if h.opcode = opAtomicAdd || h.opcode = opAtomicCas then t.execAtomic c h data
        else t.execWrite c h data

/-- Steps 7 to 12 for a request. A READ_REQ that was answered is executed again (R234). -/
def State.filtered (s : State) (port sub : Nat) (c : Context) (h : PltHeader) (payload : Bytes) : State :=
  let e := c.entry h
  let done := (e.map fun e => e.executed.contains h.fragment).getD false
  if done && h.opcode ≠ opReadReq then
    let t := s.pltCount 4
    if h.opcode = opAtomicAdd || h.opcode = opAtomicCas then t.ackAtomic h ((e.bind (·.result)).getD []) else t.queueAck h
  else match e.bind (·.nak) with
    | some (code, detail) => (s.pltCount 4).nak h (code % 256) detail (code / 256)
    | none =>
      match s.epochFault c h with
      | some (code, detail, bit) => s.refuse h code detail bit true
      | none => s.request port sub c h payload

/-! ### Answers to this device's messages (R222, R229, R234, R239) -/

/-- A fragment of a READ_RESP: the first copy of each is kept, and one whose check value is wrong is refused and the refusal
recorded (R268). -/
def State.readResp (s : State) (port sub : Nat) (c : Context) (h : PltHeader) (payload : Bytes) : State :=
  match s.epochFault c h with
  | some (code, detail, bit) => s.refuse h code detail bit false
  | none =>
    match s.stripChecks (s.plynUnits port sub false h.context h.opcode) payload with
    | (t, data, ok) =>
      if !ok then t.refuse h NAK_CHECK 0 0 ((c.entry h).isSome || !c.filterFull)
      else t.adjustCtx h.context fun c =>
        { c with reads := c.reads.map fun r =>
            if r.tag = h.aux && !r.got.any (fun g => g.1 = h.offset) then { r with got := r.got ++ [(h.offset, data)] } else r }

/-- The sender that holds a message to a destination. -/
def Context.senderOf (c : Context) (dest msgId : Nat) : Option (Sender × OutMsg) :=
  (c.senders.find? fun x => x.dest = dest && x.msgs.any fun m => m.msgId = msgId).bind fun x =>
    (x.msgs.find? fun m => m.msgId = msgId).map fun m => (x, m)

/-- SRTT after an acknowledgement of a fragment that was sent once: the first sample replaces it, a later one counts with
weight 1/8 (R229). -/
def Context.sample (c : Context) (dest ns : Nat) : Context :=
  { c with trips := c.trips.insert dest (match c.trips.find dest with | some t => (7 * t + ns) / 8 | none => ns) }

/-- A fragment is acknowledged. -/
def State.ackFragment (s : State) (ctx dest msgId fragment : Nat) : State :=
  match (s.contexts.find ctx).bind fun c => c.senderOf dest msgId with
  | none => s
  | some (x, m) =>
    match m.frags[fragment]? with
    | none => s
    | some f =>
      if f.acked || f.frame.isNone then s
      else
        let x := x.adjustMsg msgId fun m => m.adjustFrag fragment fun f => { f with acked := true }
        let x := { x with holds := x.holds.filter fun h => !(h.1 = msgId && h.2.1 = fragment) }
        s.adjustCtx ctx fun c => (if f.resent then c else c.sample dest (s.uptime - f.sentNs)).setSender x

/-- A message that is acknowledged in full is over; a batch goes on. A READ_REQ ends with its answer instead. -/
def State.settleMessage (s : State) (ctx dest msgId : Nat) : State :=
  match (s.contexts.find ctx).bind fun c => c.senderOf dest msgId with
  | none => s
  | some (x, m) =>
    if m.frags.any fun f => !f.acked then s
    else
      let t := s.adjustCtx ctx fun c => c.setSender (x.drop msgId)
      match m.purpose with
      | .batch slot rank d ordinal => t.batchMessageDone slot rank d ordinal msgId
      | _ => t

/-- ACK: every fragment of its entries. -/
def State.ackArrived (s : State) (h : PltHeader) (payload : Bytes) : State :=
  let es := ackEntriesOf (if h.atomicResult then payload.take 12 else payload)
  es.foldl (fun t e =>
    ((List.range (e.2.2 + 1 - e.2.1)).foldl (fun t i => t.ackFragment h.context h.source e.1 (e.2.1 + i)) t).settleMessage
      h.context h.source e.1) s

/-- NAK_RETRY_LATER: the fragment and every later one to the destination are held for 20 µs × 2^k, at most 640 µs. -/
def State.retryLater (s : State) (ctx dest msgId fragment : Nat) : State :=
  match (s.contexts.find ctx).bind fun c => c.senderOf dest msgId with
  | none => s
  | some (x, m) =>
    match m.frags[fragment]? with
    | none => s
    | some f =>
      if f.acked || f.frame.isNone then s
      else
        let x := { x with holds := x.holds.filter (fun (h : Nat × Nat × Nat) => !(h.1 = msgId && h.2.1 = fragment)) ++ [(msgId, fragment, min 640 (20 * 2 ^ f.laters))] }
        let x := x.adjustMsg msgId fun m => m.adjustFrag fragment fun f => { f with laters := f.laters + 1 }
        s.adjustCtx ctx fun c => c.setSender x

/-- This member is fenced (R334, R336, R342): its job, whatever it was doing, enters HALTED, its queues are emptied, and the
fleet function is FENCED. -/
def State.fence (s : State) : State :=
  let slot := s.fleetSlot
  let t := if s.jobState slot = jobEmpty || s.jobState slot = jobHalted then s else s.setJobState slot jobHalted ST_FLT_FENCED
  let t := (t.queues.entries.filter fun e => e.2.job = slot).foldl (fun t e => t.emptyQueue e.1) t
  (t.setFltState fltFenced).setFltCode ST_FLT_FENCED

/-- Is a message one of the fleet's? -/
def Purpose.toFleet : Purpose → Bool
  | .fleet _ => true
  | .batch .. => false
  | .mask .. => false
  | .read _ => false
  | .heel _ => false

/-- Fleet messages to a node that are not acknowledged: node, kind, barrier and body of each. -/
def State.fleetQueued (s : State) (node : Nat) : List (Nat × Nat × Nat × Bytes) :=
  let msgs := ((s.contexts.find s.fleetContext).map fun c => (c.senders.filter fun x => x.dest = node).flatMap (·.msgs)).getD []
  msgs.filterMap fun m => match m.purpose with
    | .fleet kind =>
      let b := m.frags.flatMap (·.payload)
      if kind = kindResolve then none else some (node, kind, fieldAt b 8 8, b.drop 16)
    | _ => none

/-- Every fleet message to a node is held until the next roster, those that are sent and not acknowledged among them (R336). -/
def State.holdMessages (s : State) (node : Nat) : State :=
  let t := s.adjustFleet fun f => { f with heldNodes := node :: f.heldNodes.filter (· ≠ node), heldMsgs := f.heldMsgs ++ s.fleetQueued node }
  t.adjustCtx s.fleetContext fun c => { c with senders := c.senders.map fun x =>
    if x.dest = node then
      let gone := (x.msgs.filter fun m => m.purpose.toFleet).map (·.msgId)
      { x with msgs := x.msgs.filter fun m => !m.purpose.toFleet, holds := x.holds.filter fun h => !gone.contains h.1 }
    else x }

/-- Every delivery of a job to a node is held until the next roster (R336). -/
def State.holdNode (s : State) (slot node : Nat) : State :=
  match s.jobs.find slot with
  | none => s
  | some j => j.streams.foldl (fun t st =>
      ((j.map.destsOf st.rank).zipIdx.filter fun d => d.1.node = node).foldl (fun t d =>
        match t.delivery slot st.rank d.2 with
        | some (_, _, x, _) => (t.restartBatch slot st.rank d.2 x.credit).adjustDelivery slot st.rank d.2 fun x => { x with held := true }
        | none => t) t) s

/-- The slot of the job that a message is for. -/
def State.slotOf (s : State) : Purpose → Option Nat
  | .batch slot _ _ _ => some slot
  | .mask slot _ _ _ => some slot
  | .read item => some item.slot.val
  | .fleet _ => some s.fleetSlot
  | .heel _ => none

/-- NAK_ROLE_STALE to a message of the fleet's job or of the fleet (R336): with AUX bit 8 clear this member is fenced; else
the receiver took another role, what goes to it is held, and RESOLVE asks the manager. -/
def State.roleRefused (s : State) (node bit : Nat) : State :=
  if bit = 0 then s.fence
  else ((s.holdNode s.fleetSlot node).holdMessages node).fleetSendRole roleManager kindResolve 0 []

/-- What a refusal other than NAK_RETRY_LATER and of a role does to a message (R156, R243, R336). The delivery of a job that no
fleet binds is held when a role is refused (log entry 41). -/
def State.refused (s : State) (node code : Nat) (purpose : Purpose) : State :=
  let t := if code = NAK_JOB_STALE then ((s.slotOf purpose).map fun slot => s.haltJob slot ST_FLT_JOB_STALE).getD s else s
  match purpose with
  | .batch slot rank dest _ =>
    if code = NAK_ROLE_STALE then s.holdNode slot node else if code = NAK_JOB_STALE then t else s.batchRefused slot rank dest code
  | .mask slot _ _ _ => if code = NAK_STALE_GEN then s.bumpSat (Reg.TOK_BAD_MSG slot) Fld.TOK_BAD_MSG_COUNT else t
  | .read item => (if s.inFleet item.slot.val then t else s).readFailed item
  | .fleet _ => t
  | .heel _ => t

/-- NAK (R239): an unknown code is dropped; only a fragment that is still unacknowledged is refused. -/
def State.nakArrived (s : State) (h : PltHeader) (payload : Bytes) : State :=
  let code := h.aux % 256
  let msgId := beFieldAt payload 0 6
  let fragment := beFieldAt payload 6 2
  if code = 0 || NAK_CHECK < code then s.pltCount 2
  else if code = NAK_RETRY_LATER then s.retryLater h.context h.source msgId fragment
  else
    match (s.contexts.find h.context).bind fun c => c.senderOf h.source msgId with
    | none => s
    | some (x, m) =>
      match m.frags[fragment]? with
      | none => s
      | some f =>
        if f.acked || f.frame.isNone then s
        else
          let t := s.adjustCtx h.context fun c => c.setSender (x.drop msgId)
          if code = NAK_ROLE_STALE && s.fleetOn && s.slotOf m.purpose = some s.fleetSlot then
            let t := if m.purpose.toFleet then s else t
            let t := t.roleRefused h.source (h.aux / 256 % 2)
            match m.purpose with
            | .read item => t.readFailed item
            | _ => t
          else t.refused h.source code m.purpose

/-! ### The receive order (R225, R231) -/

/-- Key of a source in the key phases of a context. -/
def phaseKey (source jobEpoch : Nat) : Nat := source + 2 ^ 32 * jobEpoch

/-- Is a key phase accepted: the current one, the previous one within its window, the next one, or any at first? -/
def Context.phaseOk (c : Context) (h : PltHeader) : Bool :=
  match c.phases.find (phaseKey h.source h.jobEpoch) with
  | none => true
  | some (now, before) => h.phase = now || before = some h.phase || h.phase = (now + 1) % 256

/-- An authentic packet arrived: its key phase and its port are noted. -/
def Context.sawPacket (c : Context) (h : PltHeader) (port sub : Nat) : Context :=
  let k := phaseKey h.source h.jobEpoch
  let phases := match c.phases.find k with
    | none => c.phases.insert k (h.phase, none)
    | some (now, _) => if h.phase = (now + 1) % 256 then c.phases.insert k (h.phase, some now) else c.phases
  { c with phases := phases, cameOn := c.cameOn.insert h.source (port, sub) }

/-- An authentic packet of good shape goes to its opcode. -/
def State.dispatchPacket (s : State) (port sub : Nat) (c : Context) (h : PltHeader) (payload : Bytes) : State :=
  if opFiltered h.opcode then s.filtered port sub c h payload
  else if h.opcode = opReadResp then s.readResp port sub c h payload
  else if h.opcode = opAck then s.ackArrived h payload
  else s.nakArrived h payload

/-- Messages of one fragment (R223). -/
def opSingle (op : Nat) : Bool :=
  op = opAtomicAdd || op = opAtomicCas || op = opReadReq || op = opAck || op = opNak || op = opCredit

/-- Steps 5 to 12, for a packet whose context record is on chip. -/
def State.fromStep5 (s : State) (port sub : Nat) (frame : Bytes) : State :=
  let h := pltHeaderOf frame
  match s.contexts.find h.context with
  | none => s.pltCount 2
  | some c =>
    if h.unauth then
      if h.opcode = opNak && h.aux % 256 = NAK_RETRY_LATER then s.retryLater h.context h.source h.msgId h.fragment else s
    else match openFrame ((s.contextKey c).getD []) h frame with
      | none => s.pltCount 0
      | some payload =>
        if (s.contextKey c).isNone || !c.phaseOk h then s.pltCount 0
        else if !controlShapeOk h payload || (opSingle h.opcode && h.count ≠ 1) then s.pltCount 2
        else
          let c2 := c.sawPacket h port sub
          ((s.adjustCtx h.context fun _ => c2).touchCtx h.context).dispatchPacket port sub c2 h payload

/-- Step 2: is the packet too old or too far ahead (R227)? -/
def State.ageBad (s : State) (h : PltHeader) : Bool :=
  let a := pltAge s.nowUs h.timestamp
  4000 < a || a < -100

/-- PLT_MISSQ follows the miss queue of a port. -/
def State.showMissq (s : State) (p : Nat) : State :=
  let n := (s.port p).missq.length
  let t := s.setFld (Reg.PLT_MISSQ p) Fld.PLT_MISSQ_DEPTH n
  t.setFld (Reg.PLT_MISSQ p) Fld.PLT_MISSQ_HIGH (max n (t.fld (Reg.PLT_MISSQ p) Fld.PLT_MISSQ_HIGH))

/-- A record that is not on chip is fetched, once there is room for it (R237, R238). -/
def State.startFetch (s : State) (ctx : Nat) : State :=
  if ((s.contexts.find ctx).map (·.fetching)).getD true then s
  else match s.makeRoom with
    | some t => t.adjustCtx ctx fun c => { c with fetching := true }
    | none => s

/-- Step 4: the packet waits in the miss queue, or is dropped with an UNAUTH answer when the queue is full (R238). -/
def State.missQueue (s : State) (port sub : Nat) (h : PltHeader) (frame : Bytes) : State :=
  let p := s.port port
  if 512 ≤ p.missq.length then s.unauthNak port sub h
  else (((s.setPort port { p with missq := p.missq ++ [(sub, frame)] }).pltCount 5).showMissq port).startFetch h.context

/-- Is a sub-port stalled by a paused check-value unit that snoops what it receives (R269)? -/
def State.ingressStalled (s : State) (port sub : Nat) : Bool :=
  (List.range 16).any fun u =>
    let c := s.chkConfig u
    s.chkOn u && s.chkPaused u && c.kind = 1 && !c.outbound && c.index = 4 * port + sub

/-- A frame of an opcode arrives at a sub-port (Table 8-5); it waits there while the sub-port is stalled. -/
def State.pltReceive (s : State) (port sub op : Nat) (frame : Bytes) : State :=
  if s.ingressStalled port sub then s.setPort port { s.port port with held := (s.port port).held ++ [(sub, op, frame)] } else
  let h := pltHeaderOf frame
  if !s.linkUp port sub || h.opcode ≠ op then s
  else if frame.length < 64 || !h.valid s.sourceId || frame.length ≠ pltFrameLength h then s.pltCount 2
  else if s.ageBad h then s.pltCount 1
  else match s.contexts.find h.context with
    | none => s.pltCount 2
    | some c => if c.onChip then s.fromStep5 port sub frame else s.missQueue port sub h frame

/-- The frames that wait at stalled sub-ports arrive in order, where nothing stalls them any more. -/
def State.drainStalled (s : State) : State :=
  if s.ports.vals.all fun p => p.held.isEmpty then s
  else (s.ports.entries.foldl (fun t e =>
    e.2.held.foldl (fun t f => t.pltReceive e.1 f.1 f.2.1 f.2.2) (t.setPort e.1 { t.port e.1 with held := [] })) s).heelSettle

/-- CHK_DISABLE (R267): what the unit stalled goes on. -/
def execChkDisable (unit : Fin 16) (s : State) : Host.Outcome State Fault Refusal :=
  hostAct (Reg.CHK_CTRL unit) (fun s => (s.chkDisable unit).drainStalled) s

/-- CHK_RESUME (R269): what the unit stalled goes on. -/
def execChkResume (unit : Fin 16) (s : State) : Host.Outcome State Fault Refusal :=
  hostAct (Reg.CHK_CTRL unit) (fun s => (s.chkResume unit).drainStalled) s

/-- CHK_RELEASE (R269): what the unit stalled goes on. -/
def execChkRelease (unit : Fin 16) (s : State) : Host.Outcome State Fault Refusal :=
  hostAct (Reg.CHK_CTRL unit) (fun s => (s.chkRelease unit).drainStalled) s

/-- A row of Table 8-3: a frame of its opcode arrives. -/
def pltRow (port : Fin 5) (sub : Fin 4) (op : Nat) (frame : Bytes) (s : State) : Host.Outcome State Fault Refusal :=
  jobAct (fun s => s.pltReceive port sub op frame) s

/-- PLT_WRITE (R222). -/
def execPltWrite (port : Fin 5) (sub : Fin 4) (frame : Bytes) (s : State) : Host.Outcome State Fault Refusal :=
  pltRow port sub opWrite frame s

/-- PLT_WRITE_IMM (R222). -/
def execPltWriteImm (port : Fin 5) (sub : Fin 4) (frame : Bytes) (s : State) : Host.Outcome State Fault Refusal :=
  pltRow port sub opWriteImm frame s

/-- PLT_READ_REQ (R234). -/
def execPltReadReq (port : Fin 5) (sub : Fin 4) (frame : Bytes) (s : State) : Host.Outcome State Fault Refusal :=
  pltRow port sub opReadReq frame s

/-- PLT_READ_RESP (R234). -/
def execPltReadResp (port : Fin 5) (sub : Fin 4) (frame : Bytes) (s : State) : Host.Outcome State Fault Refusal :=
  pltRow port sub opReadResp frame s

/-- PLT_ATOMIC_ADD (R233). -/
def execPltAtomicAdd (port : Fin 5) (sub : Fin 4) (frame : Bytes) (s : State) : Host.Outcome State Fault Refusal :=
  pltRow port sub opAtomicAdd frame s

/-- PLT_ATOMIC_CAS (R233). -/
def execPltAtomicCas (port : Fin 5) (sub : Fin 4) (frame : Bytes) (s : State) : Host.Outcome State Fault Refusal :=
  pltRow port sub opAtomicCas frame s

/-- PLT_ACK (R222, R229). -/
def execPltAck (port : Fin 5) (sub : Fin 4) (frame : Bytes) (s : State) : Host.Outcome State Fault Refusal :=
  pltRow port sub opAck frame s

/-- PLT_NAK (R239). -/
def execPltNak (port : Fin 5) (sub : Fin 4) (frame : Bytes) (s : State) : Host.Outcome State Fault Refusal :=
  pltRow port sub opNak frame s

/-- PLT_CREDIT (R241). -/
def execPltCredit (port : Fin 5) (sub : Fin 4) (frame : Bytes) (s : State) : Host.Outcome State Fault Refusal :=
  pltRow port sub opCredit frame s

/-- A frame arrives at a sub-port, from its destination address to its FCS: it is dropped and counted where it breaks R219;
else its Plyn part goes on to the receive order, which drops what breaks R221. -/
def State.frameArrives (s : State) (port sub : Nat) (frame : Bytes) : State :=
  if !s.linkUp port sub then s else
  match s.carriedBy frame with
  | .invalid => s.pltCount 2
  | .plyn b => s.pltReceive port sub (pltHeaderOf b).opcode b
  | .ptp _ => s

/-- INVALID_FRAME (R219, R221): the frame is dropped and counted where it breaks a rule of framing or of the header. -/
def execInvalidFrame (port : Fin 5) (sub : Arrival) (s : State) : Host.Outcome State Fault Refusal :=
  jobAct (fun s => s.frameArrives port sub.sub sub.frame) s

/-! ### Context fetches and messages given up (R229, R237, R238) -/

/-- Frames of a context that wait at a port leave its miss queue in order and go on from step 5; those that grew too
old are dropped. -/
def State.drainMiss (s : State) (port ctx : Nat) : State :=
  let p := s.port port
  let mine := p.missq.filter fun f => (pltHeaderOf f.2).context = ctx
  let t := (s.setPort port { p with missq := p.missq.filter fun f => (pltHeaderOf f.2).context ≠ ctx }).showMissq port
  mine.foldl (fun t f => if t.ageBad (pltHeaderOf f.2) then t.pltCount 1 else t.fromStep5 port f.1 f.2) t

/-- A context record arrives on chip; packets of every port that waited for it go on, those of the named port first. -/
def State.fetchDone (s : State) (port ctx : Nat) : State :=
  let t := s.startFetch ctx
  match t.contexts.find ctx with
  | none => s
  | some c =>
    if c.onChip || !c.fetching then s
    else
      let t := (t.adjustCtx ctx fun c => { c with onChip := true, fetching := false }).touchCtx ctx
      ([port] ++ (List.range 5).filter (· ≠ port)).foldl (fun t p => t.drainMiss p ctx) t

/-- CONTEXT_FETCH_DONE (R238): for a context that a packet at the port waits for. -/
def execContextFetchDone (port : Fin 5) (ctx : Nat) (s : State) : Host.Outcome State Fault Refusal :=
  jobAct (fun s =>
    if (s.port port).missq.any fun f => (pltHeaderOf f.2).context = ctx then s.fetchDone port ctx else s) s

/-- The reads of a context that a READ_REQ of a tag asked for, once full. -/
def Context.readFull (c : Context) (tag : Nat) : Bool := (c.reads.filter fun r => r.tag = tag).all ReadWait.full

/-- A message is given up as UNCONFIRMED, and the function that issued it is told ST_PLT_UNCONFIRMED (R229). -/
def State.giveUp (s : State) (ctx dest msgId : Nat) : State :=
  match s.contexts.find ctx with
  | none => s
  | some c =>
    match c.senderOf dest msgId with
    | none => s
    | some (x, m) =>
      if m.bornNs.isNone || m.frags.all (·.acked) then s
      else
        let t := s.adjustCtx ctx fun c =>
          { c.setSender (x.drop msgId) with reports := c.reports ++ [(m.purpose, ST_PLT_UNCONFIRMED)] }
        match m.purpose with
        | .batch slot rank d _ => t.batchUnconfirmed slot rank d
        | .read item => if c.readFull ((m.frags.head?.map fun f => f.header.aux).getD 0) then t else t.readFailed item
        | _ => t

/-- MESSAGE_GIVE_UP (R229). -/
def execMessageGiveUp (ctx dest msgId : Nat) (s : State) : Host.Outcome State Fault Refusal :=
  jobAct (fun s => s.giveUp ctx dest msgId) s

end Sys2Proof.Machine
end

