-- ==== Sys2Proof/Machine/Fleet.lean ====
section
/-! DEFINITION. The fleet on every member: rosters, forming a fleet, ranks gained and dropped, mirrors and arrivals
(R327 to R332, R334 to R339). -/

namespace Sys2Proof.Machine

/-- Code of a takeover without a majority (Table 12-6). -/
def ST_FLT_NO_QUORUM : Nat := 0x00B4

/-- INDEX and BUDDY of FLT_INDEX for none, and a roster's index for none. -/
def noMember : Nat := 0x1FFF
def noOwner : Nat := 0xFFFF

/-! ### Rosters (R327) -/

/-- A roster entry (Table 12-2). -/
def rosterEntryAt (b : Bytes) (at_ : Nat) : RosterEntry :=
  ⟨fieldAt b at_ 4, fieldAt b (at_ + 4) 1, fieldAt b (at_ + 5) 1, fieldAt b (at_ + 6) 2, fieldAt b (at_ + 8) 4, fieldAt b (at_ + 12) 2⟩

/-- Where the owner values of a roster begin. -/
def ownersAt (b : Bytes) : Nat := 32 + 16 * fieldAt b 6 2

/-- Bytes of a roster, with the zeros at its end. -/
def rosterLength (b : Bytes) : Nat := roundUp (ownersAt b + 2 * fieldAt b 0x10 2) 8

/-- Has a roster the format of R327? -/
def rosterFormatOk (b : Bytes) : Bool :=
  let n := fieldAt b 6 2
  32 ≤ b.length && fieldAt b 0 4 = 0x54535248 && fieldAt b 4 2 = 1 && 2 ≤ n && n ≤ 4352 && b.length = rosterLength b &&
    zeroAt b 0x12 14 && ((List.range n).all fun i =>
      zeroAt b (32 + 16 * i + 14) 2 && fieldAt b (32 + 16 * i + 4) 1 ≤ 5 && fieldAt b (32 + 16 * i + 5) 1 ≤ 1) &&
    zeroAt b (ownersAt b + 2 * fieldAt b 0x10 2) (b.length - (ownersAt b + 2 * fieldAt b 0x10 2))

/-- Read a roster. -/
def rosterOf (b : Bytes) : Roster where
  rosterEpoch := fieldAt b 8 4
  jobEpoch := fieldAt b 0xC 4
  ranks := fieldAt b 0x10 2
  entries := (List.range (fieldAt b 6 2)).map fun i => rosterEntryAt b (32 + 16 * i)
  owners := (List.range (fieldAt b 0x10 2)).map fun i => fieldAt b (ownersAt b + 2 * i) 2

/-- The bytes of an entry. -/
def rosterEntryBytes (e : RosterEntry) : Bytes :=
  leBytes 4 e.node ++ leBytes 1 e.role ++ leBytes 1 e.flags ++ leBytes 2 e.buddy ++ leBytes 4 e.roleEpoch ++ leBytes 2 e.held ++ leBytes 2 0

/-- The bytes of a roster. -/
def rosterBytes (r : Roster) : Bytes :=
  let b := leBytes 4 0x54535248 ++ leBytes 2 1 ++ leBytes 2 r.entries.length ++ leBytes 4 r.rosterEpoch ++ leBytes 4 r.jobEpoch ++
    leBytes 2 r.ranks ++ List.replicate 14 0 ++ r.entries.flatMap rosterEntryBytes ++ r.owners.flatMap (leBytes 2)
  b ++ List.replicate (roundUp b.length 8 - b.length) 0

/-- Ranks that a member holds by a roster. -/
def ranksOf (r : Roster) (i : Nat) : List Nat := (r.owners.zipIdx.filter fun e => e.1 = i).map (·.2)

/-- Indexes of the entries with a role. -/
def withRole (r : Roster) (role : Nat) : List Nat := (r.entries.zipIdx.filter fun e => e.1.role = role).map (·.2)

/-- The manager's checks at ENABLE (R328): the format, its own entry, the roles and the owners; RANKS and JOB_EPOCH
are those of the delivery map. -/
def rosterOk (r : Roster) (node ranks jobEpoch : Nat) : Bool :=
  r.ranks = ranks && r.jobEpoch = jobEpoch &&
    (match withRole r roleManager with
    | [m] => (r.entries[m]?).map (·.node) = some node
    | _ => false) &&
    (withRole r roleStandby).length ≤ 1 && (withRole r roleWorker).length ≤ 4095 &&
    (r.owners.all fun o => o = noOwner || (withRole r roleWorker).contains o) &&
    (List.range r.entries.length).all fun i => (ranksOf r i).length ≤ 256

/-- Index of the member with a node. -/
def Fleet.memberAt (f : Fleet) (node : Nat) : Option Nat := f.roster.bind fun r => r.entries.findIdx? fun e => e.node = node

/-- The roster in force, empty where there is none. -/
def State.roster (s : State) : Roster := s.fleet.roster.getD ⟨0, 0, 0, [], []⟩

/-- Role of a member; FAILED where the roster does not list it. -/
def State.roleOf (s : State) (i : Nat) : Nat := ((s.fleet.entry i).map (·.role)).getD roleFailed

/-! ### Messages (R329) -/

/-- A fleet message. -/
structure FleetMsg where
  kind : Nat
  sender : Nat
  rosterEpoch : Nat
  barrier : Nat
  body : Bytes
deriving DecidableEq, Repr

/-- Read a fleet message. -/
def fleetMsgOf (b : Bytes) : FleetMsg := ⟨fieldAt b 0 1, fieldAt b 2 2, fieldAt b 4 4, fieldAt b 8 8, b.drop 16⟩

/-- Roster epoch in force. -/
def State.rosterEpoch (s : State) : Nat := s.fld Reg.FLT_ROSTER_EPOCH Fld.FLT_ROSTER_EPOCH_EPOCH

/-- A fleet message of a kind arrives. One with a lower ROSTER_EPOCH is discarded. A fenced member takes none. -/
def fleetTake (kind : Nat) (msg : Bytes) (f : FleetMsg → State → State) (s : State) : Host.Outcome State Fault Refusal :=
  let m := fleetMsgOf msg
  act (fun s =>
    if s.fleetOn && 16 ≤ msg.length && m.kind = kind && s.fltState ≠ fltFenced && s.rosterEpoch ≤ m.rosterEpoch then
      (f m s).heelSettle
    else s) s

/-- The same for a message whose sender the roster lists; `f` takes the sender's index. -/
def fleetFrom (kind source : Nat) (msg : Bytes) (f : Nat → FleetMsg → State → State) (s : State) : Host.Outcome State Fault Refusal :=
  fleetTake kind msg (fun m s => match s.fleet.memberAt source with
    | some i => f i m s
    | none => s) s

/-- Send to a member. -/
def State.fleetSendTo (s : State) (i kind barrier : Nat) (body : Bytes) : State :=
  match s.fleet.entry i with
  | some e => if e.node = s.sourceId then s else s.fleetSend e.node kind barrier body
  | none => s

/-- Resume records in a body. -/
def recordsIn (b : Bytes) : List (Nat × Bytes) := ((chunksOf 48 b.length b).filter fun x => x.length = 48).map fun x => (fieldAt x 0 2, x)

/-! ### Ranks gained and dropped (R330, R338, R339) -/

/-- A worker drops a rank: its queue is freed, and what it assigned and delivers for it is discarded. -/
def State.dropRank (s : State) (slot rank : Nat) : State :=
  match (s.jobs.find slot).bind (·.stream rank) with
  | none => s
  | some st =>
    let t := s.cancelMessages fun p => match p with
      | .batch a b _ _ => a = slot && b = rank
      | _ => false
    let t := { t with items := t.items.filter fun it => !(it.slot = slot && s.rankOf it.key = rank) }
    let t := t.adjustJob slot fun j => { j with streams := j.streams.filter fun x => x.rank ≠ rank }
    let t := t.adjustFleet fun f => { f with mirrorWait := f.mirrorWait.erase rank, shadowed := f.shadowed.filter (· ≠ rank) }
    if st.queue = noQueue then t else t.freeQueue st.queue

/-- A worker gains a rank from a record: it allocates the queue, and delivers from ordinal `first`. A failure halts
the job with the code (R330). -/
def State.gainRank (s : State) (slot rank first : Nat) (record : Bytes) : State :=
  let t := s.dropRank slot rank
  let r := resumeOf record
  match t.allocQueue slot rank with
  | .error code => t.haltJob slot code
  | .ok (u, q) =>
    let next := if u.jobActive slot && !r.done then u.rankCursor slot rank r.cursor else none
    let u := u.addStream slot rank q r next
    let u := u.adjustJob slot fun j => j.adjustStream rank fun st =>
      { st with floor := first, base := first, deliveries := st.deliveries.map fun d => { d with ordinal := first } }
    u.adjustFleet fun f => { f with exempt := (rank, first / 64) :: f.exempt.filter fun e => e.1 ≠ rank }

/-- MOVE at the new holder: a record at or after H is a replacement (R338), else a move (R339). How far the failed holder had
got after the record no message tells: the number of batches packed again is a free value, at most 1 after a mirrored record,
which is one inside a barrier, and at most 64 after a logged one. -/
def State.takeRank (s : State) (slot rank first : Nat) (record : Bytes) : State :=
  let t := s.gainRank slot rank first record
  let o := (resumeOf record).ordinal
  if o < first then t
  else
    let again := o + s.freeValue % (if o % 64 = 0 then 65 else 2)
    ((t.adjustJob slot fun j => j.adjustStream rank fun st => { st with recompute := again }).bumpSat
      Reg.FLT_REPLACED Fld.FLT_REPLACED_COUNT).drew

/-- Is a rank kept although the roster names another owner: a WARM spare shadows it, or a move brings it here? -/
def State.keepsRank (s : State) (rank : Nat) : Bool :=
  s.fltRole = roleWarm || s.fleet.ownerOf rank = s.ownIndex ||
    s.fleet.moves.any fun m => m.rank = rank && m.to_ = s.ownIndex && s.fleet.ownerOf rank = m.from_

/-- The ranks of a job that the roster took away are dropped. -/
def State.dropLost (s : State) (slot : Nat) : State :=
  let lost := (((s.jobs.find slot).map (·.streams)).getD []).filter fun st => !s.keepsRank st.rank
  let t := lost.foldl (fun t st => t.dropRank slot st.rank) s
  t.adjustFleet fun f => { f with moves := f.moves.filter fun m =>
    s.fltRole = roleManager || f.ownerOf m.rank = m.from_ }

/-- Ranks that this worker promised to drop once its arrival before H is durable (R339). The move keeps the rank's record. An
ARRIVE of the same barrier without the dropped ranks tells the manager that the arrival is durable (DESIGN CHOICE, log entry
41: the spec names no message that does). -/
def State.dropMoved (s : State) (slot : Nat) : State :=
  let due := fun (m : RankMove) =>
    m.from_ = s.ownIndex && !m.dropped && s.arrived ≠ noBarrier && decide (m.ordinal / 64 ≤ s.arrived + 1)
  if !s.fleet.moves.any due then s
  else
    let t := (s.fleet.moves.filter due).foldl (fun t m => t.dropRank slot m.rank) s
    let t := t.adjustFleet fun f => { f with moves := f.moves.map fun m =>
      let mine := due m
      if mine then { m with dropped := true, record := s.rankRecord slot m.rank } else m }
    t.fleetSendRole roleManager kindArrive s.arrived (t.heldRanks.flatMap fun r => t.rankRecord slot r)

/-- A new manager knows of no move under way, so that its roster stands (R341, R343; log entry 41): a rank that this worker
dropped for one is taken up again where it was dropped, and `dropLost` gives up what a move brought here. -/
def State.cancelMoves (s : State) (slot : Nat) : State :=
  let back := s.fleet.moves.filter fun m => m.from_ = s.ownIndex && m.dropped && s.fleet.ownerOf m.rank = s.ownIndex
  let t := back.foldl (fun t m => t.gainRank slot m.rank (resumeOf m.record).ordinal m.record) s
  t.adjustFleet fun f => { f with moves := [] }

/-- Allocate the queues of the ranks of the first roster (R330), up to one that fails. -/
def State.allocRoster (s : State) (slot : Nat) : State :=
  s.heldRanks.foldl (fun t rank =>
    if t.jobState slot = jobHalted || ((t.jobs.find slot).bind (·.stream rank)).isSome then t
    else t.gainRank slot rank 0 (t.resumeStart slot rank).bytes) s

/-! ### A roster in force (R335) -/

/-- The registers that show a roster. -/
def State.showRoster (s : State) (r : Roster) : State :=
  let i := r.entries.findIdx? fun e => e.node = s.sourceId
  let e := (i.bind fun i => r.entries[i]?).getD ⟨0, roleSpare, 0, noOwner, 0, 0⟩
  let t := s.setFld Reg.FLT_INDEX Fld.FLT_INDEX_INDEX (i.getD noMember)
  let t := t.setFld Reg.FLT_INDEX Fld.FLT_INDEX_BUDDY (if e.buddy = noOwner then noMember else e.buddy)
  let t := t.setFld Reg.FLT_STATUS Fld.FLT_STATUS_ROLE e.role
  let t := t.setFld Reg.FLT_STATUS Fld.FLT_STATUS_SUSPECT (e.flags % 2)
  let t := t.setFld Reg.FLT_ROLE_EPOCH Fld.FLT_ROLE_EPOCH_EPOCH e.roleEpoch
  let t := t.setFld Reg.FLT_ROSTER_EPOCH Fld.FLT_ROSTER_EPOCH_EPOCH r.rosterEpoch
  let t := match (r.entries.find? fun e => e.role = roleManager) with
    | some m => t.setFld Reg.FLT_MANAGER Fld.FLT_MANAGER_NODE m.node
    | none => t
  let t := t.setFld Reg.FLT_RANKS Fld.FLT_RANKS_HELD ((i.map fun i => (ranksOf r i).length).getD 0)
  let manager := e.role = roleManager
  let count := fun (n : Nat) => if manager then n else 0
  let t := t.setFld Reg.FLT_MGR_LIVE Fld.FLT_MGR_LIVE_WORKERS (count (withRole r roleWorker).length)
  let t := t.setFld Reg.FLT_MGR_LIVE Fld.FLT_MGR_LIVE_SPARES (count ((withRole r roleSpare).length + (withRole r roleWarm).length))
  t.setFld Reg.FLT_MGR_SUSPECTS Fld.FLT_MGR_SUSPECTS_COUNT
    (count (r.entries.filter fun e => e.role = roleWorker && e.flags % 2 = 1).length)

/-- Deliveries and fleet messages that R336 held go on under the roster in force. -/
def State.releaseHeld (s : State) : State :=
  let t := s.adjustFleet fun f => { f with heldNodes := [], heldMsgs := [] }
  let t := t.adjustJob s.fleetSlot fun j => { j with streams := j.streams.map fun st =>
    { st with deliveries := st.deliveries.map fun d => { d with held := false } } }
  s.fleet.heldMsgs.foldl (fun t (m : Nat × Nat × Nat × Bytes) => t.fleetPost m.1 m.2.1 m.2.2.1 m.2.2.2) t

/-- Index of the manager in a roster. -/
def Roster.manager (r : Roster) : Option Nat := r.entries.findIdx? fun e => e.role = roleManager

/-- A roster comes into force: a change of it, and one of the own SUSPECT mark, raise vector 9; a change of the
manager counts as a takeover (R341, R346). The delivery context takes its JOB_EPOCH, and what R336 held goes on. -/
def State.adoptRoster (s : State) (r : Roster) : State :=
  let old := s.fleet.roster
  let mark := s.fld Reg.FLT_STATUS Fld.FLT_STATUS_SUSPECT
  let t := (s.showRoster r).adjustFleet fun f => { f with roster := some r }
  let t := if old.any fun x => x.manager != r.manager then t.bumpSat Reg.FLT_TAKEOVERS Fld.FLT_TAKEOVERS_COUNT else t
  let t := match t.jobs.find t.fleetSlot with
    | some j => t.adjustCtx j.map.context fun c => if c.job = some t.fleetSlot then { c with jobEpoch := r.jobEpoch } else c
    | none => t
  let t := if old = some r then t else t.raise 9
  let t := if t.fld Reg.FLT_STATUS Fld.FLT_STATUS_SUSPECT = mark then t else t.raise 9
  t.releaseHeld

/-- Mirror the records of held ranks: all of them, or those whose acknowledgement is awaited. A rank that is only packed
beforehand has no record of its own yet. -/
def State.mirrorRanks (s : State) (slot : Nat) (all : Bool) : State :=
  s.heldRanks.foldl (fun t rank =>
    if (all || (s.fleet.mirrorWait.find rank).isSome) && !s.fleet.shadowed.contains rank &&
      ((t.jobs.find slot).bind (·.stream rank)).isSome then t.mirror slot rank
    else t) s

/-- What a member does under a new roster (R330, R335 to R337); `first` for its first one, `taken` where another manager sends
it. A START that waited goes on, unless the job halted meanwhile. -/
def State.underRoster (s : State) (first taken : Bool) (oldBuddy : Nat) : State :=
  let slot := s.fleetSlot
  if s.fltRole = roleFailed then s.fence
  else
    let t := if first && s.fltRole = roleWorker then s.allocRoster slot else s
    let waits : Bool := t.jobState slot = jobReady && ((t.jobs.find slot).map (·.starting)).getD false
    let t := if first && waits then t.startNow slot else t
    let t := (if taken then t.cancelMoves slot else t).dropLost slot
    let t := t.adjustFleet fun f => { f with arriving := none }
    if t.fltRole = roleWorker then
      let t := t.mirrorRanks slot (t.fld Reg.FLT_INDEX Fld.FLT_INDEX_BUDDY ≠ oldBuddy)
      (t.flowJob slot).arriveCheck slot
    else t.flowJob slot

/-- A roster arrives at a member: it is the roster of the manager that sends it (R335). An empty body refuses the
JOIN (R328, log entry 41). -/
def State.rosterArrived (s : State) (source : Nat) (m : FleetMsg) : State :=
  if s.fltRole = roleManager && s.fltState ≠ fltJoining then s
  else if m.body.isEmpty then
    if s.fltState = fltJoining then
      ((s.adjustFleet fun f => { f with refused := true }).setFltState fltIdle).setFltCode ST_FLT_SETUP
    else s
  else if !rosterFormatOk m.body then s
  else
    let r := rosterOf m.body
    if (r.entries.find? fun e => e.role = roleManager).map (·.node) ≠ some source || s.fleet.refused then s
    else
      let first := s.fleet.roster.isNone
      let taken := s.fleet.roster.any fun x => x.manager != r.manager
      let buddy := s.fld Reg.FLT_INDEX Fld.FLT_INDEX_BUDDY
      let t := (s.adoptRoster r).setBit Reg.FLT_STATUS Fld.FLT_STATUS_CHANGED true
      let t := if t.fltState = fltJoining then (t.setFltState fltActive).setFltCode ST_OK else t
      t.underRoster first taken buddy

/-- ROSTER (R335). -/
def execRoster (source : Nat) (msg : Bytes) (s : State) : Host.Outcome State Fault Refusal :=
  fleetTake kindRoster msg (fun m s => s.rosterArrived source m) s

/-! ### Forming a fleet (R328, R330) -/

/-- The setup digest of JOIN (R328). -/
def State.joinDigest (s : State) (j : Job) : Bytes := sha256 (s.setupInput j ++ j.layout)

/-- Nodes that every new roster goes to (R335): the members and the destinations of the delivery map. -/
def State.rosterNodes (s : State) (r : Roster) : List Nat :=
  let dests := ((s.jobs.find s.fleetSlot).map fun j => j.map.dests.map (·.node)).getD []
  ((r.entries.map (·.node)) ++ dests).eraseDups.filter fun n => n ≠ s.sourceId

/-- Send the roster in force to every member and every destination. -/
def State.sendRoster (s : State) : State :=
  match s.fleet.roster with
  | some r => (s.rosterNodes r).foldl (fun t n => t.fleetSend n kindRoster 0 (rosterBytes r)) s
  | none => s

/-- The member leaves the fleet that it was in. -/
def State.leaveFleet (s : State) : State :=
  let t := (({ s with fleet := Fleet.idle }.setFltState fltIdle).clearReg Reg.FLT_INDEX).clearReg Reg.FLT_ROLE_EPOCH
  let t := (t.clearReg Reg.FLT_ROSTER_EPOCH).clearReg Reg.FLT_RANKS
  let t := (t.clearReg Reg.FLT_BARRIER).clearReg Reg.FLT_ARRIVED
  let t := (t.clearReg Reg.FLT_MGR_LIVE).clearReg Reg.FLT_MGR_SUSPECTS
  let t := t.setFld Reg.FLT_STATUS Fld.FLT_STATUS_ROLE roleSpare
  t.setFld Reg.FLT_STATUS Fld.FLT_STATUS_SUSPECT 0

/-- A member asks the manager to join. -/
def State.sendJoin (s : State) (j : Job) : State :=
  (s.setFltState fltJoining).fleetSend (s.fld Reg.FLT_MANAGER Fld.FLT_MANAGER_NODE) kindJoin 0 (s.joinDigest j)

/-- The manager forms a fleet from the roster in host memory. -/
def State.formFleet (s : State) (j : Job) : State :=
  let b := s.readMem .host (s.reg Reg.FLT_ROSTER_ADDR).toNat (s.fld Reg.FLT_ROSTER_LEN Fld.FLT_ROSTER_LEN_BYTES)
  let r := rosterOf b
  if rosterFormatOk b && rosterOk r s.sourceId j.ranks j.map.jobEpoch then ((s.adoptRoster r).setFltState fltActive).sendRoster
  else (s.setBit Reg.FLT_CTRL Fld.FLT_CTRL_ENABLE false).setFltCode ST_FLT_ROSTER

/-- Does an active job hold the fleet's registers (R328)? -/
def State.fleetLocked (s : State) : Bool := s.fleetOn && s.jobActive s.fleetSlot

/-- A write of FLT_CTRL (R328, R330). An ENABLE that fails leaves ENABLE at 0 (log entry 41). -/
def State.fleetControl (s : State) (v : Word64) : State :=
  if s.fleetLocked then s
  else
    let t := s.leaveFleet
    let t := t.setFld Reg.FLT_CTRL Fld.FLT_CTRL_ROLE (getFld Fld.FLT_CTRL_ROLE v)
    let t := t.setFld Reg.FLT_CTRL Fld.FLT_CTRL_JOB (getFld Fld.FLT_CTRL_JOB v)
    let t := t.setBit Reg.FLT_CTRL Fld.FLT_CTRL_ENABLE (getFld Fld.FLT_CTRL_ENABLE v = 1)
    if !t.fleetOn then t
    else match t.jobs.find t.fleetSlot with
      | some j =>
        let role := t.fld Reg.FLT_CTRL Fld.FLT_CTRL_ROLE
        if !j.map.fleet then (t.setBit Reg.FLT_CTRL Fld.FLT_CTRL_ENABLE false).setFltCode ST_FLT_SETUP
        else
          let t := (t.setFltCode ST_OK).setFld Reg.FLT_STATUS Fld.FLT_STATUS_ROLE role
          if role = roleManager then t.formFleet j else t.sendJoin j
      | none => (t.setBit Reg.FLT_CTRL Fld.FLT_CTRL_ENABLE false).setFltCode ST_FLT_SETUP

/-- FLEET_ENABLE (R328): FLT_CTRL is written with ENABLE = 1. -/
def execFleetEnable (value : Word64) (s : State) : Host.Outcome State Fault Refusal :=
  hostAct Reg.FLT_CTRL (fun s => (s.fleetControl (putFld Fld.FLT_CTRL_ENABLE value 1)).heelSettle) s

/-- A write of FLT_CTRL, FLT_CONTEXT or FLT_MANAGER (R328). -/
def State.fleetConfig (s : State) (reg : FleetReg) (v : Word64) : State :=
  match reg with
  | .ctrl => s.fleetControl v
  | .context => if s.fleetLocked then s else s.setFld Reg.FLT_CONTEXT Fld.FLT_CONTEXT_CONTEXT (getFld Fld.FLT_CONTEXT_CONTEXT v)
  | .manager => if s.fleetLocked then s else s.setFld Reg.FLT_MANAGER Fld.FLT_MANAGER_NODE (getFld Fld.FLT_MANAGER_NODE v)

/-- FLT_CONFIG_WRITE (R328). -/
def execFltConfigWrite (reg : FleetReg) (value : Word64) (s : State) : Host.Outcome State Fault Refusal :=
  hostAct Reg.FLT_CTRL (fun s => (s.fleetConfig reg value).heelSettle) s

/-! ### A worker's messages -/

/-- An acknowledged arrival is durable: FLT_ARRIVED, ranks that moved on are dropped, and the lead rule allows more
(R331, R339). -/
def State.arrivalDurable (s : State) (j : Nat) : State :=
  let slot := s.fleetSlot
  if s.fltRole ≠ roleWorker || s.fleet.arriving ≠ some j then s
  else
    let t := (s.setFld Reg.FLT_ARRIVED Fld.FLT_ARRIVED_BARRIER j).adjustFleet fun f => { f with arriving := none }
    ((t.dropMoved slot).flowJob slot).arriveCheck slot

/-- Who acknowledges arrivals: the standby, or the manager where the roster has no standby (R331). -/
def State.logAcks (s : State) (i : Nat) : Bool :=
  match s.fleet.indexOfRole roleStandby with
  | some k => i = k
  | none => s.roleOf i = roleManager

/-- ARRIVE_ACK (R331). -/
def execArriveAck (source : Nat) (msg : Bytes) (s : State) : Host.Outcome State Fault Refusal :=
  fleetFrom kindArriveAck source msg (fun i m s => if s.logAcks i then s.arrivalDurable m.barrier else s) s

/-- A committed barrier at a member (R331, R346): how often a worker was the last arriver of the last 64 barriers is
not told by the message, so its count is a free value up to 64. -/
def State.committed (s : State) (j : Nat) : State :=
  let t := s.setFld Reg.FLT_BARRIER Fld.FLT_BARRIER_BARRIER j
  if s.fltRole = roleWorker then (t.setFld Reg.FLT_LAST_ARRIVALS Fld.FLT_LAST_ARRIVALS_COUNT (s.freeValue % 65)).drew
  else t.adjustFleet fun f =>
    let at_ := f.order.filter fun e => e.1 = j
    { f with lasts := ((at_.getLast?.map (·.2)).toList ++ f.lasts).take 64, order := f.order.filter fun e => j < e.1 }

/-- COMMIT (R331). -/
def execCommit (source : Nat) (msg : Bytes) (s : State) : Host.Outcome State Fault Refusal :=
  fleetFrom kindCommit source msg (fun i m s =>
    if s.roleOf i = roleManager && (s.fltRole = roleWorker || s.fltRole = roleStandby) then s.committed m.barrier else s) s

/-- A buddy keeps the record of a rank of a worker and acknowledges it with RANK and ORDINAL (R337). -/
def State.keepMirror (s : State) (source i : Nat) (record : Bytes) : State :=
  let r := resumeOf record
  let t := s.adjustFleet fun f =>
    { f with mirrors := (f.mirrors.filter fun (e : Nat × Nat × Bytes) => !(e.1 = i && e.2.1 = r.rank)) ++ [(i, r.rank, record)] }
  t.fleetSend source kindMirrorAck 0 (leBytes 2 r.rank ++ leBytes 8 r.ordinal)

/-- MIRROR (R337). -/
def execMirror (source : Nat) (msg : Bytes) (s : State) : Host.Outcome State Fault Refusal :=
  fleetFrom kindMirror source msg (fun i m s => if m.body.length = 48 then s.keepMirror source i m.body else s) s

/-- The buddy holds a record: the next WRITE_IMM of the rank may be sent (R337). -/
def State.mirrored (s : State) (rank ordinal : Nat) : State :=
  if s.fleet.mirrorWait.find rank = some ordinal then
    (s.adjustFleet fun f => { f with mirrorWait := f.mirrorWait.erase rank }).flowRank s.fleetSlot rank
  else s

/-- MIRROR_ACK (R337). -/
def execMirrorAck (source : Nat) (msg : Bytes) (s : State) : Host.Outcome State Fault Refusal :=
  fleetFrom kindMirrorAck source msg (fun i m s =>
    if i = s.fld Reg.FLT_INDEX Fld.FLT_INDEX_BUDDY then s.mirrored (fieldAt m.body 0 2) (fieldAt m.body 2 8) else s) s

/-- MOVE (R339): the old holder notes where it drops the rank, the new holder takes it up. -/
def State.moved (s : State) (rank first : Nat) (record : Bytes) : State :=
  let slot := s.fleetSlot
  let old := s.fleet.ownerOf rank
  let mine : Bool := old = s.ownIndex
  if mine && (resumeOf record).ordinal < first && (((s.jobs.find slot).bind (·.stream rank)).map (·.base)).isSome then
    let t := s.adjustFleet fun f => { f with moves := (f.moves.filter fun m => m.rank ≠ rank) ++ [⟨rank, old, noOwner, first, record, false⟩] }
    t.dropMoved slot
  else
    let t := if mine then s
      else s.adjustFleet fun f => { f with moves := (f.moves.filter fun m => m.rank ≠ rank) ++ [⟨rank, old, s.ownIndex, first, record, false⟩] }
    ((t.takeRank slot rank first record).flowRank slot rank).arriveCheck slot

/-- MOVE (R339). -/
def execMove (source : Nat) (msg : Bytes) (s : State) : Host.Outcome State Fault Refusal :=
  fleetFrom kindMove source msg (fun i m s =>
    if s.roleOf i = roleManager && m.body.length = 58 then s.moved (fieldAt m.body 0 2) (fieldAt m.body 2 8) (m.body.drop 10)
    else s) s

/-- FETCH (R338): the buddy returns what it mirrored of a failed worker. -/
def State.fetched (s : State) (source i : Nat) : State :=
  s.fleetSend source kindRecords 0 ((s.fleet.mirrors.filter fun e => e.1 = i).flatMap (·.2.2))

/-- FETCH (R338). -/
def execFetch (source : Nat) (msg : Bytes) (s : State) : Host.Outcome State Fault Refusal :=
  fleetFrom kindFetch source msg (fun i m s => if s.roleOf i = roleManager then s.fetched source (fieldAt m.body 0 2) else s) s

/-- An acknowledgement of a heartbeat (R334): under another role epoch the worker is fenced; an isolated worker is
active again. -/
def State.heartbeatAcked (s : State) (peerEpoch : Nat) : State :=
  if s.fltRole ≠ roleWorker then s
  else if peerEpoch ≠ s.ownRoleEpoch then s.fence
  else if s.fltState = fltIsolated then ((s.setFltState fltActive).flowJob s.fleetSlot).arriveCheck s.fleetSlot
  else s

/-- HB_ACK (R334). -/
def execHbAck (source peerEpoch : Nat) (msg : Bytes) (s : State) : Host.Outcome State Fault Refusal :=
  fleetFrom kindHbAck source msg (fun _ _ s => s.heartbeatAcked peerEpoch) s

/-- TAKEOVER (R341): a worker accepts a manager role epoch above the one it holds, and the same one again, and from
then on refuses the old manager. -/
def State.takeoverAsked (s : State) (source epoch : Nat) : State :=
  match s.fleet.indexOfRole roleManager with
  | none => s
  | some k =>
    let held := ((s.fleet.entry k).map (·.roleEpoch)).getD 0
    if s.fltRole = roleWorker && (held < epoch || s.fleet.takeover = some epoch) then
      let t := s.adjustFleet fun f => { f with
        takeover := some epoch
        roster := f.roster.map fun r => { r with entries := r.entries.zipIdx.map fun e =>
          if e.2 = k then { e.1 with roleEpoch := epoch } else e.1 } }
      t.fleetSend source kindTakeoverAck 0 []
    else s

/-- TAKEOVER (R341). -/
def execTakeover (source : Nat) (msg : Bytes) (s : State) : Host.Outcome State Fault Refusal :=
  fleetFrom kindTakeover source msg (fun i m s => if s.roleOf i = roleStandby then s.takeoverAsked source (fieldAt m.body 0 4) else s) s

/-- WORKER_ISOLATION (R334). -/
def execWorkerIsolation (s : State) : Host.Outcome State Fault Refusal :=
  act (fun s => if s.fleetOn && s.fltRole = roleWorker && s.fltState = fltActive then s.setFltState fltIsolated else s) s

/-- Body of a heartbeat (R333): job state, NOT_FULL, EPOCHS_DONE and PACKED, the batches packed into the held queues. -/
def State.heartbeatBody (s : State) : Bytes :=
  let slot := s.fleetSlot
  let queues := s.queues.entries.filter fun e => e.2.job = slot
  let notFull : Bool := queues.any fun e => !s.queueFull e.1
  let done : Bool := ((s.jobs.find slot).map (·.exhausted)).getD false
  let packed := (queues.map fun e => s.fld (Reg.PBQ_PACKED e.1) Fld.PBQ_PACKED_COUNT).sum
  leBytes 1 (s.jobState slot) ++ leBytes 1 notFull.toNat ++ leBytes 1 done.toNat ++ leBytes 5 0 ++ leBytes 8 packed

/-- HEARTBEAT_TIMER (R333, R341): a worker that was admitted sends to the manager and the standby, the manager to the
standby. -/
def State.sendHeartbeat (s : State) : State :=
  if !s.fleetOn || s.fleet.roster.isNone || s.fltState = fltFenced then s
  else if s.fltRole = roleWorker then
    (s.fleetSendRole roleManager kindHeartbeat 0 s.heartbeatBody).fleetSendRole roleStandby kindHeartbeat 0 s.heartbeatBody
  else if s.fltRole = roleManager then s.fleetSendRole roleStandby kindHeartbeat 0 s.heartbeatBody
  else s

/-- HEARTBEAT_TIMER (R333). -/
def execHeartbeatTimer (s : State) : Host.Outcome State Fault Refusal := act (fun s => s.sendHeartbeat) s

end Sys2Proof.Machine
end

