-- ==== Sys2Proof/Machine/FleetManager.lean ====
section
/-! DEFINITION. The fleet's manager and standby: admission, heartbeats and leases, barriers, replacement, moves,
suspects and takeover (R327, R328, R331, R333, R335, R336, R338 to R342). -/

namespace Sys2Proof.Machine

/-! ### Changing the roster -/

/-- Is this the manager, free to assign (R342)? -/
def State.manages (s : State) : Bool := s.fleetOn && s.fltRole = roleManager && s.fltState = fltActive

/-- Change one entry. -/
def Roster.adjust (r : Roster) (i : Nat) (f : RosterEntry → RosterEntry) : Roster :=
  { r with entries := r.entries.zipIdx.map fun e => if e.2 = i then f e.1 else e.1 }

/-- Change the ROLE of a member: its role epoch goes up by 1 (R335). -/
def Roster.setRole (r : Roster) (i role : Nat) : Roster :=
  r.adjust i fun e => { e with role := role, roleEpoch := (e.roleEpoch + 1) % 2 ^ 32, flags := if role = roleWorker then e.flags else 0 }

/-- Give a rank an owner. -/
def Roster.setOwner (r : Roster) (rank owner : Nat) : Roster :=
  { r with owners := r.owners.zipIdx.map fun e => if e.2 = rank then owner else e.1 }

/-- The first entry with a role. -/
def Roster.firstOf (r : Roster) (role : Nat) : Option Nat := r.entries.findIdx? fun e => e.role = role

/-- HELD of every entry by the owner values. -/
def Roster.counted (r : Roster) : Roster :=
  { r with entries := r.entries.zipIdx.map fun e => { e.1 with held := (ranksOf r e.2).length } }

/-- BUDDY of every worker: the next worker in roster order, wrapping round; a single worker has none (R327). -/
def Roster.buddies (r : Roster) : Roster :=
  let ws := withRole r roleWorker
  { r with entries := r.entries.zipIdx.map fun e =>
      if e.1.role ≠ roleWorker || ws.length < 2 then { e.1 with buddy := noOwner }
      else { e.1 with buddy := ((ws.find? fun w => e.2 < w).or ws.head?).getD noOwner } }

/-- The manager puts a changed roster into force and sends it (R335). -/
def State.changeRoster (s : State) (f : Roster → Roster) : State :=
  let r := (f s.roster).counted
  (s.adoptRoster { r with rosterEpoch := (r.rosterEpoch + 1) % 2 ^ 32 }).sendRoster

/-! ### New holders (R338) -/

/-- Ranks that a worker holds or is to hold. -/
def Fleet.load (f : Fleet) (i : Nat) : Nat :=
  (f.roster.map fun r => (ranksOf r i).length).getD 0 + (f.moves.filter fun m => m.to_ = i).length

/-- The least of a list by a value, the first of equals. -/
def leastBy (f : Nat → Nat) : List Nat → Option Nat
  | [] => none
  | x :: xs => some (xs.foldl (fun best y => if f y < f best then y else best) x)

/-- The worker with the fewest ranks below 256. -/
def Fleet.lightest (f : Fleet) : Option Nat :=
  let ws := ((f.roster.map fun r => withRole r roleWorker).getD []).filter fun i => f.load i < 256
  leastBy f.load ws

/-- The spare that takes over for a worker: one that shadows it, else the first in roster order. -/
def Fleet.spareFor (f : Fleet) (i : Nat) : Option Nat :=
  ((f.shadows.find? fun e => e.1 = i).map (·.2)).or
    ((f.roster.getD ⟨0, 0, 0, [], []⟩).entries.findIdx? fun e => e.role = roleSpare || e.role = roleWarm)

/-- The record of a rank by the log: that of a worker's last arrival, else the latest of any, else the job's start. -/
def State.logRecord (s : State) (i rank : Nat) : Bytes :=
  let own := ((s.fleet.arrivals.find i).map fun a => recordsIn a.2).getD []
  match own.lookup rank with
  | some b => b
  | none =>
    let all := (s.fleet.arrivals.vals.flatMap fun (a : Nat × Bytes) => recordsIn a.2).filter fun e => e.1 = rank
    let later := fun (best b : Bytes) => if fieldAt best 0x10 8 < fieldAt b 0x10 8 then b else best
    match all.map (·.2) with
    | [] => (s.resumeStart s.fleetSlot rank).bytes
    | b :: bs => bs.foldl later b

/-- Tell a new holder a record to start from (R338): H is its ordinal. -/
def State.sendRestart (s : State) (holder rank : Nat) (record : Bytes) : State :=
  if holder = noOwner then s.adjustFleet fun f => { f with unheld := (f.unheld.filter fun e => e.1 ≠ rank) ++ [(rank, record)] }
  else s.fleetSendTo holder kindMove 0 (leBytes 2 rank ++ leBytes 8 (resumeOf record).ordinal ++ record)

/-- Ranks without a holder get one: the first spare becomes a worker, else the worker with the fewest ranks. -/
def State.assignUnheld (s : State) : State :=
  s.fleet.unheld.foldl (fun t e =>
    let holder := (t.roster.firstOf roleSpare).or t.fleet.lightest
    match holder with
    | none => t
    | some h =>
      let t := t.adjustFleet fun f => { f with unheld := f.unheld.filter fun x => x.1 ≠ e.1 }
      let t := t.changeRoster fun r =>
        let r := if (r.entries[h]?).map (·.role) = some roleSpare then (r.setRole h roleWorker).buddies else r
        r.setOwner e.1 h
      t.sendRestart h e.1 e.2) s

/-- The manager waits no longer for a buddy that is failed: the ranks start from the log (R338). -/
def State.buddyLost (s : State) (buddy : Nat) : State :=
  let ours := s.fleet.fetching.filter fun e => e.2.2.2 = buddy
  let t := s.adjustFleet fun f => { f with fetching := f.fetching.filter fun e => e.2.2.2 ≠ buddy }
  ours.foldl (fun t e => t.sendRestart e.2.2.1 e.2.1 (s.logRecord e.1 e.2.1)) t

/-- New holders of the ranks of a failed worker: one spare for all of them, else worker by worker. -/
def State.chooseHolders (s : State) (i : Nat) (ranks : List Nat) : State × List (Nat × Nat) :=
  match s.fleet.spareFor i with
  | some h =>
    let t := s.adjustFleet fun f => { f with shadows := f.shadows.filter fun e => e.2 ≠ h }
    (t.changeRoster fun r => (ranks.foldl (fun r rank => r.setOwner rank h) (r.setRole h roleWorker)).buddies, ranks.map fun r => (r, h))
  | none =>
    let (f, out) := ranks.foldl (fun (acc : Fleet × List (Nat × Nat)) rank =>
      let h := acc.1.lightest.getD noOwner
      ({ acc.1 with roster := acc.1.roster.map fun r => r.setOwner rank h }, acc.2 ++ [(rank, h)])) (s.fleet, [])
    (s.changeRoster fun r => { r with owners := (f.roster.map (·.owners)).getD r.owners }, out)

/-- The moves of a failed worker (R339): those from it end, and its ranks pass under R338; those to it get another
holder with the same H, where there is one. -/
def State.failMoves (s : State) (i : Nat) : State :=
  let t := s.adjustFleet fun f => { f with moves := f.moves.filter fun m => m.from_ ≠ i }
  (t.fleet.moves.filter fun m => m.to_ = i).foldl (fun t m =>
    let h := (t.fleet.lightest).getD noOwner
    let t := t.adjustFleet fun f => { f with moves := f.moves.map fun x => if x.rank = m.rank then { x with to_ := h } else x }
    t.fleetSendTo h kindMove 0 (leBytes 2 m.rank ++ leBytes 8 m.ordinal ++ m.record)) t

/-- The manager fails a member (R333, R335, R338). -/
def State.failMember (s : State) (i : Nat) : State :=
  let role := s.roleOf i
  if !s.manages || role = roleFailed || role = roleManager then s
  else if role ≠ roleWorker then s.changeRoster fun r => r.setRole i roleFailed
  else
    let ranks := ranksOf s.roster i
    let buddy := ((s.fleet.entry i).map (·.buddy)).getD noOwner
    let waiting := s.fleet.fetching.filter fun e => e.2.2.1 = i
    let t := s.adjustFleet fun f => { f with roster := f.roster.map fun r => (r.setRole i roleFailed).buddies }
    let warm := (t.fleet.shadows.find? fun e => e.1 = i).map (·.2)
    let t := (t.failMoves i)
    let (t, holders) := t.chooseHolders i ranks
    let t := t.adjustFleet fun f => { f with
      shadows := f.shadows.filter fun e => e.1 ≠ i && some e.2 ≠ warm
      order := f.order.filter fun e => e.2 ≠ i
      fetching := f.fetching.map fun e => if e.2.2.1 = i then (e.1, e.2.1, ((holders.lookup e.2.1).getD noOwner), e.2.2.2) else e }
    let fresh := holders.filter fun e => !(waiting.any fun w => w.2.1 = e.1)
    let t :=
      if t.roleOf buddy = roleWorker && buddy ≠ i then
        (t.adjustFleet fun f => { f with fetching := f.fetching ++ fresh.map fun e => (i, e.1, e.2, buddy) }).fleetSendTo
          buddy kindFetch 0 (leBytes 2 i)
      else fresh.foldl (fun t e => t.sendRestart e.2 e.1 (t.logRecord i e.1)) t
    t.buddyLost i

/-- RECORDS (R338): the new holders of the failed worker that was asked for first start from them; a rank without a
mirrored record starts from the log. -/
def State.recordsArrived (s : State) (buddy : Nat) (body : Bytes) : State :=
  match s.fleet.fetching.find? fun e => e.2.2.2 = buddy with
  | none => s
  | some (w, _, _, _) =>
    let mine : Nat × Nat × Nat × Nat → Bool := fun e => e.1 = w && e.2.2.2 = buddy
    let t := s.adjustFleet fun f => { f with fetching := f.fetching.filter fun e => !mine e }
    (s.fleet.fetching.filter mine).foldl (fun t e =>
      t.sendRestart e.2.2.1 e.2.1 (((recordsIn body).lookup e.2.1).getD (s.logRecord w e.2.1))) t

/-- RECORDS (R338). -/
def execRecords (source : Nat) (msg : Bytes) (s : State) : Host.Outcome State Fault Refusal :=
  fleetFrom kindRecords source msg (fun i m s => if s.manages then s.recordsArrived i m.body else s) s

/-! ### Barriers, moves and suspects (R331, R339, R340) -/

/-- Workers that hold ranks. -/
def State.holders (s : State) : List Nat := (withRole s.roster roleWorker).filter fun i => !(ranksOf s.roster i).isEmpty

/-- Has a worker arrived at a barrier, by the log? -/
def State.hasArrived (s : State) (i j : Nat) : Bool := ((s.fleet.arrivals.find i).map fun a => decide (j ≤ a.1)).getD false

/-- How often a worker was the last arriver of the last 64 barriers. -/
def Fleet.lastCount (f : Fleet) (i : Nat) : Nat := (f.lasts.filter (· = i)).length

/-- A moved rank changes hands once the old holder's arrival at the barrier before H is durable (R331, R339): the manager's
own acknowledgement makes it so where the roster has no standby; else the old holder shows by its next ARRIVE that it dropped
the rank. -/
def State.settleMoves (s : State) : State :=
  let alone := (s.fleet.indexOfRole roleStandby).isNone
  let done := s.fleet.moves.filter fun m => m.dropped || (alone && s.hasArrived m.from_ (m.ordinal / 64 - 1))
  if done.isEmpty then s
  else
    let t := s.adjustFleet fun f => { f with moves := f.moves.filter fun m => !done.contains m }
    let t := t.changeRoster fun r => done.foldl (fun r m => r.setOwner m.rank m.to_) r
    done.foldl (fun t m => if m.to_ = noOwner then t.sendRestart noOwner m.rank m.record else t) t

/-- The manager moves a suspect's ranks: its ceil(n / 4) highest-numbered ones, each to the unmarked worker with the
fewest last arrivals among those with fewer than 256 ranks (R340). -/
def State.moveOff (s : State) (i : Nat) : State :=
  let ranks := ranksOf s.roster i
  let chosen := (ranks.reverse.take (ceilDiv ranks.length 4)).filter fun r => !(s.fleet.moves.any fun m => m.rank = r)
  match s.fleet.arrivals.find i with
  | none => s
  | some (j, body) => chosen.foldl (fun t rank =>
    let open_ := (withRole t.roster roleWorker).filter fun k => k ≠ i && ((t.fleet.entry k).map (·.flags)) = some 0 && t.fleet.load k < 256
    match leastBy t.fleet.lastCount open_, (recordsIn body).lookup rank with
    | some k, some record =>
      let h := 64 * (j + 2)
      let t := t.adjustFleet fun f => { f with moves := f.moves ++ [⟨rank, i, k, h, record, false⟩] }
      let msg := leBytes 2 rank ++ leBytes 8 h ++ record
      (t.fleetSendTo i kindMove 0 msg).fleetSendTo k kindMove 0 msg
    | _, _ => t) s

/-- The SUSPECT mark of a worker after a commit of barrier `j` (R340): set at 20 last arrivals or more, with a WARM
spare and ranks moved off; cleared at 9 or fewer, the spare returning. -/
def State.judgeSuspect (s : State) (j i : Nat) : State :=
  let n := s.fleet.lastCount i
  let marked : Bool := ((s.fleet.entry i).map (·.flags)).getD 0 % 2 = 1
  if !marked && 20 ≤ n then
    let spare := s.roster.firstOf roleSpare
    let t := s.changeRoster fun r =>
      let r := r.adjust i fun e => { e with flags := 1 }
      match spare with
      | some k => r.setRole k roleWarm
      | none => r
    let t := match spare with
      | some k => t.adjustFleet fun f => { f with shadows := f.shadows ++ [(i, k)] }
      | none => t
    t.moveOff i
  else if marked && n ≤ 9 then
    let spares := (s.fleet.shadows.filter fun e => e.1 = i).map (·.2)
    let t := s.changeRoster fun r => spares.foldl (fun r k => r.setRole k roleSpare) (r.adjust i fun e => { e with flags := 0 })
    t.adjustFleet fun f => { f with shadows := f.shadows.filter fun e => e.1 ≠ i }
  else if marked && (j + 1) % 64 = 0 then s.moveOff i
  else s

/-- The manager commits a barrier: the last arriver is noted, and COMMIT goes to the standby and the workers. -/
def State.commitBarrier (s : State) (j : Nat) : State :=
  let last := ((s.fleet.order.filter fun e => e.1 = j && s.holders.contains e.2).getLast?).map (·.2)
  let t := s.adjustFleet fun f => { f with lasts := (last.toList ++ f.lasts).take 64, order := f.order.filter fun e => j < e.1 }
  let t := t.setFld Reg.FLT_BARRIER Fld.FLT_BARRIER_BARRIER j
  let t := (t.fleetSendRole roleStandby kindCommit j [])
  let ws := withRole t.roster roleWorker
  let t := ws.foldl (fun t i => t.fleetSendTo i kindCommit j []) t
  ws.foldl (fun t i => t.judgeSuspect j i) t

/-- Commit every barrier that all workers holding ranks have arrived at; `n` bounds the barriers. -/
def State.commitLoop : (n : Nat) → State → State
  | 0, s => s
  | n + 1, s =>
    let b := s.fld Reg.FLT_BARRIER Fld.FLT_BARRIER_BARRIER
    let j := if b = noBarrier then 0 else b + 1
    let ws := s.holders
    if s.manages && !ws.isEmpty && ws.all fun i => s.hasArrived i j then State.commitLoop n (s.commitBarrier j) else s

/-- Barriers by which the log of the laggard leads the last commit, and one more. -/
def State.commitBound (s : State) : Nat :=
  let b := s.fld Reg.FLT_BARRIER Fld.FLT_BARRIER_BARRIER
  let top := (s.fleet.arrivals.vals.map (·.1)).foldl max 0
  top + 2 - (if b = noBarrier then 0 else b)

/-- What follows a change of the log or of the workers: moves change hands, and barriers commit. -/
def State.settleLog (s : State) : State :=
  if !s.manages then s
  else
    let t := s.settleMoves
    State.commitLoop t.commitBound t

/-- An arrival with what is logged of its worker: a later one replaces it; one of the same barrier adds its records; an
earlier one adds nothing. -/
def mergeArrival (old : Option (Nat × Bytes)) (j : Nat) (body : Bytes) : Nat × Bytes :=
  match old with
  | none => (j, body)
  | some (k, b) =>
    if k < j then (j, body)
    else if j < k then (k, b)
    else (j, body ++ ((recordsIn b).filter fun e => ((recordsIn body).lookup e.1).isNone).flatMap (·.2))

/-- A log holder records an arrival (R331). An ARRIVE at the barrier before H, or a later one, without the rank of a move shows
that its worker dropped the rank (R339, log entry 41). -/
def State.logArrival (s : State) (i j : Nat) (body : Bytes) : State :=
  s.adjustFleet fun f =>
    { f with
      arrivals := f.arrivals.insert i (mergeArrival (f.arrivals.find i) j body)
      moves := f.moves.map fun m =>
        if m.from_ = i && m.ordinal / 64 ≤ j + 1 && ((recordsIn body).lookup m.rank).isNone then { m with dropped := true } else m
      order := if f.order.contains (j, i) then f.order else f.order ++ [(j, i)] }

/-- ARRIVE at the manager or the standby (R331): it is logged and, by who makes arrivals durable, acknowledged; the
manager shows a suspect's arrivals to its WARM spare. -/
def State.arrivalAtLog (s : State) (source i j : Nat) (body : Bytes) : State :=
  let t := s.logArrival i j body
  let t := if t.logAcks t.ownIndex then t.fleetSend source kindArriveAck j [] else t
  if t.fltRole = roleManager then
    let spares := (t.fleet.shadows.filter fun e => e.1 = i).map (·.2)
    (spares.foldl (fun t k => t.fleetSendTo k kindArrive j body) t).settleLog
  else t

/-- An arrival that the manager shows to a WARM spare: it packs the ranks of the suspect from the records without delivering,
and no longer those that the suspect gave up. -/
def State.shadowArrival (s : State) (body : Bytes) : State :=
  let slot := s.fleetSlot
  let gone := s.fleet.shadowed.filter fun r => ((recordsIn body).lookup r).isNone
  let t := gone.foldl (fun t r => t.dropRank slot r) s
  (recordsIn body).foldl (fun t e =>
    let t := t.gainRank slot e.1 (resumeOf e.2).ordinal e.2
    (t.adjustFleet fun f => { f with shadowed := f.shadowed ++ [e.1] }).packOn slot e.1) t

/-- ARRIVE (R331, R340). -/
def execArrive (source : Nat) (msg : Bytes) (s : State) : Host.Outcome State Fault Refusal :=
  fleetFrom kindArrive source msg (fun i m s =>
    if (s.fltRole = roleManager || s.fltRole = roleStandby) && s.roleOf i = roleWorker then s.arrivalAtLog source i m.barrier m.body
    else if s.fltRole = roleWarm && s.roleOf i = roleManager then s.shadowArrival m.body
    else s) s

/-! ### Admission, heartbeats and leases (R328, R333, R342) -/

/-- What is known of a worker at its admission. -/
def WorkerView.new : WorkerView := ⟨true, 0, false, jobReady, false, false⟩

/-- JOIN (R328): a member that the roster lists is admitted when its setup digest is the manager's, and gets the
roster; a failed one returns as a spare (R333). Anyone else is refused with an empty ROSTER (log entry 41). -/
def State.joinAsked (s : State) (source : Nat) (digest : Bytes) : State :=
  let own := (s.jobs.find s.fleetSlot).map fun j => s.joinDigest j
  match s.fleet.memberAt source with
  | none => s.fleetSend source kindRoster 0 []
  | some i =>
    if own ≠ some digest then s.fleetSend source kindRoster 0 []
    else
      let t := s.adjustFleet fun f => { f with workers := f.workers.insert i WorkerView.new }
      if t.roleOf i = roleFailed && t.manages then
        ((t.adjustFleet fun f => { f with arrivals := f.arrivals.erase i }).changeRoster fun r => r.setRole i roleSpare).assignUnheld
      else t.fleetSend source kindRoster 0 (rosterBytes t.roster)

/-- JOIN (R328). -/
def execJoin (source : Nat) (msg : Bytes) (s : State) : Host.Outcome State Fault Refusal :=
  fleetTake kindJoin msg (fun m s => if s.fltRole = roleManager then s.joinAsked source m.body else s) s

/-- RESOLVE (R336). -/
def execResolve (source : Nat) (msg : Bytes) (s : State) : Host.Outcome State Fault Refusal :=
  fleetFrom kindResolve source msg (fun _ _ s =>
    if s.fltRole = roleManager then s.fleetSend source kindRoster 0 (rosterBytes s.roster) else s) s

/-- Does a reported job state fail a worker at once (R333)? -/
def stateFails (sawRunning : Bool) (state : Nat) (epochsDone : Bool) : Bool :=
  if state = jobReady then sawRunning
  else if state = jobRunning then false
  else if state = jobDraining || state = jobStopped then !epochsDone
  else true

/-- The manager judges a worker's heartbeat (R333). -/
def State.judgeHeartbeat (s : State) (i : Nat) (body : Bytes) : State :=
  let v := (s.fleet.workers.find i).getD WorkerView.new
  let state := fieldAt body 0 1
  let bad := stateFails v.sawRunning state (fieldAt body 2 1 = 1)
  let packed := fieldAt body 8 8
  let notFull : Bool := fieldAt body 1 1 = 1
  let still : Bool := state = jobRunning && notFull && v.lastState = jobRunning && v.notFull && v.packed = packed
  let v : WorkerView := ⟨true, packed, v.sawRunning || state = jobRunning, state, notFull, still⟩
  let t := s.adjustFleet fun f => { f with workers := f.workers.insert i v }
  if bad then (t.failMember i).settleLog else t

/-- More than half of the unfailed workers. -/
def State.majority (s : State) (n : Nat) : Bool := decide ((withRole s.roster roleWorker).length < 2 * n)

/-- An isolated manager counts the workers that it hears from; with more than half it assigns again (R342). -/
def State.managerHears (s : State) (i : Nat) : State :=
  if s.fltState ≠ fltIsolated then s
  else
    let t := s.adjustFleet fun f => { f with acks := if f.acks.contains i then f.acks else f.acks ++ [i] }
    if (withRole t.roster roleWorker).length ≤ 2 * t.fleet.acks.length then
      ((t.adjustFleet fun f => { f with acks := [] }).setFltState fltActive).settleLog
    else t

/-- HEARTBEAT at the manager or the standby (R333, R334): acknowledged, and judged by the manager. -/
def State.heartbeatArrived (s : State) (source i : Nat) (body : Bytes) : State :=
  if s.fltRole = roleManager && s.roleOf i = roleWorker then
    ((s.fleetSend source kindHbAck 0 []).managerHears i).judgeHeartbeat i body
  else if s.fltRole = roleStandby && (s.roleOf i = roleWorker || s.roleOf i = roleManager) then s.fleetSend source kindHbAck 0 []
  else s

/-- HEARTBEAT (R333). -/
def execHeartbeat (source : Nat) (msg : Bytes) (s : State) : Host.Outcome State Fault Refusal :=
  fleetFrom kindHeartbeat source msg (fun i m s => s.heartbeatArrived source i m.body) s

/-- Was a member admitted? -/
def State.admitted (s : State) (i : Nat) : Bool := ((s.fleet.workers.find i).map (·.joined)).getD false

/-- LIVENESS_LEASE_EXPIRY (R333, R343): nothing came from the worker, or from the standby, for 400 ms. -/
def execLivenessLeaseExpiry (member : Nat) (s : State) : Host.Outcome State Fault Refusal :=
  act (fun s =>
    if s.manages && s.admitted member && (s.roleOf member = roleWorker || s.roleOf member = roleStandby) then
      (s.failMember member).settleLog
    else s) s

/-- May the progress lease of a worker end (R333): its heartbeats report RUNNING and NOT_FULL with PACKED unchanged, or still
READY while another worker reported RUNNING? -/
def State.noProgress (s : State) (i : Nat) : Bool :=
  match s.fleet.workers.find i with
  | none => false
  | some v =>
    v.still ||
      (v.lastState = jobReady && !v.sawRunning && s.fleet.workers.entries.any fun e => e.1 ≠ i && e.2.sawRunning)

/-- PROGRESS_LEASE_EXPIRY (R333): the 2 s are the command's own passage of time. -/
def execProgressLeaseExpiry (member : Nat) (s : State) : Host.Outcome State Fault Refusal :=
  act (fun s => if s.manages && s.roleOf member = roleWorker && s.noProgress member then (s.failMember member).settleLog else s) s

/-- MANAGER_ISOLATION (R342). -/
def execManagerIsolation (s : State) : Host.Outcome State Fault Refusal :=
  act (fun s => if s.manages then (s.setFltState fltIsolated).adjustFleet fun f => { f with acks := [] } else s) s

/-! ### Takeover (R341) -/

/-- STANDBY_TAKEOVER_TIMEOUT (R341): TAKEOVER goes to every worker with the manager's role epoch raised by 1. -/
def State.startTakeover (s : State) : State :=
  match s.fleet.indexOfRole roleManager with
  | none => s
  | some k =>
    if !s.fleetOn || s.fltRole ≠ roleStandby || s.fltState ≠ fltActive then s
    else
      let epoch := (((s.fleet.entry k).map (·.roleEpoch)).getD 0 + 1) % 2 ^ 32
      let t := s.adjustFleet fun f => { f with acks := [], takeover := some epoch }
      (withRole t.roster roleWorker).foldl (fun t i => t.fleetSendTo i kindTakeover 0 (leBytes 4 epoch)) t

/-- STANDBY_TAKEOVER_TIMEOUT (R341). -/
def execStandbyTakeoverTimeout (s : State) : Host.Outcome State Fault Refusal := act (fun s => s.startTakeover) s

/-- The standby becomes MANAGER: the old manager is failed under the raised epoch, the first spare becomes the new
standby, and the roster goes out (R341). Every unfailed member counts as admitted, the new standby and spares that become
workers later among them: its lease runs from now (log entry 41). Suspects and WARM spares are paired in roster order, as the
roster alone tells of them (DESIGN CHOICE, log entry 41). -/
def State.becomeManager (s : State) : State :=
  match s.fleet.indexOfRole roleManager with
  | none => s
  | some k =>
    let t := s.adjustFleet fun f => { f with
      acks := [], takeover := none, arriving := none
      shadows := (s.roster.entries.zipIdx.filter fun e => e.1.role = roleWorker && e.1.flags % 2 = 1).map (·.2) |>.zip
        (withRole s.roster roleWarm)
      workers := (s.roster.entries.zipIdx.filter fun e => e.1.role ≠ roleFailed).foldl
        (fun w e => w.insert e.2 WorkerView.new) f.workers }
    let own := s.ownIndex
    let t := t.changeRoster fun r =>
      let r := (r.setRole k roleFailed).setRole own roleManager
      match r.firstOf roleSpare with
      | some i => r.setRole i roleStandby
      | none => r
    (t.setFltCode ST_OK).settleLog

/-- TAKEOVER_ACK (R341): more than half of the unfailed workers make the standby the manager. -/
def State.takeoverAcked (s : State) (i : Nat) : State :=
  if s.fltRole ≠ roleStandby || s.fleet.takeover.isNone || s.roleOf i ≠ roleWorker then s
  else
    let t := s.adjustFleet fun f => { f with acks := if f.acks.contains i then f.acks else f.acks ++ [i] }
    if t.majority t.fleet.acks.length then t.becomeManager else t

/-- TAKEOVER_ACK (R341). -/
def execTakeoverAck (source : Nat) (msg : Bytes) (s : State) : Host.Outcome State Fault Refusal :=
  fleetFrom kindTakeoverAck source msg (fun i _ s => s.takeoverAcked i) s

/-- TAKEOVER_QUORUM_TIMEOUT (R341): the standby remains STANDBY, with ST_FLT_NO_QUORUM. -/
def execTakeoverQuorumTimeout (s : State) : Host.Outcome State Fault Refusal :=
  act (fun s =>
    if s.fleetOn && s.fltRole = roleStandby && s.fleet.takeover.isSome then
      (s.adjustFleet fun f => { f with takeover := none, acks := [] }).setFltCode ST_FLT_NO_QUORUM
    else s) s

end Sys2Proof.Machine
end

