-- ==== Sys2Proof/Machine/HeelRows.lean ====
section
/-! DEFINITION. The Heel commands: session set-up, peer digests, freezing and the location of the first divergence
(R208 to R215). The contents of locate and report messages are the model's own (log entry 30). -/

namespace Sys2Proof.Machine

/-! ### Session set-up (R208, R209) -/

/-- Are writes of HEEL_CTRL and HEEL_LINKSEL ignored? -/
def State.heelBusy (s : State) (k : Nat) : Bool :=
  s.bit (Reg.HEEL_CTRL k) Fld.HEEL_CTRL_ENABLE && s.jobActive (s.heelJob k)

/-- A write of HEEL_CTRL: ENABLE written from 0 to 1 clears the counters (R217) and begins an unused session; clearing
it leaves the session IDLE. -/
def State.heelCtrlWrite (s : State) (k : Nat) (v : Word64) : State :=
  if s.heelBusy k then s else
  let was := s.bit (Reg.HEEL_CTRL k) Fld.HEEL_CTRL_ENABLE
  let on := getFld Fld.HEEL_CTRL_ENABLE v = 1
  let t := s.setReg (Reg.HEEL_CTRL k) (BitVec.ofNat 64 (v.toNat % 2 ^ 11))
  if on && !was then
    ((((t.clearReg (Reg.HEEL_COMPARED k)).clearReg (Reg.HEEL_BLOCKS k)).clearReg (Reg.HEEL_UNCOMPARED k)).setHeel k
      HeelSession.idle).showPending k |>.setHeelState k heelIdle
  else if !on && was then
    let ctx := s.fld (Reg.HEEL_LINKSEL k) Fld.HEEL_LINKSEL_CONTEXT
    { (t.dropKept k fun _ => true).setHeelState k heelIdle with contexts := t.contexts.keep fun i c => !(i = ctx && c.dramClaim = noDramClaim) }
  else t

/-- HEEL_CTRL_WRITE (R208). -/
def execHeelCtrlWrite (session : Fin 4) (value : Word64) (s : State) : Host.Outcome State Fault Refusal :=
  hostAct (Reg.HEEL_CTRL session) (fun s => s.heelCtrlWrite session value) s

/-- A write of HEEL_LINKSEL. -/
def State.heelLinkselWrite (s : State) (k : Nat) (v : Word64) : State :=
  if s.heelBusy k then s else s.setReg (Reg.HEEL_LINKSEL k) (BitVec.ofNat 64 (v.toNat % 2 ^ 24))

/-- HEEL_LINKSEL_WRITE (R208). -/
def execHeelLinkselWrite (session : Fin 4) (value : Word64) (s : State) : Host.Outcome State Fault Refusal :=
  hostAct (Reg.HEEL_LINKSEL session) (fun s => s.heelLinkselWrite session value) s

/-- A meaning of a message that the link took whole: f acts on its payload. -/
def heelRow (kind : Nat) (frame : HeelFrame) (f : Bytes → State → State) (s : State) : Host.Outcome State Fault Refusal :=
  jobAct (fun s => match s.heelReceive kind frame with
    | (t, some msg) => f msg t
    | (t, none) => t) s

/-- Does a session's job wait in START for the peer's setup record? -/
def State.heelStarting (s : State) (k : Nat) : Bool :=
  s.heelState k = heelWaitPeer && s.jobState (s.heelJob k) = jobReady && (((s.jobs.find (s.heelJob k)).map (·.starting)).getD false)

/-- The peer's setup record: kept until START of the own job, or compared at once. -/
def State.heelSetupGot (s : State) (k : Nat) (record : Bytes) : State :=
  if s.heelState k = heelPaired then s
  else
    let t := s.setHeel k { s.heelSession k with setupGot := some record }
    if s.heelStarting k then t.setupBoth k (s.heelJob k) else t

/-- HEEL_SETUP (R209). -/
def execHeelSetup (frame : HeelFrame) (s : State) : Host.Outcome State Fault Refusal :=
  heelRow heelSetup frame (fun msg s => s.heelSetupGot frame.session msg) s

/-- HEEL_SETUP_TIMEOUT (R209). -/
def execHeelSetupTimeout (session : Fin 4) (s : State) : Host.Outcome State Fault Refusal :=
  jobAct (fun s => if s.heelStarting session then s.setupFailed session (s.heelJob session) ST_HEEL_TIMEOUT else s) s

/-! ### Peer digests and freezing (R210 to R214) -/

/-- Does a session take the peer's digests: from START until the leader locates (R209, R215)? -/
def State.heelTakesDigests (s : State) (k : Nat) : Bool :=
  s.heelState k = heelWaitPeer || s.heelState k = heelPaired ||
    (s.heelState k = heelIsFrozen && (s.heelSession k).locate.isNone)

/-- HEEL_BATCH_DIGEST (R210). -/
def execHeelBatchDigest (frame : HeelFrame) (s : State) : Host.Outcome State Fault Refusal :=
  heelRow heelBatch frame (fun msg s =>
    if s.heelTakesDigests frame.session then
      s.heelPeerBatch frame.session ⟨frame.keyA, frame.epoch, frame.keyB, msg.take 32,
        if msg.length ≤ 32 then none else some (beFieldAt msg 32 8)⟩
    else s) s

/-- HEEL_STAGE_DIGEST (R211). -/
def execHeelStageDigest (frame : HeelFrame) (s : State) : Host.Outcome State Fault Refusal :=
  heelRow heelStage frame (fun msg s =>
    if s.heelTakesDigests frame.session then
      s.heelPeerStage frame.session ⟨frame.keyA, frame.epoch, frame.keyB, msg.take 32, none⟩
    else s) s

/-- HEEL_DIGEST_TIMEOUT (R212): while a digest waits for the peer's. -/
def execHeelDigestTimeout (session : Fin 4) (s : State) : Host.Outcome State Fault Refusal :=
  jobAct (fun s =>
    let x := s.heelSession session
    if x.ownBatch.isEmpty && x.ownStage.isEmpty then s else s.freezeSession session ST_HEEL_TIMEOUT) s

/-- HEEL_FREEZE (R214). -/
def execHeelFreeze (frame : HeelFrame) (s : State) : Host.Outcome State Fault Refusal :=
  heelRow heelFreeze frame (fun _ s => s.freezeSession frame.session ST_HEEL_PEER_HALTED) s

/-! ### What the devices exchange (R215) -/

/-- What a locate request asks for. -/
def askSamples : Nat := 1
def askChunks : Nat := 2
def askBytes : Nat := 3
def askItems : Nat := 4
def askEntries : Nat := 5
def askBodyChunks : Nat := 6
def askBodyBytes : Nat := 7

/-- The batch of a key that a device still holds. -/
def State.heldBatch (s : State) (slot rank epoch index : Nat) : Option Closed :=
  (s.queues.vals.find? fun q => q.job = slot && q.rank = rank).bind fun q =>
    (q.entries.find? fun e => e.batch.epoch = epoch && e.batch.index = index).map (·.batch)

/-- The items of Table 7-2 of a batch. -/
def State.batchItems (s : State) (slot : Nat) (b : Closed) : Bytes :=
  let env := s.packEnv slot (fieldAt b.header 0x18 2)
  let h := b.header
  [0x48, 0x50, 0x56, 0x31] ++ env.imageDigest ++ env.seed ++ env.manifestDigest ++ leBytes 4 env.dclass ++ sliceAt h 0xC 4 ++
    sliceAt h 0x10 8 ++ sliceAt h 0x18 2 ++ sliceAt h 6 2 ++ sliceAt h 0x20 24 ++ sliceAt h 0x1C 4 ++ b.root ++ b.outputDigest

/-- What this device holds of what a request names. -/
def State.locateData (s : State) (k what keyA epoch keyB pos arg : Nat) : Bytes :=
  let slot := s.heelJob k
  if what ≤ askBytes then
    match (s.heelSession k).blocks.find? fun b => b.stage = keyA && b.epoch = epoch && b.first = keyB with
    | none => []
    | some b =>
      let n := ((s.jobs.find slot).map (·.manifest.total)).getD 0
      if what = askSamples then (b.digests n).flatten
      else match b.at_ pos with
        | none => []
        | some (_, out) => if what = askChunks then (chunkDigests out).flatten else sliceAt out (4096 * arg) (min 4096 (out.length - 4096 * arg))
  else
    match s.heldBatch slot keyA epoch keyB with
    | none => []
    | some b =>
      let body := b.data.take b.bodyBytes
      if what = askItems then s.batchItems slot b
      else if what = askEntries then b.entries.flatMap fun e => e.bytes ++ e.input
      else if what = askBodyChunks then (chunkDigests body).flatten
      else (body.drop (4096 * arg)).take 4096

/-- HEEL_LOCATE_REQUEST (R215): the answer carries the length and the data. -/
def execHeelLocateRequest (frame : HeelFrame) (s : State) : Host.Outcome State Fault Refusal :=
  heelRow heelRequest frame (fun msg s =>
    let data := s.locateData frame.session (beFieldAt msg 0 1) frame.keyA frame.epoch frame.keyB
      (beFieldAt msg 1 8) (beFieldAt msg 9 8)
    s.heelSend frame.session heelAnswer frame.keyA frame.epoch frame.keyB (beBytes 4 data.length ++ data)) s

/-! ### Location by the leader (R215) -/

/-- Unknown BYTE_OFFSET and no STAGE. -/
def noOffset : Nat := 0xFFFF_FFFF
def noStage : Nat := 0xFFFF

/-- Index of the first item in which two lists differ, where one may end before the other. -/
def firstDiff (n : Nat) (a b : Bytes) : Option Nat :=
  let x := chunksOf n a.length a
  let y := chunksOf n b.length b
  (List.range (max x.length y.length)).find? fun i => x[i]? ≠ y[i]?

/-- STAGE_ID of the first stage of a kind in an image; of kind DIGEST, for a sample whose own path took no digest. -/
def State.stageIdOf (s : State) (k kind : Nat) : Nat :=
  (((s.jobImage (s.heelJob k)).bind fun im => im.stageOfKind kind).map (·.id)).getD noStage

/-- Does one divergence come before another? -/
def State.divBefore (s : State) (k : Nat) (a b : Divergence) : Bool :=
  if a.epoch ≠ b.epoch then a.epoch < b.epoch
  else if a.position ≠ b.position then a.position < b.position
  else if a.kind ≠ b.kind then b.kind < a.kind
  else if a.kind = 1 then false
  else match s.jobImage (s.heelJob k) with
    | some im =>
      if a.stage ≠ b.stage && im.leadsTo im.stages.length a.stage b.stage then true
      else if a.stage ≠ b.stage && im.leadsTo im.stages.length b.stage a.stage then false
      else a.stage < b.stage
    | none => a.stage < b.stage

/-- The report of a divergence in the HEEL_DIV_ registers; vector 5 told of the freeze. -/
def State.writeDiv (s : State) (k : Nat) (d : Divergence) : State :=
  let words := fun (t : State) (reg : Nat → Nat) (bs : Bytes) =>
    (List.range 8).foldl (fun t w => t.setReg (reg w) (BitVec.ofNat 64 (fieldAt bs (4 * w) 4))) t
  let t := (s.setFld (Reg.HEEL_DIV_INFO k) Fld.HEEL_DIV_INFO_KIND d.kind).setFld (Reg.HEEL_DIV_INFO k) Fld.HEEL_DIV_INFO_STAGE d.stage
  let t := (t.setFld (Reg.HEEL_DIV_POSITION k) Fld.HEEL_DIV_POSITION_POSITION d.position).setFld (Reg.HEEL_DIV_OFFSET k)
    Fld.HEEL_DIV_OFFSET_BYTE_OFFSET d.offset
  let t := (t.setFld (Reg.HEEL_DIV_EPOCH k) Fld.HEEL_DIV_EPOCH_EPOCH d.epoch).setFld (Reg.HEEL_DIV_BATCH k)
    Fld.HEEL_DIV_BATCH_BATCH_INDEX d.batch
  let t := t.setFld (Reg.HEEL_DIV_RANK k) Fld.HEEL_DIV_RANK_RANK d.rank
  (words (words t (Reg.HEEL_DIV_LOCAL k) d.own) (Reg.HEEL_DIV_PEER k) d.peer).setHeelState k heelLocated

/-- A report as a message carries it, and as the follower reads it. -/
def Divergence.bytes (d : Divergence) : Bytes :=
  beBytes 1 d.kind ++ beBytes 2 d.stage ++ beBytes 4 d.offset ++ beBytes 2 d.rank ++ beBytes 8 d.batch ++ d.own ++ d.peer
def divergenceOf (epoch position : Nat) (b : Bytes) : Divergence :=
  ⟨beFieldAt b 0 1, beFieldAt b 1 2, position, beFieldAt b 3 4, epoch, beFieldAt b 9 8, beFieldAt b 7 2, sliceAt b 17 32, sliceAt b 49 32⟩

/-- No mismatch exists. -/
def Divergence.none_ : Divergence := ⟨0, noStage, 0, noOffset, 0, 0, 0, List.replicate 32 0, List.replicate 32 0⟩

/-- The leader reports the first divergence. -/
def State.heelFinish (s : State) (k : Nat) (found : List Divergence) : State :=
  let d := match found with
    | [] => Divergence.none_
    | f :: rest => rest.foldl (fun best x => if s.divBefore k x best then x else best) f
  (s.writeDiv k d).heelSend k heelReport 0 d.epoch d.position d.bytes

/-- Ask the peer for data about the first mismatch still to locate. -/
def State.heelAsk (s : State) (k : Nat) (l : Locate) (what pos arg : Nat) : State :=
  match l.todo with
  | [] => s
  | m :: _ =>
    (s.setHeel k { s.heelSession k with locate := some { l with asked := what, arg := arg, position := pos } }).heelSend k heelRequest
      m.keyA m.epoch m.keyB (beBytes 1 what ++ beBytes 8 pos ++ beBytes 8 arg)

/-- Go on with the next mismatch, or report. -/
def State.heelNext (s : State) (k : Nat) (l : Locate) : State :=
  match l.todo with
  | [] => (s.setHeel k { s.heelSession k with locate := some l }).heelFinish k l.found
  | m :: _ => s.heelAsk k l (if m.stage then askSamples else askItems) 0 0

/-- The first mismatch still to locate is located. -/
def State.heelFound (s : State) (k : Nat) (l : Locate) (m : Mismatch) (stage position offset : Nat) : State :=
  let d : Divergence :=
    if m.stage then ⟨2, stage, position, offset, m.epoch, 0, 0, m.own, m.peer⟩
    else ⟨1, stage, position, offset, m.epoch, m.keyB, m.keyA, m.own, m.peer⟩
  s.heelNext k { l with todo := l.todo.drop 1, found := l.found ++ [d] }

/-- The body offset at which two batches differ, as position and offset within its slot or from its first token. -/
def bodyPlace (b : Closed) (at_ : Nat) : Nat × Nat :=
  match (b.entries.filter fun e => e.start ≤ at_).getLast? with
  | some e => (e.position, at_ - e.start)
  | none => (b.first, at_)

/-- An answer to what was asked last. -/
def State.heelAnswered (s : State) (k : Nat) (l : Locate) (m : Mismatch) (peer : Bytes) : State :=
  let own := s.locateData k l.asked m.keyA m.epoch m.keyB l.position l.arg
  let pack := s.stageIdOf k kindPack
  if l.asked = askSamples then s.heelAsk k l askChunks (m.keyB + (firstDiff 32 own peer).getD 0) 0
  else if l.asked = askChunks then
    match firstDiff 32 own peer with
    | some c => s.heelAsk k l askBytes l.position c
    | none => s.heelFound k l m m.keyA l.position noOffset
  else if l.asked = askBytes then
    s.heelFound k l m m.keyA l.position (((firstDiff 1 own peer).map fun b => 4096 * l.arg + b).getD noOffset)
  else
    match s.heldBatch (s.heelJob k) m.keyA m.epoch m.keyB with
    | none => s.heelFound k l m pack 0 noOffset
    | some b =>
      if l.asked = askItems then
        if sliceAt own 148 32 ≠ sliceAt peer 148 32 then s.heelAsk k l askEntries 0 0
        else if sliceAt own 180 32 ≠ sliceAt peer 180 32 then s.heelAsk k l askBodyChunks 0 0
        else s.heelFound k l m pack b.first noOffset
      else if l.asked = askEntries then
        let i := (firstDiff 48 own peer).getD 0
        let from_ := if 48 * i < own.length then own else peer
        let inputs := sliceAt own (48 * i + 16) 32 ≠ sliceAt peer (48 * i + 16) 32
        let digest := ((b.entries[i]?).bind (·.inputAt)).getD (s.stageIdOf k kindDigest)
        s.heelFound k l m (if inputs then digest else pack) (fieldAt from_ (48 * i) 6) noOffset
      else if l.asked = askBodyChunks then s.heelAsk k l askBodyBytes 0 ((firstDiff 32 own peer).getD 0)
      else
        let p := bodyPlace b (4096 * l.arg + (firstDiff 1 own peer).getD 0)
        s.heelFound k l m pack p.1 p.2

/-- HEEL_LOCATE_START (R215): on the leader of a frozen session. -/
def execHeelLocateStart (session : Fin 4) (s : State) : Host.Outcome State Fault Refusal :=
  act (fun s =>
    let x := s.heelSession session
    if s.heelState session = heelIsFrozen && !s.bit (Reg.HEEL_CTRL session) Fld.HEEL_CTRL_ROLE && x.locate.isNone then
      s.heelNext session ⟨x.mismatches, 0, 0, 0, []⟩
    else s) s

/-- HEEL_LOCATE_ANSWER (R215): the answer to the request that waits. -/
def execHeelLocateAnswer (frame : HeelFrame) (s : State) : Host.Outcome State Fault Refusal :=
  heelRow heelAnswer frame (fun msg s =>
    match (s.heelSession frame.session).locate with
    | some l =>
      match l.todo with
      | m :: _ =>
        if m.keyA = frame.keyA && m.epoch = frame.epoch && m.keyB = frame.keyB then
          s.heelAnswered frame.session l m ((msg.drop 4).take (beFieldAt msg 0 4))
        else s
      | [] => s
    | none => s) s

/-- HEEL_REPORT (R215): the follower writes the leader's values. -/
def execHeelReport (frame : HeelFrame) (s : State) : Host.Outcome State Fault Refusal :=
  heelRow heelReport frame (fun msg s =>
    if s.bit (Reg.HEEL_CTRL frame.session) Fld.HEEL_CTRL_ROLE && s.heelState frame.session = heelIsFrozen then
      s.writeDiv frame.session (divergenceOf frame.epoch frame.keyB msg)
    else s) s

end Sys2Proof.Machine
end

