-- ==== Sys2Proof/Machine/Mailbox.lean ====
section
/-! DEFINITION. Management commands: envelopes and their checks, the mailbox, results, and the security commands
(R350 to R360, R373, R375, R397). -/

namespace Sys2Proof.Machine

/-- Codes of Tables 13-6 and 14-9 for management results. -/
def ST_SEC_SIGNATURE : Nat := 0x00C0
def ST_SEC_REPLAY : Nat := 0x00C1
def ST_SEC_SCOPE : Nat := 0x00C2
def ST_SEC_KEY_ID : Nat := 0x00C3
def ST_SEC_KEY_EXISTS : Nat := 0x00C4
def ST_SEC_KEY_BUSY : Nat := 0x00C5
def ST_SEC_KEY_FULL : Nat := 0x00C6
def ST_SEC_UNWRAP : Nat := 0x00C7
def ST_SEC_HEDGE_BUSY : Nat := 0x00C8
def ST_SEC_ANCHOR : Nat := 0x00CC
def ST_FW_IMAGE : Nat := 0x00D0
def ST_FW_NONE : Nat := 0x00D1
def ST_FW_BUSY : Nat := 0x00D2
def ST_PWR_RANGE : Nat := 0x00D3
def ST_MBX_FORMAT : Nat := 0x00D4
def ST_FALLBACK : Nat := 0x00D5

/-- Command codes of Tables 11-6, 13-4 and 14-8. -/
def cmdFwStage : Nat := 0x0101
def cmdFwActivate : Nat := 0x0102
def cmdReset : Nat := 0x0103
def cmdFallbackExit : Nat := 0x0104
def cmdSetCap : Nat := 0x0105
def cmdSetPlanMax : Nat := 0x0106
def cmdFeature : Nat := 0x0107
def cmdDiag : Nat := 0x0108
def cmdNsCreate : Nat := 0x0301
def cmdNsDelete : Nat := 0x0302
def cmdKeyRotate : Nat := 0x0303
def cmdKeySweep : Nat := 0x0304
def cmdKeyDestroyGen : Nat := 0x0305
def cmdAttest : Nat := 0x0401
def cmdKeyImport : Nat := 0x0402
def cmdKeyDestroy : Nat := 0x0403
def cmdHedgeOwner : Nat := 0x0404
def cmdAnchorSet : Nat := 0x0405
def cmdCertRead : Nat := 0x0406

/-- SCOPE of the device, and its command counter. -/
def scopeDevice : Nat := 0xFF
def counterOf (scope : Nat) : Nat := if scope = scopeDevice then 16 else scope

/-! ### Envelopes (R357, R375) -/

/-- A command envelope (Table 13-3). -/
structure Envelope where
  code : Nat
  scope : Nat
  counter : Nat
  device : Bytes
  args : Bytes
  signed : Bytes
  signature : Bytes
deriving DecidableEq, Repr

/-- Read an envelope whose length is right. -/
def envelopeOf (b : Bytes) : Envelope where
  code := fieldAt b 4 2
  scope := fieldAt b 6 1
  counter := fieldAt b 8 8
  device := sliceAt b 0x10 32
  args := (b.take (b.length - 96)).drop 52
  signed := b.take (b.length - 96)
  signature := b.drop (b.length - 96)

/-- Has an envelope the length of R375? A wrong MAGIC counts as a wrong format (log entry 42). -/
def envelopeOk (b : Bytes) : Bool :=
  148 ≤ b.length && b.length ≤ 65684 && b.length = 52 + fieldAt b 0x30 4 + 96 && fieldAt b 0 4 = 0x444D4348

/-- Codes of the tables. -/
def knownCommands : List Nat :=
  [cmdFwStage, cmdFwActivate, cmdReset, cmdFallbackExit, cmdSetCap, cmdSetPlanMax, cmdFeature, cmdDiag, cmdNsCreate, cmdNsDelete,
    cmdKeyRotate, cmdKeySweep, cmdKeyDestroyGen, cmdAttest, cmdKeyImport, cmdKeyDestroy, cmdHedgeOwner, cmdAnchorSet, cmdCertRead]

/-- Does one of the operator anchors verify an envelope? -/
def State.anchorSigns (s : State) (e : Envelope) : Bool := s.security.anchors.any fun k => ecdsaVerify k e.signed e.signature

/-- Does the owner key of a hedge verify an envelope? -/
def State.ownerSigns (s : State) (h : Nat) (e : Envelope) : Bool :=
  match s.security.owners.find h with
  | some k => ecdsaVerify k e.signed e.signature
  | none => false

/-- While the anchor list is empty, SEC_ANCHOR_SET through the mailbox needs no signature (R358). -/
def State.unsignedOk (s : State) (fromHost : Bool) (e : Envelope) : Bool :=
  fromHost && s.security.anchors.isEmpty && e.code = cmdAnchorSet && e.scope = scopeDevice

/-- The hedge to which a BLK_KEY_ command belongs: the confidential owner of its namespace. -/
def State.keyHedge (s : State) (nsid : Nat) : Option Nat :=
  let h := s.fld (Reg.FTL_NS_STATE nsid) Fld.FTL_NS_STATE_HEDGE
  if s.nsPresent nsid && s.confidential h then some h else none

/-- May SCOPE carry CODE (R357, Table 13-4)? -/
def State.scopeCarries (s : State) (e : Envelope) : Bool :=
  let h := e.scope
  let nsid := fieldAt e.args 0 4
  let keyId := fieldAt e.args 0 4
  let keyOwner := ((s.security.keys.find keyId).map (·.owner))
  let blkKey : Bool := e.code = cmdKeyRotate || e.code = cmdKeySweep || e.code = cmdKeyDestroyGen
  if h = scopeDevice then
    knownCommands.contains e.code && !(blkKey && (s.keyHedge nsid).isSome) &&
      (e.code ≠ cmdKeyDestroy || keyOwner.all fun o => o = 0)
  else
    1 ≤ h && h ≤ 15 &&
      (e.code = cmdKeyImport || (e.code = cmdKeyDestroy && keyOwner.all fun o => o = h) || e.code = cmdCertRead ||
        (e.code = cmdAttest && fieldAt e.args 0 1 = h) || (blkKey && s.keyHedge nsid = some h))

/-- The checks of R357, in order: the code of the first that fails, or ST_OK. -/
def State.envelopeCheck (s : State) (fromHost : Bool) (e : Envelope) : Nat :=
  let free := s.unsignedOk fromHost e
  let anchor := s.anchorSigns e
  let anyOwner := (List.range 16).any fun h => s.ownerSigns h e
  let signer := if e.scope = scopeDevice then anchor else s.ownerSigns e.scope e
  if e.device ≠ deviceIdentity || !(free || anchor || anyOwner) then ST_SEC_SIGNATURE
  else if !(free || signer) || !s.scopeCarries e then ST_SEC_SCOPE
  else if e.counter ≤ s.fld (Reg.SEC_CMD_COUNTER (counterOf e.scope)) Fld.SEC_CMD_COUNTER_COUNTER then ST_SEC_REPLAY
  else ST_OK

/-- Is the argument layout of a command that of its table (R397)? Ranges that a table gives another code are checked
by the command. -/
def argsOk (code : Nat) (a : Bytes) : Bool :=
  let n := a.length
  let byte := fun (i : Nat) => fieldAt a i 1
  if code = cmdFwStage then 8 ≤ n && n ≤ 8 + 61440 && zeroAt a 5 3
  else if code = cmdFwActivate || code = cmdFallbackExit || code = cmdDiag || code = cmdCertRead then n = 0
  else if code = cmdReset then n = 1 && (byte 0 = 1 || byte 0 = 2)
  else if code = cmdSetCap then n = 2 && 150 ≤ fieldAt a 0 2 && fieldAt a 0 2 ≤ 350
  else if code = cmdSetPlanMax then n = 1 && 4 ≤ byte 0 && byte 0 ≤ 16
  else if code = cmdFeature then
    byte 2 ≤ 1 && (if byte 0 = 0x80 && byte 2 = 1 then n = 36 && byte 3 = 0 else n = 3)
  else if code = cmdNsCreate then n = 16 && fieldAt a 4 8 ≠ 0 && byte 12 ≤ 1 && zeroAt a 13 3
  else if code = cmdNsDelete || code = cmdKeyRotate || code = cmdKeyDestroy then n = 4
  else if code = cmdKeySweep then n = 8 && 1 ≤ byte 4 && byte 4 ≤ 100 && zeroAt a 5 3
  else if code = cmdKeyDestroyGen then n = 8 && zeroAt a 6 2
  else if code = cmdAttest then n = 33 && byte 0 ≤ 15
  else if code = cmdKeyImport then n = 162
  else if code = cmdHedgeOwner then n = 98 && 1 ≤ byte 0 && byte 0 ≤ 15 && (decodePoint (a.drop 1)).isSome
  else true

/-- Commands that fallback serves, and those that the ROM alone serves (R373). -/
def fallbackServes (code : Nat) : Bool :=
  [cmdFwStage, cmdFwActivate, cmdFallbackExit, cmdDiag, cmdAttest, cmdCertRead].contains code
def romServes (code : Nat) : Bool := code = cmdFwStage || code = cmdFwActivate

/-- Is a command available in the mode that Sheepdog is in? -/
def SheepMode.serves (m : SheepMode) (code : Nat) : Bool :=
  match m with
  | .fallback => fallbackServes code
  | .failed => romServes code
  | _ => true

/-! ### The mailbox (R375) -/

/-- Does Sheepdog run management commands: its firmware runs, or the ROM serves the mailbox alone (R373)? A fault in
H-die 0 silences every interface; after any other the management port still answers (R29). -/
def State.sheepServes (s : State) (fromHost : Bool) : Bool :=
  (s.live || (!s.outOfService.contains dieH0 && !fromHost)) &&
    match s.sheep.mode with
    | .starting => 2 ≤ s.fld Reg.SHD_BOOT Fld.SHD_BOOT_STAGE
    | .failed => fromHost
    | .held => false
    | _ => true

/-- The envelope in the window: LEN bytes from SHD_MBX_REQ. -/
def State.mailboxEnvelope (s : State) : Bytes :=
  let n := s.fld Reg.SHD_MBX_CTRL Fld.SHD_MBX_CTRL_LEN
  ((List.range (min (ceilDiv n 4) 0x8000)).flatMap fun i => leBytes 4 (s.reg (Reg.SHD_MBX_REQ i)).toNat).take n

/-- The bytes of a result: CODE, RsvdZ, LEN and the data. -/
def resultBytes (code : Nat) (data : Bytes) : Bytes := leBytes 2 code ++ leBytes 2 0 ++ leBytes 4 data.length ++ data

/-- A result is posted: in SHD_MBX_RESP with DONE and vector 11, or behind its big-endian length on the management
port (R375). -/
def State.postResult (s : State) (fromHost : Bool) (code : Nat) (data : Bytes) : State :=
  let r := resultBytes code data
  if fromHost then
    let words := chunksOf 4 r.length r
    let t := s.clearRegs (Reg.SHD_MBX_RESP 0) (Reg.SHD_MBX_RESP 0x8000)
    let t := words.zipIdx.foldl (fun t e => t.setReg (Reg.SHD_MBX_RESP e.2) (BitVec.ofNat 64 (leNat e.1))) t
    let t := (t.setFld Reg.SHD_MBX_STATUS Fld.SHD_MBX_STATUS_CODE code).setBit Reg.SHD_MBX_STATUS Fld.SHD_MBX_STATUS_DONE true
    t.raise 11
  else { s with board := { s.board with mgmt := some (beBytes 4 r.length ++ r) } }

/-- What a command answers: its code and data, the state that it leaves, and what follows once the result is posted
(log entry 42). -/
structure Answer where
  state : State
  code : Nat
  data : Bytes
  after : State → State

/-- An answer that changes nothing. -/
def State.answers (s : State) (code : Nat) : Answer := ⟨s, code, [], id⟩

/-- Run a checked command's body, or answer with the code of the check that fails. On acceptance the scope's counter
takes COUNTER (R357). -/
def State.runEnvelope (s : State) (fromHost : Bool) (e : Envelope) (body : Envelope → State → Answer) : Answer :=
  let code := s.envelopeCheck fromHost e
  if code ≠ ST_OK then s.answers code
  else
    let t := s.setReg (Reg.SEC_CMD_COUNTER (counterOf e.scope)) (BitVec.ofNat 64 e.counter)
    if !argsOk e.code e.args then t.answers ST_PWR_RANGE
    else if !t.sheep.mode.serves e.code then t.answers ST_FALLBACK
    else body e t

/-- The bytes that a command's source carries: none where it does not reach Sheepdog. A network command needs a TLS
session (R358), and a GO is ignored while BUSY (R375). -/
def State.mgmtBytes (s : State) : MgmtSource → Option Bytes
  | .mailbox =>
    if s.hostReaches Reg.SHD_MBX_CTRL && s.sheepServes true && !s.bit Reg.SHD_MBX_STATUS Fld.SHD_MBX_STATUS_BUSY then
      some s.mailboxEnvelope
    else none
  | .network e => if s.sheepServes false && s.security.tlsSessions ≠ 0 then some e else none

/-- Does a command come from the host? -/
def fromHost : MgmtSource → Bool
  | .mailbox => true
  | .network _ => false

/-- Run an envelope: its length is checked first, then R357 and R397, then its command (R375). -/
def State.mgmtRun (s : State) (src : MgmtSource) (b : Bytes) (body : Envelope → State → Answer) : State :=
  let a : Answer := if !envelopeOk b then s.answers ST_MBX_FORMAT else s.runEnvelope (fromHost src) (envelopeOf b) body
  (a.after (a.state.postResult (fromHost src) a.code a.data)).heelSettle

/-- A row of a management command: the envelope carries its code. One that carries another code is not this command. -/
def mgmtRow (src : MgmtSource) (code : Nat) (body : Envelope → State → Answer) (s : State) : Host.Outcome State Fault Refusal :=
  .next (match s.mgmtBytes src with
    | some b => if fieldAt b 4 2 = code then s.mgmtRun src b body else s
    | none => s)

/-! ### Security commands (R352 to R354, R358 to R360) -/

/-- Change the security function. -/
def State.adjustSecurity (s : State) (f : Security → Security) : State := { s with security := f s.security }

/-- Entries of the key store in use: the imported and at-rest keys and the four of the device (Table 13-1). -/
def State.keysUsed (s : State) : Nat := s.security.keys.entries.length + 4

/-- The measurements M0 to M7. -/
def State.measurements (s : State) : Bytes := (List.range 8).flatMap fun i => s.wordsOf (Reg.SEC_MEAS i)

/-- Scalars of the derived device keys (Table 13-1): import key, attestation key, management TLS key. -/
def importScalar : Nat := Config.derivedScalar 2 []
def State.attestScalar (s : State) : Nat :=
  Config.derivedScalar 3 (sha256 ((List.range 3).flatMap fun i => s.wordsOf (Reg.SEC_MEAS i)))

/-- The signed part of an attestation report (Table 13-5). -/
def State.reportBody (s : State) (h : Nat) (nonce : Bytes) : Bytes :=
  let flags := (s.confidential h).toNat + 2 * (s.bit Reg.SEC_DEBUG Fld.SEC_DEBUG_SEEN).toNat
  leBytes 4 0x54544148 ++ leBytes 2 1 ++ leBytes 1 h ++ leBytes 1 flags ++
    leBytes 4 (s.fld Reg.HEEL_DCLASS Fld.HEEL_DCLASS_CLASS) ++ leBytes 4 (s.reg Reg.GLB_STEPPING).toNat ++ deviceIdentity ++ nonce ++
    s.measurements ++ s.wordsOf (Reg.SEC_OWNER h) ++ s.wordsOf (Reg.ENL_IMAGE_DIGEST h) ++
    (if s.security.partitionDigest.isEmpty then List.replicate 32 0 else s.security.partitionDigest)

/-- SEC_ATTEST (R360): the nonce of the signature is not stated: a free value. -/
def attestBody (e : Envelope) (s : State) : Answer :=
  let r := s.reportBody (fieldAt e.args 0 1) (sliceAt e.args 1 32)
  ⟨s.drew, ST_OK, r ++ ecdsaSign s.attestScalar s.freeValue r, id⟩

/-- SEC_ATTEST (R360). -/
def execSecAttest (src : MgmtSource) (s : State) : Host.Outcome State Fault Refusal := mgmtRow src cmdAttest attestBody s

/-- Owner of the keys that a scope imports (R354, R357). -/
def scopeOwner (scope : Nat) : Nat := if scope = scopeDevice then 0 else scope

/-- The imported secret, where the wrap's tag holds (R354). The context is little-endian (R8). -/
def unwrapKey (keyId owner usage : Nat) (e nonce wrapped : Bytes) : Option Bytes :=
  let context := leBytes 4 keyId ++ leBytes 1 owner ++ leBytes 1 usage
  match ecdh importScalar e with
  | none => none
  | some z => gcmOpen (kdf z (ascii "HKEYWRAP") context) nonce context (wrapped.take 32) (wrapped.drop 32)

/-- SEC_KEY_IMPORT (R354). -/
def keyImportBody (e : Envelope) (s : State) : Answer :=
  let a := e.args
  let keyId := fieldAt a 0 4
  let usage := fieldAt a 4 1
  let owner := scopeOwner e.scope
  if keyId = 0 || 0xFFFF < keyId then s.answers ST_SEC_KEY_ID
  else if (s.security.keys.find keyId).isSome then s.answers ST_SEC_KEY_EXISTS
  else if 8192 ≤ s.keysUsed then s.answers ST_SEC_KEY_FULL
  else match unwrapKey keyId owner usage (sliceAt a 5 97) (sliceAt a 102 12) (sliceAt a 114 48) with
    | none => s.answers ST_SEC_UNWRAP
    | some secret => (s.adjustSecurity fun x => { x with keys := x.keys.insert keyId ⟨owner, usage, secret⟩ }).answers ST_OK

/-- SEC_KEY_IMPORT (R354). -/
def execSecKeyImport (src : MgmtSource) (s : State) : Host.Outcome State Fault Refusal := mgmtRow src cmdKeyImport keyImportBody s

/-- KEY_IDs in the tables of the CRYPT stages of an image. -/
def cryptKeys (im : Image) : List Nat :=
  (im.stages.filter fun (st : Stage) => st.kind = kindCrypt).map fun (st : Stage) => fieldAt (im.table st.table) 4 4

/-- Does a loaded image or a non-EMPTY job name a key (R354)? -/
def State.keyNamed (s : State) (keyId : Nat) : Bool :=
  (s.contexts.vals.any fun c => c.keySource = 1 && c.keyId = keyId) || (s.images.vals.any fun im => (cryptKeys im).contains keyId) ||
    s.jobs.vals.any fun j => j.map.keyId = keyId || j.manifest.shards.any fun sh => sh.keyId = keyId

/-- SEC_KEY_DESTROY (R354): a KEY_ID that no imported key has is destroyed without effect (log entry 42). -/
def keyDestroyBody (e : Envelope) (s : State) : Answer :=
  let keyId := fieldAt e.args 0 4
  if keyId = 0 || 0xFFFF < keyId then s.answers ST_SEC_KEY_ID
  else if s.keyNamed keyId then s.answers ST_SEC_KEY_BUSY
  else (s.adjustSecurity fun x => { x with keys := x.keys.erase keyId }).answers ST_OK

/-- SEC_KEY_DESTROY (R354). -/
def execSecKeyDestroy (src : MgmtSource) (s : State) : Host.Outcome State Fault Refusal := mgmtRow src cmdKeyDestroy keyDestroyBody s

/-- SEC_HEDGE_OWNER (R352): the keys that the hedge owns are destroyed. -/
def hedgeOwnerBody (e : Envelope) (s : State) : Answer :=
  let h := fieldAt e.args 0 1
  let key := e.args.drop 1
  if (s.images.find h).isSome then s.answers ST_SEC_HEDGE_BUSY
  else
    let t := s.adjustSecurity fun x => { x with owners := x.owners.insert h key, keys := x.keys.keep fun k v => !(k < 0x10000 && v.owner = h) }
    (((t.showWords (Reg.SEC_OWNER h) (sha256 key)).settleOwners)).answers ST_OK

/-- SEC_HEDGE_OWNER (R352). -/
def execSecHedgeOwner (src : MgmtSource) (s : State) : Host.Outcome State Fault Refusal := mgmtRow src cmdHedgeOwner hedgeOwnerBody s

/-- SEC_ANCHOR_SET (R358, Table 13-4): M3 is extended by the digest of the list (R359). -/
def anchorSetBody (e : Envelope) (s : State) : Answer :=
  let keys := chunksOf 97 e.args.length e.args
  if e.args.isEmpty || 388 < e.args.length || e.args.length % 97 ≠ 0 || !(keys.all fun k => (decodePoint k).isSome) then
    s.answers ST_SEC_ANCHOR
  else ((s.adjustSecurity fun x => { x with anchors := keys }).measure 3 (sha256 e.args)).answers ST_OK

/-- SEC_ANCHOR_SET (R358). -/
def execSecAnchorSet (src : MgmtSource) (s : State) : Host.Outcome State Fault Refusal := mgmtRow src cmdAnchorSet anchorSetBody s

/-- SEC_CERT_READ (R353). -/
def certReadBody (_ : Envelope) (s : State) : Answer := ⟨s, ST_OK, Config.certificateChain, id⟩

/-- SEC_CERT_READ (R353). -/
def execSecCertRead (src : MgmtSource) (s : State) : Host.Outcome State Fault Refusal := mgmtRow src cmdCertRead certReadBody s

/-- MGMT_TLS_HANDSHAKE (R358): the client is admitted when its chain ends at an operator anchor. -/
def execMgmtTlsHandshake (chain : Bytes) (s : State) : Host.Outcome State Fault Refusal :=
  .next (if s.sheepServes false && s.security.anchors.any (Config.chainEndsAt chain) then
      s.adjustSecurity fun x => { x with tlsSessions := x.tlsSessions + 1 }
    else s)

/-- Is a block closed to JTAG (R350)? -/
def State.jtagLocked (s : State) (block : JtagBlock) : Bool :=
  s.anyConfidential &&
    match block with
    | .crypto | .keyStore => true
    | .kennel k => s.confidential (s.partition.kennelOwner s.part.kennels k)
    | .other => false

/-- JTAG_ACCESS (R350, R383): with JTAG_EN 0 the port is disabled. A read of a locked block returns zero and a write is
ignored, and both are counted. -/
def execJtagAccess (block : JtagBlock) (write : Bool) (s : State) : Host.Outcome State Fault Refusal :=
  act (fun s =>
    if !s.bit Reg.GLB_STRAPS Fld.GLB_STRAPS_JTAG_EN then s
    else
      let t := s.setBit Reg.SEC_DEBUG Fld.SEC_DEBUG_SEEN true
      if s.jtagLocked block then
        { (t.bumpSat Reg.SEC_DEBUG Fld.SEC_DEBUG_DENIED) with hostRead := if write then s.hostRead else 0 }
      else t) s

end Sys2Proof.Machine
end

