-- ==== Sys2Proof/Machine/Resets.lean ====
section
/-! DEFINITION. Resets (R370, R373, R374, R382, R385) and the starts that follow them (R372, R364). -/

namespace Sys2Proof.Machine

/-- Change Sheepdog. -/
def State.adjustSheep (s : State) (f : Sheepdog → Sheepdog) : State := { s with sheep := f s.sheep }

/-- STAGE of SHD_BOOT, and the running firmware slot. -/
def State.bootStage (s : State) : Nat := s.fld Reg.SHD_BOOT Fld.SHD_BOOT_STAGE
def State.bootSlot (s : State) : Nat := s.fld Reg.SHD_BOOT Fld.SHD_BOOT_SLOT
def State.setStage (s : State) (n : Nat) : State := s.setFld Reg.SHD_BOOT Fld.SHD_BOOT_STAGE n

/-- Contents of a firmware slot: 0 A, 1 B. -/
def State.slotBytes (s : State) (slot : Nat) : Bytes := if slot = 0 then s.sheep.slotA else s.sheep.slotB

/-- Reasons of Table 14-6. -/
def reasonInvalid : Nat := 0x01
def reasonNandMissing : Nat := 0x04
def reasonReplay : Nat := 0x05
def reasonTimeout : Nat := 0x07
def reasonIncomplete : Nat := 0x08

/-- Types of SHD_RESET_CAUSE. -/
def causePowerOn : Nat := 0
def causeWarm : Nat := 1
def causeThermal : Nat := 2
def causeActivation : Nat := 3
def State.setCause (s : State) (c : Nat) : State := s.setFld Reg.SHD_RESET_CAUSE Fld.SHD_RESET_CAUSE_TYPE c

/-! ### What a reset leaves (R374) -/

/-- Everything outside PD0 and the retained state is lost: images, jobs, the partition, every unit's work, and the
memories, which read as never written. -/
def State.loseWork (s : State) : State :=
  { s with
    regPend := Tab.empty, islands := Tab.empty, hung := [], claims := [], partition := Partition.reset
    sramServed := [], loadOp := none, images := Tab.empty, timers := Tab.empty, jobs := Tab.empty, items := [], text := TextUnits.reset
    queues := Tab.empty, cores := Tab.empty, kennels := Tab.empty, restarting := [], reloading := []
    heel := Tab.empty, contexts := Tab.empty, clock := 0, ports := Tab.empty, time := ⟨0, 0, 0, none, Tab.empty⟩
    dma := Tab.empty, pools := Tab.empty, chk := Tab.empty, bri := Tab.empty, sram := Tab.empty, dram := Tab.empty
    fleet := Fleet.idle
    board := { s.board with pins := List.replicate 16 Pin.free, coalesce := Tab.empty }
    security := { s.security with partitionDigest := [], tlsSessions := 0 } }

/-- Registers of the block store that show retained namespaces and the medium. -/
def storeRegister (k : Nat) : Bool :=
  k = Reg.FTL_CAPACITY || k = Reg.FTL_PHYS_UNITS || k = Reg.FTL_SPARE || k = Reg.FTL_CKPT_PSEQ ||
    (Reg.FTL_NS_STATE 0 ≤ k && k < Reg.FTL_JOB_STORE_LBA 0)

/-- Registers that every reset keeps: command counters, owner keys, namespaces, and the firmware's class. -/
def retainedRegister (k : Nat) : Bool :=
  storeRegister k || k = Reg.HEEL_DCLASS || (Reg.SEC_OWNER 0 0 ≤ k && k ≤ Reg.SEC_CMD_COUNTER 16)

/-- Registers that a warm reset keeps beside them: GLB, with the health of kennels retired in operation, SEC, and of PD0 the
mailbox, the alarms and what the sensors show (DESIGN CHOICE, log entry 3). -/
def warmRegister (k : Nat) : Bool :=
  retainedRegister k || k < 0x100000 || (0x100000 ≤ k && k < Reg.SHD_TIMER_STATUS 0) || (Reg.SHD_MBX_REQ 0 ≤ k && k < 0x200000) ||
    (0x1C00000 ≤ k && k < 0x2000000 && k ≠ Reg.SEC_CONF && k ≠ Reg.SEC_DEBUG) || k = Reg.PWR_TEMP_MAX || k = Reg.PWR_POWER ||
    (Reg.PWR_TEMP_SITE 0 ≤ k && k < Reg.PWR_UNATTRIBUTED)

/-- What a warm reset does before the restart (R374): the block store is as after a power loss. -/
def State.warmEffects (s : State) : State :=
  let t := s.storeLoss
  let seen := t.bit Reg.SEC_DEBUG Fld.SEC_DEBUG_SEEN
  let denied := t.fld Reg.SEC_DEBUG Fld.SEC_DEBUG_DENIED
  let seq := t.reg Reg.TRS_NEXT_SEQ
  let t := { t.loseWork with regs := t.regs.keep fun k _ => warmRegister k }
  let t := (t.setReg Reg.TRS_NEXT_SEQ seq).setBit Reg.SEC_DEBUG Fld.SEC_DEBUG_SEEN seen
  let t := t.setFld Reg.SEC_DEBUG Fld.SEC_DEBUG_DENIED denied
  t.adjustSheep fun x => { x with planMax := 16, energy := Tab.empty, sampled := Tab.empty, switching := false }

/-- What a power-on reset does before the restart: everything that Table 14-7 does not keep is lost. -/
def State.powerOnEffects (s : State) : State :=
  let t := s.storeLoss
  let boot := t.reg Reg.SHD_BOOT
  let dclass := t.reg Reg.HEEL_DCLASS
  let kept := (t.regs.entries.filter fun e => retainedRegister e.1).foldl (fun (m : Tab Word64) e => m.insert e.1 e.2) (regsReset s.part)
  let t := { t.loseWork with regs := kept, retired := [], served := Partition.reset, uptime := 0, hostRead := 0 }
  let t := (t.setReg Reg.SHD_BOOT boot).setReg Reg.HEEL_DCLASS dclass
  { t with
    board := { t.board with mgmt := none, smbus := none, cfgRetry := none, thermtrip := true }
    store := { t.store with window := [] }
    sheep := { Sheepdog.reset with
      slotA := s.sheep.slotA, slotB := s.sheep.slotB, recorded := s.sheep.recorded, otherSlot := s.sheep.otherSlot
      nandTargets := s.sheep.nandTargets } }

/-! ### Starts (R372, R373) -/

/-- A start ends as a failed start: its stage, reason and detail are recorded, and the next start boots the other
slot. Where no slot is valid the ROM goes on to serve the host mailbox (R373). -/
def State.failStart (s : State) (reason detail : Nat) : State :=
  let t := (s.setFld Reg.SHD_BOOT Fld.SHD_BOOT_FAIL_STAGE s.bootStage).setFld Reg.SHD_BOOT Fld.SHD_BOOT_REASON reason
  let t := t.setFld Reg.SHD_BOOT_DETAIL Fld.SHD_BOOT_DETAIL_DETAIL detail
  let t := t.adjustSheep fun x => { x with mode := .failed, recorded := some (reason, detail), otherSlot := true, switching := false }
  if reason = reasonInvalid then t.powerDomain 14 true else t

/-- A reset that meets a start in progress ends it as a failed start (R382, Table 14-6). -/
def State.endStart (s : State) : State :=
  if s.sheep.mode = .starting then s.failStart reasonIncomplete s.bootStage else s

/-- The firmware of the other slot runs. -/
def State.swapSlot (s : State) : State :=
  let slot := 1 - s.bootSlot
  (s.setFld Reg.SHD_BOOT Fld.SHD_BOOT_SLOT slot).setReg Reg.HEEL_DCLASS (BitVec.setWidth 64 (Config.firmwareClass (s.slotBytes slot)))

/-- A start begins at a stage. After a failed start it boots the other firmware slot; THERMTRIP_N rises (R382). -/
def State.beginStart (s : State) (stage : Nat) : State :=
  let t := if s.sheep.otherSlot then s.swapSlot else s
  let t := { t with board := { t.board with thermtrip := true } }
  let t := (t.setStage stage).setBit Reg.SHD_BOOT Fld.SHD_BOOT_FALLBACK false
  t.adjustSheep fun x => { x with mode := .starting, otherSlot := false }

/-- A reset pin is low: the device stays in reset, and will restart at a stage. -/
def State.holdAt (s : State) (stage : Nat) : State := (s.setStage stage).adjustSheep fun x => { x with mode := .held }

/-- POWER_ON_RESET (R374, R382): POR_N is low, as it is while the supply rises; the restart follows its rise. -/
def State.powerOnReset (s : State) : State :=
  let t := (s.endStart.powerOnEffects.setCause causePowerOn).holdAt 1
  { t with board := { t.board with por := false } }

/-- POWER_ON_RESET (R374). -/
def execPowerOnReset (s : State) : Host.Outcome State Fault Refusal := .next s.powerOnReset

/-- A warm reset up to its restart. -/
def State.warmDown (s : State) : State := s.endStart.warmEffects.setCause causeWarm

/-- WARM_RESET (R374, R382): WARM_RST_N is low; while POR_N is low too, POR_N prevails. -/
def State.warmReset (s : State) : State :=
  let t := if s.board.por then s.warmDown.holdAt 2 else s
  { t with board := { t.board with warm := false } }

/-- WARM_RESET (R374). -/
def execWarmReset (s : State) : Host.Outcome State Fault Refusal := .next s.warmReset

/-- RESET_PIN_RISE (R382, R383): a reset pin that was low rises. POR_N's rise samples the straps. The device leaves
reset once both pins are high. -/
def State.pinRise (s : State) (por : Bool) (straps : BitVec 8) : State :=
  let t : State :=
    if por then
      if s.board.por then s
      else { s with board := { s.board with por := true } }.setReg Reg.GLB_STRAPS (BitVec.ofNat 64 (straps.toNat % 32))
    else { s with board := { s.board with warm := true } }
  if t.sheep.mode = .held && t.board.por && t.board.warm then t.beginStart t.bootStage else t

/-- RESET_PIN_RISE (R382). -/
def execResetPinRise (por : Bool) (straps : BitVec 8) (s : State) : Host.Outcome State Fault Refusal := .next (s.pinRise por straps)

/-- A host-held DMA channel is released, once what it moves is aborted at a point that is a free value. -/
def State.freeDma (s : State) (ch : Nat) : State :=
  match s.dma.find ch with
  | some run => (s.drew.dmaStop ch run (s.freeValue % (run.desc.total + 1)) ST_DMA_ABORTED).dmaRelease ch
  | none => s.dmaRelease ch

/-- A host-held Briar engine is released, once its descriptor is aborted. -/
def State.freeBri (s : State) (e : Nat) : State :=
  if !s.bit (Reg.BRI_ENG_CTRL e) Fld.BRI_ENG_CTRL_HOLD then s
  else (s.briStop e).briDrop e

/-- Release what the host holds: DMA channels, Briar engines and check-value units. -/
def State.releaseHolds (s : State) : State :=
  let t := (List.range 64).foldl (fun t ch => t.freeDma ch) s
  let t := (List.range 48).foldl (fun t e => t.freeBri e) t
  (List.range 16).foldl (fun t u => t.chkRelease u) t

/-- HOST_PORT_RESET (R374): jobs, images and delivery continue. -/
def execHostPortReset (s : State) : Host.Outcome State Fault Refusal :=
  act (fun s => s.releaseHolds.drainStalled.controllerReset) s

/-- PCIE_CONFIG_REQUEST (R382): Request Retry Status until hub bring-up, boot stage 3, is complete. Without PD14
nothing answers. -/
def execPcieConfigRequest (s : State) : Host.Outcome State Fault Refusal :=
  act (fun s =>
    let up : Bool := s.sheep.mode = .ready || s.sheep.mode = .fallback || 3 < s.bootStage
    { s with board := { s.board with cfgRetry := if s.domainOn 14 then some (!up) else none } }) s

/-! ### Boot stages (R364, R372) -/

/-- The domains of a boot stage, in the order in which they come up (Table 14-1). -/
def stageDomains (stage : Nat) : List Nat :=
  if stage = 3 then [1, 2, 11, 14, 3, 4, 5, 6, 7, 8, 9, 10]
  else if stage = 4 then [17, 18]
  else if stage = 5 then [15, 16]
  else if stage = 7 then [12, 13, 19]
  else []

/-- DOMAIN_POWER_GOOD (R364): the next domain of the running stage is good. -/
def execDomainPowerGood (domain : Fin 20) (s : State) : Host.Outcome State Fault Refusal :=
  act (fun s =>
    let next := (stageDomains s.bootStage).find? fun d => !s.domainOn d
    if s.sheep.mode = .starting && next = some domain.val then s.powerDomain domain true else s) s

/-- Every domain of a stage is on. -/
def State.stageUp (s : State) (stage : Nat) : State := (stageDomains stage).foldl (fun t d => t.powerDomain d true) s

/-- Fallback (R373): PD0 and PD14 run, and every pin is NONE (R385). -/
def State.enterFallback (s : State) : State :=
  let t := (List.range 19).foldl (fun t d => t.powerDomain (d + 1) false) s
  let t := (t.powerDomain 14 true).setBit Reg.SHD_BOOT Fld.SHD_BOOT_FALLBACK true
  { (t.adjustSheep fun x => { x with mode := .fallback }) with board := { t.board with pins := List.replicate 16 Pin.free } }

/-- Stage 2: M1 is extended, the failed-start counter goes up, and at 3 or more the device enters fallback. -/
def State.stageTwo (s : State) : State :=
  let t := s.measure 1 (Config.sheepdogDigest (s.slotBytes s.bootSlot))
  let t := t.bumpSat Reg.SHD_BOOT Fld.SHD_BOOT_FAILS
  if 3 ≤ t.fld Reg.SHD_BOOT Fld.SHD_BOOT_FAILS then t.enterFallback else t.setStage 3

/-- 16 × channel + target, by which a target is named and taken (R312, Table 14-6). -/
def targetPlace (x : NandTarget) : Nat := 16 * x.channel + x.number

/-- Targets in the order in which the scan takes them. -/
def scanOrder (targets : List NandTarget) : List NandTarget :=
  targets.foldl (fun l x => l.takeWhile (fun y => targetPlace y ≤ targetPlace x) ++ x :: l.dropWhile fun y => targetPlace y ≤ targetPlace x) []

/-- Blocks that are managed of the targets, in their order, until the physical units reach 2^32 − 1 (R312). -/
def managedBlocks (perBlock : Nat) (targets : List NandTarget) : Nat :=
  (scanOrder targets).foldl (fun n x => min (n + x.blocks) (0xFFFF_FFFF / perBlock)) 0

/-- Stage 5 (R312): of the units managed 7/8 is the capacity; the blocks of the other eighth, less the 1/256 of all blocks
that is the checkpoint region, are the initial spare. -/
def State.scanned (s : State) (targets : List NandTarget) (perBlock rated : Nat) : State :=
  let upb := max perBlock 1
  let blocks := managedBlocks upb targets
  let phys := blocks * upb
  let capacity := 7 * phys / 8
  let spare := blocks - ceilDiv capacity upb - blocks / 256
  let t := s.setReg Reg.FTL_PHYS_UNITS (BitVec.ofNat 64 phys)
  let t := t.setReg Reg.FTL_CAPACITY (BitVec.ofNat 64 capacity)
  let t := t.setFld Reg.FTL_SPARE Fld.FTL_SPARE_INITIAL spare
  let bad := (t.store.blocks.vals.filter fun b => b.state = .bad).length
  let t := t.setFld Reg.FTL_SPARE Fld.FTL_SPARE_NOW (spare - bad)
  let t := t.adjustSheep fun x => { x with nandFound := targets.map targetPlace }
  t.adjustStore fun st => { st with dataBlocks := blocks - blocks / 256, unitsPerBlock := upb, rated := max rated 1 }

/-- The first target recorded at the last Ready that the scan does not find (R372). -/
def State.targetMissing (s : State) (targets : List NandTarget) : Option Nat :=
  s.sheep.nandTargets.find? fun p => !(targets.any fun x => targetPlace x = p)

/-- Stage 6 (R314): replay finishes on the newest valid checkpoint. -/
def State.replayed (s : State) (failedCkpts : Nat) : State :=
  (s.replayStore failedCkpts).setBit Reg.FTL_STATE Fld.FTL_STATE_REPLAYED true

/-- Does replay find no valid checkpoint in a ring that held one (Table 14-6)? -/
def State.noCheckpoint (s : State) (failedCkpts : Nat) : Bool :=
  !s.store.ckpts.isEmpty && s.store.ckpts.length ≤ failedCkpts

/-- Ready (R372): the failed-start counter is cleared, and domains in which nothing is needed go off (R365). -/
def State.reachReady (s : State) : State :=
  let t := (s.setStage 8).setFld Reg.SHD_BOOT Fld.SHD_BOOT_FAILS 0
  let t := t.setBit Reg.FTL_STATE Fld.FTL_STATE_REPLAYED true
  let t := t.adjustSheep fun x =>
    { x with mode := .ready, recorded := none, switching := false, nandTargets := x.nandFound }
  t.settleImages

/-- The stage that runs is done: what it leaves, and the next stage. A firmware activation skips stages 4 to 6. -/
def State.stageDone (s : State) (other : Bool) : State :=
  let n := s.bootStage
  if n = 1 then
    let t := s.measure 0 Config.romDigest
    (if other then t.swapSlot else t).setStage 2
  else if n = 2 then s.stageTwo
  else if n = 3 then
    let t := (s.stageUp 3).measure 2 (Config.hubDigest (s.slotBytes s.bootSlot))
    t.setStage (if s.sheep.switching then 7 else 4)
  else if n = 6 then (s.setBit Reg.FTL_STATE Fld.FTL_STATE_REPLAYED true).setStage 7
  else if n = 7 then (s.stageUp 7).reachReady
  else (s.stageUp n).setStage (n + 1)

/-- How the running stage ended (R372). A result that belongs to another stage is not this stage's. -/
def State.stageEnded (s : State) (r : BootResult) : State :=
  let n := s.bootStage
  match r with
  | .done => if n = 5 || n = 6 then s else s.stageDone false
  | .doneOther => if n = 1 then s.stageDone true else s
  | .doneNand targets perBlock rated =>
    if n ≠ 5 then s
    else match s.targetMissing targets with
      | some place => s.failStart reasonNandMissing place
      | none => (s.scanned targets perBlock rated).stageDone false
  | .doneReplay failedCkpts consistent =>
    if n ≠ 6 then s
    else if !consistent || s.noCheckpoint failedCkpts then s.failStart reasonReplay 0
    else (s.replayed failedCkpts).stageDone false
  | .doneSelfTest ks => if n = 7 then (ks.foldl (fun t k => t.retireKennel k) s).stageDone false else s
  | .failed reason detail => s.failStart reason detail

/-- BOOT_STAGE_COMPLETE (R372). -/
def execBootStageComplete (result : BootResult) (s : State) : Host.Outcome State Fault Refusal :=
  act (fun s => if s.sheep.mode = .starting then s.stageEnded result else s) s

/-- BOOT_STAGE_TIMEOUT (R372). -/
def execBootStageTimeout (s : State) : Host.Outcome State Fault Refusal :=
  act (fun s => if s.sheep.mode = .starting then s.failStart reasonTimeout s.bootStage else s) s

end Sys2Proof.Machine
end

