-- ==== Sys2Proof/Machine/Sheepdog.lean ====
section
/-! DEFINITION. Sheepdog's sensors, limiters, alarms, energy and telemetry (R361, R366 to R371, R391). -/

namespace Sys2Proof.Machine

/-! ### Filters (R366) -/

/-- Put a value into a sorted list. -/
def insertSorted (x : Int) : List Int → List Int
  | [] => [x]
  | y :: ys => if x ≤ y then x :: y :: ys else y :: insertSorted x ys

/-- The list in order. -/
def sortInts (l : List Int) : List Int := l.foldl (fun acc x => insertSorted x acc) []

/-- Median of a list; of an even number of values the mean of the two in the middle (log entry 43). -/
def median (l : List Int) : Int :=
  let s := sortInts l
  let n := s.length
  if n % 2 = 1 then s.getD (n / 2) 0 else (s.getD (n / 2 - 1) 0 + s.getD (n / 2) 0) / 2

/-- Filtered values are kept in units of 2^-24. -/
def filterScale : Int := 2 ^ 24

/-- A sample passes the median of five and the IIR filter; the first sample sets the filter (log entry 43). -/
def Sensor.sample (x : Sensor) (raw : Int) : Sensor :=
  let raws := (raw :: x.raws).take 5
  let m := median raws * filterScale
  { raws := raws, value := if x.raws.isEmpty then m else x.value + (m - x.value) / 8 }

/-- A sensor's filtered value. -/
def Sensor.filtered (x : Sensor) : Int := x.value / filterScale

/-! ### Temperatures (R367, R370) -/

/-- Limits of Table 14-3 in hundredths of °C. -/
def State.tWarn (s : State) : Int := if s.part.extended then 11000 else 10000
def State.tThrottle (s : State) : Int := s.tWarn + 500
def State.tShutdown (s : State) : Int := s.tWarn + 1500

/-- Filtered temperatures of the sites that were sampled. -/
def State.siteTemps (s : State) : List (Nat × Int) := s.sheep.sites.entries.map fun e => (e.1, e.2.filtered)

/-- Is a temperature excluded, beside a median (R367)? -/
def excludedTemp (med t : Int) : Bool := t < -5000 || 15000 < t || t - med > 2000 || med - t > 2000

/-- The sites that count, and the number of excluded ones. -/
def State.goodSites (s : State) : List (Nat × Int) × Nat :=
  let temps := s.siteTemps
  let med := median (temps.map (·.2))
  let good := temps.filter fun e => !excludedTemp med e.2
  (good, temps.length - good.length)

/-- The hottest site that counts, the lowest number of equals. -/
def hottestOf : List (Nat × Int) → Option (Nat × Int)
  | [] => none
  | x :: xs => some (xs.foldl (fun best y => if best.2 < y.2 then y else best) x)

/-- The hottest temperature as decisions take it: T_THROTTLE while more than 8 sites are excluded (R367). -/
def State.hottest (s : State) : Option Int :=
  let g := s.goodSites
  if 8 < g.2 then some s.tThrottle else (hottestOf g.1).map (·.2)

/-- An alarm bit is set; a bit that was clear raises vector 10, coalesced (R370). -/
def State.alarm (s : State) (f : Fld) : State :=
  if s.bit Reg.SHD_ALARM f then s else (s.setBit Reg.SHD_ALARM f true).raiseCoalesced 0x2001 10

/-- Level of SMB_ALERT_N: low while any SHD_ALARM bit is set (R382). -/
def State.smbAlert (s : State) : Bool := s.reg Reg.SHD_ALARM = 0

/-- A two's-complement field of 16 bits. -/
def s16 (x : Int) : Nat := (BitVec.ofInt 16 x).toNat

/-- The registers show the temperatures. -/
def State.showTemps (s : State) : State :=
  let good := s.goodSites.1
  let t := s.siteTemps.foldl (fun t e =>
    (t.setFld (Reg.PWR_TEMP_SITE e.1) Fld.PWR_TEMP_SITE_CENTI_C (s16 e.2)).setBit (Reg.PWR_TEMP_SITE e.1) Fld.PWR_TEMP_SITE_EXCLUDED
      (!(good.any fun g => g.1 = e.1))) s
  match hottestOf good with
  | some h => (t.setFld Reg.PWR_TEMP_MAX Fld.PWR_TEMP_MAX_CENTI_C (s16 h.2)).setFld Reg.PWR_TEMP_MAX Fld.PWR_TEMP_MAX_SITE h.1
  | none => t

/-- T_SHUTDOWN (R370, R374): every domain but PD0 goes off, without quiescing; THERMTRIP_N falls. -/
def State.thermalDown (s : State) : State :=
  let t := s.warmEffects.setCause causeThermal
  let t := t.adjustSheep fun x => { x with mode := .thermalOff }
  { t with board := { t.board with thermtrip := false } }

/-- A temperature site is sampled (R366, R367, R370). -/
def State.sampleSite (s : State) (site : Nat) (raw : Int) : State :=
  let x := ((s.sheep.sites.find site).getD Sensor.idle).sample raw
  let t := (s.adjustSheep fun y => { y with sites := y.sites.insert site x }).showTemps
  let t := if t.goodSites.2 = 0 then t else t.alarm Fld.SHD_ALARM_SENSOR
  match t.hottest with
  | none => t
  | some h =>
    let t := t.adjustHealth fun x => x.read (t.uptime / 1000000000 + 1) h
    let t := if t.tWarn ≤ h then t.alarm Fld.SHD_ALARM_WARN else t
    if t.tShutdown ≤ h && t.sheep.mode ≠ .thermalOff && t.sheep.mode ≠ .held then t.thermalDown else t

/-- TEMPERATURE_SAMPLE (R366): `raw` is in hundredths of °C. -/
def execTemperatureSample (site : Fin 64) (raw : Int) (s : State) : Host.Outcome State Fault Refusal :=
  act (fun s => s.sampleSite site raw) s

/-- THERMAL_RESTART (R370): the hottest site has stayed below T_WARN − 10 °C for 10 s. -/
def execThermalRestart (s : State) : Host.Outcome State Fault Refusal :=
  act (fun s =>
    if s.sheep.mode = .thermalOff && (s.hottest.any fun h => h < s.tWarn - 1000) then
      s.beginStart 2
    else s) s

/-! ### Rails and power (R366, R361) -/

/-- Filtered package power in mW: the sum of the rails' filtered voltages and currents. -/
def State.power (s : State) : Nat :=
  let w := s.sheep.volts.entries.map fun e =>
    e.2.filtered * ((s.sheep.amps.find e.1).getD Sensor.idle).filtered
  (w.foldl (· + ·) 0 / 1000).toNat

/-- PWR_DROOP in force: 600 to 900 mV. -/
def State.droopLevel (s : State) : Int := max 600 (min 900 (s.fld Reg.PWR_DROOP Fld.PWR_DROOP_MV : Int))

/-- Rail number of VDD_CORE in the order of Table 15-2. -/
def railCore : Nat := 2

/-- The ceilings of the limiters (R369). -/
inductive Limiter where
  | cap
  | thermal
  | droop
deriving DecidableEq, Repr

def Limiter.field : Limiter → Fld
  | .cap => Fld.PWR_PLAN_CAP
  | .thermal => Fld.PWR_PLAN_THERMAL
  | .droop => Fld.PWR_PLAN_DROOP

def Limiter.alarm : Limiter → Fld
  | .cap => Fld.SHD_ALARM_CAP
  | .thermal => Fld.SHD_ALARM_THERMAL
  | .droop => Fld.SHD_ALARM_DROOP

/-- A limiter lowers its ceiling by 1, never below 4, and sets its alarm (R369). -/
def State.lower (s : State) (l : Limiter) : State :=
  let c := s.fld Reg.PWR_PLAN l.field
  if c ≤ 4 then s else ((s.setFld Reg.PWR_PLAN l.field (c - 1)).settlePlan).alarm l.alarm

/-- A limiter raises its ceiling by 1, up to 16. -/
def State.lift (s : State) (l : Limiter) : State :=
  let c := s.fld Reg.PWR_PLAN l.field
  if 16 ≤ c then s else (s.setFld Reg.PWR_PLAN l.field (c + 1)).settlePlan

/-- A rail is sampled: when the filtered voltage of VDD_CORE falls below PWR_DROOP the droop limiter lowers at once
(Table 14-2, R380). -/
def State.sampleRail (s : State) (rail mv ma : Nat) : State :=
  let v := (s.sheep.volts.find rail).getD Sensor.idle
  let a := (s.sheep.amps.find rail).getD Sensor.idle
  let v' := v.sample mv
  let t := s.adjustSheep fun x => { x with volts := x.volts.insert rail v', amps := x.amps.insert rail (a.sample ma) }
  let p := t.power
  let t := (t.adjustSheep fun x => { x with windowSum := x.windowSum + p, windowCount := x.windowCount + 1 }).setFld
    Reg.PWR_POWER Fld.PWR_POWER_MW p
  if rail = railCore && v'.filtered < s.droopLevel && (v.raws.isEmpty || s.droopLevel ≤ v.filtered) then t.lower .droop else t

/-- RAIL_SAMPLE (R366). -/
def execRailSample (rail : Fin 9) (millivolts milliamps : Nat) (s : State) : Host.Outcome State Fault Refusal :=
  act (fun s => s.sampleRail rail millivolts milliamps) s

/-- CAP_LIMITER_STEP (R369): 10 ms above the cap, or 100 ms below 0.95 of it, have passed. -/
def State.capStep (s : State) : State :=
  let cap := 1000 * s.fld Reg.PWR_CAP Fld.PWR_CAP_WATTS
  if cap < s.power then s.lower .cap else if 100 * s.power < 95 * cap then s.lift .cap else s

/-- CAP_LIMITER_STEP (R369). -/
def execCapLimiterStep (s : State) : Host.Outcome State Fault Refusal := act (fun s => s.capStep) s

/-- THERMAL_LIMITER_STEP (R369). -/
def State.thermalStep (s : State) : State :=
  match s.hottest with
  | none => s
  | some h => if s.tThrottle ≤ h then s.lower .thermal else if h < s.tThrottle - 500 then s.lift .thermal else s

/-- THERMAL_LIMITER_STEP (R369). -/
def execThermalLimiterStep (s : State) : Host.Outcome State Fault Refusal := act (fun s => s.thermalStep) s

/-- DROOP_LIMITER_STEP (R369): 64 or more islands stretched within a millisecond, or 100 ms passed without an event. -/
def execDroopLimiterStep (event : Bool) (s : State) : Host.Outcome State Fault Refusal :=
  act (fun s => if event then s.lower .droop else s.lift .droop) s

/-! ### Energy and coarse readings (R361, R371) -/

/-- Energy of a job: a confidential hedge's counter advances by whole steps of 0.5 J. -/
def State.addEnergy (s : State) (slot uj : Nat) (confidential : Bool) : State :=
  let all := (s.sheep.energy.find slot).getD 0 + uj
  let shown := if confidential then all / 500000 * 500000 else all
  (s.adjustSheep fun x => { x with energy := x.energy.insert slot (all - shown) }).bump (Reg.PWR_JOB_ENERGY slot)
    Fld.PWR_JOB_ENERGY_UJ shown

/-- Whose confidentiality coarsens a counter (R361). -/
inductive CoarseScope where
  | device
  | job (slot : Nat)
  | pool (k : Nat)
deriving DecidableEq, Repr

/-- Element of an array of 64 registers with stride 0x40 that starts at a base. -/
def elementOf (base off : Nat) : Option Nat :=
  if base ≤ off && (off - base) % 0x40 = 0 && (off - base) / 0x40 < 64 then some ((off - base) / 0x40) else none

/-- The counters that R361 lists. -/
def coarseCounter (off : Nat) : Option CoarseScope :=
  let job := fun (r : Nat → Nat) => (elementOf (r 0) off).map CoarseScope.job
  if off = Reg.TOK_VCACHE_HITS || off = Reg.TOK_VCACHE_MISSES || off = Reg.BRI_STORED_BLOCKS ||
      (List.range 7).any (fun i => off = Reg.PLT_COUNTER i) then some .device
  else (((job Reg.TOK_TOKENS).or (job Reg.TOK_FALLBACK)).or ((job Reg.TOK_REPLACED).or (job Reg.DEC_DAMAGED))).or
    (((job Reg.DEC_SPLIT).or (job Reg.PLT_JOB_BYTES)).or ((elementOf (Reg.POOL_WAITS 0) off).map CoarseScope.pool))

/-- Is a counter coarsened now? -/
def State.coarsened (s : State) : CoarseScope → Bool
  | .device => s.anyConfidential
  | .job n => s.confidential (((s.jobs.find n).map (·.desc.hedge)).getD 0)
  | .pool k => s.confidential (s.fld (Reg.POOL_CFG k) Fld.POOL_CFG_HEDGE)

/-- What a coarsened counter reads. -/
def State.coarseValue (s : State) (off : Nat) : Word64 :=
  BitVec.ofNat 64 ((((s.sheep.sampled.find off).getD 0).toNat / 65536) * 65536)

/-- POWER_WINDOW_BOUNDARY (R361, R371): the mean of the window that ends, rounded down to 5 W, and the energy of the
window, which the spec gives only as metered: free values, for each job and for what no job is charged with. -/
def State.powerWindow (s : State) : State :=
  let mean := if s.sheep.windowCount = 0 then s.power else s.sheep.windowSum / s.sheep.windowCount
  let t := s.adjustSheep fun x => { x with shownMw := mean / 5000 * 5000, windowSum := 0, windowCount := 0 }
  let t := s.jobs.entries.foldl (fun t e => (t.addEnergy e.1 t.freeValue (t.confidential e.2.desc.hedge)).drew) t
  (t.bump Reg.PWR_UNATTRIBUTED Fld.PWR_UNATTRIBUTED_UJ t.freeValue).drew

/-- POWER_WINDOW_BOUNDARY (R361). -/
def execPowerWindowBoundary (s : State) : Host.Outcome State Fault Refusal := act (fun s => s.powerWindow) s

/-- COUNTER_SAMPLE_BOUNDARY (R361): the counters that are coarsened are sampled. -/
def execCounterSampleBoundary (s : State) : Host.Outcome State Fault Refusal :=
  act (fun s => s.adjustSheep fun x => { x with sampled := s.regs.keep fun k _ => (coarseCounter k).isSome }) s

/-! ### SMBus (R391) -/

/-- PWR_POWER as it is reported: coarse while any hedge is confidential (R361). -/
def State.shownPower (s : State) : Nat :=
  if s.anyConfidential then s.sheep.shownMw else s.fld Reg.PWR_POWER Fld.PWR_POWER_MW

/-- The register that a command code names. -/
def State.smbusValue (s : State) (code : Nat) : Option Nat :=
  match code with
  | 0 => some (s.reg Reg.SHD_BOOT).toNat
  | 1 => some (s.reg Reg.PWR_TEMP_MAX).toNat
  | 2 => some s.shownPower
  | 3 => some (s.reg Reg.SHD_ALARM).toNat
  | _ => none

/-- SMBUS_BLOCK_READ (R391): 4 bytes, lowest first; an unlisted code is NACKed. -/
def execSmbusBlockRead (code : Byte) (s : State) : Host.Outcome State Fault Refusal :=
  act (fun s =>
    if s.sheep.mode = .held then s
    else { s with board := { s.board with smbus := (s.smbusValue code.toNat).map (leBytes 4) } }) s

/-- SMBUS_REJECT (R391): a NACK. -/
def execSmbusReject (s : State) : Host.Outcome State Fault Refusal :=
  act (fun s => { s with board := { s.board with smbus := none } }) s

end Sys2Proof.Machine
end

