-- ==== Sys2Proof/Machine/Management.lean ====
section
/-! DEFINITION. The management commands of the block store (R318 to R320, Table 11-6) and of Sheepdog (R373 to R375,
Table 14-8), and the switch of firmware that an activation ends in. -/

namespace Sys2Proof.Machine

/-! ### Namespaces and keys (Table 11-6) -/

/-- A key slot of a namespace takes a generation and a state. -/
def State.setKeySlot (s : State) (n slot gen state : Nat) : State :=
  (s.setFld (Reg.FTL_NS_KEY n slot) Fld.FTL_NS_KEY_GEN gen).setFld (Reg.FTL_NS_KEY n slot) Fld.FTL_NS_KEY_STATE state

/-- A generation becomes ACTIVE in a slot, with a new key that the device generates (Table 13-1). -/
def State.newGeneration (s : State) (n slot gen : Nat) : State :=
  ((s.setKeySlot n slot gen keyActive).adjustSecurity fun x =>
    { x with keys := x.keys.insert (atRestKeyId n gen) ⟨0, 0, Config.atRestKey n gen s.free⟩ }).drew

/-- A namespace is created (R320): empty, with generation 1 ACTIVE where it is encrypted. -/
def State.createNs (s : State) (n size : Nat) (encrypt : Bool) : State :=
  let t := (s.setBit (Reg.FTL_NS_STATE n) Fld.FTL_NS_STATE_PRESENT true).setBit (Reg.FTL_NS_STATE n) Fld.FTL_NS_STATE_ENCRYPT encrypt
  let t := t.setReg (Reg.FTL_NS_SIZE n) (BitVec.ofNat 64 size)
  let t := t.adjustStore fun st => { st with namespaces := st.namespaces.insert n ⟨none, Tab.empty⟩ }
  let t := if encrypt then t.newGeneration n 0 1 else t
  (t.showNs n).settleOwners

/-- Units of every namespace that exists. -/
def State.unitsGiven (s : State) : Nat := s.nsList.foldl (fun sum m => sum + s.nsSize m) 0

/-- BLK_NS_CREATE (R320). -/
def nsCreateBody (e : Envelope) (s : State) : Answer :=
  let n := fieldAt e.args 0 4
  let size := fieldAt e.args 4 8
  if n = 0 || 64 < n then s.answers ST_NS_INVALID
  else if s.nsPresent n then s.answers ST_NS_EXISTS
  else if s.fld Reg.FTL_CAPACITY Fld.FTL_CAPACITY_UNITS < s.unitsGiven + size then s.answers ST_NS_CAPACITY
  else (s.createNs n size (fieldAt e.args 12 1 = 1)).answers ST_OK

/-- BLK_NS_CREATE (R320). -/
def execBlkNsCreate (src : MgmtSource) (s : State) : Host.Outcome State Fault Refusal := mgmtRow src cmdNsCreate nsCreateBody s

/-- A namespace is deleted (R320): its units are unmapped, its generations destroyed, and its registers return to their
reset values. -/
def State.deleteNs (s : State) (n : Nat) : State :=
  let t := s.unmapUnits n 0 (s.nsSize n) unitFormatRec
  let t := t.adjustStore fun st => { st with namespaces := st.namespaces.erase n, sweeps := st.sweeps.erase n }
  let lo := atRestKeyId n 0
  let t := t.adjustSecurity fun x => { x with keys := x.keys.keep fun k _ => !(lo ≤ k && k < lo + 0x1_0000) }
  t.clearRegs (Reg.FTL_NS_STATE n) (Reg.FTL_NS_STATE (n + 1))

/-- BLK_NS_DELETE (R320). -/
def nsDeleteBody (e : Envelope) (s : State) : Answer :=
  let n := fieldAt e.args 0 4
  if !s.nsPresent n then s.answers ST_NS_INVALID
  else if (s.claimOwner 0x09 n).isSome then s.answers ST_BUSY_CLAIMED
  else if s.store.cmds.vals.any fun c => c.nsid = n then s.answers ST_NS_BUSY
  else (s.deleteNs n).answers ST_OK

/-- BLK_NS_DELETE (R320). -/
def execBlkNsDelete (src : MgmtSource) (s : State) : Host.Outcome State Fault Refusal := mgmtRow src cmdNsDelete nsDeleteBody s

/-- Is a namespace encrypted? -/
def State.nsEncrypted (s : State) (n : Nat) : Bool := s.bit (Reg.FTL_NS_STATE n) Fld.FTL_NS_STATE_ENCRYPT

/-- Slots of a namespace in a state. -/
def State.slotsIn (s : State) (n state : Nat) : List (Nat × Nat × Nat) := (s.keySlots n).filter fun k => k.2.2 = state

/-- The generation after one (R318). -/
def nextGen (gen : Nat) : Nat := if gen = 65535 then 1 else gen + 1

/-- The key of a namespace is rotated into a free slot (R319). -/
def State.rotateKey (s : State) (n slot : Nat) : State :=
  let old := s.activeGen n
  let t := (s.slotsIn n keyActive).foldl (fun t k => t.setFld (Reg.FTL_NS_KEY n k.1) Fld.FTL_NS_KEY_STATE keyRetiring) s
  (t.newGeneration n slot (nextGen old)).showNs n

/-- BLK_KEY_ROTATE (R319). -/
def keyRotateBody (e : Envelope) (s : State) : Answer :=
  let n := fieldAt e.args 0 4
  if !s.nsPresent n then s.answers ST_NS_INVALID
  else if !s.nsEncrypted n then s.answers ST_KEY_STATE
  else match s.slotsIn n keyFree with
    | [] => s.answers ST_KEY_SLOTS
    | k :: _ => (s.rotateKey n k.1).answers ST_OK

/-- BLK_KEY_ROTATE (R319). -/
def execBlkKeyRotate (src : MgmtSource) (s : State) : Host.Outcome State Fault Refusal := mgmtRow src cmdKeyRotate keyRotateBody s

/-- A sweep starts at a share of the program time (R319). -/
def State.startSweep (s : State) (n share : Nat) : State :=
  ([0, 1, 2, 3].foldl (fun (t : State) (k : Nat) => t.setBit (Reg.FTL_NS_KEY n k) Fld.FTL_NS_KEY_SWEEP true) s).adjustStore fun st =>
    { st with sweeps := st.sweeps.insert n share }

/-- BLK_KEY_SWEEP (R319). -/
def keySweepBody (e : Envelope) (s : State) : Answer :=
  let n := fieldAt e.args 0 4
  if !s.nsPresent n then s.answers ST_NS_INVALID
  else if !s.nsEncrypted n || (s.slotsIn n keyRetiring).isEmpty then s.answers ST_KEY_STATE
  else (s.startSweep n (fieldAt e.args 4 1)).answers ST_OK

/-- BLK_KEY_SWEEP (R319). -/
def execBlkKeySweep (src : MgmtSource) (s : State) : Host.Outcome State Fault Refusal := mgmtRow src cmdKeySweep keySweepBody s

/-- Is a generation still named by a valid unit, or by a read in progress (R319)? -/
def State.genInUse (s : State) (n slot gen : Nat) : Bool :=
  s.reg (Reg.FTL_NS_KEY_PAGES n slot) ≠ 0 || s.store.cmds.vals.any fun c => c.nsid = n && c.gens.contains gen

/-- A generation is destroyed: its key is erased and its slot freed (R319). -/
def State.destroyGen (s : State) (n slot gen : Nat) : State :=
  (s.adjustSecurity fun x => { x with keys := x.keys.erase (atRestKeyId n gen) }).setKeySlot n slot 0 keyFree

/-- BLK_KEY_DESTROY (R319). -/
def keyDestroyGenBody (e : Envelope) (s : State) : Answer :=
  let n := fieldAt e.args 0 4
  let gen := fieldAt e.args 4 2
  if !s.nsPresent n then s.answers ST_NS_INVALID
  else match (s.slotsIn n keyRetiring).find? fun k => k.2.1 = gen with
    | none => s.answers ST_KEY_STATE
    | some k => if s.genInUse n k.1 gen then s.answers ST_KEY_IN_USE else (s.destroyGen n k.1 gen).answers ST_OK

/-- BLK_KEY_DESTROY (R319). -/
def execBlkKeyDestroy (src : MgmtSource) (s : State) : Host.Outcome State Fault Refusal :=
  mgmtRow src cmdKeyDestroyGen keyDestroyGenBody s

/-! ### Firmware (R373, R375) -/

/-- Data of the inactive slot is replaced from an offset; what was verified before no longer counts. -/
def State.stageFirmware (s : State) (offset : Nat) (data : Bytes) : State :=
  s.adjustSheep fun x =>
    if s.bootSlot = 0 then { x with slotB := spliceAt x.slotB offset data, staged := false }
    else { x with slotA := spliceAt x.slotA offset data, staged := false }

/-- SHD_FW_STAGE (R375): the signature is verified at FINAL, which is any value but 0 (log entry 42). -/
def fwStageBody (e : Envelope) (s : State) : Answer :=
  let t := s.stageFirmware (fieldAt e.args 0 4) (e.args.drop 8)
  if fieldAt e.args 4 1 = 0 then t.answers ST_OK
  else if Config.firmwareSigned (t.slotBytes (1 - t.bootSlot)) then (t.adjustSheep fun x => { x with staged := true }).answers ST_OK
  else t.answers ST_FW_IMAGE

/-- SHD_FW_STAGE (R375). -/
def execShdFwStage (src : MgmtSource) (s : State) : Host.Outcome State Fault Refusal := mgmtRow src cmdFwStage fwStageBody s

/-- Is a job RUNNING or DRAINING? -/
def State.anyJobActive (s : State) : Bool := (List.range 64).any fun n => s.jobActive n

/-- Does the staged firmware have another determinism class than the running one (R203)? -/
def State.classDiffers (s : State) : Bool :=
  BitVec.setWidth 64 (Config.firmwareClass (s.slotBytes (1 - s.bootSlot))) ≠ s.reg Reg.HEEL_DCLASS

/-- SHD_FW_ACTIVATE (R203, R375): the block store is quiesced first; FIRMWARE_SWITCH follows. -/
def fwActivateBody (_ : Envelope) (s : State) : Answer :=
  if !s.sheep.staged then s.answers ST_FW_NONE
  else if s.anyJobActive then s.answers ST_FW_BUSY
  else if !s.images.entries.isEmpty && s.classDiffers then s.answers ST_DCLASS_BUSY
  else s.quiesceStore.answers ST_OK

/-- SHD_FW_ACTIVATE (R375). -/
def execShdFwActivate (src : MgmtSource) (s : State) : Host.Outcome State Fault Refusal := mgmtRow src cmdFwActivate fwActivateBody s

/-- The firmware switches (R308, R375): once every command has ended a checkpoint is programmed, the staged slot becomes
the active one and the device restarts from stage 2. Images, READY jobs, claims and DRAM stay; a device that was
Ready skips stages 4 to 6. -/
def State.switchFirmware (s : State) : State :=
  let ready : Bool := s.sheep.mode = .ready
  let t := if ready then s.startCheckpoint.endCheckpoint s.store.checkpoint else s
  let t := (t.endSweeps.adjustStore fun st => { st with activating := false }).swapSlot
  let t := t.adjustSheep fun x => { x with staged := false, otherSlot := false, switching := ready }
  (t.setCause causeActivation).beginStart 2

/-- FIRMWARE_SWITCH (R375). -/
def execFirmwareSwitch (s : State) : Host.Outcome State Fault Refusal :=
  act (fun s => if s.store.activating && s.store.cmds.entries.isEmpty then s.switchFirmware else s) s

/-- SHD_RESET (R374, R375): the result is posted, then the reset acts (log entry 42). -/
def resetBody (e : Envelope) (s : State) : Answer :=
  ⟨s, ST_OK, [], fun t => if fieldAt e.args 0 1 = 1 then t.warmDown.beginStart 2 else t.controllerReset⟩

/-- SHD_RESET (R375). -/
def execShdReset (src : MgmtSource) (s : State) : Host.Outcome State Fault Refusal := mgmtRow src cmdReset resetBody s

/-- SHD_FALLBACK_EXIT (R373, R375): the counter is cleared, and the device restarts from stage 1. -/
def fallbackExitBody (_ : Envelope) (s : State) : Answer :=
  ⟨s.setFld Reg.SHD_BOOT Fld.SHD_BOOT_FAILS 0, ST_OK, [], fun t => t.warmEffects.beginStart 1⟩

/-- SHD_FALLBACK_EXIT (R373). -/
def execShdFallbackExit (src : MgmtSource) (s : State) : Host.Outcome State Fault Refusal :=
  mgmtRow src cmdFallbackExit fallbackExitBody s

/-! ### Power and features (R41, R48, R369, R384) -/

/-- PWR_SET_CAP (Table 14-8). -/
def setCapBody (e : Envelope) (s : State) : Answer :=
  (s.setFld Reg.PWR_CAP Fld.PWR_CAP_WATTS (fieldAt e.args 0 2)).answers ST_OK

/-- PWR_SET_CAP (R375). -/
def execPwrSetCap (src : MgmtSource) (s : State) : Host.Outcome State Fault Refusal := mgmtRow src cmdSetCap setCapBody s

/-- PWR_SET_PLAN_MAX (R49, Table 14-8). -/
def setPlanMaxBody (e : Envelope) (s : State) : Answer :=
  ((s.adjustSheep fun x => { x with planMax := fieldAt e.args 0 1 }).settlePlan).answers ST_OK

/-- PWR_SET_PLAN_MAX (R375). -/
def execPwrSetPlanMax (src : MgmtSource) (s : State) : Host.Outcome State Fault Refusal := mgmtRow src cmdSetPlanMax setPlanMaxBody s

/-- FUNCTION of a diagnostic timer. -/
def featureTimer : Nat := 0x80

/-- Is a function code one of Table 15-4? -/
def pinFunctionListed (f : Nat) : Bool := f ≤ 6 || (0x10 ≤ f && f ≤ 0x37)

/-- Does management hold a pin with a function? -/
def State.managementPin (s : State) (pin f : Nat) : Bool :=
  s.claimOwner 0x01 pin = some ownerManagement && s.pinFunction pin = f

/-- Is a timer program within Table 2-15, its pulse on a pin that management holds with TIMER_OUT (R375)? -/
def State.timerProgramOk (s : State) (b : Bytes) : Bool :=
  let p := timerProgramAt b 0
  (firstBroken b 0 [fr 0 1 0 3, anyField 1 1, rz 2 2, anyField 4 4, fr 8 8 0 (2 ^ 48 - 1), fr 0x10 4 0 999999999,
    fr 0x14 4 1000 4000000000, rz 0x18 8]).isNone &&
    (if p.pulse then p.pin ≤ 15 && s.managementPin p.pin 6 && 10 ≤ p.widthNs && p.widthNs + 10 ≤ p.periodNs
     else p.pin = 0xFF && p.widthNs = 0)

/-- The gates of the port whose gate a pin shows are put onto the pin. -/
def State.settleGatePin (s : State) (f : Nat) : State := if 0x10 ≤ f then s.recomputeGates ((f - 0x10) / 8) else s

/-- A pin takes or gives up a function for management (R41, R385). -/
def State.featurePin (s : State) (f pin : Nat) (enable : Bool) : Answer :=
  if enable then
    if (s.claimOwner 0x01 pin).isSome then s.answers ST_BUSY_CLAIMED
    else
      (((s.addClaim 0x01 pin ownerManagement).adjustPin pin fun _ =>
        { Pin.free with function := f, owner := ownerManagement }).settleGatePin f).answers ST_OK
  else if s.managementPin pin f then
    ((s.dropClaim 0x01 pin ownerManagement).adjustPin pin fun _ => Pin.free).answers ST_OK
  else s.answers ST_OK

/-- A diagnostic epoch timer is enabled or disabled (R41, R48). -/
def State.featureTimerOf (s : State) (i : Nat) (enable : Bool) (program : Bytes) : Answer :=
  if enable then
    if !s.timerProgramOk program then s.answers ST_PWR_RANGE
    else if (s.claimOwner 0x02 i).isSome then s.answers ST_BUSY_CLAIMED
    else ((s.addClaim 0x02 i ownerManagement).startTimer i (timerProgramAt program 0) ownerManagement).answers ST_OK
  else if s.claimOwner 0x02 i = some ownerManagement then
    ((s.dropClaim 0x02 i ownerManagement).stopTimer i).answers ST_OK
  else s.answers ST_OK

/-- SHD_FEATURE (R41, Table 14-8). Disabling what management does not hold changes nothing (log entry 42). -/
def featureBody (e : Envelope) (s : State) : Answer :=
  let f := fieldAt e.args 0 1
  let i := fieldAt e.args 1 1
  let enable : Bool := fieldAt e.args 2 1 = 1
  if f = featureTimer then if 8 ≤ i then s.answers ST_PWR_RANGE else s.featureTimerOf i enable (e.args.drop 4)
  else if !pinFunctionListed f || 16 ≤ i then s.answers ST_PWR_RANGE
  else s.featurePin f i enable

/-- SHD_FEATURE (R41). -/
def execShdFeature (src : MgmtSource) (s : State) : Host.Outcome State Fault Refusal := mgmtRow src cmdFeature featureBody s

/-- SHD_DIAG (Table 14-8): three registers of 32 bits, little-endian. -/
def diagBody (_ : Envelope) (s : State) : Answer :=
  ⟨s, ST_OK, [Reg.SHD_BOOT, Reg.SHD_BOOT_DETAIL, Reg.SHD_RESET_CAUSE].flatMap fun r => leBytes 4 (s.reg r).toNat, id⟩

/-- SHD_DIAG (R375). -/
def execShdDiag (src : MgmtSource) (s : State) : Host.Outcome State Fault Refusal := mgmtRow src cmdDiag diagBody s

/-! ### Any envelope -/

/-- The command that a code names. -/
def commandBody (code : Nat) : Envelope → State → Answer :=
  if code = cmdFwStage then fwStageBody else if code = cmdFwActivate then fwActivateBody
  else if code = cmdReset then resetBody else if code = cmdFallbackExit then fallbackExitBody
  else if code = cmdSetCap then setCapBody else if code = cmdSetPlanMax then setPlanMaxBody
  else if code = cmdFeature then featureBody else if code = cmdDiag then diagBody
  else if code = cmdNsCreate then nsCreateBody else if code = cmdNsDelete then nsDeleteBody
  else if code = cmdKeyRotate then keyRotateBody else if code = cmdKeySweep then keySweepBody
  else if code = cmdKeyDestroyGen then keyDestroyGenBody else if code = cmdAttest then attestBody
  else if code = cmdKeyImport then keyImportBody else if code = cmdKeyDestroy then keyDestroyBody
  else if code = cmdHedgeOwner then hedgeOwnerBody else if code = cmdAnchorSet then anchorSetBody
  else if code = cmdCertRead then certReadBody
  else fun _ s => s.answers ST_SEC_SCOPE

/-- GO of the mailbox runs whatever envelope stands in the window (R375). -/
def State.mailboxGo (s : State) : State :=
  match s.mgmtBytes .mailbox with
  | some b => s.mgmtRun .mailbox b (commandBody (fieldAt b 4 2))
  | none => s

end Sys2Proof.Machine
end

