-- ==== Sys2Proof/Machine/HostAccess.lean ====
section
/-! DEFINITION. The host's accesses to BAR0 (R10 to R13): what a write does to each register, and what a read returns. -/

namespace Sys2Proof.Machine

/-! ### Writes by access type (Table 0-4) -/

/-- One field of a register after a write of a word, as its access type states. -/
def FieldDesc.written (f : FieldDesc) (old v : Word64) : Nat :=
  let o := natField old.toNat f.fld.lo f.fld.len
  let w := natField v.toNat f.fld.lo f.fld.len
  match f.access with
  | .rw => w
  | .w1c => (BitVec.ofNat 64 o &&& ~~~(BitVec.ofNat 64 w)).toNat
  | .w1s => (BitVec.ofNat 64 o ||| BitVec.ofNat 64 w).toNat
  | .ro | .wo => o

/-- A register after a write of a word; bits in no field are RsvdZ and stay as they are (R11). -/
def RegDesc.written (d : RegDesc) (old v : Word64) : Word64 :=
  d.fields.foldl (fun (x : Word64) (f : FieldDesc) => putFld f.fld x (f.written old v)) old

/-- A write that acts as the access types state. -/
def State.plainWrite (s : State) (off : Nat) (d : RegDesc) (v : Word64) : State := s.setReg off (d.written (s.reg off) v)

/-! ### Registers whose writes do more -/

/-- A write of ENL_LOAD_CTRL (R53). -/
def State.loadCtrlWrite (s : State) (v : Word64) : State :=
  let op := getFld Fld.ENL_LOAD_CTRL_OP v
  let h := getFld Fld.ENL_LOAD_CTRL_HEDGE v
  let t := (s.setFld Reg.ENL_LOAD_CTRL Fld.ENL_LOAD_CTRL_OP op).setFld Reg.ENL_LOAD_CTRL Fld.ENL_LOAD_CTRL_HEDGE h
  if getFld Fld.ENL_LOAD_CTRL_GO v = 1 then t.loadGo op h else t

/-- A write of ENL_JOB_CTRL (R58). -/
def State.jobCtrlWrite (s : State) (slot : Nat) (v : Word64) : State :=
  match getFld Fld.ENL_JOB_CTRL_CMD v with
  | 1 => (s.accept slot).heelSettle
  | 2 => (s.start slot).heelSettle
  | 3 => (s.stop slot).heelSettle
  | 4 => (s.abort slot).heelSettle
  | 5 => (s.clearSlot slot).heelSettle
  | _ => s

/-- A write of DMA_CH_CTRL: HOLD and DESC_SPACE first, then ABORT and GO (R251, R258, log entry 44). -/
def State.dmaCtrlWrite (s : State) (ch : Nat) (v : Word64) : State :=
  let t := if getFld Fld.DMA_CH_CTRL_HOLD v = 1 then s.dmaHold ch else s.dmaRelease ch
  let t := t.setFld (Reg.DMA_CH_CTRL ch) Fld.DMA_CH_CTRL_DESC_SPACE (getFld Fld.DMA_CH_CTRL_DESC_SPACE v)
  let t := if getFld Fld.DMA_CH_CTRL_ABORT v = 1 then t.dmaAbort ch else t
  if getFld Fld.DMA_CH_CTRL_GO v = 1 then t.dmaGo ch else t

/-- A write of BRI_ENG_CTRL, in the same order (R291, R296). -/
def State.briCtrlWrite (s : State) (e : Nat) (v : Word64) : State :=
  let t := if getFld Fld.BRI_ENG_CTRL_HOLD v = 1 then s.briHold e else s.briDrop e
  let t := if getFld Fld.BRI_ENG_CTRL_ABORT v = 1 then t.briAbort e else t
  if getFld Fld.BRI_ENG_CTRL_GO v = 1 then t.briGo e else t

/-- A write of CHK_CTRL: HOLD first, then ENABLE and PAUSE where they change; ignored for a unit that an image claims
(R269). -/
def State.chkCtrlWrite (s : State) (u : Nat) (v : Word64) : State :=
  if s.chkClaimed u then s
  else if getFld Fld.CHK_CTRL_HOLD v = 0 then s.chkRelease u
  else
    let t := s.chkHold u
    let on : Bool := getFld Fld.CHK_CTRL_ENABLE v = 1
    let t := if on = t.chkOn u then t else if on then t.chkEnable u else t.chkDisable u
    let pause : Bool := getFld Fld.CHK_CTRL_PAUSE v = 1
    if pause = t.bit (Reg.CHK_CTRL u) Fld.CHK_CTRL_PAUSE then t else if pause then t.chkPause u else t.chkResume u

/-- A write of a field that a command of a TRS holds: ignored while it is PENDING or STARTED (R300). What stands in RsvdZ
bits reads as zero and counts only for the check of R301 (log entry 56). -/
def State.trsFieldWrite (s : State) (t off : Nat) (d : RegDesc) (v : Word64) : State :=
  if s.trsState t = trsPending || s.trsState t = trsStarted then s
  else s.setReg off (if d.wide then v else BitVec.ofNat 64 (v.toNat % 2 ^ 32))

/-- A write of TRS_CTRL (R300). -/
def State.trsCtrlWrite (s : State) (t : Nat) (v : Word64) : State :=
  let u := s.setFld (Reg.TRS_CTRL t) Fld.TRS_CTRL_IRQ (getFld Fld.TRS_CTRL_IRQ v)
  if getFld Fld.TRS_CTRL_GO v = 1 then u.trsGo t else u

/-- A write of SHD_MBX_CTRL (R375). -/
def State.mailboxCtrlWrite (s : State) (v : Word64) : State :=
  let t := s.setFld Reg.SHD_MBX_CTRL Fld.SHD_MBX_CTRL_LEN (getFld Fld.SHD_MBX_CTRL_LEN v)
  if getFld Fld.SHD_MBX_CTRL_GO v = 1 then t.mailboxGo else t

/-- Does a register hold what a TRS command is made of? -/
def trsField (base : Nat) : Bool :=
  base = Reg.TRS_OPCODE 0 || base = Reg.TRS_NSID 0 || base = Reg.TRS_LBA 0 || base = Reg.TRS_COUNT 0 || base = Reg.TRS_HOST_ADDR 0

/-- A write of the engines and of the block store that does more than its access types state. -/
def State.unitWrite (s : State) (off : Nat) (d : RegDesc) (v : Word64) : Option State :=
  let b := d.base
  let i := (off - b) / 0x40
  if b = Reg.DMA_CH_CTRL 0 then some (s.dmaCtrlWrite i v)
  else if b = Reg.DMA_CH_LEASH 0 then
    let share := getFld Fld.DMA_CH_LEASH_SHARE v
    some (s.setFld off Fld.DMA_CH_LEASH_SHARE (if share = 0 then 256 else share))
  else if b = Reg.BRI_ENG_CTRL 0 then some (s.briCtrlWrite i v)
  else if b = Reg.CHK_CTRL 0 then some (s.chkCtrlWrite i v).drainStalled
  else if b = Reg.CHK_CFG 0 then some (s.chkConfigWrite i false v)
  else if b = Reg.CHK_FILTER 0 then some (s.chkConfigWrite i true v)
  else if b = Reg.CHK_RUNNING 0 then some (s.chkStateWrite i false v)
  else if b = Reg.CHK_BYTES 0 then some (s.chkStateWrite i true v)
  else if trsField b then some (s.trsFieldWrite i off d v)
  else if b = Reg.TRS_CTRL 0 then some (s.trsCtrlWrite i v)
  else if b = Reg.TRS_RESET then some (if getFld Fld.TRS_RESET_GO v = 1 then s.controllerReset else s)
  else if b = Reg.FTL_HEALTH_SNAP then some (if getFld Fld.FTL_HEALTH_SNAP_SNAP v = 1 then s.healthSnap else s)
  else none

/-- A write of the job, queue, session, port, fleet and Sheepdog registers that does more. -/
def State.jobWrite (s : State) (off : Nat) (d : RegDesc) (v : Word64) : Option State :=
  let b := d.base
  let i := off - b
  if b = Reg.ENL_LOAD_CTRL then some (s.loadCtrlWrite v)
  else if b = Reg.ENL_JOB_CTRL 0 then some (s.jobCtrlWrite (i / 0x20) v)
  else if b = Reg.DEC_DMG_SIZE 0 then
    let n := getFld Fld.DEC_DMG_SIZE_LOG2 v
    some (s.setFld off Fld.DEC_DMG_SIZE_LOG2 (if 6 ≤ n && n ≤ 20 then n else 6))
  else if b = Reg.PBQ_DEPTH 0 then some (s.pbqDepthWrite (i / 0x40) v)
  else if b = Reg.HEEL_CTRL 0 then some (s.heelCtrlWrite (i / 0x100) v)
  else if b = Reg.HEEL_LINKSEL 0 then some (s.heelLinkselWrite (i / 0x100) v)
  else if b = Reg.HEEL_TIMEOUT 0 then some (s.setFld off Fld.HEEL_TIMEOUT_MS (max 10 (min 60000 (getFld Fld.HEEL_TIMEOUT_MS v))))
  else if b = Reg.PLT_PORT_CFG 0 then some (s.portCfgWrite (i / 0x40) v)
  else if b = Reg.PLT_SHAPER_RATE 0 0 0 then some (s.shaperRateWrite (i / 0x200) (i % 0x200 / 0x80) (i % 0x80 / 0x10) v)
  else if b = Reg.PLT_SHAPER_BURST 0 0 0 then some (s.shaperBurstWrite (i / 0x200) (i % 0x200 / 0x80) (i % 0x80 / 0x10) v)
  else if b = Reg.FLT_CTRL then some ((s.fleetConfig .ctrl v).heelSettle)
  else if b = Reg.FLT_CONTEXT then some ((s.fleetConfig .context v).heelSettle)
  else if b = Reg.FLT_MANAGER then some ((s.fleetConfig .manager v).heelSettle)
  else if b = Reg.SHD_MBX_CTRL then some (s.mailboxCtrlWrite v)
  else if b = Reg.PWR_DROOP then some (s.setFld off Fld.PWR_DROOP_MV (max 600 (min 900 (getFld Fld.PWR_DROOP_MV v))))
  else none

/-- A whole register is written. -/
def State.regWrite (s : State) (off : Nat) (d : RegDesc) (v : Word64) : State :=
  match (s.unitWrite off d v).or (s.jobWrite off d v) with
  | some t => t
  | none => s.plainWrite off d v

/-- A 32-bit write (R12, R13): a lower half waits, an upper half takes effect with the lower half that waits, or with
that of the register's value where none does. -/
def State.write32 (s : State) (off : Nat) (v : Nat) : State :=
  match regAt off with
  | some d =>
    if d.wide then { s with regPend := s.regPend.insert off (BitVec.ofNat 32 v) }
    else s.regWrite off d (BitVec.ofNat 64 v)
  | none =>
    match (if off % 8 = 4 then regAt (off - 4) else none) with
    | some d =>
      if d.wide then
        let low := (s.regPend.find (off - 4)).getD (BitVec.setWidth 32 (s.reg (off - 4)))
        { s with regPend := s.regPend.erase (off - 4) }.regWrite (off - 4) d (BitVec.ofNat 64 (low.toNat + v * 2 ^ 32))
      else s
    | none => s

/-- A 64-bit write at a multiple of 8 (R13). -/
def State.write64 (s : State) (off : Nat) (v : Word64) : State :=
  match regAt off with
  | some d =>
    if d.wide then { s with regPend := s.regPend.erase off }.regWrite off d v
    else (s.write32 off (v.toNat % 2 ^ 32)).write32 (off + 4) (v.toNat / 2 ^ 32)
  | none => (s.write32 off (v.toNat % 2 ^ 32)).write32 (off + 4) (v.toNat / 2 ^ 32)

/-- A host write to BAR0: an access of another width, or not aligned to its own, writes nothing (R12). -/
def State.hostWrite (s : State) (off width : Nat) (v : Word64) : State :=
  if width = 32 && off % 4 = 0 then s.write32 off (v.toNat % 2 ^ 32)
  else if width = 64 && off % 8 = 0 then s.write64 off v
  else s

/-- REGISTER_WRITE (R10 to R13). `width` is in bits. -/
def execRegisterWrite (offset width : Nat) (value : Word64) (s : State) : Host.Outcome State Fault Refusal :=
  hostAct offset (fun s => s.hostWrite offset width value) s

/-! ### Reads -/

/-- Occupancy of the window that a queue's stream has (R130, R184). -/
def State.windowWord (s : State) (q : Nat) : Word64 :=
  match (s.queues.find q).bind fun x => (s.jobs.find x.job).bind fun j => j.stream x.rank with
  | some st => putFld Fld.PBQ_WINDOW_DEFERRED (putFld Fld.PBQ_WINDOW_OCCUPIED 0 st.window.length) (st.deferred.length + st.late.length)
  | none => 0

/-- Values that the device sets itself (R10): of the part, and of what other state holds. How many NAND operations are in
flight is not stated: a free value while commands are outstanding. -/
def State.deviceValue (s : State) (off : Nat) (d : RegDesc) : Option Word64 :=
  let b := d.base
  let i := off - b
  if b = Reg.GLB_DEVICE_ID then some (BitVec.ofNat 64 (0x0818 + s.part.grade * 2 ^ 16 + s.part.extended.toNat * 2 ^ 24))
  else if b = Reg.GLB_KENNEL_COUNT then
    some (BitVec.ofNat 64 (s.part.kennels + ((List.range s.part.kennels).filter s.kennelOk).length * 2 ^ 10))
  else if b = Reg.SEC_DEVICE_ID 0 then some (BitVec.ofNat 64 (fieldAt deviceIdentity i 4))
  else if b = Reg.SEC_KEYS then some (BitVec.ofNat 64 s.keysUsed)
  else if b = Reg.PBQ_FREE then some (BitVec.ofNat 64 (1024 - s.queues.entries.length))
  else if b = Reg.PBQ_WINDOW 0 then some (s.windowWord (i / 0x40))
  else if b = Reg.TOK_STREAMS then
    some (BitVec.ofNat 64 (s.jobs.vals.foldl (fun (n : Nat) (j : Job) => n + (j.gens.vals.filter fun (g : GenStream) => g.open_).length) 0))
  else if b = Reg.TRS_OUTSTANDING then
    let n := s.store.cmds.entries.length
    some (putFld Fld.TRS_OUTSTANDING_NAND_OPS (putFld Fld.TRS_OUTSTANDING_COMMANDS 0 n) (if n = 0 then 0 else s.freeValue % 16385))
  else if b = Reg.PLT_CTX_ONCHIP then
    some (putFld Fld.PLT_CTX_ONCHIP_PINNED (putFld Fld.PLT_CTX_ONCHIP_HELD 0 s.onChipCount) s.pinnedCount)
  else if b = Reg.PLT_SHAPER_TOKENS 0 0 0 then
    some (BitVec.ofNat 64 (s.shaperTokens (i / 0x200) (i % 0x200 / 0x80) (i % 0x80 / 0x10) / 8000))
  else if b = Reg.PWR_POWER then some (BitVec.ofNat 64 s.shownPower)
  else match coarseCounter off with
    | some c => if s.coarsened c then some (s.coarseValue off) else none
    | none => none

/-- What a read of a register returns: WO fields and RsvdZ bits read as zero. -/
def State.readReg (s : State) (off : Nat) (d : RegDesc) : Word64 :=
  let v := (s.deviceValue off d).getD (s.reg off)
  d.fields.foldl (fun (x : Word64) (f : FieldDesc) => if f.access = .wo then x else putFld f.fld x (natField v.toNat f.fld.lo f.fld.len)) 0

/-- Offset of the health window (R317). -/
def healthWindow : Nat := 0x2C10000

/-- A 32-bit read at a multiple of 4 (R12). -/
def State.read32 (s : State) (off : Nat) : Nat :=
  if healthWindow ≤ off && off < healthWindow + 928 then fieldAt s.store.window (off - healthWindow) 4
  else match regAt off with
    | some d => (s.readReg off d).toNat % 2 ^ 32
    | none =>
      match (if off % 8 = 4 then regAt (off - 4) else none) with
      | some d => if d.wide then (s.readReg (off - 4) d).toNat / 2 ^ 32 else 0
      | none => 0

/-- What a host read of BAR0 returns (R12, R13); zero where the access reaches nothing. -/
def State.hostReadValue (s : State) (off width : Nat) : Nat :=
  if !s.hostReaches off then 0
  else if width = 32 && off % 4 = 0 then s.read32 off
  else if width = 64 && off % 8 = 0 then s.read32 off + s.read32 (off + 4) * 2 ^ 32
  else 0

end Sys2Proof.Machine
end

