-- ==== Sys2Proof/Machine/Packages.lean ====
section
/-! DEFINITION. Model packages (R91, R201, R356) and the records of STORE stages (R321, R322). -/

namespace Sys2Proof.Machine

/-- Codes of Table 13-6 for model packages. -/
def ST_SEC_MODEL_DEVICE : Nat := 0x00C9
def ST_SEC_MODEL_KEY : Nat := 0x00CA
def ST_SEC_MODEL_AUTH : Nat := 0x00CB

/-- The content key of a package, or none where the unwrap fails: the additional data is the header up to
WRAPPED and the device list. -/
def unwrapContent (setKey pkg : Bytes) : Option Bytes :=
  gcmOpen setKey (sliceAt pkg 0x20 12) (sliceAt pkg 0 0x30 ++ sliceAt pkg 0x60 (32 * fieldAt pkg 6 2)) (sliceAt pkg 0x30 32)
    (sliceAt pkg 0x50 16)

/-- The weights of a package under its content key: chunks from the end of the device list on, with the header's
NONCE_BASE (log entry 37); none where a tag fails. -/
def openWeights (key pkg : Bytes) : Option Bytes :=
  let body := pkg.drop (0x60 + 32 * fieldAt pkg 6 2)
  objectPart key (sliceAt pkg 0x18 8 ++ List.replicate 8 0 ++ body) 0 (fieldAt pkg 0x10 8)

/-- The checks of R356 on a package, in order: the weights, or the code with which the job halts. -/
def State.openPackage (s : State) (hedge : Nat) (desc pkg : Bytes) : Except Nat Bytes :=
  let setKey := fieldAt pkg 8 4
  if !s.mayUseKey hedge setKey 3 then .error ST_SEC_MODEL_KEY
  else if !((List.range (fieldAt pkg 6 2)).any fun i => sliceAt pkg (0x60 + 32 * i) 32 = deviceIdentity) then
    .error ST_SEC_MODEL_DEVICE
  else
    match (unwrapContent (s.secret setKey) pkg).bind fun k => openWeights k pkg with
    | none => .error ST_SEC_MODEL_AUTH
    | some w =>
      if fieldAt pkg 0x10 8 ≠ 2 * fieldAt desc 0x14 4 || sha256 w ≠ sliceAt desc 0x30 32 then .error ST_JOB_WEIGHTS
      else .ok w

/-- The package of a MODEL or FILTER stage is read and checked. -/
def State.loadModel (s : State) (slot stage : Nat) (outcomes : List NandOutcome) : State :=
  match s.jobs.find slot, s.jobImage slot with
  | some j, some im =>
    let kind := im.stageKind stage
    if !s.jobActive slot || !(kind = kindModel || kind = kindFilter) || (j.models.any fun m => m.1 = stage) then s
    else
      let desc := im.stageTable stage
      let ns := fieldAt desc 0x18 1
      let lba := fieldAt desc 0x20 8
      let len := fieldAt desc 0x28 8
      let units := (List.range (ceilDiv len unitBytes)).map (lba + ·)
      if s.unitsStalled ns units then s else
      let r := s.readUnits ns units outcomes
      if !r.2 then r.1.haltJob slot ST_SRC_UNREADABLE
      else match s.openPackage j.desc.hedge desc (s.nsBytes ns (unitBytes * lba) len) with
        | .error code => r.1.haltJob slot code
        | .ok w => r.1.adjustJob slot fun j => { j with models := j.models ++ [(stage, w)] }
  | _, _ => s

/-- MODEL_PACKAGE_LOAD (R356). -/
def execModelPackageLoad (slot : Fin 64) (stage : NandRead) (s : State) : Host.Outcome State Fault Refusal :=
  jobAct (fun s => s.loadModel slot stage.of_ stage.outcomes) s

/-! ### STORE stages -/

/-- A record in its frame, padded to whole units (R322). -/
def framedRecord (kind : Nat) (record : Bytes) : List Bytes :=
  let b := leBytes 2 0x5453 ++ leBytes 1 kind ++ [0] ++ leBytes 4 record.length ++ record
  let n := ceilDiv b.length unitBytes
  chunksOf unitBytes n (b ++ List.replicate (unitBytes * n - b.length) 0)

/-- A record is written at the log cursor as one command. -/
def State.appendLog (s : State) (slot ns lba : Nat) (data : List Bytes) : State :=
  let atomic := data.length ≤ 64
  let t := s.takeSeq.storeUnits ns lba data (if atomic then some s.store.nextGroup else none)
  let t := if atomic then t.adjustStore fun st => { st with nextGroup := st.nextGroup + 1 } else t
  t.setFld (Reg.FTL_JOB_STORE_LBA slot) Fld.FTL_JOB_STORE_LBA_LBA (lba + data.length)

/-- The oldest record that waits at a STORE stage is written, once no outstanding command of the host stands before
it (R304) and there is room; or the job halts. -/
def State.storeRecord (s : State) (slot stage : Nat) : State :=
  match s.jobs.find slot, s.jobImage slot with
  | some j, some im =>
    match j.store.findIdx? fun e => e.1 = stage with
    | none => s
    | some i =>
      let r := (j.store[i]?).getD (0, 0, [])
      let t := im.stageTable stage
      let ns := fieldAt t 0 1
      let lba := s.fld (Reg.FTL_JOB_STORE_LBA slot) Fld.FTL_JOB_STORE_LBA_LBA
      let data := framedRecord r.2.1 r.2.2
      let c : TrsCmd := ⟨blkWrite, ns, lba, data.length, 0, (s.reg Reg.TRS_NEXT_SEQ).toNat, data, 0, [], [], [], none, none⟩
      if !s.jobActive slot || s.store.activating then s
      else if fieldAt t 8 8 + fieldAt t 0x10 8 < lba + data.length then s.haltJob slot ST_STORE_FULL
      else if s.bit (Reg.FTL_NS_STATE ns) Fld.FTL_NS_STATE_READ_ONLY then s.haltJob slot ST_MEDIUM_EXHAUSTED
      else if !s.canReserve data.length then (s.exhaust ns).haltJob slot ST_MEDIUM_EXHAUSTED
      else if s.trsBlocked c || s.store.room < data.length || s.writeStalled ns data.length then s
      else (s.appendLog slot ns lba data).adjustJob slot fun j => { j with store := j.store.eraseIdx i }
  | _, _ => s

/-- STORE_RECORD (R322). -/
def execStoreRecord (slot : Fin 64) (stage : Nat) (s : State) : Host.Outcome State Fault Refusal :=
  jobAct (fun s => s.storeRecord slot stage) s

end Sys2Proof.Machine
end

