-- ==== Sys2Proof/Machine/Return.lean ====
section
/-! DEFINITION. The return path of generated text: return messages, streams, masks (R144 to R160, R396). -/

namespace Sys2Proof.Machine

/-- AUTOMATON and STOP_SET of a stream that has none. -/
def noAutomaton : Nat := 0xFFFF_FFFF
def noStopSet : Nat := 0xFFFF

/-- KINDs of a return message (Table 5-3). -/
def returnOpen : Nat := 1
def returnTokens : Nat := 2
def returnClose : Nat := 3

/-- How a stream ends: the code, STOP_OFFSET and STOP_INDEX. -/
structure StreamEnd where
  code : Nat
  offset : Nat
  index : Nat
deriving DecidableEq, Repr

/-- An end that is no stop string. -/
def StreamEnd.plain (code : Nat) : StreamEnd := ⟨code, 0xFFFF_FFFF, 0xFF⟩

/-- What serves a job's streams: the hedge and its image, the MASK stage, its table and vocabulary. -/
structure MaskStage where
  hedge : Nat
  image : Image
  stage : Nat
  table : Bytes
  vocab : Vocab

/-- The MASK stage of the job of a slot. -/
def State.maskStage (s : State) (slot : Nat) : Option MaskStage :=
  (s.jobs.find slot).bind fun j => (s.jobImage slot).bind fun im => (im.stageOfKind kindMask).map fun st =>
    ⟨j.desc.hedge, im, st.id, im.table st.table, vocabOf (im.table (fieldAt (im.table st.table) 0 4))⟩

/-- The automaton and the stop strings that a stream names. -/
def MaskStage.automaton (m : MaskStage) (grammar : Nat) : Array Byte := (m.image.table grammar).toArray
def MaskStage.stops (m : MaskStage) (stopSet : Nat) : List (List Nat) :=
  if stopSet = noStopSet then [] else stopStrings (m.image.table stopSet)

/-- A stream identifier of a job. -/
def State.gen (s : State) (slot k : Nat) : GenStream :=
  (((s.jobs.find slot).bind fun j => j.gens.find k)).getD GenStream.idle

/-- Change a stream identifier. -/
def State.setGen (s : State) (slot k : Nat) (g : GenStream) : State :=
  s.adjustJob slot fun j => { j with gens := j.gens.insert k g }

/-- A return message is discarded (R149, R396). -/
def State.badMessage (s : State) (slot : Nat) : State := s.bumpSat (Reg.TOK_BAD_MSG slot) Fld.TOK_BAD_MSG_COUNT

/-! ### Text of a stream (R144 to R147) -/

/-- A character becomes visible: the index of the stop string that it completes, which ends the text; else what no
match can begin in any more is released. -/
def GenStream.char (stops : List (List Nat)) (g : GenStream) (c : Nat) : GenStream × Option Nat :=
  let cs := g.chars ++ [c]
  match stopHit stops cs with
  | some (i, len) =>
    let kept := if natBit g.options 0 then cs else cs.take (cs.length - len)
    ({ g with chars := [], pendingUtf8 := [], text := g.text ++ kept.flatMap utf8Encode }, some i)
  | none =>
    let out := cs.length - heldCount stops cs
    ({ g with chars := cs.drop out, text := g.text ++ (cs.take out).flatMap utf8Encode }, none)

/-- Characters become visible in turn; each says whether this token supplied its last byte, and whether it is a
replacement. Answers the characters of this token, the replacements, and for a stop string STOP_OFFSET and its index. Where an
earlier token supplied the character that completes it, that one is the straddling token and this one is not counted (R146). -/
def GenStream.showChars (stops : List (List Nat)) : (own replaced : Nat) → GenStream → List (Nat × Bool × Bool) →
    GenStream × Nat × Nat × Option (Nat × Nat)
  | own, replaced, g, [] => (g, own, replaced, none)
  | own, replaced, g, (c, mine, bad) :: rest =>
    let own := own + mine.toNat
    let replaced := replaced + bad.toNat
    match g.char stops c with
    | (g, some i) =>
      if mine then (g, own, replaced, some (own, i))
      else ({ g with tokens := g.lastToken }, own, replaced, some (g.lastOwn + 1, i))
    | (g, none) => GenStream.showChars stops own replaced g rest

/-- The bytes of one token join the stream (R144). -/
def GenStream.addBytes (stops : List (List Nat)) (g : GenStream) (bs : Bytes) : GenStream × Nat × Option (Nat × Nat) :=
  let all := g.pendingUtf8 ++ bs
  let (cs, rest) := utf8Scan all.length 0 all
  let ends := (cs.drop 1).map (fun (c : Char8) => c.off) ++ [all.length - rest.length]
  let marked := (cs.zip ends).map fun (e : Char8 × Nat) => (e.1.cp, decide (g.pendingUtf8.length < e.2), e.1.bad)
  let r := GenStream.showChars stops 0 0 { g with pendingUtf8 := rest, begun := g.begun || !bs.isEmpty } marked
  (if bs.isEmpty then r.1 else { r.1 with lastToken := g.tokens, lastOwn := r.2.1 }, r.2.2.1, r.2.2.2)

/-- One token of a stream (R150): the stream after it, replacements, and the end that it brings. -/
def MaskStage.token (m : MaskStage) (g : GenStream) (t : Nat) : GenStream × Nat × Option StreamEnd :=
  let a := m.automaton g.grammar
  if m.vocab.size ≤ t then (g, 0, some (.plain ST_TOK_TOKEN))
  else if g.grammar ≠ noAutomaton && !gramAllowed a m.vocab g.config t then (g, 0, some (.plain ST_TOK_GRAMMAR))
  else
    let g := if g.grammar = noAutomaton then g else { g with config := gramAdvance a m.vocab g.config t }
    let bs := detokBytes m.vocab t
    let bs := if m.vocab.dropLeadSpace && !g.begun && bs.head? = some 0x20 then bs.drop 1 else bs
    let begun := g.begun || !(detokBytes m.vocab t).isEmpty
    let r := { g with tokens := g.tokens + 1 }.addBytes (m.stops g.stopSet) bs
    let g := { r.1 with begun := begun }
    match r.2.2 with
    | some (off, i) => (g, r.2.1, some ⟨ST_TOK_STOP, off, i⟩)
    | none =>
      if t = m.vocab.eosId then (g, r.2.1, some (.plain ST_TOK_EOS))
      else if g.maxTokens ≤ g.tokens then (g, r.2.1, some (.plain ST_TOK_LIMIT))
      else (g, r.2.1, none)

/-- Tokens one at a time, until one ends the stream. -/
def MaskStage.tokens (m : MaskStage) : (replaced : Nat) → GenStream → List Nat → GenStream × Nat × Option StreamEnd
  | replaced, g, [] => (g, replaced, none)
  | replaced, g, t :: ts =>
    match m.token g t with
    | (g, n, some e) => (g, replaced + n, some e)
    | (g, n, none) => m.tokens (replaced + n) g ts

/-- A stream ends without a stop string: bytes still pending are one ill-formed subsequence, and what is held back is
released. -/
def GenStream.flush (g : GenStream) : GenStream × Nat :=
  let tail := if g.pendingUtf8.isEmpty then [] else [0xFFFD]
  ({ g with chars := [], pendingUtf8 := [], text := g.text ++ (g.chars ++ tail).flatMap utf8Encode }, tail.length)

/-! ### Masks and ends (R151, R155, R156) -/

/-- A mask or END message goes to MASK_BUF. -/
def State.sendToMaskBuf (s : State) (slot stream : Nat) (m : MaskStage) (w : MaskWork) (payload : Bytes) (ended : Bool) : State :=
  let ctx := fieldAt m.table 0xA 2
  match s.contexts.find ctx with
  | none => s
  | some c =>
    (s.sendMessage ⟨ctx, w.dest, opWriteImm, w.maskBuf, w.maskGen, maskOffset w.step m.vocab.size,
      maskImmediate stream w.step, 0, payload, s.routeTo c w.dest (fieldAt m.table 6 1), .mask slot stream w.arrival ended⟩).1

/-- A message of a stream that has an automaton joins the work of its mask engine (R158). -/
def State.addWork (s : State) (slot k : Nat) (m : MaskStage) (g : GenStream) (step extra arrival : Nat) : State :=
  if g.grammar = noAutomaton then s
  else
    let cost := extra + gramCost (m.automaton g.grammar) g.config.state
    let w : MaskWork := ⟨step, cost, arrival, g.grammar, g.config, g.maskBuf, g.maskGen, g.dest⟩
    { s with text := { s.text with work := s.text.work ++ [(slot, k, w)] } }

/-- A stream ends (R151): END, the result record, and a free identifier. Masks that are due stay due. -/
def State.endStream (s : State) (slot k : Nat) (m : MaskStage) (g : GenStream) (e : StreamEnd) : State :=
  let r := if e.code = ST_TOK_STOP then (g, 0) else g.flush
  let g := r.1
  let last := g.step - 1
  let t := s.bump (Reg.TOK_REPLACED slot) Fld.TOK_REPLACED_COUNT r.2
  let t := t.sendToMaskBuf slot k m ⟨last, 0, s.time.total, g.grammar, g.config, g.maskBuf, g.maskGen, g.dest⟩
    (endMessage k last e.code) true
  let t := t.setGen slot k GenStream.idle
  match m.image.stageOfKind kindStore with
  | none => t
  | some st =>
    let jobId := ((t.jobs.find slot).map fun j => j.desc.jobId).getD 0
    let record := resultRecord jobId k e.code g.tokens last e.offset e.index g.text
    (t.adjustJob slot fun j => { j with store := j.store ++ [(st.id, 1, record)] }).bumpSat (Reg.TOK_STREAM_ENDS slot)
      Fld.TOK_STREAM_ENDS_COUNT

/-! ### Messages -/

/-- Is a message laid out as R148 states? -/
def returnOk (streams : Nat) (msg : Bytes) : Bool :=
  let kind := fieldAt msg 0 1
  let n := fieldAt msg 8 2
  fieldAt msg 2 2 < streams &&
    (if kind = returnOpen then msg.length = 32 && n = 0 && fieldAt msg 0x14 4 ≠ 0
     else if kind = returnTokens then 1 ≤ n && n ≤ 64 && msg.length = 16 + 4 * n
     else msg.length = 16 && n = 0)

/-- Does an OPEN name the automaton and stop set that R396 asks for? -/
def MaskStage.openOk (m : MaskStage) (grammar stopSet : Nat) : Bool :=
  (grammar = noAutomaton || (m.image.tableKind grammar = 6 && gramV (m.automaton grammar) = m.vocab.size)) &&
    (stopSet = noStopSet || m.image.tableKind stopSet = 5)

/-- An OPEN (R148, R149, R155). -/
def State.openStream (s : State) (slot source : Nat) (m : MaskStage) (msg : Bytes) : State :=
  let k := fieldAt msg 2 2
  let old := s.gen slot k
  let grammar := fieldAt msg 0xC 4
  let stopSet := fieldAt msg 0x10 2
  if !returnOk (fieldAt m.table 4 2) msg then s.badMessage slot
  else if old.open_ then (s.badMessage slot).endStream slot k m old (.plain ST_TOK_STREAM)
  else if !m.openOk grammar stopSet then s.badMessage slot
  else
    let g : GenStream := { GenStream.idle with
      open_ := true, config := gramInitial (m.automaton grammar), grammar := grammar, stopSet := stopSet
      options := fieldAt msg 0x12 2, maxTokens := fieldAt msg 0x14 4, maskBuf := fieldAt msg 0x18 4, maskGen := fieldAt msg 0x1C 4
      dest := source, step := 1 }
    (s.setGen slot k g).addWork slot k m g 1 0 s.time.total

/-- A TOKENS or CLOSE whose turn it is. -/
def State.handleReturn (s : State) (slot k : Nat) (m : MaskStage) (g : GenStream) (arrival : Nat) (msg : Bytes) : State :=
  let g := { g with step := g.step + 1 }
  if fieldAt msg 0 1 = returnClose then s.endStream slot k m g (.plain ST_TOK_CLOSED)
  else
    let toks := tokensOf (msg.drop 16)
    match m.tokens 0 g toks with
    | (g, n, e) =>
      let t := s.bump (Reg.TOK_REPLACED slot) Fld.TOK_REPLACED_COUNT n
      match e with
      | some e => t.endStream slot k m g e
      | none => (t.setGen slot k g).addWork slot k m g g.step (128 * toks.length) arrival

/-- Held messages whose turn has come are handled. -/
def State.drainHeld (s : State) (slot k : Nat) (m : MaskStage) : (fuel : Nat) → State
  | 0 => s
  | fuel + 1 =>
    let g := s.gen slot k
    match g.held.find? fun h => h.1 = g.step with
    | none => s
    | some h =>
      let g := { g with held := g.held.filter fun x => x.1 ≠ h.1 }
      (s.handleReturn slot k m g h.2.1 h.2.2).drainHeld slot k m fuel

/-- A TOKENS or CLOSE arrives (R149). -/
def State.stepMessage (s : State) (slot : Nat) (m : MaskStage) (msg : Bytes) : State :=
  let k := fieldAt msg 2 2
  let step := fieldAt msg 4 4
  let g := s.gen slot k
  if !returnOk (fieldAt m.table 4 2) msg || !g.open_ then s.badMessage slot
  else if step < g.step || g.step + 64 < step then s.endStream slot k m g (.plain ST_TOK_STEP)
  else if step = g.step then
    (s.handleReturn slot k m g s.time.total msg).drainHeld slot k m g.held.length
  else if g.held.any fun h => h.1 = step then s
  else s.setGen slot k { g with held := g.held ++ [(step, s.time.total, msg)] }

/-- A return message of a kind reaches the job of a slot that runs. -/
def returnRow (slot : Fin 64) (kind : Nat) (msg : Bytes) (f : MaskStage → State → State) (s : State) :
    Host.Outcome State Fault Refusal :=
  act (fun s => match s.maskStage slot with
    | some m => if s.jobActive slot && fieldAt msg 0 1 = kind then f m s else s
    | none => s) s

/-- RETURN_OPEN (R148). -/
def execReturnOpen (slot : Fin 64) (source : Nat) (msg : Bytes) (s : State) : Host.Outcome State Fault Refusal :=
  returnRow slot returnOpen msg (fun m s => s.openStream slot source m msg) s

/-- RETURN_TOKENS (R150). -/
def execReturnTokens (slot : Fin 64) (msg : Bytes) (s : State) : Host.Outcome State Fault Refusal :=
  returnRow slot returnTokens msg (fun m s => s.stepMessage slot m msg) s

/-- RETURN_CLOSE (R149). -/
def execReturnClose (slot : Fin 64) (msg : Bytes) (s : State) : Host.Outcome State Fault Refusal :=
  returnRow slot returnClose msg (fun m s => s.stepMessage slot m msg) s

/-! ### The mask engines (R158) and the mask caches (R157) -/

/-- Bytes of kennel store that the region tables leave UNUSED in the kennels of a stage (R77, R157). -/
def State.unusedStore (s : State) (h stage : Nat) : Nat :=
  (s.kennels.vals.filter fun (k : Kennel) => (k.bound.map fun b => decide (b.hedge = h ∧ b.stage = stage)).getD false).foldl
    (fun n k => n + 1024 * (256 - k.regions.entries.length)) 0

/-- The window mask of a configuration as the cache holds it: a bitmap or a list of ranges, whichever is smaller (R157). -/
def windowMask (a : Array Byte) (v : Vocab) (c : GrammarConfig) : Bool × Bytes :=
  let rs := gramRanges a c
  let n := ceilDiv v.size 8
  if 8 * rs.length < n then (true, rs.flatMap fun r => leBytes 4 r.1 ++ leBytes 4 r.2)
  else
    (false, (List.range n).map fun i => BitVec.ofNat 8 ((List.range 8).foldl (fun (w : Nat) k =>
      if rs.any fun r => r.1 ≤ 8 * i + k && 8 * i + k ≤ r.2 then w + 2 ^ k else w) 0))

/-- The entries of a cache that fit it, the most recently used kept. -/
def fitMasks : (room : Nat) → List MaskEntry → List MaskEntry
  | _, [] => []
  | room, e :: es => if e.mask.length ≤ room then e :: fitMasks (room - e.mask.length) es else []

/-- The window mask of a configuration passes through the mask cache of its stage: a hit becomes the most recently used, a miss is
fetched and replaces the least recently used (R157). -/
def State.readMask (s : State) (m : MaskStage) (w : MaskWork) : State :=
  let a := m.automaton w.grammar
  let f := windowMask a m.vocab w.config
  let e : MaskEntry := ⟨m.hedge, m.stage, w.grammar, w.config.state, gramWindowOf a w.config, f.1, f.2⟩
  let own := s.text.masks.filter fun x => x.hedge = m.hedge && x.stage = m.stage
  let rest := s.text.masks.filter fun x => !(x.hedge = m.hedge && x.stage = m.stage)
  { s with text := { s.text with masks := fitMasks (s.unusedStore m.hedge (fieldAt m.table 8 2)) (e :: own.erase e) ++ rest } }

/-- The engine that serves a stream: s mod E of the stage's engines (R158). -/
def MaskStage.engine (m : MaskStage) (stream : Nat) : Nat :=
  let es := assocList m.image.engines m.stage
  es.getD (stream % es.length) 0

/-- Messages of a hedge's streams that the engine of a stream has not finished, in the order of their arrival. -/
def State.engineWork (s : State) (m : MaskStage) (stream : Nat) : List (Nat × Nat × MaskWork) :=
  s.text.work.filter fun w =>
    ((s.jobs.find w.1).map fun j => decide (j.desc.hedge = m.hedge)).getD false && m.engine w.2.1 = m.engine stream

/-- The oldest message of a stream is done, where one of the engine's 4 step units works on it: its mask is computed and sent
(R154 to R158). -/
def State.maskStep (s : State) (slot k : Nat) (m : MaskStage) : State :=
  match ((s.engineWork m k).take 4).find? fun w => w.1 = slot && w.2.1 = k with
  | none => s
  | some x =>
    let w := x.2.2
    let a := m.automaton w.grammar
    let payload := maskMessage k w.step false (maskCount a m.vocab w.config) (maskBitmap a m.vocab w.config)
    let table := fieldAt m.table 0 4
    let t := { s with text := { s.text with work := s.text.work.erase x } }
    let t := t.readVocab (decide (16 ≤ m.engine k)) m.hedge table m.image
      (m.vocab.linesOf (Config.maskReads (m.image.table table) w.config.state w.config.stack))
    (t.readMask m w).sendToMaskBuf slot k m w payload false

/-- MASK_STEP (R158). -/
def execMaskStep (slot : Fin 64) (stream : Nat) (s : State) : Host.Outcome State Fault Refusal :=
  act (fun s => match s.maskStage slot with
    | some m => if s.jobActive slot then s.maskStep slot stream m else s
    | none => s) s

end Sys2Proof.Machine
end

