-- ==== Sys2Proof/Machine/Dispatch.lean ====
section
/-! DEFINITION. The meaning of every command: one arm per constructor. -/

namespace Sys2Proof.Machine

/-- The effect of a command on everything but the queue. -/
def exec (i : Instr) (s : State) : Host.Outcome State Fault Refusal :=
  match i with
  | .registerWrite offset width value => Sys2Proof.Machine.execRegisterWrite offset width value s
  | .pltTimeNsRead => Sys2Proof.Machine.execPltTimeNsRead s
  | .pltMissqRead port => Sys2Proof.Machine.execPltMissqRead port s
  | .poolMinFreeRead pool => Sys2Proof.Machine.execPoolMinFreeRead pool s
  | .chkRunningRead unit => Sys2Proof.Machine.execChkRunningRead unit s
  | .islandDroopDetect island => Sys2Proof.Machine.execIslandDroopDetect island s
  | .stretchStepDown island => Sys2Proof.Machine.execStretchStepDown island s
  | .channelHung from_ to_ => Sys2Proof.Machine.execChannelHung from_ to_ s
  | .reserveReloadDone hedge stage group => Sys2Proof.Machine.execReserveReloadDone hedge stage group s
  | .dieFault die => Sys2Proof.Machine.execDieFault die s
  | .engineFault cls engine => Sys2Proof.Machine.execEngineFault cls engine s
  | .wholeDeviceLoad hedge => Sys2Proof.Machine.execWholeDeviceLoad hedge s
  | .perHedgeLoad hedge => Sys2Proof.Machine.execPerHedgeLoad hedge s
  | .unload hedge => Sys2Proof.Machine.execUnload hedge s
  | .reservedLoadOp hedge => Sys2Proof.Machine.execReservedLoadOp hedge s
  | .loadComplete => Sys2Proof.Machine.execLoadComplete s
  | .unloadComplete => Sys2Proof.Machine.execUnloadComplete s
  | .epochTimerFire timer => Sys2Proof.Machine.execEpochTimerFire timer s
  | .timerPulseEnd timer => Sys2Proof.Machine.execTimerPulseEnd timer s
  | .accept slot => Sys2Proof.Machine.execAccept slot s
  | .start slot => Sys2Proof.Machine.execStart slot s
  | .stop slot => Sys2Proof.Machine.execStop slot s
  | .abort slot => Sys2Proof.Machine.execAbort slot s
  | .clear slot => Sys2Proof.Machine.execClear slot s
  | .drainComplete slot => Sys2Proof.Machine.execDrainComplete slot s
  | .modelPackageLoad slot stage => Sys2Proof.Machine.execModelPackageLoad slot stage s
  | .positionAssign slot rank => Sys2Proof.Machine.execPositionAssign slot rank s
  | .sampleDispatch item core handle => Sys2Proof.Machine.execSampleDispatch item core handle s
  | .indexTableRead slot shard => Sys2Proof.Machine.execIndexTableRead slot shard s
  | .sampleReadDone item result => Sys2Proof.Machine.execSampleReadDone item result s
  | .cryptStage item => Sys2Proof.Machine.execCryptStage item s
  | .decompressStage item => Sys2Proof.Machine.execDecompressStage item s
  | .digestStage item => Sys2Proof.Machine.execDigestStage item s
  | .imageDecode item => Sys2Proof.Machine.execImageDecode item s
  | .videoDecode item => Sys2Proof.Machine.execVideoDecode item s
  | .regionWaitExpiry item frame => Sys2Proof.Machine.execRegionWaitExpiry item frame s
  | .captureTrigger pin => Sys2Proof.Machine.execCaptureTrigger pin s
  | .resample item => Sys2Proof.Machine.execResample item s
  | .tokenize item => Sys2Proof.Machine.execTokenize item s
  | .compressStage item engine verified => Sys2Proof.Machine.execCompressStage item engine verified s
  | .deadlineExpiry slot rank => Sys2Proof.Machine.execDeadlineExpiry slot rank s
  | .add core f => Sys2Proof.Machine.execAdd core f s
  | .sub core f => Sys2Proof.Machine.execSub core f s
  | .and core f => Sys2Proof.Machine.execAnd core f s
  | .or core f => Sys2Proof.Machine.execOr core f s
  | .xor core f => Sys2Proof.Machine.execXor core f s
  | .shl core f => Sys2Proof.Machine.execShl core f s
  | .shr core f => Sys2Proof.Machine.execShr core f s
  | .sra core f => Sys2Proof.Machine.execSra core f s
  | .addi core f => Sys2Proof.Machine.execAddi core f s
  | .mul core f => Sys2Proof.Machine.execMul core f s
  | .div core f => Sys2Proof.Machine.execDiv core f s
  | .cmp core f => Sys2Proof.Machine.execCmp core f s
  | .ld core f => Sys2Proof.Machine.execLd core f s
  | .st core f => Sys2Proof.Machine.execSt core f s
  | .br core f => Sys2Proof.Machine.execBr core f s
  | .call core f => Sys2Proof.Machine.execCall core f s
  | .jr core f => Sys2Proof.Machine.execJr core f s
  | .cwr core f => Sys2Proof.Machine.execCwr core f s
  | .cww core f => Sys2Proof.Machine.execCww core f s
  | .wld core f => Sys2Proof.Machine.execWld core f s
  | .wst core f => Sys2Proof.Machine.execWst core f s
  | .wadd core f => Sys2Proof.Machine.execWadd core f s
  | .wsub core f => Sys2Proof.Machine.execWsub core f s
  | .wmul core f => Sys2Proof.Machine.execWmul core f s
  | .wfma core f => Sys2Proof.Machine.execWfma core f s
  | .wdot core f => Sys2Proof.Machine.execWdot core f s
  | .wcmp core f => Sys2Proof.Machine.execWcmp core f s
  | .wsel core f => Sys2Proof.Machine.execWsel core f s
  | .wshuf core f => Sys2Proof.Machine.execWshuf core f s
  | .wcvt core f => Sys2Proof.Machine.execWcvt core f s
  | .wmax core f => Sys2Proof.Machine.execWmax core f s
  | .wmin core f => Sys2Proof.Machine.execWmin core f s
  | .wredu core f => Sys2Proof.Machine.execWredu core f s
  | .wreduU core f => Sys2Proof.Machine.execWreduU core f s
  | .wins core f => Sys2Proof.Machine.execWins core f s
  | .wext core f => Sys2Proof.Machine.execWext core f s
  | .wbcast core f => Sys2Proof.Machine.execWbcast core f s
  | .sin core f => Sys2Proof.Machine.execSin core f s
  | .sout core f => Sys2Proof.Machine.execSout core f s
  | .sdone core f => Sys2Proof.Machine.execSdone core f s
  | .oalloc core f => Sys2Proof.Machine.execOalloc core f s
  | .mbsend core f => Sys2Proof.Machine.execMbsend core f s
  | .mbrecv core f => Sys2Proof.Machine.execMbrecv core f s
  | .mailboxDeliver core channel => Sys2Proof.Machine.execMailboxDeliver core channel s
  | .mbpoll core f => Sys2Proof.Machine.execMbpoll core f s
  | .kgive core f => Sys2Proof.Machine.execKgive core f s
  | .get core f => Sys2Proof.Machine.execGet core f s
  | .put core f => Sys2Proof.Machine.execPut core f s
  | .tagComplete core tag => Sys2Proof.Machine.execTagComplete core tag s
  | .wait core f => Sys2Proof.Machine.execWait core f s
  | .fence core f => Sys2Proof.Machine.execFence core f s
  | .ovl core f => Sys2Proof.Machine.execOvl core f s
  | .rdtime core f => Sys2Proof.Machine.execRdtime core f s
  | .halt core f => Sys2Proof.Machine.execHalt core f s
  | .exBudget core => Sys2Proof.Machine.execExBudget core s
  | .groupRestart hedge stage group => Sys2Proof.Machine.execGroupRestart hedge stage group s
  | .returnOpen slot source msg => Sys2Proof.Machine.execReturnOpen slot source msg s
  | .returnTokens slot msg => Sys2Proof.Machine.execReturnTokens slot msg s
  | .returnClose slot msg => Sys2Proof.Machine.execReturnClose slot msg s
  | .maskStep slot stream => Sys2Proof.Machine.execMaskStep slot stream s
  | .storeRecord slot stage => Sys2Proof.Machine.execStoreRecord slot stage s
  | .pbqDepthWrite queue value => Sys2Proof.Machine.execPbqDepthWrite queue value s
  | .heelCtrlWrite session value => Sys2Proof.Machine.execHeelCtrlWrite session value s
  | .heelLinkselWrite session value => Sys2Proof.Machine.execHeelLinkselWrite session value s
  | .heelSetup frame => Sys2Proof.Machine.execHeelSetup frame s
  | .heelSetupTimeout session => Sys2Proof.Machine.execHeelSetupTimeout session s
  | .heelBatchDigest frame => Sys2Proof.Machine.execHeelBatchDigest frame s
  | .heelStageDigest frame => Sys2Proof.Machine.execHeelStageDigest frame s
  | .heelDigestTimeout session => Sys2Proof.Machine.execHeelDigestTimeout session s
  | .heelFreeze frame => Sys2Proof.Machine.execHeelFreeze frame s
  | .heelLocateStart session => Sys2Proof.Machine.execHeelLocateStart session s
  | .heelLocateRequest frame => Sys2Proof.Machine.execHeelLocateRequest frame s
  | .heelLocateAnswer frame => Sys2Proof.Machine.execHeelLocateAnswer frame s
  | .heelReport frame => Sys2Proof.Machine.execHeelReport frame s
  | .heelAckFrame frame => Sys2Proof.Machine.execHeelAckFrame frame s
  | .heelFrameResend session seq => Sys2Proof.Machine.execHeelFrameResend session seq s
  | .invalidFrame port sub => Sys2Proof.Machine.execInvalidFrame port sub s
  | .pltWrite port sub frame => Sys2Proof.Machine.execPltWrite port sub frame s
  | .pltWriteImm port sub frame => Sys2Proof.Machine.execPltWriteImm port sub frame s
  | .pltReadReq port sub frame => Sys2Proof.Machine.execPltReadReq port sub frame s
  | .pltReadResp port sub frame => Sys2Proof.Machine.execPltReadResp port sub frame s
  | .pltAtomicAdd port sub frame => Sys2Proof.Machine.execPltAtomicAdd port sub frame s
  | .pltAtomicCas port sub frame => Sys2Proof.Machine.execPltAtomicCas port sub frame s
  | .pltAck port sub frame => Sys2Proof.Machine.execPltAck port sub frame s
  | .pltNak port sub frame => Sys2Proof.Machine.execPltNak port sub frame s
  | .pltCredit port sub frame => Sys2Proof.Machine.execPltCredit port sub frame s
  | .contextFetchDone port ctx => Sys2Proof.Machine.execContextFetchDone port ctx s
  | .ackTimer ctx source => Sys2Proof.Machine.execAckTimer ctx source s
  | .retransmitTimeout ctx dest msgId fragment => Sys2Proof.Machine.execRetransmitTimeout ctx dest msgId fragment s
  | .messageGiveUp ctx dest msgId => Sys2Proof.Machine.execMessageGiveUp ctx dest msgId s
  | .retryHoldExpiry ctx dest msgId fragment => Sys2Proof.Machine.execRetryHoldExpiry ctx dest msgId fragment s
  | .filterEntryExpiry ctx key => Sys2Proof.Machine.execFilterEntryExpiry ctx key s
  | .keyPhaseWindowExpiry ctx source => Sys2Proof.Machine.execKeyPhaseWindowExpiry ctx source s
  | .deliveryRetryTimer slot rank dest => Sys2Proof.Machine.execDeliveryRetryTimer slot rank dest s
  | .frameTransmit port sub => Sys2Proof.Machine.execFrameTransmit port sub s
  | .gateEntryChange port => Sys2Proof.Machine.execGateEntryChange port s
  | .pltPortCfgWrite port value => Sys2Proof.Machine.execPltPortCfgWrite port value s
  | .linkStateChange port sub up => Sys2Proof.Machine.execLinkStateChange port sub up s
  | .shaperRateWrite port sub cls value => Sys2Proof.Machine.execShaperRateWrite port sub cls value s
  | .shaperBurstWrite port sub cls value => Sys2Proof.Machine.execShaperBurstWrite port sub cls value s
  | .ptpEventMessage event => Sys2Proof.Machine.execPtpEventMessage event s
  | .masterLoss => Sys2Proof.Machine.execMasterLoss s
  | .holdoverTimeout => Sys2Proof.Machine.execHoldoverTimeout s
  | .ppsInEdge pin => Sys2Proof.Machine.execPpsInEdge pin s
  | .ppsSecond pin => Sys2Proof.Machine.execPpsSecond pin s
  | .dmaGo ch => Sys2Proof.Machine.execDmaGo ch s
  | .dmaAbort ch => Sys2Proof.Machine.execDmaAbort ch s
  | .dmaHold ch => Sys2Proof.Machine.execDmaHold ch s
  | .dmaRelease ch => Sys2Proof.Machine.execDmaRelease ch s
  | .dmaDescriptorComplete ch => Sys2Proof.Machine.execDmaDescriptorComplete ch s
  | .dmaTransferError ch ecc prefix_ => Sys2Proof.Machine.execDmaTransferError ch ecc prefix_ s
  | .dmaAbortComplete ch prefix_ => Sys2Proof.Machine.execDmaAbortComplete ch prefix_ s
  | .poolRequest pool stage => Sys2Proof.Machine.execPoolRequest pool stage s
  | .poolRelease handle stage => Sys2Proof.Machine.execPoolRelease handle stage s
  | .poolSetCount handle stage count => Sys2Proof.Machine.execPoolSetCount handle stage count s
  | .chkEnable unit => Sys2Proof.Machine.execChkEnable unit s
  | .chkDisable unit => Sys2Proof.Machine.execChkDisable unit s
  | .chkPause unit => Sys2Proof.Machine.execChkPause unit s
  | .chkPaused unit => Sys2Proof.Machine.execChkPaused unit s
  | .chkResume unit => Sys2Proof.Machine.execChkResume unit s
  | .chkHold unit => Sys2Proof.Machine.execChkHold unit s
  | .chkRelease unit => Sys2Proof.Machine.execChkRelease unit s
  | .chkConfigWrite unit filter value => Sys2Proof.Machine.execChkConfigWrite unit filter value s
  | .chkStateWrite unit bytes value => Sys2Proof.Machine.execChkStateWrite unit bytes value s
  | .chkRecord unit data trailer => Sys2Proof.Machine.execChkRecord unit data trailer s
  | .briGo engine => Sys2Proof.Machine.execBriGo engine s
  | .briAbort engine => Sys2Proof.Machine.execBriAbort engine s
  | .briHold engine => Sys2Proof.Machine.execBriHold engine s
  | .briRelease engine => Sys2Proof.Machine.execBriRelease engine s
  | .briBlockDone engine verified => Sys2Proof.Machine.execBriBlockDone engine verified s
  | .briDescriptorComplete engine => Sys2Proof.Machine.execBriDescriptorComplete engine s
  | .trsRead set => Sys2Proof.Machine.execTrsRead set s
  | .trsWrite set => Sys2Proof.Machine.execTrsWrite set s
  | .trsWriteAtomic set => Sys2Proof.Machine.execTrsWriteAtomic set s
  | .trsFlush set => Sys2Proof.Machine.execTrsFlush set s
  | .trsTrim set => Sys2Proof.Machine.execTrsTrim set s
  | .trsVerify set => Sys2Proof.Machine.execTrsVerify set s
  | .trsFormat set => Sys2Proof.Machine.execTrsFormat set s
  | .trsCommandStart set => Sys2Proof.Machine.execTrsCommandStart set s
  | .nandReadDone set unit outcome => Sys2Proof.Machine.execNandReadDone set unit outcome s
  | .trsCommandComplete set => Sys2Proof.Machine.execTrsCommandComplete set s
  | .trsBusError set units => Sys2Proof.Machine.execTrsBusError set units s
  | .controllerReset => Sys2Proof.Machine.execControllerReset s
  | .controllerResetDone => Sys2Proof.Machine.execControllerResetDone s
  | .checkpointStart => Sys2Proof.Machine.execCheckpointStart s
  | .checkpointDone => Sys2Proof.Machine.execCheckpointDone s
  | .garbageCollection => Sys2Proof.Machine.execGarbageCollection s
  | .blockErase block => Sys2Proof.Machine.execBlockErase block s
  | .programFailure block => Sys2Proof.Machine.execProgramFailure block s
  | .eraseFailure block => Sys2Proof.Machine.execEraseFailure block s
  | .healthSnapshot => Sys2Proof.Machine.execHealthSnapshot s
  | .temperatureHour max mean min => Sys2Proof.Machine.execTemperatureHour max mean min s
  | .sweepDone nsid => Sys2Proof.Machine.execSweepDone nsid s
  | .blkNsCreate src => Sys2Proof.Machine.execBlkNsCreate src s
  | .blkNsDelete src => Sys2Proof.Machine.execBlkNsDelete src s
  | .blkKeyRotate src => Sys2Proof.Machine.execBlkKeyRotate src s
  | .blkKeySweep src => Sys2Proof.Machine.execBlkKeySweep src s
  | .blkKeyDestroy src => Sys2Proof.Machine.execBlkKeyDestroy src s
  | .fleetEnable value => Sys2Proof.Machine.execFleetEnable value s
  | .fltConfigWrite reg value => Sys2Proof.Machine.execFltConfigWrite reg value s
  | .join source msg => Sys2Proof.Machine.execJoin source msg s
  | .roster source msg => Sys2Proof.Machine.execRoster source msg s
  | .heartbeat source msg => Sys2Proof.Machine.execHeartbeat source msg s
  | .hbAck source peerEpoch msg => Sys2Proof.Machine.execHbAck source peerEpoch msg s
  | .arrive source msg => Sys2Proof.Machine.execArrive source msg s
  | .arriveAck source msg => Sys2Proof.Machine.execArriveAck source msg s
  | .commit source msg => Sys2Proof.Machine.execCommit source msg s
  | .mirror source msg => Sys2Proof.Machine.execMirror source msg s
  | .mirrorAck source msg => Sys2Proof.Machine.execMirrorAck source msg s
  | .move source msg => Sys2Proof.Machine.execMove source msg s
  | .fetch source msg => Sys2Proof.Machine.execFetch source msg s
  | .records source msg => Sys2Proof.Machine.execRecords source msg s
  | .takeover source msg => Sys2Proof.Machine.execTakeover source msg s
  | .takeoverAck source msg => Sys2Proof.Machine.execTakeoverAck source msg s
  | .resolve source msg => Sys2Proof.Machine.execResolve source msg s
  | .heartbeatTimer => Sys2Proof.Machine.execHeartbeatTimer s
  | .livenessLeaseExpiry member => Sys2Proof.Machine.execLivenessLeaseExpiry member s
  | .progressLeaseExpiry member => Sys2Proof.Machine.execProgressLeaseExpiry member s
  | .workerIsolation => Sys2Proof.Machine.execWorkerIsolation s
  | .managerIsolation => Sys2Proof.Machine.execManagerIsolation s
  | .standbyTakeoverTimeout => Sys2Proof.Machine.execStandbyTakeoverTimeout s
  | .takeoverQuorumTimeout => Sys2Proof.Machine.execTakeoverQuorumTimeout s
  | .secAttest src => Sys2Proof.Machine.execSecAttest src s
  | .secKeyImport src => Sys2Proof.Machine.execSecKeyImport src s
  | .secKeyDestroy src => Sys2Proof.Machine.execSecKeyDestroy src s
  | .secHedgeOwner src => Sys2Proof.Machine.execSecHedgeOwner src s
  | .secAnchorSet src => Sys2Proof.Machine.execSecAnchorSet src s
  | .secCertRead src => Sys2Proof.Machine.execSecCertRead src s
  | .mgmtTlsHandshake chain => Sys2Proof.Machine.execMgmtTlsHandshake chain s
  | .jtagAccess block write => Sys2Proof.Machine.execJtagAccess block write s
  | .powerWindowBoundary => Sys2Proof.Machine.execPowerWindowBoundary s
  | .counterSampleBoundary => Sys2Proof.Machine.execCounterSampleBoundary s
  | .shdFwStage src => Sys2Proof.Machine.execShdFwStage src s
  | .shdFwActivate src => Sys2Proof.Machine.execShdFwActivate src s
  | .firmwareSwitch => Sys2Proof.Machine.execFirmwareSwitch s
  | .shdReset src => Sys2Proof.Machine.execShdReset src s
  | .shdFallbackExit src => Sys2Proof.Machine.execShdFallbackExit src s
  | .pwrSetCap src => Sys2Proof.Machine.execPwrSetCap src s
  | .pwrSetPlanMax src => Sys2Proof.Machine.execPwrSetPlanMax src s
  | .shdFeature src => Sys2Proof.Machine.execShdFeature src s
  | .shdDiag src => Sys2Proof.Machine.execShdDiag src s
  | .powerOnReset => Sys2Proof.Machine.execPowerOnReset s
  | .warmReset => Sys2Proof.Machine.execWarmReset s
  | .hostPortReset => Sys2Proof.Machine.execHostPortReset s
  | .pcieConfigRequest => Sys2Proof.Machine.execPcieConfigRequest s
  | .domainPowerGood domain => Sys2Proof.Machine.execDomainPowerGood domain s
  | .bootStageComplete result => Sys2Proof.Machine.execBootStageComplete result s
  | .bootStageTimeout => Sys2Proof.Machine.execBootStageTimeout s
  | .temperatureSample site raw => Sys2Proof.Machine.execTemperatureSample site raw s
  | .thermalRestart => Sys2Proof.Machine.execThermalRestart s
  | .railSample rail millivolts milliamps => Sys2Proof.Machine.execRailSample rail millivolts milliamps s
  | .capLimiterStep => Sys2Proof.Machine.execCapLimiterStep s
  | .thermalLimiterStep => Sys2Proof.Machine.execThermalLimiterStep s
  | .droopLimiterStep event => Sys2Proof.Machine.execDroopLimiterStep event s
  | .smbusBlockRead code => Sys2Proof.Machine.execSmbusBlockRead code s
  | .smbusReject => Sys2Proof.Machine.execSmbusReject s
  | .resetPinRise por straps => Sys2Proof.Machine.execResetPinRise por straps s
  | .msixCoalesceExpiry source => Sys2Proof.Machine.execMsixCoalesceExpiry source s

end Sys2Proof.Machine
end

