-- ==== Sys2Proof/Machine/Step.lean ====
section
/-! DEFINITION. One step: take the command at the front of the queue and run it. -/

namespace Sys2Proof.Machine

/-- The idle step: network time advances by one nanosecond (log entry 12). -/
def State.idle (s : State) : State := { s with time := s.time.advance 1, uptime := s.uptime + 1 }

/-- One step. -/
def step (s : State) : Host.Outcome State Fault Refusal :=
  match s.pending with
  | [] => .next s.idle
  | c :: rest => exec c { s with pending := rest }

/-- A word spells no command: the table gives its rows no bits, so the state stays as it is. -/
def State.withFetchWord (s : State) (nbits w : Nat) : State :=
  match decodeTableWord nbits w with
  | some c => { s with pending := c :: s.pending }
  | none => s

end Sys2Proof.Machine
end

