-- ==== Sys2Proof/WellFormed.lean ====
section
/-! DEFINITION. Well-formed commands: every operand is one that the interface it comes through can carry. The meanings
answer for the others too; nothing in the model assumes well-formedness. -/

namespace Sys2Proof

/-- A number of 16 and of 32 bits. -/
def wordOk (n : Nat) : Bool := n < 2 ^ 16
def dwordOk (n : Nat) : Bool := n < 2 ^ 32

/-- A stream and rank, 0 to 65,534 (Table 0-3). -/
def rankOk (n : Nat) : Bool := n ≤ 65534

/-- A core of the largest part: 1,000 kennels of 80 (R22). -/
def coreOk (c : Nat) : Bool := c < 80000

/-- A sample at a stage: positions lie below 2^48 (R171). -/
def ItemRef.wf (r : ItemRef) : Bool := wordOk r.stage && dwordOk r.epoch && r.position < 2 ^ 48

/-- The fields of a 48-byte Heel message, which carries a digest of 32 bytes (Table 7-3). -/
def HeelFrame.wf (f : HeelFrame) : Bool :=
  wordOk f.seq && wordOk f.ackSeq && f.keyA < 2 ^ 64 && dwordOk f.epoch && f.keyB < 2 ^ 64 && f.digest.length = 32

/-- The fields of a Plyn header that name a message (R230). -/
def MsgKey.wf (k : MsgKey) : Bool := dwordOk k.source && dwordOk k.jobEpoch && k.keyPhase < 256 && k.msgId < 2 ^ 48

/-- An offset is one that PLT_PTP_OFFSET can show. -/
def PtpEvent.wf : PtpEvent → Bool
  | .offset ns => -2 ^ 31 ≤ ns && ns < 2 ^ 31
  | .frame _ _ bytes => bytes.length ≤ 16384
  | .step _ | .masterFound | .grandmaster | .sendSync _ _ | .sendAnnounce _ _ | .sendRequest _ _ => true

/-- A hard decode corrects no more bits than the code word has. -/
def NandOutcome.wf : NandOutcome → Bool
  | .hard n => n ≤ 65536
  | .soft | .uncorrectable => true

/-- A kennel of the largest part. -/
def JtagBlock.wf : JtagBlock → Bool
  | .kennel k => k < 1000
  | .crypto | .keyStore | .other => true

/-- A reason and detail that SHD_BOOT can show, and kennels of the largest part. -/
def BootResult.wf : BootResult → Bool
  | .failed reason detail => reason < 256 && dwordOk detail
  | .doneSelfTest ks => ks.all fun k => k < 1000
  | .doneNand targets perBlock rated =>
    targets.all (fun t => t.channel < 48 && t.number < 16 && dwordOk t.blocks) && 1 ≤ perBlock && 1 ≤ rated
  | .doneReplay _ _ => true
  | .done | .doneOther => true

/-- Is a command well-formed? -/
def Instr.wf : Instr → Bool
  | .registerWrite offset width _ => offset < 2 ^ 26 && (width = 8 || width = 16 || width = 32 || width = 64)
  | .reserveReloadDone _ stage group => wordOk stage && wordOk group
  | .engineFault cls engine => 1 ≤ cls && cls ≤ 15 && engine < 256
  | .modelPackageLoad _ stage => wordOk stage.of_ && stage.outcomes.all NandOutcome.wf
  | .positionAssign _ rank => rankOk rank
  | .sampleDispatch item core handle => item.wf && coreOk core && dwordOk handle
  | .indexTableRead _ shard => dwordOk shard.of_ && shard.outcomes.all NandOutcome.wf
  | .regionWaitExpiry item frame => item.wf && dwordOk frame
  | .compressStage item _ _ => item.wf
  | .deadlineExpiry _ rank => rankOk rank
  | .mailboxDeliver core channel => coreOk core && channel < 8
  | .tagComplete core _ => coreOk core
  | .exBudget core => coreOk core
  | .groupRestart _ stage group => wordOk stage && wordOk group
  | .returnOpen _ source _ => dwordOk source
  | .maskStep _ stream => dwordOk stream
  | .storeRecord _ stage => wordOk stage
  | .heelFrameResend _ seq => wordOk seq
  | .contextFetchDone _ ctx => wordOk ctx
  | .ackTimer ctx source => wordOk ctx && dwordOk source
  | .retransmitTimeout ctx dest msgId fragment => wordOk ctx && dwordOk dest && msgId < 2 ^ 48 && wordOk fragment
  | .messageGiveUp ctx dest msgId => wordOk ctx && dwordOk dest && msgId < 2 ^ 48
  | .retryHoldExpiry ctx dest msgId fragment => wordOk ctx && dwordOk dest && msgId < 2 ^ 48 && wordOk fragment
  | .filterEntryExpiry ctx key => wordOk ctx && key.wf
  | .keyPhaseWindowExpiry ctx source => wordOk ctx && dwordOk source
  | .deliveryRetryTimer _ rank dest => rankOk rank && dwordOk dest
  | .ptpEventMessage event => event.wf
  | .dmaTransferError _ _ prefix_ => prefix_ < 2 ^ 64
  | .dmaAbortComplete _ prefix_ => prefix_.all fun n => n < 2 ^ 64
  | .poolRequest _ stage => wordOk stage
  | .poolRelease handle stage => dwordOk handle && wordOk stage
  | .poolSetCount handle stage count => dwordOk handle && wordOk stage && wordOk count
  | .nandReadDone _ unit outcome => unit < 65536 && outcome.wf
  | .trsBusError _ units => units ≤ 65536
  | .blockErase block => dwordOk block
  | .programFailure block => dwordOk block
  | .eraseFailure block => dwordOk block
  | .sweepDone nsid => 1 ≤ nsid && nsid ≤ 64
  | .hbAck source peerEpoch _ => dwordOk source && dwordOk peerEpoch
  | .livenessLeaseExpiry member => wordOk member
  | .progressLeaseExpiry member => wordOk member
  | .jtagAccess block _ => block.wf
  | .bootStageComplete result => result.wf
  | .temperatureSample _ raw => -32768 ≤ raw && raw ≤ 32767
  | .railSample _ millivolts milliamps => wordOk millivolts && dwordOk milliamps
  | .sampleReadDone item (.nand outcomes) => item.wf && outcomes.all NandOutcome.wf
  | .sampleReadDone item .remote | .cryptStage item | .decompressStage item | .digestStage item | .imageDecode item
  | .videoDecode item | .resample item | .tokenize item => item.wf
  | .add core _ | .sub core _ | .and core _ | .or core _ | .xor core _ | .shl core _ | .shr core _ | .sra core _
  | .addi core _ | .mul core _ | .div core _ | .cmp core _ | .ld core _ | .st core _ | .br core _ | .call core _
  | .jr core _ | .cwr core _ | .cww core _ | .wld core _ | .wst core _ | .wadd core _ | .wsub core _ | .wmul core _
  | .wfma core _ | .wdot core _ | .wcmp core _ | .wsel core _ | .wshuf core _ | .wcvt core _ | .wmax core _
  | .wmin core _ | .wredu core _ | .wreduU core _ | .wins core _ | .wext core _ | .wbcast core _ | .sin core _
  | .sout core _ | .sdone core _ | .oalloc core _ | .mbsend core _ | .mbrecv core _ | .mbpoll core _
  | .kgive core _ | .get core _ | .put core _ | .wait core _ | .fence core _ | .ovl core _ | .rdtime core _
  | .halt core _ => coreOk core
  | .heelSetup frame | .heelBatchDigest frame | .heelStageDigest frame | .heelFreeze frame
  | .heelLocateRequest frame | .heelLocateAnswer frame | .heelReport frame | .heelAckFrame frame => frame.wf
  | .pltWrite _ _ frame | .pltWriteImm _ _ frame | .pltReadReq _ _ frame | .pltReadResp _ _ frame
  | .pltAtomicAdd _ _ frame | .pltAtomicCas _ _ frame | .pltAck _ _ frame | .pltNak _ _ frame
  | .pltCredit _ _ frame | .invalidFrame _ ⟨_, frame⟩ => frame.length ≤ 16384
  | .join source msg | .roster source msg | .heartbeat source msg | .arrive source msg | .arriveAck source msg
  | .commit source msg | .mirror source msg | .mirrorAck source msg | .move source msg | .fetch source msg
  | .records source msg | .takeover source msg | .takeoverAck source msg | .resolve source msg => dwordOk source && msg.length < 65536
  | .pltTimeNsRead | .pltMissqRead _ | .poolMinFreeRead _ | .chkRunningRead _ | .islandDroopDetect _
  | .stretchStepDown _ | .channelHung _ _ | .dieFault _ | .wholeDeviceLoad _ | .perHedgeLoad _ | .unload _
  | .reservedLoadOp _ | .loadComplete | .unloadComplete | .epochTimerFire _ | .timerPulseEnd _ | .accept _
  | .start _ | .stop _ | .abort _ | .clear _ | .drainComplete _ | .captureTrigger _ | .returnTokens _ _
  | .returnClose _ _ | .pbqDepthWrite _ _ | .heelCtrlWrite _ _ | .heelLinkselWrite _ _ | .heelSetupTimeout _
  | .heelDigestTimeout _ | .heelLocateStart _ | .frameTransmit _ _ | .gateEntryChange _
  | .pltPortCfgWrite _ _ | .linkStateChange _ _ _ | .shaperRateWrite _ _ _ _ | .shaperBurstWrite _ _ _ _
  | .masterLoss | .holdoverTimeout | .ppsInEdge _ | .ppsSecond _ | .dmaGo _ | .dmaAbort _ | .dmaHold _
  | .dmaRelease _ | .dmaDescriptorComplete _ | .chkEnable _ | .chkDisable _ | .chkPause _ | .chkPaused _
  | .chkResume _ | .chkHold _ | .chkRelease _ | .chkConfigWrite _ _ _ | .chkStateWrite _ _ _ | .chkRecord _ _ _
  | .briGo _ | .briAbort _ | .briHold _ | .briRelease _ | .briBlockDone _ _ | .briDescriptorComplete _ | .trsRead _
  | .trsWrite _ | .trsWriteAtomic _ | .trsFlush _ | .trsTrim _ | .trsVerify _ | .trsFormat _ | .trsCommandStart _
  | .trsCommandComplete _ | .controllerReset | .controllerResetDone | .checkpointStart | .checkpointDone
  | .garbageCollection | .healthSnapshot | .temperatureHour _ _ _ | .blkNsCreate _ | .blkNsDelete _ | .blkKeyRotate _ | .blkKeySweep _
  | .blkKeyDestroy _ | .fleetEnable _ | .fltConfigWrite _ _ | .heartbeatTimer | .workerIsolation
  | .managerIsolation | .standbyTakeoverTimeout | .takeoverQuorumTimeout | .secAttest _ | .secKeyImport _
  | .secKeyDestroy _ | .secHedgeOwner _ | .secAnchorSet _ | .secCertRead _ | .mgmtTlsHandshake _
  | .powerWindowBoundary | .counterSampleBoundary | .shdFwStage _ | .shdFwActivate _ | .firmwareSwitch
  | .shdReset _ | .shdFallbackExit _ | .pwrSetCap _ | .pwrSetPlanMax _ | .shdFeature _ | .shdDiag _ | .powerOnReset
  | .warmReset | .hostPortReset | .pcieConfigRequest | .domainPowerGood _ | .bootStageTimeout | .thermalRestart
  | .capLimiterStep | .thermalLimiterStep | .droopLimiterStep _ | .smbusBlockRead _ | .smbusReject
  | .resetPinRise _ _ | .msixCoalesceExpiry _ => true

end Sys2Proof
end

