-- ==== Sys2Proof/Safety.lean ====
section
/-! DEFINITION. What the statements call a sound state: the queue holds well-formed commands, and every table that has a
canonical form is in it. Also the short names that the statements use for when a unit takes a command. -/

namespace Sys2Proof.Machine

/-- Every waiting command is well-formed. -/
def State.queueOk (s : State) : Bool := s.pending.all Instr.wf

/-- Every byte memory is in its canonical form: addresses strictly rising, no byte listed that reads as an unlisted one. -/
def State.memoriesOk (s : State) : Bool := Memory.wf s.dram && Memory.wf s.sram && Memory.wf s.hostMem

/-- The register file is in its canonical form: offsets strictly rising, no register listed at its reset value. -/
def State.registersOk (s : State) : Bool := Tab.wf regDefault s.regs

/-- A state in which nothing is held twice and every waiting command is well-formed. -/
def State.sound (s : State) : Bool := s.queueOk && s.memoriesOk && s.registersOk

/-- The commands of a queue run to the end, stopping at the first that does not answer a next state. -/
def State.runAll (s : State) : Nat → Host.Outcome State Fault Refusal
  | 0 => .next s
  | n + 1 => match step s with
    | .next t => if t.pending.isEmpty then .next t else State.runAll t n
    | other => other

/-- A core of the part takes the instruction at its pc: the device is in service, the core runs within its budget, it is not
blocked, but for an instruction of the kind that it waits in, which is tried again, no error detection reports anything, and
the opcode is assigned. -/
def State.takes (s : State) (core : Nat) (f : Fields) (retry : Blocked) : Bool :=
  s.live && s.hasCore core && s.coreReady core retry && s.opcodeOk core && f.check = .clean

/-- A Plyn frame that a sub-port accepts up to step 6 of the receive order (Table 8-5): the link is up, no paused check-value
unit stalls it, it is an opcode's
valid frame of the right length and age, its context record is on chip, its tag agrees under the context's key, its key
phase is accepted, and the payload has the opcode's shape. Answers the state that has noted the packet, the record, the
header and the payload. -/
def State.packet (s : State) (port sub op : Nat) (frame : Bytes) : Option (State × Context × PltHeader × Bytes) :=
  let h := pltHeaderOf frame
  if s.live && !s.ingressStalled port sub && s.linkUp port sub && h.opcode = op && 64 ≤ frame.length && h.valid s.sourceId && frame.length = pltFrameLength h &&
      !s.ageBad h && !h.unauth then
    match s.contexts.find h.context with
    | none => none
    | some c =>
      match openFrame ((s.contextKey c).getD []) h frame with
      | none => none
      | some payload =>
        if c.onChip && (s.contextKey c).isSome && c.phaseOk h && controlShapeOk h payload && (!opSingle h.opcode || h.count = 1) then
          some ((s.adjustCtx h.context fun _ => c.sawPacket h port sub).touchCtx h.context, c.sawPacket h port sub, h, payload)
        else none
  else none

/-- What an element-wise instruction leaves: the elements of w[D] that the governing predicate enables hold their new
values, the others the old ones (R68), the flags of the enabled elements are sticky (R74), and nothing else of the core
changes but that the instruction retires. -/
def State.elementsWritten (s t : State) (core : Nat) (f : Fields) (b : Nat) (val : Nat → Nat × FpFlags) : Prop :=
  let c := s.core core
  ∃ x : Core, t = s.setCore core x.retire ∧ x = { c with w := x.w, flags := x.flags } ∧
    (∀ r, r ≠ f.d.val → x.getW r = c.getW r) ∧
    (∀ e, e < elementCount b → element b e (x.getW f.d.val) =
      if c.governs f (b * e) then (val e).1 % 2 ^ (8 * b) else element b e (c.getW f.d.val)) ∧
    x.flags = ((List.range (elementCount b)).filter fun e => c.governs f (b * e)).foldl (fun a e => a.or (val e).2) c.flags

end Sys2Proof.Machine
end

