-- ==== Sys2Proof/Certificates/Slice0/Obligations.lean ====
section
/-! DEFINITION. The statements about the model, one definition each. -/

open Sys2Proof Sys2Proof.Machine

/-- On a core that takes an instruction, with a legal form and an enabling predicate, ADD, SUB, AND, OR, XOR, SHL,
SHR, SRA, MUL and ADDI answer the state in which s[D] holds the result of Table 3-5 (shift counts modulo 64, MUL the
low 64 bits, ADDI with the sign-extended immediate; a write of s0 is discarded) and the instruction has retired; the
rest of the device is unchanged. (R64, R66, R68, R70) -/
def Obligations.ScalarArithmeticWritesDestination : Prop :=
  ∀ (s : State) (core : Nat) (f : Fields), s.takes core f .no = true → (s.core core).executes f = true →
    let c := s.core core
    let a := c.getS f.a.val
    let b := c.getS f.b.val
    let wrote := fun (v : BitVec 64) => s.setCore core (c.setS f.d.val v).retire
    (formR f 0 = true →
      exec (.add core f) s = .next (wrote (a + b)) ∧ exec (.sub core f) s = .next (wrote (a - b)) ∧
      exec (.and core f) s = .next (wrote (a &&& b)) ∧ exec (.or core f) s = .next (wrote (a ||| b)) ∧
      exec (.xor core f) s = .next (wrote (a ^^^ b)) ∧ exec (.mul core f) s = .next (wrote (a * b)) ∧
      exec (.shl core f) s = .next (wrote (a <<< (b.toNat % 64))) ∧
      exec (.shr core f) s = .next (wrote (a >>> (b.toNat % 64))) ∧
      exec (.sra core f) s = .next (wrote (a.sshiftRight (b.toNat % 64)))) ∧
    (formI f = true → exec (.addi core f) s = .next (wrote (a + f.imm.signExtend 64)))

/-- DIV with TYPE u64 or s64 and D at most 30 writes the quotient to s[D] and the remainder to s[D+1]; by zero the
quotient has every bit set and the remainder is the dividend; otherwise an unsigned division is that of natural
numbers, and a signed one rounds toward zero, which is the model's choice (log entry 35). Other TYPEs, or D = 31,
raise EX_ILLEGAL. (R66, R68, 03_kennel_core.md Table 3-5) -/
def Obligations.DivisionResults : Prop :=
  ∀ (s : State) (core : Nat) (f : Fields), s.takes core f .no = true → (s.core core).executes f = true → formR f 0 = true →
    let c := s.core core
    let a := c.getS f.a.val
    let b := c.getS f.b.val
    let wrote := fun (q r : BitVec 64) => s.setCore core ((c.setS f.d.val q).setS (f.d.val + 1) r).retire
    ((f.ty.val = 9 ∨ f.ty.val = 10) → f.d.val ≤ 30 →
      (b = 0 → exec (.div core f) s = .next (wrote (BitVec.allOnes 64) a)) ∧
      (b ≠ 0 → f.ty.val = 9 → exec (.div core f) s = .next (wrote (a / b) (a % b))) ∧
      (b ≠ 0 → f.ty.val = 10 → exec (.div core f) s = .next (wrote (a.sdiv b) (a.srem b)))) ∧
    (((f.ty.val ≠ 9 ∧ f.ty.val ≠ 10) ∨ f.d.val = 31) → exec (.div core f) s = .next (s.exception core EX_ILLEGAL))

/-- CMP sets every bit of p[D] to the outcome of its condition (a write of p0 is ignored); CWR reads the control words
0 to 4 of Table 3-6 (core, kennel, GROUPIDX, FPFLAGS, budget) into s[D]; CWW of word 3 alone writes FPFLAGS from the
low four bits of s[A]; other words raise EX_ILLEGAL; RDTIME writes a free value to s[D] (log entry 1: the model counts
no cycles); HALT stops the core. (R66, R70, R74, 03_kennel_core.md Table 3-6) -/
def Obligations.ControlWordsCompareTimeAndHalt : Prop :=
  ∀ (s : State) (core : Nat) (f : Fields), s.takes core f .no = true → (s.core core).executes f = true →
    let c := s.core core
    let a := c.getS f.a.val
    let b := c.getS f.b.val
    let wrote := fun (v : BitVec 64) => s.setCore core (c.setS f.d.val v).retire
    (formR f 3 = true → isP f.d = true →
      exec (.cmp core f) s = .next (s.setCore core (c.setP f.d.val (allBits (scalarCond (uimm f) a b))).retire)) ∧
    (formI f = true →
      (uimm f = 0 → exec (.cwr core f) s = .next (wrote (BitVec.ofNat 64 core))) ∧
      (uimm f = 1 → exec (.cwr core f) s = .next (wrote (BitVec.ofNat 64 (core / 80)))) ∧
      (uimm f = 2 → ∀ g, (s.kennel (core / 80)).bound = some g →
        exec (.cwr core f) s = .next (wrote (BitVec.ofNat 64 g.groupIdx))) ∧
      (uimm f = 3 → exec (.cwr core f) s = .next (wrote c.flags.toWord) ∧
        exec (.cww core f) s = .next (s.setCore core
          { c with flags := ⟨a.getLsbD 0, a.getLsbD 1, a.getLsbD 2, a.getLsbD 3⟩ }.retire)) ∧
      (uimm f = 4 → exec (.cwr core f) s = .next (wrote (BitVec.ofNat 64 c.budget))) ∧
      (4 < uimm f → exec (.cwr core f) s = .next (s.exception core EX_ILLEGAL)) ∧
      (uimm f ≠ 3 → exec (.cww core f) s = .next (s.exception core EX_ILLEGAL))) ∧
    (formR f 0 = true →
      exec (.rdtime core f) s = .next { wrote (BitVec.ofNat 64 s.freeValue) with free := s.free + 1 } ∧
      exec (.halt core f) s = .next (s.setCore core { c with halted := true }.retire))

/-- BR and CALL go to the instruction's own address plus 8 times IMM, JR to s[A]; CALL writes the address of the next
instruction to s31. A target outside the 4 KiB of instruction memory raises EX_ADDR, one inside it that is no multiple
of 8 raises EX_ALIGN. (R63, R66, R75) -/
def Obligations.BranchTargets : Prop :=
  ∀ (s : State) (core : Nat) (f : Fields), s.takes core f .no = true → (s.core core).executes f = true →
    let c := s.core core
    let there : Int := (c.pc : Int) + 8 * f.imm.toInt
    let far : Nat := (c.getS f.a.val).toNat
    (formI f = true →
      (0 ≤ there → there < 4096 → there % 8 = 0 →
        exec (.br core f) s = .next (s.setCore core { c.retire with pc := there.toNat }) ∧
        exec (.call core f) s = .next (s.setCore core { (c.setS 31 (BitVec.ofNat 64 (c.pc + 8))).retire with pc := there.toNat })) ∧
      ((there < 0 ∨ 4096 ≤ there) →
        exec (.br core f) s = .next (s.exception core EX_ADDR) ∧ exec (.call core f) s = .next (s.exception core EX_ADDR)) ∧
      (0 ≤ there → there < 4096 → there % 8 ≠ 0 →
        exec (.br core f) s = .next (s.exception core EX_ALIGN) ∧ exec (.call core f) s = .next (s.exception core EX_ALIGN))) ∧
    (formR f 0 = true →
      (far < 4096 → far % 8 = 0 → exec (.jr core f) s = .next (s.setCore core { c.retire with pc := far })) ∧
      (4096 ≤ far → exec (.jr core f) s = .next (s.exception core EX_ADDR)) ∧
      (far < 4096 → far % 8 ≠ 0 → exec (.jr core f) s = .next (s.exception core EX_ALIGN)))

/-- For every core instruction that takes effect on a core, a reserved TYPE raises EX_ILLEGAL; for the register forms
an IMM that must be zero does, and for the immediate forms B or C. A legal scalar instruction whose predicate disables
it only retires. A core that is stopped, unbound, out of budget or blocked takes nothing, and a core that the part
does not have is a fault. For each of the 52 instructions, an unassigned opcode in the word at the pc raises
EX_ILLEGAL, an error that is not correctable EX_MCHECK, and a corrected error is counted before the instruction does
what it does without one. (R68, R69, R76, R86, 03_kennel_core.md Table 3-3, 03_kennel_core.md Table 3-4) -/
def Obligations.IllegalFormsTrapAndPredicatesDisable : Prop :=
  ∀ (s : State) (core : Nat) (f : Fields),
    let forms : Fields → List Instr := fun f => [.add core f, .sub core f, .and core f, .or core f, .xor core f, .shl core f, .shr core f, .sra core f,
      .addi core f, .mul core f, .div core f, .cmp core f, .br core f, .call core f, .jr core f, .cwr core f, .cww core f,
      .wadd core f, .wsub core f, .wmul core f, .wfma core f, .wdot core f, .wcmp core f, .wsel core f, .wshuf core f, .wcvt core f,
      .wmax core f, .wmin core f, .wredu core f, .wreduU core f, .wins core f, .wext core f, .wbcast core f, .sin core f, .sout core f,
      .sdone core f, .oalloc core f, .mbpoll core f, .kgive core f, .ovl core f, .rdtime core f, .halt core f]
    let scalarForms : List Instr := [.add core f, .sub core f, .and core f, .or core f, .xor core f, .shl core f, .shr core f,
      .sra core f, .mul core f, .jr core f, .rdtime core f, .halt core f, .sdone core f, .oalloc core f, .ovl core f]
    let others : Fields → List (Blocked × Instr) := fun f => [(.tag, .ld core f), (.tag, .st core f), (.tag, .wld core f), (.tag, .wst core f),
      (.tag, .get core f), (.tag, .put core f), (.tag, .wait core f), (.tag, .fence core f), (.send, .mbsend core f), (.recv, .mbrecv core f)]
    let every : Fields → List (Blocked × Instr) := fun f => (forms f).map (fun i => (.no, i)) ++ others f
    (∀ x ∈ every f, s.live = true → s.hasCore core = true → s.coreReady core x.1 = true →
      (f.check = .fatal → exec x.2 s = .next (s.exception core EX_MCHECK)) ∧
      (f.check = .clean → s.opcodeOk core = false → exec x.2 s = .next (s.exception core EX_ILLEGAL))) ∧
    (∀ x ∈ (every f).zip (every { f with check := .clean }), s.live = true → s.coreReady core x.1.1 = true → f.check = .corrected →
      exec x.1.2 s = exec x.2.2 (s.countEcc core)) ∧
    (s.takes core f .no = true →
      (11 ≤ f.ty.val → ∀ i ∈ forms f, exec i s = .next (s.exception core EX_ILLEGAL)) ∧
      (f.imm ≠ 0 → ∀ i ∈ scalarForms, exec i s = .next (s.exception core EX_ILLEGAL)) ∧
      ((f.b ≠ 0 ∨ f.c ≠ 0) → ∀ i ∈ [Instr.addi core f, .br core f, .call core f, .cwr core f, .cww core f],
        exec i s = .next (s.exception core EX_ILLEGAL)) ∧
      (f.ty.val ≤ 10 → f.imm = 0 → (s.core core).executes f = false →
        ∀ i ∈ scalarForms, exec i s = .next (s.setCore core (s.core core).retire))) ∧
    (s.hasCore core = true → (s.live && s.coreReady core .no) = false → ∀ i ∈ forms f, exec i s = .next s) ∧
    (s.hasCore core = false → ∀ i ∈ forms f, exec i s = .fault .noSuchUnit)

/-- A legal, enabled load or store whose access raises no exception and whose bytes no outstanding GET writes (a
store: nor an outstanding PUT reads) completes: LD writes the value at s[A] + IMM, extended as its TYPE states, to
s[D]; ST stores the low bytes of s[B]; WLD loads the enabled elements of w[D] from 256 bytes; WST stores the bytes of
the enabled elements and leaves the others. A wide one that its predicate disables entirely only retires. Where a copy
holds the bytes the core waits. (R66, R68, R75, R79) -/
def Obligations.LoadsAndStoresComplete : Prop :=
  ∀ (s : State) (core : Nat) (f : Fields), s.takes core f .tag = true →
    let c := s.core core
    let a := c.address f
    let n := typeBytes f.ty.val
    let waits := s.setCore core { c with blocked := .tag }
    ((s.core core).executes f = true → formI f = true → s.accessFault core a n n false = none →
      (c.tagged a n false = false →
        exec (.ld core f) s = .next (s.setCore core (c.setS f.d.val (extendTo64 f.ty.val (leNat (s.coreRead core a n)))).retire)) ∧
      (c.tagged a n false = true → exec (.ld core f) s = .next waits)) ∧
    ((s.core core).executes f = true → f.ty.val ≤ 10 → f.c = 0 → s.accessFault core a n n true = none →
      (c.tagged a n true = false →
        exec (.st core f) s = .next ((s.setCore core c.retire).coreWrite core a (leBytes n (c.getS f.b.val).toNat))) ∧
      (c.tagged a n true = true → exec (.st core f) s = .next waits)) ∧
    (formI f = true → f.ty.val ≤ 8 → f.d.val < 16 →
      ((∃ e, e < elementCount n ∧ c.governs f (n * e) = true) →
        (s.accessFault core a 256 32 false = none →
          (c.tagged a 256 false = false → ∃ t, exec (.wld core f) s = .next t ∧
            s.elementsWritten t core f n fun e => (element n e (BitVec.ofNat 2048 (leNat (s.coreRead core a 256))), FpFlags.none)) ∧
          (c.tagged a 256 false = true → exec (.wld core f) s = .next waits)) ∧
        (s.accessFault core a 256 32 true = none →
          (c.tagged a 256 true = false → exec (.wst core f) s = .next ((s.setCore core c.retire).coreWrite core a
            ((List.range (elementCount n)).flatMap fun e =>
              if c.governs f (n * e) then leBytes n (element n e (c.getW f.d.val)) else s.coreRead core (a + n * e) n))) ∧
          (c.tagged a 256 true = true → exec (.wst core f) s = .next waits))) ∧
      ((∀ e, e < elementCount n → c.governs f (n * e) = false) →
        exec (.wld core f) s = .next (s.setCore core c.retire) ∧ exec (.wst core f) s = .next (s.setCore core c.retire)))

/-- A legal, enabled LD or ST outside data memory and the kennel store raises EX_ADDR; inside, one not aligned to its
size raises EX_ALIGN; an aligned one in the kennel store whose region is UNUSED, is SHARED and stored to, or is owned
by another core raises EX_OWN. WLD and WST, with any element enabled, do so for their 256 bytes and 32-byte alignment.
(R75, R76, R77, 03_kennel_core.md Table 3-7) -/
def Obligations.CoreAccessExceptions : Prop :=
  ∀ (s : State) (core : Nat) (f : Fields), s.takes core f .tag = true →
    let c := s.core core
    let a := c.address f
    let n := typeBytes f.ty.val
    let inMap := fun (m : Nat) => (0x10000 ≤ a ∧ a + m ≤ 0x13000) ∨ (0x100000 ≤ a ∧ a + m ≤ 0x140000)
    let region := (s.kennel (core / 80)).regions.find ((a - 0x100000) / 1024)
    let traps := fun (i : Instr) (m align : Nat) (write : Bool) =>
      (¬ inMap m → exec i s = .next (s.exception core EX_ADDR)) ∧
      (inMap m → a % align ≠ 0 → exec i s = .next (s.exception core EX_ALIGN)) ∧
      (0x100000 ≤ a → inMap m → a % align = 0 →
        (region = none ∨ (region = some .shared ∧ write = true) ∨ (∃ j, region = some (.owned j) ∧ j ≠ core % 80)) →
        exec i s = .next (s.exception core EX_OWN))
    (c.executes f = true → formI f = true → traps (.ld core f) n n false) ∧
    (c.executes f = true → f.ty.val ≤ 10 → f.c = 0 → traps (.st core f) n n true) ∧
    (formI f = true → f.ty.val ≤ 8 → f.d.val < 16 → (∃ e, e < elementCount n ∧ c.governs f (n * e) = true) →
      traps (.wld core f) 256 32 false ∧ traps (.wst core f) 256 32 true)

/-- Whenever ST or WST stores, the stored bytes read back (ST: the low bytes of s[B]; WST: the bytes of each enabled
element of w[D], with the bytes of disabled elements as before), every byte of every core's memory outside the size of
the access at s[A] + IMM reads as before (the kennel store is shared by the cores of a kennel), no register of any
core changes but that the instruction retires, and nothing outside cores and kennel stores changes: every other
register, memory and unit of the device stays as it was. (R64, R68, R75, R77) -/
def Obligations.StoresChangeOnlyTheirBytes : Prop :=
  ∀ (s t : State) (core : Nat) (f : Fields), s.takes core f .tag = true →
    let c := s.core core
    let a := c.address f
    let n := typeBytes f.ty.val
    let rest := fun (m : Nat) =>
      (∀ j x, ¬ (a ≤ x ∧ x < a + m ∧ (j = core ∨ (j / 80 = core / 80 ∧ 0x100000 ≤ x))) → t.coreRead j x 1 = s.coreRead j x 1) ∧
      (∃ d, t.core core = { c.retire with dmem := d }) ∧ (∀ j, j ≠ core → t.core j = s.core j) ∧
      (∀ k, ∃ b, t.kennel k = { s.kennel k with store := b }) ∧ t = { s with cores := t.cores, kennels := t.kennels }
    (c.executes f = true → f.ty.val ≤ 10 → f.c = 0 → s.accessFault core a n n true = none → c.tagged a n true = false →
      exec (.st core f) s = .next t →
      t.coreRead core a n = leBytes n (c.getS f.b.val).toNat ∧ rest n) ∧
    (formI f = true → f.ty.val ≤ 8 → f.d.val < 16 → (∃ e, e < elementCount n ∧ c.governs f (n * e) = true) →
      s.accessFault core a 256 32 true = none → c.tagged a 256 true = false → exec (.wst core f) s = .next t →
      (∀ e, e < elementCount n → t.coreRead core (a + n * e) n =
        if c.governs f (n * e) then leBytes n (element n e (c.getW f.d.val)) else s.coreRead core (a + n * e) n) ∧ rest 256)

/-- WADD, WSUB, WMUL, WFMA, WDOT, WSEL, WSHUF, WCVT, WMAX, WMIN, WBCAST and WINS with a legal form complete: every
element of w[D] that the governing predicate enables holds the result of Table 3-5 on the old operands, every other
element and every other register keeps its value, the FP flags of enabled elements are added to FPFLAGS, and the
instruction retires. Where WCVT changes the element size, elements that only one register holds keep their value,
which is the model's reading (log entry 36); WINS with an index beyond the register names no element. (R64, R65, R66,
R68, R70, R74) -/
def Obligations.WideElementwiseResults : Prop :=
  ∀ (s : State) (core : Nat) (f : Fields), s.takes core f .no = true →
    let c := s.core core
    let ty := f.ty.val
    let b := typeBytes ty
    let x := fun (e : Nat) => element b e (c.getW f.a.val)
    let y := fun (e : Nat) => element b e (c.getW f.b.val)
    let d := fun (n e : Nat) => element n e (c.getW f.d.val)
    let bits := fun (v : Nat) => (v, FpFlags.none)
    let leaves := fun (i : Instr) (n : Nat) (val : Nat → Nat × FpFlags) => ∃ t, exec i s = .next t ∧ s.elementsWritten t core f n val
    f.d.val < 16 → ty ≤ 8 →
      (f.a.val < 16 → f.b.val < 16 →
        (uimm f < 2 →
          leaves (.wadd core f) b (fun e => arithElement ty (natBit (uimm f) 0) fpAdd (· + ·) (x e) (y e)) ∧
          leaves (.wsub core f) b (fun e => arithElement ty (natBit (uimm f) 0) fpSub (· - ·) (x e) (y e)) ∧
          leaves (.wmul core f) b (fun e => arithElement ty (natBit (uimm f) 0) fpMul (· * ·) (x e) (y e))) ∧
        (uimm f = 0 →
          (ty = 8 → leaves (.wfma core f) 4 (fun e => fpFma fp32 (d 4 e) (x e) (y e))) ∧
          (ty = 6 → leaves (.wdot core f) 4 (fun e => dotFp fp16 (d 4 e) (x (2 * e)) (y (2 * e)) (x (2 * e + 1)) (y (2 * e + 1)))) ∧
          (ty = 7 → leaves (.wdot core f) 4 (fun e => dotFp bf16 (d 4 e) (x (2 * e)) (y (2 * e)) (x (2 * e + 1)) (y (2 * e + 1)))) ∧
          (ty ≤ 1 → leaves (.wdot core f) 4 (fun e => bits (wrapInt 32
            (typeInt ty (x (4 * e)) * typeInt ty (y (4 * e)) + typeInt ty (x (4 * e + 1)) * typeInt ty (y (4 * e + 1)) +
              typeInt ty (x (4 * e + 2)) * typeInt ty (y (4 * e + 2)) + typeInt ty (x (4 * e + 3)) * typeInt ty (y (4 * e + 3)))))) ∧
          (f.c.val < 8 → leaves (.wsel core f) b (fun e => bits (if (c.getP f.c.val).getLsbD (b * e) then x e else y e))) ∧
          leaves (.wshuf core f) 1 (fun e => bits (element 1 (element 1 e (c.getW f.b.val)) (c.getW f.a.val))) ∧
          leaves (.wmax core f) b (fun e => extremeElement ty true (x e) (y e)) ∧
          leaves (.wmin core f) b (fun e => extremeElement ty false (x e) (y e)))) ∧
      (f.a.val < 16 → uimm f ≤ 8 → leaves (.wcvt core f) (typeBytes (uimm f)) (fun e =>
        if e < elementCount b ∧ e < elementCount (typeBytes (uimm f)) then convert ty (uimm f) (x e) else bits (d (typeBytes (uimm f)) e))) ∧
      (uimm f = 0 →
        leaves (.wbcast core f) b (fun _ => bits (c.getS f.a.val).toNat) ∧
        leaves (.wins core f) b (fun e => bits (if e = (c.getS f.b.val).toNat then (c.getS f.a.val).toNat else d b e)))

/-- WCMP with a legal form completes: in p[D] the bit b × e of each enabled element e holds the comparison of element
e of w[A] and w[B]; every other bit of p[D], and every other predicate, keeps its value; with D = 0 no predicate
changes (p0 is not written); the flags of enabled comparisons are added to FPFLAGS; nothing else changes but that the
instruction retires. (R64, R65, R68, 03_kennel_core.md Table 3-5) -/
def Obligations.WideComparisonWritesPredicateBits : Prop :=
  ∀ (s : State) (core : Nat) (f : Fields), s.takes core f .no = true →
    f.ty.val ≤ 8 → uimm f < 8 → f.d.val < 8 → f.a.val < 16 → f.b.val < 16 →
    let c := s.core core
    let b := typeBytes f.ty.val
    let cmp := fun (e : Nat) => elementCond f.ty.val (uimm f) (element b e (c.getW f.a.val)) (element b e (c.getW f.b.val))
    ∃ x : Core, exec (.wcmp core f) s = .next (s.setCore core x.retire) ∧ x = { c with p := x.p, flags := x.flags } ∧
      (∀ r, r ≠ f.d.val → x.getP r = c.getP r) ∧ (f.d.val = 0 → x.getP 0 = c.getP 0) ∧
      (f.d.val ≠ 0 → ∀ i, i < 256 → (x.getP f.d.val).getLsbD i =
        if i % b = 0 ∧ c.governs f i = true then (cmp (i / b)).1 else (c.getP f.d.val).getLsbD i) ∧
      x.flags = ((List.range (elementCount b)).filter fun e => c.governs f (b * e)).foldl (fun a e => a.or (cmp e).2) c.flags

/-- WREDU with a legal form writes to s[D] the exact sum of the elements modulo 2^64 for an integer TYPE, and for an
fp TYPE the fp32 sum of the fixed pairwise tree with its flags; WREDU.U does the same for integers, and for fp TYPEs
writes an fp32 sum of the elements in an order that a free value names (it is not fixed, log entry 1), with the flags
of that sum; WEXT writes element s[B] of w[A], extended as a load of TYPE, and where s[B] names no element (the spec
states no value, log entry 1) an open value that depends on TYPE, s[B] and w[A] alone. (R66, R70, R72, R74) -/
def Obligations.ReductionsAndSingleElements : Prop :=
  ∀ (s : State) (core : Nat) (f : Fields), s.takes core f .no = true → (s.core core).executes f = true → formR f 0 = true →
    f.ty.val ≤ 8 → f.a.val < 16 →
    let c := s.core core
    let b := typeBytes f.ty.val
    let x := fun (e : Nat) => element b e (c.getW f.a.val)
    let sum : Int := ((List.range (elementCount b)).map fun e => typeInt f.ty.val (x e)).sum
    let wrote := fun (v : BitVec 64) => s.setCore core (c.setS f.d.val v).retire
    let idx := (c.getS f.b.val).toNat
    (f.ty.val ≤ 5 →
      exec (.wredu core f) s = .next (wrote (BitVec.ofInt 64 sum)) ∧ exec (.wreduU core f) s = .next (wrote (BitVec.ofInt 64 sum))) ∧
    (∀ fm, typeFormat f.ty.val = some fm →
      (let r := treeSum 8 ((List.range (elementCount b)).map fun e => toFp32 fm (x e))
       exec (.wredu core f) s = .next (s.setCore core
          { c.setS f.d.val (BitVec.ofNat 64 r.1) with flags := c.flags.or r.2 }.retire)) ∧
      (let r := anyOrderSum 128 s.freeValue ((List.range (elementCount b)).map fun e => toFp32 fm (x e))
       exec (.wreduU core f) s = .next (s.drew.setCore core
          { c.setS f.d.val (BitVec.ofNat 64 r.1) with flags := c.flags.or r.2 }.retire))) ∧
    (idx < elementCount b → exec (.wext core f) s = .next (wrote (extendTo64 f.ty.val (x idx)))) ∧
    (elementCount b ≤ idx →
      exec (.wext core f) s = .next (wrote (BitVec.ofNat 64 (Config.strayElement f.ty.val idx (c.getW f.a.val).toNat))))

/-- For every integer TYPE of n bits, an element of WADD, WSUB or WMUL without SAT is congruent modulo 2^n to the
exact sum, difference or product of the operands as the TYPE reads them, and under SAT it is that exact value clamped
to the range of the TYPE; scalar ADD, SUB, MUL and ADDI wrap modulo 2^64; DIV by zero gives a quotient with every bit
set and a remainder equal to the dividend, and no exception: the core goes on. (R66) -/
def Obligations.IntegerArithmeticWrapsOrSaturates : Prop :=
  (∀ (ty a b : Nat) (sat : Bool) (fp : Format → Nat → Nat → Nat × FpFlags) (op : Int → Int → Int), ty ≤ 5 →
      let w := 8 * typeBytes ty
      let v : Int := op (typeInt ty a) (typeInt ty b)
      let r := (arithElement ty sat fp op a b).1
      let lo : Int := if typeSigned ty then -(2 ^ (w - 1) : Int) else 0
      let hi : Int := if typeSigned ty then 2 ^ (w - 1) - 1 else 2 ^ w - 1
      r < 2 ^ w ∧ (sat = false → (2 ^ w : Int) ∣ typeInt ty r - v) ∧ (sat = true → typeInt ty r = max lo (min hi v))) ∧
    (∀ (s : State) (core : Nat) (f : Fields), s.takes core f .no = true → (s.core core).executes f = true → f.d.val ≠ 0 →
      let c := s.core core
      let x := (c.getS f.a.val).toNat
      let y := (c.getS f.b.val).toNat
      (formR f 0 = true →
        (∃ t, exec (.add core f) s = .next t ∧ ((t.core core).getS f.d.val).toNat = (x + y) % 2 ^ 64) ∧
        (∃ t, exec (.sub core f) s = .next t ∧ ((t.core core).getS f.d.val).toNat = (x + 2 ^ 64 - y) % 2 ^ 64) ∧
        (∃ t, exec (.mul core f) s = .next t ∧ ((t.core core).getS f.d.val).toNat = x * y % 2 ^ 64) ∧
        ((f.ty.val = 9 ∨ f.ty.val = 10) → f.d.val ≤ 30 → y = 0 → ∃ t, exec (.div core f) s = .next t ∧
          (t.core core).exception = c.exception ∧ ((t.core core).getS f.d.val).toNat = 2 ^ 64 - 1 ∧
          ((t.core core).getS (f.d.val + 1)).toNat = x)) ∧
      (formI f = true → ∃ t, exec (.addi core f) s = .next t ∧
        (((t.core core).getS f.d.val).toNat : Int) = (x + f.imm.toInt) % 2 ^ 64))

/-- For fp16, bf16 and fp32, WADD, WSUB, WMUL, WMAX and WMIN of elements of which one is a NaN give the canonical
quiet NaN 0x7E00, 0x7FC0 or 0x7FC0_0000, and raise invalid exactly where an operand is a signalling NaN; a NaN
accumulator or factor of WFMA gives 0x7FC0_0000. (R65, 03_kennel_core.md Table 3-5) -/
def Obligations.NanResultsAreCanonical : Prop :=
  ∀ (ty a b d : Nat) (sat : Bool) (op : Int → Int → Int), ty = 6 ∨ ty = 7 ∨ ty = 8 →
    let nanOf := fun (v : Nat) => if ty = 6 then v / 2 ^ 10 % 2 ^ 5 = 31 ∧ v % 2 ^ 10 ≠ 0
      else if ty = 7 then v / 2 ^ 7 % 2 ^ 8 = 255 ∧ v % 2 ^ 7 ≠ 0 else v / 2 ^ 23 % 2 ^ 8 = 255 ∧ v % 2 ^ 23 ≠ 0
    let signalling := fun (v : Nat) => nanOf v ∧ v.testBit (if ty = 6 then 9 else if ty = 7 then 6 else 22) = false
    let quiet := if ty = 6 then 0x7E00 else if ty = 7 then 0x7FC0 else 0x7FC00000
    nanOf a ∨ nanOf b →
      (∀ r ∈ [arithElement ty sat fpAdd op a b, arithElement ty sat fpSub op a b, arithElement ty sat fpMul op a b,
          extremeElement ty true a b, extremeElement ty false a b],
        r.1 = quiet ∧ (r.2.invalid = true ↔ signalling a ∨ signalling b)) ∧
      (ty = 8 → (fpFma fp32 d a b).1 = 0x7FC00000)

/-- On bound channels: MBSEND queues s[A] or w[A] on its outbound channel where the destination has room for it and
what is in flight, and blocks where it has not; MBRECV writes the message at the head to s[D] or w[D] and removes it
(a token makes the core the region's owner and writes its number), blocks on an empty channel, and raises EX_CHAN on
another kind; MBPOLL writes whether a message is there; KGIVE by the owner to a core of its kennel queues a token and
leaves the region in flight, otherwise EX_OWN or EX_CHAN; MAILBOX_DELIVER moves the oldest queued message to the
inbound channel and wakes a core that waits there; where every core of the group is then blocked with nothing left in
flight, EX_DEADLOCK is raised. An unbound channel raises EX_CHAN. (R78, R80, R81, R82, 03_kennel_core.md Table 3-5) -/
def Obligations.MailboxAndRegionInstructionsComplete : Prop :=
  ∀ (s : State) (core : Nat) (f : Fields), formR f 4 = true → (s.core core).executes f = true →
    let c := s.core core
    let ch := uimm f / 2 % 8
    let wide := natBit (uimm f) 0
    let queued := queueAt c.outq ch
    let inbox := queueAt c.inq ch
    let ken := s.kennel (core / 80)
    let m : ChanMsg := if wide then .wide (c.getW f.a.val) else .scalar (c.getS f.a.val)
    (s.takes core f .send = true → (wide = true → f.a.val < 16) →
      (s.channelPeer core 0 ch = none → exec (.mbsend core f) s = .next (s.exception core EX_CHAN)) ∧
      (∀ d dch, s.channelPeer core 0 ch = some (d, dch) →
        (msgBytes (queueAt (s.core d).inq dch) + msgBytes queued + m.size ≤ 512 → exec (.mbsend core f) s =
          .next (s.setCore core { c.retire with outq := setQueue c.outq ch (queued ++ [m]) })) ∧
        (512 < msgBytes (queueAt (s.core d).inq dch) + msgBytes queued + m.size →
          exec (.mbsend core f) s = .next (s.block core .send)))) ∧
    (s.takes core f .recv = true → (wide = true → f.d.val < 16) →
      (s.channelPeer core 1 ch = none → exec (.mbrecv core f) s = .next (s.exception core EX_CHAN)) ∧
      (∀ src sch, s.channelPeer core 1 ch = some (src, sch) →
        (inbox = [] → exec (.mbrecv core f) s = .next (s.block core .recv)) ∧
        (∀ v rest, inbox = .scalar v :: rest → wide = false → exec (.mbrecv core f) s =
          .next ((s.setCore core { (c.setS f.d.val v).retire with inq := setQueue c.inq ch rest }).wake src .send)) ∧
        (∀ v rest, inbox = .wide v :: rest → wide = true → exec (.mbrecv core f) s =
          .next ((s.setCore core { (c.setW f.d.val v).retire with inq := setQueue c.inq ch rest }).wake src .send)) ∧
        (∀ r rest, inbox = .region r :: rest → wide = false → exec (.mbrecv core f) s =
          .next (((s.setCore core { (c.setS f.d.val (BitVec.ofNat 64 r)).retire with inq := setQueue c.inq ch rest }).setKennel (core / 80)
            { ken with regions := ken.regions.insert r (.owned (core % 80)) }).wake src .send)) ∧
        (∀ x rest, inbox = x :: rest → (wide = true ↔ ∀ v, x ≠ .wide v) →
          exec (.mbrecv core f) s = .next (s.exception core EX_CHAN)))) ∧
    (s.takes core f .no = true → wide = false →
      (f.d.val < 8 → exec (.mbpoll core f) s = .next (s.setCore core (c.setP f.d.val (allBits (decide (inbox ≠ [])))).retire)) ∧
      (let r := (c.getS f.a.val).toNat
       (ken.regions.find r ≠ some (.owned (core % 80)) → exec (.kgive core f) s = .next (s.exception core EX_OWN)) ∧
       (r < 256 → ken.regions.find r = some (.owned (core % 80)) →
        (s.channelPeer core 0 ch = none → exec (.kgive core f) s = .next (s.exception core EX_CHAN)) ∧
        (∀ d dch, s.channelPeer core 0 ch = some (d, dch) →
          (d / 80 ≠ core / 80 → exec (.kgive core f) s = .next (s.exception core EX_CHAN)) ∧
          (d / 80 = core / 80 → exec (.kgive core f) s = .next ((s.setKennel (core / 80)
            { ken with regions := ken.regions.insert r .inFlight }).setCore core
              { c.retire with outq := setQueue c.outq ch (queued ++ [.region r]) })))))) ∧
    (s.live = true → s.hasCore core = true → ∀ d dch x rest, s.channelPeer core 0 ch = some (d, dch) → queued = x :: rest →
      c.mayLeave x = true → msgBytes (queueAt (s.core d).inq dch) + x.size ≤ 512 →
      exec (.mailboxDeliver core ch) s =
        .next (let t := s.setCore core { c with outq := setQueue c.outq ch rest }
          ((t.setCore d { t.core d with inq := setQueue (t.core d).inq dch (queueAt (s.core d).inq dch ++ [x]) }).wake d .recv).deadlock
            core))

/-- GET and PUT with a free tag, a handle of the core's hedge, 1 to 65,536 bytes inside its length and a permitted
core range start the copy under the tag and retire; a tag in flight makes the core wait; an unknown handle or a range
beyond it raises EX_BOUNDS. TAG_COMPLETE moves the bytes of the copy between the buffer (or table) and core memory,
frees the tag and lets a waiting core go on (or raises EX_DEADLOCK where it was the last thing in flight and every
core of the group is blocked). WAIT retires once its tag is free and blocks before; FENCE retires once no copy is in
flight. OVL from 2 KiB of SHARED regions, 2 KiB aligned, copies them to 0x800 and goes on there; from an address
outside the map it raises EX_ADDR, from elsewhere in it EX_OWN. (R70, R77, R79, R82) -/
def Obligations.CopiesWaitsAndOverlaysComplete : Prop :=
  ∀ (s : State) (core : Nat) (f : Fields),
    let c := s.core core
    let tag := uimm f
    let handle := (c.getS f.a.val).toNat
    let off := (c.getS f.b.val).toNat
    let n := (c.getS f.c.val).toNat
    let at_ := (c.getS f.d.val).toNat
    let buffer := (s.bindingOf core).bind fun b => s.hubBuffer b.hedge handle
    let src := (c.getS f.a.val).toNat
    let ken := s.kennel (core / 80)
    (s.takes core f .tag = true → c.executes f = true → formR f 4 = true →
      (∀ (i : Instr) (put : Bool), (i = .get core f ∧ put = false) ∨ (i = .put core f ∧ put = true) →
        ((c.tags.find tag).isSome = true → exec i s = .next (s.setCore core { c with blocked := .tag })) ∧
        (c.tags.find tag = none →
          ((buffer = none ∨ ∃ h, buffer = some h ∧ (n = 0 ∨ 65536 < n ∨ h.length < off + n)) →
            exec i s = .next (s.exception core EX_BOUNDS)) ∧
          (∀ h, buffer = some h → 1 ≤ n → n ≤ 65536 → off + n ≤ h.length →
            (s.accessFault core at_ n 1 (!put) = none →
              exec i s = .next (s.setCore core { c.retire with tags := c.tags.insert tag ⟨put, at_, handle, off, n⟩ })) ∧
            (∀ code, s.accessFault core at_ n 1 (!put) = some code → exec i s = .next (s.exception core code))))) ∧
      (c.tags.find tag = none → exec (.wait core f) s = .next (s.setCore core c.retire)) ∧
      ((c.tags.find tag).isSome = true → exec (.wait core f) s = .next (s.block core .tag))) ∧
    (s.takes core f .tag = true → c.executes f = true → formR f 0 = true →
      (c.tags.entries = [] → exec (.fence core f) s = .next (s.setCore core c.retire)) ∧
      (c.tags.entries ≠ [] → exec (.fence core f) s = .next (s.setCore core { c with blocked := .tag }))) ∧
    (s.live = true → s.hasCore core = true → ∀ (g : Fin 16) (op : TagOp) (h : HubBuffer), c.tags.find g.val = some op →
      ((s.bindingOf core).bind fun b => s.hubBuffer b.hedge op.handle) = some h →
      exec (.tagComplete core g) s = .next
        (let t := s.moveCopy core op h
         ((t.setCore core { t.core core with tags := (t.core core).tags.erase g.val }).wake core .tag).deadlock core)) ∧
    (s.takes core f .no = true → c.executes f = true → formR f 0 = true →
      (0x100000 ≤ src → src + 2048 ≤ 0x140000 → src % 2048 = 0 →
        (∀ r ∈ regionsOf src 2048, ken.regions.find r = some .shared) → s.accessFault core src 2048 2048 false = none →
        exec (.ovl core f) s = .next (s.setCore core
          { c.retire with imem := c.imem.write 0x800 (s.coreRead core src 2048), pc := 0x800 })) ∧
      (let inStore := 0x100000 ≤ src ∧ src + 2048 ≤ 0x140000
       let inData := 0x10000 ≤ src ∧ src + 2048 ≤ 0x13000
       (¬ inStore → ¬ inData → exec (.ovl core f) s = .next (s.exception core EX_ADDR)) ∧
       (inData ∨ (inStore ∧ (src % 2048 ≠ 0 ∨ ∃ r ∈ regionsOf src 2048, ken.regions.find r ≠ some .shared)) →
        exec (.ovl core f) s = .next (s.exception core EX_OWN))))

/-- SIN without a sample held waits with its destination, and raises EX_SAMPLE with one held; SAMPLE_DISPATCH to a
core that waits in SIN and may have the item writes its bytes to the HELD buffer, marks the item as the core's, and
writes handle, position, length and flags to s[D] to s[D+3] with the budget begun; SOUT on a connected port not yet
served emits the sample there, and raises EX_SAMPLE a second time or with no sample; SDONE with every connected port
served releases the input buffer (kept while a comparison of the block awaits its peer) and finishes the sample, else
raises EX_SAMPLE; OALLOC writes the handle of a granted buffer, or waits. (R83, R84, R85, R236, R261) -/
def Obligations.SampleInstructionsComplete : Prop :=
  ∀ (s : State) (core : Nat) (f : Fields),
    let c := s.core core
    (s.takes core f .no = true → c.executes f = true → formR f 0 = true →
      (f.d.val ≤ 28 → c.held = none → exec (.sin core f) s = .next (s.setCore core { c with blocked := .sin f.d.val })) ∧
      (f.d.val ≤ 28 → c.held ≠ none → exec (.sin core f) s = .next (s.exception core EX_SAMPLE)) ∧
      (s.heldItem core = none → exec (.sdone core f) s = .next (s.exception core EX_SAMPLE).heelSettle) ∧
      (∀ it im h, s.heldItem core = some it → s.jobImage it.slot = some im → it.core = some (core, h) →
        ((∀ p ∈ im.outPorts it.stage, p ∈ c.served) → exec (.sdone core f) s = .next
          ((((((s.setCore core { c.retire with held := none, served := [] }).takeItem it).adjustJob it.slot
            fun j => { j with faults := j.faults.erase it.stage }).bumpInput (((s.jobs.find it.slot).map (·.desc.hedge)).getD 0)
              it.stage h).releaseInput it.slot h it.stage it.epoch it.position).completeSample it.key).heelSettle) ∧
        ((∃ p ∈ im.outPorts it.stage, p ∉ c.served) → exec (.sdone core f) s = .next (s.exception core EX_SAMPLE).heelSettle)) ∧
      (∀ b k, s.bindingOf core = some b → s.outputPool b.hedge b.stage (c.getS f.a.val).toNat = some k →
        (∀ t i, s.poolRequest k b.stage (some (core, f.d.val)) = (t, some i) →
          exec (.oalloc core f) s = .next (t.setCore core (c.setS f.d.val (BitVec.ofNat 64 (handleOf k i))).retire)) ∧
        (∀ t, s.poolRequest k b.stage (some (core, f.d.val)) = (t, none) →
          exec (.oalloc core f) s = .next (t.setCore core { c with blocked := .oalloc })))) ∧
    (s.takes core f .no = true → c.executes f = true → formR f 3 = true → f.d.val ≤ 29 →
      (s.heldItem core = none → exec (.sout core f) s = .next (s.exception core EX_SAMPLE).heelSettle) ∧
      (∀ it, s.heldItem core = some it →
        (uimm f ∈ c.served → exec (.sout core f) s = .next (s.exception core EX_SAMPLE).heelSettle) ∧
        (uimm f ∉ c.served → ∀ im st, s.jobImage it.slot = some im → im.stage it.stage = some st →
          uimm f ∉ it.emitted → uimm f ∈ im.outPorts st.id → exec (.sout core f) s = .next
            ((s.setCore core { c.retire with served := c.served ++ [uimm f] }).emitHeld im st it (uimm f)
              (c.getS f.d.val).toNat (c.getS (f.d.val + 1)).toNat (c.getS (f.d.val + 2)).toNat).heelSettle))) ∧
    (s.live = true → s.hasCore core = true → ∀ (r : ItemRef) (handle d : Nat) it im st j sp a size,
      s.item r = some it → s.jobImage r.slot = some im → c.blocked = .sin d → im.stage r.stage = some st → s.jobs.find r.slot = some j →
      s.heldBuffer j.desc.hedge handle = some (sp, a, size) → s.jobActive r.slot = true → s.coreRuns core = true → c.held = none →
      s.mayDispatch im st it core = true → it.payload.toBytes.length ≤ size →
      exec (.sampleDispatch r core handle) s = .next (((s.writeMem sp a it.payload.toBytes).putItem it { it with core := some (core, handle) }).setCore core
        (c.takeSample d it handle it.payload.toBytes.length (s.inputFlags it) (((s.programOf core).map (·.budget)).getD 0))))

/-- EX_BUDGET on a running core whose budget is used up raises EX_BUDGET, and does nothing to another; GROUP_RESTART
of a waiting group cancels the samples that its cores hold, puts every core at its entry point and every kennel's
regions at their table; RESERVE_RELOAD_DONE loads the group's place with kennels of the reserve; ENGINE_FAULT retires
the engine (an engine that its class does not have is a fault of the model, log entry 47); CHANNEL_HUNG retires the
kennels at its ends, or takes the device out of service between hub islands; DIE_FAULT takes the device out of service
and names the die in SHD_BOOT, every die at fault being held; an island droop stretches the period by one step of at
most 12, and a step down shortens it. (R19, R25, R26, R29, R59, R86, R87, R123) -/
def Obligations.ExceptionsRestartsAndRetirement : Prop :=
  ∀ (s : State), s.live = true →
    (∀ core, s.hasCore core = true →
      (s.coreRuns core = true → s.exhausted core = true → exec (.exBudget core) s = .next (s.exception core EX_BUDGET)) ∧
      ((s.coreRuns core = false ∨ s.exhausted core = false) → exec (.exBudget core) s = .next s)) ∧
    (∀ (h : Fin 16) st g, (h.val, st, g) ∈ s.restarting →
      let ks := s.groupKennels h st g
      exec (.groupRestart h st g) s = .next (ks.foldl State.restartKennel ((ks.flatMap coresOf).foldl State.restartCore
        { s.cancelCores (ks.flatMap coresOf) with restarting := s.restarting.erase (h.val, st, g) }))) ∧
    (∀ (h : Fin 16) st g im stage, (h.val, st, g) ∈ s.reloading → s.boundStage ⟨h, st, g, 0⟩ = some (im, stage) →
      let spare := (assocList im.reserve st).filter s.kennelOk
      let ks := spare.take stage.group
      stage.group ≤ spare.length → exec (.reserveReloadDone h st g) s = .next
        ((ks.zipIdx.foldl (fun (t : State) (x : Nat × Nat) => t.loadKennel im h stage x.1 g x.2)
          { s with reloading := s.reloading.erase (h.val, st, g) }).adjustImage h fun im =>
            { im with bound := setAssoc im.bound st (assocList im.bound st ++ ks)
                      reserve := setAssoc im.reserve st ((assocList im.reserve st).filter fun k => !ks.contains k) })) ∧
    (∀ a b : Fin 1090, let t := { s with hung := if s.hung.contains (a.val, b.val) then s.hung else s.hung ++ [(a.val, b.val)] }
      (1000 ≤ a.val → 1000 ≤ b.val → exec (.channelHung a b) s = .next (t.takeOut (if b.val < 1045 then 4 else 5))) ∧
      (a.val < 1000 → 1000 ≤ b.val → exec (.channelHung a b) s = .next (t.retireKennel a)) ∧
      (1000 ≤ a.val → b.val < 1000 → exec (.channelHung a b) s = .next (t.retireKennel b)) ∧
      (a.val < 1000 → b.val < 1000 → exec (.channelHung a b) s = .next ((t.retireKennel a).retireKennel b))) ∧
    (∀ cls e, (e < engineCount cls → exec (.engineFault cls e) s = .next (s.retireEngine cls e).heelSettle) ∧
      (engineCount cls ≤ e → exec (.engineFault cls e) s = .fault .noSuchUnit)) ∧
    (∀ die : Fin 6, exec (.dieFault die) s = .next
      { (s.setFld Reg.SHD_BOOT Fld.SHD_BOOT_REASON reasonHub).setFld Reg.SHD_BOOT_DETAIL Fld.SHD_BOOT_DETAIL_DETAIL die.val with
        outOfService := if s.outOfService.contains die.val then s.outOfService else s.outOfService ++ [die.val] }) ∧
    (∀ i : Fin 1090, exec (.islandDroopDetect i) s = .next (s.setStretch i (min 12 (s.stretch i + 1))) ∧
      exec (.stretchStepDown i) s = .next (s.setStretch i (s.stretch i - 1)))

/-- A GO written while BUSY is ignored: only OP and HEDGE are written. Otherwise it sets HEDGE, clears the error
registers and starts the operation with the image as it stands in host memory (of an image longer than 1 GiB, which
check 1 refuses, the header alone is copied: a convention of the model), and BUSY is set; OP = 0b11 ends at once with
ENL_ERR_FORMAT. LOAD_COMPLETE of a load ends it with the first check that fails, or commits the image; UNLOAD_COMPLETE
ends with ENL_ERR_HEDGE where the hedge holds no image, with ENL_ERR_BUSY where a job of it is READY, RUNNING or
DRAINING, and unloads the image otherwise. (R53, R54, R55, R56) -/
def Obligations.LoadAndUnloadOperations : Prop :=
  ∀ (s : State) (h : Fin 16),
    let ctl (op : Nat) := (s.setFld Reg.ENL_LOAD_CTRL Fld.ENL_LOAD_CTRL_OP op).setFld Reg.ENL_LOAD_CTRL Fld.ENL_LOAD_CTRL_HEDGE h.val
    let go (op : Nat) := (((ctl op).setFld Reg.ENL_LOAD_STATUS Fld.ENL_LOAD_STATUS_HEDGE h.val).clearReg Reg.ENL_LOAD_ERR_RES).clearReg
      Reg.ENL_LOAD_ERR_INDEX
    let len := (s.reg Reg.ENL_LOAD_LEN).toNat
    let img := s.readMem .host (s.reg Reg.ENL_LOAD_ADDR).toNat (if len ≤ 2 ^ 30 then len else 64)
    let begin (op : Nat) (b : Bytes) := { go op with loadOp := some ⟨op, h.val, len, b⟩ }.setBit Reg.ENL_LOAD_STATUS
      Fld.ENL_LOAD_STATUS_BUSY true
    (s.hostReaches Reg.ENL_LOAD_CTRL = true → s.loading = true →
      exec (.wholeDeviceLoad h) s = .next (ctl 0) ∧ exec (.perHedgeLoad h) s = .next (ctl 1) ∧
      exec (.unload h) s = .next (ctl 2) ∧ exec (.reservedLoadOp h) s = .next (ctl 3)) ∧
    (s.hostReaches Reg.ENL_LOAD_CTRL = true → s.loading = false →
      exec (.wholeDeviceLoad h) s = .next (begin 0 img) ∧ exec (.perHedgeLoad h) s = .next (begin 1 img) ∧
      exec (.unload h) s = .next (begin 2 []) ∧
      exec (.reservedLoadOp h) s = .next ((go 3).loadEnd (some (plainError ENL_ERR_FORMAT)))) ∧
    (s.live = true → ∀ o, s.loadOp = some o →
      (o.op ≠ 2 →
        (∀ e, loadCheck s o.op o.hedge o.len o.bytes = some e → exec .loadComplete s = .next (s.loadEnd (some e))) ∧
        (loadCheck s o.op o.hedge o.len o.bytes = none → exec .loadComplete s =
          .next (((s.commitImage (loadView o.bytes)).measurePartition o).loadEnd none))) ∧
      (o.op = 2 →
        (s.images.find o.hedge = none → exec .unloadComplete s = .next (s.loadEnd (some (plainError ENL_ERR_HEDGE)))) ∧
        (∀ im, s.images.find o.hedge = some im →
          ((∃ n ∈ s.slotsOf o.hedge, s.jobState n = jobReady ∨ s.jobActive n = true) →
            exec .unloadComplete s = .next (s.loadEnd (some (plainError ENL_ERR_BUSY)))) ∧
          ((∀ n ∈ s.slotsOf o.hedge, s.jobState n ≠ jobReady ∧ s.jobActive n = false) →
            exec .unloadComplete s = .next ((s.unloadImage o.hedge im).loadEnd none)))))

/-- Where LOAD_COMPLETE ends a load with an error, BUSY is 0, DONE and ERR are 1 and CODE is the error's code;
SECTION, RTYPE, OWNER and INDEX are the error's; MSI-X vector 1 is raised once more; no other vector is raised; and no
other register, image, claim, binding, pool, context, memory or other part of the state changes. (R53, R54) -/
def Obligations.FailedLoadsLeaveTheDeviceAsItWas : Prop :=
  ∀ (s t : State) (o : LoadOp) (e : LoadError), s.live = true → s.loadOp = some o → o.op ≠ 2 →
    loadCheck s o.op o.hedge o.len o.bytes = some e → exec .loadComplete s = .next t →
      t.bit Reg.ENL_LOAD_STATUS Fld.ENL_LOAD_STATUS_BUSY = false ∧ t.bit Reg.ENL_LOAD_STATUS Fld.ENL_LOAD_STATUS_DONE = true ∧
      t.bit Reg.ENL_LOAD_STATUS Fld.ENL_LOAD_STATUS_ERR = true ∧
      t.fld Reg.ENL_LOAD_STATUS Fld.ENL_LOAD_STATUS_CODE = e.code % 2 ^ Fld.ENL_LOAD_STATUS_CODE.len ∧
      t.fld Reg.ENL_LOAD_STATUS Fld.ENL_LOAD_STATUS_HEDGE = s.fld Reg.ENL_LOAD_STATUS Fld.ENL_LOAD_STATUS_HEDGE ∧
      t.fld Reg.ENL_LOAD_ERR_RES Fld.ENL_LOAD_ERR_RES_SECTION = e.sect % 2 ^ Fld.ENL_LOAD_ERR_RES_SECTION.len ∧
      t.fld Reg.ENL_LOAD_ERR_RES Fld.ENL_LOAD_ERR_RES_RTYPE = e.rtype % 2 ^ Fld.ENL_LOAD_ERR_RES_RTYPE.len ∧
      t.fld Reg.ENL_LOAD_ERR_RES Fld.ENL_LOAD_ERR_RES_OWNER = e.owner % 2 ^ Fld.ENL_LOAD_ERR_RES_OWNER.len ∧
      t.fld Reg.ENL_LOAD_ERR_INDEX Fld.ENL_LOAD_ERR_INDEX_INDEX = e.index % 2 ^ Fld.ENL_LOAD_ERR_INDEX_INDEX.len ∧
      (∀ off, off ≠ Reg.ENL_LOAD_STATUS → off ≠ Reg.ENL_LOAD_ERR_RES → off ≠ Reg.ENL_LOAD_ERR_INDEX → t.reg off = s.reg off) ∧
      t = { s with
        regs := t.regs, loadOp := none, board := { s.board with irq := s.board.irq.insert 1 (((s.board.irq.find 1).getD 0) + 1) } }

/-- Where the host reaches ENL_JOB_CTRL: ACCEPT of an EMPTY slot makes it READY with the checks passed, and otherwise
sets CODE to the first failing check's; START of a READY slot that is no fleet job, whose queues fit and which has no
Heel session begins the run; a START of a fleet job on a device that is in no fleet sets ST_FLT_SETUP, and before the
first roster it waits; STOP of a RUNNING job assigns nothing more and drains; ABORT of a RUNNING or DRAINING job
discards its work and stops it; CLEAR of a READY, STOPPED or HALTED slot empties it. In any other state each sets CODE
to ST_JOB_STATE. DRAIN_COMPLETE stops a DRAINING job with nothing left to finish. The Heel sessions then follow the
job. (R57, R58, R93, R95, R172, R185, R186, R330) -/
def Obligations.JobCommandsComplete : Prop :=
  ∀ (s : State) (slot : Fin 64),
    let wrong := Host.Outcome.next (s.setJobCode slot ST_JOB_STATE).heelSettle
    let st := s.jobState slot
    (s.hostReaches (Reg.ENL_JOB_CTRL slot) = true →
      (st ≠ jobEmpty → exec (.accept slot) s = wrong) ∧
      (st = jobEmpty →
        (∀ t, s.acceptJob slot = .ok t → exec (.accept slot) s = .next t.heelSettle) ∧
        (∀ code, s.acceptJob slot = .error code → exec (.accept slot) s = .next (s.setJobCode slot code).heelSettle)) ∧
      (st ≠ jobReady → exec (.start slot) s = wrong) ∧
      (∀ j, st = jobReady → s.jobs.find slot = some j → j.starting = false →
        (j.map.fleet = true → s.inFleet slot = false →
          exec (.start slot) s = .next (s.setJobCode slot ST_FLT_SETUP).heelSettle) ∧
        (j.map.fleet = true → s.inFleet slot = true → s.fleet.refused = false → s.fleet.roster = none →
          exec (.start slot) s = .next (s.adjustJob slot fun j => { j with starting := true }).heelSettle) ∧
        (∀ code, j.map.fleet = false → (∃ q ∈ s.queues.vals, q.job = slot.val) → s.placeQueues slot = .error code →
          exec (.start slot) s = .next ((s.adjustJob slot fun j => { j with starting := false }).setJobCode slot code).heelSettle) ∧
        (∀ t, j.map.fleet = false → (∃ q ∈ s.queues.vals, q.job = slot.val) → s.placeQueues slot = .ok t → t.heelOf slot = none →
          exec (.start slot) s = .next (t.beginRun slot).heelSettle) ∧
        (j.map.fleet = false → (∀ q ∈ s.queues.vals, q.job ≠ slot.val) → s.heelOf slot = none →
          exec (.start slot) s = .next (s.beginRun slot).heelSettle)) ∧
      (st ≠ jobRunning → exec (.stop slot) s = wrong) ∧
      (st = jobRunning → exec (.stop slot) s = .next (((s.adjustJob slot fun j =>
        { j with streams := j.streams.map fun x => { x with next := none } }).setJobState slot jobDraining ST_OK).flowJob slot).heelSettle) ∧
      (st ≠ jobRunning → st ≠ jobDraining → exec (.abort slot) s = wrong) ∧
      ((st = jobRunning ∨ st = jobDraining) → exec (.abort slot) s = .next ((((s.discardWork slot).emptyQueues slot).adjustJob slot fun j =>
        { j with exhausted := false }).setJobState slot jobStopped ST_OK).heelSettle) ∧
      ((st = jobReady ∨ st = jobStopped ∨ st = jobHalted) → exec (.clear slot) s = .next (s.dropJob slot).heelSettle) ∧
      (¬ (st = jobReady ∨ st = jobStopped ∨ st = jobHalted) → exec (.clear slot) s = wrong)) ∧
    (s.live = true → st = jobDraining → s.drained slot = true →
      exec (.drainComplete slot) s = .next (s.setJobState slot jobStopped ST_OK).heelSettle)

/-- With the item waiting at an engine stage of the row's kind: CRYPT passes a sample without bytes, in MODE 1 seals
the bytes under the stage's key and the derived nonce base, and in MODE 0 replaces stored ciphertext by its plaintext,
records DMG_AUTH_FAIL and makes the sample UNDECODABLE where a tag fails, and passes what is not encrypted; DECOMPRESS
decodes the unit by the shard's codec, bounded by MAX_OUT, records the fault it finds and makes the sample UNDECODABLE
where the codec says so; DIGEST records SHA-256 of the bytes after CRYPT and, where the index entry has another one,
records DMG_DIGEST and makes the sample UNDECODABLE. Each hands the sample on. (Where the offset of a fault is one
that the spec does not state, the model chose it, log entry 16.) (R97, R101, R102, R103, R125, R126, R205, R355) -/
def Obligations.CryptDecompressAndDigestStagesComplete : Prop :=
  ∀ (s : State) (r : ItemRef), s.live = true →
    (∀ im st it j, s.engineItem r kindCrypt = some (im, st, it) → s.jobs.find it.slot = some j →
      let table := im.table st.table
      let mode1 := fieldAt table 0 1 = 1
      (it.payload = .nothing → exec (.cryptStage r) s = .next (s.passOn im st it it).heelSettle) ∧
      (it.payload ≠ .nothing → mode1 → exec (.cryptStage r) s = .next (s.passOn im st it
        { it with payload := .bytes (sealObject (s.secret (fieldAt table 4 4)) (reencryptNonce im j it) it.payload.toBytes) }).heelSettle) ∧
      (∀ c p, it.payload = .stored c p → ¬ mode1 →
        (∀ b, ((j.entryOf it.sample).bind fun (e : Nat × Shard × IndexEntry) =>
            s.plainOf e.2.1 e.2.2.offset e.2.2.length (.stored c p)) = some b →
          exec (.cryptStage r) s = .next (s.sampleRead im st it (.bytes b)).heelSettle) ∧
        (((j.entryOf it.sample).bind fun (e : Nat × Shard × IndexEntry) =>
            s.plainOf e.2.1 e.2.2.offset e.2.2.length (.stored c p)) = none →
          exec (.cryptStage r) s = .next ((s.damageFree it dmgAuthFail).passOn im st it it.undecodable).heelSettle)) ∧
      ((∀ c p, it.payload ≠ .stored c p) → ¬ mode1 → exec (.cryptStage r) s = .next (s.passOn im st it it).heelSettle)) ∧
    (∀ im st it, s.engineItem r kindDecompress = some (im, st, it) →
      let table := im.table st.table
      let codec := (((s.jobs.find it.slot).bind fun j => j.shardOf it.sample).map (·.2.codec)).getD 0
      let u := unpackBy codec (fieldAt table 0 4) (im.dicts table) it.payload.toBytes
      (it.payload = .nothing → exec (.decompressStage r) s = .next (s.passOn im st it it).heelSettle) ∧
      (it.payload ≠ .nothing → exec (.decompressStage r) s =
        .next ((match u.fault with
          | some f => s.damage it (damageAt f.1 f.2)
          | none => s).passOn im st it (if u.undecodable then it.undecodable else { it with payload := .bytes u.out })).heelSettle)) ∧
    (∀ im st it j raw, s.engineItem r kindDigest = some (im, st, it) → s.jobs.find it.slot = some j →
      (s.place it.key).bind (·.facts.raw) = some raw →
      let t := s.adjustFacts it.key fun f => { f with input := some (sha256 raw), inputAt := some it.stage }
      let want := (j.entryOf it.sample).bind fun (e : Nat × Shard × IndexEntry) => e.2.2.digest
      ((want = none ∨ want = some (sha256 raw)) → exec (.digestStage r) s = .next (t.handOn im it [(0, it)]).heelSettle) ∧
      (∀ d, want = some d → d ≠ sha256 raw →
        exec (.digestStage r) s = .next ((t.damageFree it dmgDigest).handOn im it [(0, it.undecodable)]).heelSettle))

/-- IMAGE_DECODE at a stage whose FORMAT is 1, and VIDEO_DECODE at one whose FORMAT is 2, pass a corrupt or filtered
item and one without bytes as it is, and otherwise hand on what the decoder gives, with the damage recorded, the split
counted, CONCEALED where something was damaged and UNDECODABLE over DAMAGE_LIMIT; a sample of no usable format is
UNDECODABLE, and one outside the supported profiles is with DMG_UNSUPPORTED. Without steering, or where its frames are
reordered, a video item is handed on whole; under steering its next frame is decoded by the list that applies, and
waits where that list has not come and REGION_WAIT is not 0. REGION_WAIT_EXPIRY for that frame under ACCEL transfers
it in full. (R104, R106, R107, R108, R114, R115, R116, R119, R120, R121) -/
def Obligations.DecodeStagesComplete : Prop :=
  ∀ (s : State) (r : ItemRef) im st it, s.live = true → s.engineItem r kindDecode = some (im, st, it) →
    let table := im.table st.table
    let v := videoTableOf table
    let whole := fun (limit : Nat) (d : DecodeResult) => match d with
      | .unusable => (s.unusable it).1.handOn im it [(0, it.undecodable)]
      | .unsupported => (s.damageFree it dmgUnsupported).handOn im it [(0, it.undecodable)]
      | .decoded d => (s.decodedSample it d).handOn im it [(0, d.flagged limit { it with payload := d.payload })]
    (fieldAt table 0 1 = 1 → (it.passes = true ∨ it.payload = .nothing) →
      exec (.imageDecode r) s = .next (s.handOn im it [(0, it)]).heelSettle) ∧
    (fieldAt table 0 1 = 1 → it.passes = false → it.payload ≠ .nothing →
      exec (.imageDecode r) s = .next (whole (fieldAt table 2 2) (decodeImage it.payload.toBytes)).heelSettle) ∧
    (fieldAt table 0 1 = 2 → (it.passes = true ∨ it.payload = .nothing) →
      exec (.videoDecode r) s = .next (s.handOn im it [(0, it)]).heelSettle) ∧
    (∀ j, fieldAt table 0 1 = 2 → it.passes = false → it.payload ≠ .nothing → s.jobs.find it.slot = some j →
      exec (.videoDecode r) s = .next (match it.video with
        | none => whole v.limit .unusable
        | some src =>
          if !videoSupported src.stream then whole v.limit .unsupported
          else if v.steer = false ∨ src.reordered = true then whole v.limit (.decoded (decodeVideo v src))
          else match steeredList im v j it with
            | some rects => s.steerFrame im v it src rects false
            | none => if v.accel = true ∧ v.wait = 0 then s.steerFrame im v it src none true else s).heelSettle) ∧
    (∀ j frame, s.jobs.find it.slot = some j → v.steer = true → v.accel = true → it.frame = frame → frame ≠ 0 → j.regionFor it = none →
      exec (.regionWaitExpiry r frame) s = .next (match it.video with
        | some src => if src.reordered then s else s.steerFrame im v it src none true
        | none => s).heelSettle)

/-- RESAMPLE replaces a picture or frames by their tensor, an UNDECODABLE item by the fill tensor (of an item without
a picture the depth is an open value of its stage and sample, log entry 1), and passes anything else. TOKENIZE
replaces the bytes by token identifiers on port 0, and by byte offsets on port 1 where the table asks, counting tokens
and fallbacks and reading the vocabulary through the cache of its engine's die (which engine, and which lines it
reads, are open values, log entry 53); an UNDECODABLE sample becomes the empty sequence; a passing item passes.
COMPRESS_STAGE on a live engine of the stage emits the container and counts stored blocks where the blocks verify,
passes an item without bytes, and where a block does not verify retires the engine, counts the failure and releases
nothing. (R110, R120, R123, R133, R141, R142, R162, R285, R287, R289) -/
def Obligations.ResampleTokenizeAndCompressStagesComplete : Prop :=
  ∀ (s : State) (r : ItemRef), s.live = true →
    (∀ im st it j, s.engineItem r kindResample = some (im, st, it) → s.jobs.find it.slot = some j →
      let t := resampleTableOf (im.table st.table)
      let tensor := resample t j.desc.seed it.epoch it.sample st.id
      let plain := hasFlag it.flags flagUndecodable = false
      (hasFlag it.flags flagUndecodable = true → exec (.resample r) s =
        .next (s.handOn im it [(0, { it with payload := .bytes (fillTensor t (fillDepth st.id it.sample it.payload)) })]).heelSettle) ∧
      (∀ p, plain → it.payload = .picture p →
        exec (.resample r) s = .next (s.handOn im it [(0, { it with payload := .bytes (tensor p) })]).heelSettle) ∧
      (∀ fs, plain → it.payload = .frames fs → exec (.resample r) s =
        .next (s.handOn im it [(0, { it with payload := .bytes (fs.flatMap fun f => tensor (framePicture f)) })]).heelSettle) ∧
      (plain → (∀ p, it.payload ≠ .picture p) → (∀ fs, it.payload ≠ .frames fs) →
        exec (.resample r) s = .next (s.handOn im it [(0, it)]).heelSettle)) ∧
    (∀ im st it, s.engineItem r kindTokenize = some (im, st, it) →
      let table := im.table st.table
      let flags := fieldAt table 4 1
      let k := fieldAt table 0 4
      let toks := tokenize (vocabOf (im.table k)) flags it.tokenPieces
      let engines := assocList im.engines st.id
      let engine := engines.getD (Config.tokenizerEngine st.id it.epoch it.position % engines.length) 0
      let read := s.readVocab (decide (32 ≤ engine)) (((s.jobs.find it.slot).map (·.desc.hedge)).getD 0) k im
        ((vocabOf (im.table k)).linesOf (Config.tokenizerReads (im.table k) it.tokenPieces.flatten))
      let t := (read.bump (Reg.TOK_TOKENS it.slot) Fld.TOK_TOKENS_COUNT toks.length).bump (Reg.TOK_FALLBACK it.slot)
        Fld.TOK_FALLBACK_COUNT (toks.filter (·.fallback)).length
      let out (f : Token → Nat) : Item := { it with payload := .bytes (toks.flatMap fun k => leBytes 4 (f k)), pieces := [] }
      (hasFlag it.flags flagUndecodable = true → exec (.tokenize r) s =
        .next (s.handOn im it [(0, { it with payload := .bytes [], pieces := [] })]).heelSettle) ∧
      (hasFlag it.flags flagUndecodable = false → (it.passes = true ∨ it.payload = .nothing) →
        exec (.tokenize r) s = .next (s.handOn im it [(0, it)]).heelSettle) ∧
      (hasFlag it.flags flagUndecodable = false → it.passes = false → it.payload ≠ .nothing →
        exec (.tokenize r) s = .next (t.handOn im it ((0, out (·.id)) :: (if natBit flags 2 then [(1, out (·.off))] else []))).heelSettle)) ∧
    (∀ im st it (e : Fin 16), s.engineItem r kindCompress = some (im, st, it) → e.val ∈ assocList im.engines st.id → (3, e.val) ∉ s.retired →
      let t := im.table st.table
      let c := briCompress (fieldAt t 0 1) (fieldAt t 1 1) (natBit (fieldAt t 2 1) 0) it.payload.toBytes
      (it.payload = .nothing → exec (.compressStage r e true) s = .next (s.handOn im it [(0, it)]).heelSettle) ∧
      (it.payload ≠ .nothing → exec (.compressStage r e true) s =
        .next ((s.bump Reg.BRI_STORED_BLOCKS Fld.BRI_STORED_BLOCKS_COUNT c.2).handOn im it [(0, { it with payload := .bytes c.1 })]).heelSettle) ∧
      (exec (.compressStage r e false) s = .next ((s.retireEngine 3 e).bump (Reg.BRI_ENG_VERIFY_FAIL (32 + e.val))
        Fld.BRI_ENG_VERIFY_FAIL_COUNT).heelSettle))

/-- POSITION_ASSIGN of a RUNNING job gives the stream's next position a place in its window and an item at SOURCE,
asks a peer for what it needs, and drains a job that has assigned its last; a full window holds it back and counts a
stall, and a lower position of another stream with room goes first; a live stream takes the oldest waiting access unit
with the stamp of its edge. INDEX_TABLE_READ that items wait for reads its units from NAND with the outcomes given,
and takes the table, or halts the job where a unit fails read recovery; nothing is read on a stalled channel.
SAMPLE_READ_DONE reads likewise and hands the bytes on, or the read is unreadable. CAPTURE_TRIGGER at least 1 us after
the last accepted edge is an edge for every job. DEADLINE_EXPIRY under TIMELY defers the window's head and counts it.
(R96, R98, R101, R117, R170, R173, R178, R184, R384) -/
def Obligations.SourceCommandsComplete : Prop :=
  ∀ (s : State) (slot : Fin 64) (rank : Nat) (outcomes : List NandOutcome), s.live = true →
    (∀ j im st src c, s.jobs.find slot = some j → s.jobImage slot = some im → j.stream rank = some st →
      im.stageOfKind kindSource = some src → st.next = some c → s.jobState slot = jobRunning → s.heelPauses slot = false →
      let o := s.orderTable slot
      (4096 ≤ st.window.length → exec (.positionAssign slot rank) s =
        .next (s.bump (Reg.PBQ_JOB_STALLS slot) Fld.PBQ_JOB_STALLS_COUNT).heelSettle) ∧
      (st.window.length < 4096 → j.ascends rank c = false → exec (.positionAssign slot rank) s = .next s.heelSettle) ∧
      (st.window.length < 4096 → j.ascends rank c = true → o.livePin = 0xFF → exec (.positionAssign slot rank) s =
        let x := s.takePosition slot rank src c (sigma o j.desc.seed j.manifest c.epoch c.pos) .nothing
        .next ((x.1.requestItem x.2).settleExhausted slot).heelSettle) ∧
      (∀ ring frame stamp bytes, st.window.length < 4096 → j.ascends rank c = true → o.livePin ≠ 0xFF → j.live.find o.livePin = some ring →
        ring.waiting.head? = some (frame, stamp, bytes) → exec (.positionAssign slot rank) s =
        let t := s.adjustJob slot fun j => { j with live := j.live.insert o.livePin (ring.takeUnit frame bytes) }
        let x := t.takePosition slot rank src c frame (.bytes bytes)
        let u := x.1.adjustFacts x.2.key fun f => { f with stamp := some stamp }
        .next ((u.passOn im src x.2 { x.2 with past := if Config.randomAccess bytes then [] else ring.before frame }).settleExhausted
          slot).heelSettle)) ∧
    (∀ j shard sh, s.jobs.find slot = some j → j.manifest.shards[shard]? = some sh → s.jobActive slot = true → j.indexOf shard = none →
      s.waitingAt slot j shard ≠ [] →
      (let units := sh.units sh.indexOffset sh.indexLength
       let r := s.readUnits sh.locator units outcomes
       sh.kind = 1 →
        (s.unitsStalled sh.locator units = true → exec (.indexTableRead slot ⟨shard, outcomes⟩) s = .next s.heelSettle) ∧
        (s.unitsStalled sh.locator units = false →
          (r.2 = false → exec (.indexTableRead slot ⟨shard, outcomes⟩) s = .next (r.1.haltJob slot ST_SRC_UNREADABLE).heelSettle) ∧
          (r.2 = true → exec (.indexTableRead slot ⟨shard, outcomes⟩) s = .next (r.1.takeIndex slot shard j sh
          (s.plainOf sh sh.indexOffset sh.indexLength (s.nandPayload sh sh.indexOffset sh.indexLength))).heelSettle))) ∧
      (∀ b, sh.kind ≠ 1 → s.remoteBytes sh (indexRef slot shard) = some b →
        exec (.indexTableRead slot ⟨shard, outcomes⟩) s = .next (let t := s.endReads sh (indexRef slot shard)
          t.takeIndex slot shard j sh (s.plainOf sh sh.indexOffset sh.indexLength (remotePayload sh b))).heelSettle)) ∧
    (∀ r im st it j k sh e, s.engineItem r kindSource = some (im, st, it) → s.jobs.find r.slot = some j →
      j.entryOf it.sample = some (k, sh, e) →
      (let units := sh.units e.offset e.length
       let x := s.readUnits sh.locator units outcomes
       sh.kind = 1 →
        (s.unitsStalled sh.locator units = true → exec (.sampleReadDone r (.nand outcomes)) s = .next s.heelSettle) ∧
        (s.unitsStalled sh.locator units = false →
          (x.2 = false → exec (.sampleReadDone r (.nand outcomes)) s = .next (x.1.unreadable im st it sh).heelSettle) ∧
          (x.2 = true → exec (.sampleReadDone r (.nand outcomes)) s =
            .next (x.1.sampleRead im st it (s.nandPayload sh e.offset e.length)).heelSettle))) ∧
      (∀ b, sh.kind = 2 → s.remoteBytes sh r = some b →
        exec (.sampleReadDone r .remote) s = .next ((s.endReads sh r).sampleRead im st it (remotePayload sh b)).heelSettle)) ∧
    (∀ pin : Fin 16, s.pinFunction pin = 3 → (∀ t, (s.board.pins[pin.val]?).bind (·.lastEdge) = some t → t + 1000 ≤ s.time.total) →
      exec (.captureTrigger pin) s = .next (s.jobs.entries.foldl (fun (t : State) (e : Nat × Job) => t.liveEdge e.1 pin)
        (s.adjustPin pin fun p => { p with lastEdge := some s.time.total }))) ∧
    (∀ st p rest, (s.jobs.find slot).bind (·.stream rank) = some st → s.jobActive slot = true →
      (s.orderTable slot).policy = policyTimely → st.window = p :: rest → p.complete = false → st.deferred.length + st.late.length < 64 →
      exec (.deadlineExpiry slot rank) s = .next (((s.bump (Reg.PBQ_JOB_DEFERRED slot) Fld.PBQ_JOB_DEFERRED_COUNT).adjustJob slot
        fun j => j.adjustStream rank fun st => { st with
          window := rest, deferred := st.deferred ++ [{ p with epochLast := false }]
          ending := if p.epochLast then some p.epoch else st.ending }).flowRank slot rank).heelSettle)

/-- For a running job with a MASK stage and a message of the row's KIND: an ill-formed message is discarded and
counted; a good OPEN of a free stream opens it at step 1 with its automaton, stop set and limits; an OPEN of an open
stream is counted and ends that stream with ST_TOK_STREAM; TOKENS or CLOSE of a closed stream is counted; the message
whose turn it is is handled, and the held ones whose turn has come after it; a step at most 64 ahead is held, and
another of that step is dropped; any other step ends the stream with ST_TOK_STEP. MASK_STEP sends the mask of the
oldest message of the stream, where it is one of the first four that its engine has, and passes the vocabulary lines
that the step reads through the vocabulary cache of the engine's die (which lines, is an open value, log entry 53) and
the window mask through the mask cache. (R144, R148, R149, R150, R151, R155, R156, R158, R396) -/
def Obligations.ReturnMessagesAndMasksComplete : Prop :=
  ∀ (s : State) (slot : Fin 64) (m : MaskStage), s.live = true → s.maskStage slot = some m → s.jobActive slot = true →
    (∀ msg source, fieldAt msg 0 1 = returnOpen →
      let k := fieldAt msg 2 2
      let old := s.gen slot k
      let bad := Host.Outcome.next (s.badMessage slot)
      (returnOk (fieldAt m.table 4 2) msg = false → exec (.returnOpen slot source msg) s = bad) ∧
      (returnOk (fieldAt m.table 4 2) msg = true → old.open_ = true → exec (.returnOpen slot source msg) s =
        .next ((s.badMessage slot).endStream slot k m old (.plain ST_TOK_STREAM))) ∧
      (returnOk (fieldAt m.table 4 2) msg = true → old.open_ = false → m.openOk (fieldAt msg 0xC 4) (fieldAt msg 0x10 2) = false →
        exec (.returnOpen slot source msg) s = bad) ∧
      (returnOk (fieldAt m.table 4 2) msg = true → old.open_ = false → m.openOk (fieldAt msg 0xC 4) (fieldAt msg 0x10 2) = true →
        exec (.returnOpen slot source msg) s =
          let g : GenStream := { GenStream.idle with
            open_ := true, config := gramInitial (m.automaton (fieldAt msg 0xC 4)), grammar := fieldAt msg 0xC 4
            stopSet := fieldAt msg 0x10 2, options := fieldAt msg 0x12 2, maxTokens := fieldAt msg 0x14 4
            maskBuf := fieldAt msg 0x18 4, maskGen := fieldAt msg 0x1C 4, dest := source, step := 1 }
          .next ((s.setGen slot k g).addWork slot k m g 1 0 s.time.total))) ∧
    (∀ msg kind, (kind = returnTokens ∨ kind = returnClose) → fieldAt msg 0 1 = kind →
      let k := fieldAt msg 2 2
      let step := fieldAt msg 4 4
      let g := s.gen slot k
      let i := if kind = returnTokens then Instr.returnTokens slot msg else Instr.returnClose slot msg
      ((returnOk (fieldAt m.table 4 2) msg = false ∨ g.open_ = false) → exec i s = .next (s.badMessage slot)) ∧
      (returnOk (fieldAt m.table 4 2) msg = true → g.open_ = true →
        ((step < g.step ∨ g.step + 64 < step) → exec i s = .next (s.endStream slot k m g (.plain ST_TOK_STEP))) ∧
        (step = g.step → exec i s = .next ((s.handleReturn slot k m g s.time.total msg).drainHeld slot k m g.held.length)) ∧
        (g.step < step → step ≤ g.step + 64 → (∃ h ∈ g.held, h.1 = step) → exec i s = .next s) ∧
        (g.step < step → step ≤ g.step + 64 → (∀ h ∈ g.held, h.1 ≠ step) → exec i s =
          .next (s.setGen slot k { g with held := g.held ++ [(step, s.time.total, msg)] })))) ∧
    (∀ k x, ((s.engineWork m k).take 4).find? (fun w => w.1 = slot.val && w.2.1 = k) = some x → exec (.maskStep slot k) s =
      .next (let w := x.2.2
        let a := m.automaton w.grammar
        let t := { s with text := { s.text with work := s.text.work.erase x } }.readVocab (decide (16 ≤ m.engine k)) m.hedge
          (fieldAt m.table 0 4) m.image (m.vocab.linesOf (Config.maskReads (m.image.table (fieldAt m.table 0 4)) w.config.state w.config.stack))
        (t.readMask m w).sendToMaskBuf slot k m w
          (maskMessage k w.step false (maskCount a m.vocab w.config) (maskBitmap a m.vocab w.config)) false))

/-- EPOCH_TIMER_FIRE of a running timer counts the firing, raises its pin in pulse mode and its interrupt, coalesced;
TIMER_PULSE_END lets the pin of a high pulse fall. PTP_EVENT_MESSAGE: a master found starts acquisition, an offset is
shown and the 8th in a row within 100 ns locks an acquiring servo, a step moves the counter, and a grandmaster enters
GRANDMASTER; a frame that carries a message of this clock's domain at a sub-port whose link is up reaches the port, an
invalid one is counted, and a master port sends Sync and Announce with its next sequence number; MASTER_LOSS enters
HOLDOVER and forgets the master, HOLDOVER_TIMEOUT enters FREE. PPS_IN_EDGE timestamps the edge and aligns a
GRANDMASTER to the nearest second; PPS_SECOND holds a PPS_OUT pin high for 100 ms. MSIX_COALESCE_EXPIRY raises a held
vector and starts the next interval, or ends it. (R48, R118, R195, R244, R245, R247, R370, R384) -/
def Obligations.TimersAndNetworkTimeComplete : Prop :=
  ∀ (s : State), s.live = true →
    (∀ (i : Fin 8) r, s.timers.find i = some r →
      let t := { s.bump (Reg.SHD_TIMER_STATUS i) Fld.SHD_TIMER_STATUS_COUNT with
        timers := s.timers.insert i { r with
          pulseHigh := r.program.pulse, nextNs := r.program.firstAt (max s.time.total r.nextNs + 1) } }
      let u := if r.program.pulse then t.adjustPin r.program.pin fun p => { p with level := true } else t
      exec (.epochTimerFire i) s = .next (if r.program.interrupt then u.raiseCoalesced 0x2000 12 else u) ∧
      (r.pulseHigh = true → exec (.timerPulseEnd i) s = .next
        ({ s with timers := s.timers.insert i { r with pulseHigh := false } }.adjustPin r.program.pin fun p => { p with level := false }))) ∧
    ((s.servo ≠ ptpLocked → s.servo ≠ ptpAcquiring → exec (.ptpEventMessage .masterFound) s = .next (s.setServo ptpAcquiring)) ∧
      (∀ ns : Int, (s.servo = ptpLocked ∨ s.servo = ptpAcquiring) →
        let good := if -100 ≤ ns ∧ ns ≤ 100 then s.time.good + 1 else 0
        let t := { s.setFld Reg.PLT_PTP_OFFSET Fld.PLT_PTP_OFFSET_NS (wrapInt 32 ns) with time := { s.time with good := good } }
        exec (.ptpEventMessage (.offset ns)) s = .next (if s.servo = ptpAcquiring ∧ 8 ≤ good then t.setServo ptpLocked else t)) ∧
      (∀ (port : Fin 5) (sub : Fin 4), let k := ptpKey port sub
        (∀ b, exec (.ptpEventMessage (.frame port sub b)) s = .next (if s.linkUp port sub = false then s else match s.carriedBy b with
          | .invalid => s.pltCount 2
          | .plyn _ => s
          | .ptp p => match ptpMessageOf p with
            | some m => s.ptpTake k m
            | none => s)) ∧
        exec (.ptpEventMessage (.sendSync port sub)) s = .next (if (s.ptpPort k).role = .master then
          s.adjustPtp k fun p => { p.push (ptpOwn k .sync p.seq) with seq := (p.seq + 1) % 2 ^ 16 } else s) ∧
        exec (.ptpEventMessage (.sendAnnounce port sub)) s = .next (if (s.ptpPort k).role = .master then
          s.adjustPtp k fun p => { p.push { ptpOwn k .announce p.seq with dataset := s.announced } with seq := (p.seq + 1) % 2 ^ 16 } else s) ∧
        exec (.ptpEventMessage (.sendRequest port sub)) s =
          .next (s.ptpSend k (if Config.ptpPeerDelay k then .peerReq else .delayReq))) ∧
      (∀ ns : Int, exec (.ptpEventMessage (.step ns)) s = .next (s.stepCounter ((s.time.total : Int) + ns).toNat)) ∧
      exec (.ptpEventMessage .grandmaster) s = .next (s.setServo ptpGrandmaster).settleRoles ∧
      ((s.servo = ptpLocked ∨ s.servo = ptpAcquiring) → exec .masterLoss s = .next (s.setServo ptpHoldover).forgetMaster) ∧
      (s.servo = ptpHoldover → exec .holdoverTimeout s = .next (s.setServo ptpFree))) ∧
    (∀ pin : Fin 16,
      (s.pinFunction pin = 2 →
        let t := { s with time := { s.time with ppsEdge := some s.time.total } }
        exec (.ppsInEdge pin) s = .next (if s.servo = ptpGrandmaster then
          t.stepCounter ((s.time.total + 500000000) / 1000000000 * 1000000000) else t)) ∧
      (s.pinFunction pin = 1 → exec (.ppsSecond pin) s =
        .next (s.adjustPin pin fun p => { p with highUntil := s.uptime + 100000000 }))) ∧
    (∀ source : CoalesceSource,
      let k := coalesceKey source
      let entry (t : State) (e : Option Coalesce) : State := { t with board := { t.board with coalesce := match e with
        | some x => t.board.coalesce.insert k x
        | none => t.board.coalesce.erase k } }
      (s.board.coalesce.find k = some ⟨true, true⟩ →
        exec (.msixCoalesceExpiry source) s = .next (entry (s.raise (coalesceVector source)) (some ⟨true, false⟩))) ∧
      (s.board.coalesce.find k ≠ some ⟨true, true⟩ → exec (.msixCoalesceExpiry source) s = .next (entry s none)))

/-- MODEL_PACKAGE_LOAD of a running job's MODEL or FILTER stage that has no weights yet reads the package from NAND
with the outcomes given, where no channel of it is stalled: it halts the job with ST_SRC_UNREADABLE where a unit fails
read recovery and with the code of the first check that fails, and otherwise keeps the weights. STORE_RECORD writes
the oldest record that waits at the stage, framed, at the log cursor where no outstanding command of the host stands
before it and there is room and no stalled channel, and halts the job with ST_STORE_FULL past the region's end and
with ST_MEDIUM_EXHAUSTED where the namespace is read-only or no block can be reserved. PBQ_DEPTH_WRITE of 1 to 16384
MiB on a queue of a READY job sets the depth and the entries that fit; otherwise nothing changes. (R91, R194, R201,
R304, R321, R322, R356) -/
def Obligations.PackagesRecordsAndQueueDepthComplete : Prop :=
  ∀ (s : State) (slot : Fin 64) (stage : Nat) (outcomes : List NandOutcome) j im, s.jobs.find slot = some j → s.jobImage slot = some im →
    (s.live = true → s.jobActive slot = true → (im.stageKind stage = kindModel ∨ im.stageKind stage = kindFilter) → (∀ m ∈ j.models, m.1 ≠ stage) →
      let desc := im.stageTable stage
      let ns := fieldAt desc 0x18 1
      let lba := fieldAt desc 0x20 8
      let len := fieldAt desc 0x28 8
      let units := (List.range (ceilDiv len unitBytes)).map (lba + ·)
      let r := s.readUnits ns units outcomes
      let opened := s.openPackage j.desc.hedge desc (s.nsBytes ns (unitBytes * lba) len)
      let load := Instr.modelPackageLoad slot ⟨stage, outcomes⟩
      (s.unitsStalled ns units = true → exec load s = .next s.heelSettle) ∧
      (s.unitsStalled ns units = false → r.2 = false → exec load s = .next (r.1.haltJob slot ST_SRC_UNREADABLE).heelSettle) ∧
      (s.unitsStalled ns units = false → r.2 = true → exec load s = .next (match opened with
        | .error code => r.1.haltJob slot code
        | .ok w => r.1.adjustJob slot fun j => { j with models := j.models ++ [(stage, w)] }).heelSettle)) ∧
    (∀ i r, s.live = true → s.jobActive slot = true → j.store.findIdx? (fun e => e.1 = stage) = some i → j.store[i]? = some r →
      s.store.activating = false →
      let t := im.stageTable stage
      let ns := fieldAt t 0 1
      let lba := s.fld (Reg.FTL_JOB_STORE_LBA slot) Fld.FTL_JOB_STORE_LBA_LBA
      let data := framedRecord r.2.1 r.2.2
      let last := fieldAt t 8 8 + fieldAt t 0x10 8
      let readOnly := s.bit (Reg.FTL_NS_STATE ns) Fld.FTL_NS_STATE_READ_ONLY
      let blocked := s.trsBlocked ⟨blkWrite, ns, lba, data.length, 0, (s.reg Reg.TRS_NEXT_SEQ).toNat, data, 0, [], [], [], none, none⟩
      (last < lba + data.length → exec (.storeRecord slot stage) s = .next (s.haltJob slot ST_STORE_FULL).heelSettle) ∧
      (lba + data.length ≤ last → readOnly = true →
        exec (.storeRecord slot stage) s = .next (s.haltJob slot ST_MEDIUM_EXHAUSTED).heelSettle) ∧
      (lba + data.length ≤ last → readOnly = false → s.canReserve data.length = false →
        exec (.storeRecord slot stage) s = .next ((s.exhaust ns).haltJob slot ST_MEDIUM_EXHAUSTED).heelSettle) ∧
      (lba + data.length ≤ last → readOnly = false → s.canReserve data.length = true →
        ((blocked = true ∨ s.store.room < data.length ∨ s.writeStalled ns data.length = true) → exec (.storeRecord slot stage) s = .next s.heelSettle) ∧
        (blocked = false → data.length ≤ s.store.room → s.writeStalled ns data.length = false → exec (.storeRecord slot stage) s =
          .next ((s.appendLog slot ns lba data).adjustJob slot fun j => { j with store := j.store.eraseIdx i }).heelSettle))) ∧
    (∀ (q : Fin 1024) v x, s.hostReaches (Reg.PBQ_DEPTH q) = true → s.queues.find q = some x →
      let mib := getFld Fld.PBQ_DEPTH_MIB v
      let t := s.setFld (Reg.PBQ_DEPTH q) Fld.PBQ_DEPTH_MIB mib
      (s.jobState x.job = jobReady → 1 ≤ mib → mib ≤ 16384 → exec (.pbqDepthWrite q v) s =
        .next (t.setFld (Reg.PBQ_ENTRIES q) Fld.PBQ_ENTRIES_COUNT (t.queueCapacity q))) ∧
      (¬ (s.jobState x.job = jobReady ∧ 1 ≤ mib ∧ mib ≤ 16384) → exec (.pbqDepthWrite q v) s = .next s))

/-- Writes of HEEL_CTRL and HEEL_LINKSEL are ignored while the session is enabled and its job is active, and otherwise
write the register's bits; ENABLE written from 0 to 1 clears the three counters and begins an unused session in IDLE;
ENABLE cleared returns it to IDLE, releases what its blocks kept, and drops the context that only the session claimed.
A setup message that the link takes whole is ignored by a paired session, kept for START of the own job, and compared
at once where that job waits in START; the timeout fails that START with ST_HEEL_TIMEOUT. A bare acknowledgement
removes the frames up to it; a resend puts the last frame not acknowledged on the wire again. (R208, R209, R213, R217,
R385) -/
def Obligations.HeelSessionsAreSetUp : Prop :=
  ∀ (s : State) (k : Fin 4) (v : Word64),
    let r := s.setReg (Reg.HEEL_CTRL k) (BitVec.ofNat 64 (v.toNat % 2 ^ 11))
    let on := getFld Fld.HEEL_CTRL_ENABLE v = 1
    let was := s.bit (Reg.HEEL_CTRL k) Fld.HEEL_CTRL_ENABLE
    (s.hostReaches (Reg.HEEL_CTRL k) = true →
      (s.heelBusy k = true → exec (.heelCtrlWrite k v) s = .next s) ∧
      (s.heelBusy k = false → on → was = false → exec (.heelCtrlWrite k v) s = .next
        (((((r.clearReg (Reg.HEEL_COMPARED k)).clearReg (Reg.HEEL_BLOCKS k)).clearReg (Reg.HEEL_UNCOMPARED k)).setHeel k
          HeelSession.idle).showPending k |>.setHeelState k heelIdle)) ∧
      (s.heelBusy k = false → ¬ on → was = true → exec (.heelCtrlWrite k v) s = .next { (r.dropKept k fun _ => true).setHeelState k heelIdle with
        contexts := s.contexts.keep fun i c =>
          !(i = s.fld (Reg.HEEL_LINKSEL k) Fld.HEEL_LINKSEL_CONTEXT && c.dramClaim = noDramClaim) }) ∧
      (s.heelBusy k = false → (on ↔ was = true) → exec (.heelCtrlWrite k v) s = .next r)) ∧
    (s.hostReaches (Reg.HEEL_LINKSEL k) = true → exec (.heelLinkselWrite k v) s =
      .next (if s.heelBusy k then s else s.setReg (Reg.HEEL_LINKSEL k) (BitVec.ofNat 64 (v.toNat % 2 ^ 24)))) ∧
    (s.live = true → ∀ (f : HeelFrame) t,
      (∀ msg, s.heelReceive heelSetup f = (t, some msg) →
        let u := t.setHeel f.session { t.heelSession f.session with setupGot := some msg }
        (t.heelState f.session = heelPaired → exec (.heelSetup f) s = .next t.heelSettle) ∧
        (t.heelState f.session ≠ heelPaired → t.heelStarting f.session = false → exec (.heelSetup f) s = .next u.heelSettle) ∧
        (t.heelState f.session ≠ heelPaired → t.heelStarting f.session = true →
          exec (.heelSetup f) s = .next (u.setupBoth f.session (t.heelJob f.session)).heelSettle)) ∧
      (s.heelReceive heelSetup f = (t, none) → exec (.heelSetup f) s = .next t.heelSettle) ∧
      exec (.heelAckFrame f) s = .next (s.heelReceive heelAck f).1) ∧
    (s.live = true → s.heelStarting k = true →
      exec (.heelSetupTimeout k) s = .next (s.setupFailed k (s.heelJob k) ST_HEEL_TIMEOUT).heelSettle) ∧
    (s.live = true → ∀ seq u, s.bit (Reg.HEEL_CTRL k) Fld.HEEL_CTRL_LINK = true →
      ((s.heelSession k).unacked.dropWhile fun x => x.1 ≠ seq).getLast? = some u →
      exec (.heelFrameResend k seq) s = .next (s.setHeel k { s.heelSession k with wire := heelFrame u.1 (s.heelSession k).ackSeq u.2 }))

/-- A message that the link does not take whole only moves the link on. A peer's batch or stage digest is compared
with the own one of its key, or waits for it, from START until the leader locates, and is ignored otherwise;
HEEL_DIGEST_TIMEOUT while an own digest waits freezes the session with ST_HEEL_TIMEOUT, and a freeze message freezes
it with ST_HEEL_PEER_HALTED. A locate request is answered with length and data. On the leader of a frozen session
HEEL_LOCATE_START begins with the first mismatch, and an answer to the request that waits takes the procedure on; a
report on a frozen follower writes the leader's values. What locate messages carry is the model's own (log entry 30).
(R210, R211, R212, R214, R215) -/
def Obligations.HeelDigestsFreezesAndLocates : Prop :=
  ∀ (s : State), s.live = true →
    (∀ (f : HeelFrame) t, (∀ i ∈ [(Instr.heelBatchDigest f, heelBatch), (.heelStageDigest f, heelStage), (.heelFreeze f, heelFreeze),
        (.heelLocateRequest f, heelRequest), (.heelLocateAnswer f, heelAnswer), (.heelReport f, heelReport)],
      s.heelReceive i.2 f = (t, none) → exec i.1 s = .next t.heelSettle)) ∧
    (∀ (f : HeelFrame) t msg, s.heelReceive heelBatch f = (t, some msg) →
      (t.heelTakesDigests f.session = true → exec (.heelBatchDigest f) s = .next (t.heelPeerBatch f.session
        ⟨f.keyA, f.epoch, f.keyB, msg.take 32, if msg.length ≤ 32 then none else some (beFieldAt msg 32 8)⟩).heelSettle) ∧
      (t.heelTakesDigests f.session = false → exec (.heelBatchDigest f) s = .next t.heelSettle)) ∧
    (∀ (f : HeelFrame) t msg, s.heelReceive heelStage f = (t, some msg) →
      (t.heelTakesDigests f.session = true →
        exec (.heelStageDigest f) s = .next (t.heelPeerStage f.session ⟨f.keyA, f.epoch, f.keyB, msg.take 32, none⟩).heelSettle) ∧
      (t.heelTakesDigests f.session = false → exec (.heelStageDigest f) s = .next t.heelSettle)) ∧
    (∀ k : Fin 4,
      (((s.heelSession k).ownBatch ≠ [] ∨ (s.heelSession k).ownStage ≠ []) →
        exec (.heelDigestTimeout k) s = .next (s.freezeSession k ST_HEEL_TIMEOUT).heelSettle) ∧
      (s.heelState k = heelIsFrozen → s.bit (Reg.HEEL_CTRL k) Fld.HEEL_CTRL_ROLE = false → (s.heelSession k).locate = none →
        exec (.heelLocateStart k) s = .next (s.heelNext k ⟨(s.heelSession k).mismatches, 0, 0, 0, []⟩))) ∧
    (∀ (f : HeelFrame) t msg, s.heelReceive heelFreeze f = (t, some msg) →
      exec (.heelFreeze f) s = .next (t.freezeSession f.session ST_HEEL_PEER_HALTED).heelSettle) ∧
    (∀ (f : HeelFrame) t msg, s.heelReceive heelRequest f = (t, some msg) →
      let data := t.locateData f.session (beFieldAt msg 0 1) f.keyA f.epoch f.keyB (beFieldAt msg 1 8) (beFieldAt msg 9 8)
      exec (.heelLocateRequest f) s =
        .next (t.heelSend f.session heelAnswer f.keyA f.epoch f.keyB (beBytes 4 data.length ++ data)).heelSettle) ∧
    (∀ (f : HeelFrame) t msg l m rest, s.heelReceive heelAnswer f = (t, some msg) → (t.heelSession f.session).locate = some l →
      l.todo = m :: rest → m.keyA = f.keyA → m.epoch = f.epoch → m.keyB = f.keyB →
      exec (.heelLocateAnswer f) s = .next (t.heelAnswered f.session l m ((msg.drop 4).take (beFieldAt msg 0 4))).heelSettle) ∧
    (∀ (f : HeelFrame) t msg, s.heelReceive heelReport f = (t, some msg) → t.bit (Reg.HEEL_CTRL f.session) Fld.HEEL_CTRL_ROLE = true →
      t.heelState f.session = heelIsFrozen →
      exec (.heelReport f) s = .next (t.writeDiv f.session (divergenceOf f.epoch f.keyB msg)).heelSettle)

/-- Where no session is paired with a job that has left its running states, each of the eight messages of Table 7-3
(setup, batch and stage digest, freeze, locate request, answer and report, and a bare acknowledgement) for a session
that is not enabled, or on the other link than the session uses, leaves the state exactly as it was. On the pin link
of an enabled session one whose every frame has a CRC that is not its own, or, for the seven that are not bare
acknowledgements, a SEQ other than the expected one, writes every session back as it was and changes nothing else.
(R213, R385) -/
def Obligations.PinLinkFramesOutOfSequenceAreDiscarded : Prop :=
  ∀ (s : State) (f : HeelFrame), (∀ k, k < 4 → s.heelState k = heelPaired → s.jobActive (s.heelJob k) = true) →
    let rows : List (Instr × Nat) := [(.heelSetup f, heelSetup), (.heelBatchDigest f, heelBatch), (.heelStageDigest f, heelStage),
      (.heelFreeze f, heelFreeze), (.heelLocateRequest f, heelRequest), (.heelLocateAnswer f, heelAnswer), (.heelReport f, heelReport)]
    let pin := s.bit (Reg.HEEL_CTRL f.session) Fld.HEEL_CTRL_LINK
    let frames : List HeelPiece := ⟨f.seq, f.ackSeq, f.crc, f.digest⟩ :: f.rest
    let badCrc (kind : Nat) (p : HeelPiece) : Prop :=
      p.crc.toNat ≠ heelCrc p.seq p.ackSeq (heelMessage kind f.session f.keyA f.epoch f.keyB p.digest)
    let same := s.setHeel f.session (s.heelSession f.session)
    (∀ k, same.heelSession k = s.heelSession k) ∧
    (∀ i ∈ rows,
      ((s.bit (Reg.HEEL_CTRL f.session) Fld.HEEL_CTRL_ENABLE = false ∨ f.pinLink ≠ pin) → exec i.1 s = .next s) ∧
      (s.live = true → s.bit (Reg.HEEL_CTRL f.session) Fld.HEEL_CTRL_ENABLE = true → pin = true → f.pinLink = true →
        (∀ p ∈ frames, badCrc i.2 p ∨ p.seq ≠ (s.heelSession f.session).expected) → exec i.1 s = .next same)) ∧
    ((s.bit (Reg.HEEL_CTRL f.session) Fld.HEEL_CTRL_ENABLE = false ∨ f.pinLink ≠ pin) → exec (.heelAckFrame f) s = .next s) ∧
    (s.live = true → s.bit (Reg.HEEL_CTRL f.session) Fld.HEEL_CTRL_ENABLE = true → pin = true → f.pinLink = true →
      (∀ p ∈ frames, badCrc heelAck p) → exec (.heelAckFrame f) s = .next same)

/-- For the nine opcode rows: a frame on a sub-port without a link, or of another opcode, does nothing; one that is
too short, invalid or of the wrong length counts a dropped packet in counter 2, one of a bad age in counter 1, one of
a context without a record in counter 2; one whose record is not on chip waits in the miss queue; one that does not
authenticate, or whose key phase is not accepted, is counted in counter 0, and one of the wrong shape in counter 2. A
frame that passes is handed to its opcode with its context noted. A frame at a sub-port that a paused check-value unit
stalls waits there. INVALID_FRAME is counted in counter 2 where a rule of framing is broken, and is the row of its
opcode where none is. The Heel sessions follow. (R219, R220, R222, R225, R227, R230, R231, R237, R238,
08_plyn_transport.md Table 8-5) -/
def Obligations.PlynFramesPassTheReceiveOrder : Prop :=
  ∀ (s : State) (port : Fin 5) (sub : Fin 4) (frame : Bytes), s.live = true →
    let h := pltHeaderOf frame
    let rows : List (Instr × Nat) := [(.pltWrite port sub frame, opWrite), (.pltWriteImm port sub frame, opWriteImm),
      (.pltReadReq port sub frame, opReadReq), (.pltReadResp port sub frame, opReadResp), (.pltAtomicAdd port sub frame, opAtomicAdd),
      (.pltAtomicCas port sub frame, opAtomicCas), (.pltAck port sub frame, opAck), (.pltNak port sub frame, opNak),
      (.pltCredit port sub frame, opCredit)]
    let good := 64 ≤ frame.length ∧ h.valid s.sourceId = true ∧ frame.length = pltFrameLength h
    let count (n : Nat) := Host.Outcome.next (s.pltCount n).heelSettle
    (∀ i ∈ rows,
      (s.ingressStalled port sub = true → exec i.1 s =
        .next (s.setPort port { s.port port with held := (s.port port).held ++ [(sub.val, i.2, frame)] }).heelSettle) ∧
      (s.ingressStalled port sub = false → (s.linkUp port sub = false ∨ h.opcode ≠ i.2) → exec i.1 s = .next s.heelSettle) ∧
      (s.ingressStalled port sub = false → s.linkUp port sub = true → h.opcode = i.2 →
        (¬ good → exec i.1 s = count 2) ∧
        (good → s.ageBad h = true → exec i.1 s = count 1) ∧
        (good → s.ageBad h = false → s.contexts.find h.context = none → exec i.1 s = count 2) ∧
        (∀ c, good → s.ageBad h = false → s.contexts.find h.context = some c →
          (c.onChip = false → exec i.1 s = .next (s.missQueue port sub h frame).heelSettle) ∧
          (c.onChip = true → h.unauth = false →
            ((openFrame ((s.contextKey c).getD []) h frame = none ∨ s.contextKey c = none ∨ c.phaseOk h = false) →
              exec i.1 s = count 0) ∧
            (∀ payload, openFrame ((s.contextKey c).getD []) h frame = some payload → s.contextKey c ≠ none → c.phaseOk h = true →
              (controlShapeOk h payload = false ∨ (opSingle h.opcode = true ∧ h.count ≠ 1)) → exec i.1 s = count 2)))) ∧
      (∀ u c g payload, s.packet port sub i.2 frame = some (u, c, g, payload) →
        exec i.1 s = .next (u.dispatchPacket port sub c g payload).heelSettle)) ∧
    (∀ wire, s.linkUp port sub = true →
      (s.carriedBy wire = .invalid → exec (.invalidFrame port ⟨sub, wire⟩) s = .next (s.pltCount 2).heelSettle) ∧
      (s.carriedBy wire = .plyn frame → ∀ i ∈ rows, h.opcode = i.2 → exec (.invalidFrame port ⟨sub, wire⟩) s = exec i.1 s))

/-- A request whose fragment was executed before is counted and acknowledged again, an atomic with its recorded
result, and a refused one is refused again; a wrong job or role epoch and a full replay filter refuse it. Otherwise,
with no check-value unit on the sub-port and the access allowed: WRITE and WRITE_IMM write the buffer, record the
fragment and acknowledge it, and WRITE_IMM posts its immediate with the last fragment; READ_REQ is answered with the
bytes, or not at all where a unit of a namespace does not read; an atomic stores the new value and returns the
previous one; CREDIT that fits enters its credits. READ_RESP keeps the first copy of each fragment; ACK settles its
messages; NAK_RETRY_LATER holds the fragment and the later ones; another known refusal of a fragment in flight drops
the message, or, where it is a stale role of this device's fleet job, fences or holds the node; an unknown code is
counted. (R222, R224, R228, R230, R232, R233, R234, R235, R239, R241, R336) -/
def Obligations.PlynPacketsAreExecuted : Prop :=
  ∀ (s : State) (port : Fin 5) (sub : Fin 4) (frame : Bytes) u c h payload,
    let done := ((c.entry h).map fun e => e.executed.contains h.fragment).getD false
    let quiet := u.plynUnits port sub false h.context h.opcode = []
    let rows : List (Instr × Nat) := [(.pltWrite port sub frame, opWrite), (.pltWriteImm port sub frame, opWriteImm),
      (.pltReadReq port sub frame, opReadReq), (.pltAtomicAdd port sub frame, opAtomicAdd), (.pltAtomicCas port sub frame, opAtomicCas),
      (.pltCredit port sub frame, opCredit)]
    (∀ i ∈ rows, s.packet port sub i.2 frame = some (u, c, h, payload) →
      (done = true → i.2 = opAtomicAdd ∨ i.2 = opAtomicCas → exec i.1 s =
        .next ((u.pltCount 4).ackAtomic h (((c.entry h).bind (·.result)).getD [])).heelSettle) ∧
      (done = true → i.2 = opWrite ∨ i.2 = opWriteImm ∨ i.2 = opCredit → exec i.1 s = .next ((u.pltCount 4).queueAck h).heelSettle) ∧
      (∀ code detail, (done = false ∨ i.2 = opReadReq) → (c.entry h).bind (·.nak) = some (code, detail) →
        exec i.1 s = .next ((u.pltCount 4).nak h (code % 256) detail (code / 256)).heelSettle) ∧
      ((done = false ∨ i.2 = opReadReq) → (c.entry h).bind (·.nak) = none →
        (∀ code detail bit, u.epochFault c h = some (code, detail, bit) → exec i.1 s = .next (u.refuse h code detail bit true).heelSettle) ∧
        (u.epochFault c h = none →
          (c.entry h = none → c.filterFull = true → exec i.1 s = .next (u.nak h NAK_RETRY_LATER 0 0).heelSettle) ∧
          ((c.entry h ≠ none ∨ c.filterFull = false) →
            (i.2 = opCredit → exec i.1 s = .next (if u.creditFull c h payload then u.nak h NAK_RETRY_LATER 0 0
              else u.execCredit c h payload).heelSettle) ∧
            (i.2 ≠ opCredit → quiet →
              (∀ code detail, u.bufferFault c h (if i.2 = opReadReq then h.length else payload.length) = some (code, detail) →
                exec i.1 s = .next (u.refuse h code detail 0 true).heelSettle) ∧
              (∀ b, u.bufferFault c h (if i.2 = opReadReq then h.length else payload.length) = none → u.ctxBuffer h.context c h.buffer = some b →
                (i.2 = opWrite → exec i.1 s =
                  .next (((u.writeBuffer h.context c b h.offset payload).executed h none).queueAck h).heelSettle) ∧
                (i.2 = opWriteImm → exec i.1 s =
                  .next ((((u.writeBuffer h.context c b h.offset payload).executed h none).postImmediate h).queueAck h).heelSettle) ∧
                (i.2 = opReadReq → u.unitsStalled b.nsid (b.unitsOf h.offset h.length) = false →
                  let r := u.readBufferUnits b h.offset h.length
                  (r.2 = true → exec i.1 s = .next ((r.1.executed h none).answer h.context h.source opReadResp 0 h.aux c.tclass
                    (u.readBuffer b h.offset h.length)).heelSettle) ∧
                  (r.2 = false → exec i.1 s = .next r.1.heelSettle)) ∧
                (i.2 = opAtomicAdd ∨ i.2 = opAtomicCas →
                  let old := leNat (u.readBuffer b h.offset 8)
                  exec i.1 s = .next (((u.writeBuffer h.context c b h.offset (leBytes 8 (atomicResult i.2 old payload))).executed h
                    (some (beBytes 8 old))).ackAtomic h (beBytes 8 old)).heelSettle))))))) ∧
    (s.packet port sub opReadResp frame = some (u, c, h, payload) → u.epochFault c h = none → quiet →
      exec (.pltReadResp port sub frame) s = .next (u.adjustCtx h.context fun c => { c with reads := c.reads.map fun r =>
        if r.tag = h.aux && !(r.got.any fun g => g.1 = h.offset) then { r with got := r.got ++ [(h.offset, payload)] } else r }).heelSettle) ∧
    (s.packet port sub opAck frame = some (u, c, h, payload) →
      exec (.pltAck port sub frame) s = .next (u.ackArrived h payload).heelSettle) ∧
    (s.packet port sub opNak frame = some (u, c, h, payload) →
      let code := h.aux % 256
      let msgId := beFieldAt payload 0 6
      let fragment := beFieldAt payload 6 2
      ((code = 0 ∨ NAK_CHECK < code) → exec (.pltNak port sub frame) s = .next (u.pltCount 2).heelSettle) ∧
      (code = NAK_RETRY_LATER → exec (.pltNak port sub frame) s = .next (u.retryLater h.context h.source msgId fragment).heelSettle) ∧
      (∀ x m f, ¬ (code = 0 ∨ NAK_CHECK < code) → code ≠ NAK_RETRY_LATER →
        ((u.contexts.find h.context).bind fun c => c.senderOf h.source msgId) = some (x, m) → m.frags[fragment]? = some f →
        f.acked = false → f.frame ≠ none → exec (.pltNak port sub frame) s =
          let t := u.adjustCtx h.context fun c => c.setSender (x.drop msgId)
          let v := (if m.purpose.toFleet then u else t).roleRefused h.source (h.aux / 256 % 2)
          .next (if code = NAK_ROLE_STALE ∧ u.fleetOn = true ∧ u.slotOf m.purpose = some u.fleetSlot then
            match m.purpose with
            | .read item => v.readFailed item
            | _ => v
          else t.refused h.source code m.purpose).heelSettle))

/-- For every context key, every Plyn header whose fields fit the widths of Table 8-2 and which is not UNAUTH, and
every payload of the length that the header states: the header read from the sealed frame is that header, field for
field; the frame has the length that the header states for it; and opening the frame under the same key gives the
payload. (R220, R225, R355, 08_plyn_transport.md Table 8-2) -/
def Obligations.SealedFramesOpen : Prop :=
  ∀ (key : Bytes) (h : PltHeader) (payload : Bytes),
    h.version < 2 ^ 4 → h.opcode < 2 ^ 4 → h.flags < 2 ^ 8 → h.phase < 2 ^ 8 → h.tclass < 2 ^ 8 → h.context < 2 ^ 16 →
    h.fragment < 2 ^ 16 → h.count < 2 ^ 16 → h.msgId < 2 ^ 48 → h.source < 2 ^ 32 → h.dest < 2 ^ 32 → h.jobEpoch < 2 ^ 32 →
    h.roleEpoch < 2 ^ 32 → h.peerEpoch < 2 ^ 32 → h.timestamp < 2 ^ 32 → h.buffer < 2 ^ 32 → h.generation < 2 ^ 32 →
    h.offset < 2 ^ 64 → h.length < 2 ^ 32 → h.aux < 2 ^ 32 → h.unauth = false → h.payloadBytes = payload.length →
    let frame := sealFrame key h payload
    pltHeaderOf frame = h ∧ frame.length = pltFrameLength h ∧ openFrame key (pltHeaderOf frame) frame = some payload

/-- CONTEXT_FETCH_DONE for a context that a packet waits for brings the record on chip and lets the waiting packets of
every port go on in order. ACK_TIMER sends what is gathered. RETRANSMIT_TIMEOUT of a fragment in flight, younger than
3,500 us and not held, doubles its timeout up to 1,000 us and queues it again (it is counted when it leaves).
MESSAGE_GIVE_UP drops a message not acknowledged in full and reports ST_PLT_UNCONFIRMED to what issued it: a batch
becomes UNCONFIRMED, a read whose answer is missing fails. RETRY_HOLD_EXPIRY ends a hold, FILTER_ENTRY_EXPIRY drops an
entry older than 4,100 us and with it a WRITE_IMM that can no longer complete, KEY_PHASE_WINDOW_EXPIRY drops the
previous phase, and DELIVERY_RETRY_TIMER counts the repeat and lets the delivery send its batch again under the same
credit, where its worker may start a message. (R225, R228, R229, R230, R237, R238, R239, R243) -/
def Obligations.PlynTimersAndFetchesComplete : Prop :=
  ∀ (s : State), s.live = true →
    (∀ (port : Fin 5) ctx c, (∃ f ∈ (s.port port).missq, (pltHeaderOf f.2).context = ctx) → s.contexts.find ctx = some c →
      c.onChip = false → c.fetching = true → exec (.contextFetchDone port ctx) s =
        .next ((([port.val] ++ (List.range 5).filter (· ≠ port.val)).foldl (fun (t : State) p => t.drainMiss p ctx)
          ((s.adjustCtx ctx fun c => { c with onChip := true, fetching := false }).touchCtx ctx)).heelSettle)) ∧
    (∀ ctx source, exec (.ackTimer ctx source) s = .next (s.flushAcks ctx source)) ∧
    (∀ ctx dest msgId fragment c x m f, s.contexts.find ctx = some c →
      (c.senders.find? fun x => x.dest = dest && x.msgs.any fun m => m.msgId = msgId) = some x →
      (x.msgs.find? fun m => m.msgId = msgId) = some m →
      (m.frags[fragment]? = some f → f.frame ≠ none → f.acked = false → x.isHeld msgId fragment = false →
        s.purposeLive m.purpose = true → s.uptime - f.sentNs < 3500000 →
        exec (.retransmitTimeout ctx dest msgId fragment) s =
          .next ((s.adjustCtx ctx fun c => c.setSender (x.adjustMsg msgId fun m => m.adjustFrag fragment fun f =>
            { f with resent := true, timeoutUs := min 1000 (2 * f.timeoutUs) })).pushTx m.route
              ⟨f.header, f.payload, true, m.route.addr⟩)) ∧
      (m.bornNs ≠ none → (∃ f ∈ m.frags, f.acked = false) →
        let t := s.adjustCtx ctx fun c => { c.setSender (x.drop msgId) with reports := c.reports ++ [(m.purpose, ST_PLT_UNCONFIRMED)] }
        exec (.messageGiveUp ctx dest msgId) s = .next (match m.purpose with
          | .batch slot rank d _ => t.batchUnconfirmed slot rank d
          | .read item => if c.readFull ((m.frags.head?.map fun (f : OutFrag) => f.header.aux).getD 0) then t else t.readFailed item
          | _ => t).heelSettle)) ∧
    (∀ ctx dest msgId fragment, exec (.retryHoldExpiry ctx dest msgId fragment) s = .next (s.adjustCtx ctx fun c =>
      { c with senders := c.senders.map fun x =>
        if x.dest = dest then { x with holds := x.holds.filter fun h => !(h.1 = msgId && h.2.1 = fragment) } else x })) ∧
    (∀ ctx key, exec (.filterEntryExpiry ctx key) s = .next (s.adjustCtx ctx fun c =>
      let old := fun (e : FilterEntry) => e.key = key && 4100 < pltAge s.nowUs e.timestamp
      { c with
        filter := c.filter.filter fun e => !old e
        partialImm := c.partialImm.filter fun k => !(k = key && c.filter.any old) })) ∧
    (∀ ctx source, exec (.keyPhaseWindowExpiry ctx source) s = .next (s.adjustCtx ctx fun c =>
      { c with phases := c.phases.mapVals fun k p => if k % 2 ^ 32 = source then (p.1, none) else p })) ∧
    (∀ (slot : Fin 64) rank dest j st d de, s.delivery slot rank dest = some (j, st, d, de) → s.jobActive slot = true → d.waiting = true →
      exec (.deliveryRetryTimer slot rank dest) s =
        .next ((((s.bump (Reg.PLT_JOB_RETRIES slot) Fld.PLT_JOB_RETRIES_COUNT).adjustDelivery slot rank dest
          fun d => { d with waiting := false, repeats := d.repeats + 1 }).flowRank slot rank).heelSettle))

/-- FRAME_TRANSMIT on a sub-port with a link sends the first PTP message that waits there, past gates and shapers, and
where none does the first frame that the classes offer, from 7 down. GATE_ENTRY_CHANGE shows the gates of the network
time. A write of PLT_PORT_CFG sets SPLIT and PAYLOAD only on a disabled port and never to the reserved value 3, sets
ENABLE, takes the links of a disabled port down and settles the domains. LINK_STATE_CHANGE sets the link bit of a sub-
port that an enabled port has, and clears it of any other. Writes of RATE and BURST set the field (BURST at least
16,384) and the tokens to BURST or 0. A read of PLT_TIME_NS answers the nanoseconds and latches the seconds, and a
read of PLT_MISSQ answers it and clears HIGH. (R10, R218, R246, R247, R248, R250, R365) -/
def Obligations.PortsShapersAndTimeReadsComplete : Prop :=
  ∀ (s : State) (port : Fin 5) (sub : Fin 4) (cls : Fin 8) (v : Word64),
    (s.live = true →
      (s.linkUp port sub = true →
        (∀ m rest, (s.ptpPort (ptpKey port sub)).queue = m :: rest → exec (.frameTransmit port sub) s = .next (s.sendPtp port sub m rest)) ∧
        ((s.ptpPort (ptpKey port sub)).queue = [] →
          exec (.frameTransmit port sub) s = .next (s.transmitFrom port sub [7, 6, 5, 4, 3, 2, 1, 0]))) ∧
      (s.linkUp port sub = false → exec (.frameTransmit port sub) s = .next s) ∧
      exec (.gateEntryChange port) s = .next (s.recomputeGates port) ∧
      (∀ up : Bool,
        let link := s.fld (Reg.PLT_PORT_STATUS port) Fld.PLT_PORT_STATUS_LINK
        let want := up && s.portEnabled port && decide (sub.val < s.portSubs port)
        exec (.linkStateChange port sub up) s = .next (if natBit link sub = want then s else
          s.setFld (Reg.PLT_PORT_STATUS port) Fld.PLT_PORT_STATUS_LINK (if want then link + 2 ^ sub.val else link - 2 ^ sub.val)))) ∧
    (s.hostReaches (Reg.PLT_PORT_CFG port) = true →
      let split := getFld Fld.PLT_PORT_CFG_SPLIT v
      let payload := getFld Fld.PLT_PORT_CFG_PAYLOAD v
      let t := if s.portEnabled port = true ∨ split = 3 then s else s.setFld (Reg.PLT_PORT_CFG port) Fld.PLT_PORT_CFG_SPLIT split
      let u := if s.portEnabled port = true ∨ payload = 3 then t else t.setFld (Reg.PLT_PORT_CFG port) Fld.PLT_PORT_CFG_PAYLOAD payload
      (getFld Fld.PLT_PORT_CFG_ENABLE v = 1 → exec (.pltPortCfgWrite port v) s =
        .next (u.setBit (Reg.PLT_PORT_CFG port) Fld.PLT_PORT_CFG_ENABLE true).settleDomains) ∧
      (getFld Fld.PLT_PORT_CFG_ENABLE v ≠ 1 → exec (.pltPortCfgWrite port v) s =
        .next ((u.setBit (Reg.PLT_PORT_CFG port) Fld.PLT_PORT_CFG_ENABLE false).setFld (Reg.PLT_PORT_STATUS port)
          Fld.PLT_PORT_STATUS_LINK 0).settleDomains)) ∧
    (s.hostReaches (Reg.PLT_SHAPER_RATE port sub cls) = true → exec (.shaperRateWrite port sub cls v) s =
      .next (((s.setFld (Reg.PLT_SHAPER_RATE port sub cls) Fld.PLT_SHAPER_RATE_MBPS (getFld Fld.PLT_SHAPER_RATE_MBPS v)).setFld
        (Reg.PLT_SHAPER_RATE port sub cls) Fld.PLT_SHAPER_RATE_RESET_FULL (getFld Fld.PLT_SHAPER_RATE_RESET_FULL v)).resetTokens
          port sub cls)) ∧
    (s.hostReaches (Reg.PLT_SHAPER_BURST port sub cls) = true → exec (.shaperBurstWrite port sub cls v) s =
      .next ((s.setFld (Reg.PLT_SHAPER_BURST port sub cls) Fld.PLT_SHAPER_BURST_BYTES
        (max 16384 (getFld Fld.PLT_SHAPER_BURST_BYTES v))).resetTokens port sub cls)) ∧
    (s.hostReaches Reg.PLT_TIME_NS = true → exec .pltTimeNsRead s =
      .next { (s.setReg Reg.PLT_TIME_NS (BitVec.ofNat 64 s.time.ns)).setReg Reg.PLT_TIME_SEC (BitVec.ofNat 64 s.time.sec) with
        hostRead := BitVec.ofNat 64 s.time.ns }) ∧
    (s.hostReaches (Reg.PLT_MISSQ port) = true → exec (.pltMissqRead port) s =
      .next { s.setFld (Reg.PLT_MISSQ port) Fld.PLT_MISSQ_HIGH 0 with hostRead := s.reg (Reg.PLT_MISSQ port) })

/-- HOLD of a channel that nobody claims sets HOLD and claims it; of one that is claimed it sets CODE to
ST_BUSY_CLAIMED; RELEASE of a held IDLE channel gives it back, and is ignored otherwise. GO without HOLD sets
ST_DMA_NOT_HELD, on a channel that is not IDLE it changes nothing, and otherwise makes it BUSY, clears BYTES and CODE
and fetches the descriptor: one that breaks a check ends the chain with its code. ABORT makes a BUSY channel ABORTING.
A descriptor of a BUSY channel that no paused check-value unit stalls passes its stream through the inbound and then
the outbound units of the channel, stores it, counts its bytes, and ends the chain with ST_DMA_CHECK where a value
differed or with LAST, else records where IRQ asks and fetches the next. A transfer error or an abort ends the chain
after a prefix, to which a free number of further bytes may be added (log entry 1); an abort before the descriptor was
fetched has a RESIDUE of all ones and a TAG that the spec does not state. (R251, R252, R253, R254, R257, R258, R259,
R269) -/
def Obligations.MoversComplete : Prop :=
  ∀ (s : State) (ch : Fin 64),
    let status (t : State) (code : Nat) := t.setFld (Reg.DMA_CH_STATUS ch) Fld.DMA_CH_STATUS_CODE code
    let held := s.bit (Reg.DMA_CH_CTRL ch) Fld.DMA_CH_CTRL_HOLD
    (s.hostReaches (Reg.DMA_CH_CTRL ch) = true →
      (held = true → exec (.dmaHold ch) s = .next s) ∧
      (held = false → s.claimOwner 0x0C ch ≠ none → exec (.dmaHold ch) s = .next (status s ST_BUSY_CLAIMED)) ∧
      (held = false → s.claimOwner 0x0C ch = none → exec (.dmaHold ch) s =
        .next ((s.setBit (Reg.DMA_CH_CTRL ch) Fld.DMA_CH_CTRL_HOLD true).addClaim 0x0C ch ownerManagement)) ∧
      (held = true → s.dmaState ch = chIdle → exec (.dmaRelease ch) s =
        .next ((s.setBit (Reg.DMA_CH_CTRL ch) Fld.DMA_CH_CTRL_HOLD false).dropClaim 0x0C ch ownerManagement)) ∧
      ((held = false ∨ s.dmaState ch ≠ chIdle) → exec (.dmaRelease ch) s = .next s) ∧
      (held = false → exec (.dmaGo ch) s = .next (status s ST_DMA_NOT_HELD)) ∧
      (held = true → s.dmaState ch ≠ chIdle → exec (.dmaGo ch) s = .next s) ∧
      (held = true → s.dmaState ch = chIdle →
        let t := (status (s.setFld (Reg.DMA_CH_STATUS ch) Fld.DMA_CH_STATUS_STATE chBusy) ST_OK).setReg (Reg.DMA_CH_BYTES ch) 0
        exec (.dmaGo ch) s = .next (t.dmaFetch ch (s.reg (Reg.DMA_CH_DESC ch)).toNat)) ∧
      (s.dmaState ch = chBusy →
        exec (.dmaAbort ch) s = .next (s.setFld (Reg.DMA_CH_STATUS ch) Fld.DMA_CH_STATUS_STATE chAborting)) ∧
      (s.dmaState ch ≠ chBusy → exec (.dmaAbort ch) s = .next s)) ∧
    (∀ run, s.live = true → s.dma.find ch = some run →
      let total := run.desc.total
      let stop (done code : Nat) :=
        let a := s.drew.chkThrough (s.dmaUnits ch false) ((s.dmaStream run.desc).take
          (min done total + s.freeValue % (total - min done total + 1))) false
        let b := a.1.chkThrough (s.dmaUnits ch true) a.2.1 false
        ((b.1.dmaStore run.desc b.2.1).bump (Reg.DMA_CH_BYTES ch) Fld.DMA_CH_BYTES_COUNT (min done total)).dmaEnd ch run code
          (total - min done total)
      let a := s.chkThrough (s.dmaUnits ch false) (s.dmaStream run.desc) true
      let b := a.1.chkThrough (s.dmaUnits ch true) a.2.1 true
      let done := (b.1.dmaStore run.desc b.2.1).bump (Reg.DMA_CH_BYTES ch) Fld.DMA_CH_BYTES_COUNT total
      (s.dmaState ch = chBusy →
        (s.dmaStalled ch = true → exec (.dmaDescriptorComplete ch) s = .next s) ∧
        (s.dmaStalled ch = false →
          (a.2.2 = false → exec (.dmaDescriptorComplete ch) s = .next (done.dmaEnd ch run ST_DMA_CHECK 0)) ∧
          (a.2.2 = true → run.desc.last = true → exec (.dmaDescriptorComplete ch) s = .next (done.dmaEnd ch run ST_OK 0)) ∧
          (a.2.2 = true → run.desc.last = false → exec (.dmaDescriptorComplete ch) s = .next
            ((if run.desc.irq then done.dmaRecord ch run.desc.tag ST_OK run.at_ 0 else done).dmaFetch ch run.desc.next)))) ∧
      (∀ ecc p, exec (.dmaTransferError ch ecc p) s = .next (stop p (if ecc then ST_DMA_ECC else ST_DMA_BUS))) ∧
      (∀ p : Option Nat, s.dmaState ch = chAborting → exec (.dmaAbortComplete ch p) s = .next (match p with
        | some n => stop n ST_DMA_ABORTED
        | none => s.drew.dmaEnd ch { run with desc := { run.desc with tag := s.freeValue % 2 ^ 32 } } ST_DMA_ABORTED
          0xFFFF_FFFF_FFFF_FFFF)))

/-- A request that the grant test allows takes a FREE buffer, which one being a free value (log entry 1), with count 1
for the stage; a request of a requester that is not granted waits; another stage allocates nothing. A release of a
buffer whose count is 1 frees it and serves the waiting requests, and of a higher count takes one off. A count of 1 to
255 is set; other counts change nothing. A handle of no pool or beyond its buffers, a release of a FREE buffer, and a
count for one, set ERR, HANDLE, STAGE and CODE, count the error and raise vector 6. The read of POOL_MIN_FREE answers
it and restarts it at POOL_FREE. (R260, R261, R262, R263, R264, R265, R272) -/
def Obligations.PoolsComplete : Prop :=
  ∀ (s : State),
    (s.live = true → ∀ (k : Fin 64) stage p, s.pools.find k = some p →
      (p.grants stage = true → exec (.poolRequest k stage) s = .next (s.drew.setPool k
        { p with held := p.held.insert (p.freeList.getD (s.freeValue % p.free) 0) ⟨1, stage⟩ })) ∧
      (p.grants stage = false → p.requester stage ≠ none →
        exec (.poolRequest k stage) s = .next (s.setPool k { p with waiting := p.waiting ++ [(stage, none)] })) ∧
      (p.requester stage = none → exec (.poolRequest k stage) s = .next s)) ∧
    (s.live = true → ∀ h stage count,
      let refuse (code : Nat) :=
        let k := handlePool h
        let t := ((s.setBit (Reg.POOL_STATUS k) Fld.POOL_STATUS_ERR true).bumpSat (Reg.POOL_ERRORS k) Fld.POOL_ERRORS_COUNT).setFld
          (Reg.POOL_ERR_HANDLE k) Fld.POOL_ERR_HANDLE_HANDLE h
        Host.Outcome.next (((t.setFld (Reg.POOL_ERR_INFO k) Fld.POOL_ERR_INFO_STAGE stage).setFld (Reg.POOL_ERR_INFO k)
          Fld.POOL_ERR_INFO_CODE code).raise 6)
      ((s.pools.find (handlePool h) = none ∨ (∃ p, s.pools.find (handlePool h) = some p ∧ p.buffers ≤ handleIndex h)) →
        exec (.poolRelease h stage) s = refuse ST_POOL_HANDLE ∧ exec (.poolSetCount h stage count) s = refuse ST_POOL_HANDLE) ∧
      (∀ p, s.pools.find (handlePool h) = some p → handleIndex h < p.buffers →
        (p.held.find (handleIndex h) = none → exec (.poolRelease h stage) s = refuse ST_POOL_DOUBLE_FREE ∧
          exec (.poolSetCount h stage count) s = refuse ST_POOL_NOT_HELD) ∧
        (∀ b, p.held.find (handleIndex h) = some b →
          (b.count ≤ 1 → exec (.poolRelease h stage) s = .next (State.poolServe (handlePool h) (p.waiting.length + 1)
            (s.setPool (handlePool h) { p with held := p.held.erase (handleIndex h) }))) ∧
          (1 < b.count → exec (.poolRelease h stage) s = .next (s.setPool (handlePool h)
            { p with held := p.held.insert (handleIndex h) { b with count := b.count - 1 } })) ∧
          (1 ≤ count → count ≤ 255 → exec (.poolSetCount h stage count) s = .next (s.setPool (handlePool h)
            { p with held := p.held.insert (handleIndex h) { b with count := count } })) ∧
          (¬ (1 ≤ count ∧ count ≤ 255) → exec (.poolSetCount h stage count) s = .next s)))) ∧
    (∀ k : Fin 64, s.hostReaches (Reg.POOL_MIN_FREE k) = true → exec (.poolMinFreeRead k) s = .next
      { s.setFld (Reg.POOL_MIN_FREE k) Fld.POOL_MIN_FREE_COUNT (s.fld (Reg.POOL_FREE k) Fld.POOL_FREE_COUNT) with
        hostRead := s.reg (Reg.POOL_MIN_FREE k) })

/-- HOLD of an unclaimed unit claims it, and of a claimed one is ignored; RELEASE of a held unit stops it and gives it
back. On a held unit: ENABLE with a configuration inside the rules enables it with fresh values and CODE 0, and with
another one leaves it disabled with ST_CHK_CONFIG; DISABLE stops it; PAUSE of an enabled unit asks for the stall,
CHK_PAUSED then shows it, and RESUME ends it. RELEASE, DISABLE and RESUME let the frames go on that wait at stalled
sub-ports. CHK_CFG and CHK_FILTER are written unless an image claims the unit; CHK_RUNNING and CHK_BYTES while it is
paused or disabled; a read of CHK_RUNNING latches CHK_BYTES. A record that ends on an enabled unit that is not paused
feeds its data and shows the value; in STRIP mode a trailer that differs counts a mismatch, records the offset at
which its record began and raises vector 7. (R266, R267, R268, R269, R273) -/
def Obligations.CheckUnitsComplete : Prop :=
  ∀ (s : State) (u : Fin 16),
    let flag (t : State) (f : Fld) (b : Bool) := t.setBit (Reg.CHK_CTRL u) f b
    let code (t : State) (c : Nat) := t.setFld (Reg.CHK_CTRL u) Fld.CHK_CTRL_CODE c
    let off := flag (flag (flag s Fld.CHK_CTRL_ENABLE false) Fld.CHK_CTRL_PAUSE false) Fld.CHK_CTRL_PAUSED false
    (s.hostReaches (Reg.CHK_CTRL u) = true →
      (s.chkHeld u = true → exec (.chkHold u) s = .next s) ∧
      (s.chkHeld u = false → s.claimOwner 0x0B u ≠ none → exec (.chkHold u) s = .next s) ∧
      (s.chkHeld u = false → s.claimOwner 0x0B u = none →
        exec (.chkHold u) s = .next ((flag s Fld.CHK_CTRL_HOLD true).addClaim 0x0B u ownerManagement)) ∧
      (s.chkHeld u = true →
        exec (.chkRelease u) s = .next ((flag off Fld.CHK_CTRL_HOLD false).dropClaim 0x0B u ownerManagement).drainStalled ∧
        exec (.chkDisable u) s = .next off.drainStalled ∧
        exec (.chkResume u) s = .next (flag (flag s Fld.CHK_CTRL_PAUSE false) Fld.CHK_CTRL_PAUSED false).drainStalled ∧
        (s.chkOn u = true → exec (.chkPause u) s = .next (flag s Fld.CHK_CTRL_PAUSE true)) ∧
        ((s.chkConfig u).ok = true → exec (.chkEnable u) s = .next (((code (flag s Fld.CHK_CTRL_ENABLE true) 0).setChk u
          ⟨(s.chkConfig u).poly.initial, 0, 0⟩).setReg (Reg.CHK_MISMATCH_AT u) 0xFFFF_FFFF_FFFF_FFFF)) ∧
        ((s.chkConfig u).ok = false → exec (.chkEnable u) s = .next (code (flag s Fld.CHK_CTRL_ENABLE false) ST_CHK_CONFIG))) ∧
      (s.chkHeld u = false → exec (.chkRelease u) s = .next s.drainStalled ∧ exec (.chkDisable u) s = .next s.drainStalled ∧
        exec (.chkResume u) s = .next s.drainStalled ∧
        exec (.chkPause u) s = .next s ∧ exec (.chkEnable u) s = .next s)) ∧
    (∀ v, s.hostReaches (Reg.CHK_CFG u) = true →
      (s.chkClaimed u = true → exec (.chkConfigWrite u true v) s = .next s ∧ exec (.chkConfigWrite u false v) s = .next s) ∧
      (s.chkClaimed u = false →
        exec (.chkConfigWrite u true v) s = .next (s.setReg (Reg.CHK_FILTER u) (v &&& 0x0001_FFFF)) ∧
        exec (.chkConfigWrite u false v) s = .next (s.setReg (Reg.CHK_CFG u) (v &&& 0x001F_3F7F)))) ∧
    (∀ v, s.hostReaches (Reg.CHK_RUNNING u) = true →
      ((s.chkOn u = false ∨ s.chkPaused u = true) →
        exec (.chkStateWrite u true v) s = .next ((s.setChk u { s.chkUnit u with bytes := v.toNat, into := v.toNat % (s.chkConfig u).record }).setReg (Reg.CHK_BYTES u) v) ∧
        exec (.chkStateWrite u false v) s = .next ((s.setChk u { s.chkUnit u with running := v }).setReg (Reg.CHK_RUNNING u) v)) ∧
      (s.chkOn u = true → s.chkPaused u = false → ∀ b, exec (.chkStateWrite u b v) s = .next s) ∧
      exec (.chkRunningRead u) s = .next { ((s.setReg (Reg.CHK_RUNNING u) (s.chkUnit u).running).setReg (Reg.CHK_BYTES u)
        (BitVec.ofNat 64 (s.chkUnit u).bytes)) with hostRead := (s.chkUnit u).running }) ∧
    (s.live = true →
      (s.chkOn u = true → s.bit (Reg.CHK_CTRL u) Fld.CHK_CTRL_PAUSE = true →
        exec (.chkPaused u) s = .next (flag s Fld.CHK_CTRL_PAUSED true)) ∧
      (∀ data trailer, s.chkOn u = true → s.chkPaused u = false →
        let t := (s.chkFeed u data).chkEndRecord u
        let value := (s.chkConfig u).poly.appended (t.reg (Reg.CHK_RESULT u))
        ((s.chkConfig u).mode = chkStrip → value ≠ trailer →
          exec (.chkRecord u data trailer) s = .next (t.chkMismatch u ((s.chkUnit u).bytes - (s.chkUnit u).into))) ∧
        (((s.chkConfig u).mode ≠ chkStrip ∨ value = trailer) → exec (.chkRecord u data trailer) s = .next t)))

/-- HOLD of an engine that no image binds claims it with no open stream and its counts at 0, and of a bound one sets
ST_BUSY_CLAIMED; RELEASE gives back an engine that is neither BUSY nor ABORTING. GO without HOLD sets ST_BRI_NOT_HELD,
on an engine that is not IDLE it changes nothing, and otherwise makes it BUSY and fetches the descriptor. ABORT makes
a BUSY engine ABORTING. BRI_BLOCK_DONE works one block of a BUSY engine; an ABORTING one ends at the block's end, with
ST_BRI_ABORTED unless the block found an error. BRI_DESCRIPTOR_COMPLETE ends the descriptor of a BUSY engine, fetching
the next of the chain, and that of an ABORTING one likewise with ST_BRI_ABORTED unless it had ended with an error.
(R287, R291, R292, R293, R295, R296, R298) -/
def Obligations.BriarEnginesComplete : Prop :=
  ∀ (s : State) (e : Fin 48),
    let status (t : State) (code : Nat) := t.setFld (Reg.BRI_ENG_STATUS e) Fld.BRI_ENG_STATUS_CODE code
    let state (t : State) (st : Nat) := t.setFld (Reg.BRI_ENG_STATUS e) Fld.BRI_ENG_STATUS_STATE st
    let held := s.bit (Reg.BRI_ENG_CTRL e) Fld.BRI_ENG_CTRL_HOLD
    let key := engineKey (briClass e) (briNumber e)
    (s.hostReaches (Reg.BRI_ENG_CTRL e) = true →
      (held = true → exec (.briHold e) s = .next s) ∧
      (held = false → s.bit (Reg.BRI_ENG_STATUS e) Fld.BRI_ENG_STATUS_BOUND = true → exec (.briHold e) s = .next (status s ST_BUSY_CLAIMED)) ∧
      (held = false → s.bit (Reg.BRI_ENG_STATUS e) Fld.BRI_ENG_STATUS_BOUND = false → exec (.briHold e) s =
        .next (((((s.setBit (Reg.BRI_ENG_CTRL e) Fld.BRI_ENG_CTRL_HOLD true).addClaim 0x05 key ownerManagement).putBri e
          ⟨none, none⟩).setReg (Reg.BRI_ENG_CONSUMED e) 0).setReg (Reg.BRI_ENG_PRODUCED e) 0)) ∧
      (held = true → s.briState e ≠ chBusy → s.briState e ≠ chAborting → exec (.briRelease e) s =
        .next ((s.setBit (Reg.BRI_ENG_CTRL e) Fld.BRI_ENG_CTRL_HOLD false).dropClaim 0x05 key ownerManagement)) ∧
      ((held = false ∨ s.briState e = chBusy ∨ s.briState e = chAborting) → exec (.briRelease e) s = .next s) ∧
      (held = false → exec (.briGo e) s = .next (status s ST_BRI_NOT_HELD)) ∧
      (held = true → s.briState e ≠ chIdle → exec (.briGo e) s = .next s) ∧
      (held = true → s.briState e = chIdle →
        exec (.briGo e) s = .next ((status (state s chBusy) ST_OK).briFetch e (s.reg (Reg.BRI_ENG_DESC e)).toNat)) ∧
      (s.briState e = chBusy → exec (.briAbort e) s = .next (state s chAborting)) ∧
      (s.briState e ≠ chBusy → exec (.briAbort e) s = .next s)) ∧
    (s.live = true → ∀ verified,
      let t := s.briStep e verified
      (s.briState e ≠ chAborting → exec (.briBlockDone e verified) s = .next t) ∧
      (∀ run, s.briState e = chAborting → (t.briEngine e).run = some run →
        (∀ code bit, run.ended = some (code, bit) → code ≠ ST_OK →
          exec (.briBlockDone e verified) s = .next (t.briEnd e run code bit)) ∧
        ((run.ended = none ∨ ∃ bit, run.ended = some (ST_OK, bit)) →
          exec (.briBlockDone e verified) s = .next (t.briEnd e run ST_BRI_ABORTED noBit))) ∧
      (s.briState e = chBusy → exec (.briDescriptorComplete e) s = .next (s.briComplete e)) ∧
      (∀ run, s.briState e = chAborting → (s.briEngine e).run = some run →
        (∀ code bit, run.ended = some (code, bit) → code ≠ ST_OK →
          exec (.briDescriptorComplete e) s = .next (s.briEnd e run code bit)) ∧
        ((run.ended = none ∨ ∃ bit, run.ended = some (ST_OK, bit)) →
          exec (.briDescriptorComplete e) s = .next (s.briEnd e run ST_BRI_ABORTED noBit))))

/-- For each of the 19 management commands. One that reaches no running Sheepdog, and an envelope with another
command's code, change nothing. An envelope of a wrong length (or wrong MAGIC: log entry 42) returns ST_MBX_FORMAT.
Another is refused with ST_SEC_SIGNATURE where DEVICE is not this device or nobody's key verifies it (an unsigned
SEC_ANCHOR_SET through the mailbox needs none while the anchor list is empty), with ST_SEC_SCOPE where the signer may
not act for SCOPE and CODE, and with ST_SEC_REPLAY where COUNTER does not exceed the scope's counter; each refusal
posts its result and changes nothing else. Otherwise the scope's counter takes COUNTER, and arguments outside their
layout return ST_PWR_RANGE, a command that the mode does not serve ST_FALLBACK. (R357, R358, R373, R375, R397) -/
def Obligations.ManagementEnvelopesAreChecked : Prop :=
  ∀ (s : State) (src : MgmtSource),
    let rows : List ((MgmtSource → Instr) × Nat) :=
      [(Instr.secAttest, 0x0401), (Instr.secKeyImport, 0x0402), (Instr.secKeyDestroy, 0x0403), (Instr.secHedgeOwner, 0x0404),
        (Instr.secAnchorSet, 0x0405), (Instr.secCertRead, 0x0406), (Instr.blkNsCreate, 0x0301), (Instr.blkNsDelete, 0x0302),
        (Instr.blkKeyRotate, 0x0303), (Instr.blkKeySweep, 0x0304), (Instr.blkKeyDestroy, 0x0305), (Instr.shdFwStage, 0x0101),
        (Instr.shdFwActivate, 0x0102), (Instr.shdReset, 0x0103), (Instr.shdFallbackExit, 0x0104), (Instr.pwrSetCap, 0x0105),
        (Instr.pwrSetPlanMax, 0x0106), (Instr.shdFeature, 0x0107), (Instr.shdDiag, 0x0108)]
    ∀ row ∈ rows,
      (s.mgmtBytes src = none → exec (row.1 src) s = .next s) ∧
      (∀ b, s.mgmtBytes src = some b →
        let e := envelopeOf b
        let host := fromHost src
        let result (t : State) (code : Nat) : Host.Outcome State Fault Refusal := .next (t.postResult host code []).heelSettle
        let counter := Reg.SEC_CMD_COUNTER (if e.scope = 0xFF then 16 else e.scope)
        let unsigned : Bool := host && s.security.anchors.isEmpty && e.code = 0x0405 && e.scope = 0xFF
        let anchorSigns : Bool := s.security.anchors.any fun k => ecdsaVerify k e.signed e.signature
        let ownerSigns (h : Nat) : Bool := (s.security.owners.find h).any fun k => ecdsaVerify k e.signed e.signature
        let known : Bool := anchorSigns || (List.range 16).any ownerSigns
        let signer : Bool := if e.scope = 0xFF then anchorSigns else ownerSigns e.scope
        let code :=
          if e.device ≠ deviceIdentity || !(unsigned || known) then ST_SEC_SIGNATURE
          else if !(unsigned || signer) || !s.scopeCarries e then ST_SEC_SCOPE
          else if e.counter ≤ s.fld counter Fld.SEC_CMD_COUNTER_COUNTER then ST_SEC_REPLAY
          else ST_OK
        let counted := if code = ST_OK then s.setReg counter (BitVec.ofNat 64 e.counter) else s
        (fieldAt b 4 2 ≠ row.2 → exec (row.1 src) s = .next s) ∧
        (fieldAt b 4 2 = row.2 → envelopeOk b = false → exec (row.1 src) s = result s ST_MBX_FORMAT) ∧
        (fieldAt b 4 2 = row.2 → envelopeOk b = true →
          (code ≠ ST_OK → exec (row.1 src) s = result s code) ∧
          (argsOk e.code e.args = false → exec (row.1 src) s = result counted (if code = ST_OK then ST_PWR_RANGE else code)) ∧
          (argsOk e.code e.args = true → s.sheep.mode.serves e.code = false →
            exec (row.1 src) s = result counted (if code = ST_OK then ST_FALLBACK else code))))

/-- For an envelope of the right length, with arguments in their layout, in a mode that serves the command. Where the
checks of R357 fail, the failing code is posted; where they pass, the scope's counter takes COUNTER and: SHD_FW_STAGE
writes the inactive slot, and at FINAL the slot is staged or ST_FW_IMAGE returned; SHD_FW_ACTIVATE returns ST_FW_NONE,
ST_FW_BUSY or ST_DCLASS_BUSY, or quiesces the block store; SHD_RESET posts its result and resets warm or the
controller, SHD_FALLBACK_EXIT clears FAILS and restarts from stage 1 (the result first: log entry 42); PWR_SET_CAP
sets WATTS, PWR_SET_PLAN_MAX the step; SHD_FEATURE gives a free pin its function or takes it back, and starts or stops
a diagnostic timer, with ST_BUSY_CLAIMED and ST_PWR_RANGE as Table 14-8 says; SHD_DIAG returns its three registers.
(R41, R48, R203, R308, R369, R373, R374, R375, 14_power_boot.md Table 14-8) -/
def Obligations.SheepdogCommandsComplete : Prop :=
  ∀ (s : State) (src : MgmtSource) (b : Bytes), s.mgmtBytes src = some b → envelopeOk b = true →
    let e := envelopeOf b
    argsOk e.code e.args = true → s.sheep.mode.serves e.code = true →
    let host := fromHost src
    let check := s.envelopeCheck host e
    let t := s.setReg (Reg.SEC_CMD_COUNTER (counterOf e.scope)) (BitVec.ofNat 64 e.counter)
    let ends (u : State) : Host.Outcome State Fault Refusal :=
      .next (if check = ST_OK then u else s.postResult host check []).heelSettle
    let result (u : State) (code : Nat) := ends (u.postResult host code [])
    let arg (i n : Nat) := fieldAt e.args i n
    (e.code = 0x0101 →
      let offset := arg 0 4
      let u := t.adjustSheep fun x =>
        if t.fld Reg.SHD_BOOT Fld.SHD_BOOT_SLOT = 0 then { x with slotB := spliceAt x.slotB offset (e.args.drop 8), staged := false }
        else { x with slotA := spliceAt x.slotA offset (e.args.drop 8), staged := false }
      let image := if u.fld Reg.SHD_BOOT Fld.SHD_BOOT_SLOT = 0 then u.sheep.slotB else u.sheep.slotA
      (arg 4 1 = 0 → exec (.shdFwStage src) s = result u ST_OK) ∧
      (arg 4 1 ≠ 0 → u.fld Reg.SHD_BOOT Fld.SHD_BOOT_SLOT < 2 → exec (.shdFwStage src) s =
        if Config.firmwareSigned image then result (u.adjustSheep fun x => { x with staged := true }) ST_OK else result u ST_FW_IMAGE)) ∧
    (e.code = 0x0102 →
      (t.sheep.staged = false → exec (.shdFwActivate src) s = result t ST_FW_NONE) ∧
      (t.sheep.staged = true → t.anyJobActive = true → exec (.shdFwActivate src) s = result t ST_FW_BUSY) ∧
      (t.sheep.staged = true → t.anyJobActive = false → exec (.shdFwActivate src) s =
        if t.images.entries ≠ [] ∧ t.classDiffers = true then result t ST_DCLASS_BUSY else result t.quiesceStore ST_OK)) ∧
    (e.code = 0x0103 → exec (.shdReset src) s =
      if arg 0 1 = 1 then ends ((t.postResult host ST_OK []).warmDown.beginStart 2) else ends (t.postResult host ST_OK []).controllerReset) ∧
    (e.code = 0x0104 → exec (.shdFallbackExit src) s =
      ends (((t.setFld Reg.SHD_BOOT Fld.SHD_BOOT_FAILS 0).postResult host ST_OK []).warmEffects.beginStart 1)) ∧
    (e.code = 0x0105 → exec (.pwrSetCap src) s = result (t.setFld Reg.PWR_CAP Fld.PWR_CAP_WATTS (arg 0 2)) ST_OK) ∧
    (e.code = 0x0106 → exec (.pwrSetPlanMax src) s =
      result (t.adjustSheep fun x => { x with planMax := arg 0 1 }).settlePlan ST_OK) ∧
    (e.code = 0x0107 →
      let f := arg 0 1
      let i := arg 1 1
      let program := e.args.drop 4
      let mine (kind : Nat) : Prop := t.claimOwner kind i = some ownerManagement
      (f = 0x80 →
        (8 ≤ i → exec (.shdFeature src) s = result t ST_PWR_RANGE) ∧
        (i < 8 → arg 2 1 = 1 →
          (t.timerProgramOk program = false → exec (.shdFeature src) s = result t ST_PWR_RANGE) ∧
          (t.timerProgramOk program = true → t.claimOwner 0x02 i ≠ none → exec (.shdFeature src) s = result t ST_BUSY_CLAIMED) ∧
          (t.timerProgramOk program = true → t.claimOwner 0x02 i = none → exec (.shdFeature src) s =
            result ((t.addClaim 0x02 i ownerManagement).startTimer i (timerProgramAt program 0) ownerManagement) ST_OK)) ∧
        (i < 8 → arg 2 1 ≠ 1 → mine 0x02 → exec (.shdFeature src) s =
          result ((t.dropClaim 0x02 i ownerManagement).stopTimer i) ST_OK) ∧
        (i < 8 → arg 2 1 ≠ 1 → ¬ mine 0x02 → exec (.shdFeature src) s = result t ST_OK)) ∧
      (f ≠ 0x80 →
        (pinFunctionListed f = false ∨ 16 ≤ i → exec (.shdFeature src) s = result t ST_PWR_RANGE) ∧
        (pinFunctionListed f = true → i < 16 → arg 2 1 = 1 →
          (t.claimOwner 0x01 i ≠ none → exec (.shdFeature src) s = result t ST_BUSY_CLAIMED) ∧
          (t.claimOwner 0x01 i = none →
            let u := (t.addClaim 0x01 i ownerManagement).adjustPin i fun _ => { Pin.free with function := f, owner := ownerManagement }
            exec (.shdFeature src) s = result (if 0x10 ≤ f then u.recomputeGates ((f - 0x10) / 8) else u) ST_OK)) ∧
        (pinFunctionListed f = true → i < 16 → arg 2 1 ≠ 1 → mine 0x01 → t.pinFunction i = f → exec (.shdFeature src) s =
          result ((t.dropClaim 0x01 i ownerManagement).adjustPin i fun _ => Pin.free) ST_OK) ∧
        (pinFunctionListed f = true → i < 16 → arg 2 1 ≠ 1 → (¬ mine 0x01 ∨ t.pinFunction i ≠ f) → exec (.shdFeature src) s = result t ST_OK))) ∧
    (e.code = 0x0108 → exec (.shdDiag src) s = ends (t.postResult host ST_OK
      (leBytes 4 (t.reg Reg.SHD_BOOT).toNat ++ leBytes 4 (t.reg Reg.SHD_BOOT_DETAIL).toNat ++ leBytes 4 (t.reg Reg.SHD_RESET_CAUSE).toNat)))

/-- For an envelope as in SheepdogCommandsComplete. Where R357's checks fail the code is posted; where they pass:
BLK_NS_CREATE makes an absent namespace of 1 to 64 where the capacity holds it; BLK_NS_DELETE deletes one that no
hedge claims and no command uses; BLK_KEY_ROTATE puts a new ACTIVE generation into a free slot, BLK_KEY_SWEEP starts a
sweep of RETIRING ones, BLK_KEY_DESTROY destroys one that nothing names. SEC_ATTEST returns its signed report (the
signature's nonce: log entry 1), SEC_CERT_READ the chain. SEC_KEY_IMPORT stores the unwrapped secret for its owner,
SEC_KEY_DESTROY erases an imported key that nothing names, SEC_HEDGE_OWNER sets the owner key of a hedge without an
image and destroys its keys, SEC_ANCHOR_SET replaces the anchors and extends M3. Each refusal of the tables is posted
with its code. (R318, R319, R320, R352, R353, R354, R357, R358, R359, R360, 11_block_store.md Table 11-6,
13_security_hedges.md Table 13-4) -/
def Obligations.StoreAndSecurityCommandsComplete : Prop :=
  ∀ (s : State) (src : MgmtSource) (b : Bytes), s.mgmtBytes src = some b → envelopeOk b = true →
    let e := envelopeOf b
    argsOk e.code e.args = true → s.sheep.mode.serves e.code = true →
    let host := fromHost src
    let check := s.envelopeCheck host e
    let t := s.setReg (Reg.SEC_CMD_COUNTER (counterOf e.scope)) (BitVec.ofNat 64 e.counter)
    let ends (u : State) : Host.Outcome State Fault Refusal :=
      .next (if check = ST_OK then u else s.postResult host check []).heelSettle
    let result (u : State) (code : Nat) := ends (u.postResult host code [])
    let arg (i n : Nat) := fieldAt e.args i n
    let n := arg 0 4
    let present : Prop := t.nsPresent n = true
    let encrypted : Prop := t.bit (Reg.FTL_NS_STATE n) Fld.FTL_NS_STATE_ENCRYPT = true
    (e.code = 0x0301 →
      let size := arg 4 8
      let room := t.fld Reg.FTL_CAPACITY Fld.FTL_CAPACITY_UNITS
      (n = 0 ∨ 64 < n → exec (.blkNsCreate src) s = result t ST_NS_INVALID) ∧
      (1 ≤ n → n ≤ 64 → present → exec (.blkNsCreate src) s = result t ST_NS_EXISTS) ∧
      (1 ≤ n → n ≤ 64 → ¬ present → room < t.unitsGiven + size → exec (.blkNsCreate src) s = result t ST_NS_CAPACITY) ∧
      (1 ≤ n → n ≤ 64 → ¬ present → t.unitsGiven + size ≤ room → exec (.blkNsCreate src) s =
        result (t.createNs n size (arg 12 1 = 1)) ST_OK)) ∧
    (e.code = 0x0302 →
      (¬ present → exec (.blkNsDelete src) s = result t ST_NS_INVALID) ∧
      (present → t.claimOwner 0x09 n ≠ none → exec (.blkNsDelete src) s = result t ST_BUSY_CLAIMED) ∧
      (present → t.claimOwner 0x09 n = none → (∃ c ∈ t.store.cmds.vals, c.nsid = n) → exec (.blkNsDelete src) s = result t ST_NS_BUSY) ∧
      (present → t.claimOwner 0x09 n = none → (∀ c ∈ t.store.cmds.vals, c.nsid ≠ n) → exec (.blkNsDelete src) s =
        result (t.deleteNs n) ST_OK)) ∧
    (e.code = 0x0303 →
      (¬ present → exec (.blkKeyRotate src) s = result t ST_NS_INVALID) ∧
      (present → ¬ encrypted → exec (.blkKeyRotate src) s = result t ST_KEY_STATE) ∧
      (present → encrypted → t.slotsIn n keyFree = [] → exec (.blkKeyRotate src) s = result t ST_KEY_SLOTS) ∧
      (∀ slot l, present → encrypted → t.slotsIn n keyFree = slot :: l →
        let retired := (t.slotsIn n keyActive).foldl (fun u k => u.setFld (Reg.FTL_NS_KEY n k.1) Fld.FTL_NS_KEY_STATE keyRetiring) t
        exec (.blkKeyRotate src) s = result ((retired.newGeneration n slot.1 (nextGen (t.activeGen n))).showNs n) ST_OK)) ∧
    (e.code = 0x0304 →
      (¬ present → exec (.blkKeySweep src) s = result t ST_NS_INVALID) ∧
      (present → (¬ encrypted ∨ t.slotsIn n keyRetiring = []) → exec (.blkKeySweep src) s = result t ST_KEY_STATE) ∧
      (present → encrypted → t.slotsIn n keyRetiring ≠ [] → exec (.blkKeySweep src) s = result (t.startSweep n (arg 4 1)) ST_OK)) ∧
    (e.code = 0x0305 →
      let slot := (t.slotsIn n keyRetiring).find? fun k => k.2.1 = arg 4 2
      (¬ present → exec (.blkKeyDestroy src) s = result t ST_NS_INVALID) ∧
      (present → slot = none → exec (.blkKeyDestroy src) s = result t ST_KEY_STATE) ∧
      (∀ k, present → slot = some k →
        (t.genInUse n k.1 (arg 4 2) = true → exec (.blkKeyDestroy src) s = result t ST_KEY_IN_USE) ∧
        (t.genInUse n k.1 (arg 4 2) = false → exec (.blkKeyDestroy src) s =
          result ((t.adjustSecurity fun x => { x with keys := x.keys.erase (atRestKeyId n (arg 4 2)) }).setKeySlot n k.1 0 keyFree) ST_OK))) ∧
    (e.code = 0x0401 →
      let report := t.reportBody (arg 0 1) (sliceAt e.args 1 32)
      exec (.secAttest src) s = ends (t.drew.postResult host ST_OK (report ++ ecdsaSign t.attestScalar t.freeValue report))) ∧
    (e.code = 0x0402 →
      let owner := if e.scope = 0xFF then 0 else e.scope
      (n = 0 ∨ 0xFFFF < n → exec (.secKeyImport src) s = result t ST_SEC_KEY_ID) ∧
      (1 ≤ n → n ≤ 0xFFFF → t.security.keys.find n ≠ none → exec (.secKeyImport src) s = result t ST_SEC_KEY_EXISTS) ∧
      (1 ≤ n → n ≤ 0xFFFF → t.security.keys.find n = none →
        (8192 ≤ t.keysUsed → exec (.secKeyImport src) s = result t ST_SEC_KEY_FULL) ∧
        (t.keysUsed < 8192 → exec (.secKeyImport src) s =
          match unwrapKey n owner (arg 4 1) (sliceAt e.args 5 97) (sliceAt e.args 102 12) (sliceAt e.args 114 48) with
          | none => result t ST_SEC_UNWRAP
          | some secret => result (t.adjustSecurity fun x => { x with keys := x.keys.insert n ⟨owner, arg 4 1, secret⟩ }) ST_OK))) ∧
    (e.code = 0x0403 →
      (n = 0 ∨ 0xFFFF < n → exec (.secKeyDestroy src) s = result t ST_SEC_KEY_ID) ∧
      (1 ≤ n → n ≤ 0xFFFF → t.keyNamed n = true → exec (.secKeyDestroy src) s = result t ST_SEC_KEY_BUSY) ∧
      (1 ≤ n → n ≤ 0xFFFF → t.keyNamed n = false → exec (.secKeyDestroy src) s =
        result (t.adjustSecurity fun x => { x with keys := x.keys.erase n }) ST_OK)) ∧
    (e.code = 0x0404 →
      let h := arg 0 1
      let key := e.args.drop 1
      (t.images.find h ≠ none → exec (.secHedgeOwner src) s = result t ST_SEC_HEDGE_BUSY) ∧
      (t.images.find h = none → exec (.secHedgeOwner src) s = result (((t.adjustSecurity fun x =>
        { x with owners := x.owners.insert h key, keys := x.keys.keep fun k v => !(k < 0x10000 && v.owner = h) }).showWords
          (Reg.SEC_OWNER h) (sha256 key)).settleOwners) ST_OK)) ∧
    (e.code = 0x0405 →
      let keys := chunksOf 97 e.args.length e.args
      let good : Bool := !e.args.isEmpty && e.args.length ≤ 388 && e.args.length % 97 = 0 && keys.all fun k => (decodePoint k).isSome
      (good = false → exec (.secAnchorSet src) s = result t ST_SEC_ANCHOR) ∧
      (good = true → exec (.secAnchorSet src) s =
        result ((t.adjustSecurity fun x => { x with anchors := keys }).measure 3 (sha256 e.args)) ST_OK)) ∧
    (e.code = 0x0406 → exec (.secCertRead src) s = ends (t.postResult host ST_OK Config.certificateChain))

/-- POWER_ON_RESET and WARM_RESET end a start in progress as failed, leave what Table 14-7 keeps, record the cause,
and hold the device until the pins rise (while POR_N is low WARM_RST_N only falls). POR_N's rise samples the straps;
with both pins high the held device starts from the stage of the reset. HOST_PORT_RESET releases what the host holds
and resets the controller. A configuration request gets no answer without PD14, Request Retry Status until stage 3 is
complete, and then an answer. A stage's next domain comes up. Each stage's result leads to the next stage, to fallback
at the third failed start, to Ready, or to a failed start with its reason; a stage that times out fails with reason
0x07. A cool device restarts from stage 2; a quiesced device switches firmware and restarts from stage 2. (R308, R364,
R370, R372, R373, R374, R375, R382, R383, 14_power_boot.md Table 14-5, 14_power_boot.md Table 14-6,
15_interfaces_package.md Table 15-3) -/
def Obligations.ResetsAndStartsComplete : Prop :=
  ∀ (s : State),
    (let t := (s.endStart.powerOnEffects.setCause 0).holdAt 1;
      exec .powerOnReset s = .next { t with board := { t.board with por := false } }) ∧
    (let t := (s.endStart.warmEffects.setCause 1).holdAt 2;
      (s.board.por = true → exec .warmReset s = .next { t with board := { t.board with warm := false } }) ∧
      (s.board.por = false → exec .warmReset s = .next { s with board := { s.board with warm := false } })) ∧
    (∀ straps : BitVec 8,
      let rises (t : State) : Host.Outcome State Fault Refusal :=
        .next (if t.sheep.mode = .held ∧ t.board.por = true ∧ t.board.warm = true then t.beginStart (t.fld Reg.SHD_BOOT Fld.SHD_BOOT_STAGE) else t)
      (s.board.por = false → exec (.resetPinRise true straps) s =
        rises ({ s with board := { s.board with por := true } }.setReg Reg.GLB_STRAPS (BitVec.ofNat 64 (straps.toNat % 32)))) ∧
      (s.board.por = true → exec (.resetPinRise true straps) s = rises s) ∧
      exec (.resetPinRise false straps) s = rises { s with board := { s.board with warm := true } }) ∧
    (s.live = true →
      let stage := s.fld Reg.SHD_BOOT Fld.SHD_BOOT_STAGE
      let fails (reason detail : Nat) : Host.Outcome State Fault Refusal := .next (s.failStart reason detail)
      exec .hostPortReset s = .next ((List.range 16).foldl State.chkRelease ((List.range 48).foldl State.freeBri
        ((List.range 64).foldl State.freeDma s))).drainStalled.controllerReset ∧
      (s.domainOn 14 = false → exec .pcieConfigRequest s = .next { s with board := { s.board with cfgRetry := none } }) ∧
      (s.domainOn 14 = true → (s.sheep.mode = .ready ∨ s.sheep.mode = .fallback ∨ 3 < stage) →
        exec .pcieConfigRequest s = .next { s with board := { s.board with cfgRetry := some false } }) ∧
      (s.domainOn 14 = true → s.sheep.mode ≠ .ready → s.sheep.mode ≠ .fallback → stage ≤ 3 →
        exec .pcieConfigRequest s = .next { s with board := { s.board with cfgRetry := some true } }) ∧
      (s.sheep.mode = .starting →
        (∀ d : Fin 20,
          let next := (stageDomains stage).find? fun d => !s.domainOn d
          (next = some d.val → exec (.domainPowerGood d) s = .next (s.powerDomain d true)) ∧
          (next ≠ some d.val → exec (.domainPowerGood d) s = .next s)) ∧
        (stage = 1 →
          exec (.bootStageComplete .done) s = .next ((s.measure 0 Config.romDigest).setStage 2) ∧
          exec (.bootStageComplete .doneOther) s = .next ((s.measure 0 Config.romDigest).swapSlot.setStage 2)) ∧
        (stage = 2 →
          let t := (s.measure 1 (Config.sheepdogDigest (s.slotBytes s.bootSlot))).bumpSat Reg.SHD_BOOT Fld.SHD_BOOT_FAILS
          exec (.bootStageComplete .done) s =
            .next (if 3 ≤ t.fld Reg.SHD_BOOT Fld.SHD_BOOT_FAILS then t.enterFallback else t.setStage 3)) ∧
        (stage = 3 →
          let t := ([1, 2, 11, 14, 3, 4, 5, 6, 7, 8, 9, 10].foldl (fun t d => t.powerDomain d true) s).measure 2
            (Config.hubDigest (s.slotBytes s.bootSlot))
          exec (.bootStageComplete .done) s = .next (t.setStage (if s.sheep.switching then 7 else 4))) ∧
        (stage = 4 → exec (.bootStageComplete .done) s = .next (((s.powerDomain 17 true).powerDomain 18 true).setStage 5)) ∧
        (stage = 5 → ∀ targets perBlock rated,
          ((∀ p ∈ s.sheep.nandTargets, ∃ x ∈ targets, 16 * x.channel + x.number = p) →
            exec (.bootStageComplete (.doneNand targets perBlock rated)) s =
              .next ((s.scanned targets perBlock rated).stageDone false)) ∧
          (∀ p, s.sheep.nandTargets.find? (fun p => !(targets.any fun x => targetPlace x = p)) = some p →
            exec (.bootStageComplete (.doneNand targets perBlock rated)) s = fails 0x04 p)) ∧
        (stage = 6 → ∀ bad consistent,
          (consistent = true → (s.store.ckpts = [] ∨ bad < s.store.ckpts.length) →
            exec (.bootStageComplete (.doneReplay bad consistent)) s =
              .next (((s.replayStore bad).setBit Reg.FTL_STATE Fld.FTL_STATE_REPLAYED true).stageDone false)) ∧
          ((consistent = false ∨ (s.store.ckpts ≠ [] ∧ s.store.ckpts.length ≤ bad)) →
            exec (.bootStageComplete (.doneReplay bad consistent)) s = fails 0x05 0)) ∧
        (stage = 7 → ∀ ks, exec (.bootStageComplete (.doneSelfTest ks)) s =
          .next ((ks.foldl (fun t k => t.retireKennel k) s).stageDone false)) ∧
        (∀ reason detail, exec (.bootStageComplete (.failed reason detail)) s = fails reason detail) ∧
        exec .bootStageTimeout s = fails 0x07 stage) ∧
      (s.sheep.mode ≠ .starting → exec .bootStageTimeout s = .next s ∧ ∀ r, exec (.bootStageComplete r) s = .next s) ∧
      (s.sheep.mode = .thermalOff → (∃ h, s.hottest = some h ∧ h < s.tWarn - 1000) →
        exec .thermalRestart s = .next (s.beginStart 2)) ∧
      (s.store.activating = true → s.store.cmds.entries = [] →
        let ready : Bool := s.sheep.mode = .ready
        let t := if ready then s.startCheckpoint.endCheckpoint s.store.checkpoint else s
        let t := (t.endSweeps.adjustStore fun st => { st with activating := false }).swapSlot
        exec .firmwareSwitch s = .next (((t.adjustSheep fun x =>
          { x with staged := false, otherSlot := false, switching := ready }).setCause 3).beginStart 2)))

/-- In a state whose register table is canonical (RegistersStayCanonical), after POWER_ON_RESET and after WARM_RESET
with POR_N high, the failed-start counter, the command counters, the owner-key digests, the operator anchors, the
owner keys and the key store are as before, and no DRAM, job, image or claim is left. Where no TRS command and no key
sweep is outstanding, the block store's namespaces, blocks and health counters are as before too. (R374,
14_power_boot.md Table 14-7, R308) -/
def Obligations.ResetsKeepTheRetainedState : Prop :=
  ∀ (s t : State), s.registersOk = true → exec .powerOnReset s = .next t ∨ (s.board.por = true ∧ exec .warmReset s = .next t) →
    t.fld Reg.SHD_BOOT Fld.SHD_BOOT_FAILS = s.fld Reg.SHD_BOOT Fld.SHD_BOOT_FAILS ∧
    (∀ k, k ≤ 16 → t.reg (Reg.SEC_CMD_COUNTER k) = s.reg (Reg.SEC_CMD_COUNTER k)) ∧
    (∀ h i, 1 ≤ h → h ≤ 15 → i < 8 → t.reg (Reg.SEC_OWNER h i) = s.reg (Reg.SEC_OWNER h i)) ∧
    t.security.anchors = s.security.anchors ∧ t.security.owners = s.security.owners ∧ t.security.keys = s.security.keys ∧
    t.dram = Tab.empty ∧ t.jobs = Tab.empty ∧ t.images = Tab.empty ∧ t.claims = [] ∧
    (s.store.cmds = Tab.empty → s.store.sweeps = Tab.empty →
      t.store.namespaces = s.store.namespaces ∧ t.store.blocks = s.store.blocks ∧ t.store.health = s.store.health)

/-- A temperature sample passes its site's filter and PWR_TEMP_SITE and PWR_TEMP_MAX show the result, and the hottest
enters the hour's readings (log entry 56); an excluded site alarms SENSOR, the hottest temperature from T_WARN on
alarms WARN, and from T_SHUTDOWN on switches a device that is not off off, as after a warm reset but for PD0, with
THERMTRIP_N low. A rail sample passes its filters, PWR_POWER shows the power, and VDD_CORE falling below PWR_DROOP
lowers the droop ceiling. The cap limiter lowers its ceiling above PWR_CAP and raises it below 0.95 of it; the thermal
one lowers from T_THROTTLE on and raises 5 °C below it; the droop one lowers at an event and raises without one. A
ceiling moves by 1 between 4 and 16, and lowering alarms. How filters start and how the median of an even number is
taken is the model's choice (log entry 43). (R366, R367, R369, R370, R380, 14_power_boot.md Table 14-2,
14_power_boot.md Table 14-3) -/
def Obligations.SensorsAndLimitersComplete : Prop :=
  ∀ (s : State), s.live = true →
    let alarm (t : State) (f : Fld) := if t.bit Reg.SHD_ALARM f then t else (t.setBit Reg.SHD_ALARM f true).raiseCoalesced 0x2001 10
    let lower (t : State) (l : Limiter) :=
      let c := t.fld Reg.PWR_PLAN l.field
      if c ≤ 4 then t else alarm (t.setFld Reg.PWR_PLAN l.field (c - 1)).settlePlan l.alarm
    let lift (t : State) (l : Limiter) :=
      let c := t.fld Reg.PWR_PLAN l.field
      if 16 ≤ c then t else (t.setFld Reg.PWR_PLAN l.field (c + 1)).settlePlan
    (∀ (site : Fin 64) (raw : Int),
      let x := ((s.sheep.sites.find site).getD Sensor.idle).sample raw
      let shown := (s.adjustSheep fun y => { y with sites := y.sites.insert site x }).showTemps
      let t := if shown.goodSites.2 = 0 then shown else alarm shown Fld.SHD_ALARM_SENSOR
      (t.hottest = none → exec (.temperatureSample site raw) s = .next t) ∧
      (∀ h, t.hottest = some h →
        let read := t.adjustHealth fun x => x.read (t.uptime / 1000000000 + 1) h
        let u := if read.tWarn ≤ h then alarm read Fld.SHD_ALARM_WARN else read
        ((h < u.tShutdown ∨ u.sheep.mode = .thermalOff ∨ u.sheep.mode = .held) → exec (.temperatureSample site raw) s = .next u) ∧
        (u.tShutdown ≤ h → u.sheep.mode ≠ .thermalOff → u.sheep.mode ≠ .held →
          let v := (u.warmEffects.setCause 2).adjustSheep fun y => { y with mode := .thermalOff }
          exec (.temperatureSample site raw) s = .next { v with board := { v.board with thermtrip := false } }))) ∧
    (∀ (rail : Fin 9) (mv ma : Nat),
      let v := (s.sheep.volts.find rail).getD Sensor.idle
      let a := (s.sheep.amps.find rail).getD Sensor.idle
      let t := s.adjustSheep fun x => { x with volts := x.volts.insert rail (v.sample mv), amps := x.amps.insert rail (a.sample ma) }
      let shown := (t.adjustSheep fun x => { x with windowSum := x.windowSum + t.power, windowCount := x.windowCount + 1 }).setFld
        Reg.PWR_POWER Fld.PWR_POWER_MW t.power
      let falls : Prop := rail.val = 2 ∧ (v.sample mv).filtered < s.droopLevel ∧ (v.raws = [] ∨ s.droopLevel ≤ v.filtered)
      (falls → exec (.railSample rail mv ma) s = .next (lower shown .droop)) ∧
      (¬ falls → exec (.railSample rail mv ma) s = .next shown)) ∧
    (let cap := 1000 * s.fld Reg.PWR_CAP Fld.PWR_CAP_WATTS;
      (cap < s.power → exec .capLimiterStep s = .next (lower s .cap)) ∧
      (s.power ≤ cap → 100 * s.power < 95 * cap → exec .capLimiterStep s = .next (lift s .cap)) ∧
      (s.power ≤ cap → 95 * cap ≤ 100 * s.power → exec .capLimiterStep s = .next s)) ∧
    (∀ h, s.hottest = some h →
      (s.tThrottle ≤ h → exec .thermalLimiterStep s = .next (lower s .thermal)) ∧
      (h < s.tThrottle - 500 → exec .thermalLimiterStep s = .next (lift s .thermal)) ∧
      (s.tThrottle - 500 ≤ h → h < s.tThrottle → exec .thermalLimiterStep s = .next s)) ∧
    exec (.droopLimiterStep true) s = .next (lower s .droop) ∧
    exec (.droopLimiterStep false) s = .next (lift s .droop)

/-- At a power window's end the mean power of the window, rounded down to 5 W, is what a coarsened reading shows, and
energy is charged to each job and to PWR_UNATTRIBUTED, its amounts free values (log entry 1). At a counter sample
boundary the coarsened counters are sampled. An SMBus block read of codes 0 to 3 returns four bytes, another code a
NACK, and a rejected transaction a NACK. A TLS client is admitted while Sheepdog serves the port and where its chain
ends at an operator anchor. A JTAG access without the strap JTAG_EN does nothing; with it SEEN is set, and an access
to a locked block reads zero, writes nothing and is counted in DENIED. (R350, R358, R361, R371, R383, R391) -/
def Obligations.TelemetryAndDebugAccessesComplete : Prop :=
  ∀ (s : State),
    (s.live = true →
      (let mean := if s.sheep.windowCount = 0 then s.power else s.sheep.windowSum / s.sheep.windowCount;
        let t := s.adjustSheep fun x => { x with shownMw := mean / 5000 * 5000, windowSum := 0, windowCount := 0 };
        let u := s.jobs.entries.foldl (fun t e => (t.addEnergy e.1 t.freeValue (t.confidential e.2.desc.hedge)).drew) t;
        exec .powerWindowBoundary s = .next (u.bump Reg.PWR_UNATTRIBUTED Fld.PWR_UNATTRIBUTED_UJ u.freeValue).drew) ∧
      exec .counterSampleBoundary s =
        .next (s.adjustSheep fun x => { x with sampled := s.regs.keep fun k _ => (coarseCounter k).isSome }) ∧
      (s.sheep.mode ≠ .held →
        let reads (v : Nat) : Host.Outcome State Fault Refusal := .next { s with board := { s.board with smbus := some (leBytes 4 v) } }
        exec (.smbusBlockRead 0) s = reads (s.reg Reg.SHD_BOOT).toNat ∧ exec (.smbusBlockRead 1) s = reads (s.reg Reg.PWR_TEMP_MAX).toNat ∧
        exec (.smbusBlockRead 2) s = reads (if s.anyConfidential then s.sheep.shownMw else s.fld Reg.PWR_POWER Fld.PWR_POWER_MW) ∧
        exec (.smbusBlockRead 3) s = reads (s.reg Reg.SHD_ALARM).toNat ∧
        (∀ code : Byte, 4 ≤ code.toNat → exec (.smbusBlockRead code) s = .next { s with board := { s.board with smbus := none } })) ∧
      exec .smbusReject s = .next { s with board := { s.board with smbus := none } } ∧
      (∀ (block : JtagBlock) (write : Bool),
        (s.bit Reg.GLB_STRAPS Fld.GLB_STRAPS_JTAG_EN = false → exec (.jtagAccess block write) s = .next s) ∧
        (s.bit Reg.GLB_STRAPS Fld.GLB_STRAPS_JTAG_EN = true →
          let t := s.setBit Reg.SEC_DEBUG Fld.SEC_DEBUG_SEEN true
          (s.jtagLocked block = false → exec (.jtagAccess block write) s = .next t) ∧
          (s.jtagLocked block = true → exec (.jtagAccess block write) s = .next
            { t.bumpSat Reg.SEC_DEBUG Fld.SEC_DEBUG_DENIED with hostRead := if write then s.hostRead else 0 })))) ∧
    (∀ chain, s.sheepServes false = true → exec (.mgmtTlsHandshake chain) s =
      .next (if s.security.anchors.any (Config.chainEndsAt chain) then
        s.adjustSecurity fun x => { x with tlsSessions := x.tlsSessions + 1 } else s)) ∧
    (∀ chain, s.sheepServes false = false → exec (.mgmtTlsHandshake chain) s = .next s)

/-- GO on a set that is PENDING or STARTED, or while a controller reset is busy, changes nothing. Otherwise the fields
are checked in order (opcode, count, address and ranges; namespace; end; owner; READ_ONLY; activation). A failing
check completes the set with its code and SEQ 0; else the set is PENDING with the next SEQ and holds the command as GO
captured it. A PENDING write that cannot reserve its units exhausts its namespace and completes with
ST_MEDIUM_EXHAUSTED; one that can fetches its data and starts, a WRITE_ATOMIC under the next group. A READ, VERIFY,
TRIM or FORMAT starts once no outstanding overlapping command of lower SEQ stands before it, a read noting the blocks
and key generations of its units; a FLUSH stays PENDING. (R299, R300, R301, R302, R303, R304, R306, R307, R308, R316,
R352) -/
def Obligations.TaskRegisterSetsTakeCommands : Prop :=
  ∀ (s : State) (set : Fin 256),
    let rows : List ((Fin 256 → Instr) × Nat) := [(Instr.trsRead, 1), (Instr.trsWrite, 2), (Instr.trsWriteAtomic, 3), (Instr.trsFlush, 4),
      (Instr.trsTrim, 5), (Instr.trsVerify, 6), (Instr.trsFormat, 7)]
    let state := s.fld (Reg.TRS_STATUS set) Fld.TRS_STATUS_STATE
    (∀ row ∈ rows, s.hostReaches (Reg.TRS_CTRL set) = true → s.fld (Reg.TRS_OPCODE set) Fld.TRS_OPCODE_OPCODE = row.2 →
      (s.bit Reg.TRS_RESET Fld.TRS_RESET_BUSY = true ∨ state = 1 ∨ state = 2 → exec (row.1 set) s = .next s) ∧
      (s.bit Reg.TRS_RESET Fld.TRS_RESET_BUSY = false → state ≠ 1 → state ≠ 2 →
        let nsid := s.fld (Reg.TRS_NSID set) Fld.TRS_NSID_NSID
        let lba := s.fld (Reg.TRS_LBA set) Fld.TRS_LBA_LBA
        let count := s.fld (Reg.TRS_COUNT set) Fld.TRS_COUNT_COUNT
        let addr := (s.reg (Reg.TRS_HOST_ADDR set)).toNat
        let op := (s.reg (Reg.TRS_OPCODE set)).toNat
        let code := s.trsCheck op nsid lba count addr
        (code ≠ ST_OK →
          let t := { s.setReg (Reg.TRS_SEQ set) 0 with store := { s.store with cmds := s.store.cmds.erase set } }
          let u := t.setReg (Reg.TRS_STATUS set) (putFld Fld.TRS_STATUS_DONE_COUNT (putFld Fld.TRS_STATUS_CODE
            (putFld Fld.TRS_STATUS_STATE 0 3) code) 0)
          let v := u.setReg (Reg.TRS_DONE (set / 32)) (u.reg (Reg.TRS_DONE (set / 32)) ||| BitVec.ofNat 64 (2 ^ (set.val % 32)))
          exec (row.1 set) s = .next (if v.bit (Reg.TRS_CTRL set) Fld.TRS_CTRL_IRQ then v.raise (256 + set) else v)) ∧
        (code = ST_OK →
          let seq := s.reg Reg.TRS_NEXT_SEQ
          let t := ((s.setReg (Reg.TRS_SEQ set) seq).setReg (Reg.TRS_STATUS set) (putFld Fld.TRS_STATUS_STATE 0 1)).bump
            Reg.TRS_NEXT_SEQ Fld.TRS_NEXT_SEQ_SEQ
          exec (row.1 set) s = .next { t with store := { t.store with
            cmds := t.store.cmds.insert set ⟨op, nsid, lba, count, addr, seq.toNat, [], 0, [], [], [], none, none⟩ } }))) ∧
    (∀ c, s.live = true → s.store.cmds.find set = some c → state = 1 →
      let start (t : State) : Host.Outcome State Fault Refusal := .next (t.setFld (Reg.TRS_STATUS set) Fld.TRS_STATUS_STATE 2)
      let data := chunksOf 4096 c.count (s.readMem .host c.addr (4096 * c.count))
      let units := (s.ns c.nsid).units.entries.filter fun e => c.lba ≤ e.1 && e.1 < c.lba + c.count
      (c.opcode = 2 ∨ c.opcode = 3 → s.canReserve c.count = false → exec (.trsCommandStart set) s =
        .next ((((s.setBit (Reg.FTL_NS_STATE c.nsid) Fld.FTL_NS_STATE_READ_ONLY true).setBit Reg.FTL_EVENT Fld.FTL_EVENT_READ_ONLY
          true).raise 8).trsFinish set ST_MEDIUM_EXHAUSTED 0)) ∧
      (c.opcode = 2 → s.canReserve c.count = true → exec (.trsCommandStart set) s = start (s.adjustCmd set fun c => { c with fetched := data })) ∧
      (c.opcode = 3 → s.canReserve c.count = true → exec (.trsCommandStart set) s =
        start ((s.adjustCmd set fun c => { c with fetched := data, group := s.store.nextGroup }).adjustStore fun st =>
          { st with nextGroup := st.nextGroup + 1 })) ∧
      (c.opcode = 4 → exec (.trsCommandStart set) s = .next s) ∧
      (c.opcode ≠ 2 → c.opcode ≠ 3 → s.trsBlocked c = true → exec (.trsCommandStart set) s = .next s) ∧
      (c.opcode = 1 ∨ c.opcode = 6 → s.trsBlocked c = false → exec (.trsCommandStart set) s = start (s.adjustCmd set fun c =>
        { c with blocks := units.map (·.2.block), gens := units.map (·.2.keyGen) })) ∧
      (c.opcode = 5 ∨ c.opcode = 7 → s.trsBlocked c = false → exec (.trsCommandStart set) s = start s))

/-- NAND_READ_DONE completes for every outcome: the read of a mapped unit that a started READ or VERIFY waits for is
counted and checked, and one that is uncorrectable, was bad, or whose check values disagree fails the command from
that unit on; a channel that a paused check unit stalls answers nothing. TRS_COMMAND_COMPLETE: with no overlapping
command of lower SEQ, a READ stores its units (zeros where none is mapped) and a failed one the units before the
failure with ST_MEDIUM_UNREADABLE; a write programs and maps what it fetched while there is room and no channel
stalls; TRIM unmaps its range, FORMAT the namespace; a FLUSH completes once no modifying command of lower SEQ on its
namespaces is outstanding. TRS_BUS_ERROR completes a READ with the units that arrived (the rest of the buffer: free
values, log entry 1) and a WRITE_ATOMIC with none; a WRITE ends after those fetched. CONTROLLER_RESET starts a reset,
which each command meets (a PENDING one ends with ST_ABORT_RESET). CONTROLLER_RESET_DONE ends it once nothing is
outstanding. (R267, R269, R302, R304, R305, R306, R307, R308, R310, R311, R315, R318) -/
def Obligations.TaskRegisterSetsComplete : Prop :=
  (∀ (s : State) (set : Fin 256) (c : TrsCmd), s.live = true → s.store.cmds.find set = some c →
    let state := s.fld (Reg.TRS_STATUS set) Fld.TRS_STATUS_STATE
    let ends (t : State) (code n : Nat) : Host.Outcome State Fault Refusal := .next (t.trsFinish set code n)
    let reads : Prop := c.opcode = 1 ∨ c.opcode = 6
    let unpaused : Prop := ∀ k, k < 16 → s.chkPaused k = false
    let toHost (t : State) (n : Nat) := if c.opcode = 1 then t.writeMem .host c.addr (s.unitsData c.nsid c.lba n) else t
    (∀ unit (outcome : NandOutcome) u, s.mapped c.nsid (c.lba + unit) = some u → state = 2 → reads → unit < c.count → unit ∉ c.seen →
      let counted := s.countCorrected (if u.bad then .uncorrectable else outcome)
      let lost : Bool := u.bad || outcome = .uncorrectable
      let checked := if lost then (counted, true) else counted.checkUnit (Config.blockChannel u.block) c.nsid u
      let fails : Bool := lost || !checked.2
      let t := if fails then checked.1.unitFailed u.pseq lost else checked.1
      let done := t.adjustCmd set fun c =>
        { c with seen := unit :: c.seen, failed := if fails then some (min unit (c.failed.getD unit)) else c.failed }
      (unpaused → exec (.nandReadDone set unit outcome) s = .next done) ∧
      exec (.nandReadDone set unit outcome) s = .next (if s.nandStalled u.block c.nsid false then s else done)) ∧
    (c.opcode = 4 →
      (s.flushWaits c = true → exec (.trsCommandComplete set) s = .next s) ∧
      (s.flushWaits c = false → exec (.trsCommandComplete set) s = ends s ST_OK 0)) ∧
    (c.opcode ≠ 4 → state ≠ 2 ∨ s.trsBlocked c = true → exec (.trsCommandComplete set) s = .next s) ∧
    (state = 2 → s.trsBlocked c = false →
      (reads → c.failed = none → s.unitsSeen c c.count = true → exec (.trsCommandComplete set) s = ends (toHost s c.count) ST_OK c.count) ∧
      (∀ n, reads → c.failed = some n → s.unitsSeen c n = true → exec (.trsCommandComplete set) s =
        ends (toHost s n) ST_MEDIUM_UNREADABLE n) ∧
      (reads → s.unitsSeen c (c.failed.getD c.count) = false → exec (.trsCommandComplete set) s = .next s) ∧
      (c.opcode = 2 ∨ c.opcode = 3 →
        let n := (c.cut.getD (c.count, ST_OK)).1
        let code := (c.cut.getD (c.count, ST_OK)).2
        let done := ends (s.storeUnits c.nsid c.lba (c.fetched.take n) (if c.opcode = 3 then some c.group else none)) code n
        (s.store.room < n → exec (.trsCommandComplete set) s = .next s) ∧
        (n ≤ s.store.room → unpaused → exec (.trsCommandComplete set) s = done) ∧
        (n ≤ s.store.room → exec (.trsCommandComplete set) s = if s.writeStalled c.nsid n then .next s else done)) ∧
      (c.opcode = 5 ∨ c.opcode = 7 → s.store.room = 0 → exec (.trsCommandComplete set) s = .next s) ∧
      (c.opcode = 5 → 1 ≤ s.store.room → exec (.trsCommandComplete set) s = ends (s.unmapUnits c.nsid c.lba c.count unitTrimRec) ST_OK c.count) ∧
      (c.opcode = 7 → 1 ≤ s.store.room → exec (.trsCommandComplete set) s =
        ends (s.unmapUnits c.nsid 0 (s.fld (Reg.FTL_NS_SIZE c.nsid) Fld.FTL_NS_SIZE_UNITS) unitFormatRec) ST_OK 0)) ∧
    (∀ units, state = 2 →
      let n := min units c.count
      (c.opcode = 1 → exec (.trsBusError set units) s = ends ((s.writeMem .host c.addr (s.unitsData c.nsid c.lba n)).writeFree .host
        (c.addr + 4096 * n) (4096 * (c.count - n))) ST_TRS_BUS n) ∧
      (c.opcode = 2 → exec (.trsBusError set units) s = .next (s.adjustCmd set fun c => { c with cut := c.cut.or (some (n, ST_TRS_BUS)) })) ∧
      (c.opcode = 3 → exec (.trsBusError set units) s = ends s ST_TRS_BUS 0))) ∧
  (∀ s : State, s.hostReaches Reg.TRS_RESET = true →
    (s.bit Reg.TRS_RESET Fld.TRS_RESET_BUSY = true → exec .controllerReset s = .next s) ∧
    (s.bit Reg.TRS_RESET Fld.TRS_RESET_BUSY = false →
      let busy := s.setBit Reg.TRS_RESET Fld.TRS_RESET_BUSY true
      exec .controllerReset s = .next (s.store.cmds.entries.foldl (fun t e => t.resetCmd e.1 e.2) busy) ∧
      (s.store.cmds.entries = [] → exec .controllerReset s = .next busy) ∧
      (∀ k c, s.store.cmds.entries = [(k, c)] → busy.fld (Reg.TRS_STATUS k) Fld.TRS_STATUS_STATE = 1 →
        exec .controllerReset s = .next (busy.trsFinish k ST_ABORT_RESET 0)))) ∧
  (∀ s : State, s.live = true →
    (s.bit Reg.TRS_RESET Fld.TRS_RESET_BUSY = true → s.store.cmds.entries = [] →
      exec .controllerResetDone s = .next ((s.setBit Reg.TRS_RESET Fld.TRS_RESET_BUSY false).raise 8)) ∧
    (s.bit Reg.TRS_RESET Fld.TRS_RESET_BUSY = false ∨ s.store.cmds.entries ≠ [] → exec .controllerResetDone s = .next s))

/-- A checkpoint starts at the PSEQ reached once a unit was written and none runs, holding the map, open blocks and
4,096 free blocks, and when done it is complete, sets CKPT_PSEQ and lists the blocks that may be allocated (the units
that it takes: a free value, log entry 1; the two that are kept: log entry 56). A turn of garbage collection, while
free blocks are below 1 %, copies the valid units of the best victim where there is room, and the block waits for
erasure; else only the registers follow. An erasure frees a waiting block that no read has mapped and that holds no
record still needed (log entry 56). A program failure of an open block counts, retires it as bad and relocates its
units, an erase failure of a waiting block counts and retires it. A snapshot copies the live health values, an hour
adds the highest, mean and lowest reading to the temperature history of 168 (rounded as the command says: log entry
56). The end of a sweep has copied the units of RETIRING generations, ends the sweep, sets SWEEP_DONE and raises
vector 8. (R313, R315, R316, R317, R318, R319, 11_block_store.md Table 11-5) -/
def Obligations.MediumOperationsComplete : Prop :=
  ∀ (s : State),
    (s.hostReaches Reg.FTL_HEALTH_SNAP = true → exec .healthSnapshot s =
      .next { s with store := { s.store with window := s.healthLog }, free := s.free + 3 }) ∧
    (s.live = true →
      let busy (t : State) (b : Bool) := t.setBit Reg.FTL_STATE Fld.FTL_STATE_CKPT_BUSY b
      (s.store.sinceCkpt = 0 ∨ s.store.taking ≠ none → exec .checkpointStart s = .next s) ∧
      (s.store.sinceCkpt ≠ 0 → s.store.taking = none →
        ∃ c : Checkpoint, c.pseq = s.store.nextPseq - 1 ∧ c.group = s.store.nextGroup ∧
          c.map = s.store.namespaces.mapVals (fun _ x => x.units) ∧
          c.openBlocks = (s.store.blocks.entries.filter fun e => e.2.state = .open_).map (·.1) ∧
          c.freeBlocks = s.store.freeOrder 4096 ∧
          exec .checkpointStart s = .next (busy { s with store := { s.store with taking := some c, sinceCkpt := 0 } } true)) ∧
      (∀ c, s.store.taking = some c →
        let n := 1 + s.freeValue
        let t := s.drew.adjustStore fun st =>
          { st with taking := none, ckpts := (c :: st.ckpts).take 2, nextPseq := st.nextPseq + n
                    health := { st.health with nandUnits := st.health.nandUnits + n } }
        let u := t.adjustStore fun st => { st with allowed := some (c.freeBlocks.filter st.isFree) }
        exec .checkpointDone s = .next (busy (u.setReg Reg.FTL_CKPT_PSEQ (BitVec.ofNat 64 c.pseq)) false)) ∧
      (s.store.taking = none → exec .checkpointDone s = .next s) ∧
      (s.store.dataBlocks ≤ s.store.freeBlocks * 100 ∨ s.storeVictim = none → exec .garbageCollection s = .next s.showBlocks) ∧
      (∀ b, s.store.freeBlocks * 100 < s.store.dataBlocks → s.storeVictim = some b →
        (s.store.room < s.store.validIn b → exec .garbageCollection s = .next s.showBlocks) ∧
        (s.store.validIn b ≤ s.store.room → exec .garbageCollection s =
          .next ((s.copyUnits fun _ u => u.block = b).setBlock b .reclaimed).showBlocks)) ∧
      (∀ (b : Nat) x, s.store.blocks.find b = some x →
        (x.state = .reclaimed → s.blockRead b = false → s.recordNeeded b = false → exec (.blockErase b) s = .next (s.adjustStore fun st =>
          { st with blocks := st.blocks.insert b ⟨.reclaimed, 0, 0, x.erases + 1⟩
                    nand := st.nand.filter fun x => x.unit.block ≠ b
                    freed := st.freed.filter (· ≠ b) ++ [b] }).showBlocks) ∧
        (x.state ≠ .reclaimed ∨ s.blockRead b = true ∨ s.recordNeeded b = true → exec (.blockErase b) s = .next s) ∧
        (x.state = .open_ → exec (.programFailure b) s = .next (((s.adjustHealth fun h =>
          { h with programFails := h.programFails + 1 }).retireBlock b).copyUnits fun _ u => u.block = b)) ∧
        (x.state ≠ .open_ → exec (.programFailure b) s = .next s) ∧
        (x.state = .reclaimed → b ∉ s.store.freed → exec (.eraseFailure b) s = .next ((s.adjustHealth fun h =>
          { h with eraseFails := h.eraseFails + 1 }).retireBlock b)) ∧
        (x.state ≠ .reclaimed ∨ b ∈ s.store.freed → exec (.eraseFailure b) s = .next s)) ∧
      (∀ a b c, let whole (up : Bool) (x : Int) (d : Nat) := max (-128) (min 127 (if up then -(-x / (100 * d : Int)) else x / (100 * d : Int)));
        (∀ r rest, s.store.health.readings = r :: rest → exec (.temperatureHour a b c) s = .next (s.adjustHealth fun h =>
          { h with hours := h.hours + 1, readings := []
                   temps := (some (whole a (rest.foldl max r) 1, whole b (rest.foldl (· + ·) r) (rest.length + 1),
                     whole c (rest.foldl min r) 1) :: h.temps).take 168 })) ∧
        (s.store.health.readings = [] → exec (.temperatureHour a b c) s = .next (s.adjustHealth fun h =>
          { h with readings := [], temps := (none :: h.temps).take 168 }))) ∧
      (∀ n share, s.store.sweeps.find n = some share →
        let t := s.copyUnits fun m u => m = n && s.retiring n u
        let u := [0, 1, 2, 3].foldl (fun t k => t.setBit (Reg.FTL_NS_KEY n k) Fld.FTL_NS_KEY_SWEEP false) t
        exec (.sweepDone n) s = .next (((u.adjustStore fun st => { st with sweeps := st.sweeps.erase n }).setBit Reg.FTL_EVENT
          Fld.FTL_EVENT_SWEEP_DONE true).raise 8)) ∧
      (∀ n, s.store.sweeps.find n = none → exec (.sweepDone n) s = .next s))

/-- While an active job holds the fleet, writes of its registers are ignored; otherwise FLT_CTRL leaves the old fleet,
and ENABLE with a job whose map asks for a fleet forms it from the roster in host memory or asks to join, and without
one leaves ENABLE 0 with ST_FLT_SETUP (log entry 41). A ROSTER of the manager that it names comes into force, an empty
one refuses the JOIN, any other is ignored; the manager answers JOIN by admission or an empty ROSTER, and RESOLVE by
its roster. A heartbeat is acknowledged and judged; an acknowledgement under another role epoch fences, and ends an
isolation. The heartbeat timer sends to manager and standby. An active worker that hears nothing is isolated, a
managing manager too. A lease that ends fails the member. A message of a lower ROSTER_EPOCH, a short one, or one at a
fenced member is ignored. (R327, R328, R329, R330, R333, R334, R335, R336, R341, R342, R343) -/
def Obligations.FleetMembershipComplete : Prop :=
  ∀ (s : State),
    let next (t : State) : Host.Outcome State Fault Refusal := .next t
    let settled (t : State) := next t.heelSettle
    let role := s.fld Reg.FLT_STATUS Fld.FLT_STATUS_ROLE
    let state := s.fld Reg.FLT_STATUS Fld.FLT_STATUS_STATE
    (∀ v, s.hostReaches Reg.FLT_CTRL = true →
      let w := putFld Fld.FLT_CTRL_ENABLE v 1
      let t := (s.leaveFleet.setFld Reg.FLT_CTRL Fld.FLT_CTRL_ROLE (getFld Fld.FLT_CTRL_ROLE w)).setFld Reg.FLT_CTRL Fld.FLT_CTRL_JOB
        (getFld Fld.FLT_CTRL_JOB w)
      let on := t.setBit Reg.FLT_CTRL Fld.FLT_CTRL_ENABLE true
      let refused := (on.setBit Reg.FLT_CTRL Fld.FLT_CTRL_ENABLE false).setFltCode ST_FLT_SETUP
      let mine := (on.setFltCode ST_OK).setFld Reg.FLT_STATUS Fld.FLT_STATUS_ROLE (on.fld Reg.FLT_CTRL Fld.FLT_CTRL_ROLE)
      (s.fleetLocked = true → exec (.fleetEnable v) s = settled s ∧ ∀ reg, exec (.fltConfigWrite reg v) s = settled s) ∧
      (s.fleetLocked = false →
        ((∀ j, on.jobs.find on.fleetSlot = some j → j.map.fleet = false) → exec (.fleetEnable v) s = settled refused) ∧
        (∀ j, on.jobs.find on.fleetSlot = some j → j.map.fleet = true → on.fld Reg.FLT_CTRL Fld.FLT_CTRL_ROLE = roleManager →
          exec (.fleetEnable v) s = settled (mine.formFleet j)) ∧
        (∀ j, on.jobs.find on.fleetSlot = some j → j.map.fleet = true → on.fld Reg.FLT_CTRL Fld.FLT_CTRL_ROLE ≠ roleManager →
          exec (.fleetEnable v) s = settled (mine.sendJoin j)) ∧
        (exec (.fltConfigWrite .ctrl w) s = exec (.fleetEnable v) s) ∧
        (exec (.fltConfigWrite .context v) s = settled (s.setFld Reg.FLT_CONTEXT Fld.FLT_CONTEXT_CONTEXT (getFld Fld.FLT_CONTEXT_CONTEXT v))) ∧
        (exec (.fltConfigWrite .manager v) s = settled (s.setFld Reg.FLT_MANAGER Fld.FLT_MANAGER_NODE (getFld Fld.FLT_MANAGER_NODE v))))) ∧
    (s.live = true → ∀ (source : Nat) (msg : Bytes),
      let kind := fieldAt msg 0 1
      let body := msg.drop 16
      let open_ : Prop := s.fleetOn = true ∧ 16 ≤ msg.length ∧ state ≠ fltFenced
      let current : Prop := s.rosterEpoch ≤ fieldAt msg 4 4
      let rosters : List Instr := [.roster source msg, .join source msg, .resolve source msg, .heartbeat source msg, .hbAck source 0 msg]
      (¬ (open_ ∧ current) → ∀ c ∈ rosters, exec c s = .next s) ∧
      (open_ → current → kind = 0x02 →
        (role = roleManager → state ≠ fltJoining → exec (.roster source msg) s = settled s) ∧
        (¬ (role = roleManager ∧ state ≠ fltJoining) →
          (body = [] → state = fltJoining → exec (.roster source msg) s =
            settled (((s.adjustFleet fun f => { f with refused := true }).setFltState fltIdle).setFltCode ST_FLT_SETUP)) ∧
          (body ≠ [] → rosterFormatOk body = false → exec (.roster source msg) s = settled s) ∧
          (body ≠ [] → rosterFormatOk body = true →
            let r := rosterOf body
            let sender := (r.entries.find? fun e => e.role = roleManager).map (·.node)
            (sender ≠ some source ∨ s.fleet.refused = true → exec (.roster source msg) s = settled s) ∧
            (sender = some source → s.fleet.refused = false →
              let t := (s.adoptRoster r).setBit Reg.FLT_STATUS Fld.FLT_STATUS_CHANGED true
              let u := if t.fltState = fltJoining then (t.setFltState fltActive).setFltCode ST_OK else t
              exec (.roster source msg) s = settled (u.underRoster s.fleet.roster.isNone
                (s.fleet.roster.any fun x => x.manager != r.manager) (s.fld Reg.FLT_INDEX Fld.FLT_INDEX_BUDDY)))))) ∧
      (open_ → current → kind = 0x01 → role = roleManager → exec (.join source msg) s = settled (s.joinAsked source body)) ∧
      (open_ → current → kind = 0x0F → ∀ i, s.fleet.memberAt source = some i → role = roleManager → exec (.resolve source msg) s =
        settled (s.fleetSend source 0x02 0 (rosterBytes s.roster))) ∧
      (open_ → current → kind = 0x03 → ∀ i, s.fleet.memberAt source = some i →
        (role = roleManager → s.roleOf i = roleWorker → exec (.heartbeat source msg) s =
          settled (((s.fleetSend source 0x04 0 []).managerHears i).judgeHeartbeat i body)) ∧
        (role = roleStandby → (s.roleOf i = roleWorker ∨ s.roleOf i = roleManager) → exec (.heartbeat source msg) s =
          settled (s.fleetSend source 0x04 0 []))) ∧
      (open_ → current → kind = 0x04 → ∀ i peer, s.fleet.memberAt source = some i → role = roleWorker →
        (peer ≠ s.ownRoleEpoch → exec (.hbAck source peer msg) s = settled s.fence) ∧
        (peer = s.ownRoleEpoch → state = fltIsolated → exec (.hbAck source peer msg) s =
          settled (((s.setFltState fltActive).flowJob s.fleetSlot).arriveCheck s.fleetSlot)) ∧
        (peer = s.ownRoleEpoch → state ≠ fltIsolated → exec (.hbAck source peer msg) s = settled s))) ∧
    (s.live = true → s.fleetOn = true →
      (s.fleet.roster ≠ none → state ≠ fltFenced →
        (role = roleWorker → exec .heartbeatTimer s = next ((s.fleetSendRole roleManager 0x03 0 s.heartbeatBody).fleetSendRole
          roleStandby 0x03 0 s.heartbeatBody)) ∧
        (role = roleManager → exec .heartbeatTimer s = next (s.fleetSendRole roleStandby 0x03 0 s.heartbeatBody))) ∧
      (role = roleWorker → state = fltActive → exec .workerIsolation s = next (s.setFltState fltIsolated)) ∧
      (role = roleManager → state = fltActive →
        exec .managerIsolation s = next ((s.setFltState fltIsolated).adjustFleet fun f => { f with acks := [] }) ∧
        (∀ i, s.admitted i = true → (s.roleOf i = roleWorker ∨ s.roleOf i = roleStandby) →
          exec (.livenessLeaseExpiry i) s = next (s.failMember i).settleLog) ∧
        (∀ i, s.roleOf i = roleWorker → s.noProgress i = true → exec (.progressLeaseExpiry i) s = next (s.failMember i).settleLog)))

/-- For a message of the current ROSTER_EPOCH from a member. ARRIVE is logged and acknowledged by who makes arrivals
durable, and the manager commits what it may; a WARM spare packs from the manager's copy of it. The acknowledgement
that a worker awaits makes its arrival durable; COMMIT sets FLT_BARRIER (a worker's count of last arrivals is a free
value, log entry 1). MIRROR is kept and acknowledged with RANK and ORDINAL, and the awaited acknowledgement lets the
rank flow. MOVE tells the old holder where to drop and the new one where to start. FETCH returns the mirrored records
and RECORDS start the new holders. A worker grants a TAKEOVER under a higher manager role epoch, or again the same
one; more than half of the workers make the standby the manager, and without them it stays standby with
ST_FLT_NO_QUORUM. (R329, R331, R337, R338, R339, R340, R341, R346) -/
def Obligations.FleetWorkCompletes : Prop :=
  ∀ (s : State), s.live = true → s.fleetOn = true →
    let settled (t : State) : Host.Outcome State Fault Refusal := .next t.heelSettle
    let role := s.fld Reg.FLT_STATUS Fld.FLT_STATUS_ROLE
    let state := s.fld Reg.FLT_STATUS Fld.FLT_STATUS_STATE
    let slot := s.fleetSlot
    (∀ (source i : Nat) (msg : Bytes), 16 ≤ msg.length → state ≠ fltFenced → s.rosterEpoch ≤ fieldAt msg 4 4 → s.fleet.memberAt source = some i →
      let kind := fieldAt msg 0 1
      let barrier := fieldAt msg 8 8
      let body := msg.drop 16
      (kind = 0x05 → (role = roleManager ∨ role = roleStandby) → s.roleOf i = roleWorker →
        exec (.arrive source msg) s = settled (s.arrivalAtLog source i barrier body)) ∧
      (kind = 0x05 → role = roleWarm → s.roleOf i = roleManager → 
        let gone := s.fleet.shadowed.filter fun r => r ∉ (recordsIn body).map (·.1)
        exec (.arrive source msg) s = settled ((recordsIn body).foldl (fun t e =>
          ((t.gainRank slot e.1 (resumeOf e.2).ordinal e.2).adjustFleet fun f => { f with shadowed := f.shadowed ++ [e.1] }).packOn slot e.1)
          (gone.foldl (fun t r => t.dropRank slot r) s))) ∧
      (kind = 0x06 → s.logAcks i = true → role = roleWorker → s.fleet.arriving = some barrier →
        let t := (s.setFld Reg.FLT_ARRIVED Fld.FLT_ARRIVED_BARRIER barrier).adjustFleet fun f => { f with arriving := none }
        exec (.arriveAck source msg) s = settled (((t.dropMoved slot).flowJob slot).arriveCheck slot)) ∧
      (kind = 0x06 → (s.logAcks i = false ∨ role ≠ roleWorker ∨ s.fleet.arriving ≠ some barrier) →
        exec (.arriveAck source msg) s = settled s) ∧
      (kind = 0x07 → s.roleOf i = roleManager →
        let t := s.setFld Reg.FLT_BARRIER Fld.FLT_BARRIER_BARRIER barrier
        (role = roleWorker → exec (.commit source msg) s =
          settled (t.setFld Reg.FLT_LAST_ARRIVALS Fld.FLT_LAST_ARRIVALS_COUNT (s.freeValue % 65)).drew) ∧
        (role = roleStandby → exec (.commit source msg) s = settled (t.adjustFleet fun f =>
          { f with lasts := (((f.order.filter fun e => e.1 = barrier).getLast?.map (·.2)).toList ++ f.lasts).take 64
                   order := f.order.filter fun e => barrier < e.1 }))) ∧
      (kind = 0x08 → body.length = 48 →
        let r := resumeOf body
        let t := s.adjustFleet fun f =>
          { f with mirrors := (f.mirrors.filter fun (e : Nat × Nat × Bytes) => !(e.1 = i && e.2.1 = r.rank)) ++ [(i, r.rank, body)] }
        exec (.mirror source msg) s = settled (t.fleetSend source 0x09 0 (leBytes 2 r.rank ++ leBytes 8 r.ordinal))) ∧
      (kind = 0x09 → i = s.fld Reg.FLT_INDEX Fld.FLT_INDEX_BUDDY → s.fleet.mirrorWait.find (fieldAt body 0 2) = some (fieldAt body 2 8) →
        exec (.mirrorAck source msg) s =
          settled ((s.adjustFleet fun f => { f with mirrorWait := f.mirrorWait.erase (fieldAt body 0 2) }).flowRank slot (fieldAt body 0 2))) ∧
      (kind = 0x09 → (i ≠ s.fld Reg.FLT_INDEX Fld.FLT_INDEX_BUDDY ∨ s.fleet.mirrorWait.find (fieldAt body 0 2) ≠ some (fieldAt body 2 8)) →
        exec (.mirrorAck source msg) s = settled s) ∧
      (kind = 0x0A → s.roleOf i = roleManager → body.length = 58 →
        let rank := fieldAt body 0 2
        let first := fieldAt body 2 8
        let record := body.drop 10
        let old := s.fleet.ownerOf rank
        let noted (holder : Nat) := s.adjustFleet fun f =>
          { f with moves := (f.moves.filter fun m => m.rank ≠ rank) ++ [⟨rank, old, holder, first, record, false⟩] }
        (old = s.ownIndex → (resumeOf record).ordinal < first → (∃ st, (s.jobs.find slot).bind (·.stream rank) = some st) →
          exec (.move source msg) s = settled ((noted noOwner).dropMoved slot)) ∧
        (old ≠ s.ownIndex → exec (.move source msg) s =
          settled ((((noted s.ownIndex).takeRank slot rank first record).flowRank slot rank).arriveCheck slot)) ∧
        (old = s.ownIndex → first ≤ (resumeOf record).ordinal → exec (.move source msg) s =
          settled (((s.takeRank slot rank first record).flowRank slot rank).arriveCheck slot))) ∧
      (kind = 0x0B → s.roleOf i = roleManager → exec (.fetch source msg) s = settled (s.fleetSend source 0x0C 0
        ((s.fleet.mirrors.filter fun e => e.1 = fieldAt body 0 2).flatMap (·.2.2)))) ∧
      (kind = 0x0C → role = roleManager → state = fltActive → exec (.records source msg) s = settled (s.recordsArrived i body)) ∧
      (kind = 0x0D → s.roleOf i = roleStandby → role = roleWorker → ∀ k, s.fleet.indexOfRole roleManager = some k →
        let epoch := fieldAt body 0 4
        let held := ((s.fleet.entry k).map (·.roleEpoch)).getD 0
        (held < epoch ∨ s.fleet.takeover = some epoch →
          let t := s.adjustFleet fun f => { f with
            takeover := some epoch
            roster := f.roster.map fun r => { r with entries := r.entries.zipIdx.map fun e =>
              if e.2 = k then { e.1 with roleEpoch := epoch } else e.1 } }
          exec (.takeover source msg) s = settled (t.fleetSend source 0x0E 0 [])) ∧
        (epoch ≤ held → s.fleet.takeover ≠ some epoch → exec (.takeover source msg) s = settled s)) ∧
      (kind = 0x0E → role = roleStandby → s.fleet.takeover ≠ none → s.roleOf i = roleWorker →
        let t := s.adjustFleet fun f => { f with acks := if f.acks.contains i then f.acks else f.acks ++ [i] }
        let workers := (withRole s.roster roleWorker).length
        (workers < 2 * t.fleet.acks.length → exec (.takeoverAck source msg) s = settled t.becomeManager) ∧
        (2 * t.fleet.acks.length ≤ workers → exec (.takeoverAck source msg) s = settled t))) ∧
    (role = roleStandby → state = fltActive → ∀ k, s.fleet.indexOfRole roleManager = some k →
      let epoch := (((s.fleet.entry k).map (·.roleEpoch)).getD 0 + 1) % 2 ^ 32
      let t := s.adjustFleet fun f => { f with acks := [], takeover := some epoch }
      exec .standbyTakeoverTimeout s = .next ((withRole s.roster roleWorker).foldl (fun t i => t.fleetSendTo i 0x0D 0 (leBytes 4 epoch)) t)) ∧
    (role = roleStandby → s.fleet.takeover ≠ none → exec .takeoverQuorumTimeout s =
      .next ((s.adjustFleet fun f => { f with takeover := none, acks := [] }).setFltCode ST_FLT_NO_QUORUM))

/-- For every command and state, a step of the state with the command put in front of its queue is the command's
effect on the state. With an empty queue network time and the uptime advance by 1 ns and nothing else changes: the
model's choice (log entry 12). That commands run one at a time in the order of arrival is the model's queue. (R375,
R12) -/
def Obligations.StepRunsTheFrontCommand : Prop :=
  (∀ (c : Instr) (s : State), step { s with pending := c :: s.pending } = exec c s) ∧
    (∀ s : State, s.pending = [] → step s = .next { s with time := s.time.advance 1, uptime := s.uptime + 1 })

/-- After reset no command waits, the boot stage is 1 and domain PD0 alone is on, no image is loaded, no job, claim,
queue or buffer exists, the measurement registers are zero, the whole device belongs to hedge 0, every register that
no other value is given for reads the reset value of its field table (PWR_CAP 350 W, every ceiling of PWR_PLAN 16,
PWR_DROOP 750 mV, DMA_CH_LEASH 256 among them), and no memory byte is listed. The reset values that only the log gives
(entries 3, 5, 7, 8, 11) are not stated. (R10, R46, R359, R364, R372, 14_power_boot.md Table 14-1, R378, R271) -/
def Obligations.ResetHoldsTheSpecValues : Prop :=
  let s := State.reset;
    s.pending = [] ∧ s.bootStage = 1 ∧ s.sheep.mode = .starting ∧ (∀ d, d < 20 → (s.domainOn d = true ↔ d = 0)) ∧
    s.images = Tab.empty ∧ s.jobs = Tab.empty ∧ s.claims = [] ∧ s.queues = Tab.empty ∧ s.pools = Tab.empty ∧ s.contexts = Tab.empty ∧
    s.partition = Partition.reset ∧ s.dram = Tab.empty ∧ s.sram = Tab.empty ∧ s.outOfService = [] ∧
    (∀ m i, m < 8 → i < 8 → s.reg (Reg.SEC_MEAS m i) = 0) ∧
    (∀ off, off ≠ Reg.SHD_BOOT → off ≠ Reg.HEEL_DCLASS → (off < Reg.GLB_KENNEL_HEALTH 0 ∨ Reg.GLB_KENNEL_HEALTH 32 ≤ off) →
      s.reg off = BitVec.ofNat 64 (((regAt off).map (·.reset)).getD 0)) ∧
    s.fld Reg.PWR_CAP Fld.PWR_CAP_WATTS = 350 ∧ s.fld Reg.PWR_PLAN Fld.PWR_PLAN_STEP = 16 ∧ s.fld Reg.PWR_PLAN Fld.PWR_PLAN_CAP = 16 ∧
    s.fld Reg.PWR_PLAN Fld.PWR_PLAN_THERMAL = 16 ∧ s.fld Reg.PWR_PLAN Fld.PWR_PLAN_DROOP = 16 ∧ s.fld Reg.PWR_DROOP Fld.PWR_DROOP_MV = 750 ∧
    (∀ ch, ch < 64 → s.fld (Reg.DMA_CH_LEASH ch) Fld.DMA_CH_LEASH_SHARE = 256)

/-- The queue after reset holds only well-formed commands (none), the three memories are in their canonical form, and
so is the register file. That form is the model's own (a listed byte or register differs from what an unlisted one
reads as). (R10, R12) -/
def Obligations.ResetIsSound : Prop :=
  State.reset.sound = true

/-- From any state whose queue holds well-formed commands and whose memories and register file are in canonical form,
reached or not, a step that answers a next state leaves such a state: no command of any family lists a byte or a
register twice, out of order, or at the value that an unlisted one reads as, and none puts an ill-formed command into
the queue. The canonical form is the model's own; it makes equal memories equal data. (R10, R12, R13, R251) -/
def Obligations.StepsKeepStatesSound : Prop :=
  ∀ s t : State, s.sound = true → step s = .next t → t.sound = true

/-- Whatever the command and the state, a step that answers a next state leaves the queue's tail waiting, in order: no
command of any family adds, drops or reorders waiting commands. The queue is the model's own. (R375, R53, R58) -/
def Obligations.StepsConsumeOneCommand : Prop :=
  ∀ s t : State, step s = .next t → t.pending = s.pending.tail

/-- While the fault of one or more dies keeps the device out of service, a command other than a die fault, a reset, a
reset pin's rise and a management envelope or TLS handshake from the network leaves the state as it is, or names a
core or engine that the part does not have (log entry 47). After a fault of H-die 0 the management port answers
nothing either. That the pins still act is the model's reading. (R29, R374, R358, R375) -/
def Obligations.DevicesOutOfServiceStaySilent : Prop :=
  ∀ (s t : State) (c : Instr), s.outOfService ≠ [] → exec c s = .next t →
    t = s ∨ (∃ d, c = .dieFault d) ∨ c = .powerOnReset ∨ c = .warmReset ∨ (∃ por straps, c = .resetPinRise por straps) ∨
      (4 ∉ s.outOfService ∧ ((∃ chain, c = .mgmtTlsHandshake chain) ∨ ∃ b : Bytes, c ∈ [Instr.secAttest (.network b), .secKeyImport (.network b),
        .secKeyDestroy (.network b), .secHedgeOwner (.network b), .secAnchorSet (.network b), .secCertRead (.network b), .blkNsCreate (.network b),
        .blkNsDelete (.network b), .blkKeyRotate (.network b), .blkKeySweep (.network b), .blkKeyDestroy (.network b), .shdFwStage (.network b),
        .shdFwActivate (.network b), .shdReset (.network b), .shdFallbackExit (.network b), .pwrSetCap (.network b), .pwrSetPlanMax (.network b),
        .shdFeature (.network b), .shdDiag (.network b)]))

/-- For a 64-bit register whose upper half belongs to no other register. A 64-bit read returns the one value that the
register reads as. A 64-bit write writes the whole register at once and ends a pending lower half. A 32-bit write of
the lower half only becomes pending; one of the upper half acts as a 64-bit write of it together with the pending
lower half, or, where none is pending, with the lower half of the register's current value, and clears the pending
half. A 64-bit access at a multiple of 8 where a 32-bit register lies acts as the two 32-bit accesses, low half first.
(R13) -/
def Obligations.SixtyFourBitRegistersTakeTheirHalves : Prop :=
  ∀ (s : State) (off : Nat) (d : RegDesc), s.hostReaches off = true → off % 8 = 0 → regAt off = some d →
    (d.wide = true → regAt (off + 4) = none →
      (¬ (0x2C10000 ≤ off ∧ off < 0x2C10000 + 928) → s.hostReadValue off 64 = (s.readReg off d).toNat) ∧
      (∀ v, exec (.registerWrite off 64 v) s = .next (State.regWrite { s with regPend := s.regPend.erase off } off d v)) ∧
      (∀ v, exec (.registerWrite off 32 v) s = .next { s with regPend := s.regPend.insert off (BitVec.ofNat 32 (v.toNat % 2 ^ 32)) }) ∧
      (∀ v : Word64,
        let low := match s.regPend.find off with
          | some l => l.toNat
          | none => (s.reg off).toNat % 2 ^ 32
        exec (.registerWrite (off + 4) 32 v) s =
          exec (.registerWrite off 64 (BitVec.ofNat 64 (low + v.toNat % 2 ^ 32 * 2 ^ 32))) s)) ∧
    (d.wide = false →
      (s.hostReadValue off 64 = s.hostReadValue off 32 + s.hostReadValue (off + 4) 32 * 2 ^ 32) ∧
      (∀ (v : Word64) t, exec (.registerWrite off 32 (BitVec.ofNat 64 (v.toNat % 2 ^ 32))) s = .next t → t.hostReaches (off + 4) = true →
        exec (.registerWrite off 64 v) s = exec (.registerWrite (off + 4) 32 (BitVec.ofNat 64 (v.toNat / 2 ^ 32))) t))

/-- A host write that reaches nothing, is not aligned to its width, or has another width than 32 or 64 bits changes
nothing, and so does a 32-bit write at an offset where no register and no upper half lies. A 32-bit write of a 32-bit
register none of whose fields has an effect of its own changes that register alone: RW fields take the written value,
W1C fields lose the bits written as 1, W1S fields gain them, RO and WO fields stay, and so does every bit that belongs
to no field. (R10, R11, R12, 00_scope.md Table 0-4) -/
def Obligations.PlainWritesFollowTheAccessTypes : Prop :=
  ∀ (s : State) (off width : Nat) (v : Word64),
    (s.hostReaches off = false → exec (.registerWrite off width v) s = .next s) ∧
    ((width ≠ 32 ∨ off % 4 ≠ 0) → (width ≠ 64 ∨ off % 8 ≠ 0) → exec (.registerWrite off width v) s = .next s) ∧
    (regAt off = none → (off % 8 ≠ 4 ∨ regAt (off - 4) = none ∨ ∃ d, regAt (off - 4) = some d ∧ d.wide = false) →
      exec (.registerWrite off 32 v) s = .next s) ∧
    (∀ d, s.hostReaches off = true → off % 4 = 0 → regAt off = some d → d.wide = false →
      let w := BitVec.ofNat 64 (v.toNat % 2 ^ 32)
      s.unitWrite off d w = none → s.jobWrite off d w = none →
      ∃ x : Word64, exec (.registerWrite off 32 v) s = .next (s.setReg off x) ∧
        (∀ f ∈ d.fields,
          let old := BitVec.ofNat 64 (getFld f.fld (s.reg off))
          let new := BitVec.ofNat 64 (getFld f.fld w)
          BitVec.ofNat 64 (getFld f.fld x) = match f.access with
            | .rw => new
            | .w1c => old &&& ~~~new
            | .w1s => old ||| new
            | .ro | .wo => old) ∧
        (∀ i, i < 64 → (∀ f ∈ d.fields, ¬ (f.fld.lo ≤ i ∧ i < f.fld.lo + f.fld.len)) → x.getLsbD i = (s.reg off).getLsbD i))

/-- A site is excluded where its filtered value lies outside −50 °C to 150 °C or differs by more than 20 °C from the
median of all sites. While more than 8 are, the hottest temperature is taken as T_THROTTLE; else it is the highest of
those that are not excluded, and none of the excluded ones. After a temperature sample that leaves a site excluded,
SHD_ALARM.SENSOR is set. (That the median of an even number of sites is the mean of the middle two is the model's
choice, log entry 43; the statement rests on no value of it.) (R367) -/
def Obligations.ExcludedSitesCountInNoDecision : Prop :=
  ∀ s : State,
    let excluded (t : State) (c : Int) : Prop := c < -5000 ∨ 15000 < c ∨ 2000 < (c - median (t.siteTemps.map (·.2))).natAbs
    (∀ e ∈ s.siteTemps, e ∈ s.goodSites.1 ↔ ¬ excluded s e.2) ∧
    (8 < s.siteTemps.length - s.goodSites.1.length → s.hottest = some s.tThrottle) ∧
    (∀ h, s.siteTemps.length - s.goodSites.1.length ≤ 8 → s.hottest = some h →
      (∃ site, (site, h) ∈ s.siteTemps ∧ ¬ excluded s h) ∧ ∀ e ∈ s.siteTemps, ¬ excluded s e.2 → e.2 ≤ h) ∧
    (∀ (site : Fin 64) (raw : Int) (t : State), s.live = true → exec (.temperatureSample site raw) s = .next t →
      (∃ e ∈ t.siteTemps, excluded t e.2) → t.bit Reg.SHD_ALARM Fld.SHD_ALARM_SENSOR = true)
end

