-- ==== Sys2Proof/Laws/Cipher.lean ====
section
/-! SUPPORT. AES-256-GCM as the model has it: the key stream is as long as what it covers, and what was sealed opens. -/

namespace Sys2Proof.Machine

theorem leBytes_length (n v : Nat) : (leBytes n v).length = n := by
  induction n generalizing v with
  | zero => rfl
  | succ n ih => simp [leBytes, ih]

theorem beBytes_length (n v : Nat) : (beBytes n v).length = n := by simp [beBytes, leBytes_length]

theorem sliceAt_length (bs : Bytes) (o n : Nat) : (sliceAt bs o n).length = n := by
  simp only [sliceAt, List.length_append, List.length_replicate, List.length_take]
  omega

theorem xorBytes_length (a b : Bytes) : (xorBytes a b).length = min a.length b.length := by simp [xorBytes]

/-- A key stream applied twice is gone. -/
theorem xorBytes_twice (a k : Bytes) (h : a.length ≤ k.length) : xorBytes (xorBytes a k) k = a := by
  apply List.ext_getElem
  · simp [xorBytes]; omega
  · intro i h1 h2
    simp [xorBytes]

/-- Every word of the key schedule has four bytes. -/
theorem aesNextWord_length (i : Nat) (prev back : Bytes) (h1 : prev.length = 4) (h2 : back.length = 4) :
    (aesNextWord i prev back).length = 4 := by
  unfold aesNextWord
  simp only [xorBytes_length, h2]
  split
  · simp [xorBytes_length, h1]
  · split <;> simp [h1]

theorem aesExpandFrom_length (n i : Nat) (win : List Bytes) (hw : win.length = 8) (h : ∀ w ∈ win, w.length = 4) :
    (aesExpandFrom n i win).length = n ∧ ∀ w ∈ aesExpandFrom n i win, w.length = 4 := by
  induction n generalizing i win with
  | zero => simp [aesExpandFrom]
  | succ n ih =>
    have get : ∀ j, j < 8 → (win.getD j []).length = 4 := by
      intro j hj
      rw [List.getD_eq_getElem _ _ (by omega)]
      exact h _ (List.getElem_mem _)
    have hn := aesNextWord_length i (win.getD 7 []) (win.getD 0 []) (get 7 (by omega)) (get 0 (by omega))
    have := ih (i + 1) (win.drop 1 ++ [aesNextWord i (win.getD 7 []) (win.getD 0 [])]) (by simp; omega) (by
      intro w hw
      rcases List.mem_append.1 hw with hw | hw
      · exact h w (List.mem_of_mem_drop hw)
      · rw [List.mem_singleton.1 hw]; exact hn)
    simp only [aesExpandFrom, List.length_cons, List.mem_cons, forall_eq_or_imp]
    exact ⟨by omega, hn, this.2⟩

theorem flatten_length_four (l : List Bytes) (h : ∀ w ∈ l, w.length = 4) : l.flatten.length = 4 * l.length := by
  induction l with
  | nil => rfl
  | cons w l ih =>
    simp only [List.flatten_cons, List.length_append, List.length_cons, h w (List.mem_cons_self ..),
      ih fun x hx => h x (List.mem_cons_of_mem _ hx)]
    omega

/-- The round keys: fifteen of sixteen bytes each. -/
theorem aesRoundKeys_length (key : Bytes) :
    (aesRoundKeys key).length = 15 ∧ ∀ k ∈ aesRoundKeys key, k.length = 16 := by
  have first : ∀ w ∈ (List.range 8).map fun i => sliceAt key (4 * i) 4, w.length = 4 := by
    intro w hw
    obtain ⟨i, -, rfl⟩ := List.mem_map.1 hw
    exact sliceAt_length ..
  obtain ⟨e1, e2⟩ := aesExpandFrom_length 52 8 ((List.range 8).map fun i => sliceAt key (4 * i) 4) (by simp) first
  refine ⟨by simp [aesRoundKeys], ?_⟩
  intro k hk
  obtain ⟨r, hr, rfl⟩ := List.mem_map.1 hk
  rw [flatten_length_four]
  · rw [List.length_take, List.length_drop, List.length_append, e1, List.length_map, List.length_range]
    have := List.mem_range.1 hr
    omega
  · intro w hw
    rcases List.mem_append.1 (List.mem_of_mem_drop (List.mem_of_mem_take hw)) with hw | hw
    · exact first w hw
    · exact e2 w hw

theorem aesRounds_length (ks : List Bytes) (s : Bytes) (hs : s.length = 16) (hk : ∀ k ∈ ks, k.length = 16) :
    (aesRounds ks s).length = 16 := by
  induction ks generalizing s with
  | nil => exact hs
  | cons k ks ih =>
    cases ks with
    | nil => simp [aesRounds, xorBytes_length, aesShiftRows, hk k (by simp)]
    | cons k2 ks =>
      rw [aesRounds]
      · exact ih _ (by simp [xorBytes_length, aesMix, hk k (by simp)]) fun x hx => hk x (List.mem_cons_of_mem _ hx)
      · simp

theorem aesEncryptWith_length (key blk : Bytes) (h : blk.length = 16) : (aesEncryptWith (aesRoundKeys key) blk).length = 16 := by
  obtain ⟨k1, k2⟩ := aesRoundKeys_length key
  apply aesRounds_length
  · rw [xorBytes_length, h]
    cases q : aesRoundKeys key with
    | nil => rw [q] at k1; simp at k1
    | cons k ks => simp [k2 k (by rw [q]; simp)]
  · intro k hk; exact k2 k (List.mem_of_mem_drop hk)

theorem gcmStream_length (key iv : Bytes) (h : iv.length = 12) (n ctr : Nat) :
    (gcmStream (aesRoundKeys key) iv n ctr).length = 16 * n := by
  induction n generalizing ctr with
  | zero => rfl
  | succ n ih =>
    rw [gcmStream, List.length_append, ih, aesEncryptWith_length _ _ (by simp [h, beBytes_length])]
    omega

/-- What was sealed under a 12-byte IV opens to what it was. -/
theorem gcmOpen_gcmSeal (key iv aad pt : Bytes) (h : iv.length = 12) :
    gcmOpen key iv aad (gcmSeal key iv aad pt).1 (gcmSeal key iv aad pt).2 = some pt := by
  have cover : pt.length ≤ (gcmStream (aesRoundKeys key) iv (ceilDiv pt.length 16) 2).length := by
    rw [gcmStream_length _ _ h]; unfold ceilDiv; omega
  have len : (xorBytes pt (gcmStream (aesRoundKeys key) iv (ceilDiv pt.length 16) 2)).length = pt.length := by
    rw [xorBytes_length]; omega
  unfold gcmOpen gcmSeal
  simp only [len, if_true, xorBytes_twice _ _ cover]

/-- Length of the ciphertext. -/
theorem gcmSeal_length (key iv aad pt : Bytes) (h : iv.length = 12) : (gcmSeal key iv aad pt).1.length = pt.length := by
  unfold gcmSeal
  simp only [xorBytes_length, gcmStream_length _ _ h]
  unfold ceilDiv; omega

end Sys2Proof.Machine
end

