-- ==== Sys2Proof/Laws/Tab.lean ====
section
/-! SUPPORT. Laws of sparse tables: a lookup after a write, and the canonical form that every write keeps. -/

namespace Sys2Proof.Machine

theorem lookupIn_insertIn_self {α : Type} (k : Nat) (v : α) (l : List (Nat × α)) :
    lookupIn k (insertIn k v l) = some v := by
  induction l with
  | nil => simp [insertIn, lookupIn]
  | cons e t ih =>
    obtain ⟨a, b⟩ := e
    simp only [insertIn]
    split
    · simp [lookupIn]
    · split
      · simp [lookupIn]
      · simp [lookupIn, *]

theorem lookupIn_insertIn_ne {α : Type} {j k : Nat} (h : j ≠ k) (v : α) (l : List (Nat × α)) :
    lookupIn j (insertIn k v l) = lookupIn j l := by
  induction l with
  | nil => simp [insertIn, lookupIn, h]
  | cons e t ih =>
    obtain ⟨a, b⟩ := e
    simp only [insertIn]
    split
    · simp only [lookupIn, h, if_false]
      repeat' split
      all_goals first | rfl | omega
    · split
      · subst k
        simp [lookupIn, h]
      · simp [lookupIn, ih]

theorem lookupIn_dropWhile {α : Type} {j k : Nat} (h : k ≤ j) (hne : j ≠ k) (l : List (Nat × α)) :
    lookupIn j (l.dropWhile fun e => decide (e.1 ≤ k)) = lookupIn j l := by
  induction l with
  | nil => rfl
  | cons e t ih =>
    obtain ⟨a, b⟩ := e
    by_cases ha : a ≤ k
    · rw [List.dropWhile_cons_of_pos (by simpa using ha), ih]
      have h1 : j ≠ a := by omega
      have h2 : ¬ j < a := by omega
      simp [lookupIn, h1, h2]
    · rw [List.dropWhile_cons_of_neg (by simpa using ha)]

theorem lookupIn_dropWhile_le {α : Type} {j k : Nat} (h : j ≤ k) (l : List (Nat × α)) :
    lookupIn j (l.dropWhile fun e => decide (e.1 ≤ k)) = none := by
  induction l with
  | nil => rfl
  | cons e t ih =>
    obtain ⟨a, b⟩ := e
    by_cases ha : a ≤ k
    · rw [List.dropWhile_cons_of_pos (by simpa using ha), ih]
    · rw [List.dropWhile_cons_of_neg (by simpa using ha)]
      have h1 : j ≠ a := by omega
      have h2 : j < a := by omega
      simp [lookupIn, h1, h2]

theorem lookupIn_eraseIn_self {α : Type} (k : Nat) (l : List (Nat × α)) : lookupIn k (eraseIn k l) = none := by
  induction l with
  | nil => rfl
  | cons e t ih =>
    obtain ⟨a, b⟩ := e
    simp only [eraseIn]
    split
    · rename_i h
      have h1 : k ≠ a := by omega
      simp [lookupIn, h1, h]
    · split
      · exact lookupIn_dropWhile_le (Nat.le_refl k) t
      · simp [lookupIn, *]

theorem lookupIn_eraseIn_ne {α : Type} {j k : Nat} (h : j ≠ k) (l : List (Nat × α)) :
    lookupIn j (eraseIn k l) = lookupIn j l := by
  induction l with
  | nil => rfl
  | cons e t ih =>
    obtain ⟨a, b⟩ := e
    simp only [eraseIn]
    split
    · rfl
    · split
      · subst k
        by_cases hj : j < a
        · rw [lookupIn_dropWhile_le (Nat.le_of_lt hj)]
          simp [lookupIn, h, hj]
        · rw [lookupIn_dropWhile (by omega) h]
          simp [lookupIn, h, hj]
      · simp [lookupIn, ih]

@[simp] theorem Tab.find_empty {α : Type} (k : Nat) : (Tab.empty : Tab α).find k = none := rfl

@[simp] theorem Tab.find_insert_self {α : Type} (t : Tab α) (k : Nat) (v : α) : (t.insert k v).find k = some v :=
  lookupIn_insertIn_self k v t.entries

theorem Tab.find_insert_ne {α : Type} (t : Tab α) {j k : Nat} (h : j ≠ k) (v : α) : (t.insert k v).find j = t.find j :=
  lookupIn_insertIn_ne h v t.entries

theorem Tab.find_insert {α : Type} (t : Tab α) (j k : Nat) (v : α) :
    (t.insert k v).find j = if j = k then some v else t.find j := by
  split
  · subst j; simp
  · exact t.find_insert_ne ‹_› v

@[simp] theorem Tab.find_erase_self {α : Type} (t : Tab α) (k : Nat) : (t.erase k).find k = none :=
  lookupIn_eraseIn_self k t.entries

theorem Tab.find_erase_ne {α : Type} (t : Tab α) {j k : Nat} (h : j ≠ k) : (t.erase k).find j = t.find j :=
  lookupIn_eraseIn_ne h t.entries

@[simp] theorem Tab.get_set_self {α : Type} [DecidableEq α] (d : Nat → α) (t : Tab α) (k : Nat) (v : α) :
    Tab.get d (Tab.set d t k v) k = v := by
  simp only [Tab.get, Tab.set]
  split <;> simp [*]

theorem Tab.get_set_ne {α : Type} [DecidableEq α] (d : Nat → α) (t : Tab α) {j k : Nat} (h : j ≠ k) (v : α) :
    Tab.get d (Tab.set d t k v) j = Tab.get d t j := by
  simp only [Tab.get, Tab.set]
  split
  · rw [t.find_erase_ne h]
  · rw [t.find_insert_ne h]

theorem Tab.get_set {α : Type} [DecidableEq α] (d : Nat → α) (t : Tab α) (j k : Nat) (v : α) :
    Tab.get d (Tab.set d t k v) j = if j = k then v else Tab.get d t j := by
  split
  · subst j; simp
  · exact Tab.get_set_ne d t ‹_› v

/-! ### The canonical form -/

theorem risingKeys_cons {α : Type} (e : Nat × α) (l : List (Nat × α)) :
    risingKeys (e :: l) = true ↔ (∀ x ∈ l.head?, e.1 < x.1) ∧ risingKeys l = true := by
  obtain ⟨a, b⟩ := e
  cases l with
  | nil => simp [risingKeys]
  | cons x t => obtain ⟨c, d⟩ := x; simp [risingKeys]

theorem head?_insertIn {α : Type} (k : Nat) (v : α) (l : List (Nat × α)) {x : Nat × α}
    (h : x ∈ (insertIn k v l).head?) : x.1 = k ∨ x ∈ l.head? := by
  cases l with
  | nil => simp [insertIn] at h; simp [← h]
  | cons e t =>
    obtain ⟨a, b⟩ := e
    simp only [insertIn] at h
    split at h
    · simp at h; simp [← h]
    · split at h
      · simp at h; simp [← h]
      · simp at h; simp [h]

theorem risingKeys_insertIn {α : Type} (k : Nat) (v : α) {l : List (Nat × α)} (h : risingKeys l = true) :
    risingKeys (insertIn k v l) = true := by
  induction l with
  | nil => rfl
  | cons e t ih =>
    obtain ⟨a, b⟩ := e
    rw [risingKeys_cons] at h
    simp only [insertIn]
    split
    · rename_i hk
      rw [risingKeys_cons]
      exact ⟨by simpa using hk, by rw [risingKeys_cons]; exact h⟩
    · split
      · subst k
        rw [risingKeys_cons]; exact h
      · rw [risingKeys_cons]
        refine ⟨fun x hx => ?_, ih h.2⟩
        rcases head?_insertIn k v t hx with hx | hx
        · simp only [hx]; omega
        · exact h.1 x hx

theorem risingKeys_iff_pairwise {α : Type} (l : List (Nat × α)) :
    risingKeys l = true ↔ l.Pairwise fun x y => x.1 < y.1 := by
  induction l with
  | nil => simp [risingKeys]
  | cons e t ih =>
    rw [risingKeys_cons, ih, List.pairwise_cons]
    refine and_congr_left fun ht => ⟨fun h x hx => ?_, fun h x hx => h x (List.mem_of_mem_head? hx)⟩
    cases t with
    | nil => simp at hx
    | cons y t =>
      have hy := h y (by simp)
      rcases List.mem_cons.1 hx with rfl | hx
      · exact hy
      · exact Nat.lt_trans hy ((List.pairwise_cons.1 ht).1 x hx)

theorem mem_of_mem_insertIn {α : Type} (k : Nat) (v : α) {l : List (Nat × α)} {x : Nat × α}
    (h : x ∈ insertIn k v l) : x = (k, v) ∨ x ∈ l := by
  induction l with
  | nil => simpa [insertIn] using h
  | cons e t ih =>
    obtain ⟨a, b⟩ := e
    simp only [insertIn] at h
    split at h
    · simpa using h
    · split at h
      · rcases List.mem_cons.1 h with h | h
        · exact .inl h
        · exact .inr (List.mem_cons_of_mem _ h)
      · rcases List.mem_cons.1 h with h | h
        · exact .inr (by simp [h])
        · rcases ih h with h | h
          · exact .inl h
          · exact .inr (List.mem_cons_of_mem _ h)

theorem eraseIn_sublist {α : Type} (k : Nat) (l : List (Nat × α)) : (eraseIn k l).Sublist l := by
  induction l with
  | nil => exact List.Sublist.refl _
  | cons e t ih =>
    obtain ⟨a, b⟩ := e
    simp only [eraseIn]
    split
    · exact List.Sublist.refl _
    · split
      · exact (List.dropWhile_sublist _).cons _
      · exact ih.cons_cons _

theorem Tab.wf_iff {α : Type} [DecidableEq α] (d : Nat → α) (t : Tab α) :
    Tab.wf d t = true ↔ (t.entries.Pairwise fun x y => x.1 < y.1) ∧ ∀ e ∈ t.entries, e.2 ≠ d e.1 := by
  simp [Tab.wf, risingKeys_iff_pairwise]

theorem Tab.wf_empty {α : Type} [DecidableEq α] (d : Nat → α) : Tab.wf d Tab.empty = true := by
  simp [Tab.wf, Tab.empty, risingKeys]

theorem Tab.wf_sublist {α : Type} [DecidableEq α] (d : Nat → α) {t u : Tab α} (h : Tab.wf d t = true)
    (hs : u.entries.Sublist t.entries) : Tab.wf d u = true := by
  rw [Tab.wf_iff] at *
  exact ⟨h.1.sublist hs, fun e he => h.2 e (hs.subset he)⟩

theorem Tab.wf_erase {α : Type} [DecidableEq α] (d : Nat → α) {t : Tab α} (h : Tab.wf d t = true) (k : Nat) :
    Tab.wf d (t.erase k) = true :=
  Tab.wf_sublist d h (eraseIn_sublist k t.entries)

theorem Tab.wf_keep {α : Type} [DecidableEq α] (d : Nat → α) {t : Tab α} (h : Tab.wf d t = true)
    (p : Nat → α → Bool) : Tab.wf d (t.keep p) = true :=
  Tab.wf_sublist d h List.filter_sublist

theorem Tab.wf_insert {α : Type} [DecidableEq α] (d : Nat → α) {t : Tab α} (h : Tab.wf d t = true) (k : Nat) (v : α)
    (hv : v ≠ d k) : Tab.wf d (t.insert k v) = true := by
  rw [Tab.wf_iff, ← risingKeys_iff_pairwise] at *
  refine ⟨risingKeys_insertIn k v h.1, fun e he => ?_⟩
  rcases mem_of_mem_insertIn k v he with rfl | he
  · exact hv
  · exact h.2 e he

theorem Tab.wf_set {α : Type} [DecidableEq α] (d : Nat → α) {t : Tab α} (h : Tab.wf d t = true) (k : Nat) (v : α) :
    Tab.wf d (Tab.set d t k v) = true := by
  unfold Tab.set
  split
  · exact Tab.wf_erase d h k
  · exact Tab.wf_insert d h k v ‹_›

/-! ### Byte memories -/

theorem Memory.byte_setByte (m : Memory) (a x : Nat) (b : Byte) :
    Memory.byte (m.setByte a b) x = if x = a then b else m.byte x :=
  Tab.get_set memDefault m x a b

theorem Memory.wf_empty : Memory.wf Tab.empty = true := Tab.wf_empty _

theorem Memory.wf_setByte {m : Memory} (h : m.wf = true) (a : Nat) (b : Byte) : Memory.wf (m.setByte a b) = true :=
  Tab.wf_set memDefault h a b

theorem Memory.wf_write {m : Memory} (h : m.wf = true) (a : Nat) (bs : Bytes) : Memory.wf (m.write a bs) = true := by
  induction bs generalizing m a with
  | nil => exact h
  | cons b t ih => exact ih (Memory.wf_setByte h a b) (a + 1)

theorem Memory.wf_clear {m : Memory} (h : m.wf = true) (a n : Nat) : Memory.wf (m.clear a n) = true :=
  Tab.wf_keep memDefault h _

/-- A write leaves every byte outside it alone. -/
theorem Memory.byte_write_of_lt (m : Memory) {a x : Nat} (h : x < a) (bs : Bytes) :
    Memory.byte (m.write a bs) x = m.byte x := by
  induction bs generalizing m a with
  | nil => rfl
  | cons b t ih =>
    rw [Memory.write, ih _ (by omega), Memory.byte_setByte, if_neg (by omega)]

/-- A byte after a write is the written one inside it and the old one outside it. -/
theorem Memory.byte_write (m : Memory) (a x : Nat) (bs : Bytes) :
    Memory.byte (m.write a bs) x = if a ≤ x ∧ x < a + bs.length then bs.getD (x - a) 0 else m.byte x := by
  induction bs generalizing m a with
  | nil => simp [Memory.write]
  | cons b t ih =>
    rw [Memory.write]
    by_cases hx : x = a
    · subst x
      rw [Memory.byte_write_of_lt _ (by omega), Memory.byte_setByte]
      simp
    · rw [ih, Memory.byte_setByte, if_neg hx]
      by_cases h : a + 1 ≤ x ∧ x < a + 1 + t.length
      · rw [if_pos h, if_pos ⟨by omega, by simp; omega⟩]
        obtain ⟨n, hn⟩ : ∃ n, x - a = n + 1 := ⟨x - a - 1, by omega⟩
        rw [hn, List.getD_cons_succ]
        congr 1
        omega
      · rw [if_neg h, if_neg]
        simp only [List.length_cons]
        omega

/-- Reading what was just written. -/
theorem Memory.read_write_self (m : Memory) (a : Nat) (bs : Bytes) : Memory.read (m.write a bs) a bs.length = bs := by
  induction bs generalizing m a with
  | nil => rfl
  | cons b t ih =>
    rw [List.length_cons, Memory.read, Memory.write, ih, Memory.byte_write_of_lt _ (by omega), Memory.byte_setByte]
    simp

/-- Reading a range that a write does not touch. -/
theorem Memory.read_write_disjoint (m : Memory) (a : Nat) (bs : Bytes) (x n : Nat)
    (h : x + n ≤ a ∨ a + bs.length ≤ x) : Memory.read (m.write a bs) x n = m.read x n := by
  induction n generalizing x with
  | zero => rfl
  | succ n ih =>
    rw [Memory.read, Memory.read, ih (x + 1) (by omega), Memory.byte_write, if_neg (by omega)]

end Sys2Proof.Machine
end

