-- ==== Sys2Proof/Laws/Regs.lean ====
section
/-! SUPPORT. Reading registers and their fields after a write. -/

namespace Sys2Proof.Machine

@[simp] theorem State.reg_setReg_self (s : State) (off : Nat) (v : Word64) : (s.setReg off v).reg off = v :=
  Tab.get_set_self regDefault s.regs off v

theorem State.reg_setReg_ne (s : State) {a b : Nat} (h : a ≠ b) (v : Word64) : (s.setReg b v).reg a = s.reg a :=
  Tab.get_set_ne regDefault s.regs h v

theorem State.reg_setReg (s : State) (a b : Nat) (v : Word64) : (s.setReg b v).reg a = if a = b then v else s.reg a :=
  Tab.get_set regDefault s.regs a b v

theorem State.reg_setFld_ne (s : State) {a b : Nat} (h : a ≠ b) (f : Fld) (x : Nat) : (s.setFld b f x).reg a = s.reg a :=
  s.reg_setReg_ne h _

theorem State.reg_setFld (s : State) (a b : Nat) (f : Fld) (x : Nat) :
    (s.setFld b f x).reg a = if a = b then putFld f (s.reg b) x else s.reg a :=
  s.reg_setReg a b _

/-- Bits of a word with a field replaced. -/
theorem getLsbD_putFld (f : Fld) (hf : f.lo + f.len ≤ 64) (v : Word64) (x i : Nat) :
    (putFld f v x).getLsbD i = if f.lo ≤ i ∧ i < f.lo + f.len then x.testBit (i - f.lo) else v.getLsbD i := by
  have mask : ∀ j, (BitVec.ofNat 64 ((2 ^ f.len - 1) * 2 ^ f.lo)).getLsbD j = (decide (f.lo ≤ j) && decide (j < f.lo + f.len)) := by
    intro j
    rw [BitVec.getLsbD_ofNat, Nat.testBit_mul_two_pow, Nat.testBit_two_pow_sub_one]
    by_cases h1 : f.lo ≤ j <;> by_cases h2 : j < f.lo + f.len
    · have : j - f.lo < f.len := by omega
      have : j < 64 := by omega
      simp [*]
    · have : ¬ j - f.lo < f.len := by omega
      simp [*]
    · simp [h1]
    · simp [h1]
  have val : ∀ j, (BitVec.ofNat 64 (x % 2 ^ f.len * 2 ^ f.lo)).getLsbD j =
      (decide (j < 64) && (decide (f.lo ≤ j) && (decide (j - f.lo < f.len) && x.testBit (j - f.lo)))) := by
    intro j
    rw [BitVec.getLsbD_ofNat, Nat.testBit_mul_two_pow, Nat.testBit_mod_two_pow]
  unfold putFld
  simp only [BitVec.getLsbD_or, BitVec.getLsbD_and, BitVec.getLsbD_not, mask, val]
  by_cases h1 : f.lo ≤ i <;> by_cases h2 : i < f.lo + f.len
  · have h3 : i - f.lo < f.len := by omega
    have h4 : i < 64 := by omega
    simp [h1, h2, h3, h4]
  · simp only [h1, h2, decide_false, Bool.and_false, Bool.not_false, Bool.and_true, Bool.or_false, and_false, if_false]
    by_cases h4 : i < 64
    · simp [h4]
    · simp [h4, BitVec.getLsbD_of_ge v i (by omega)]
  · simp only [h1, h2, decide_false, Bool.and_false, Bool.not_false, Bool.and_true, Bool.or_false, if_false, Bool.false_and, false_and]
    by_cases h4 : i < 64
    · simp [h4]
    · simp [h4, BitVec.getLsbD_of_ge v i (by omega)]
  · simp only [h1, h2, decide_false, Bool.and_false, Bool.not_false, Bool.and_true, Bool.or_false, and_false, if_false, Bool.false_and]
    by_cases h4 : i < 64
    · simp [h4]
    · simp [h4, BitVec.getLsbD_of_ge v i (by omega)]

theorem testBit_natField (v lo len i : Nat) : (natField v lo len).testBit i = (decide (i < len) && v.testBit (lo + i)) := by
  rw [natField, Nat.testBit_mod_two_pow, ← Nat.shiftRight_eq_div_pow, Nat.testBit_shiftRight]

/-- A field reads as the value last written to it. -/
theorem getFld_putFld_self (f : Fld) (hf : f.lo + f.len ≤ 64) (v : Word64) (x : Nat) :
    getFld f (putFld f v x) = x % 2 ^ f.len := by
  apply Nat.eq_of_testBit_eq
  intro i
  rw [getFld, testBit_natField, Nat.testBit_mod_two_pow, BitVec.testBit_toNat, getLsbD_putFld f hf]
  by_cases h : i < f.len
  · simp [h]
  · simp [h]

/-- Writing a field leaves a field that it does not overlap alone. -/
theorem getFld_putFld_other (f g : Fld) (hf : f.lo + f.len ≤ 64) (h : g.lo + g.len ≤ f.lo ∨ f.lo + f.len ≤ g.lo)
    (v : Word64) (x : Nat) : getFld g (putFld f v x) = getFld g v := by
  apply Nat.eq_of_testBit_eq
  intro i
  simp only [getFld, testBit_natField, BitVec.testBit_toNat]
  by_cases hi : i < g.len
  · rw [getLsbD_putFld f hf, if_neg (by omega)]
  · simp [hi]

@[simp] theorem State.fld_setReg_self (s : State) (off : Nat) (v : Word64) (f : Fld) : (s.setReg off v).fld off f = getFld f v := by
  simp [State.fld]

theorem State.fld_setReg_ne (s : State) {a b : Nat} (h : a ≠ b) (v : Word64) (f : Fld) :
    (s.setReg b v).fld a f = s.fld a f := by
  simp [State.fld, s.reg_setReg_ne h]

theorem State.fld_setFld_self (s : State) (off : Nat) (f : Fld) (hf : f.lo + f.len ≤ 64) (x : Nat) :
    (s.setFld off f x).fld off f = x % 2 ^ f.len := by
  simp [State.fld, State.setFld, getFld_putFld_self f hf]

theorem State.fld_setFld_ne (s : State) {a b : Nat} (h : a ≠ b) (f g : Fld) (x : Nat) :
    (s.setFld b f x).fld a g = s.fld a g :=
  s.fld_setReg_ne h _ g

theorem State.fld_setFld_other (s : State) (a b : Nat) (f g : Fld) (hf : f.lo + f.len ≤ 64)
    (h : g.lo + g.len ≤ f.lo ∨ f.lo + f.len ≤ g.lo) (x : Nat) : (s.setFld b f x).fld a g = s.fld a g := by
  by_cases hab : a = b
  · subst hab
    simp [State.fld, State.setFld, getFld_putFld_other f g hf h]
  · exact s.fld_setFld_ne hab f g x

end Sys2Proof.Machine
end

