-- ==== Sys2Proof/Laws/Ops.lean ====
section
/-! SUPPORT. One law for each operation that the meanings share: when a command reaches its unit, what a core, kennel or
port reads as after a change, and when the Heel sessions have nothing to follow. -/

namespace Sys2Proof.Machine

/-! ### When a command reaches the device -/

theorem act_live {s : State} (h : s.live = true) (f : State → State) : act f s = .next (f s) := by simp [act, h]

theorem act_not_live {s : State} (h : s.live = false) (f : State → State) : act f s = .next s := by simp [act, h]

theorem hostAct_reaches {s : State} {off : Nat} (h : s.hostReaches off = true) (f : State → State) :
    hostAct off f s = .next (f s) := by simp [hostAct, h]

theorem hostAct_not {s : State} {off : Nat} (h : s.hostReaches off = false) (f : State → State) :
    hostAct off f s = .next s := by simp [hostAct, h]

/-! ### Units held in tables -/

@[simp] theorem State.core_setCore_self (s : State) (c : Nat) (x : Core) : (s.setCore c x).core c = x := by
  simp [State.core, State.setCore]

theorem State.core_setCore_ne (s : State) {a b : Nat} (h : a ≠ b) (x : Core) : (s.setCore b x).core a = s.core a := by
  simp [State.core, State.setCore, Tab.find_insert_ne _ h]

@[simp] theorem State.kennel_setKennel_self (s : State) (k : Nat) (x : Kennel) : (s.setKennel k x).kennel k = x := by
  simp [State.kennel, State.setKennel]

theorem State.kennel_setKennel_ne (s : State) {a b : Nat} (h : a ≠ b) (x : Kennel) :
    (s.setKennel b x).kennel a = s.kennel a := by
  simp [State.kennel, State.setKennel, Tab.find_insert_ne _ h]

@[simp] theorem State.kennel_setCore (s : State) (c k : Nat) (x : Core) : (s.setCore c x).kennel k = s.kennel k := rfl
@[simp] theorem State.core_setKennel (s : State) (c k : Nat) (x : Kennel) : (s.setKennel k x).core c = s.core c := rfl

@[simp] theorem State.port_setPort_self (s : State) (p : Nat) (x : Port) : (s.setPort p x).port p = x := by
  simp [State.port, State.setPort]

theorem State.port_setPort_ne (s : State) {a b : Nat} (h : a ≠ b) (x : Port) : (s.setPort b x).port a = s.port a := by
  simp [State.port, State.setPort, Tab.find_insert_ne _ h]

@[simp] theorem State.chkUnit_setChk_self (s : State) (u : Nat) (x : ChkUnit) : (s.setChk u x).chkUnit u = x := by
  simp [State.chkUnit, State.setChk]

@[simp] theorem State.briEngine_setBri_self (s : State) (e : Nat) (x : BriEngine) : (s.setBri e x).briEngine e = x := by
  simp [State.briEngine, State.setBri]

@[simp] theorem State.heelSession_setHeel_self (s : State) (k : Nat) (x : HeelSession) : (s.setHeel k x).heelSession k = x := by
  simp [State.heelSession, State.setHeel]

/-! ### Registers of a core -/

@[simp] theorem Core.getS_zero (c : Core) : c.getS 0 = 0 := rfl

@[simp] theorem Core.setS_zero (c : Core) (v : BitVec 64) : c.setS 0 v = c := rfl

theorem Core.getS_setS (c : Core) (a b : Nat) (v : BitVec 64) :
    (c.setS b v).getS a = if a = b ∧ b ≠ 0 then v else c.getS a := by
  unfold Core.getS Core.setS
  by_cases hb : b = 0
  · simp [hb]
  · by_cases ha : a = 0
    · subst ha; simp [Ne.symm hb]
    · simp only [hb, ha, if_false, Tab.get_set]
      by_cases hab : a = b <;> simp [hab, hb]

theorem Core.getW_setW (c : Core) (a b : Nat) (v : BitVec 2048) : (c.setW b v).getW a = if a = b then v else c.getW a :=
  Tab.get_set _ _ _ _ _

theorem Core.getP_setP (c : Core) (a b : Nat) (v : BitVec 256) :
    (c.setP b v).getP a = if a = b ∧ b ≠ 0 then v else c.getP a := by
  unfold Core.getP Core.setP
  by_cases hb : b = 0
  · simp [hb]
  · by_cases ha : a = 0
    · subst ha; simp [Ne.symm hb]
    · simp only [hb, ha, if_false, Tab.get_set]
      by_cases hab : a = b <;> simp [hab, hb]

/-! ### Heel sessions -/

/-- With no session paired there is nothing to settle. -/
theorem State.heelSettle_unpaired {s : State} (h : ∀ k, k < 4 → s.heelState k ≠ heelPaired) : s.heelSettle = s := by
  have h0 := h 0 (by omega)
  have h1 := h 1 (by omega)
  have h2 := h 2 (by omega)
  have h3 := h 3 (by omega)
  simp [State.heelSettle, h0, h1, h2, h3]

/-- With the job of every paired session active there is nothing to settle. -/
theorem State.heelSettle_active {s : State} (h : ∀ k, k < 4 → s.heelState k = heelPaired → s.jobActive (s.heelJob k) = true) :
    s.heelSettle = s := by
  have step : ∀ k, k < 4 → (s.heelState k = heelPaired && !s.jobActive (s.heelJob k)) = false := by
    intro k hk
    by_cases hp : s.heelState k = heelPaired
    · simp [h k hk hp]
    · simp [hp]
  have h0 := step 0 (by omega)
  have h1 := step 1 (by omega)
  have h2 := step 2 (by omega)
  have h3 := step 3 (by omega)
  unfold State.heelSettle
  simp only [List.foldl, h0, h1, h2, h3, Bool.false_and, Bool.false_eq_true, if_false]

end Sys2Proof.Machine
end

