-- ==== Sys2Proof/Laws/Cores.lean ====
section
/-! SUPPORT. What the rows of the core instructions can do: the body runs, or the form is illegal, or the predicate
disables it; where a jump goes; what an access does. -/

namespace Sys2Proof.Machine

/-- A legal instruction that its predicate enables does what its body says. -/
theorem coreRow_runs {s : State} {core : Nat} {f : Fields} {retry : Blocked} {legal scalar : Bool}
    (body : Core → State → State) (h : s.takes core f retry = true) (hl : legal = true)
    (he : scalar = true → (s.core core).executes f = true) :
    coreRow core f retry legal scalar body s = .next (body (s.core core) s) := by
  simp only [State.takes, Bool.and_eq_true, decide_eq_true_eq] at h
  cases scalar <;> simp_all [coreRow, act]

/-- A core that could take an instruction and finds an unassigned opcode raises EX_ILLEGAL (R69). -/
theorem coreRow_unassigned {s : State} {core : Nat} {f : Fields} {retry : Blocked} {legal scalar : Bool}
    (body : Core → State → State) (hl : s.live = true) (hc : s.hasCore core = true) (hr : s.coreReady core retry = true)
    (hf : f.check = .clean) (ho : s.opcodeOk core = false) :
    coreRow core f retry legal scalar body s = .next (s.exception core EX_ILLEGAL) := by
  simp_all [coreRow, act]

/-- An uncorrectable error raises EX_MCHECK (R76, R86). -/
theorem coreRow_fatal {s : State} {core : Nat} {f : Fields} {retry : Blocked} {legal scalar : Bool}
    (body : Core → State → State) (hl : s.live = true) (hc : s.hasCore core = true) (hr : s.coreReady core retry = true)
    (hf : f.check = .fatal) : coreRow core f retry legal scalar body s = .next (s.exception core EX_MCHECK) := by
  simp_all [coreRow, act]

/-- Counting a corrected error changes nothing that an instruction waits for. -/
theorem State.coreReady_countEcc (s : State) (core : Nat) (retry : Blocked) :
    (s.countEcc core).coreReady core retry = s.coreReady core retry := by
  have hb : (s.countEcc core).bindingOf core = s.bindingOf core := by simp [State.bindingOf, State.countEcc]
  have he : (s.countEcc core).exhausted core = s.exhausted core := by
    unfold State.exhausted State.programOf
    rw [hb]
    rfl
  unfold State.coreReady State.coreRuns
  rw [hb, he]
  rfl

/-- A corrected error is counted, and the instruction then does what it does without one (R76). -/
theorem coreRow_corrected {s : State} {core : Nat} {f : Fields} {retry : Blocked} {legal scalar : Bool}
    (body : Core → State → State) (hl : s.live = true) (hr : s.coreReady core retry = true) (hf : f.check = .corrected) :
    coreRow core f retry legal scalar body s = coreRow core { f with check := .clean } retry legal scalar body (s.countEcc core) := by
  have h1 : (s.countEcc core).coreReady core retry = true := by rw [State.coreReady_countEcc, hr]
  have h2 : (s.countEcc core).hasCore core = s.hasCore core := rfl
  have h3 : (s.countEcc core).live = true := hl
  unfold coreRow act
  rw [h2, h3, hl]
  split
  · rfl
  · simp only [hr, h1, hf]
    rfl

/-- An illegal form raises EX_ILLEGAL (R69). -/
theorem coreRow_illegal {s : State} {core : Nat} {f : Fields} {retry : Blocked} {legal scalar : Bool}
    (body : Core → State → State) (h : s.takes core f retry = true) (hl : legal = false) :
    coreRow core f retry legal scalar body s = .next (s.exception core EX_ILLEGAL) := by
  simp only [State.takes, Bool.and_eq_true, decide_eq_true_eq] at h
  simp_all [coreRow, act]

/-- A scalar instruction that its predicate disables only retires (R68). -/
theorem coreRow_disabled {s : State} {core : Nat} {f : Fields} {retry : Blocked} {legal : Bool}
    (body : Core → State → State) (h : s.takes core f retry = true) (hl : legal = true)
    (he : (s.core core).executes f = false) :
    coreRow core f retry legal true body s = .next (s.setCore core (s.core core).retire) := by
  simp only [State.takes, Bool.and_eq_true, decide_eq_true_eq] at h
  simp_all [coreRow, act]

/-- A core that takes no instruction leaves the device as it is. -/
theorem coreRow_waits {s : State} {core : Nat} {f : Fields} {retry : Blocked} {legal scalar : Bool}
    (body : Core → State → State) (h : s.hasCore core = true) (hr : (s.live && s.coreReady core retry) = false) :
    coreRow core f retry legal scalar body s = .next s := by
  simp only [coreRow, act, h]
  cases hl : s.live <;> simp_all

/-- A command for a core that the part does not have is a fault. -/
theorem coreRow_noSuchUnit {s : State} {core : Nat} {f : Fields} {retry : Blocked} {legal scalar : Bool}
    (body : Core → State → State) (h : s.hasCore core = false) :
    coreRow core f retry legal scalar body s = .fault .noSuchUnit := by
  simp [coreRow, h]

/-! ### Jumps -/

theorem State.jump_inside {s : State} {core : Nat} {target : Int} (c : Core) (h0 : 0 ≤ target) (h1 : target < 4096)
    (h2 : target % 8 = 0) : s.jump core target c = s.setCore core { c.retire with pc := target.toNat } := by
  rw [State.jump, if_neg (by simp; omega), if_neg (by omega)]

theorem State.jump_outside {s : State} {core : Nat} {target : Int} (c : Core) (h : target < 0 ∨ 4096 ≤ target) :
    s.jump core target c = s.exception core EX_ADDR := by
  rw [State.jump, if_pos (by simpa using h)]

theorem State.jump_unaligned {s : State} {core : Nat} {target : Int} (c : Core) (h0 : 0 ≤ target) (h1 : target < 4096)
    (h2 : target % 8 ≠ 0) : s.jump core target c = s.exception core EX_ALIGN := by
  rw [State.jump, if_neg (by simp; omega), if_pos h2]

/-! ### Accesses -/

theorem State.access_faults {s : State} {core : Nat} {f : Fields} {n align : Nat} {write : Bool} {code : Nat}
    (go : Core → Nat → State → State) (h : s.accessFault core ((s.core core).address f) n align write = some code) :
    s.access core f n align write go = s.exception core code := by
  simp [State.access, h]

theorem State.access_waits {s : State} {core : Nat} {f : Fields} {n align : Nat} {write : Bool}
    (go : Core → Nat → State → State) (h : s.accessFault core ((s.core core).address f) n align write = none)
    (ht : (s.core core).tagged ((s.core core).address f) n write = true) :
    s.access core f n align write go = s.setCore core { s.core core with blocked := .tag } := by
  simp [State.access, h, ht]

theorem State.access_goes {s : State} {core : Nat} {f : Fields} {n align : Nat} {write : Bool}
    (go : Core → Nat → State → State) (h : s.accessFault core ((s.core core).address f) n align write = none)
    (ht : (s.core core).tagged ((s.core core).address f) n write = false) :
    s.access core f n align write go = go (s.core core) ((s.core core).address f) s := by
  simp [State.access, h, ht]

/-- A load or store of the core's memory finds no fault only inside the map, and aligned. -/
theorem State.accessFault_none {s : State} {c a n align : Nat} {write : Bool} (h : s.accessFault c a n align write = none) :
    coreSpaceOf a n ≠ .nowhere ∧ a % align = 0 := by
  unfold State.accessFault at h
  constructor
  · intro hn
    simp [hn] at h
  · by_contra hn
    simp only [hn, ne_eq, not_false_eq_true, if_true] at h
    split at h <;> simp at h

/-- The address map in plain numbers (Table 3-7). -/
theorem coreSpaceOf_eq (b m : Nat) : coreSpaceOf b m =
    if 0x10000 ≤ b ∧ b + m ≤ 0x13000 then .data else if 0x100000 ≤ b ∧ b + m ≤ 0x140000 then .store else .nowhere := by
  have hd : (decide (dmemBase ≤ b) && decide (b + m ≤ dmemBase + 0x3000)) = decide (0x10000 ≤ b ∧ b + m ≤ 0x13000) := by
    rw [← Bool.decide_and]; exact decide_eq_decide.2 Iff.rfl
  have hs : (decide (storeBase ≤ b) && decide (b + m ≤ storeBase + 0x40000)) = decide (0x100000 ≤ b ∧ b + m ≤ 0x140000) := by
    rw [← Bool.decide_and]; exact decide_eq_decide.2 Iff.rfl
  unfold coreSpaceOf
  rw [hd, hs]
  simp

/-! ### Writing core memory -/

/-- A byte string read from memory right after it was written there, in part. -/
theorem Memory.read_write_inside (m : Memory) (a : Nat) (bs : Bytes) (x n : Nat) (h1 : a ≤ x) (h2 : x + n ≤ a + bs.length) :
    Memory.read (m.write a bs) x n = (bs.drop (x - a)).take n := by
  induction n generalizing x with
  | zero => simp [Memory.read]
  | succ n ih =>
    rw [Memory.read, ih (x + 1) (by omega) (by omega), Memory.byte_write, if_pos (by omega)]
    have hlt : x - a < bs.length := by omega
    rw [List.drop_eq_getElem_cons hlt, List.take_succ_cons, List.getD_eq_getElem _ _ hlt]
    congr 3
    omega

/-- What a write of core memory, of a core that retires, leaves: its bytes read back, every byte outside them reads as
before, and nothing but the core's own memory or its kennel's store changes. -/
theorem State.coreWrite_law (s : State) (core a : Nat) (bs : Bytes) (c : Core) (hc : c.dmem = (s.core core).dmem)
    (hsp : coreSpaceOf a bs.length ≠ .nowhere) :
    let t := (s.setCore core c).coreWrite core a bs
    (∀ m x, 0 < m → a ≤ x → x + m ≤ a + bs.length → t.coreRead core x m = (bs.drop (x - a)).take m) ∧
    (∀ j x, ¬ (a ≤ x ∧ x < a + bs.length ∧ (j = core ∨ (j / 80 = core / 80 ∧ 0x100000 ≤ x))) →
      t.coreRead j x 1 = s.coreRead j x 1) ∧
    (∃ d, t.core core = { c with dmem := d }) ∧ (∀ j, j ≠ core → t.core j = s.core j) ∧
    (∀ k, ∃ b, t.kennel k = { s.kennel k with store := b }) ∧ t = { s with cores := t.cores, kennels := t.kennels } := by
  have hk : ∀ j, kennelOf j = j / 80 := fun j => rfl
  cases h : coreSpaceOf a bs.length with
  | nowhere => exact absurd h hsp
  | data =>
    have hr : 0x10000 ≤ a ∧ a + bs.length ≤ 0x13000 := by
      rw [coreSpaceOf_eq] at h
      by_contra hn
      rw [if_neg hn] at h
      split at h <;> simp at h
    have ht : (s.setCore core c).coreWrite core a bs =
        (s.setCore core c).setCore core { c with dmem := (s.core core).dmem.write (a - dmemBase) bs } := by
      unfold State.coreWrite
      rw [h]
      simp [hc]
    intro t
    have ht : t = _ := ht
    have hcore : t.core core = { c with dmem := (s.core core).dmem.write (a - dmemBase) bs } := by rw [ht]; simp
    have hother : ∀ j, j ≠ core → t.core j = s.core j := by
      intro j hj
      rw [ht, State.core_setCore_ne _ hj, State.core_setCore_ne _ hj]
    have hken : ∀ k, t.kennel k = s.kennel k := by intro k; rw [ht]; rfl
    refine ⟨fun m x hm h1 h2 => ?_, fun j x hx => ?_, ⟨_, hcore⟩, hother, fun k => ⟨(s.kennel k).store, by rw [hken k]⟩, by rw [ht]; rfl⟩
    · have hxs : coreSpaceOf x m = .data := by rw [coreSpaceOf_eq, if_pos (by omega)]
      unfold State.coreRead
      rw [hxs]
      simp only [hcore]
      rw [Memory.read_write_inside _ _ _ _ _ (by omega) (by simp only [dmemBase]; omega)]
      have e : x - dmemBase - (a - dmemBase) = x - a := by
        have : dmemBase ≤ a := by simp only [dmemBase]; omega
        omega
      rw [e]
    · unfold State.coreRead
      cases hxs : coreSpaceOf x 1 with
      | nowhere => rfl
      | store => simp only [hken]
      | data =>
        have hxr : 0x10000 ≤ x ∧ x + 1 ≤ 0x13000 := by
          rw [coreSpaceOf_eq] at hxs
          by_contra hn
          rw [if_neg hn] at hxs
          split at hxs <;> simp at hxs
        by_cases hj : j = core
        · subst hj
          simp only [hcore]
          apply Memory.read_write_disjoint
          simp only [dmemBase]
          by_contra hn
          exact hx ⟨by omega, by omega, .inl rfl⟩
        · simp only [hother j hj]
  | store =>
    have hr : 0x100000 ≤ a ∧ a + bs.length ≤ 0x140000 := by
      rw [coreSpaceOf_eq] at h
      by_contra hn
      rw [if_neg hn] at h
      split at h <;> simp at h
    have ht : (s.setCore core c).coreWrite core a bs = (s.setCore core c).setKennel (core / 80)
        { s.kennel (core / 80) with store := (s.kennel (core / 80)).store.write (a - storeBase) bs } := by
      unfold State.coreWrite
      rw [h]
      rfl
    intro t
    have ht : t = _ := ht
    have hcore : t.core core = c := by rw [ht]; simp
    have hother : ∀ j, j ≠ core → t.core j = s.core j := by
      intro j hj
      rw [ht, State.core_setKennel, State.core_setCore_ne _ hj]
    have hken : t.kennel (core / 80) = { s.kennel (core / 80) with store := (s.kennel (core / 80)).store.write (a - storeBase) bs } := by
      rw [ht]; simp
    have hken2 : ∀ k, k ≠ core / 80 → t.kennel k = s.kennel k := by
      intro k hk
      rw [ht, State.kennel_setKennel_ne _ hk]
      rfl
    refine ⟨fun m x hm h1 h2 => ?_, fun j x hx => ?_, ⟨c.dmem, by rw [hcore]⟩, hother, fun k => ?_, by rw [ht]; rfl⟩
    · have hxs : coreSpaceOf x m = .store := by rw [coreSpaceOf_eq, if_neg (by omega), if_pos (by omega)]
      unfold State.coreRead
      rw [hxs]
      simp only [hk, hken]
      rw [Memory.read_write_inside _ _ _ _ _ (by omega) (by simp only [storeBase]; omega)]
      have e : x - storeBase - (a - storeBase) = x - a := by
        have : storeBase ≤ a := by simp only [storeBase]; omega
        omega
      rw [e]
    · unfold State.coreRead
      cases hxs : coreSpaceOf x 1 with
      | nowhere => rfl
      | data =>
        by_cases hj : j = core
        · subst hj; simp only [hcore, hc]
        · simp only [hother j hj]
      | store =>
        have hxr : 0x100000 ≤ x := by
          rw [coreSpaceOf_eq] at hxs
          split at hxs
          · simp at hxs
          · split at hxs
            · omega
            · simp at hxs
        simp only [hk]
        by_cases hj : j / 80 = core / 80
        · rw [hj, hken]
          apply Memory.read_write_disjoint
          simp only [storeBase]
          by_contra hn
          exact hx ⟨by omega, by omega, .inr ⟨hj, hxr⟩⟩
        · rw [hken2 _ hj]
    · by_cases hkk : k = core / 80
      · subst hkk; exact ⟨_, hken⟩
      · exact ⟨(s.kennel k).store, by rw [hken2 k hkk]⟩

end Sys2Proof.Machine
end

