-- ==== Sys2Proof/Laws/Dispatch.lean ====
section
/-! SUPPORT. The meaning of each command, one equation per constructor. -/

namespace Sys2Proof.Machine

@[simp] theorem exec_registerWrite (offset width : Nat) (value : Word64) (s : State) : exec (.registerWrite offset width value) s = execRegisterWrite offset width value s := rfl
@[simp] theorem exec_pltTimeNsRead (s : State) : exec (.pltTimeNsRead) s = execPltTimeNsRead s := rfl
@[simp] theorem exec_pltMissqRead (port : Fin 5) (s : State) : exec (.pltMissqRead port) s = execPltMissqRead port s := rfl
@[simp] theorem exec_poolMinFreeRead (pool : Fin 64) (s : State) : exec (.poolMinFreeRead pool) s = execPoolMinFreeRead pool s := rfl
@[simp] theorem exec_chkRunningRead (unit : Fin 16) (s : State) : exec (.chkRunningRead unit) s = execChkRunningRead unit s := rfl
@[simp] theorem exec_islandDroopDetect (island : Fin 1090) (s : State) : exec (.islandDroopDetect island) s = execIslandDroopDetect island s := rfl
@[simp] theorem exec_stretchStepDown (island : Fin 1090) (s : State) : exec (.stretchStepDown island) s = execStretchStepDown island s := rfl
@[simp] theorem exec_channelHung (from_ to_ : Fin 1090) (s : State) : exec (.channelHung from_ to_) s = execChannelHung from_ to_ s := rfl
@[simp] theorem exec_reserveReloadDone (hedge : Fin 16) (stage group : Nat) (s : State) : exec (.reserveReloadDone hedge stage group) s = execReserveReloadDone hedge stage group s := rfl
@[simp] theorem exec_dieFault (die : Fin 6) (s : State) : exec (.dieFault die) s = execDieFault die s := rfl
@[simp] theorem exec_engineFault (cls engine : Nat) (s : State) : exec (.engineFault cls engine) s = execEngineFault cls engine s := rfl
@[simp] theorem exec_wholeDeviceLoad (hedge : Fin 16) (s : State) : exec (.wholeDeviceLoad hedge) s = execWholeDeviceLoad hedge s := rfl
@[simp] theorem exec_perHedgeLoad (hedge : Fin 16) (s : State) : exec (.perHedgeLoad hedge) s = execPerHedgeLoad hedge s := rfl
@[simp] theorem exec_unload (hedge : Fin 16) (s : State) : exec (.unload hedge) s = execUnload hedge s := rfl
@[simp] theorem exec_reservedLoadOp (hedge : Fin 16) (s : State) : exec (.reservedLoadOp hedge) s = execReservedLoadOp hedge s := rfl
@[simp] theorem exec_loadComplete (s : State) : exec (.loadComplete) s = execLoadComplete s := rfl
@[simp] theorem exec_unloadComplete (s : State) : exec (.unloadComplete) s = execUnloadComplete s := rfl
@[simp] theorem exec_epochTimerFire (timer : Fin 8) (s : State) : exec (.epochTimerFire timer) s = execEpochTimerFire timer s := rfl
@[simp] theorem exec_timerPulseEnd (timer : Fin 8) (s : State) : exec (.timerPulseEnd timer) s = execTimerPulseEnd timer s := rfl
@[simp] theorem exec_accept (slot : Fin 64) (s : State) : exec (.accept slot) s = execAccept slot s := rfl
@[simp] theorem exec_start (slot : Fin 64) (s : State) : exec (.start slot) s = execStart slot s := rfl
@[simp] theorem exec_stop (slot : Fin 64) (s : State) : exec (.stop slot) s = execStop slot s := rfl
@[simp] theorem exec_abort (slot : Fin 64) (s : State) : exec (.abort slot) s = execAbort slot s := rfl
@[simp] theorem exec_clear (slot : Fin 64) (s : State) : exec (.clear slot) s = execClear slot s := rfl
@[simp] theorem exec_drainComplete (slot : Fin 64) (s : State) : exec (.drainComplete slot) s = execDrainComplete slot s := rfl
@[simp] theorem exec_modelPackageLoad (slot : Fin 64) (stage : NandRead) (s : State) : exec (.modelPackageLoad slot stage) s = execModelPackageLoad slot stage s := rfl
@[simp] theorem exec_positionAssign (slot : Fin 64) (rank : Nat) (s : State) : exec (.positionAssign slot rank) s = execPositionAssign slot rank s := rfl
@[simp] theorem exec_sampleDispatch (item : ItemRef) (core handle : Nat) (s : State) : exec (.sampleDispatch item core handle) s = execSampleDispatch item core handle s := rfl
@[simp] theorem exec_indexTableRead (slot : Fin 64) (shard : NandRead) (s : State) : exec (.indexTableRead slot shard) s = execIndexTableRead slot shard s := rfl
@[simp] theorem exec_sampleReadDone (item : ItemRef) (result : ReadResult) (s : State) : exec (.sampleReadDone item result) s = execSampleReadDone item result s := rfl
@[simp] theorem exec_cryptStage (item : ItemRef) (s : State) : exec (.cryptStage item) s = execCryptStage item s := rfl
@[simp] theorem exec_decompressStage (item : ItemRef) (s : State) : exec (.decompressStage item) s = execDecompressStage item s := rfl
@[simp] theorem exec_digestStage (item : ItemRef) (s : State) : exec (.digestStage item) s = execDigestStage item s := rfl
@[simp] theorem exec_imageDecode (item : ItemRef) (s : State) : exec (.imageDecode item) s = execImageDecode item s := rfl
@[simp] theorem exec_videoDecode (item : ItemRef) (s : State) : exec (.videoDecode item) s = execVideoDecode item s := rfl
@[simp] theorem exec_regionWaitExpiry (item : ItemRef) (frame : Nat) (s : State) : exec (.regionWaitExpiry item frame) s = execRegionWaitExpiry item frame s := rfl
@[simp] theorem exec_captureTrigger (pin : Fin 16) (s : State) : exec (.captureTrigger pin) s = execCaptureTrigger pin s := rfl
@[simp] theorem exec_resample (item : ItemRef) (s : State) : exec (.resample item) s = execResample item s := rfl
@[simp] theorem exec_tokenize (item : ItemRef) (s : State) : exec (.tokenize item) s = execTokenize item s := rfl
@[simp] theorem exec_compressStage (item : ItemRef) (engine : Fin 16) (verified : Bool) (s : State) : exec (.compressStage item engine verified) s = execCompressStage item engine verified s := rfl
@[simp] theorem exec_deadlineExpiry (slot : Fin 64) (rank : Nat) (s : State) : exec (.deadlineExpiry slot rank) s = execDeadlineExpiry slot rank s := rfl
@[simp] theorem exec_add (core : Nat) (f : Fields) (s : State) : exec (.add core f) s = execAdd core f s := rfl
@[simp] theorem exec_sub (core : Nat) (f : Fields) (s : State) : exec (.sub core f) s = execSub core f s := rfl
@[simp] theorem exec_and (core : Nat) (f : Fields) (s : State) : exec (.and core f) s = execAnd core f s := rfl
@[simp] theorem exec_or (core : Nat) (f : Fields) (s : State) : exec (.or core f) s = execOr core f s := rfl
@[simp] theorem exec_xor (core : Nat) (f : Fields) (s : State) : exec (.xor core f) s = execXor core f s := rfl
@[simp] theorem exec_shl (core : Nat) (f : Fields) (s : State) : exec (.shl core f) s = execShl core f s := rfl
@[simp] theorem exec_shr (core : Nat) (f : Fields) (s : State) : exec (.shr core f) s = execShr core f s := rfl
@[simp] theorem exec_sra (core : Nat) (f : Fields) (s : State) : exec (.sra core f) s = execSra core f s := rfl
@[simp] theorem exec_addi (core : Nat) (f : Fields) (s : State) : exec (.addi core f) s = execAddi core f s := rfl
@[simp] theorem exec_mul (core : Nat) (f : Fields) (s : State) : exec (.mul core f) s = execMul core f s := rfl
@[simp] theorem exec_div (core : Nat) (f : Fields) (s : State) : exec (.div core f) s = execDiv core f s := rfl
@[simp] theorem exec_cmp (core : Nat) (f : Fields) (s : State) : exec (.cmp core f) s = execCmp core f s := rfl
@[simp] theorem exec_ld (core : Nat) (f : Fields) (s : State) : exec (.ld core f) s = execLd core f s := rfl
@[simp] theorem exec_st (core : Nat) (f : Fields) (s : State) : exec (.st core f) s = execSt core f s := rfl
@[simp] theorem exec_br (core : Nat) (f : Fields) (s : State) : exec (.br core f) s = execBr core f s := rfl
@[simp] theorem exec_call (core : Nat) (f : Fields) (s : State) : exec (.call core f) s = execCall core f s := rfl
@[simp] theorem exec_jr (core : Nat) (f : Fields) (s : State) : exec (.jr core f) s = execJr core f s := rfl
@[simp] theorem exec_cwr (core : Nat) (f : Fields) (s : State) : exec (.cwr core f) s = execCwr core f s := rfl
@[simp] theorem exec_cww (core : Nat) (f : Fields) (s : State) : exec (.cww core f) s = execCww core f s := rfl
@[simp] theorem exec_wld (core : Nat) (f : Fields) (s : State) : exec (.wld core f) s = execWld core f s := rfl
@[simp] theorem exec_wst (core : Nat) (f : Fields) (s : State) : exec (.wst core f) s = execWst core f s := rfl
@[simp] theorem exec_wadd (core : Nat) (f : Fields) (s : State) : exec (.wadd core f) s = execWadd core f s := rfl
@[simp] theorem exec_wsub (core : Nat) (f : Fields) (s : State) : exec (.wsub core f) s = execWsub core f s := rfl
@[simp] theorem exec_wmul (core : Nat) (f : Fields) (s : State) : exec (.wmul core f) s = execWmul core f s := rfl
@[simp] theorem exec_wfma (core : Nat) (f : Fields) (s : State) : exec (.wfma core f) s = execWfma core f s := rfl
@[simp] theorem exec_wdot (core : Nat) (f : Fields) (s : State) : exec (.wdot core f) s = execWdot core f s := rfl
@[simp] theorem exec_wcmp (core : Nat) (f : Fields) (s : State) : exec (.wcmp core f) s = execWcmp core f s := rfl
@[simp] theorem exec_wsel (core : Nat) (f : Fields) (s : State) : exec (.wsel core f) s = execWsel core f s := rfl
@[simp] theorem exec_wshuf (core : Nat) (f : Fields) (s : State) : exec (.wshuf core f) s = execWshuf core f s := rfl
@[simp] theorem exec_wcvt (core : Nat) (f : Fields) (s : State) : exec (.wcvt core f) s = execWcvt core f s := rfl
@[simp] theorem exec_wmax (core : Nat) (f : Fields) (s : State) : exec (.wmax core f) s = execWmax core f s := rfl
@[simp] theorem exec_wmin (core : Nat) (f : Fields) (s : State) : exec (.wmin core f) s = execWmin core f s := rfl
@[simp] theorem exec_wredu (core : Nat) (f : Fields) (s : State) : exec (.wredu core f) s = execWredu core f s := rfl
@[simp] theorem exec_wreduU (core : Nat) (f : Fields) (s : State) : exec (.wreduU core f) s = execWreduU core f s := rfl
@[simp] theorem exec_wins (core : Nat) (f : Fields) (s : State) : exec (.wins core f) s = execWins core f s := rfl
@[simp] theorem exec_wext (core : Nat) (f : Fields) (s : State) : exec (.wext core f) s = execWext core f s := rfl
@[simp] theorem exec_wbcast (core : Nat) (f : Fields) (s : State) : exec (.wbcast core f) s = execWbcast core f s := rfl
@[simp] theorem exec_sin (core : Nat) (f : Fields) (s : State) : exec (.sin core f) s = execSin core f s := rfl
@[simp] theorem exec_sout (core : Nat) (f : Fields) (s : State) : exec (.sout core f) s = execSout core f s := rfl
@[simp] theorem exec_sdone (core : Nat) (f : Fields) (s : State) : exec (.sdone core f) s = execSdone core f s := rfl
@[simp] theorem exec_oalloc (core : Nat) (f : Fields) (s : State) : exec (.oalloc core f) s = execOalloc core f s := rfl
@[simp] theorem exec_mbsend (core : Nat) (f : Fields) (s : State) : exec (.mbsend core f) s = execMbsend core f s := rfl
@[simp] theorem exec_mbrecv (core : Nat) (f : Fields) (s : State) : exec (.mbrecv core f) s = execMbrecv core f s := rfl
@[simp] theorem exec_mailboxDeliver (core channel : Nat) (s : State) : exec (.mailboxDeliver core channel) s = execMailboxDeliver core channel s := rfl
@[simp] theorem exec_mbpoll (core : Nat) (f : Fields) (s : State) : exec (.mbpoll core f) s = execMbpoll core f s := rfl
@[simp] theorem exec_kgive (core : Nat) (f : Fields) (s : State) : exec (.kgive core f) s = execKgive core f s := rfl
@[simp] theorem exec_get (core : Nat) (f : Fields) (s : State) : exec (.get core f) s = execGet core f s := rfl
@[simp] theorem exec_put (core : Nat) (f : Fields) (s : State) : exec (.put core f) s = execPut core f s := rfl
@[simp] theorem exec_tagComplete (core : Nat) (tag : Fin 16) (s : State) : exec (.tagComplete core tag) s = execTagComplete core tag s := rfl
@[simp] theorem exec_wait (core : Nat) (f : Fields) (s : State) : exec (.wait core f) s = execWait core f s := rfl
@[simp] theorem exec_fence (core : Nat) (f : Fields) (s : State) : exec (.fence core f) s = execFence core f s := rfl
@[simp] theorem exec_ovl (core : Nat) (f : Fields) (s : State) : exec (.ovl core f) s = execOvl core f s := rfl
@[simp] theorem exec_rdtime (core : Nat) (f : Fields) (s : State) : exec (.rdtime core f) s = execRdtime core f s := rfl
@[simp] theorem exec_halt (core : Nat) (f : Fields) (s : State) : exec (.halt core f) s = execHalt core f s := rfl
@[simp] theorem exec_exBudget (core : Nat) (s : State) : exec (.exBudget core) s = execExBudget core s := rfl
@[simp] theorem exec_groupRestart (hedge : Fin 16) (stage group : Nat) (s : State) : exec (.groupRestart hedge stage group) s = execGroupRestart hedge stage group s := rfl
@[simp] theorem exec_returnOpen (slot : Fin 64) (source : Nat) (msg : Bytes) (s : State) : exec (.returnOpen slot source msg) s = execReturnOpen slot source msg s := rfl
@[simp] theorem exec_returnTokens (slot : Fin 64) (msg : Bytes) (s : State) : exec (.returnTokens slot msg) s = execReturnTokens slot msg s := rfl
@[simp] theorem exec_returnClose (slot : Fin 64) (msg : Bytes) (s : State) : exec (.returnClose slot msg) s = execReturnClose slot msg s := rfl
@[simp] theorem exec_maskStep (slot : Fin 64) (stream : Nat) (s : State) : exec (.maskStep slot stream) s = execMaskStep slot stream s := rfl
@[simp] theorem exec_storeRecord (slot : Fin 64) (stage : Nat) (s : State) : exec (.storeRecord slot stage) s = execStoreRecord slot stage s := rfl
@[simp] theorem exec_pbqDepthWrite (queue : Fin 1024) (value : Word64) (s : State) : exec (.pbqDepthWrite queue value) s = execPbqDepthWrite queue value s := rfl
@[simp] theorem exec_heelCtrlWrite (session : Fin 4) (value : Word64) (s : State) : exec (.heelCtrlWrite session value) s = execHeelCtrlWrite session value s := rfl
@[simp] theorem exec_heelLinkselWrite (session : Fin 4) (value : Word64) (s : State) : exec (.heelLinkselWrite session value) s = execHeelLinkselWrite session value s := rfl
@[simp] theorem exec_heelSetup (frame : HeelFrame) (s : State) : exec (.heelSetup frame) s = execHeelSetup frame s := rfl
@[simp] theorem exec_heelSetupTimeout (session : Fin 4) (s : State) : exec (.heelSetupTimeout session) s = execHeelSetupTimeout session s := rfl
@[simp] theorem exec_heelBatchDigest (frame : HeelFrame) (s : State) : exec (.heelBatchDigest frame) s = execHeelBatchDigest frame s := rfl
@[simp] theorem exec_heelStageDigest (frame : HeelFrame) (s : State) : exec (.heelStageDigest frame) s = execHeelStageDigest frame s := rfl
@[simp] theorem exec_heelDigestTimeout (session : Fin 4) (s : State) : exec (.heelDigestTimeout session) s = execHeelDigestTimeout session s := rfl
@[simp] theorem exec_heelFreeze (frame : HeelFrame) (s : State) : exec (.heelFreeze frame) s = execHeelFreeze frame s := rfl
@[simp] theorem exec_heelLocateStart (session : Fin 4) (s : State) : exec (.heelLocateStart session) s = execHeelLocateStart session s := rfl
@[simp] theorem exec_heelLocateRequest (frame : HeelFrame) (s : State) : exec (.heelLocateRequest frame) s = execHeelLocateRequest frame s := rfl
@[simp] theorem exec_heelLocateAnswer (frame : HeelFrame) (s : State) : exec (.heelLocateAnswer frame) s = execHeelLocateAnswer frame s := rfl
@[simp] theorem exec_heelReport (frame : HeelFrame) (s : State) : exec (.heelReport frame) s = execHeelReport frame s := rfl
@[simp] theorem exec_heelAckFrame (frame : HeelFrame) (s : State) : exec (.heelAckFrame frame) s = execHeelAckFrame frame s := rfl
@[simp] theorem exec_heelFrameResend (session : Fin 4) (seq : Nat) (s : State) : exec (.heelFrameResend session seq) s = execHeelFrameResend session seq s := rfl
@[simp] theorem exec_invalidFrame (port : Fin 5) (sub : Arrival) (s : State) : exec (.invalidFrame port sub) s = execInvalidFrame port sub s := rfl
@[simp] theorem exec_pltWrite (port : Fin 5) (sub : Fin 4) (frame : Bytes) (s : State) : exec (.pltWrite port sub frame) s = execPltWrite port sub frame s := rfl
@[simp] theorem exec_pltWriteImm (port : Fin 5) (sub : Fin 4) (frame : Bytes) (s : State) : exec (.pltWriteImm port sub frame) s = execPltWriteImm port sub frame s := rfl
@[simp] theorem exec_pltReadReq (port : Fin 5) (sub : Fin 4) (frame : Bytes) (s : State) : exec (.pltReadReq port sub frame) s = execPltReadReq port sub frame s := rfl
@[simp] theorem exec_pltReadResp (port : Fin 5) (sub : Fin 4) (frame : Bytes) (s : State) : exec (.pltReadResp port sub frame) s = execPltReadResp port sub frame s := rfl
@[simp] theorem exec_pltAtomicAdd (port : Fin 5) (sub : Fin 4) (frame : Bytes) (s : State) : exec (.pltAtomicAdd port sub frame) s = execPltAtomicAdd port sub frame s := rfl
@[simp] theorem exec_pltAtomicCas (port : Fin 5) (sub : Fin 4) (frame : Bytes) (s : State) : exec (.pltAtomicCas port sub frame) s = execPltAtomicCas port sub frame s := rfl
@[simp] theorem exec_pltAck (port : Fin 5) (sub : Fin 4) (frame : Bytes) (s : State) : exec (.pltAck port sub frame) s = execPltAck port sub frame s := rfl
@[simp] theorem exec_pltNak (port : Fin 5) (sub : Fin 4) (frame : Bytes) (s : State) : exec (.pltNak port sub frame) s = execPltNak port sub frame s := rfl
@[simp] theorem exec_pltCredit (port : Fin 5) (sub : Fin 4) (frame : Bytes) (s : State) : exec (.pltCredit port sub frame) s = execPltCredit port sub frame s := rfl
@[simp] theorem exec_contextFetchDone (port : Fin 5) (ctx : Nat) (s : State) : exec (.contextFetchDone port ctx) s = execContextFetchDone port ctx s := rfl
@[simp] theorem exec_ackTimer (ctx source : Nat) (s : State) : exec (.ackTimer ctx source) s = execAckTimer ctx source s := rfl
@[simp] theorem exec_retransmitTimeout (ctx dest msgId fragment : Nat) (s : State) : exec (.retransmitTimeout ctx dest msgId fragment) s = execRetransmitTimeout ctx dest msgId fragment s := rfl
@[simp] theorem exec_messageGiveUp (ctx dest msgId : Nat) (s : State) : exec (.messageGiveUp ctx dest msgId) s = execMessageGiveUp ctx dest msgId s := rfl
@[simp] theorem exec_retryHoldExpiry (ctx dest msgId fragment : Nat) (s : State) : exec (.retryHoldExpiry ctx dest msgId fragment) s = execRetryHoldExpiry ctx dest msgId fragment s := rfl
@[simp] theorem exec_filterEntryExpiry (ctx : Nat) (key : MsgKey) (s : State) : exec (.filterEntryExpiry ctx key) s = execFilterEntryExpiry ctx key s := rfl
@[simp] theorem exec_keyPhaseWindowExpiry (ctx source : Nat) (s : State) : exec (.keyPhaseWindowExpiry ctx source) s = execKeyPhaseWindowExpiry ctx source s := rfl
@[simp] theorem exec_deliveryRetryTimer (slot : Fin 64) (rank dest : Nat) (s : State) : exec (.deliveryRetryTimer slot rank dest) s = execDeliveryRetryTimer slot rank dest s := rfl
@[simp] theorem exec_frameTransmit (port : Fin 5) (sub : Fin 4) (s : State) : exec (.frameTransmit port sub) s = execFrameTransmit port sub s := rfl
@[simp] theorem exec_gateEntryChange (port : Fin 5) (s : State) : exec (.gateEntryChange port) s = execGateEntryChange port s := rfl
@[simp] theorem exec_pltPortCfgWrite (port : Fin 5) (value : Word64) (s : State) : exec (.pltPortCfgWrite port value) s = execPltPortCfgWrite port value s := rfl
@[simp] theorem exec_linkStateChange (port : Fin 5) (sub : Fin 4) (up : Bool) (s : State) : exec (.linkStateChange port sub up) s = execLinkStateChange port sub up s := rfl
@[simp] theorem exec_shaperRateWrite (port : Fin 5) (sub : Fin 4) (cls : Fin 8) (value : Word64) (s : State) : exec (.shaperRateWrite port sub cls value) s = execShaperRateWrite port sub cls value s := rfl
@[simp] theorem exec_shaperBurstWrite (port : Fin 5) (sub : Fin 4) (cls : Fin 8) (value : Word64) (s : State) : exec (.shaperBurstWrite port sub cls value) s = execShaperBurstWrite port sub cls value s := rfl
@[simp] theorem exec_ptpEventMessage (event : PtpEvent) (s : State) : exec (.ptpEventMessage event) s = execPtpEventMessage event s := rfl
@[simp] theorem exec_masterLoss (s : State) : exec (.masterLoss) s = execMasterLoss s := rfl
@[simp] theorem exec_holdoverTimeout (s : State) : exec (.holdoverTimeout) s = execHoldoverTimeout s := rfl
@[simp] theorem exec_ppsInEdge (pin : Fin 16) (s : State) : exec (.ppsInEdge pin) s = execPpsInEdge pin s := rfl
@[simp] theorem exec_ppsSecond (pin : Fin 16) (s : State) : exec (.ppsSecond pin) s = execPpsSecond pin s := rfl
@[simp] theorem exec_dmaGo (ch : Fin 64) (s : State) : exec (.dmaGo ch) s = execDmaGo ch s := rfl
@[simp] theorem exec_dmaAbort (ch : Fin 64) (s : State) : exec (.dmaAbort ch) s = execDmaAbort ch s := rfl
@[simp] theorem exec_dmaHold (ch : Fin 64) (s : State) : exec (.dmaHold ch) s = execDmaHold ch s := rfl
@[simp] theorem exec_dmaRelease (ch : Fin 64) (s : State) : exec (.dmaRelease ch) s = execDmaRelease ch s := rfl
@[simp] theorem exec_dmaDescriptorComplete (ch : Fin 64) (s : State) : exec (.dmaDescriptorComplete ch) s = execDmaDescriptorComplete ch s := rfl
@[simp] theorem exec_dmaTransferError (ch : Fin 64) (ecc : Bool) (prefix_ : Nat) (s : State) : exec (.dmaTransferError ch ecc prefix_) s = execDmaTransferError ch ecc prefix_ s := rfl
@[simp] theorem exec_dmaAbortComplete (ch : Fin 64) (prefix_ : Option Nat) (s : State) : exec (.dmaAbortComplete ch prefix_) s = execDmaAbortComplete ch prefix_ s := rfl
@[simp] theorem exec_poolRequest (pool : Fin 64) (stage : Nat) (s : State) : exec (.poolRequest pool stage) s = execPoolRequest pool stage s := rfl
@[simp] theorem exec_poolRelease (handle stage : Nat) (s : State) : exec (.poolRelease handle stage) s = execPoolRelease handle stage s := rfl
@[simp] theorem exec_poolSetCount (handle stage count : Nat) (s : State) : exec (.poolSetCount handle stage count) s = execPoolSetCount handle stage count s := rfl
@[simp] theorem exec_chkEnable (unit : Fin 16) (s : State) : exec (.chkEnable unit) s = execChkEnable unit s := rfl
@[simp] theorem exec_chkDisable (unit : Fin 16) (s : State) : exec (.chkDisable unit) s = execChkDisable unit s := rfl
@[simp] theorem exec_chkPause (unit : Fin 16) (s : State) : exec (.chkPause unit) s = execChkPause unit s := rfl
@[simp] theorem exec_chkPaused (unit : Fin 16) (s : State) : exec (.chkPaused unit) s = execChkPaused unit s := rfl
@[simp] theorem exec_chkResume (unit : Fin 16) (s : State) : exec (.chkResume unit) s = execChkResume unit s := rfl
@[simp] theorem exec_chkHold (unit : Fin 16) (s : State) : exec (.chkHold unit) s = execChkHold unit s := rfl
@[simp] theorem exec_chkRelease (unit : Fin 16) (s : State) : exec (.chkRelease unit) s = execChkRelease unit s := rfl
@[simp] theorem exec_chkConfigWrite (unit : Fin 16) (filter : Bool) (value : Word64) (s : State) : exec (.chkConfigWrite unit filter value) s = execChkConfigWrite unit filter value s := rfl
@[simp] theorem exec_chkStateWrite (unit : Fin 16) (bytes : Bool) (value : Word64) (s : State) : exec (.chkStateWrite unit bytes value) s = execChkStateWrite unit bytes value s := rfl
@[simp] theorem exec_chkRecord (unit : Fin 16) (data trailer : Bytes) (s : State) : exec (.chkRecord unit data trailer) s = execChkRecord unit data trailer s := rfl
@[simp] theorem exec_briGo (engine : Fin 48) (s : State) : exec (.briGo engine) s = execBriGo engine s := rfl
@[simp] theorem exec_briAbort (engine : Fin 48) (s : State) : exec (.briAbort engine) s = execBriAbort engine s := rfl
@[simp] theorem exec_briHold (engine : Fin 48) (s : State) : exec (.briHold engine) s = execBriHold engine s := rfl
@[simp] theorem exec_briRelease (engine : Fin 48) (s : State) : exec (.briRelease engine) s = execBriRelease engine s := rfl
@[simp] theorem exec_briBlockDone (engine : Fin 48) (verified : Bool) (s : State) : exec (.briBlockDone engine verified) s = execBriBlockDone engine verified s := rfl
@[simp] theorem exec_briDescriptorComplete (engine : Fin 48) (s : State) : exec (.briDescriptorComplete engine) s = execBriDescriptorComplete engine s := rfl
@[simp] theorem exec_trsRead (set : Fin 256) (s : State) : exec (.trsRead set) s = execTrsRead set s := rfl
@[simp] theorem exec_trsWrite (set : Fin 256) (s : State) : exec (.trsWrite set) s = execTrsWrite set s := rfl
@[simp] theorem exec_trsWriteAtomic (set : Fin 256) (s : State) : exec (.trsWriteAtomic set) s = execTrsWriteAtomic set s := rfl
@[simp] theorem exec_trsFlush (set : Fin 256) (s : State) : exec (.trsFlush set) s = execTrsFlush set s := rfl
@[simp] theorem exec_trsTrim (set : Fin 256) (s : State) : exec (.trsTrim set) s = execTrsTrim set s := rfl
@[simp] theorem exec_trsVerify (set : Fin 256) (s : State) : exec (.trsVerify set) s = execTrsVerify set s := rfl
@[simp] theorem exec_trsFormat (set : Fin 256) (s : State) : exec (.trsFormat set) s = execTrsFormat set s := rfl
@[simp] theorem exec_trsCommandStart (set : Fin 256) (s : State) : exec (.trsCommandStart set) s = execTrsCommandStart set s := rfl
@[simp] theorem exec_nandReadDone (set : Fin 256) (unit : Nat) (outcome : NandOutcome) (s : State) : exec (.nandReadDone set unit outcome) s = execNandReadDone set unit outcome s := rfl
@[simp] theorem exec_trsCommandComplete (set : Fin 256) (s : State) : exec (.trsCommandComplete set) s = execTrsCommandComplete set s := rfl
@[simp] theorem exec_trsBusError (set : Fin 256) (units : Nat) (s : State) : exec (.trsBusError set units) s = execTrsBusError set units s := rfl
@[simp] theorem exec_controllerReset (s : State) : exec (.controllerReset) s = execControllerReset s := rfl
@[simp] theorem exec_controllerResetDone (s : State) : exec (.controllerResetDone) s = execControllerResetDone s := rfl
@[simp] theorem exec_checkpointStart (s : State) : exec (.checkpointStart) s = execCheckpointStart s := rfl
@[simp] theorem exec_checkpointDone (s : State) : exec (.checkpointDone) s = execCheckpointDone s := rfl
@[simp] theorem exec_garbageCollection (s : State) : exec (.garbageCollection) s = execGarbageCollection s := rfl
@[simp] theorem exec_blockErase (block : Nat) (s : State) : exec (.blockErase block) s = execBlockErase block s := rfl
@[simp] theorem exec_programFailure (block : Nat) (s : State) : exec (.programFailure block) s = execProgramFailure block s := rfl
@[simp] theorem exec_eraseFailure (block : Nat) (s : State) : exec (.eraseFailure block) s = execEraseFailure block s := rfl
@[simp] theorem exec_healthSnapshot (s : State) : exec (.healthSnapshot) s = execHealthSnapshot s := rfl
@[simp] theorem exec_temperatureHour (max mean min : Bool) (s : State) : exec (.temperatureHour max mean min) s = execTemperatureHour max mean min s := rfl
@[simp] theorem exec_sweepDone (nsid : Nat) (s : State) : exec (.sweepDone nsid) s = execSweepDone nsid s := rfl
@[simp] theorem exec_blkNsCreate (src : MgmtSource) (s : State) : exec (.blkNsCreate src) s = execBlkNsCreate src s := rfl
@[simp] theorem exec_blkNsDelete (src : MgmtSource) (s : State) : exec (.blkNsDelete src) s = execBlkNsDelete src s := rfl
@[simp] theorem exec_blkKeyRotate (src : MgmtSource) (s : State) : exec (.blkKeyRotate src) s = execBlkKeyRotate src s := rfl
@[simp] theorem exec_blkKeySweep (src : MgmtSource) (s : State) : exec (.blkKeySweep src) s = execBlkKeySweep src s := rfl
@[simp] theorem exec_blkKeyDestroy (src : MgmtSource) (s : State) : exec (.blkKeyDestroy src) s = execBlkKeyDestroy src s := rfl
@[simp] theorem exec_fleetEnable (value : Word64) (s : State) : exec (.fleetEnable value) s = execFleetEnable value s := rfl
@[simp] theorem exec_fltConfigWrite (reg : FleetReg) (value : Word64) (s : State) : exec (.fltConfigWrite reg value) s = execFltConfigWrite reg value s := rfl
@[simp] theorem exec_join (source : Nat) (msg : Bytes) (s : State) : exec (.join source msg) s = execJoin source msg s := rfl
@[simp] theorem exec_roster (source : Nat) (msg : Bytes) (s : State) : exec (.roster source msg) s = execRoster source msg s := rfl
@[simp] theorem exec_heartbeat (source : Nat) (msg : Bytes) (s : State) : exec (.heartbeat source msg) s = execHeartbeat source msg s := rfl
@[simp] theorem exec_hbAck (source peerEpoch : Nat) (msg : Bytes) (s : State) : exec (.hbAck source peerEpoch msg) s = execHbAck source peerEpoch msg s := rfl
@[simp] theorem exec_arrive (source : Nat) (msg : Bytes) (s : State) : exec (.arrive source msg) s = execArrive source msg s := rfl
@[simp] theorem exec_arriveAck (source : Nat) (msg : Bytes) (s : State) : exec (.arriveAck source msg) s = execArriveAck source msg s := rfl
@[simp] theorem exec_commit (source : Nat) (msg : Bytes) (s : State) : exec (.commit source msg) s = execCommit source msg s := rfl
@[simp] theorem exec_mirror (source : Nat) (msg : Bytes) (s : State) : exec (.mirror source msg) s = execMirror source msg s := rfl
@[simp] theorem exec_mirrorAck (source : Nat) (msg : Bytes) (s : State) : exec (.mirrorAck source msg) s = execMirrorAck source msg s := rfl
@[simp] theorem exec_move (source : Nat) (msg : Bytes) (s : State) : exec (.move source msg) s = execMove source msg s := rfl
@[simp] theorem exec_fetch (source : Nat) (msg : Bytes) (s : State) : exec (.fetch source msg) s = execFetch source msg s := rfl
@[simp] theorem exec_records (source : Nat) (msg : Bytes) (s : State) : exec (.records source msg) s = execRecords source msg s := rfl
@[simp] theorem exec_takeover (source : Nat) (msg : Bytes) (s : State) : exec (.takeover source msg) s = execTakeover source msg s := rfl
@[simp] theorem exec_takeoverAck (source : Nat) (msg : Bytes) (s : State) : exec (.takeoverAck source msg) s = execTakeoverAck source msg s := rfl
@[simp] theorem exec_resolve (source : Nat) (msg : Bytes) (s : State) : exec (.resolve source msg) s = execResolve source msg s := rfl
@[simp] theorem exec_heartbeatTimer (s : State) : exec (.heartbeatTimer) s = execHeartbeatTimer s := rfl
@[simp] theorem exec_livenessLeaseExpiry (member : Nat) (s : State) : exec (.livenessLeaseExpiry member) s = execLivenessLeaseExpiry member s := rfl
@[simp] theorem exec_progressLeaseExpiry (member : Nat) (s : State) : exec (.progressLeaseExpiry member) s = execProgressLeaseExpiry member s := rfl
@[simp] theorem exec_workerIsolation (s : State) : exec (.workerIsolation) s = execWorkerIsolation s := rfl
@[simp] theorem exec_managerIsolation (s : State) : exec (.managerIsolation) s = execManagerIsolation s := rfl
@[simp] theorem exec_standbyTakeoverTimeout (s : State) : exec (.standbyTakeoverTimeout) s = execStandbyTakeoverTimeout s := rfl
@[simp] theorem exec_takeoverQuorumTimeout (s : State) : exec (.takeoverQuorumTimeout) s = execTakeoverQuorumTimeout s := rfl
@[simp] theorem exec_secAttest (src : MgmtSource) (s : State) : exec (.secAttest src) s = execSecAttest src s := rfl
@[simp] theorem exec_secKeyImport (src : MgmtSource) (s : State) : exec (.secKeyImport src) s = execSecKeyImport src s := rfl
@[simp] theorem exec_secKeyDestroy (src : MgmtSource) (s : State) : exec (.secKeyDestroy src) s = execSecKeyDestroy src s := rfl
@[simp] theorem exec_secHedgeOwner (src : MgmtSource) (s : State) : exec (.secHedgeOwner src) s = execSecHedgeOwner src s := rfl
@[simp] theorem exec_secAnchorSet (src : MgmtSource) (s : State) : exec (.secAnchorSet src) s = execSecAnchorSet src s := rfl
@[simp] theorem exec_secCertRead (src : MgmtSource) (s : State) : exec (.secCertRead src) s = execSecCertRead src s := rfl
@[simp] theorem exec_mgmtTlsHandshake (chain : Bytes) (s : State) : exec (.mgmtTlsHandshake chain) s = execMgmtTlsHandshake chain s := rfl
@[simp] theorem exec_jtagAccess (block : JtagBlock) (write : Bool) (s : State) : exec (.jtagAccess block write) s = execJtagAccess block write s := rfl
@[simp] theorem exec_powerWindowBoundary (s : State) : exec (.powerWindowBoundary) s = execPowerWindowBoundary s := rfl
@[simp] theorem exec_counterSampleBoundary (s : State) : exec (.counterSampleBoundary) s = execCounterSampleBoundary s := rfl
@[simp] theorem exec_shdFwStage (src : MgmtSource) (s : State) : exec (.shdFwStage src) s = execShdFwStage src s := rfl
@[simp] theorem exec_shdFwActivate (src : MgmtSource) (s : State) : exec (.shdFwActivate src) s = execShdFwActivate src s := rfl
@[simp] theorem exec_firmwareSwitch (s : State) : exec (.firmwareSwitch) s = execFirmwareSwitch s := rfl
@[simp] theorem exec_shdReset (src : MgmtSource) (s : State) : exec (.shdReset src) s = execShdReset src s := rfl
@[simp] theorem exec_shdFallbackExit (src : MgmtSource) (s : State) : exec (.shdFallbackExit src) s = execShdFallbackExit src s := rfl
@[simp] theorem exec_pwrSetCap (src : MgmtSource) (s : State) : exec (.pwrSetCap src) s = execPwrSetCap src s := rfl
@[simp] theorem exec_pwrSetPlanMax (src : MgmtSource) (s : State) : exec (.pwrSetPlanMax src) s = execPwrSetPlanMax src s := rfl
@[simp] theorem exec_shdFeature (src : MgmtSource) (s : State) : exec (.shdFeature src) s = execShdFeature src s := rfl
@[simp] theorem exec_shdDiag (src : MgmtSource) (s : State) : exec (.shdDiag src) s = execShdDiag src s := rfl
@[simp] theorem exec_powerOnReset (s : State) : exec (.powerOnReset) s = execPowerOnReset s := rfl
@[simp] theorem exec_warmReset (s : State) : exec (.warmReset) s = execWarmReset s := rfl
@[simp] theorem exec_hostPortReset (s : State) : exec (.hostPortReset) s = execHostPortReset s := rfl
@[simp] theorem exec_pcieConfigRequest (s : State) : exec (.pcieConfigRequest) s = execPcieConfigRequest s := rfl
@[simp] theorem exec_domainPowerGood (domain : Fin 20) (s : State) : exec (.domainPowerGood domain) s = execDomainPowerGood domain s := rfl
@[simp] theorem exec_bootStageComplete (result : BootResult) (s : State) : exec (.bootStageComplete result) s = execBootStageComplete result s := rfl
@[simp] theorem exec_bootStageTimeout (s : State) : exec (.bootStageTimeout) s = execBootStageTimeout s := rfl
@[simp] theorem exec_temperatureSample (site : Fin 64) (raw : Int) (s : State) : exec (.temperatureSample site raw) s = execTemperatureSample site raw s := rfl
@[simp] theorem exec_thermalRestart (s : State) : exec (.thermalRestart) s = execThermalRestart s := rfl
@[simp] theorem exec_railSample (rail : Fin 9) (millivolts milliamps : Nat) (s : State) : exec (.railSample rail millivolts milliamps) s = execRailSample rail millivolts milliamps s := rfl
@[simp] theorem exec_capLimiterStep (s : State) : exec (.capLimiterStep) s = execCapLimiterStep s := rfl
@[simp] theorem exec_thermalLimiterStep (s : State) : exec (.thermalLimiterStep) s = execThermalLimiterStep s := rfl
@[simp] theorem exec_droopLimiterStep (event : Bool) (s : State) : exec (.droopLimiterStep event) s = execDroopLimiterStep event s := rfl
@[simp] theorem exec_smbusBlockRead (code : Byte) (s : State) : exec (.smbusBlockRead code) s = execSmbusBlockRead code s := rfl
@[simp] theorem exec_smbusReject (s : State) : exec (.smbusReject) s = execSmbusReject s := rfl
@[simp] theorem exec_resetPinRise (por : Bool) (straps : BitVec 8) (s : State) : exec (.resetPinRise por straps) s = execResetPinRise por straps s := rfl
@[simp] theorem exec_msixCoalesceExpiry (source : CoalesceSource) (s : State) : exec (.msixCoalesceExpiry source) s = execMsixCoalesceExpiry source s := rfl

end Sys2Proof.Machine
end

