-- ==== Sys2Proof/Laws/Elements.lean ====
section
/-! SUPPORT. Elements of wide registers: a register made of elements reads back as them, and what an element-wise write
leaves. -/

namespace Sys2Proof.Machine

/-- The number that a list of elements of `b` bytes makes. -/
theorem foldr_elements_lt (b : Nat) (els : List Nat) :
    els.foldr (fun v acc => v % 2 ^ (8 * b) + 2 ^ (8 * b) * acc) 0 < 2 ^ (8 * b * els.length) := by
  induction els with
  | nil => simp
  | cons v t ih =>
    simp only [List.foldr_cons, List.length_cons]
    have h1 : v % 2 ^ (8 * b) < 2 ^ (8 * b) := Nat.mod_lt _ (by positivity)
    have h2 : 2 ^ (8 * b * (t.length + 1)) = 2 ^ (8 * b) * 2 ^ (8 * b * t.length) := by rw [← pow_add]; ring_nf
    rw [h2]
    set r := t.foldr (fun v acc => v % 2 ^ (8 * b) + 2 ^ (8 * b) * acc) 0
    have h3 : 2 ^ (8 * b) * (r + 1) ≤ 2 ^ (8 * b) * 2 ^ (8 * b * t.length) := Nat.mul_le_mul_left _ ih
    have h4 : 2 ^ (8 * b) * (r + 1) = 2 ^ (8 * b) * r + 2 ^ (8 * b) := by ring
    omega

theorem natField_foldr_elements (b : Nat) (els : List Nat) (e : Nat) (he : e < els.length) :
    natField (els.foldr (fun v acc => v % 2 ^ (8 * b) + 2 ^ (8 * b) * acc) 0) (8 * b * e) (8 * b) = els[e] % 2 ^ (8 * b) := by
  induction els generalizing e with
  | nil => simp at he
  | cons v t ih =>
    simp only [List.foldr_cons]
    set r := t.foldr (fun v acc => v % 2 ^ (8 * b) + 2 ^ (8 * b) * acc) 0
    have h1 : v % 2 ^ (8 * b) < 2 ^ (8 * b) := Nat.mod_lt _ (by positivity)
    cases e with
    | zero => simp [natField, Nat.add_mul_mod_self_left]
    | succ e =>
      have h2 : 2 ^ (8 * b * (e + 1)) = 2 ^ (8 * b) * 2 ^ (8 * b * e) := by rw [← pow_add]; ring_nf
      have h3 : (v % 2 ^ (8 * b) + 2 ^ (8 * b) * r) / 2 ^ (8 * b) = r := by
        rw [Nat.add_mul_div_left _ _ (by positivity), Nat.div_eq_of_lt h1, Nat.zero_add]
      rw [natField, h2, ← Nat.div_div_eq_div_mul, h3]
      exact ih e (by simpa using he)

/-- A register made of elements reads back as them. -/
theorem element_fromElements (b : Nat) (els : List Nat) (e : Nat) (hl : b * els.length ≤ 256) (he : e < els.length) :
    element b e (fromElements b els) = els[e] % 2 ^ (8 * b) := by
  have h1 := foldr_elements_lt b els
  have h2 : 2 ^ (8 * b * els.length) ≤ 2 ^ 2048 := Nat.pow_le_pow_right (by omega) (by nlinarith)
  rw [element, fromElements, BitVec.toNat_ofNat, Nat.mod_eq_of_lt (by omega)]
  exact natField_foldr_elements b els e he

theorem typeBytes_cases (ty : Nat) : typeBytes ty = 1 ∨ typeBytes ty = 2 ∨ typeBytes ty = 4 ∨ typeBytes ty = 8 := by
  unfold typeBytes
  repeat' split
  all_goals simp

theorem elementCount_mul (b : Nat) : b * elementCount b ≤ 256 := by
  unfold elementCount
  exact Nat.mul_div_le 256 b

theorem foldl_flags {α : Type} (p : α → Bool) (g : α → Nat) (new : α → Nat × FpFlags) (l : List α) (a : FpFlags) :
    (l.map fun e => if p e then new e else (g e, FpFlags.none)).foldl (fun a r => a.or r.2) a =
      (l.filter p).foldl (fun a e => a.or (new e).2) a := by
  induction l generalizing a with
  | nil => rfl
  | cons e t ih =>
    rw [List.map_cons, List.foldl_cons, ih]
    cases h : p e
    · simp only [Bool.false_eq_true, if_false]
      rw [List.filter_cons_of_neg (by simp [h])]
      congr 1
      simp [FpFlags.or, FpFlags.none]
    · simp only [if_true]
      rw [List.filter_cons_of_pos (by simp [h]), List.foldl_cons]

theorem element_lt (b e : Nat) (v : BitVec 2048) : element b e v < 2 ^ (8 * b) := Nat.mod_lt _ (by positivity)

/-- What an element-wise write leaves. -/
theorem elementsWritten_writeElements (s : State) (core : Nat) (f : Fields) (b : Nat) (new : Nat → Nat × FpFlags) :
    s.elementsWritten (s.setCore core ((s.core core).writeElements f f.d.val b new).retire) core f b new := by
  refine ⟨(s.core core).writeElements f f.d.val b new, rfl, rfl, fun r hr => ?_, fun e he => ?_, ?_⟩
  · exact Tab.get_set_ne _ _ hr _
  · have : ((s.core core).writeElements f f.d.val b new).getW f.d.val = fromElements b (((List.range (elementCount b)).map fun e =>
        if (s.core core).governs f (b * e) then new e else (element b e ((s.core core).getW f.d.val), FpFlags.none)).map (·.1)) :=
      Tab.get_set_self _ _ _ _
    rw [this, element_fromElements _ _ _ (by simpa using elementCount_mul b) (by simpa using he)]
    simp only [List.getElem_map, List.getElem_range]
    split
    · rfl
    · exact Nat.mod_eq_of_lt (element_lt _ _ _)
  · exact foldl_flags _ _ _ _ _

/-- One bit of a predicate is replaced. -/
theorem getLsbD_putBit (p : BitVec 256) (i j : Nat) (v : Bool) (hj : j < 256) :
    (putBit p i v).getLsbD j = if j = i then v else p.getLsbD j := by
  have hb : (BitVec.ofNat 256 (2 ^ i)).getLsbD j = decide (i = j) := by
    rw [BitVec.getLsbD_ofNat, Nat.testBit_two_pow, decide_eq_true hj, Bool.true_and]
  cases v
  · rw [show putBit p i false = p &&& ~~~ BitVec.ofNat 256 (2 ^ i) from rfl, BitVec.getLsbD_and, BitVec.getLsbD_not, hb]
    by_cases h : i = j
    · simp [h]
    · simp [h, Ne.symm h, hj]
  · rw [show putBit p i true = p ||| BitVec.ofNat 256 (2 ^ i) from rfl, BitVec.getLsbD_or, hb]
    by_cases h : i = j
    · simp [h]
    · simp [h, Ne.symm h]

end Sys2Proof.Machine
end

