-- ==== Sys2Proof/Laws/Keeps.lean ====
section
/-! SUPPORT. No shared operation touches the queue of waiting commands, and each keeps the canonical forms of the
memories and of the register file: one law per operation, in the order in which they build on each other. -/

namespace Sys2Proof.Machine

/-- What every operation keeps: the queue of `r`, and the canonical forms if `r` had them. -/
def State.Keeps (r s : State) : Prop :=
  s.pending = r.pending ∧ (r.memoriesOk = true → s.memoriesOk = true) ∧ (r.registersOk = true → s.registersOk = true)

/-- Each state that `o` may hold keeps what `r` had. -/
structure KeepsOpt (r : State) (o : Option State) : Prop where
  all : ∀ t, o = some t → r.Keeps t

/-- The same where a refusal is a code. -/
structure KeepsExc (r : State) (o : Except Nat State) : Prop where
  all : ∀ t, o = .ok t → r.Keeps t

/-- An answer to a command: the state it leaves, and what follows once it is posted. -/
def Answer.Keeps (r : State) (a : Answer) : Prop := r.Keeps a.state ∧ ∀ t, r.Keeps t → r.Keeps (a.after t)

theorem Answer.Keeps.intro {r : State} {a : Answer} (h : r.Keeps a.state) (g : ∀ t, r.Keeps t → r.Keeps (a.after t)) :
    Answer.Keeps r a := ⟨h, g⟩

theorem Answer.keeps_mk {r s : State} {code data} (h : r.Keeps s) {after : State → State}
    (g : ∀ t, r.Keeps t → r.Keeps (after t)) : Answer.Keeps r ⟨s, code, data, after⟩ := ⟨h, g⟩

theorem State.Keeps.refl (s : State) : s.Keeps s := ⟨rfl, id, id⟩

theorem State.Keeps.trans {a b c : State} (h : a.Keeps b) (g : b.Keeps c) : a.Keeps c :=
  ⟨g.1.trans h.1, fun x => g.2.1 (h.2.1 x), fun x => g.2.2 (h.2.2 x)⟩

theorem State.Keeps.of_fst {α : Type} {r s : State} {p : State × α} {x : α} (h : r.Keeps p.1) (e : p = (s, x)) : r.Keeps s := by
  subst e; exact h

theorem KeepsOpt.of_eq {r s : State} {o : Option State} (h : KeepsOpt r o) (e : o = some s) : r.Keeps s := h.all s e

theorem KeepsExc.of_eq {r s : State} {o : Except Nat State} (h : KeepsExc r o) (e : o = .ok s) : r.Keeps s := h.all s e

theorem KeepsOpt.none {r : State} : KeepsOpt r none := ⟨fun _ e => by cases e⟩

theorem KeepsOpt.some {r s : State} (h : r.Keeps s) : KeepsOpt r (some s) := ⟨fun _ e => by cases e; exact h⟩

theorem KeepsExc.error {r : State} {n : Nat} : KeepsExc r (.error n) := ⟨fun _ e => by cases e⟩

theorem KeepsExc.ok {r s : State} (h : r.Keeps s) : KeepsExc r (.ok s) := ⟨fun _ e => by cases e; exact h⟩

/-- A change of fields that are neither the queue, a memory nor the register file. -/
theorem State.keeps_mk {r s : State} (h : r.Keeps s)
    {free hostRead regPend part board retired islands hung outOfService claims partition served sramServed loadOp images
      timers jobs items text queues cores kennels restarting reloading heel contexts msgIds clock ports time uptime dma pools chk bri
      store fleet security sheep} :
    r.Keeps ⟨s.pending, free, hostRead, s.regs, regPend, part, board, retired, islands, hung, outOfService, claims, partition,
      served, sramServed, loadOp, images, timers, jobs, items, text, queues, cores, kennels, restarting, reloading, heel, contexts,
      msgIds, clock, ports, time, uptime, dma, pools, chk, bri, s.sram, s.dram, s.hostMem, store, fleet, security, sheep⟩ := h

theorem State.keeps_regs {r s : State} (h : r.Keeps s) {t : Tab Word64}
    (g : Tab.wf regDefault s.regs = true → Tab.wf regDefault t = true) : r.Keeps { s with regs := t } :=
  ⟨h.1, h.2.1, fun x => g (h.2.2 x)⟩

theorem State.keeps_memories {r s : State} (h : r.Keeps s) {a b c : Memory}
    (ga : Memory.wf s.sram = true → Memory.wf a = true) (gb : Memory.wf s.dram = true → Memory.wf b = true)
    (gc : Memory.wf s.hostMem = true → Memory.wf c = true) : r.Keeps { s with sram := a, dram := b, hostMem := c } := by
  refine ⟨h.1, fun x => ?_, h.2.2⟩
  have y := h.2.1 x
  simp only [State.memoriesOk, Bool.and_eq_true] at y ⊢
  exact ⟨⟨gb y.1.1, ga y.1.2⟩, gc y.2⟩

theorem State.setReg_keeps {r s : State} (h : r.Keeps s) {off v} : r.Keeps (s.setReg off v) :=
  State.keeps_regs h fun x => Tab.wf_set _ x _ _

theorem State.clearReg_keeps {r s : State} (h : r.Keeps s) {off} : r.Keeps (s.clearReg off) :=
  State.keeps_regs h fun x => Tab.wf_erase _ x _

theorem State.clearRegs_keeps {r s : State} (h : r.Keeps s) {lo hi} : r.Keeps (s.clearRegs lo hi) :=
  State.keeps_regs h fun x => Tab.wf_keep _ x _

theorem State.keeps_foldl {α : Type} {r s : State} {f : State → α → State} {xs : List α} (h : r.Keeps s)
    (hf : ∀ t x, r.Keeps t → r.Keeps (f t x)) : r.Keeps (xs.foldl f s) := by
  induction xs generalizing s with
  | nil => exact h
  | cons x xs ih => exact ih (hf s x h)

theorem State.keeps_foldl_fst {α β : Type} {r : State} {p : State × β} {f : State × β → α → State × β} {xs : List α}
    (h : r.Keeps p.1) (hf : ∀ q x, r.Keeps q.1 → r.Keeps (f q x).1) : r.Keeps (xs.foldl f p).1 := by
  induction xs generalizing p with
  | nil => exact h
  | cons x xs ih => exact ih (hf p x h)

theorem State.keeps_map_getD {α : Type} {r s : State} {o : Option α} {f : α → State} (hf : ∀ x, o = some x → r.Keeps (f x))
    (h : r.Keeps s) : r.Keeps ((o.map f).getD s) := by
  cases o with
  | none => exact h
  | some x => exact hf x rfl

theorem State.keeps_ite {r s t : State} {c : Prop} [Decidable c] (h : r.Keeps s) (g : r.Keeps t) :
    r.Keeps (if c then s else t) := by split <;> assumption

theorem State.keeps_ite_fst {α : Type} {r : State} {p q : State × α} {c : Prop} [Decidable c] (h : r.Keeps p.1)
    (g : r.Keeps q.1) : r.Keeps (if c then p else q).1 := by split <;> assumption

theorem KeepsOpt.ite {r : State} {a b : Option State} {c : Prop} [Decidable c] (h : KeepsOpt r a) (g : KeepsOpt r b) :
    KeepsOpt r (if c then a else b) := by split <;> assumption

theorem KeepsExc.ite {r : State} {a b : Except Nat State} {c : Prop} [Decidable c] (h : KeepsExc r a) (g : KeepsExc r b) :
    KeepsExc r (if c then a else b) := by split <;> assumption

theorem Answer.keeps_ite {r : State} {a b : Answer} {c : Prop} [Decidable c] (h : Answer.Keeps r a) (g : Answer.Keeps r b) :
    Answer.Keeps r (if c then a else b) := by split <;> assumption

theorem KeepsExc.bind {r : State} {a : Except Nat State} {f : State → Except Nat State} (h : KeepsExc r a)
    (hf : ∀ t, r.Keeps t → KeepsExc r (f t)) : KeepsExc r (a >>= f) := by
  cases a with
  | error n => exact KeepsExc.error
  | ok t => exact hf t (h.all t rfl)

/-- The same of a refusal or a state with something beside it. -/
structure KeepsExcFst {β : Type} (r : State) (o : Except Nat (State × β)) : Prop where
  all : ∀ p, o = .ok p → r.Keeps p.1

theorem KeepsExcFst.error {β : Type} {r : State} {n : Nat} : KeepsExcFst r (.error n : Except Nat (State × β)) :=
  ⟨fun _ e => by cases e⟩

theorem KeepsExcFst.ok {β : Type} {r : State} {p : State × β} (h : r.Keeps p.1) : KeepsExcFst r (.ok p) :=
  ⟨fun _ e => by cases e; exact h⟩

theorem KeepsExcFst.bind {β : Type} {r : State} {a : Except Nat (State × β)} {f : State × β → Except Nat (State × β)}
    (h : KeepsExcFst r a) (hf : ∀ p, r.Keeps p.1 → KeepsExcFst r (f p)) : KeepsExcFst r (a >>= f) := by
  cases a with
  | error n => exact KeepsExcFst.error
  | ok p => exact hf p (h.all p rfl)

theorem KeepsExcFst.foldl {α β : Type} {r : State} {a : Except Nat (State × β)}
    {f : Except Nat (State × β) → α → Except Nat (State × β)} {xs : List α} (h : KeepsExcFst r a)
    (hf : ∀ b x, KeepsExcFst r b → KeepsExcFst r (f b x)) : KeepsExcFst r (xs.foldl f a) := by
  induction xs generalizing a with
  | nil => exact h
  | cons x xs ih => exact ih (hf a x h)

theorem KeepsExcFst.map {β : Type} {r : State} {o : Except Nat (State × β)} (h : KeepsExcFst r o) :
    KeepsExc r (o.map (·.1)) := by
  cases o with
  | error n => exact KeepsExc.error
  | ok p => exact KeepsExc.ok (h.all p rfl)

theorem State.adjustJob_keeps {r s : State} (h : r.Keeps s) {n f} :
    r.Keeps (s.adjustJob n f) := by
  unfold State.adjustJob
  repeat' first
    | with_reducible assumption | (intro _) | fail_if_no_progress (with_reducible apply State.keeps_mk)

theorem State.adjustDelivery_keeps {r s : State} (h : r.Keeps s) {slot rank dest f} :
    r.Keeps (s.adjustDelivery slot rank dest f) := by
  unfold State.adjustDelivery
  repeat' first
    | with_reducible assumption | (intro _) | with_reducible apply State.adjustJob_keeps

theorem State.setFld_keeps {r s : State} (h : r.Keeps s) {off f x} :
    r.Keeps (s.setFld off f x) := by
  unfold State.setFld
  repeat' first
    | with_reducible assumption | (intro _) | with_reducible apply State.setReg_keeps

theorem State.bumpSat_keeps {r s : State} (h : r.Keeps s) {off f n} :
    r.Keeps (s.bumpSat off f n) := by
  unfold State.bumpSat
  repeat' first
    | with_reducible assumption | (intro _) | with_reducible apply State.setFld_keeps

theorem State.allocateId_keeps {r s : State} (h : r.Keeps s) {ctx dest jobEpoch} :
    r.Keeps (s.allocateId ctx dest jobEpoch).1 := by
  unfold State.allocateId
  repeat' first
    | with_reducible assumption | (intro _) | with_reducible apply State.keeps_ite_fst
    | with_reducible apply State.keeps_ite | fail_if_no_progress (with_reducible apply State.keeps_mk)

theorem State.adjustCtx_keeps {r s : State} (h : r.Keeps s) {c f} :
    r.Keeps (s.adjustCtx c f) := by
  unfold State.adjustCtx
  repeat' first
    | with_reducible assumption | (intro _) | fail_if_no_progress (with_reducible apply State.keeps_mk)

theorem State.setPort_keeps {r s : State} (h : r.Keeps s) {p x} :
    r.Keeps (s.setPort p x) := by
  unfold State.setPort
  repeat' first
    | with_reducible assumption | (intro _) | fail_if_no_progress (with_reducible apply State.keeps_mk)

theorem State.pushTx_keeps {r s : State} (h : r.Keeps s) {x1 f} :
    r.Keeps (s.pushTx x1 f) := by
  unfold State.pushTx
  repeat' first
    | with_reducible assumption | (intro _) | with_reducible apply State.setPort_keeps

theorem State.sendMessage_keeps {r s : State} (h : r.Keeps s) {o} :
    r.Keeps (s.sendMessage o).1 := by
  unfold State.sendMessage
  repeat' first
    | with_reducible assumption | (intro _) | with_reducible apply State.allocateId_keeps
    | with_reducible apply State.adjustCtx_keeps | with_reducible apply State.pushTx_keeps
    | with_reducible apply State.keeps_ite_fst | with_reducible apply State.keeps_ite
    | with_reducible apply State.keeps_foldl | with_reducible apply State.keeps_foldl_fst | split

theorem State.sendPiece_keeps {r s : State} (h : r.Keeps s) {slot rank dest j de c e piece last} :
    r.Keeps (s.sendPiece slot rank dest j de c e piece last).1 := by
  unfold State.sendPiece
  repeat' first
    | with_reducible assumption | (intro _) | with_reducible apply State.sendMessage_keeps

theorem State.startBatch_keeps {r s : State} (h : r.Keeps s) {slot rank dest j de c e} :
    r.Keeps (s.startBatch slot rank dest j de c e) := by
  unfold State.startBatch
  repeat' first
    | with_reducible assumption | (intro _) | with_reducible apply State.sendPiece_keeps
    | with_reducible apply State.adjustDelivery_keeps | with_reducible apply State.keeps_foldl
    | with_reducible apply State.keeps_foldl_fst

theorem State.bump_keeps {r s : State} (h : r.Keeps s) {off f n} :
    r.Keeps (s.bump off f n) := by
  unfold State.bump
  repeat' first
    | with_reducible assumption | (intro _) | with_reducible apply State.setFld_keeps

theorem State.setBit_keeps {r s : State} (h : r.Keeps s) {off f b} :
    r.Keeps (s.setBit off f b) := by
  unfold State.setBit
  repeat' first
    | with_reducible assumption | (intro _) | with_reducible apply State.setFld_keeps

theorem State.raise_keeps {r s : State} (h : r.Keeps s) {v} :
    r.Keeps (s.raise v) := by
  unfold State.raise
  repeat' first
    | with_reducible assumption | (intro _) | fail_if_no_progress (with_reducible apply State.keeps_mk)

theorem State.raiseCoalesced_keeps {r s : State} (h : r.Keeps s) {source v} :
    r.Keeps (s.raiseCoalesced source v) := by
  unfold State.raiseCoalesced
  repeat' first
    | with_reducible assumption | (intro _) | with_reducible apply State.raise_keeps
    | fail_if_no_progress (with_reducible apply State.keeps_mk) | split

theorem State.showQueue_keeps {r s : State} (h : r.Keeps s) {q old} :
    r.Keeps (s.showQueue q old) := by
  unfold State.showQueue
  repeat' first
    | with_reducible assumption | (intro _) | with_reducible apply State.setFld_keeps
    | with_reducible apply State.setBit_keeps | with_reducible apply State.raiseCoalesced_keeps
    | with_reducible apply State.bumpSat_keeps | with_reducible apply State.keeps_ite

theorem State.freeEntries_keeps {r s : State} (h : r.Keeps s) {q} :
    r.Keeps (s.freeEntries q) := by
  unfold State.freeEntries
  repeat' first
    | with_reducible assumption | (intro _) | with_reducible apply State.showQueue_keeps
    | fail_if_no_progress (with_reducible apply State.keeps_mk) | split

theorem State.releaseEntry_keeps {r s : State} (h : r.Keeps s) {q ordinal} :
    r.Keeps (s.releaseEntry q ordinal) := by
  unfold State.releaseEntry
  repeat' first
    | with_reducible assumption | (intro _) | with_reducible apply State.bump_keeps
    | with_reducible apply State.freeEntries_keeps | with_reducible apply State.showQueue_keeps
    | with_reducible apply State.keeps_ite | fail_if_no_progress (with_reducible apply State.keeps_mk) | split

theorem State.adjustFleet_keeps {r s : State} (h : r.Keeps s) {f} :
    r.Keeps (s.adjustFleet f) := by
  unfold State.adjustFleet
  repeat' first
    | with_reducible assumption | (intro _) | fail_if_no_progress (with_reducible apply State.keeps_mk)

theorem State.fleetPost_keeps {r s : State} (h : r.Keeps s) {node kind barrier body} :
    r.Keeps (s.fleetPost node kind barrier body) := by
  unfold State.fleetPost
  repeat' first
    | with_reducible assumption | (intro _) | with_reducible apply State.sendMessage_keeps
    | with_reducible apply State.keeps_ite | split

theorem State.fleetSend_keeps {r s : State} (h : r.Keeps s) {node kind barrier body} :
    r.Keeps (s.fleetSend node kind barrier body) := by
  unfold State.fleetSend
  repeat' first
    | with_reducible assumption | (intro _) | with_reducible apply State.adjustFleet_keeps
    | with_reducible apply State.fleetPost_keeps | with_reducible apply State.keeps_ite

theorem State.fleetSendRole_keeps {r s : State} (h : r.Keeps s) {role kind barrier body} :
    r.Keeps (s.fleetSendRole role kind barrier body) := by
  unfold State.fleetSendRole
  repeat' first
    | with_reducible assumption | (intro _) | with_reducible apply State.fleetSend_keeps
    | with_reducible apply State.keeps_ite | split

theorem State.arriveCheck_keeps {r s : State} (h : r.Keeps s) {slot} :
    r.Keeps (s.arriveCheck slot) := by
  unfold State.arriveCheck
  repeat' first
    | with_reducible assumption | (intro _) | with_reducible apply State.adjustFleet_keeps
    | with_reducible apply State.fleetSendRole_keeps | with_reducible apply State.keeps_ite | split

theorem State.mirror_keeps {r s : State} (h : r.Keeps s) {slot rank} :
    r.Keeps (s.mirror slot rank) := by
  unfold State.mirror
  repeat' first
    | with_reducible assumption | (intro _) | with_reducible apply State.adjustFleet_keeps
    | with_reducible apply State.fleetSend_keeps | with_reducible apply State.keeps_ite | split

theorem State.fleetDelivered_keeps {r s : State} (h : r.Keeps s) {slot rank} :
    r.Keeps (s.fleetDelivered slot rank) := by
  unfold State.fleetDelivered
  repeat' first
    | with_reducible assumption | (intro _) | with_reducible apply State.arriveCheck_keeps
    | with_reducible apply State.mirror_keeps | with_reducible apply State.keeps_ite

theorem State.deliveryStep_keeps {r s : State} (h : r.Keeps s) {slot rank dest} :
    KeepsOpt r (s.deliveryStep slot rank dest) := by
  unfold State.deliveryStep
  repeat' first
    | with_reducible assumption | (intro _) | with_reducible apply State.adjustDelivery_keeps
    | with_reducible apply State.bumpSat_keeps | with_reducible apply State.startBatch_keeps
    | with_reducible apply State.bump_keeps | with_reducible apply State.releaseEntry_keeps
    | with_reducible apply State.adjustJob_keeps | with_reducible apply State.fleetDelivered_keeps
    | with_reducible apply State.sendPiece_keeps | with_reducible apply KeepsOpt.ite | with_reducible apply State.keeps_ite
    | with_reducible exact KeepsOpt.none | with_reducible apply KeepsOpt.some | split

theorem State.setKennel_keeps {r s : State} (h : r.Keeps s) {k x} :
    r.Keeps (s.setKennel k x) := by
  unfold State.setKennel
  repeat' first
    | with_reducible assumption | (intro _) | fail_if_no_progress (with_reducible apply State.keeps_mk)

theorem State.freeKennel_keeps {r s : State} (h : r.Keeps s) {k} :
    r.Keeps (s.freeKennel k) := by
  unfold State.freeKennel
  repeat' first
    | with_reducible assumption | (intro _) | with_reducible apply State.setKennel_keeps | split

theorem State.cancelCores_keeps {r s : State} (h : r.Keeps s) {cs} :
    r.Keeps (s.cancelCores cs) := by
  unfold State.cancelCores
  repeat' first
    | with_reducible assumption | (intro _) | with_reducible apply State.keeps_ite
    | fail_if_no_progress (with_reducible apply State.keeps_mk)

theorem State.adjustImage_keeps {r s : State} (h : r.Keeps s) {x1 f} :
    r.Keeps (s.adjustImage x1 f) := by
  unfold State.adjustImage
  repeat' first
    | with_reducible assumption | (intro _) | fail_if_no_progress (with_reducible apply State.keeps_mk)

theorem State.setHeel_keeps {r s : State} (h : r.Keeps s) {k x} :
    r.Keeps (s.setHeel k x) := by
  unfold State.setHeel
  repeat' first
    | with_reducible assumption | (intro _) | fail_if_no_progress (with_reducible apply State.keeps_mk)

theorem State.heelSend_keeps {r s : State} (h : r.Keeps s) {k kind keyA epoch keyB payload} :
    r.Keeps (s.heelSend k kind keyA epoch keyB payload) := by
  unfold State.heelSend
  repeat' first
    | with_reducible assumption | (intro _) | with_reducible apply State.setHeel_keeps
    | with_reducible apply State.sendMessage_keeps | with_reducible apply State.keeps_ite
    | with_reducible apply State.keeps_foldl | with_reducible apply State.keeps_foldl_fst | split | dsimp only

theorem State.setHeelCode_keeps {r s : State} (h : r.Keeps s) {k code} :
    r.Keeps (s.setHeelCode k code) := by
  unfold State.setHeelCode
  repeat' first
    | with_reducible assumption | (intro _) | with_reducible apply State.setFld_keeps

theorem State.setHeelState_keeps {r s : State} (h : r.Keeps s) {k st} :
    r.Keeps (s.setHeelState k st) := by
  unfold State.setHeelState
  repeat' first
    | with_reducible assumption | (intro _) | with_reducible apply State.setFld_keeps

theorem State.setJobState_keeps {r s : State} (h : r.Keeps s) {n st code} :
    r.Keeps (s.setJobState n st code) := by
  unfold State.setJobState
  repeat' first
    | with_reducible assumption | (intro _) | with_reducible apply State.setFld_keeps
    | with_reducible apply State.raise_keeps | with_reducible apply State.keeps_ite

theorem State.freezeSession_keeps {r s : State} (h : r.Keeps s) {k code} :
    r.Keeps (s.freezeSession k code) := by
  unfold State.freezeSession
  repeat' first
    | with_reducible assumption | (intro _) | with_reducible apply State.heelSend_keeps
    | with_reducible apply State.setHeelCode_keeps | with_reducible apply State.setHeelState_keeps
    | with_reducible apply State.setBit_keeps | with_reducible apply State.raise_keeps
    | with_reducible apply State.setJobState_keeps | with_reducible apply State.keeps_ite

theorem State.heelSettle_keeps {r s : State} (h : r.Keeps s) :
    r.Keeps (s.heelSettle) := by
  unfold State.heelSettle
  repeat' first
    | with_reducible assumption | (intro _) | with_reducible apply State.setHeel_keeps
    | with_reducible apply State.freezeSession_keeps | with_reducible apply State.keeps_ite
    | with_reducible apply State.keeps_foldl

theorem State.haltJob_keeps {r s : State} (h : r.Keeps s) {n code} :
    r.Keeps (s.haltJob n code) := by
  unfold State.haltJob
  repeat' first
    | with_reducible assumption | (intro _) | with_reducible apply State.setJobState_keeps
    | with_reducible apply State.keeps_ite

theorem State.checkKennels_keeps {r s : State} (h : r.Keeps s) {x1 st} :
    r.Keeps (s.checkKennels x1 st) := by
  unfold State.checkKennels
  repeat' first
    | with_reducible assumption | (intro _) | with_reducible apply State.heelSettle_keeps
    | with_reducible apply State.haltJob_keeps | with_reducible apply State.keeps_ite
    | with_reducible apply State.keeps_foldl

theorem State.loseGroup_keeps {r s : State} (h : r.Keeps s) {b} :
    r.Keeps (s.loseGroup b) := by
  unfold State.loseGroup
  repeat' first
    | with_reducible assumption | (intro _) | with_reducible apply State.freeKennel_keeps
    | with_reducible apply State.cancelCores_keeps | with_reducible apply State.adjustImage_keeps
    | with_reducible apply State.checkKennels_keeps | with_reducible apply State.keeps_ite
    | with_reducible apply State.keeps_foldl | with_reducible apply State.keeps_foldl_fst
    | fail_if_no_progress (with_reducible apply State.keeps_mk) | split

theorem State.retireKennel_keeps {r s : State} (h : r.Keeps s) {k} :
    r.Keeps (s.retireKennel k) := by
  unfold State.retireKennel
  repeat' first
    | with_reducible assumption | (intro _) | with_reducible apply State.setReg_keeps
    | with_reducible apply State.loseGroup_keeps | with_reducible apply State.keeps_ite | split | dsimp only

theorem State.loadEnd_keeps {r s : State} (h : r.Keeps s) {e} :
    r.Keeps (s.loadEnd e) := by
  unfold State.loadEnd
  repeat' first
    | with_reducible assumption | (intro _) | with_reducible apply State.setBit_keeps
    | with_reducible apply State.setFld_keeps | with_reducible apply State.raise_keeps
    | with_reducible apply State.keeps_map_getD | fail_if_no_progress (with_reducible apply State.keeps_mk) | split

theorem State.loadGo_keeps {r s : State} (h : r.Keeps s) {op hedge} :
    r.Keeps (s.loadGo op hedge) := by
  unfold State.loadGo
  repeat' first
    | with_reducible assumption | (intro _) | with_reducible apply State.setFld_keeps
    | with_reducible apply State.clearReg_keeps | with_reducible apply State.loadEnd_keeps
    | with_reducible apply State.setBit_keeps | with_reducible apply State.keeps_ite
    | fail_if_no_progress (with_reducible apply State.keeps_mk)

theorem State.loadCtrlWrite_keeps {r s : State} (h : r.Keeps s) {v} :
    r.Keeps (s.loadCtrlWrite v) := by
  unfold State.loadCtrlWrite
  repeat' first
    | with_reducible assumption | (intro _) | with_reducible apply State.setFld_keeps
    | with_reducible apply State.loadGo_keeps | with_reducible apply State.keeps_ite

theorem State.setJobCode_keeps {r s : State} (h : r.Keeps s) {n code} :
    r.Keeps (s.setJobCode n code) := by
  unfold State.setJobCode
  repeat' first
    | with_reducible assumption | (intro _) | with_reducible apply State.setFld_keeps

theorem State.bindContext_keeps {r s : State} (h : r.Keeps s) {slot x2 m} :
    r.Keeps (s.bindContext slot x2 m) := by
  unfold State.bindContext
  repeat' first
    | with_reducible assumption | (intro _) | with_reducible apply State.keeps_ite
    | fail_if_no_progress (with_reducible apply State.keeps_mk)

theorem State.cancelMessages_keeps {r s : State} (h : r.Keeps s) {test} :
    r.Keeps (s.cancelMessages test) := by
  unfold State.cancelMessages
  repeat' first
    | with_reducible assumption | (intro _) | fail_if_no_progress (with_reducible apply State.keeps_mk)

theorem State.forgetMessages_keeps {r s : State} (h : r.Keeps s) {slot} :
    r.Keeps (s.forgetMessages slot) := by
  unfold State.forgetMessages
  repeat' first
    | with_reducible assumption | (intro _) | with_reducible apply State.cancelMessages_keeps

theorem State.clearJobRegs_keeps {r s : State} (h : r.Keeps s) {slot} :
    r.Keeps (s.clearJobRegs slot) := by
  unfold State.clearJobRegs
  repeat' first
    | with_reducible assumption | (intro _) | with_reducible apply State.clearRegs_keeps
    | with_reducible apply State.clearReg_keeps | fail_if_no_progress (with_reducible apply State.keeps_mk)

theorem State.startLog_keeps {r s : State} (h : r.Keeps s) {slot im} :
    r.Keeps (s.startLog slot im) := by
  unfold State.startLog
  repeat' first
    | with_reducible assumption | (intro _) | with_reducible apply State.setFld_keeps | split

theorem State.setMem_keeps {r s : State} (h : r.Keeps s) {sp m}
    (g : Memory.wf (s.mem sp) = true → Memory.wf m = true) : r.Keeps (s.setMem sp m) := by
  cases sp
  · exact State.keeps_memories h id g id
  · exact State.keeps_memories h g id id
  · exact State.keeps_memories h id id g

theorem State.writeMem_keeps {r s : State} (h : r.Keeps s) {sp a bs} :
    r.Keeps (s.writeMem sp a bs) := by
  exact State.setMem_keeps h fun x => Memory.wf_write x _ _

theorem State.gatherQueues_keeps {r s : State} (h : r.Keeps s) {slot} :
    r.Keeps (s.gatherQueues slot) := by
  unfold State.gatherQueues
  repeat' first
    | with_reducible assumption | (intro _) | with_reducible apply State.writeMem_keeps
    | with_reducible apply State.setReg_keeps | with_reducible apply State.keeps_foldl
    | with_reducible apply State.keeps_foldl_fst | fail_if_no_progress (with_reducible apply State.keeps_mk)

theorem State.allocQueue_keeps {r s : State} (h : r.Keeps s) {slot rank} {t : State} {q : Nat}
    (e : s.allocQueue slot rank = .ok (t, q)) : r.Keeps t := by
  unfold State.allocQueue at e
  split at e
  · dsimp only at e
    split at e
    · cases e
    · cases e
      exact State.setFld_keeps (State.setReg_keeps (State.setFld_keeps (State.setFld_keeps (State.setBit_keeps (State.setFld_keeps
        (State.setFld_keeps (State.keeps_mk (State.clearRegs_keeps (State.keeps_ite (State.gatherQueues_keeps h) h)))))))))
  · cases e

theorem State.showCursor_keeps {r s : State} (h : r.Keeps s) {slot rank c} :
    r.Keeps (s.showCursor slot rank c) := by
  unfold State.showCursor
  repeat' first
    | with_reducible assumption | (intro _) | with_reducible apply State.setFld_keeps | with_reducible apply State.keeps_ite
    | split

theorem State.addStream_keeps {r s : State} (h : r.Keeps s) {slot rank queue x4 next} :
    r.Keeps (s.addStream slot rank queue x4 next) := by
  unfold State.addStream
  repeat' first
    | with_reducible assumption | (intro _) | with_reducible apply State.showCursor_keeps
    | with_reducible apply State.adjustJob_keeps

theorem KeepsExc.foldl {α : Type} {r : State} {a : Except Nat State} {f : Except Nat State → α → Except Nat State} {xs : List α}
    (h : KeepsExc r a) (hf : ∀ b x, KeepsExc r b → KeepsExc r (f b x)) : KeepsExc r (xs.foldl f a) := by
  induction xs generalizing a with
  | nil => exact h
  | cons x xs ih => exact ih (hf a x h)

theorem State.allocAll_keeps {r s : State} (h : r.Keeps s) {slot j hasPack} : KeepsExc r (s.allocAll slot j hasPack) := by
  unfold State.allocAll
  split
  · exact KeepsExc.error
  split
  · exact KeepsExc.error
  refine KeepsExc.foldl (KeepsExc.ok h) fun b rank hb => ?_
  cases b with
  | error n => exact KeepsExc.error
  | ok t =>
    have ht := hb.all t rfl
    cases hp : hasPack with
    | false => exact KeepsExc.ok (State.addStream_keeps ht)
    | true =>
      cases e : t.allocQueue slot rank with
      | error n => refine ⟨fun u hu => ?_⟩; simp [e, bind, Except.bind] at hu
      | ok p =>
        refine ⟨fun u hu => ?_⟩
        simp [e, bind, Except.bind] at hu
        subst hu
        exact State.addStream_keeps (State.allocQueue_keeps ht e)

theorem State.acceptJob_keeps {r s : State} (h : r.Keeps s) {slot} :
    KeepsExc r (s.acceptJob slot) := by
  unfold State.acceptJob
  repeat' first
    | with_reducible assumption | (intro _) | with_reducible apply State.bindContext_keeps
    | with_reducible apply State.forgetMessages_keeps | with_reducible apply State.clearJobRegs_keeps
    | with_reducible apply State.setFld_keeps | with_reducible apply State.startLog_keeps
    | with_reducible apply State.setJobState_keeps | with_reducible apply State.allocAll_keeps
    | with_reducible apply KeepsExc.ite | with_reducible apply State.keeps_ite | with_reducible apply KeepsExc.bind
    | with_reducible exact KeepsExc.error | with_reducible apply KeepsExc.ok
    | fail_if_no_progress (with_reducible apply State.keeps_mk) | split | dsimp only

theorem State.accept_keeps {r s : State} (h : r.Keeps s) {slot} :
    r.Keeps (s.accept slot) := by
  unfold State.accept
  repeat' first
    | with_reducible assumption | (intro _) | with_reducible apply State.setJobCode_keeps
    | (with_reducible refine KeepsExc.of_eq ?_ (by assumption); with_reducible apply State.acceptJob_keeps)
    | with_reducible apply State.acceptJob_keeps | with_reducible apply State.keeps_ite | split

theorem State.keeps_foldl_opt {α β : Type} {r : State} {f : Option (State × β) → α → Option (State × β)}
    (hf : ∀ b x, (∀ p, b = some p → r.Keeps p.1) → ∀ p, f b x = some p → r.Keeps p.1) {xs : List α} {a : Option (State × β)}
    (h : ∀ p, a = some p → r.Keeps p.1) : ∀ p, xs.foldl f a = some p → r.Keeps p.1 := by
  induction xs generalizing a with
  | nil => exact h
  | cons x xs ih => exact ih (hf a x h)

theorem State.placeQueues_keeps {r s : State} (h : r.Keeps s) {slot} : KeepsExc r (s.placeQueues slot) := by
  unfold State.placeQueues
  dsimp only
  split
  · exact KeepsExc.error
  refine KeepsExc.ok (State.keeps_foldl ?_ fun t x ht => State.setFld_keeps ht)
  refine State.keeps_map_getD (fun p e => State.keeps_foldl_opt ?_ (fun p e => by cases e; exact h) p e)
    (State.gatherQueues_keeps h)
  intro b x hb p e
  cases b with
  | none => cases e
  | some a =>
    simp only [Option.bind_some, Option.map_eq_some_iff] at e
    obtain ⟨base, -, e⟩ := e
    cases e
    exact State.setReg_keeps (State.keeps_mk (hb a rfl))

theorem State.setupFailed_keeps {r s : State} (h : r.Keeps s) {k slot code} :
    r.Keeps (s.setupFailed k slot code) := by
  unfold State.setupFailed
  repeat' first
    | with_reducible assumption | (intro _) | with_reducible apply State.adjustJob_keeps
    | with_reducible apply State.setHeelState_keeps | with_reducible apply State.setHeel_keeps
    | with_reducible apply State.setJobCode_keeps | with_reducible apply State.setHeelCode_keeps

theorem State.poolRefuse_keeps {r s : State} (h : r.Keeps s) {handle stage code} :
    r.Keeps (s.poolRefuse handle stage code) := by
  unfold State.poolRefuse
  repeat' first
    | with_reducible assumption | (intro _) | with_reducible apply State.bumpSat_keeps
    | with_reducible apply State.setBit_keeps | with_reducible apply State.setFld_keeps
    | with_reducible apply State.raise_keeps

theorem State.setCore_keeps {r s : State} (h : r.Keeps s) {c x} :
    r.Keeps (s.setCore c x) := by
  unfold State.setCore
  repeat' first
    | with_reducible assumption | (intro _) | fail_if_no_progress (with_reducible apply State.keeps_mk)

theorem State.grantCore_keeps {r s : State} (h : r.Keeps s) {who handle} :
    r.Keeps (s.grantCore who handle) := by
  unfold State.grantCore
  repeat' first
    | with_reducible assumption | (intro _) | with_reducible apply State.setCore_keeps | split

theorem State.showPool_keeps {r s : State} (h : r.Keeps s) {k p} :
    r.Keeps (s.showPool k p) := by
  unfold State.showPool
  repeat' first
    | with_reducible assumption | (intro _) | with_reducible apply State.setFld_keeps
    | with_reducible apply State.setBit_keeps

theorem State.setPool_keeps {r s : State} (h : r.Keeps s) {k p} :
    r.Keeps (s.setPool k p) := by
  unfold State.setPool
  repeat' first
    | with_reducible assumption | (intro _) | with_reducible apply State.showPool_keeps
    | fail_if_no_progress (with_reducible apply State.keeps_mk)

theorem State.drew_keeps {r s : State} (h : r.Keeps s) :
    r.Keeps (s.drew) := by
  unfold State.drew
  repeat' first
    | with_reducible assumption | (intro _) | fail_if_no_progress (with_reducible apply State.keeps_mk)

theorem State.poolTake_keeps {r s : State} (h : r.Keeps s) {k p stage} :
    r.Keeps (s.poolTake k p stage).1 := by
  unfold State.poolTake
  repeat' first
    | with_reducible assumption | (intro _) | with_reducible apply State.setPool_keeps
    | with_reducible apply State.drew_keeps

theorem State.poolServe_keeps {r s : State} (h : r.Keeps s) {k n} : r.Keeps (State.poolServe k n s) := by
  induction n generalizing s with
  | zero => exact h
  | succ n ih =>
    unfold State.poolServe
    repeat' first
      | with_reducible assumption | with_reducible apply ih | with_reducible apply State.grantCore_keeps
      | with_reducible apply State.bump_keeps | with_reducible apply State.poolTake_keeps | split

theorem State.poolRelease_keeps {r s : State} (h : r.Keeps s) {handle stage} :
    r.Keeps (s.poolRelease handle stage) := by
  unfold State.poolRelease
  repeat' first
    | with_reducible assumption | (intro _) | with_reducible apply State.poolRefuse_keeps
    | with_reducible apply State.poolServe_keeps | with_reducible apply State.setPool_keeps
    | with_reducible apply State.keeps_ite | split | dsimp only

theorem State.dropKept_keeps {r s : State} (h : r.Keeps s) {k free} :
    r.Keeps (s.dropKept k free) := by
  unfold State.dropKept
  repeat' first
    | with_reducible assumption | (intro _) | with_reducible apply State.setHeel_keeps
    | with_reducible apply State.poolRelease_keeps | with_reducible apply State.keeps_ite
    | with_reducible apply State.keeps_foldl

theorem State.heelClaim_keeps {r s : State} (h : r.Keeps s) {k slot j} :
    r.Keeps (s.heelClaim k slot j) := by
  unfold State.heelClaim
  repeat' first
    | with_reducible assumption | (intro _) | with_reducible apply State.keeps_ite
    | fail_if_no_progress (with_reducible apply State.keeps_mk)

theorem State.settleExhausted_keeps {r s : State} (h : r.Keeps s) {slot} :
    r.Keeps (s.settleExhausted slot) := by
  unfold State.settleExhausted
  repeat' first
    | with_reducible assumption | (intro _) | with_reducible apply State.setJobState_keeps
    | with_reducible apply State.adjustJob_keeps | with_reducible apply State.keeps_ite | split

theorem State.haltUnserved_keeps {r s : State} (h : r.Keeps s) {slot} :
    r.Keeps (s.haltUnserved slot) := by
  unfold State.haltUnserved
  repeat' first
    | with_reducible assumption | (intro _) | with_reducible apply State.haltJob_keeps
    | with_reducible apply State.keeps_ite | split

theorem State.beginRun_keeps {r s : State} (h : r.Keeps s) {slot} :
    r.Keeps (s.beginRun slot) := by
  unfold State.beginRun
  repeat' first
    | with_reducible assumption | (intro _) | with_reducible apply State.adjustJob_keeps
    | with_reducible apply State.setFld_keeps | with_reducible apply State.settleExhausted_keeps
    | with_reducible apply State.haltUnserved_keeps | with_reducible apply State.setJobState_keeps
    | with_reducible apply State.keeps_ite | split

theorem State.setupBoth_keeps {r s : State} (h : r.Keeps s) {k slot} :
    r.Keeps (s.setupBoth k slot) := by
  unfold State.setupBoth
  repeat' first
    | with_reducible assumption | (intro _) | with_reducible apply State.setupFailed_keeps
    | with_reducible apply State.setHeel_keeps | with_reducible apply State.beginRun_keeps
    | with_reducible apply State.setHeelCode_keeps | with_reducible apply State.setHeelState_keeps
    | with_reducible apply State.keeps_ite | split | dsimp only

theorem State.startHeel_keeps {r s : State} (h : r.Keeps s) {k slot j} :
    r.Keeps (s.startHeel k slot j) := by
  unfold State.startHeel
  repeat' first
    | with_reducible assumption | (intro _) | with_reducible apply State.setupFailed_keeps
    | with_reducible apply State.dropKept_keeps | with_reducible apply State.heelSend_keeps
    | with_reducible apply State.adjustJob_keeps | with_reducible apply State.setHeel_keeps
    | with_reducible apply State.heelClaim_keeps | with_reducible apply State.setHeelState_keeps
    | with_reducible apply State.setupBoth_keeps | with_reducible apply State.keeps_ite

theorem State.startNow_keeps {r s : State} (h : r.Keeps s) {slot} :
    r.Keeps (s.startNow slot) := by
  unfold State.startNow
  repeat' first
    | with_reducible assumption | (intro _)
    | (with_reducible refine KeepsExc.of_eq ?_ (by assumption); with_reducible apply State.placeQueues_keeps)
    | with_reducible apply State.placeQueues_keeps | with_reducible apply State.setJobCode_keeps
    | with_reducible apply State.adjustJob_keeps | with_reducible apply State.startHeel_keeps
    | with_reducible apply State.beginRun_keeps | with_reducible apply State.keeps_ite | split | dsimp only

theorem State.start_keeps {r s : State} (h : r.Keeps s) {slot} :
    r.Keeps (s.start slot) := by
  unfold State.start
  repeat' first
    | with_reducible assumption | (intro _) | with_reducible apply State.setJobCode_keeps
    | with_reducible apply State.startNow_keeps | with_reducible apply State.adjustJob_keeps
    | with_reducible apply State.keeps_ite | split

theorem State.deliveryLoop_keeps {r s : State} (h : r.Keeps s) {slot rank dest n} :
    r.Keeps (State.deliveryLoop slot rank dest n s) := by
  induction n generalizing s with
  | zero => exact h
  | succ n ih =>
    unfold State.deliveryLoop
    split
    · next t e => exact ih ((State.deliveryStep_keeps h).of_eq e)
    · exact h

theorem State.deliverRank_keeps {r s : State} (h : r.Keeps s) {slot rank} :
    r.Keeps (s.deliverRank slot rank) := by
  unfold State.deliverRank
  repeat' first
    | with_reducible assumption | (intro _) | with_reducible apply State.deliveryLoop_keeps
    | with_reducible apply State.keeps_foldl | with_reducible apply State.keeps_foldl_fst
    | with_reducible apply State.keeps_map_getD | split

theorem State.packItem_keeps {r s : State} (h : r.Keeps s) {slot p d} :
    r.Keeps (s.packItem slot p d) := by
  unfold State.packItem
  repeat' first
    | with_reducible assumption | (intro _) | fail_if_no_progress (with_reducible apply State.keeps_mk) | split

theorem State.showPending_keeps {r s : State} (h : r.Keeps s) {k} :
    r.Keeps (s.showPending k) := by
  unfold State.showPending
  repeat' first
    | with_reducible assumption | (intro _) | with_reducible apply State.setFld_keeps

theorem State.lateMismatch_keeps {r s : State} (h : r.Keeps s) {k} :
    r.Keeps (s.lateMismatch k) := by
  unfold State.lateMismatch
  repeat' first
    | with_reducible assumption | (intro _) | with_reducible apply State.setHeelCode_keeps
    | with_reducible apply State.setBit_keeps | with_reducible apply State.setJobCode_keeps
    | with_reducible apply State.keeps_ite

theorem State.heelMismatch_keeps {r s : State} (h : r.Keeps s) {k m} :
    r.Keeps (s.heelMismatch k m) := by
  unfold State.heelMismatch
  repeat' first
    | with_reducible assumption | (intro _) | with_reducible apply State.setHeel_keeps
    | with_reducible apply State.lateMismatch_keeps | with_reducible apply State.freezeSession_keeps
    | with_reducible apply State.keeps_ite

theorem State.compareStage_keeps {r s : State} (h : r.Keeps s) {k own peer} :
    r.Keeps (s.compareStage k own peer) := by
  unfold State.compareStage
  repeat' first
    | with_reducible assumption | (intro _) | with_reducible apply State.bump_keeps
    | with_reducible apply State.setHeel_keeps | with_reducible apply State.dropKept_keeps
    | with_reducible apply State.heelMismatch_keeps | with_reducible apply State.keeps_ite

theorem State.heelOwnStage_keeps {r s : State} (h : r.Keeps s) {k d} :
    r.Keeps (s.heelOwnStage k d) := by
  unfold State.heelOwnStage
  repeat' first
    | with_reducible assumption | (intro _) | with_reducible apply State.heelSend_keeps
    | with_reducible apply State.showPending_keeps | with_reducible apply State.compareStage_keeps
    | with_reducible apply State.setHeel_keeps | split

theorem State.heelDone_keeps {r s : State} (h : r.Keeps s) {im slot stage epoch pos} :
    r.Keeps (s.heelDone im slot stage epoch pos) := by
  unfold State.heelDone
  repeat' first
    | with_reducible assumption | (intro _) | with_reducible apply State.heelOwnStage_keeps
    | with_reducible apply State.setHeel_keeps | with_reducible apply State.keeps_ite | split

theorem State.heelReleased_keeps {r s : State} (h : r.Keeps s) {slot epoch pos} :
    r.Keeps (s.heelReleased slot epoch pos) := by
  unfold State.heelReleased
  repeat' first
    | with_reducible assumption | (intro _) | with_reducible apply State.heelDone_keeps
    | with_reducible apply State.keeps_foldl | with_reducible apply State.keeps_foldl_fst | split

theorem State.releasePlace_keeps {r s : State} (h : r.Keeps s) {slot rank p extra} :
    r.Keeps (s.releasePlace slot rank p extra) := by
  unfold State.releasePlace
  repeat' first
    | with_reducible assumption | (intro _) | with_reducible apply State.bump_keeps
    | with_reducible apply State.packItem_keeps | with_reducible apply State.adjustJob_keeps
    | with_reducible apply State.heelReleased_keeps | with_reducible apply State.keeps_ite | split

theorem State.closeEpoch_keeps {r s : State} (h : r.Keeps s) {slot rank epoch stopped} :
    r.Keeps (s.closeEpoch slot rank epoch stopped) := by
  unfold State.closeEpoch
  repeat' first
    | with_reducible assumption | (intro _) | with_reducible apply State.adjustJob_keeps
    | with_reducible apply State.bump_keeps | split

theorem State.releaseStep_keeps {r s : State} (h : r.Keeps s) {slot rank} :
    KeepsOpt r (s.releaseStep slot rank) := by
  unfold State.releaseStep
  repeat' first
    | with_reducible assumption | (intro _) | with_reducible apply State.releasePlace_keeps
    | with_reducible apply State.adjustJob_keeps | with_reducible apply State.closeEpoch_keeps
    | with_reducible apply KeepsOpt.ite | with_reducible apply State.keeps_ite | with_reducible apply State.keeps_map_getD
    | with_reducible exact KeepsOpt.none | with_reducible apply KeepsOpt.some | split

theorem State.markCompared_keeps {r s : State} (h : r.Keeps s) {q epoch index} :
    r.Keeps (s.markCompared q epoch index) := by
  unfold State.markCompared
  repeat' first
    | with_reducible assumption | (intro _) | with_reducible apply State.freeEntries_keeps
    | with_reducible apply State.keeps_ite | fail_if_no_progress (with_reducible apply State.keeps_mk) | split

theorem State.compareBatch_keeps {r s : State} (h : r.Keeps s) {k own peer} :
    r.Keeps (s.compareBatch k own peer) := by
  unfold State.compareBatch
  repeat' first
    | with_reducible assumption | (intro _) | with_reducible apply State.bumpSat_keeps
    | with_reducible apply State.bump_keeps | with_reducible apply State.markCompared_keeps
    | with_reducible apply State.heelMismatch_keeps | with_reducible apply State.keeps_ite | split | dsimp only

theorem State.heelOwnBatch_keeps {r s : State} (h : r.Keeps s) {k d} :
    r.Keeps (s.heelOwnBatch k d) := by
  unfold State.heelOwnBatch
  repeat' first
    | with_reducible assumption | (intro _) | with_reducible apply State.heelSend_keeps
    | with_reducible apply State.showPending_keeps | with_reducible apply State.compareBatch_keeps
    | with_reducible apply State.setHeel_keeps | split

theorem State.heelPacked_keeps {r s : State} (h : r.Keeps s) {slot rank b} :
    r.Keeps (s.heelPacked slot rank b) := by
  unfold State.heelPacked
  repeat' first
    | with_reducible assumption | (intro _) | with_reducible apply State.heelOwnBatch_keeps
    | with_reducible apply State.keeps_ite | split

theorem State.pushBatch_keeps {r s : State} (h : r.Keeps s) {slot q ordinal refs b} :
    r.Keeps (s.pushBatch slot q ordinal refs b) := by
  unfold State.pushBatch
  repeat' first
    | with_reducible assumption | (intro _) | with_reducible apply State.writeMem_keeps
    | with_reducible apply State.showQueue_keeps | with_reducible apply State.bump_keeps
    | fail_if_no_progress (with_reducible apply State.keeps_mk) | split

theorem State.pushWaiting_keeps {r s : State} (h : r.Keeps s) {slot rank n} :
    r.Keeps (State.pushWaiting slot rank n s) := by
  induction n generalizing s with
  | zero => exact h
  | succ n ih =>
    unfold State.pushWaiting
    repeat' first
      | with_reducible assumption | with_reducible apply ih | with_reducible apply State.heelPacked_keeps
      | with_reducible apply State.bump_keeps | with_reducible apply State.pushBatch_keeps
      | with_reducible apply State.adjustJob_keeps | split

theorem State.pushAll_keeps {r s : State} (h : r.Keeps s) {slot rank} :
    r.Keeps (s.pushAll slot rank) := by
  unfold State.pushAll
  repeat' first
    | with_reducible assumption | (intro _) | with_reducible apply State.pushWaiting_keeps | split

theorem State.releaseLoop_keeps {r s : State} (h : r.Keeps s) {slot rank n} :
    r.Keeps (State.releaseLoop slot rank n s) := by
  induction n generalizing s with
  | zero => exact h
  | succ n ih =>
    unfold State.releaseLoop
    dsimp only
    split
    · next u e => exact ih ((State.releaseStep_keeps (State.pushAll_keeps h)).of_eq e)
    · exact State.pushAll_keeps h

theorem State.packOn_keeps {r s : State} (h : r.Keeps s) {slot rank} :
    r.Keeps (s.packOn slot rank) := by
  unfold State.packOn
  repeat' first
    | with_reducible assumption | (intro _) | with_reducible apply State.releaseLoop_keeps | split

theorem State.flowRank_keeps {r s : State} (h : r.Keeps s) {slot rank} :
    r.Keeps (s.flowRank slot rank) := by
  unfold State.flowRank
  repeat' first
    | with_reducible assumption | (intro _) | with_reducible apply State.deliverRank_keeps
    | with_reducible apply State.packOn_keeps

theorem State.flowJob_keeps {r s : State} (h : r.Keeps s) {slot} :
    r.Keeps (s.flowJob slot) := by
  unfold State.flowJob
  repeat' first
    | with_reducible assumption | (intro _) | with_reducible apply State.flowRank_keeps
    | with_reducible apply State.keeps_foldl | with_reducible apply State.keeps_foldl_fst | split

theorem State.stop_keeps {r s : State} (h : r.Keeps s) {slot} :
    r.Keeps (s.stop slot) := by
  unfold State.stop
  repeat' first
    | with_reducible assumption | (intro _) | with_reducible apply State.setJobCode_keeps
    | with_reducible apply State.adjustJob_keeps | with_reducible apply State.flowJob_keeps
    | with_reducible apply State.setJobState_keeps | with_reducible apply State.keeps_ite

theorem State.emptyQueue_keeps {r s : State} (h : r.Keeps s) {q} :
    r.Keeps (s.emptyQueue q) := by
  unfold State.emptyQueue
  repeat' first
    | with_reducible assumption | (intro _) | with_reducible apply State.showQueue_keeps
    | fail_if_no_progress (with_reducible apply State.keeps_mk) | split

theorem State.emptyQueues_keeps {r s : State} (h : r.Keeps s) {slot} :
    r.Keeps (s.emptyQueues slot) := by
  unfold State.emptyQueues
  repeat' first
    | with_reducible assumption | (intro _) | with_reducible apply State.emptyQueue_keeps
    | with_reducible apply State.keeps_foldl

theorem State.discardWork_keeps {r s : State} (h : r.Keeps s) {slot} :
    r.Keeps (s.discardWork slot) := by
  unfold State.discardWork
  repeat' first
    | with_reducible assumption | (intro _) | with_reducible apply State.adjustJob_keeps
    | fail_if_no_progress (with_reducible apply State.keeps_mk)

theorem State.abort_keeps {r s : State} (h : r.Keeps s) {slot} :
    r.Keeps (s.abort slot) := by
  unfold State.abort
  repeat' first
    | with_reducible assumption | (intro _) | with_reducible apply State.setJobCode_keeps
    | with_reducible apply State.adjustJob_keeps | with_reducible apply State.emptyQueues_keeps
    | with_reducible apply State.discardWork_keeps | with_reducible apply State.setJobState_keeps
    | with_reducible apply State.keeps_ite

theorem State.heelLeave_keeps {r s : State} (h : r.Keeps s) {slot} :
    r.Keeps (s.heelLeave slot) := by
  unfold State.heelLeave
  repeat' first
    | with_reducible assumption | (intro _) | with_reducible apply State.dropKept_keeps
    | with_reducible apply State.setHeelState_keeps | with_reducible apply State.keeps_ite
    | with_reducible apply State.keeps_foldl

theorem State.freeQueue_keeps {r s : State} (h : r.Keeps s) {q} :
    r.Keeps (s.freeQueue q) := by
  unfold State.freeQueue
  repeat' first
    | with_reducible assumption | (intro _) | with_reducible apply State.clearRegs_keeps
    | fail_if_no_progress (with_reducible apply State.keeps_mk)

theorem State.freeQueues_keeps {r s : State} (h : r.Keeps s) {slot} :
    r.Keeps (s.freeQueues slot) := by
  unfold State.freeQueues
  repeat' first
    | with_reducible assumption | (intro _) | with_reducible apply State.freeQueue_keeps
    | with_reducible apply State.keeps_foldl

theorem State.dropJob_keeps {r s : State} (h : r.Keeps s) {slot} :
    r.Keeps (s.dropJob slot) := by
  unfold State.dropJob
  repeat' first
    | with_reducible assumption | (intro _) | with_reducible apply State.heelLeave_keeps
    | with_reducible apply State.forgetMessages_keeps | with_reducible apply State.freeQueues_keeps
    | with_reducible apply State.setJobState_keeps | with_reducible apply State.keeps_ite
    | fail_if_no_progress (with_reducible apply State.keeps_mk)

theorem State.clearSlot_keeps {r s : State} (h : r.Keeps s) {slot} :
    r.Keeps (s.clearSlot slot) := by
  unfold State.clearSlot
  repeat' first
    | with_reducible assumption | (intro _) | with_reducible apply State.dropJob_keeps
    | with_reducible apply State.setJobCode_keeps | with_reducible apply State.keeps_ite

theorem State.jobCtrlWrite_keeps {r s : State} (h : r.Keeps s) {slot v} :
    r.Keeps (s.jobCtrlWrite slot v) := by
  unfold State.jobCtrlWrite
  repeat' first
    | with_reducible assumption | (intro _) | with_reducible apply State.heelSettle_keeps
    | with_reducible apply State.accept_keeps | with_reducible apply State.start_keeps
    | with_reducible apply State.stop_keeps | with_reducible apply State.abort_keeps
    | with_reducible apply State.clearSlot_keeps | split

theorem State.pbqDepthWrite_keeps {r s : State} (h : r.Keeps s) {q v} :
    r.Keeps (s.pbqDepthWrite q v) := by
  unfold State.pbqDepthWrite
  repeat' first
    | with_reducible assumption | (intro _) | with_reducible apply State.setFld_keeps | with_reducible apply State.keeps_ite
    | split

theorem State.heelCtrlWrite_keeps {r s : State} (h : r.Keeps s) {k v} :
    r.Keeps (s.heelCtrlWrite k v) := by
  unfold State.heelCtrlWrite
  repeat' first
    | with_reducible assumption | (intro _) | with_reducible apply State.setReg_keeps
    | with_reducible apply State.setHeelState_keeps | with_reducible apply State.showPending_keeps
    | with_reducible apply State.setHeel_keeps | with_reducible apply State.clearReg_keeps
    | with_reducible apply State.dropKept_keeps | with_reducible apply State.keeps_ite
    | fail_if_no_progress (with_reducible apply State.keeps_mk)

theorem State.heelLinkselWrite_keeps {r s : State} (h : r.Keeps s) {k v} :
    r.Keeps (s.heelLinkselWrite k v) := by
  unfold State.heelLinkselWrite
  repeat' first
    | with_reducible assumption | (intro _) | with_reducible apply State.setReg_keeps | with_reducible apply State.keeps_ite

theorem State.loseHalfDie_keeps {r s : State} (h : r.Keeps s) {d} :
    r.Keeps (s.loseHalfDie d) := by
  unfold State.loseHalfDie
  repeat' first
    | with_reducible assumption | (intro _) | fail_if_no_progress (with_reducible apply State.keeps_mk)

theorem State.powerDomain_keeps {r s : State} (h : r.Keeps s) {d on} :
    r.Keeps (s.powerDomain d on) := by
  unfold State.powerDomain
  repeat' first
    | with_reducible assumption | (intro _) | with_reducible apply State.setFld_keeps
    | with_reducible apply State.loseHalfDie_keeps | with_reducible apply State.keeps_ite

theorem State.settleDomains_keeps {r s : State} (h : r.Keeps s) :
    r.Keeps (s.settleDomains) := by
  unfold State.settleDomains
  repeat' first
    | with_reducible assumption | (intro _) | with_reducible apply State.powerDomain_keeps
    | with_reducible apply State.keeps_ite | with_reducible apply State.keeps_foldl

theorem State.portCfgWrite_keeps {r s : State} (h : r.Keeps s) {p v} :
    r.Keeps (s.portCfgWrite p v) := by
  unfold State.portCfgWrite
  repeat' first
    | with_reducible assumption | (intro _) | with_reducible apply State.setFld_keeps
    | with_reducible apply State.setBit_keeps | with_reducible apply State.settleDomains_keeps
    | with_reducible apply State.keeps_ite

theorem State.setTokens_keeps {r s : State} (h : r.Keeps s) {p sub c fine} :
    r.Keeps (s.setTokens p sub c fine) := by
  unfold State.setTokens
  repeat' first
    | with_reducible assumption | (intro _) | with_reducible apply State.setPort_keeps
    | with_reducible apply State.setFld_keeps

theorem State.resetTokens_keeps {r s : State} (h : r.Keeps s) {p sub c} :
    r.Keeps (s.resetTokens p sub c) := by
  unfold State.resetTokens
  repeat' first
    | with_reducible assumption | (intro _) | with_reducible apply State.setTokens_keeps

theorem State.shaperRateWrite_keeps {r s : State} (h : r.Keeps s) {p sub c v} :
    r.Keeps (s.shaperRateWrite p sub c v) := by
  unfold State.shaperRateWrite
  repeat' first
    | with_reducible assumption | (intro _) | with_reducible apply State.setFld_keeps
    | with_reducible apply State.resetTokens_keeps

theorem State.shaperBurstWrite_keeps {r s : State} (h : r.Keeps s) {p sub c v} :
    r.Keeps (s.shaperBurstWrite p sub c v) := by
  unfold State.shaperBurstWrite
  repeat' first
    | with_reducible assumption | (intro _) | with_reducible apply State.resetTokens_keeps
    | with_reducible apply State.setFld_keeps

theorem State.setFltState_keeps {r s : State} (h : r.Keeps s) {st} :
    r.Keeps (s.setFltState st) := by
  unfold State.setFltState
  repeat' first
    | with_reducible assumption | (intro _) | with_reducible apply State.setFld_keeps

theorem State.leaveFleet_keeps {r s : State} (h : r.Keeps s) :
    r.Keeps (s.leaveFleet) := by
  unfold State.leaveFleet
  repeat' first
    | with_reducible assumption | (intro _) | with_reducible apply State.clearReg_keeps
    | with_reducible apply State.setFltState_keeps | with_reducible apply State.setFld_keeps
    | fail_if_no_progress (with_reducible apply State.keeps_mk)

theorem State.setFltCode_keeps {r s : State} (h : r.Keeps s) {c} :
    r.Keeps (s.setFltCode c) := by
  unfold State.setFltCode
  repeat' first
    | with_reducible assumption | (intro _) | with_reducible apply State.setFld_keeps

theorem State.sendRoster_keeps {r s : State} (h : r.Keeps s) :
    r.Keeps (s.sendRoster) := by
  unfold State.sendRoster
  repeat' first
    | with_reducible assumption | (intro _) | with_reducible apply State.fleetSend_keeps
    | with_reducible apply State.keeps_foldl | with_reducible apply State.keeps_foldl_fst | split

theorem State.showRoster_keeps {r s : State} (h : r.Keeps s) {x1} :
    r.Keeps (s.showRoster x1) := by
  unfold State.showRoster
  repeat' first
    | with_reducible assumption | (intro _) | with_reducible apply State.setFld_keeps | with_reducible apply State.keeps_ite
    | with_reducible apply State.keeps_map_getD | split

theorem State.releaseHeld_keeps {r s : State} (h : r.Keeps s) :
    r.Keeps (s.releaseHeld) := by
  unfold State.releaseHeld
  repeat' first
    | with_reducible assumption | (intro _) | with_reducible apply State.adjustFleet_keeps
    | with_reducible apply State.adjustJob_keeps | with_reducible apply State.fleetPost_keeps
    | with_reducible apply State.keeps_foldl

theorem State.adoptRoster_keeps {r s : State} (h : r.Keeps s) {x1} :
    r.Keeps (s.adoptRoster x1) := by
  unfold State.adoptRoster
  repeat' first
    | with_reducible assumption | (intro _) | with_reducible apply State.adjustFleet_keeps
    | with_reducible apply State.showRoster_keeps | with_reducible apply State.bumpSat_keeps
    | with_reducible apply State.adjustCtx_keeps | with_reducible apply State.raise_keeps
    | with_reducible apply State.releaseHeld_keeps | with_reducible apply State.keeps_ite | split

theorem State.formFleet_keeps {r s : State} (h : r.Keeps s) {j} :
    r.Keeps (s.formFleet j) := by
  unfold State.formFleet
  repeat' first
    | with_reducible assumption | (intro _) | with_reducible apply State.sendRoster_keeps
    | with_reducible apply State.setFltState_keeps | with_reducible apply State.adoptRoster_keeps
    | with_reducible apply State.setFltCode_keeps | with_reducible apply State.setBit_keeps
    | with_reducible apply State.keeps_ite

theorem State.sendJoin_keeps {r s : State} (h : r.Keeps s) {j} :
    r.Keeps (s.sendJoin j) := by
  unfold State.sendJoin
  repeat' first
    | with_reducible assumption | (intro _) | with_reducible apply State.fleetSend_keeps
    | with_reducible apply State.setFltState_keeps

theorem State.fleetControl_keeps {r s : State} (h : r.Keeps s) {v} :
    r.Keeps (s.fleetControl v) := by
  unfold State.fleetControl
  repeat' first
    | with_reducible assumption | (intro _) | with_reducible apply State.leaveFleet_keeps
    | with_reducible apply State.setFld_keeps | with_reducible apply State.setBit_keeps
    | with_reducible apply State.setFltCode_keeps | with_reducible apply State.formFleet_keeps
    | with_reducible apply State.sendJoin_keeps | with_reducible apply State.keeps_ite | split

theorem State.fleetConfig_keeps {r s : State} (h : r.Keeps s) {reg v} :
    r.Keeps (s.fleetConfig reg v) := by
  unfold State.fleetConfig
  repeat' first
    | with_reducible assumption | (intro _) | with_reducible apply State.fleetControl_keeps
    | with_reducible apply State.setFld_keeps | with_reducible apply State.keeps_ite | split

theorem State.answers_keeps {r s : State} (h : r.Keeps s) {code} :
    Answer.Keeps r (s.answers code) := by
  unfold State.answers
  repeat' first
    | with_reducible assumption | (intro _) | split | dsimp only [id] | with_reducible apply Answer.keeps_mk

theorem State.runEnvelope_keeps {r s : State} (h : r.Keeps s) {fromHost e body} (hf : ∀ a0 t, r.Keeps t → (body a0 t).Keeps r) :
    Answer.Keeps r (s.runEnvelope fromHost e body) := by
  unfold State.runEnvelope
  repeat' first
    | with_reducible assumption | (intro _) | with_reducible apply State.answers_keeps
    | with_reducible apply State.setReg_keeps | with_reducible apply hf | with_reducible apply Answer.keeps_ite

theorem State.postResult_keeps {r s : State} (h : r.Keeps s) {fromHost code data} :
    r.Keeps (s.postResult fromHost code data) := by
  unfold State.postResult
  repeat' first
    | with_reducible assumption | (intro _) | with_reducible apply State.clearRegs_keeps
    | with_reducible apply State.setReg_keeps | with_reducible apply State.setBit_keeps
    | with_reducible apply State.setFld_keeps | with_reducible apply State.raise_keeps
    | with_reducible apply State.keeps_ite | with_reducible apply State.keeps_foldl
    | with_reducible apply State.keeps_foldl_fst | fail_if_no_progress (with_reducible apply State.keeps_mk)

theorem State.mgmtRun_keeps {r s : State} (h : r.Keeps s) {src b body}
    (hf : ∀ e t, r.Keeps t → Answer.Keeps r (body e t)) : r.Keeps (s.mgmtRun src b body) := by
  unfold State.mgmtRun
  have ha : ∀ a : Answer, Answer.Keeps r a →
      r.Keeps ((a.after (a.state.postResult (fromHost src) a.code a.data)).heelSettle) :=
    fun a g => State.heelSettle_keeps (g.2 _ (State.postResult_keeps g.1))
  refine ha _ ?_
  split
  · exact State.answers_keeps h
  · exact State.runEnvelope_keeps h hf

theorem State.adjustSheep_keeps {r s : State} (h : r.Keeps s) {f} :
    r.Keeps (s.adjustSheep f) := by
  unfold State.adjustSheep
  repeat' first
    | with_reducible assumption | (intro _) | fail_if_no_progress (with_reducible apply State.keeps_mk)

theorem State.stageFirmware_keeps {r s : State} (h : r.Keeps s) {offset data} :
    r.Keeps (s.stageFirmware offset data) := by
  unfold State.stageFirmware
  repeat' first
    | with_reducible assumption | (intro _) | with_reducible apply State.adjustSheep_keeps

theorem fwStageBody_keeps {r s : State} (h : r.Keeps s) {e} :
    Answer.Keeps r (fwStageBody e s) := by
  unfold fwStageBody
  repeat' first
    | with_reducible assumption | (intro _) | with_reducible apply State.stageFirmware_keeps
    | with_reducible apply State.answers_keeps | with_reducible apply State.adjustSheep_keeps
    | with_reducible apply Answer.keeps_ite

theorem State.adjustStore_keeps {r s : State} (h : r.Keeps s) {f} :
    r.Keeps (s.adjustStore f) := by
  unfold State.adjustStore
  repeat' first
    | with_reducible assumption | (intro _) | fail_if_no_progress (with_reducible apply State.keeps_mk)

theorem State.trsFinish_keeps {r s : State} (h : r.Keeps s) {x1 code done} :
    r.Keeps (s.trsFinish x1 code done) := by
  unfold State.trsFinish
  repeat' first
    | with_reducible assumption | (intro _) | with_reducible apply State.setReg_keeps
    | with_reducible apply State.raise_keeps | with_reducible apply State.keeps_ite
    | fail_if_no_progress (with_reducible apply State.keeps_mk)

theorem State.quiesceStore_keeps {r s : State} (h : r.Keeps s) :
    r.Keeps (s.quiesceStore) := by
  unfold State.quiesceStore
  repeat' first
    | with_reducible assumption | (intro _) | with_reducible apply State.adjustStore_keeps
    | with_reducible apply State.trsFinish_keeps | with_reducible apply State.keeps_ite
    | with_reducible apply State.keeps_foldl

theorem fwActivateBody_keeps {r s : State} (h : r.Keeps s) {x0} :
    Answer.Keeps r (fwActivateBody x0 s) := by
  unfold fwActivateBody
  repeat' first
    | with_reducible assumption | (intro _) | with_reducible apply State.answers_keeps
    | with_reducible apply State.quiesceStore_keeps | with_reducible apply Answer.keeps_ite

theorem State.swapSlot_keeps {r s : State} (h : r.Keeps s) :
    r.Keeps (s.swapSlot) := by
  unfold State.swapSlot
  repeat' first
    | with_reducible assumption | (intro _) | with_reducible apply State.setReg_keeps
    | with_reducible apply State.setFld_keeps

theorem State.setStage_keeps {r s : State} (h : r.Keeps s) {n} :
    r.Keeps (s.setStage n) := by
  unfold State.setStage
  repeat' first
    | with_reducible assumption | (intro _) | with_reducible apply State.setFld_keeps

theorem State.beginStart_keeps {r s : State} (h : r.Keeps s) {stage} :
    r.Keeps (s.beginStart stage) := by
  unfold State.beginStart
  repeat' first
    | with_reducible assumption | (intro _) | with_reducible apply State.swapSlot_keeps
    | with_reducible apply State.setBit_keeps | with_reducible apply State.setStage_keeps
    | with_reducible apply State.adjustSheep_keeps | with_reducible apply State.keeps_ite
    | fail_if_no_progress (with_reducible apply State.keeps_mk)

theorem State.setCause_keeps {r s : State} (h : r.Keeps s) {c} :
    r.Keeps (s.setCause c) := by
  unfold State.setCause
  repeat' first
    | with_reducible assumption | (intro _) | with_reducible apply State.setFld_keeps

theorem State.endSweeps_keeps {r s : State} (h : r.Keeps s) :
    r.Keeps (s.endSweeps) := by
  unfold State.endSweeps
  repeat' first
    | with_reducible assumption | (intro _) | with_reducible apply State.setBit_keeps
    | with_reducible apply State.adjustStore_keeps | with_reducible apply State.keeps_foldl

theorem State.bumpRange_keeps {r s : State} (h : r.Keeps s) {n lba count} :
    r.Keeps (s.bumpRange n lba count) := by
  unfold State.bumpRange
  repeat' first
    | with_reducible assumption | (intro _) | with_reducible apply State.keeps_ite
    | fail_if_no_progress (with_reducible apply State.keeps_mk)

theorem State.adjustHealth_keeps {r s : State} (h : r.Keeps s) {f} :
    r.Keeps (s.adjustHealth f) := by
  unfold State.adjustHealth
  repeat' first
    | with_reducible assumption | (intro _) | with_reducible apply State.adjustStore_keeps

theorem State.setChk_keeps {r s : State} (h : r.Keeps s) {u x} :
    r.Keeps (s.setChk u x) := by
  unfold State.setChk
  repeat' first
    | with_reducible assumption | (intro _) | fail_if_no_progress (with_reducible apply State.keeps_mk)

theorem State.chkEndRecord_keeps {r s : State} (h : r.Keeps s) {u} :
    r.Keeps (s.chkEndRecord u) := by
  unfold State.chkEndRecord
  repeat' first
    | with_reducible assumption | (intro _) | with_reducible apply State.setReg_keeps
    | with_reducible apply State.setChk_keeps

theorem State.chkFeed_keeps {r s : State} (h : r.Keeps s) {u data} :
    r.Keeps (s.chkFeed u data) := by
  unfold State.chkFeed
  repeat' first
    | with_reducible assumption | (intro _) | with_reducible apply State.setChk_keeps

theorem State.chkMismatch_keeps {r s : State} (h : r.Keeps s) {u x2} :
    r.Keeps (s.chkMismatch u x2) := by
  unfold State.chkMismatch
  repeat' first
    | with_reducible assumption | (intro _) | with_reducible apply State.bumpSat_keeps
    | with_reducible apply State.setReg_keeps | with_reducible apply State.raise_keeps
    | with_reducible apply State.keeps_ite

theorem State.chkRecord_keeps {r s : State} (h : r.Keeps s) {u data trailer} :
    r.Keeps (s.chkRecord u data trailer).1 := by
  unfold State.chkRecord
  repeat' first
    | with_reducible assumption | (intro _) | with_reducible apply State.chkEndRecord_keeps
    | with_reducible apply State.chkFeed_keeps | with_reducible apply State.chkMismatch_keeps
    | with_reducible apply State.keeps_ite_fst

theorem State.protectUnit_keeps {r s : State} (h : r.Keeps s) {channel n data} :
    r.Keeps (s.protectUnit channel n data).1 := by
  unfold State.protectUnit
  repeat' first
    | with_reducible assumption | (intro _) | with_reducible apply State.chkRecord_keeps
    | with_reducible apply State.keeps_foldl | with_reducible apply State.keeps_foldl_fst

theorem State.putNand_keeps {r s : State} (h : r.Keeps s) {x} :
    r.Keeps (s.putNand x) := by
  unfold State.putNand
  repeat' first
    | with_reducible assumption | (intro _) | with_reducible apply State.adjustStore_keeps

theorem State.writeUnit_keeps {r s : State} (h : r.Keeps s) {n lba data origin flags group groupCount bad} :
    r.Keeps (s.writeUnit n lba data origin flags group groupCount bad).1 := by
  unfold State.writeUnit
  repeat' first
    | with_reducible assumption | (intro _) | with_reducible apply State.protectUnit_keeps
    | with_reducible apply State.putNand_keeps

theorem State.setUnits_keeps {r s : State} (h : r.Keeps s) {n f} :
    r.Keeps (s.setUnits n f) := by
  unfold State.setUnits
  repeat' first
    | with_reducible assumption | (intro _) | with_reducible apply State.adjustStore_keeps

theorem State.programUnit_keeps {r s : State} (h : r.Keeps s) {n lba data origin flags group groupCount bad} :
    r.Keeps (s.programUnit n lba data origin flags group groupCount bad) := by
  unfold State.programUnit
  repeat' first
    | with_reducible assumption | (intro _) | with_reducible apply State.writeUnit_keeps
    | with_reducible apply State.setUnits_keeps

theorem State.showBlocks_keeps {r s : State} (h : r.Keeps s) :
    r.Keeps (s.showBlocks) := by
  unfold State.showBlocks
  repeat' first
    | with_reducible assumption | (intro _) | with_reducible apply State.setBit_keeps

theorem State.showNs_keeps {r s : State} (h : r.Keeps s) {n} :
    r.Keeps (s.showNs n) := by
  unfold State.showNs
  repeat' first
    | with_reducible assumption | (intro _) | with_reducible apply State.setReg_keeps | with_reducible apply State.keeps_ite
    | with_reducible apply State.keeps_foldl

theorem State.putUnits_keeps {r s : State} (h : r.Keeps s) {n lba data group} :
    r.Keeps (s.putUnits n lba data group) := by
  unfold State.putUnits
  repeat' first
    | with_reducible assumption | (intro _) | with_reducible apply State.programUnit_keeps
    | with_reducible apply State.showBlocks_keeps | with_reducible apply State.showNs_keeps
    | with_reducible apply State.keeps_ite | with_reducible apply State.keeps_foldl
    | with_reducible apply State.keeps_foldl_fst | split

theorem State.storeUnits_keeps {r s : State} (h : r.Keeps s) {n lba data group} :
    r.Keeps (s.storeUnits n lba data group) := by
  unfold State.storeUnits
  repeat' first
    | with_reducible assumption | (intro _) | with_reducible apply State.bumpRange_keeps
    | with_reducible apply State.adjustHealth_keeps | with_reducible apply State.putUnits_keeps

theorem State.uncommitted_keeps {r s : State} (h : r.Keeps s) {c n} :
    r.Keeps (s.uncommitted c n) := by
  unfold State.uncommitted
  repeat' first
    | with_reducible assumption | (intro _) | with_reducible apply State.writeUnit_keeps
    | with_reducible apply State.keeps_foldl

theorem State.rangeRecord_keeps {r s : State} (h : r.Keeps s) {n lba count flags} :
    r.Keeps (s.rangeRecord n lba count flags) := by
  unfold State.rangeRecord
  repeat' first
    | with_reducible assumption | (intro _) | with_reducible apply State.putNand_keeps

theorem State.unmapUnits_keeps {r s : State} (h : r.Keeps s) {n lba count flags} :
    r.Keeps (s.unmapUnits n lba count flags) := by
  unfold State.unmapUnits
  repeat' first
    | with_reducible assumption | (intro _) | with_reducible apply State.setUnits_keeps
    | with_reducible apply State.rangeRecord_keeps | with_reducible apply State.showBlocks_keeps
    | with_reducible apply State.bumpRange_keeps | with_reducible apply State.showNs_keeps

theorem State.lossCmd_keeps {r s : State} (h : r.Keeps s) {x1 c} :
    r.Keeps (s.lossCmd x1 c) := by
  unfold State.lossCmd
  repeat' first
    | with_reducible assumption | (intro _) | with_reducible apply State.storeUnits_keeps
    | with_reducible apply State.drew_keeps | with_reducible apply State.uncommitted_keeps
    | with_reducible apply State.unmapUnits_keeps | with_reducible apply State.keeps_ite
    | with_reducible apply State.keeps_foldl

theorem State.storeLoss_keeps {r s : State} (h : r.Keeps s) :
    r.Keeps (s.storeLoss) := by
  unfold State.storeLoss
  repeat' first
    | with_reducible assumption | (intro _) | with_reducible apply State.endSweeps_keeps
    | with_reducible apply State.lossCmd_keeps | with_reducible apply State.adjustStore_keeps
    | with_reducible apply State.setBit_keeps | with_reducible apply State.setReg_keeps
    | with_reducible apply State.clearRegs_keeps | with_reducible apply State.keeps_foldl

theorem State.loseWork_keeps {r s : State} (h : r.Keeps s) : r.Keeps s.loseWork :=
  State.keeps_mk (State.keeps_memories h (fun _ => Memory.wf_empty) (fun _ => Memory.wf_empty) id)

theorem State.warmEffects_keeps {r s : State} (h : r.Keeps s) :
    r.Keeps (s.warmEffects) := by
  unfold State.warmEffects
  refine State.adjustSheep_keeps (State.setFld_keeps (State.setBit_keeps (State.setReg_keeps (State.keeps_regs
    (State.loseWork_keeps (State.storeLoss_keeps h)) fun x => Tab.wf_keep _ x _))))

theorem State.failStart_keeps {r s : State} (h : r.Keeps s) {reason detail} :
    r.Keeps (s.failStart reason detail) := by
  unfold State.failStart
  repeat' first
    | with_reducible assumption | (intro _) | with_reducible apply State.setFld_keeps
    | with_reducible apply State.adjustSheep_keeps | with_reducible apply State.powerDomain_keeps
    | with_reducible apply State.keeps_ite

theorem State.endStart_keeps {r s : State} (h : r.Keeps s) :
    r.Keeps (s.endStart) := by
  unfold State.endStart
  repeat' first
    | with_reducible assumption | (intro _) | with_reducible apply State.failStart_keeps
    | with_reducible apply State.keeps_ite

theorem State.warmDown_keeps {r s : State} (h : r.Keeps s) :
    r.Keeps (s.warmDown) := by
  unfold State.warmDown
  repeat' first
    | with_reducible assumption | (intro _) | with_reducible apply State.setCause_keeps
    | with_reducible apply State.warmEffects_keeps | with_reducible apply State.endStart_keeps

theorem State.writeFree_keeps {r s : State} (h : r.Keeps s) {sp a n} :
    r.Keeps (s.writeFree sp a n) := by
  unfold State.writeFree
  repeat' first
    | with_reducible assumption | (intro _) | with_reducible apply State.writeMem_keeps
    | fail_if_no_progress (with_reducible apply State.keeps_mk)

theorem State.adjustCmd_keeps {r s : State} (h : r.Keeps s) {x1 f} :
    r.Keeps (s.adjustCmd x1 f) := by
  unfold State.adjustCmd
  repeat' first
    | with_reducible assumption | (intro _) | with_reducible apply State.adjustStore_keeps

theorem State.resetCmd_keeps {r s : State} (h : r.Keeps s) {x1 c} :
    r.Keeps (s.resetCmd x1 c) := by
  unfold State.resetCmd
  repeat' first
    | with_reducible assumption | (intro _) | with_reducible apply State.trsFinish_keeps
    | with_reducible apply State.writeFree_keeps | with_reducible apply State.drew_keeps
    | with_reducible apply State.adjustCmd_keeps | with_reducible apply State.keeps_ite

theorem State.controllerReset_keeps {r s : State} (h : r.Keeps s) :
    r.Keeps (s.controllerReset) := by
  unfold State.controllerReset
  repeat' first
    | with_reducible assumption | (intro _) | with_reducible apply State.resetCmd_keeps
    | with_reducible apply State.setBit_keeps | with_reducible apply State.keeps_ite
    | with_reducible apply State.keeps_foldl

theorem resetBody_keeps {r s : State} (h : r.Keeps s) {e} :
    Answer.Keeps r (resetBody e s) := by
  unfold resetBody
  repeat' first
    | with_reducible assumption | (intro _) | with_reducible apply State.beginStart_keeps
    | with_reducible apply State.warmDown_keeps | with_reducible apply State.controllerReset_keeps
    | with_reducible apply Answer.keeps_ite | with_reducible apply State.keeps_ite | split | dsimp only [id]
    | with_reducible apply Answer.keeps_mk

theorem fallbackExitBody_keeps {r s : State} (h : r.Keeps s) {x0} :
    Answer.Keeps r (fallbackExitBody x0 s) := by
  unfold fallbackExitBody
  repeat' first
    | with_reducible assumption | (intro _) | with_reducible apply State.setFld_keeps
    | with_reducible apply State.beginStart_keeps | with_reducible apply State.warmEffects_keeps | split | dsimp only [id]
    | with_reducible apply Answer.keeps_mk

theorem setCapBody_keeps {r s : State} (h : r.Keeps s) {e} :
    Answer.Keeps r (setCapBody e s) := by
  unfold setCapBody
  repeat' first
    | with_reducible assumption | (intro _) | with_reducible apply State.answers_keeps
    | with_reducible apply State.setFld_keeps

theorem State.settlePlan_keeps {r s : State} (h : r.Keeps s) :
    r.Keeps (s.settlePlan) := by
  unfold State.settlePlan
  repeat' first
    | with_reducible assumption | (intro _) | with_reducible apply State.setFld_keeps

theorem setPlanMaxBody_keeps {r s : State} (h : r.Keeps s) {e} :
    Answer.Keeps r (setPlanMaxBody e s) := by
  unfold setPlanMaxBody
  repeat' first
    | with_reducible assumption | (intro _) | with_reducible apply State.answers_keeps
    | with_reducible apply State.settlePlan_keeps | with_reducible apply State.adjustSheep_keeps

theorem State.startTimer_keeps {r s : State} (h : r.Keeps s) {i p owner} :
    r.Keeps (s.startTimer i p owner) := by
  unfold State.startTimer
  repeat' first
    | with_reducible assumption | (intro _) | with_reducible apply State.setFld_keeps
    | with_reducible apply State.setBit_keeps | fail_if_no_progress (with_reducible apply State.keeps_mk)

theorem State.addClaim_keeps {r s : State} (h : r.Keeps s) {rtype i owner} :
    r.Keeps (s.addClaim rtype i owner) := by
  unfold State.addClaim
  repeat' first
    | with_reducible assumption | (intro _) | fail_if_no_progress (with_reducible apply State.keeps_mk)

theorem State.adjustPin_keeps {r s : State} (h : r.Keeps s) {i f} :
    r.Keeps (s.adjustPin i f) := by
  unfold State.adjustPin
  repeat' first
    | with_reducible assumption | (intro _) | with_reducible apply State.keeps_ite
    | fail_if_no_progress (with_reducible apply State.keeps_mk)

theorem State.stopTimer_keeps {r s : State} (h : r.Keeps s) {i} :
    r.Keeps (s.stopTimer i) := by
  unfold State.stopTimer
  repeat' first
    | with_reducible assumption | (intro _) | with_reducible apply State.clearReg_keeps
    | with_reducible apply State.adjustPin_keeps | with_reducible apply State.keeps_ite
    | fail_if_no_progress (with_reducible apply State.keeps_mk) | split

theorem State.dropClaim_keeps {r s : State} (h : r.Keeps s) {rtype i owner} :
    r.Keeps (s.dropClaim rtype i owner) := by
  unfold State.dropClaim
  repeat' first
    | with_reducible assumption | (intro _) | fail_if_no_progress (with_reducible apply State.keeps_mk)

theorem State.featureTimerOf_keeps {r s : State} (h : r.Keeps s) {i enable program} :
    Answer.Keeps r (s.featureTimerOf i enable program) := by
  unfold State.featureTimerOf
  repeat' first
    | with_reducible assumption | (intro _) | with_reducible apply State.answers_keeps
    | with_reducible apply State.startTimer_keeps | with_reducible apply State.addClaim_keeps
    | with_reducible apply State.stopTimer_keeps | with_reducible apply State.dropClaim_keeps
    | with_reducible apply Answer.keeps_ite

theorem State.showGatePins_keeps {r s : State} (h : r.Keeps s) {p} :
    r.Keeps (s.showGatePins p) := by
  unfold State.showGatePins
  repeat' first
    | with_reducible assumption | (intro _) | with_reducible apply State.keeps_ite
    | fail_if_no_progress (with_reducible apply State.keeps_mk)

theorem State.showGates_keeps {r s : State} (h : r.Keeps s) {p gates entry} :
    r.Keeps (s.showGates p gates entry) := by
  unfold State.showGates
  repeat' first
    | with_reducible assumption | (intro _) | with_reducible apply State.showGatePins_keeps
    | with_reducible apply State.setFld_keeps

theorem State.recomputeGates_keeps {r s : State} (h : r.Keeps s) {p} :
    r.Keeps (s.recomputeGates p) := by
  unfold State.recomputeGates
  repeat' first
    | with_reducible assumption | (intro _) | with_reducible apply State.showGates_keeps
    | with_reducible apply State.setPort_keeps | with_reducible apply State.keeps_ite | split | dsimp only

theorem State.settleGatePin_keeps {r s : State} (h : r.Keeps s) {f} :
    r.Keeps (s.settleGatePin f) := by
  unfold State.settleGatePin
  repeat' first
    | with_reducible assumption | (intro _) | with_reducible apply State.recomputeGates_keeps
    | with_reducible apply State.keeps_ite

theorem State.featurePin_keeps {r s : State} (h : r.Keeps s) {f pin enable} :
    Answer.Keeps r (s.featurePin f pin enable) := by
  unfold State.featurePin
  repeat' first
    | with_reducible assumption | (intro _) | with_reducible apply State.answers_keeps
    | with_reducible apply State.settleGatePin_keeps | with_reducible apply State.adjustPin_keeps
    | with_reducible apply State.addClaim_keeps | with_reducible apply State.dropClaim_keeps
    | with_reducible apply Answer.keeps_ite

theorem featureBody_keeps {r s : State} (h : r.Keeps s) {e} :
    Answer.Keeps r (featureBody e s) := by
  unfold featureBody
  repeat' first
    | with_reducible assumption | (intro _) | with_reducible apply State.answers_keeps
    | with_reducible apply State.featureTimerOf_keeps | with_reducible apply State.featurePin_keeps
    | with_reducible apply Answer.keeps_ite

theorem diagBody_keeps {r s : State} (h : r.Keeps s) {x0} :
    Answer.Keeps r (diagBody x0 s) := by
  unfold diagBody
  repeat' first
    | with_reducible assumption | (intro _) | split | dsimp only [id] | with_reducible apply Answer.keeps_mk

theorem State.adjustSecurity_keeps {r s : State} (h : r.Keeps s) {f} :
    r.Keeps (s.adjustSecurity f) := by
  unfold State.adjustSecurity
  repeat' first
    | with_reducible assumption | (intro _) | fail_if_no_progress (with_reducible apply State.keeps_mk)

theorem State.setKeySlot_keeps {r s : State} (h : r.Keeps s) {n slot gen state} :
    r.Keeps (s.setKeySlot n slot gen state) := by
  unfold State.setKeySlot
  repeat' first
    | with_reducible assumption | (intro _) | with_reducible apply State.setFld_keeps

theorem State.newGeneration_keeps {r s : State} (h : r.Keeps s) {n slot gen} :
    r.Keeps (s.newGeneration n slot gen) := by
  unfold State.newGeneration
  repeat' first
    | with_reducible assumption | (intro _) | with_reducible apply State.drew_keeps
    | with_reducible apply State.adjustSecurity_keeps | with_reducible apply State.setKeySlot_keeps

theorem State.settleOwners_keeps {r s : State} (h : r.Keeps s) :
    r.Keeps (s.settleOwners) := by
  unfold State.settleOwners
  repeat' first
    | with_reducible assumption | (intro _) | with_reducible apply State.setFld_keeps
    | with_reducible apply State.adjustStore_keeps | with_reducible apply State.keeps_ite
    | with_reducible apply State.keeps_foldl | with_reducible apply State.keeps_foldl_fst | split | dsimp only

theorem State.createNs_keeps {r s : State} (h : r.Keeps s) {n size encrypt} :
    r.Keeps (s.createNs n size encrypt) := by
  unfold State.createNs
  repeat' first
    | with_reducible assumption | (intro _) | with_reducible apply State.setBit_keeps
    | with_reducible apply State.setReg_keeps | with_reducible apply State.adjustStore_keeps
    | with_reducible apply State.newGeneration_keeps | with_reducible apply State.settleOwners_keeps
    | with_reducible apply State.showNs_keeps | with_reducible apply State.keeps_ite

theorem nsCreateBody_keeps {r s : State} (h : r.Keeps s) {e} :
    Answer.Keeps r (nsCreateBody e s) := by
  unfold nsCreateBody
  repeat' first
    | with_reducible assumption | (intro _) | with_reducible apply State.answers_keeps
    | with_reducible apply State.createNs_keeps | with_reducible apply Answer.keeps_ite

theorem State.deleteNs_keeps {r s : State} (h : r.Keeps s) {n} :
    r.Keeps (s.deleteNs n) := by
  unfold State.deleteNs
  repeat' first
    | with_reducible assumption | (intro _) | with_reducible apply State.unmapUnits_keeps
    | with_reducible apply State.adjustStore_keeps | with_reducible apply State.adjustSecurity_keeps
    | with_reducible apply State.clearRegs_keeps

theorem nsDeleteBody_keeps {r s : State} (h : r.Keeps s) {e} :
    Answer.Keeps r (nsDeleteBody e s) := by
  unfold nsDeleteBody
  repeat' first
    | with_reducible assumption | (intro _) | with_reducible apply State.answers_keeps
    | with_reducible apply State.deleteNs_keeps | with_reducible apply Answer.keeps_ite

theorem State.rotateKey_keeps {r s : State} (h : r.Keeps s) {n slot} :
    r.Keeps (s.rotateKey n slot) := by
  unfold State.rotateKey
  repeat' first
    | with_reducible assumption | (intro _) | with_reducible apply State.setFld_keeps
    | with_reducible apply State.showNs_keeps | with_reducible apply State.newGeneration_keeps
    | with_reducible apply State.keeps_foldl

theorem keyRotateBody_keeps {r s : State} (h : r.Keeps s) {e} :
    Answer.Keeps r (keyRotateBody e s) := by
  unfold keyRotateBody
  repeat' first
    | with_reducible assumption | (intro _) | with_reducible apply State.answers_keeps
    | with_reducible apply State.rotateKey_keeps | with_reducible apply Answer.keeps_ite
    | with_reducible apply State.keeps_ite | split

theorem State.startSweep_keeps {r s : State} (h : r.Keeps s) {n share} :
    r.Keeps (s.startSweep n share) := by
  unfold State.startSweep
  repeat' first
    | with_reducible assumption | (intro _) | with_reducible apply State.adjustStore_keeps
    | with_reducible apply State.setBit_keeps | with_reducible apply State.keeps_foldl

theorem keySweepBody_keeps {r s : State} (h : r.Keeps s) {e} :
    Answer.Keeps r (keySweepBody e s) := by
  unfold keySweepBody
  repeat' first
    | with_reducible assumption | (intro _) | with_reducible apply State.answers_keeps
    | with_reducible apply State.startSweep_keeps | with_reducible apply Answer.keeps_ite

theorem State.destroyGen_keeps {r s : State} (h : r.Keeps s) {n slot gen} :
    r.Keeps (s.destroyGen n slot gen) := by
  unfold State.destroyGen
  repeat' first
    | with_reducible assumption | (intro _) | with_reducible apply State.setKeySlot_keeps
    | with_reducible apply State.adjustSecurity_keeps

theorem keyDestroyGenBody_keeps {r s : State} (h : r.Keeps s) {e} :
    Answer.Keeps r (keyDestroyGenBody e s) := by
  unfold keyDestroyGenBody
  repeat' first
    | with_reducible assumption | (intro _) | with_reducible apply State.answers_keeps
    | with_reducible apply State.destroyGen_keeps | with_reducible apply Answer.keeps_ite
    | with_reducible apply State.keeps_ite | split

theorem attestBody_keeps {r s : State} (h : r.Keeps s) {e} :
    Answer.Keeps r (attestBody e s) := by
  unfold attestBody
  repeat' first
    | with_reducible assumption | (intro _) | with_reducible apply State.drew_keeps | split | dsimp only [id]
    | with_reducible apply Answer.keeps_mk

theorem keyImportBody_keeps {r s : State} (h : r.Keeps s) {e} :
    Answer.Keeps r (keyImportBody e s) := by
  unfold keyImportBody
  repeat' first
    | with_reducible assumption | (intro _) | with_reducible apply State.answers_keeps
    | with_reducible apply State.adjustSecurity_keeps | with_reducible apply Answer.keeps_ite
    | with_reducible apply State.keeps_ite | split

theorem keyDestroyBody_keeps {r s : State} (h : r.Keeps s) {e} :
    Answer.Keeps r (keyDestroyBody e s) := by
  unfold keyDestroyBody
  repeat' first
    | with_reducible assumption | (intro _) | with_reducible apply State.answers_keeps
    | with_reducible apply State.adjustSecurity_keeps | with_reducible apply Answer.keeps_ite

theorem State.showWords_keeps {r s : State} (h : r.Keeps s) {reg d} :
    r.Keeps (s.showWords reg d) := by
  unfold State.showWords
  repeat' first
    | with_reducible assumption | (intro _) | with_reducible apply State.setReg_keeps
    | with_reducible apply State.keeps_foldl

theorem hedgeOwnerBody_keeps {r s : State} (h : r.Keeps s) {e} :
    Answer.Keeps r (hedgeOwnerBody e s) := by
  unfold hedgeOwnerBody
  repeat' first
    | with_reducible assumption | (intro _) | with_reducible apply State.answers_keeps
    | with_reducible apply State.adjustSecurity_keeps | with_reducible apply State.settleOwners_keeps
    | with_reducible apply State.showWords_keeps | with_reducible apply Answer.keeps_ite

theorem State.measure_keeps {r s : State} (h : r.Keeps s) {i digest} :
    r.Keeps (s.measure i digest) := by
  unfold State.measure
  repeat' first
    | with_reducible assumption | (intro _) | with_reducible apply State.showWords_keeps

theorem anchorSetBody_keeps {r s : State} (h : r.Keeps s) {e} :
    Answer.Keeps r (anchorSetBody e s) := by
  unfold anchorSetBody
  repeat' first
    | with_reducible assumption | (intro _) | with_reducible apply State.answers_keeps
    | with_reducible apply State.measure_keeps | with_reducible apply State.adjustSecurity_keeps
    | with_reducible apply Answer.keeps_ite

theorem certReadBody_keeps {r s : State} (h : r.Keeps s) {x0} :
    Answer.Keeps r (certReadBody x0 s) := by
  unfold certReadBody
  repeat' first
    | with_reducible assumption | (intro _) | split | dsimp only [id] | with_reducible apply Answer.keeps_mk

theorem commandBody_keeps {r s : State} (h : r.Keeps s) {code x1} :
    Answer.Keeps r (commandBody code x1 s) := by
  unfold commandBody
  by_cases c : code = cmdFwStage
  · rw [if_pos c]; exact fwStageBody_keeps h
  rw [if_neg c]; clear c
  by_cases c : code = cmdFwActivate
  · rw [if_pos c]; exact fwActivateBody_keeps h
  rw [if_neg c]; clear c
  by_cases c : code = cmdReset
  · rw [if_pos c]; exact resetBody_keeps h
  rw [if_neg c]; clear c
  by_cases c : code = cmdFallbackExit
  · rw [if_pos c]; exact fallbackExitBody_keeps h
  rw [if_neg c]; clear c
  by_cases c : code = cmdSetCap
  · rw [if_pos c]; exact setCapBody_keeps h
  rw [if_neg c]; clear c
  by_cases c : code = cmdSetPlanMax
  · rw [if_pos c]; exact setPlanMaxBody_keeps h
  rw [if_neg c]; clear c
  by_cases c : code = cmdFeature
  · rw [if_pos c]; exact featureBody_keeps h
  rw [if_neg c]; clear c
  by_cases c : code = cmdDiag
  · rw [if_pos c]; exact diagBody_keeps h
  rw [if_neg c]; clear c
  by_cases c : code = cmdNsCreate
  · rw [if_pos c]; exact nsCreateBody_keeps h
  rw [if_neg c]; clear c
  by_cases c : code = cmdNsDelete
  · rw [if_pos c]; exact nsDeleteBody_keeps h
  rw [if_neg c]; clear c
  by_cases c : code = cmdKeyRotate
  · rw [if_pos c]; exact keyRotateBody_keeps h
  rw [if_neg c]; clear c
  by_cases c : code = cmdKeySweep
  · rw [if_pos c]; exact keySweepBody_keeps h
  rw [if_neg c]; clear c
  by_cases c : code = cmdKeyDestroyGen
  · rw [if_pos c]; exact keyDestroyGenBody_keeps h
  rw [if_neg c]; clear c
  by_cases c : code = cmdAttest
  · rw [if_pos c]; exact attestBody_keeps h
  rw [if_neg c]; clear c
  by_cases c : code = cmdKeyImport
  · rw [if_pos c]; exact keyImportBody_keeps h
  rw [if_neg c]; clear c
  by_cases c : code = cmdKeyDestroy
  · rw [if_pos c]; exact keyDestroyBody_keeps h
  rw [if_neg c]; clear c
  by_cases c : code = cmdHedgeOwner
  · rw [if_pos c]; exact hedgeOwnerBody_keeps h
  rw [if_neg c]; clear c
  by_cases c : code = cmdAnchorSet
  · rw [if_pos c]; exact anchorSetBody_keeps h
  rw [if_neg c]; clear c
  by_cases c : code = cmdCertRead
  · rw [if_pos c]; exact certReadBody_keeps h
  rw [if_neg c]; clear c
  exact State.answers_keeps h

theorem State.mailboxGo_keeps {r s : State} (h : r.Keeps s) :
    r.Keeps (s.mailboxGo) := by
  unfold State.mailboxGo
  repeat' first
    | with_reducible assumption | (intro _) | with_reducible apply State.mgmtRun_keeps
    | with_reducible apply commandBody_keeps | split

theorem State.mailboxCtrlWrite_keeps {r s : State} (h : r.Keeps s) {v} :
    r.Keeps (s.mailboxCtrlWrite v) := by
  unfold State.mailboxCtrlWrite
  repeat' first
    | with_reducible assumption | (intro _) | with_reducible apply State.setFld_keeps
    | with_reducible apply State.mailboxGo_keeps | with_reducible apply State.keeps_ite

theorem State.jobWrite_keeps {r s : State} (h : r.Keeps s) {off d v} :
    KeepsOpt r (s.jobWrite off d v) := by
  unfold State.jobWrite
  repeat' first
    | with_reducible assumption | (intro _) | with_reducible apply State.loadCtrlWrite_keeps
    | with_reducible apply State.jobCtrlWrite_keeps | with_reducible apply State.setFld_keeps
    | with_reducible apply State.pbqDepthWrite_keeps | with_reducible apply State.heelCtrlWrite_keeps
    | with_reducible apply State.heelLinkselWrite_keeps | with_reducible apply State.portCfgWrite_keeps
    | with_reducible apply State.shaperRateWrite_keeps | with_reducible apply State.shaperBurstWrite_keeps
    | with_reducible apply State.heelSettle_keeps | with_reducible apply State.fleetConfig_keeps
    | with_reducible apply State.mailboxCtrlWrite_keeps | with_reducible apply KeepsOpt.ite
    | with_reducible apply State.keeps_ite | with_reducible exact KeepsOpt.none | with_reducible apply KeepsOpt.some

theorem State.changeRoster_keeps {r s : State} (h : r.Keeps s) {f} :
    r.Keeps (s.changeRoster f) := by
  unfold State.changeRoster
  repeat' first
    | with_reducible assumption | (intro _) | with_reducible apply State.sendRoster_keeps
    | with_reducible apply State.adoptRoster_keeps

theorem State.fleetSendTo_keeps {r s : State} (h : r.Keeps s) {i kind barrier body} :
    r.Keeps (s.fleetSendTo i kind barrier body) := by
  unfold State.fleetSendTo
  repeat' first
    | with_reducible assumption | (intro _) | with_reducible apply State.fleetSend_keeps
    | with_reducible apply State.keeps_ite | split

theorem State.sendRestart_keeps {r s : State} (h : r.Keeps s) {holder rank record} :
    r.Keeps (s.sendRestart holder rank record) := by
  unfold State.sendRestart
  repeat' first
    | with_reducible assumption | (intro _) | with_reducible apply State.adjustFleet_keeps
    | with_reducible apply State.fleetSendTo_keeps | with_reducible apply State.keeps_ite

theorem State.settleMoves_keeps {r s : State} (h : r.Keeps s) :
    r.Keeps (s.settleMoves) := by
  unfold State.settleMoves
  repeat' first
    | with_reducible assumption | (intro _) | with_reducible apply State.adjustFleet_keeps
    | with_reducible apply State.changeRoster_keeps | with_reducible apply State.sendRestart_keeps
    | with_reducible apply State.keeps_ite | with_reducible apply State.keeps_foldl

theorem State.moveOff_keeps {r s : State} (h : r.Keeps s) {i} :
    r.Keeps (s.moveOff i) := by
  unfold State.moveOff
  repeat' first
    | with_reducible assumption | (intro _) | with_reducible apply State.adjustFleet_keeps
    | with_reducible apply State.fleetSendTo_keeps | with_reducible apply State.keeps_foldl
    | with_reducible apply State.keeps_foldl_fst | split | dsimp only

theorem State.judgeSuspect_keeps {r s : State} (h : r.Keeps s) {j i} :
    r.Keeps (s.judgeSuspect j i) := by
  unfold State.judgeSuspect
  repeat' first
    | with_reducible assumption | (intro _) | with_reducible apply State.changeRoster_keeps
    | with_reducible apply State.adjustFleet_keeps | with_reducible apply State.moveOff_keeps
    | with_reducible apply State.keeps_ite | with_reducible apply State.keeps_foldl
    | with_reducible apply State.keeps_foldl_fst | with_reducible apply State.keeps_map_getD | split

theorem State.commitBarrier_keeps {r s : State} (h : r.Keeps s) {j} :
    r.Keeps (s.commitBarrier j) := by
  unfold State.commitBarrier
  repeat' first
    | with_reducible assumption | (intro _) | with_reducible apply State.adjustFleet_keeps
    | with_reducible apply State.setFld_keeps | with_reducible apply State.fleetSendRole_keeps
    | with_reducible apply State.fleetSendTo_keeps | with_reducible apply State.judgeSuspect_keeps
    | with_reducible apply State.keeps_foldl

theorem State.commitLoop_keeps {r s : State} (h : r.Keeps s) {n} : r.Keeps (State.commitLoop n s) := by
  induction n generalizing s with
  | zero => exact h
  | succ n ih =>
    unfold State.commitLoop
    repeat' first
      | with_reducible assumption | with_reducible apply ih | with_reducible apply State.commitBarrier_keeps | split
      | dsimp only

theorem State.settleLog_keeps {r s : State} (h : r.Keeps s) :
    r.Keeps (s.settleLog) := by
  unfold State.settleLog
  repeat' first
    | with_reducible assumption | (intro _) | with_reducible apply State.settleMoves_keeps
    | with_reducible apply State.commitLoop_keeps | with_reducible apply State.keeps_ite

theorem State.drainComplete_keeps {r s : State} (h : r.Keeps s) {slot} :
    r.Keeps (s.drainComplete slot) := by
  unfold State.drainComplete
  repeat' first
    | with_reducible assumption | (intro _) | with_reducible apply State.setJobState_keeps
    | with_reducible apply State.keeps_ite

theorem State.enterFallback_keeps {r s : State} (h : r.Keeps s) :
    r.Keeps (s.enterFallback) := by
  unfold State.enterFallback
  repeat' first
    | with_reducible assumption | (intro _) | with_reducible apply State.powerDomain_keeps
    | with_reducible apply State.setBit_keeps | with_reducible apply State.adjustSheep_keeps
    | with_reducible apply State.keeps_foldl | with_reducible apply State.keeps_foldl_fst
    | fail_if_no_progress (with_reducible apply State.keeps_mk)

theorem State.stageTwo_keeps {r s : State} (h : r.Keeps s) :
    r.Keeps (s.stageTwo) := by
  unfold State.stageTwo
  repeat' first
    | with_reducible assumption | (intro _) | with_reducible apply State.measure_keeps
    | with_reducible apply State.bumpSat_keeps | with_reducible apply State.enterFallback_keeps
    | with_reducible apply State.setStage_keeps | with_reducible apply State.keeps_ite

theorem State.stageUp_keeps {r s : State} (h : r.Keeps s) {stage} :
    r.Keeps (s.stageUp stage) := by
  unfold State.stageUp
  repeat' first
    | with_reducible assumption | (intro _) | with_reducible apply State.powerDomain_keeps
    | with_reducible apply State.keeps_foldl

theorem State.settleBriBound_keeps {r s : State} (h : r.Keeps s) :
    r.Keeps (s.settleBriBound) := by
  unfold State.settleBriBound
  repeat' first
    | with_reducible assumption | (intro _) | with_reducible apply State.setBit_keeps | with_reducible apply State.keeps_ite
    | with_reducible apply State.keeps_foldl

theorem State.settleLocked_keeps {r s : State} (h : r.Keeps s) :
    r.Keeps (s.settleLocked) := by
  unfold State.settleLocked
  repeat' first
    | with_reducible assumption | (intro _) | with_reducible apply State.setBit_keeps
    | with_reducible apply State.setFld_keeps

theorem State.settleWeights_keeps {r s : State} (h : r.Keeps s) :
    r.Keeps (s.settleWeights) := by
  unfold State.settleWeights
  repeat' first
    | with_reducible assumption | (intro _) | with_reducible apply State.clearReg_keeps
    | with_reducible apply State.setReg_keeps | with_reducible apply State.keeps_ite
    | with_reducible apply State.keeps_foldl | with_reducible apply State.keeps_foldl_fst | split | dsimp only

theorem State.settleImages_keeps {r s : State} (h : r.Keeps s) :
    r.Keeps (s.settleImages) := by
  unfold State.settleImages
  repeat' first
    | with_reducible assumption | (intro _) | with_reducible apply State.settleBriBound_keeps
    | with_reducible apply State.settleLocked_keeps | with_reducible apply State.settleOwners_keeps
    | with_reducible apply State.settleWeights_keeps | with_reducible apply State.settlePlan_keeps
    | with_reducible apply State.settleDomains_keeps

theorem State.reachReady_keeps {r s : State} (h : r.Keeps s) :
    r.Keeps (s.reachReady) := by
  unfold State.reachReady
  repeat' first
    | with_reducible assumption | (intro _) | with_reducible apply State.setFld_keeps
    | with_reducible apply State.setStage_keeps | with_reducible apply State.setBit_keeps
    | with_reducible apply State.adjustSheep_keeps | with_reducible apply State.settleImages_keeps

theorem State.stageDone_keeps {r s : State} (h : r.Keeps s) {other} :
    r.Keeps (s.stageDone other) := by
  unfold State.stageDone
  repeat' first
    | with_reducible assumption | (intro _) | with_reducible apply State.measure_keeps
    | with_reducible apply State.setStage_keeps | with_reducible apply State.swapSlot_keeps
    | with_reducible apply State.stageTwo_keeps | with_reducible apply State.stageUp_keeps
    | with_reducible apply State.setBit_keeps | with_reducible apply State.reachReady_keeps
    | with_reducible apply State.keeps_ite

theorem State.poolRequest_keeps {r s : State} (h : r.Keeps s) {k stage who} :
    r.Keeps (s.poolRequest k stage who).1 := by
  unfold State.poolRequest
  repeat' first
    | with_reducible assumption | (intro _) | with_reducible apply State.poolTake_keeps
    | with_reducible apply State.setPool_keeps | with_reducible apply State.keeps_ite_fst
    | with_reducible apply State.keeps_ite | split

theorem State.sendToMaskBuf_keeps {r s : State} (h : r.Keeps s) {slot stream m w payload ended} :
    r.Keeps (s.sendToMaskBuf slot stream m w payload ended) := by
  unfold State.sendToMaskBuf
  repeat' first
    | with_reducible assumption | (intro _) | with_reducible apply State.sendMessage_keeps | split | dsimp only

theorem State.setGen_keeps {r s : State} (h : r.Keeps s) {slot k g} :
    r.Keeps (s.setGen slot k g) := by
  unfold State.setGen
  repeat' first
    | with_reducible assumption | (intro _) | with_reducible apply State.adjustJob_keeps

theorem State.endStream_keeps {r s : State} (h : r.Keeps s) {slot k m g e} :
    r.Keeps (s.endStream slot k m g e) := by
  unfold State.endStream
  repeat' first
    | with_reducible assumption | (intro _) | with_reducible apply State.bump_keeps
    | with_reducible apply State.sendToMaskBuf_keeps | with_reducible apply State.setGen_keeps
    | with_reducible apply State.bumpSat_keeps | with_reducible apply State.adjustJob_keeps
    | with_reducible apply State.keeps_ite | with_reducible apply State.keeps_map_getD | split

theorem State.addWork_keeps {r s : State} (h : r.Keeps s) {slot k m g step extra arrival} :
    r.Keeps (s.addWork slot k m g step extra arrival) := by
  unfold State.addWork
  repeat' first
    | with_reducible assumption | (intro _) | with_reducible apply State.keeps_ite
    | fail_if_no_progress (with_reducible apply State.keeps_mk)

theorem State.handleReturn_keeps {r s : State} (h : r.Keeps s) {slot k m g arrival msg} :
    r.Keeps (s.handleReturn slot k m g arrival msg) := by
  unfold State.handleReturn
  repeat' first
    | with_reducible assumption | (intro _) | with_reducible apply State.endStream_keeps
    | with_reducible apply State.bump_keeps | with_reducible apply State.addWork_keeps
    | with_reducible apply State.setGen_keeps | with_reducible apply State.keeps_ite | split | dsimp only

theorem State.forgetMaster_keeps {r s : State} (h : r.Keeps s) :
    r.Keeps (s.forgetMaster) := by
  unfold State.forgetMaster
  repeat' first
    | with_reducible assumption | (intro _) | with_reducible apply State.keeps_ite
    | fail_if_no_progress (with_reducible apply State.keeps_mk)

theorem State.dmaRecord_keeps {r s : State} (h : r.Keeps s) {ch tag code desc residue} :
    r.Keeps (s.dmaRecord ch tag code desc residue) := by
  unfold State.dmaRecord
  repeat' first
    | with_reducible assumption | (intro _) | with_reducible apply State.setReg_keeps
    | with_reducible apply State.raise_keeps | with_reducible apply State.writeMem_keeps

theorem State.dmaEnd_keeps {r s : State} (h : r.Keeps s) {ch run code residue} :
    r.Keeps (s.dmaEnd ch run code residue) := by
  unfold State.dmaEnd
  repeat' first
    | with_reducible assumption | (intro _) | with_reducible apply State.setFld_keeps
    | with_reducible apply State.setBit_keeps | with_reducible apply State.dmaRecord_keeps
    | with_reducible apply State.keeps_ite | fail_if_no_progress (with_reducible apply State.keeps_mk)

theorem State.dmaFetch_keeps {r s : State} (h : r.Keeps s) {ch x2} :
    r.Keeps (s.dmaFetch ch x2) := by
  unfold State.dmaFetch
  repeat' first
    | with_reducible assumption | (intro _) | with_reducible apply State.setReg_keeps
    | with_reducible apply State.dmaEnd_keeps | with_reducible apply State.keeps_ite
    | fail_if_no_progress (with_reducible apply State.keeps_mk)

theorem State.dmaGo_keeps {r s : State} (h : r.Keeps s) {ch} :
    r.Keeps (s.dmaGo ch) := by
  unfold State.dmaGo
  repeat' first
    | with_reducible assumption | (intro _) | with_reducible apply State.setFld_keeps
    | with_reducible apply State.setReg_keeps | with_reducible apply State.dmaFetch_keeps
    | with_reducible apply State.keeps_ite

theorem State.releaseInput_keeps {r s : State} (h : r.Keeps s) {slot handle stage epoch pos} :
    r.Keeps (s.releaseInput slot handle stage epoch pos) := by
  unfold State.releaseInput
  repeat' first
    | with_reducible assumption | (intro _) | with_reducible apply State.setHeel_keeps
    | with_reducible apply State.poolRelease_keeps | with_reducible apply State.keeps_ite | split

theorem State.showTemps_keeps {r s : State} (h : r.Keeps s) :
    r.Keeps (s.showTemps) := by
  unfold State.showTemps
  repeat' first
    | with_reducible assumption | (intro _) | with_reducible apply State.setBit_keeps
    | with_reducible apply State.setFld_keeps | with_reducible apply State.keeps_foldl
    | with_reducible apply State.keeps_foldl_fst | split | dsimp only

theorem State.alarm_keeps {r s : State} (h : r.Keeps s) {f} :
    r.Keeps (s.alarm f) := by
  unfold State.alarm
  repeat' first
    | with_reducible assumption | (intro _) | with_reducible apply State.raiseCoalesced_keeps
    | with_reducible apply State.setBit_keeps | with_reducible apply State.keeps_ite

theorem State.thermalDown_keeps {r s : State} (h : r.Keeps s) :
    r.Keeps (s.thermalDown) := by
  unfold State.thermalDown
  repeat' first
    | with_reducible assumption | (intro _) | with_reducible apply State.setCause_keeps
    | with_reducible apply State.warmEffects_keeps | with_reducible apply State.adjustSheep_keeps
    | fail_if_no_progress (with_reducible apply State.keeps_mk)

theorem State.sampleSite_keeps {r s : State} (h : r.Keeps s) {site raw} :
    r.Keeps (s.sampleSite site raw) := by
  unfold State.sampleSite
  repeat' first
    | with_reducible assumption | (intro _) | with_reducible apply State.showTemps_keeps
    | with_reducible apply State.adjustSheep_keeps | with_reducible apply State.alarm_keeps
    | with_reducible apply State.adjustHealth_keeps | with_reducible apply State.thermalDown_keeps
    | with_reducible apply State.keeps_ite | split | dsimp only

theorem State.readPiece_keeps {r s : State} (h : r.Keeps s) {sh ref x3} :
    r.Keeps (s.readPiece sh ref x3) := by
  unfold State.readPiece
  repeat' first
    | with_reducible assumption | (intro _) | with_reducible apply State.adjustCtx_keeps
    | with_reducible apply State.sendMessage_keeps | with_reducible apply State.keeps_foldl
    | with_reducible apply State.keeps_foldl_fst | split

theorem State.missqRead_keeps {r s : State} (h : r.Keeps s) {p} :
    r.Keeps (s.missqRead p) := by
  unfold State.missqRead
  repeat' first
    | with_reducible assumption | (intro _) | with_reducible apply State.setFld_keeps
    | fail_if_no_progress (with_reducible apply State.keeps_mk)

theorem State.logDamage_keeps {r s : State} (h : r.Keeps s) {slot record} :
    r.Keeps (s.logDamage slot record) := by
  unfold State.logDamage
  repeat' first
    | with_reducible assumption | (intro _) | with_reducible apply State.bumpSat_keeps
    | with_reducible apply State.writeMem_keeps | with_reducible apply State.raiseCoalesced_keeps
    | with_reducible apply State.setFld_keeps | with_reducible apply State.keeps_ite

theorem State.adjustPlace_keeps {r s : State} (h : r.Keeps s) {k f} :
    r.Keeps (s.adjustPlace k f) := by
  unfold State.adjustPlace
  repeat' first
    | with_reducible assumption | (intro _) | with_reducible apply State.adjustJob_keeps

theorem State.adjustFacts_keeps {r s : State} (h : r.Keeps s) {k f} :
    r.Keeps (s.adjustFacts k f) := by
  unfold State.adjustFacts
  repeat' first
    | with_reducible assumption | (intro _) | with_reducible apply State.adjustPlace_keeps

theorem State.damage_keeps {r s : State} (h : r.Keeps s) {it d} :
    r.Keeps (s.damage it d) := by
  unfold State.damage
  repeat' first
    | with_reducible assumption | (intro _) | with_reducible apply State.bump_keeps
    | with_reducible apply State.logDamage_keeps | with_reducible apply State.adjustFacts_keeps
    | with_reducible apply State.keeps_ite | split

theorem State.decodedSample_keeps {r s : State} (h : r.Keeps s) {it d} :
    r.Keeps (s.decodedSample it d) := by
  unfold State.decodedSample
  repeat' first
    | with_reducible assumption | (intro _) | with_reducible apply State.damage_keeps
    | with_reducible apply State.bump_keeps | with_reducible apply State.keeps_ite | split

theorem State.arrive_keeps {r s : State} (h : r.Keeps s) {im it target} :
    r.Keeps (s.arrive im it target) := by
  unfold State.arrive
  repeat' first
    | with_reducible assumption | (intro _) | with_reducible apply State.adjustFacts_keeps
    | with_reducible apply State.adjustJob_keeps | with_reducible apply State.keeps_ite
    | fail_if_no_progress (with_reducible apply State.keeps_mk) | split

theorem State.emit_keeps {r s : State} (h : r.Keeps s) {im it port} :
    r.Keeps (s.emit im it port) := by
  unfold State.emit
  repeat' first
    | with_reducible assumption | (intro _) | with_reducible apply State.adjustFacts_keeps
    | with_reducible apply State.arrive_keeps | split

theorem State.takeItem_keeps {r s : State} (h : r.Keeps s) {it} :
    r.Keeps (s.takeItem it) := by
  unfold State.takeItem
  repeat' first
    | with_reducible assumption | (intro _) | fail_if_no_progress (with_reducible apply State.keeps_mk)

theorem State.completeSample_keeps {r s : State} (h : r.Keeps s) {k} :
    r.Keeps (s.completeSample k) := by
  unfold State.completeSample
  repeat' first
    | with_reducible assumption | (intro _) | with_reducible apply State.heelReleased_keeps
    | with_reducible apply State.adjustJob_keeps | with_reducible apply State.flowRank_keeps
    | with_reducible apply State.keeps_ite

theorem State.heelEmitted_keeps {r s : State} (h : r.Keeps s) {slot stage epoch pos parts} :
    r.Keeps (s.heelEmitted slot stage epoch pos parts) := by
  unfold State.heelEmitted
  repeat' first
    | with_reducible assumption | (intro _) | with_reducible apply State.setHeel_keeps
    | with_reducible apply State.heelDone_keeps | with_reducible apply State.keeps_ite | split

theorem State.putItem_keeps {r s : State} (h : r.Keeps s) {it it2} :
    r.Keeps (s.putItem it it2) := by
  unfold State.putItem
  repeat' first
    | with_reducible assumption | (intro _) | with_reducible apply State.keeps_ite
    | fail_if_no_progress (with_reducible apply State.keeps_mk)

theorem State.steerFrame_keeps {r s : State} (h : r.Keeps s) {im v it src rects late} :
    r.Keeps (s.steerFrame im v it src rects late) := by
  unfold State.steerFrame
  repeat' first
    | with_reducible assumption | (intro _) | with_reducible apply State.decodedSample_keeps
    | with_reducible apply State.bumpSat_keeps | with_reducible apply State.adjustJob_keeps
    | with_reducible apply State.emit_keeps | with_reducible apply State.takeItem_keeps
    | with_reducible apply State.completeSample_keeps | with_reducible apply State.heelEmitted_keeps
    | with_reducible apply State.putItem_keeps | with_reducible apply State.keeps_ite

theorem State.regionExpired_keeps {r s : State} (h : r.Keeps s) {im st it frame} :
    r.Keeps (s.regionExpired im st it frame) := by
  unfold State.regionExpired
  repeat' first
    | with_reducible assumption | (intro _) | with_reducible apply State.steerFrame_keeps
    | with_reducible apply State.keeps_ite | split

theorem State.setBlock_keeps {r s : State} (h : r.Keeps s) {b x} :
    r.Keeps (s.setBlock b x) := by
  unfold State.setBlock
  repeat' first
    | with_reducible assumption | (intro _) | with_reducible apply State.adjustStore_keeps

theorem State.countCorrected_keeps {r s : State} (h : r.Keeps s) {x1} :
    r.Keeps (s.countCorrected x1) := by
  unfold State.countCorrected
  repeat' first
    | with_reducible assumption | (intro _) | with_reducible apply State.adjustHealth_keeps | split

theorem chkRecords_keeps {r s : State} (h : r.Keeps s) {u xs} : r.Keeps (chkRecords u xs s).1 := by
  induction xs generalizing s with
  | nil => exact h
  | cons x xs ih => exact ih (State.chkRecord_keeps h)

theorem State.checkUnit_keeps {r s : State} (h : r.Keeps s) {channel n u} :
    r.Keeps (s.checkUnit channel n u).1 := by
  unfold State.checkUnit
  repeat' first
    | with_reducible assumption | (intro _) | with_reducible apply chkRecords_keeps | with_reducible apply State.keeps_foldl
    | with_reducible apply State.keeps_foldl_fst

theorem State.markBad_keeps {r s : State} (h : r.Keeps s) {pseq} :
    r.Keeps (s.markBad pseq) := by
  unfold State.markBad
  repeat' first
    | with_reducible assumption | (intro _) | with_reducible apply State.adjustStore_keeps

theorem State.unitFailed_keeps {r s : State} (h : r.Keeps s) {pseq medium} :
    r.Keeps (s.unitFailed pseq medium) := by
  unfold State.unitFailed
  repeat' first
    | with_reducible assumption | (intro _) | with_reducible apply State.adjustHealth_keeps
    | with_reducible apply State.markBad_keeps | with_reducible apply State.keeps_ite

theorem State.readUnit_keeps {r s : State} (h : r.Keeps s) {n lba outcome} :
    r.Keeps (s.readUnit n lba outcome).1 := by
  unfold State.readUnit
  repeat' first
    | with_reducible assumption | (intro _) | with_reducible apply State.countCorrected_keeps
    | with_reducible apply State.checkUnit_keeps | with_reducible apply State.unitFailed_keeps
    | with_reducible apply State.keeps_ite_fst | with_reducible apply State.keeps_ite | split

theorem State.copyUnit_keeps {r s : State} (h : r.Keeps s) {n lba} :
    r.Keeps (s.copyUnit n lba) := by
  unfold State.copyUnit
  repeat' first
    | with_reducible assumption | (intro _) | with_reducible apply State.readUnit_keeps
    | with_reducible apply State.programUnit_keeps | split | dsimp only

theorem State.copyUnits_keeps {r s : State} (h : r.Keeps s) {p} :
    r.Keeps (s.copyUnits p) := by
  unfold State.copyUnits
  repeat' first
    | with_reducible assumption | (intro _) | with_reducible apply State.copyUnit_keeps
    | with_reducible apply State.showNs_keeps | with_reducible apply State.showBlocks_keeps
    | with_reducible apply State.keeps_foldl

theorem State.collect_keeps {r s : State} (h : r.Keeps s) :
    r.Keeps (s.collect) := by
  unfold State.collect
  repeat' first
    | with_reducible assumption | (intro _) | with_reducible apply State.showBlocks_keeps
    | with_reducible apply State.setBlock_keeps | with_reducible apply State.copyUnits_keeps
    | with_reducible apply State.keeps_ite | split

theorem State.adjustPtp_keeps {r s : State} (h : r.Keeps s) {k f} :
    r.Keeps (s.adjustPtp k f) := by
  unfold State.adjustPtp
  repeat' first
    | with_reducible assumption | (intro _) | fail_if_no_progress (with_reducible apply State.keeps_mk)

theorem State.ptpSend_keeps {r s : State} (h : r.Keeps s) {k kind} :
    r.Keeps (s.ptpSend k kind) := by
  unfold State.ptpSend
  repeat' first
    | with_reducible assumption | (intro _) | with_reducible apply State.adjustPtp_keeps
    | with_reducible apply State.keeps_ite | split

theorem State.briCount_keeps {r s : State} (h : r.Keeps s) {e consumed produced} :
    r.Keeps (s.briCount e consumed produced) := by
  unfold State.briCount
  repeat' first
    | with_reducible assumption | (intro _) | with_reducible apply State.bump_keeps

theorem State.setBri_keeps {r s : State} (h : r.Keeps s) {e x} :
    r.Keeps (s.setBri e x) := by
  unfold State.setBri
  repeat' first
    | with_reducible assumption | (intro _) | fail_if_no_progress (with_reducible apply State.keeps_mk)

theorem State.putBri_keeps {r s : State} (h : r.Keeps s) {e x} :
    r.Keeps (s.putBri e x) := by
  unfold State.putBri
  repeat' first
    | with_reducible assumption | (intro _) | with_reducible apply State.setBit_keeps
    | with_reducible apply State.setBri_keeps

theorem State.briRelease_keeps {r s : State} (h : r.Keeps s) {e run st consumed out} :
    r.Keeps (s.briRelease e run st consumed out) := by
  unfold State.briRelease
  repeat' first
    | with_reducible assumption | (intro _) | with_reducible apply State.briCount_keeps
    | with_reducible apply State.writeMem_keeps | with_reducible apply State.putBri_keeps

theorem State.briMark_keeps {r s : State} (h : r.Keeps s) {e code bit} :
    r.Keeps (s.briMark e code bit) := by
  unfold State.briMark
  repeat' first
    | with_reducible assumption | (intro _) | with_reducible apply State.putBri_keeps

theorem State.briDecodeStep_keeps {r s : State} (h : r.Keeps s) {e run st} :
    r.Keeps (s.briDecodeStep e run st) := by
  unfold State.briDecodeStep
  repeat' first
    | with_reducible assumption | (intro _) | with_reducible apply State.briRelease_keeps
    | with_reducible apply State.briMark_keeps | with_reducible apply State.putBri_keeps
    | with_reducible apply State.keeps_ite | split | dsimp only

theorem State.mirrored_keeps {r s : State} (h : r.Keeps s) {rank ordinal} :
    r.Keeps (s.mirrored rank ordinal) := by
  unfold State.mirrored
  repeat' first
    | with_reducible assumption | (intro _) | with_reducible apply State.flowRank_keeps
    | with_reducible apply State.adjustFleet_keeps | with_reducible apply State.keeps_ite

theorem State.logArrival_keeps {r s : State} (h : r.Keeps s) {i j body} :
    r.Keeps (s.logArrival i j body) := by
  unfold State.logArrival
  repeat' first
    | with_reducible assumption | (intro _) | with_reducible apply State.adjustFleet_keeps

theorem State.arrivalAtLog_keeps {r s : State} (h : r.Keeps s) {source i j body} :
    r.Keeps (s.arrivalAtLog source i j body) := by
  unfold State.arrivalAtLog
  repeat' first
    | with_reducible assumption | (intro _) | with_reducible apply State.logArrival_keeps
    | with_reducible apply State.fleetSend_keeps | with_reducible apply State.settleLog_keeps
    | with_reducible apply State.fleetSendTo_keeps | with_reducible apply State.keeps_ite
    | with_reducible apply State.keeps_foldl

theorem State.emitAll_keeps {r s : State} (h : r.Keeps s) {im it outs} :
    r.Keeps (s.emitAll im it outs) := by
  unfold State.emitAll
  repeat' first
    | with_reducible assumption | (intro _) | with_reducible apply State.emit_keeps
    | with_reducible apply State.heelEmitted_keeps | with_reducible apply State.keeps_foldl

theorem State.handOn_keeps {r s : State} (h : r.Keeps s) {im it outs} :
    r.Keeps (s.handOn im it outs) := by
  unfold State.handOn
  repeat' first
    | with_reducible assumption | (intro _) | with_reducible apply State.completeSample_keeps
    | with_reducible apply State.emitAll_keeps | with_reducible apply State.takeItem_keeps

theorem State.failSample_keeps {r s : State} (h : r.Keeps s) {im it code} :
    r.Keeps (s.failSample im it code) := by
  unfold State.failSample
  repeat' first
    | with_reducible assumption | (intro _) | with_reducible apply State.adjustFacts_keeps
    | with_reducible apply State.handOn_keeps

theorem State.countFault_keeps {r s : State} (h : r.Keeps s) {slot stage} :
    r.Keeps (s.countFault slot stage) := by
  unfold State.countFault
  repeat' first
    | with_reducible assumption | (intro _) | with_reducible apply State.adjustJob_keeps
    | with_reducible apply State.haltJob_keeps | with_reducible apply State.keeps_ite | split

theorem State.exception_keeps {r s : State} (h : r.Keeps s) {c code} :
    r.Keeps (s.exception c code) := by
  unfold State.exception
  repeat' first
    | with_reducible assumption | (intro _) | with_reducible apply State.setCore_keeps
    | with_reducible apply State.retireKennel_keeps | with_reducible apply State.failSample_keeps
    | with_reducible apply State.heelSettle_keeps | with_reducible apply State.countFault_keeps
    | with_reducible apply State.keeps_ite | fail_if_no_progress (with_reducible apply State.keeps_mk) | split

theorem State.startCopy_keeps {r s : State} (h : r.Keeps s) {core f put} :
    r.Keeps (s.startCopy core f put) := by
  unfold State.startCopy
  repeat' first
    | with_reducible assumption | (intro _) | with_reducible apply State.setCore_keeps
    | with_reducible apply State.exception_keeps | with_reducible apply State.keeps_ite | split

theorem State.dmaHold_keeps {r s : State} (h : r.Keeps s) {ch} :
    r.Keeps (s.dmaHold ch) := by
  unfold State.dmaHold
  repeat' first
    | with_reducible assumption | (intro _) | with_reducible apply State.setFld_keeps
    | with_reducible apply State.addClaim_keeps | with_reducible apply State.setBit_keeps
    | with_reducible apply State.keeps_ite

theorem State.dmaRelease_keeps {r s : State} (h : r.Keeps s) {ch} :
    r.Keeps (s.dmaRelease ch) := by
  unfold State.dmaRelease
  repeat' first
    | with_reducible assumption | (intro _) | with_reducible apply State.dropClaim_keeps
    | with_reducible apply State.setBit_keeps | with_reducible apply State.keeps_ite

theorem State.dmaAbort_keeps {r s : State} (h : r.Keeps s) {ch} :
    r.Keeps (s.dmaAbort ch) := by
  unfold State.dmaAbort
  repeat' first
    | with_reducible assumption | (intro _) | with_reducible apply State.setFld_keeps | with_reducible apply State.keeps_ite

theorem State.dmaCtrlWrite_keeps {r s : State} (h : r.Keeps s) {ch v} :
    r.Keeps (s.dmaCtrlWrite ch v) := by
  unfold State.dmaCtrlWrite
  repeat' first
    | with_reducible assumption | (intro _) | with_reducible apply State.dmaHold_keeps
    | with_reducible apply State.dmaRelease_keeps | with_reducible apply State.setFld_keeps
    | with_reducible apply State.dmaAbort_keeps | with_reducible apply State.dmaGo_keeps
    | with_reducible apply State.keeps_ite

theorem State.briHold_keeps {r s : State} (h : r.Keeps s) {e} :
    r.Keeps (s.briHold e) := by
  unfold State.briHold
  repeat' first
    | with_reducible assumption | (intro _) | with_reducible apply State.setFld_keeps
    | with_reducible apply State.addClaim_keeps | with_reducible apply State.setBit_keeps
    | with_reducible apply State.setReg_keeps | with_reducible apply State.putBri_keeps
    | with_reducible apply State.keeps_ite

theorem State.briDrop_keeps {r s : State} (h : r.Keeps s) {e} :
    r.Keeps (s.briDrop e) := by
  unfold State.briDrop
  repeat' first
    | with_reducible assumption | (intro _) | with_reducible apply State.dropClaim_keeps
    | with_reducible apply State.setBit_keeps | with_reducible apply State.keeps_ite

theorem State.briAbort_keeps {r s : State} (h : r.Keeps s) {e} :
    r.Keeps (s.briAbort e) := by
  unfold State.briAbort
  repeat' first
    | with_reducible assumption | (intro _) | with_reducible apply State.setFld_keeps | with_reducible apply State.keeps_ite

theorem State.briOpen_keeps {r s : State} (h : r.Keeps s) {e run} :
    r.Keeps (s.briOpen e run) := by
  unfold State.briOpen
  repeat' first
    | with_reducible assumption | (intro _) | with_reducible apply State.putBri_keeps
    | with_reducible apply State.briMark_keeps | with_reducible apply State.briRelease_keeps
    | with_reducible apply State.keeps_ite | split

theorem State.briFetch_keeps {r s : State} (h : r.Keeps s) {e x2} :
    r.Keeps (s.briFetch e x2) := by
  unfold State.briFetch
  repeat' first
    | with_reducible assumption | (intro _) | with_reducible apply State.putBri_keeps
    | with_reducible apply State.briMark_keeps | with_reducible apply State.briOpen_keeps
    | with_reducible apply State.keeps_ite

theorem State.briGo_keeps {r s : State} (h : r.Keeps s) {e} :
    r.Keeps (s.briGo e) := by
  unfold State.briGo
  repeat' first
    | with_reducible assumption | (intro _) | with_reducible apply State.setFld_keeps
    | with_reducible apply State.briFetch_keeps | with_reducible apply State.keeps_ite

theorem State.briCtrlWrite_keeps {r s : State} (h : r.Keeps s) {e v} :
    r.Keeps (s.briCtrlWrite e v) := by
  unfold State.briCtrlWrite
  repeat' first
    | with_reducible assumption | (intro _) | with_reducible apply State.briHold_keeps
    | with_reducible apply State.briDrop_keeps | with_reducible apply State.briAbort_keeps
    | with_reducible apply State.briGo_keeps | with_reducible apply State.keeps_ite

theorem State.pltCount_keeps {r s : State} (h : r.Keeps s) {i} :
    r.Keeps (s.pltCount i) := by
  unfold State.pltCount
  repeat' first
    | with_reducible assumption | (intro _) | with_reducible apply State.bump_keeps

theorem State.retryLater_keeps {r s : State} (h : r.Keeps s) {ctx dest msgId fragment} :
    r.Keeps (s.retryLater ctx dest msgId fragment) := by
  unfold State.retryLater
  repeat' first
    | with_reducible assumption | (intro _) | with_reducible apply State.adjustCtx_keeps
    | with_reducible apply State.keeps_ite | split

theorem State.answer_keeps {r s : State} (h : r.Keeps s) {ctx dest opcode flags aux tclass payload} :
    r.Keeps (s.answer ctx dest opcode flags aux tclass payload) := by
  unfold State.answer
  repeat' first
    | with_reducible assumption | (intro _) | with_reducible apply State.allocateId_keeps
    | with_reducible apply State.pushTx_keeps | with_reducible apply State.keeps_ite
    | with_reducible apply State.keeps_foldl | with_reducible apply State.keeps_foldl_fst | split

theorem State.ackAtomic_keeps {r s : State} (h : r.Keeps s) {x1 result} :
    r.Keeps (s.ackAtomic x1 result) := by
  unfold State.ackAtomic
  repeat' first
    | with_reducible assumption | (intro _) | with_reducible apply State.answer_keeps

theorem State.flushAcks_keeps {r s : State} (h : r.Keeps s) {ctx source} :
    r.Keeps (s.flushAcks ctx source) := by
  unfold State.flushAcks
  repeat' first
    | with_reducible assumption | (intro _) | with_reducible apply State.adjustCtx_keeps
    | with_reducible apply State.answer_keeps | with_reducible apply State.keeps_foldl
    | with_reducible apply State.keeps_foldl_fst | split

theorem State.queueAck_keeps {r s : State} (h : r.Keeps s) {x1} :
    r.Keeps (s.queueAck x1) := by
  unfold State.queueAck
  repeat' first
    | with_reducible assumption | (intro _) | with_reducible apply State.adjustCtx_keeps
    | with_reducible apply State.flushAcks_keeps | with_reducible apply State.keeps_ite | split

theorem State.nak_keeps {r s : State} (h : r.Keeps s) {x1 code detail auxBit} :
    r.Keeps (s.nak x1 code detail auxBit) := by
  unfold State.nak
  repeat' first
    | with_reducible assumption | (intro _) | with_reducible apply State.answer_keeps
    | with_reducible apply State.pltCount_keeps | with_reducible apply State.keeps_ite

theorem State.refuse_keeps {r s : State} (h : r.Keeps s) {x1 code detail auxBit keep} :
    r.Keeps (s.refuse x1 code detail auxBit keep) := by
  unfold State.refuse
  repeat' first
    | with_reducible assumption | (intro _) | with_reducible apply State.adjustCtx_keeps
    | with_reducible apply State.nak_keeps | with_reducible apply State.keeps_ite

theorem State.executed_keeps {r s : State} (h : r.Keeps s) {x1 result} :
    r.Keeps (s.executed x1 result) := by
  unfold State.executed
  repeat' first
    | with_reducible assumption | (intro _) | with_reducible apply State.adjustCtx_keeps

theorem State.takeCredits_keeps {r s : State} (h : r.Keeps s) {slot source es} :
    r.Keeps (s.takeCredits slot source es) := by
  unfold State.takeCredits
  repeat' first
    | with_reducible assumption | (intro _) | with_reducible apply State.adjustJob_keeps
    | with_reducible apply State.bumpSat_keeps | with_reducible apply State.flowJob_keeps | split

theorem State.execCredit_keeps {r s : State} (h : r.Keeps s) {c x2 payload} :
    r.Keeps (s.execCredit c x2 payload) := by
  unfold State.execCredit
  repeat' first
    | with_reducible assumption | (intro _) | with_reducible apply State.queueAck_keeps
    | with_reducible apply State.executed_keeps | with_reducible apply State.takeCredits_keeps | split

theorem State.stripChecks_keeps {r s : State} (h : r.Keeps s) {units payload} :
    r.Keeps (s.stripChecks units payload).1 := by
  unfold State.stripChecks
  repeat' first
    | with_reducible assumption | (intro _) | with_reducible apply State.chkRecord_keeps
    | with_reducible apply State.keeps_ite_fst | with_reducible apply State.keeps_ite
    | with_reducible apply State.keeps_foldl | with_reducible apply State.keeps_foldl_fst

theorem State.readUnits_keeps {r s : State} (h : r.Keeps s) {n units outcomes} :
    r.Keeps (s.readUnits n units outcomes).1 := by
  unfold State.readUnits
  repeat' first
    | with_reducible assumption | (intro _) | with_reducible apply State.readUnit_keeps
    | with_reducible apply State.keeps_foldl | with_reducible apply State.keeps_foldl_fst

theorem State.readBufferUnits_keeps {r s : State} (h : r.Keeps s) {b offset n} :
    r.Keeps (s.readBufferUnits b offset n).1 := by
  unfold State.readBufferUnits
  repeat' first
    | with_reducible assumption | (intro _) | with_reducible apply State.readUnits_keeps

theorem State.execRead_keeps {r s : State} (h : r.Keeps s) {c x2} :
    r.Keeps (s.execRead c x2) := by
  unfold State.execRead
  repeat' first
    | with_reducible assumption | (intro _) | with_reducible apply State.readBufferUnits_keeps
    | with_reducible apply State.answer_keeps | with_reducible apply State.executed_keeps
    | with_reducible apply State.keeps_ite | split

theorem State.liveBytes_keeps {r s : State} (h : r.Keeps s) {slot data} :
    r.Keeps (s.liveBytes slot data) := by
  unfold State.liveBytes
  repeat' first
    | with_reducible assumption | (intro _) | with_reducible apply State.adjustJob_keeps

theorem State.writeBuffer_keeps {r s : State} (h : r.Keeps s) {ctx c b offset data} :
    r.Keeps (s.writeBuffer ctx c b offset data) := by
  unfold State.writeBuffer
  repeat' first
    | with_reducible assumption | (intro _) | with_reducible apply State.writeMem_keeps
    | with_reducible apply State.putUnits_keeps | with_reducible apply State.adjustCtx_keeps
    | with_reducible apply State.adjustJob_keeps | with_reducible apply State.liveBytes_keeps
    | with_reducible apply State.keeps_ite | with_reducible apply State.keeps_map_getD | split

theorem State.execAtomic_keeps {r s : State} (h : r.Keeps s) {c x2 payload} :
    r.Keeps (s.execAtomic c x2 payload) := by
  unfold State.execAtomic
  repeat' first
    | with_reducible assumption | (intro _) | with_reducible apply State.ackAtomic_keeps
    | with_reducible apply State.executed_keeps | with_reducible apply State.writeBuffer_keeps | split

theorem State.postImmediate_keeps {r s : State} (h : r.Keeps s) {x1} :
    r.Keeps (s.postImmediate x1) := by
  unfold State.postImmediate
  repeat' first
    | with_reducible assumption | (intro _) | with_reducible apply State.adjustCtx_keeps

theorem State.execWrite_keeps {r s : State} (h : r.Keeps s) {c x2 data} :
    r.Keeps (s.execWrite c x2 data) := by
  unfold State.execWrite
  repeat' first
    | with_reducible assumption | (intro _) | with_reducible apply State.executed_keeps
    | with_reducible apply State.writeBuffer_keeps | with_reducible apply State.queueAck_keeps
    | with_reducible apply State.postImmediate_keeps | with_reducible apply State.keeps_ite | split

theorem State.request_keeps {r s : State} (h : r.Keeps s) {port sub c x4 payload} :
    r.Keeps (s.request port sub c x4 payload) := by
  unfold State.request
  repeat' first
    | with_reducible assumption | (intro _) | with_reducible apply State.nak_keeps
    | with_reducible apply State.execCredit_keeps | with_reducible apply State.stripChecks_keeps
    | with_reducible apply State.refuse_keeps | with_reducible apply State.execRead_keeps
    | with_reducible apply State.execAtomic_keeps | with_reducible apply State.execWrite_keeps
    | with_reducible apply State.keeps_ite | split | dsimp only

theorem State.filtered_keeps {r s : State} (h : r.Keeps s) {port sub c x4 payload} :
    r.Keeps (s.filtered port sub c x4 payload) := by
  unfold State.filtered
  repeat' first
    | with_reducible assumption | (intro _) | with_reducible apply State.pltCount_keeps
    | with_reducible apply State.ackAtomic_keeps | with_reducible apply State.queueAck_keeps
    | with_reducible apply State.nak_keeps | with_reducible apply State.refuse_keeps
    | with_reducible apply State.request_keeps | with_reducible apply State.keeps_ite
    | with_reducible apply State.keeps_map_getD | split

theorem State.readResp_keeps {r s : State} (h : r.Keeps s) {port sub c x4 payload} :
    r.Keeps (s.readResp port sub c x4 payload) := by
  unfold State.readResp
  repeat' first
    | with_reducible assumption | (intro _) | with_reducible apply State.refuse_keeps
    | with_reducible apply State.stripChecks_keeps | with_reducible apply State.adjustCtx_keeps
    | with_reducible apply State.keeps_ite | split

theorem State.batchMessageDone_keeps {r s : State} (h : r.Keeps s) {slot rank dest ordinal msgId} :
    r.Keeps (s.batchMessageDone slot rank dest ordinal msgId) := by
  unfold State.batchMessageDone
  repeat' first
    | with_reducible assumption | (intro _) | with_reducible apply State.flowRank_keeps
    | with_reducible apply State.adjustDelivery_keeps | with_reducible apply State.keeps_ite | split

theorem State.settleMessage_keeps {r s : State} (h : r.Keeps s) {ctx dest msgId} :
    r.Keeps (s.settleMessage ctx dest msgId) := by
  unfold State.settleMessage
  repeat' first
    | with_reducible assumption | (intro _) | with_reducible apply State.adjustCtx_keeps
    | with_reducible apply State.batchMessageDone_keeps | with_reducible apply State.keeps_ite | split

theorem State.ackFragment_keeps {r s : State} (h : r.Keeps s) {ctx dest msgId fragment} :
    r.Keeps (s.ackFragment ctx dest msgId fragment) := by
  unfold State.ackFragment
  repeat' first
    | with_reducible assumption | (intro _) | with_reducible apply State.adjustCtx_keeps
    | with_reducible apply State.keeps_ite | split

theorem State.ackArrived_keeps {r s : State} (h : r.Keeps s) {x1 payload} :
    r.Keeps (s.ackArrived x1 payload) := by
  unfold State.ackArrived
  repeat' first
    | with_reducible assumption | (intro _) | with_reducible apply State.settleMessage_keeps
    | with_reducible apply State.ackFragment_keeps | with_reducible apply State.keeps_ite
    | with_reducible apply State.keeps_foldl

theorem State.fence_keeps {r s : State} (h : r.Keeps s) :
    r.Keeps (s.fence) := by
  unfold State.fence
  repeat' first
    | with_reducible assumption | (intro _) | with_reducible apply State.setJobState_keeps
    | with_reducible apply State.emptyQueue_keeps | with_reducible apply State.setFltCode_keeps
    | with_reducible apply State.setFltState_keeps | with_reducible apply State.keeps_ite
    | with_reducible apply State.keeps_foldl

theorem State.holdMessages_keeps {r s : State} (h : r.Keeps s) {node} :
    r.Keeps (s.holdMessages node) := by
  unfold State.holdMessages
  repeat' first
    | with_reducible assumption | (intro _) | with_reducible apply State.adjustFleet_keeps
    | with_reducible apply State.adjustCtx_keeps

theorem State.restartBatch_keeps {r s : State} (h : r.Keeps s) {slot rank dest credit} :
    r.Keeps (s.restartBatch slot rank dest credit) := by
  unfold State.restartBatch
  repeat' first
    | with_reducible assumption | (intro _) | with_reducible apply State.adjustDelivery_keeps
    | with_reducible apply State.cancelMessages_keeps

theorem State.holdNode_keeps {r s : State} (h : r.Keeps s) {slot node} :
    r.Keeps (s.holdNode slot node) := by
  unfold State.holdNode
  repeat' first
    | with_reducible assumption | (intro _) | with_reducible apply State.adjustDelivery_keeps
    | with_reducible apply State.restartBatch_keeps | with_reducible apply State.keeps_foldl
    | with_reducible apply State.keeps_foldl_fst | split

theorem State.roleRefused_keeps {r s : State} (h : r.Keeps s) {node bit} :
    r.Keeps (s.roleRefused node bit) := by
  unfold State.roleRefused
  repeat' first
    | with_reducible assumption | (intro _) | with_reducible apply State.fence_keeps
    | with_reducible apply State.fleetSendRole_keeps | with_reducible apply State.holdMessages_keeps
    | with_reducible apply State.holdNode_keeps | with_reducible apply State.keeps_ite

theorem State.endReads_keeps {r s : State} (h : r.Keeps s) {sh ref} :
    r.Keeps (s.endReads sh ref) := by
  unfold State.endReads
  repeat' first
    | with_reducible assumption | (intro _) | with_reducible apply State.adjustCtx_keeps
    | with_reducible apply State.cancelMessages_keeps

theorem State.splitOuts_keeps {r s : State} (h : r.Keeps s) {im st it} :
    r.Keeps (s.splitOuts im st it).1 := by
  unfold State.splitOuts
  repeat' first
    | with_reducible assumption | (intro _) | with_reducible apply State.damage_keeps
    | with_reducible apply State.keeps_ite_fst | with_reducible apply State.keeps_ite
    | with_reducible apply State.keeps_map_getD | split | dsimp only

theorem State.passOn_keeps {r s : State} (h : r.Keeps s) {im st it0 it} :
    r.Keeps (s.passOn im st it0 it) := by
  unfold State.passOn
  repeat' first
    | with_reducible assumption | (intro _) | with_reducible apply State.splitOuts_keeps
    | with_reducible apply State.handOn_keeps

theorem State.damageFree_keeps {r s : State} (h : r.Keeps s) {it code} :
    r.Keeps (s.damageFree it code) := by
  unfold State.damageFree
  repeat' first
    | with_reducible assumption | (intro _) | with_reducible apply State.damage_keeps

theorem State.unreadable_keeps {r s : State} (h : r.Keeps s) {im st it sh} :
    r.Keeps (s.unreadable im st it sh) := by
  unfold State.unreadable
  repeat' first
    | with_reducible assumption | (intro _) | with_reducible apply State.passOn_keeps
    | with_reducible apply State.damageFree_keeps | with_reducible apply State.haltJob_keeps
    | with_reducible apply State.keeps_ite

theorem State.readFailed_keeps {r s : State} (h : r.Keeps s) {ref} :
    r.Keeps (s.readFailed ref) := by
  unfold State.readFailed
  repeat' first
    | with_reducible assumption | (intro _) | with_reducible apply State.haltJob_keeps
    | with_reducible apply State.endReads_keeps | with_reducible apply State.unreadable_keeps
    | with_reducible apply State.keeps_ite | split

theorem State.batchRefused_keeps {r s : State} (h : r.Keeps s) {slot rank dest code} :
    r.Keeps (s.batchRefused slot rank dest code) := by
  unfold State.batchRefused
  repeat' first
    | with_reducible assumption | (intro _) | with_reducible apply State.restartBatch_keeps
    | with_reducible apply State.bumpSat_keeps | with_reducible apply State.flowRank_keeps
    | with_reducible apply State.keeps_ite

theorem State.refused_keeps {r s : State} (h : r.Keeps s) {node code purpose} :
    r.Keeps (s.refused node code purpose) := by
  unfold State.refused
  repeat' first
    | with_reducible assumption | (intro _) | with_reducible apply State.haltJob_keeps
    | with_reducible apply State.holdNode_keeps | with_reducible apply State.batchRefused_keeps
    | with_reducible apply State.bumpSat_keeps | with_reducible apply State.readFailed_keeps
    | with_reducible apply State.keeps_ite | with_reducible apply State.keeps_map_getD | split

theorem State.nakArrived_keeps {r s : State} (h : r.Keeps s) {x1 payload} :
    r.Keeps (s.nakArrived x1 payload) := by
  unfold State.nakArrived
  repeat' first
    | with_reducible assumption | (intro _) | with_reducible apply State.pltCount_keeps
    | with_reducible apply State.retryLater_keeps | with_reducible apply State.adjustCtx_keeps
    | with_reducible apply State.roleRefused_keeps | with_reducible apply State.readFailed_keeps
    | with_reducible apply State.refused_keeps | with_reducible apply State.keeps_ite | split

theorem State.dispatchPacket_keeps {r s : State} (h : r.Keeps s) {port sub c x4 payload} :
    r.Keeps (s.dispatchPacket port sub c x4 payload) := by
  unfold State.dispatchPacket
  repeat' first
    | with_reducible assumption | (intro _) | with_reducible apply State.filtered_keeps
    | with_reducible apply State.readResp_keeps | with_reducible apply State.ackArrived_keeps
    | with_reducible apply State.nakArrived_keeps | with_reducible apply State.keeps_ite

theorem State.touchCtx_keeps {r s : State} (h : r.Keeps s) {c} :
    r.Keeps (s.touchCtx c) := by
  unfold State.touchCtx
  repeat' first
    | with_reducible assumption | (intro _) | with_reducible apply State.adjustCtx_keeps
    | fail_if_no_progress (with_reducible apply State.keeps_mk)

theorem State.fromStep5_keeps {r s : State} (h : r.Keeps s) {port sub frame} :
    r.Keeps (s.fromStep5 port sub frame) := by
  unfold State.fromStep5
  repeat' first
    | with_reducible assumption | (intro _) | with_reducible apply State.pltCount_keeps
    | with_reducible apply State.retryLater_keeps | with_reducible apply State.dispatchPacket_keeps
    | with_reducible apply State.touchCtx_keeps | with_reducible apply State.adjustCtx_keeps
    | with_reducible apply State.keeps_ite | split | dsimp only

theorem State.unauthNak_keeps {r s : State} (h : r.Keeps s) {port sub x3} :
    r.Keeps (s.unauthNak port sub x3) := by
  unfold State.unauthNak
  repeat' first
    | with_reducible assumption | (intro _) | with_reducible apply State.pltCount_keeps
    | with_reducible apply State.pushTx_keeps

theorem State.makeRoom_keeps {r s : State} (h : r.Keeps s) : KeepsOpt r s.makeRoom := by
  unfold State.makeRoom
  split
  · exact KeepsOpt.some h
  · cases s.victim with
    | none => exact KeepsOpt.none
    | some v => exact KeepsOpt.some (State.adjustCtx_keeps h)

theorem State.startFetch_keeps {r s : State} (h : r.Keeps s) {ctx} :
    r.Keeps (s.startFetch ctx) := by
  unfold State.startFetch
  repeat' first
    | with_reducible assumption | (intro _)
    | (with_reducible refine KeepsOpt.of_eq ?_ (by assumption); with_reducible apply State.makeRoom_keeps)
    | with_reducible apply State.makeRoom_keeps | with_reducible apply State.adjustCtx_keeps
    | with_reducible apply State.keeps_ite | with_reducible apply State.keeps_map_getD | split

theorem State.showMissq_keeps {r s : State} (h : r.Keeps s) {p} :
    r.Keeps (s.showMissq p) := by
  unfold State.showMissq
  repeat' first
    | with_reducible assumption | (intro _) | with_reducible apply State.setFld_keeps

theorem State.missQueue_keeps {r s : State} (h : r.Keeps s) {port sub x3 frame} :
    r.Keeps (s.missQueue port sub x3 frame) := by
  unfold State.missQueue
  repeat' first
    | with_reducible assumption | (intro _) | with_reducible apply State.unauthNak_keeps
    | with_reducible apply State.startFetch_keeps | with_reducible apply State.showMissq_keeps
    | with_reducible apply State.pltCount_keeps | with_reducible apply State.setPort_keeps
    | with_reducible apply State.keeps_ite

theorem State.pltReceive_keeps {r s : State} (h : r.Keeps s) {port sub op frame} :
    r.Keeps (s.pltReceive port sub op frame) := by
  unfold State.pltReceive
  repeat' first
    | with_reducible assumption | (intro _) | with_reducible apply State.setPort_keeps
    | with_reducible apply State.pltCount_keeps | with_reducible apply State.fromStep5_keeps
    | with_reducible apply State.missQueue_keeps | with_reducible apply State.keeps_ite | split

theorem State.drainStalled_keeps {r s : State} (h : r.Keeps s) :
    r.Keeps (s.drainStalled) := by
  unfold State.drainStalled
  repeat' first
    | with_reducible assumption | (intro _) | with_reducible apply State.heelSettle_keeps
    | with_reducible apply State.pltReceive_keeps | with_reducible apply State.setPort_keeps
    | with_reducible apply State.keeps_ite | with_reducible apply State.keeps_foldl

theorem State.chkDisable_keeps {r s : State} (h : r.Keeps s) {u} :
    r.Keeps (s.chkDisable u) := by
  unfold State.chkDisable
  repeat' first
    | with_reducible assumption | (intro _) | with_reducible apply State.setBit_keeps | with_reducible apply State.keeps_ite

theorem State.chkRelease_keeps {r s : State} (h : r.Keeps s) {u} :
    r.Keeps (s.chkRelease u) := by
  unfold State.chkRelease
  repeat' first
    | with_reducible assumption | (intro _) | with_reducible apply State.dropClaim_keeps
    | with_reducible apply State.setBit_keeps | with_reducible apply State.chkDisable_keeps
    | with_reducible apply State.keeps_ite

theorem State.chkHold_keeps {r s : State} (h : r.Keeps s) {u} :
    r.Keeps (s.chkHold u) := by
  unfold State.chkHold
  repeat' first
    | with_reducible assumption | (intro _) | with_reducible apply State.addClaim_keeps
    | with_reducible apply State.setBit_keeps | with_reducible apply State.keeps_ite

theorem State.chkEnable_keeps {r s : State} (h : r.Keeps s) {u} :
    r.Keeps (s.chkEnable u) := by
  unfold State.chkEnable
  repeat' first
    | with_reducible assumption | (intro _) | with_reducible apply State.setFld_keeps
    | with_reducible apply State.setBit_keeps | with_reducible apply State.setReg_keeps
    | with_reducible apply State.setChk_keeps | with_reducible apply State.keeps_ite

theorem State.chkPause_keeps {r s : State} (h : r.Keeps s) {u} :
    r.Keeps (s.chkPause u) := by
  unfold State.chkPause
  repeat' first
    | with_reducible assumption | (intro _) | with_reducible apply State.setBit_keeps | with_reducible apply State.keeps_ite

theorem State.chkResume_keeps {r s : State} (h : r.Keeps s) {u} :
    r.Keeps (s.chkResume u) := by
  unfold State.chkResume
  repeat' first
    | with_reducible assumption | (intro _) | with_reducible apply State.setBit_keeps | with_reducible apply State.keeps_ite

theorem State.chkCtrlWrite_keeps {r s : State} (h : r.Keeps s) {u v} :
    r.Keeps (s.chkCtrlWrite u v) := by
  unfold State.chkCtrlWrite
  repeat' first
    | with_reducible assumption | (intro _) | with_reducible apply State.chkRelease_keeps
    | with_reducible apply State.chkHold_keeps | with_reducible apply State.chkEnable_keeps
    | with_reducible apply State.chkDisable_keeps | with_reducible apply State.chkPause_keeps
    | with_reducible apply State.chkResume_keeps | with_reducible apply State.keeps_ite

theorem State.chkConfigWrite_keeps {r s : State} (h : r.Keeps s) {u filter v} :
    r.Keeps (s.chkConfigWrite u filter v) := by
  unfold State.chkConfigWrite
  repeat' first
    | with_reducible assumption | (intro _) | with_reducible apply State.setReg_keeps | with_reducible apply State.keeps_ite

theorem State.chkStateWrite_keeps {r s : State} (h : r.Keeps s) {u bytes v} :
    r.Keeps (s.chkStateWrite u bytes v) := by
  unfold State.chkStateWrite
  repeat' first
    | with_reducible assumption | (intro _) | with_reducible apply State.setReg_keeps
    | with_reducible apply State.setChk_keeps | with_reducible apply State.keeps_ite

theorem State.trsFieldWrite_keeps {r s : State} (h : r.Keeps s) {x1 off d v} :
    r.Keeps (s.trsFieldWrite x1 off d v) := by
  unfold State.trsFieldWrite
  repeat' first
    | with_reducible assumption | (intro _) | with_reducible apply State.setReg_keeps | with_reducible apply State.keeps_ite

theorem State.takeSeq_keeps {r s : State} (h : r.Keeps s) :
    r.Keeps (s.takeSeq) := by
  unfold State.takeSeq
  repeat' first
    | with_reducible assumption | (intro _) | with_reducible apply State.bump_keeps

theorem State.trsGo_keeps {r s : State} (h : r.Keeps s) {x1} :
    r.Keeps (s.trsGo x1) := by
  unfold State.trsGo
  repeat' first
    | with_reducible assumption | (intro _) | with_reducible apply State.trsFinish_keeps
    | with_reducible apply State.setReg_keeps | with_reducible apply State.takeSeq_keeps
    | with_reducible apply State.keeps_ite | fail_if_no_progress (with_reducible apply State.keeps_mk)

theorem State.trsCtrlWrite_keeps {r s : State} (h : r.Keeps s) {x1 v} :
    r.Keeps (s.trsCtrlWrite x1 v) := by
  unfold State.trsCtrlWrite
  repeat' first
    | with_reducible assumption | (intro _) | with_reducible apply State.setFld_keeps
    | with_reducible apply State.trsGo_keeps | with_reducible apply State.keeps_ite

theorem State.healthSnap_keeps {r s : State} (h : r.Keeps s) :
    r.Keeps (s.healthSnap) := by
  unfold State.healthSnap
  repeat' first
    | with_reducible assumption | (intro _) | with_reducible apply State.adjustStore_keeps
    | fail_if_no_progress (with_reducible apply State.keeps_mk)

theorem State.unitWrite_keeps {r s : State} (h : r.Keeps s) {off d v} :
    KeepsOpt r (s.unitWrite off d v) := by
  unfold State.unitWrite
  repeat' first
    | with_reducible assumption | (intro _) | with_reducible apply State.dmaCtrlWrite_keeps
    | with_reducible apply State.setFld_keeps | with_reducible apply State.briCtrlWrite_keeps
    | with_reducible apply State.drainStalled_keeps | with_reducible apply State.chkCtrlWrite_keeps
    | with_reducible apply State.chkConfigWrite_keeps | with_reducible apply State.chkStateWrite_keeps
    | with_reducible apply State.trsFieldWrite_keeps | with_reducible apply State.trsCtrlWrite_keeps
    | with_reducible apply State.controllerReset_keeps | with_reducible apply State.healthSnap_keeps
    | with_reducible apply KeepsOpt.ite | with_reducible apply State.keeps_ite | with_reducible exact KeepsOpt.none
    | with_reducible apply KeepsOpt.some

theorem State.plainWrite_keeps {r s : State} (h : r.Keeps s) {off d v} :
    r.Keeps (s.plainWrite off d v) := by
  unfold State.plainWrite
  repeat' first
    | with_reducible assumption | (intro _) | with_reducible apply State.setReg_keeps

theorem KeepsOpt.or {r : State} {a b : Option State} (h : KeepsOpt r a) (g : KeepsOpt r b) : KeepsOpt r (a.or b) := by
  cases a with
  | none => exact g
  | some t => exact h

theorem State.regWrite_keeps {r s : State} (h : r.Keeps s) {off d v} : r.Keeps (s.regWrite off d v) := by
  unfold State.regWrite
  split
  · next t e => exact (KeepsOpt.or (State.unitWrite_keeps h) (State.jobWrite_keeps h)).of_eq e
  · exact State.plainWrite_keeps h

theorem State.write32_keeps {r s : State} (h : r.Keeps s) {off v} :
    r.Keeps (s.write32 off v) := by
  unfold State.write32
  repeat' first
    | with_reducible assumption | (intro _) | with_reducible apply State.regWrite_keeps
    | with_reducible apply State.keeps_ite | fail_if_no_progress (with_reducible apply State.keeps_mk) | split

theorem State.write64_keeps {r s : State} (h : r.Keeps s) {off v} :
    r.Keeps (s.write64 off v) := by
  unfold State.write64
  repeat' first
    | with_reducible assumption | (intro _) | with_reducible apply State.regWrite_keeps
    | with_reducible apply State.write32_keeps | with_reducible apply State.keeps_ite
    | fail_if_no_progress (with_reducible apply State.keeps_mk) | split

theorem State.hostWrite_keeps {r s : State} (h : r.Keeps s) {off width v} :
    r.Keeps (s.hostWrite off width v) := by
  unfold State.hostWrite
  repeat' first
    | with_reducible assumption | (intro _) | with_reducible apply State.write32_keeps
    | with_reducible apply State.write64_keeps | with_reducible apply State.keeps_ite

theorem State.briRecord_keeps {r s : State} (h : r.Keeps s) {e run code bit} :
    r.Keeps (s.briRecord e run code bit) := by
  unfold State.briRecord
  repeat' first
    | with_reducible assumption | (intro _) | with_reducible apply State.raise_keeps
    | with_reducible apply State.writeMem_keeps

theorem State.briEnd_keeps {r s : State} (h : r.Keeps s) {e run code bit} :
    r.Keeps (s.briEnd e run code bit) := by
  unfold State.briEnd
  repeat' first
    | with_reducible assumption | (intro _) | with_reducible apply State.putBri_keeps
    | with_reducible apply State.briRecord_keeps | with_reducible apply State.setFld_keeps
    | with_reducible apply State.setBit_keeps | with_reducible apply State.setReg_keeps
    | with_reducible apply State.keeps_ite

theorem State.briStop_keeps {r s : State} (h : r.Keeps s) {e} :
    r.Keeps (s.briStop e) := by
  unfold State.briStop
  repeat' first
    | with_reducible assumption | (intro _) | with_reducible apply State.briEnd_keeps | with_reducible apply State.keeps_ite
    | split

theorem State.unusable_keeps {r s : State} (h : r.Keeps s) {it} :
    r.Keeps (s.unusable it).1 := by
  unfold State.unusable
  repeat' first
    | with_reducible assumption | (intro _) | with_reducible apply State.damageFree_keeps

theorem State.unsupported_keeps {r s : State} (h : r.Keeps s) {it} :
    r.Keeps (s.unsupported it).1 := by
  unfold State.unsupported
  repeat' first
    | with_reducible assumption | (intro _) | with_reducible apply State.damageFree_keeps

theorem State.decodedItem_keeps {r s : State} (h : r.Keeps s) {it limit x3} :
    r.Keeps (s.decodedItem it limit x3).1 := by
  unfold State.decodedItem
  repeat' first
    | with_reducible assumption | (intro _) | with_reducible apply State.unusable_keeps
    | with_reducible apply State.unsupported_keeps | with_reducible apply State.decodedSample_keeps | split

theorem State.audioDecoded_keeps {r s : State} (h : r.Keeps s) {im st it} :
    r.Keeps (s.audioDecoded im st it).1 := by
  unfold State.audioDecoded
  repeat' first
    | with_reducible assumption | (intro _) | with_reducible apply State.decodedItem_keeps

theorem State.drainMiss_keeps {r s : State} (h : r.Keeps s) {port ctx} :
    r.Keeps (s.drainMiss port ctx) := by
  unfold State.drainMiss
  repeat' first
    | with_reducible assumption | (intro _) | with_reducible apply State.showMissq_keeps
    | with_reducible apply State.setPort_keeps | with_reducible apply State.pltCount_keeps
    | with_reducible apply State.fromStep5_keeps | with_reducible apply State.keeps_ite
    | with_reducible apply State.keeps_foldl

theorem State.fetchDone_keeps {r s : State} (h : r.Keeps s) {port ctx} :
    r.Keeps (s.fetchDone port ctx) := by
  unfold State.fetchDone
  repeat' first
    | with_reducible assumption | (intro _) | with_reducible apply State.startFetch_keeps
    | with_reducible apply State.touchCtx_keeps | with_reducible apply State.adjustCtx_keeps
    | with_reducible apply State.drainMiss_keeps | with_reducible apply State.keeps_ite
    | with_reducible apply State.keeps_foldl | with_reducible apply State.keeps_foldl_fst | split | dsimp only

theorem State.exhaust_keeps {r s : State} (h : r.Keeps s) {n} :
    r.Keeps (s.exhaust n) := by
  unfold State.exhaust
  repeat' first
    | with_reducible assumption | (intro _) | with_reducible apply State.raise_keeps
    | with_reducible apply State.setBit_keeps

theorem State.trsStart_keeps {r s : State} (h : r.Keeps s) {x1} :
    r.Keeps (s.trsStart x1) := by
  unfold State.trsStart
  repeat' first
    | with_reducible assumption | (intro _) | with_reducible apply State.setFld_keeps

theorem State.trsBegin_keeps {r s : State} (h : r.Keeps s) {x1 c} :
    r.Keeps (s.trsBegin x1 c) := by
  unfold State.trsBegin
  repeat' first
    | with_reducible assumption | (intro _) | with_reducible apply State.trsFinish_keeps
    | with_reducible apply State.exhaust_keeps | with_reducible apply State.trsStart_keeps
    | with_reducible apply State.adjustStore_keeps | with_reducible apply State.adjustCmd_keeps
    | with_reducible apply State.keeps_ite

theorem State.restartKennel_keeps {r s : State} (h : r.Keeps s) {k} :
    r.Keeps (s.restartKennel k) := by
  unfold State.restartKennel
  repeat' first
    | with_reducible assumption | (intro _) | with_reducible apply State.setKennel_keeps | split

theorem State.jump_keeps {r s : State} (h : r.Keeps s) {core target c} :
    r.Keeps (s.jump core target c) := by
  unfold State.jump
  repeat' first
    | with_reducible assumption | (intro _) | with_reducible apply State.exception_keeps
    | with_reducible apply State.setCore_keeps | with_reducible apply State.keeps_ite

theorem State.heelPeerStage_keeps {r s : State} (h : r.Keeps s) {k d} :
    r.Keeps (s.heelPeerStage k d) := by
  unfold State.heelPeerStage
  repeat' first
    | with_reducible assumption | (intro _) | with_reducible apply State.showPending_keeps
    | with_reducible apply State.compareStage_keeps | with_reducible apply State.setHeel_keeps | split

theorem State.retireBlock_keeps {r s : State} (h : r.Keeps s) {b} :
    r.Keeps (s.retireBlock b) := by
  unfold State.retireBlock
  repeat' first
    | with_reducible assumption | (intro _) | with_reducible apply State.adjustStore_keeps
    | with_reducible apply State.setBlock_keeps | with_reducible apply State.setFld_keeps
    | with_reducible apply State.raise_keeps | with_reducible apply State.setBit_keeps
    | with_reducible apply State.showBlocks_keeps | with_reducible apply State.keeps_ite

theorem State.appendLog_keeps {r s : State} (h : r.Keeps s) {slot ns lba data} :
    r.Keeps (s.appendLog slot ns lba data) := by
  unfold State.appendLog
  repeat' first
    | with_reducible assumption | (intro _) | with_reducible apply State.storeUnits_keeps
    | with_reducible apply State.takeSeq_keeps | with_reducible apply State.adjustStore_keeps
    | with_reducible apply State.setFld_keeps | with_reducible apply State.keeps_ite

theorem State.settleRoles_keeps {r s : State} (h : r.Keeps s) :
    r.Keeps (s.settleRoles) := by
  unfold State.settleRoles
  repeat' first
    | with_reducible assumption | (intro _) | with_reducible apply State.adjustPtp_keeps
    | with_reducible apply State.keeps_ite | with_reducible apply State.keeps_foldl

theorem State.setServo_keeps {r s : State} (h : r.Keeps s) {st} :
    r.Keeps (s.setServo st) := by
  unfold State.setServo
  repeat' first
    | with_reducible assumption | (intro _) | with_reducible apply State.setBit_keeps
    | with_reducible apply State.setFld_keeps | with_reducible apply State.keeps_ite
    | fail_if_no_progress (with_reducible apply State.keeps_mk)

theorem State.masterFound_keeps {r s : State} (h : r.Keeps s) :
    r.Keeps (s.masterFound) := by
  unfold State.masterFound
  repeat' first
    | with_reducible assumption | (intro _) | with_reducible apply State.setServo_keeps
    | with_reducible apply State.keeps_ite

theorem State.masterDecision_keeps {r s : State} (h : r.Keeps s) :
    r.Keeps (s.masterDecision) := by
  unfold State.masterDecision
  repeat' first
    | with_reducible assumption | (intro _) | with_reducible apply State.settleRoles_keeps
    | with_reducible apply State.masterFound_keeps | with_reducible apply State.setServo_keeps
    | with_reducible apply State.keeps_ite | split

theorem State.bumpInput_keeps {r s : State} (h : r.Keeps s) {hedge stage handle} :
    r.Keeps (s.bumpInput hedge stage handle) := by
  unfold State.bumpInput
  repeat' first
    | with_reducible assumption | (intro _) | with_reducible apply State.keeps_ite
    | fail_if_no_progress (with_reducible apply State.keeps_mk) | split

theorem State.sdone_keeps {r s : State} (h : r.Keeps s) {core} :
    r.Keeps (s.sdone core) := by
  unfold State.sdone
  repeat' first
    | with_reducible assumption | (intro _) | with_reducible apply State.exception_keeps
    | with_reducible apply State.setCore_keeps | with_reducible apply State.adjustJob_keeps
    | with_reducible apply State.takeItem_keeps | with_reducible apply State.releaseInput_keeps
    | with_reducible apply State.bumpInput_keeps | with_reducible apply State.completeSample_keeps
    | with_reducible apply State.keeps_ite | with_reducible apply State.keeps_map_getD | split

theorem State.restartCore_keeps {r s : State} (h : r.Keeps s) {c} :
    r.Keeps (s.restartCore c) := by
  unfold State.restartCore
  repeat' first
    | with_reducible assumption | (intro _) | with_reducible apply State.setCore_keeps | split

theorem State.kgive_keeps {r s : State} (h : r.Keeps s) {core region ch} :
    r.Keeps (s.kgive core region ch) := by
  unfold State.kgive
  repeat' first
    | with_reducible assumption | (intro _) | with_reducible apply State.exception_keeps
    | with_reducible apply State.setKennel_keeps | with_reducible apply State.setCore_keeps
    | with_reducible apply State.keeps_ite | split

theorem State.readVocab_keeps {r s : State} (h : r.Keeps s) {die1 x2 table im lines} :
    r.Keeps (s.readVocab die1 x2 table im lines) := by
  unfold State.readVocab
  repeat' first
    | with_reducible assumption | (intro _) | with_reducible apply State.bump_keeps | with_reducible apply State.keeps_ite
    | with_reducible apply State.keeps_foldl | with_reducible apply State.keeps_foldl_fst
    | fail_if_no_progress (with_reducible apply State.keeps_mk)

theorem State.readRemote_keeps {r s : State} (h : r.Keeps s) {sh ref off len} :
    r.Keeps (s.readRemote sh ref off len) := by
  unfold State.readRemote
  repeat' first
    | with_reducible assumption | (intro _) | with_reducible apply State.readPiece_keeps
    | with_reducible apply State.keeps_foldl

theorem State.storeRecord_keeps {r s : State} (h : r.Keeps s) {slot stage} :
    r.Keeps (s.storeRecord slot stage) := by
  unfold State.storeRecord
  repeat' first
    | with_reducible assumption | (intro _) | with_reducible apply State.haltJob_keeps
    | with_reducible apply State.exhaust_keeps | with_reducible apply State.adjustJob_keeps
    | with_reducible apply State.appendLog_keeps | with_reducible apply State.keeps_ite | split

theorem State.retransmit_keeps {r s : State} (h : r.Keeps s) {ctx dest msgId fragment} :
    r.Keeps (s.retransmit ctx dest msgId fragment) := by
  unfold State.retransmit
  repeat' first
    | with_reducible assumption | (intro _) | with_reducible apply State.adjustCtx_keeps
    | with_reducible apply State.pushTx_keeps | with_reducible apply State.keeps_ite | split

theorem State.loadKennel_keeps {r s : State} (h : r.Keeps s) {im hedge st k group idx} :
    r.Keeps (s.loadKennel im hedge st k group idx) := by
  unfold State.loadKennel
  repeat' first
    | with_reducible assumption | (intro _) | with_reducible apply State.setKennel_keeps
    | with_reducible apply State.setCore_keeps | with_reducible apply State.keeps_foldl
    | with_reducible apply State.keeps_foldl_fst | split

theorem State.loadGroups_keeps {r s : State} (h : r.Keeps s) {im hedge st ks} :
    r.Keeps (s.loadGroups im hedge st ks) := by
  unfold State.loadGroups
  repeat' first
    | with_reducible assumption | (intro _) | with_reducible apply State.loadKennel_keeps
    | with_reducible apply State.keeps_foldl

theorem State.zeroKennel_keeps {r s : State} (h : r.Keeps s) {k} :
    r.Keeps (s.zeroKennel k) := by
  unfold State.zeroKennel
  repeat' first
    | with_reducible assumption | (intro _) | fail_if_no_progress (with_reducible apply State.keeps_mk)

theorem State.zeroHedge_keeps {r s : State} (h : r.Keeps s) {x1 im} : r.Keeps (s.zeroHedge x1 im) := by
  unfold State.zeroHedge
  refine State.keeps_foldl (State.keeps_foldl (State.keeps_foldl h fun t k ht => State.zeroKennel_keeps ht) fun t p ht => ?_)
    fun t e ht => ?_
  · split
    · exact State.setMem_keeps ht fun x => Memory.wf_clear x _ _
    · exact ht
  · split
    · exact State.setMem_keeps ht fun x => Memory.wf_clear x _ _
    · exact ht

theorem State.endGates_keeps {r s : State} (h : r.Keeps s) {p} :
    r.Keeps (s.endGates p) := by
  unfold State.endGates
  repeat' first
    | with_reducible assumption | (intro _) | with_reducible apply State.recomputeGates_keeps
    | with_reducible apply State.setPort_keeps | with_reducible apply State.keeps_ite | split | dsimp only

theorem State.endClaim_keeps {r s : State} (h : r.Keeps s) {x1 c} :
    r.Keeps (s.endClaim x1 c) := by
  unfold State.endClaim
  repeat' first
    | with_reducible assumption | (intro _) | with_reducible apply State.adjustPin_keeps
    | with_reducible apply State.stopTimer_keeps | with_reducible apply State.endGates_keeps
    | with_reducible apply State.keeps_ite

theorem State.showDigest_keeps {r s : State} (h : r.Keeps s) {x1 d} :
    r.Keeps (s.showDigest x1 d) := by
  unfold State.showDigest
  repeat' first
    | with_reducible assumption | (intro _) | with_reducible apply State.setFld_keeps
    | with_reducible apply State.keeps_foldl

theorem State.unloadImage_keeps {r s : State} (h : r.Keeps s) {x1 im} :
    r.Keeps (s.unloadImage x1 im) := by
  unfold State.unloadImage
  repeat' first
    | with_reducible assumption | (intro _) | with_reducible apply State.zeroHedge_keeps
    | with_reducible apply State.dropJob_keeps | with_reducible apply State.endClaim_keeps
    | with_reducible apply State.freeKennel_keeps | with_reducible apply State.clearRegs_keeps
    | with_reducible apply State.showDigest_keeps | with_reducible apply State.settleImages_keeps
    | with_reducible apply State.keeps_ite | with_reducible apply State.keeps_foldl
    | with_reducible apply State.keeps_foldl_fst | fail_if_no_progress (with_reducible apply State.keeps_mk)

theorem State.unloadDone_keeps {r s : State} (h : r.Keeps s) {x1} :
    r.Keeps (s.unloadDone x1) := by
  unfold State.unloadDone
  repeat' first
    | with_reducible assumption | (intro _) | with_reducible apply State.loadEnd_keeps
    | with_reducible apply State.unloadImage_keeps | with_reducible apply State.keeps_ite | split

theorem State.heelAsk_keeps {r s : State} (h : r.Keeps s) {k l what pos arg} :
    r.Keeps (s.heelAsk k l what pos arg) := by
  unfold State.heelAsk
  repeat' first
    | with_reducible assumption | (intro _) | with_reducible apply State.heelSend_keeps
    | with_reducible apply State.setHeel_keeps | split

theorem State.writeDiv_keeps {r s : State} (h : r.Keeps s) {k d} :
    r.Keeps (s.writeDiv k d) := by
  unfold State.writeDiv
  repeat' first
    | with_reducible assumption | (intro _) | with_reducible apply State.setReg_keeps
    | with_reducible apply State.setFld_keeps | with_reducible apply State.setHeelState_keeps
    | with_reducible apply State.keeps_foldl

theorem State.heelFinish_keeps {r s : State} (h : r.Keeps s) {k found} :
    r.Keeps (s.heelFinish k found) := by
  unfold State.heelFinish
  repeat' first
    | with_reducible assumption | (intro _) | with_reducible apply State.heelSend_keeps
    | with_reducible apply State.writeDiv_keeps

theorem State.heelNext_keeps {r s : State} (h : r.Keeps s) {k l} :
    r.Keeps (s.heelNext k l) := by
  unfold State.heelNext
  repeat' first
    | with_reducible assumption | (intro _) | with_reducible apply State.heelFinish_keeps
    | with_reducible apply State.setHeel_keeps | with_reducible apply State.heelAsk_keeps
    | with_reducible apply State.keeps_ite | split

theorem State.heelFound_keeps {r s : State} (h : r.Keeps s) {k l m stage position offset} :
    r.Keeps (s.heelFound k l m stage position offset) := by
  unfold State.heelFound
  repeat' first
    | with_reducible assumption | (intro _) | with_reducible apply State.heelNext_keeps

theorem State.heelAnswered_keeps {r s : State} (h : r.Keeps s) {k l m peer} :
    r.Keeps (s.heelAnswered k l m peer) := by
  unfold State.heelAnswered
  repeat' first
    | with_reducible assumption | (intro _) | with_reducible apply State.heelAsk_keeps
    | with_reducible apply State.heelFound_keeps | with_reducible apply State.keeps_ite
    | with_reducible apply State.keeps_map_getD | split

theorem State.repeatBatch_keeps {r s : State} (h : r.Keeps s) {slot rank dest} :
    r.Keeps (s.repeatBatch slot rank dest) := by
  unfold State.repeatBatch
  repeat' first
    | with_reducible assumption | (intro _) | with_reducible apply State.bump_keeps
    | with_reducible apply State.flowRank_keeps | with_reducible apply State.adjustDelivery_keeps
    | with_reducible apply State.keeps_ite | split

theorem State.takePosition_keeps {r s : State} (h : r.Keeps s) {slot rank src c sample p} :
    r.Keeps (s.takePosition slot rank src c sample p).1 := by
  unfold State.takePosition
  repeat' first
    | with_reducible assumption | (intro _) | with_reducible apply State.showCursor_keeps
    | with_reducible apply State.adjustJob_keeps | with_reducible apply State.setFld_keeps
    | with_reducible apply State.keeps_map_getD | fail_if_no_progress (with_reducible apply State.keeps_mk)

theorem State.heelReceive_keeps {r s : State} (h : r.Keeps s) {kind f} :
    r.Keeps (s.heelReceive kind f).1 := by
  unfold State.heelReceive
  repeat' first
    | with_reducible assumption | (intro _) | with_reducible apply State.setHeel_keeps
    | with_reducible apply State.keeps_ite_fst

theorem State.coreWrite_keeps {r s : State} (h : r.Keeps s) {c a bs} :
    r.Keeps (s.coreWrite c a bs) := by
  unfold State.coreWrite
  repeat' first
    | with_reducible assumption | (intro _) | with_reducible apply State.setCore_keeps
    | with_reducible apply State.setKennel_keeps | split

theorem State.liveEdge_keeps {r s : State} (h : r.Keeps s) {slot pin} :
    r.Keeps (s.liveEdge slot pin) := by
  unfold State.liveEdge
  repeat' first
    | with_reducible assumption | (intro _) | with_reducible apply State.adjustJob_keeps
    | with_reducible apply State.bumpSat_keeps | with_reducible apply State.keeps_ite | split

theorem State.dropRank_keeps {r s : State} (h : r.Keeps s) {slot rank} :
    r.Keeps (s.dropRank slot rank) := by
  unfold State.dropRank
  repeat' first
    | with_reducible assumption | (intro _) | with_reducible apply State.cancelMessages_keeps
    | with_reducible apply State.adjustJob_keeps | with_reducible apply State.adjustFleet_keeps
    | with_reducible apply State.freeQueue_keeps | with_reducible apply State.keeps_ite
    | fail_if_no_progress (with_reducible apply State.keeps_mk) | split

theorem State.dropMoved_keeps {r s : State} (h : r.Keeps s) {slot} :
    r.Keeps (s.dropMoved slot) := by
  unfold State.dropMoved
  repeat' first
    | with_reducible assumption | (intro _) | with_reducible apply State.dropRank_keeps
    | with_reducible apply State.adjustFleet_keeps | with_reducible apply State.fleetSendRole_keeps
    | with_reducible apply State.keeps_ite | with_reducible apply State.keeps_foldl

theorem State.arrivalDurable_keeps {r s : State} (h : r.Keeps s) {j} :
    r.Keeps (s.arrivalDurable j) := by
  unfold State.arrivalDurable
  repeat' first
    | with_reducible assumption | (intro _) | with_reducible apply State.adjustFleet_keeps
    | with_reducible apply State.setFld_keeps | with_reducible apply State.arriveCheck_keeps
    | with_reducible apply State.flowJob_keeps | with_reducible apply State.dropMoved_keeps
    | with_reducible apply State.keeps_ite

theorem State.chkStream_keeps {r s : State} (h : r.Keeps s) {u data whole} :
    r.Keeps (s.chkStream u data whole).1 := by
  unfold State.chkStream
  repeat' first
    | with_reducible assumption | (intro _) | with_reducible apply chkRecords_keeps
    | with_reducible apply State.chkFeed_keeps | with_reducible apply State.keeps_ite_fst
    | with_reducible apply State.keeps_ite | split | dsimp only

theorem State.chkThrough_keeps {r s : State} (h : r.Keeps s) {us data whole} :
    r.Keeps (s.chkThrough us data whole).1 := by
  unfold State.chkThrough
  repeat' first
    | with_reducible assumption | (intro _) | with_reducible apply State.chkStream_keeps
    | with_reducible apply State.keeps_foldl | with_reducible apply State.keeps_foldl_fst

theorem State.dmaStore_keeps {r s : State} (h : r.Keeps s) {d stream} :
    r.Keeps (s.dmaStore d stream) := by
  unfold State.dmaStore
  repeat' first
    | with_reducible assumption | (intro _) | with_reducible apply State.writeMem_keeps
    | with_reducible apply State.keeps_foldl

theorem State.dmaStop_keeps {r s : State} (h : r.Keeps s) {ch run done code} :
    r.Keeps (s.dmaStop ch run done code) := by
  unfold State.dmaStop
  repeat' first
    | with_reducible assumption | (intro _) | with_reducible apply State.chkThrough_keeps
    | with_reducible apply State.drew_keeps | with_reducible apply State.dmaEnd_keeps
    | with_reducible apply State.bump_keeps | with_reducible apply State.dmaStore_keeps

theorem State.freeDma_keeps {r s : State} (h : r.Keeps s) {ch} :
    r.Keeps (s.freeDma ch) := by
  unfold State.freeDma
  repeat' first
    | with_reducible assumption | (intro _) | with_reducible apply State.dmaRelease_keeps
    | with_reducible apply State.dmaStop_keeps | with_reducible apply State.drew_keeps | split

theorem State.useRecord_keeps {r s : State} (h : r.Keeps s) {ctx} :
    r.Keeps (s.useRecord ctx) := by
  unfold State.useRecord
  repeat' first
    | with_reducible assumption | (intro _)
    | (with_reducible refine KeepsOpt.of_eq ?_ (by assumption); with_reducible apply State.makeRoom_keeps)
    | with_reducible apply State.makeRoom_keeps | with_reducible apply State.touchCtx_keeps
    | with_reducible apply State.adjustCtx_keeps | with_reducible apply State.keeps_ite | split

theorem State.freeBri_keeps {r s : State} (h : r.Keeps s) {e} :
    r.Keeps (s.freeBri e) := by
  unfold State.freeBri
  repeat' first
    | with_reducible assumption | (intro _) | with_reducible apply State.briDrop_keeps
    | with_reducible apply State.briStop_keeps | with_reducible apply State.keeps_ite

theorem State.releaseHolds_keeps {r s : State} (h : r.Keeps s) :
    r.Keeps (s.releaseHolds) := by
  unfold State.releaseHolds
  repeat' first
    | with_reducible assumption | (intro _) | with_reducible apply State.freeDma_keeps
    | with_reducible apply State.freeBri_keeps | with_reducible apply State.chkRelease_keeps
    | with_reducible apply State.keeps_foldl

theorem State.becomeManager_keeps {r s : State} (h : r.Keeps s) :
    r.Keeps (s.becomeManager) := by
  unfold State.becomeManager
  repeat' first
    | with_reducible assumption | (intro _) | with_reducible apply State.adjustFleet_keeps
    | with_reducible apply State.changeRoster_keeps | with_reducible apply State.settleLog_keeps
    | with_reducible apply State.setFltCode_keeps | with_reducible apply State.keeps_foldl
    | with_reducible apply State.keeps_foldl_fst | split

theorem State.measurePartition_keeps {r s : State} (h : r.Keeps s) {o} :
    r.Keeps (s.measurePartition o) := by
  unfold State.measurePartition
  repeat' first
    | with_reducible assumption | (intro _) | with_reducible apply State.measure_keeps
    | with_reducible apply State.keeps_ite | with_reducible apply State.keeps_map_getD
    | fail_if_no_progress (with_reducible apply State.keeps_mk)

theorem State.frameArrives_keeps {r s : State} (h : r.Keeps s) {port sub frame} :
    r.Keeps (s.frameArrives port sub frame) := by
  unfold State.frameArrives
  repeat' first
    | with_reducible assumption | (intro _) | with_reducible apply State.pltCount_keeps
    | with_reducible apply State.pltReceive_keeps | with_reducible apply State.keeps_ite | split

theorem State.digested_keeps {r s : State} (h : r.Keeps s) {it} :
    r.Keeps (s.digested it).1 := by
  unfold State.digested
  repeat' first
    | with_reducible assumption | (intro _) | with_reducible apply State.adjustFacts_keeps
    | with_reducible apply State.damageFree_keeps | with_reducible apply State.keeps_ite_fst
    | with_reducible apply State.keeps_ite | split

theorem State.groupRestart_keeps {r s : State} (h : r.Keeps s) {x1 st g} :
    r.Keeps (s.groupRestart x1 st g) := by
  unfold State.groupRestart
  repeat' first
    | with_reducible assumption | (intro _) | with_reducible apply State.cancelCores_keeps
    | with_reducible apply State.restartCore_keeps | with_reducible apply State.restartKennel_keeps
    | with_reducible apply State.keeps_ite | with_reducible apply State.keeps_foldl
    | with_reducible apply State.keeps_foldl_fst | fail_if_no_progress (with_reducible apply State.keeps_mk)

theorem State.batchUnconfirmed_keeps {r s : State} (h : r.Keeps s) {slot rank dest} :
    r.Keeps (s.batchUnconfirmed slot rank dest) := by
  unfold State.batchUnconfirmed
  repeat' first
    | with_reducible assumption | (intro _) | with_reducible apply State.adjustDelivery_keeps
    | with_reducible apply State.restartBatch_keeps | split

theorem State.gainRank_keeps {r s : State} (h : r.Keeps s) {slot rank first record} :
    r.Keeps (s.gainRank slot rank first record) := by
  unfold State.gainRank
  repeat' first
    | with_reducible assumption | (intro _) | with_reducible apply State.dropRank_keeps
    | (with_reducible refine State.allocQueue_keeps ?_ (by assumption)) | with_reducible apply State.haltJob_keeps
    | with_reducible apply State.addStream_keeps | with_reducible apply State.adjustJob_keeps
    | with_reducible apply State.adjustFleet_keeps | with_reducible apply State.keeps_ite | split | dsimp only

theorem State.cancelMoves_keeps {r s : State} (h : r.Keeps s) {slot} :
    r.Keeps (s.cancelMoves slot) := by
  unfold State.cancelMoves
  repeat' first
    | with_reducible assumption | (intro _) | with_reducible apply State.gainRank_keeps
    | with_reducible apply State.adjustFleet_keeps | with_reducible apply State.keeps_foldl

theorem State.reloadDone_keeps {r s : State} (h : r.Keeps s) {x1 st g} :
    r.Keeps (s.reloadDone x1 st g) := by
  unfold State.reloadDone
  repeat' first
    | with_reducible assumption | (intro _) | with_reducible apply State.checkKennels_keeps
    | with_reducible apply State.loadKennel_keeps | with_reducible apply State.adjustImage_keeps
    | with_reducible apply State.keeps_ite | with_reducible apply State.keeps_foldl
    | with_reducible apply State.keeps_foldl_fst | fail_if_no_progress (with_reducible apply State.keeps_mk) | split

theorem State.heelSetupGot_keeps {r s : State} (h : r.Keeps s) {k record} :
    r.Keeps (s.heelSetupGot k record) := by
  unfold State.heelSetupGot
  repeat' first
    | with_reducible assumption | (intro _) | with_reducible apply State.setHeel_keeps
    | with_reducible apply State.setupBoth_keeps | with_reducible apply State.keeps_ite

theorem State.trsEnd_keeps {r s : State} (h : r.Keeps s) {x1 c} :
    r.Keeps (s.trsEnd x1 c) := by
  unfold State.trsEnd
  repeat' first
    | with_reducible assumption | (intro _) | with_reducible apply State.trsFinish_keeps
    | with_reducible apply State.writeMem_keeps | with_reducible apply State.storeUnits_keeps
    | with_reducible apply State.unmapUnits_keeps | with_reducible apply State.keeps_ite

theorem State.trsBus_keeps {r s : State} (h : r.Keeps s) {x1 units c} :
    r.Keeps (s.trsBus x1 units c) := by
  unfold State.trsBus
  repeat' first
    | with_reducible assumption | (intro _) | with_reducible apply State.trsFinish_keeps
    | with_reducible apply State.writeFree_keeps | with_reducible apply State.writeMem_keeps
    | with_reducible apply State.adjustCmd_keeps | with_reducible apply State.keeps_ite

theorem State.buddyLost_keeps {r s : State} (h : r.Keeps s) {buddy} :
    r.Keeps (s.buddyLost buddy) := by
  unfold State.buddyLost
  repeat' first
    | with_reducible assumption | (intro _) | with_reducible apply State.adjustFleet_keeps
    | with_reducible apply State.sendRestart_keeps | with_reducible apply State.keeps_foldl

theorem State.failMoves_keeps {r s : State} (h : r.Keeps s) {i} :
    r.Keeps (s.failMoves i) := by
  unfold State.failMoves
  repeat' first
    | with_reducible assumption | (intro _) | with_reducible apply State.adjustFleet_keeps
    | with_reducible apply State.fleetSendTo_keeps | with_reducible apply State.keeps_ite
    | with_reducible apply State.keeps_foldl

theorem State.chooseHolders_keeps {r s : State} (h : r.Keeps s) {i ranks} :
    r.Keeps (s.chooseHolders i ranks).1 := by
  unfold State.chooseHolders
  repeat' first
    | with_reducible assumption | (intro _) | with_reducible apply State.adjustFleet_keeps
    | with_reducible apply State.changeRoster_keeps | with_reducible apply State.keeps_foldl
    | with_reducible apply State.keeps_foldl_fst | with_reducible apply State.keeps_map_getD | split

theorem State.failMember_keeps {r s : State} (h : r.Keeps s) {i} :
    r.Keeps (s.failMember i) := by
  unfold State.failMember
  repeat' first
    | with_reducible assumption | (intro _) | with_reducible apply State.changeRoster_keeps
    | with_reducible apply State.adjustFleet_keeps | with_reducible apply State.failMoves_keeps
    | with_reducible apply State.chooseHolders_keeps | with_reducible apply State.fleetSendTo_keeps
    | with_reducible apply State.sendRestart_keeps | with_reducible apply State.buddyLost_keeps
    | with_reducible apply State.keeps_ite | with_reducible apply State.keeps_foldl

theorem State.badMessage_keeps {r s : State} (h : r.Keeps s) {slot} :
    r.Keeps (s.badMessage slot) := by
  unfold State.badMessage
  repeat' first
    | with_reducible assumption | (intro _) | with_reducible apply State.bumpSat_keeps

theorem State.drainHeld_keeps {r s : State} (h : r.Keeps s) {slot k m fuel} :
    r.Keeps (s.drainHeld slot k m fuel) := by
  induction fuel generalizing s with
  | zero => exact h
  | succ n ih =>
    unfold State.drainHeld
    dsimp only
    split
    · exact h
    · exact ih (State.handleReturn_keeps h)

theorem State.stepMessage_keeps {r s : State} (h : r.Keeps s) {slot m msg} :
    r.Keeps (s.stepMessage slot m msg) := by
  unfold State.stepMessage
  repeat' first
    | with_reducible assumption | (intro _) | with_reducible apply State.badMessage_keeps
    | with_reducible apply State.endStream_keeps | with_reducible apply State.drainHeld_keeps
    | with_reducible apply State.handleReturn_keeps | with_reducible apply State.setGen_keeps
    | with_reducible apply State.keeps_ite

theorem State.chkRunningRead_keeps {r s : State} (h : r.Keeps s) {u} :
    r.Keeps (s.chkRunningRead u) := by
  unfold State.chkRunningRead
  repeat' first
    | with_reducible assumption | (intro _) | with_reducible apply State.setReg_keeps
    | fail_if_no_progress (with_reducible apply State.keeps_mk)

theorem State.videoDecode_keeps {r s : State} (h : r.Keeps s) {im st it} :
    r.Keeps (s.videoDecode im st it) := by
  unfold State.videoDecode
  repeat' first
    | with_reducible assumption | (intro _) | with_reducible apply State.decodedItem_keeps
    | with_reducible apply State.handOn_keeps | with_reducible apply State.steerFrame_keeps
    | with_reducible apply State.keeps_ite | split

theorem State.ptpOffset_keeps {r s : State} (h : r.Keeps s) {ns} :
    r.Keeps (s.ptpOffset ns) := by
  unfold State.ptpOffset
  repeat' first
    | with_reducible assumption | (intro _) | with_reducible apply State.setFld_keeps
    | with_reducible apply State.setServo_keeps | with_reducible apply State.keeps_ite
    | fail_if_no_progress (with_reducible apply State.keeps_mk)

theorem State.managerHears_keeps {r s : State} (h : r.Keeps s) {i} :
    r.Keeps (s.managerHears i) := by
  unfold State.managerHears
  repeat' first
    | with_reducible assumption | (intro _) | with_reducible apply State.adjustFleet_keeps
    | with_reducible apply State.settleLog_keeps | with_reducible apply State.setFltState_keeps
    | with_reducible apply State.keeps_ite

theorem State.startTakeover_keeps {r s : State} (h : r.Keeps s) :
    r.Keeps (s.startTakeover) := by
  unfold State.startTakeover
  repeat' first
    | with_reducible assumption | (intro _) | with_reducible apply State.adjustFleet_keeps
    | with_reducible apply State.fleetSendTo_keeps | with_reducible apply State.keeps_ite
    | with_reducible apply State.keeps_foldl | with_reducible apply State.keeps_foldl_fst
    | with_reducible apply State.keeps_map_getD | split

theorem State.commitGates_keeps {r s : State} (h : r.Keeps s) {p l} :
    r.Keeps (s.commitGates p l) := by
  unfold State.commitGates
  repeat' first
    | with_reducible assumption | (intro _) | with_reducible apply State.recomputeGates_keeps
    | with_reducible apply State.setPort_keeps

theorem State.startClaim_keeps {r s : State} (h : r.Keeps s) {x1 im c} :
    r.Keeps (s.startClaim x1 im c) := by
  unfold State.startClaim
  repeat' first
    | with_reducible assumption | (intro _) | with_reducible apply State.addClaim_keeps
    | with_reducible apply State.adjustPin_keeps | with_reducible apply State.startTimer_keeps
    | with_reducible apply State.commitGates_keeps | with_reducible apply State.keeps_ite
    | with_reducible apply State.keeps_foldl | with_reducible apply State.keeps_foldl_fst | split

theorem State.serveSram_keeps {r s : State} (h : r.Keeps s) {base size hedge} : r.Keeps (s.serveSram base size hedge) :=
  State.keeps_mk (State.keeps_memories h (fun x => Tab.wf_keep _ x _) id id)

theorem State.heartbeatAcked_keeps {r s : State} (h : r.Keeps s) {peerEpoch} :
    r.Keeps (s.heartbeatAcked peerEpoch) := by
  unfold State.heartbeatAcked
  repeat' first
    | with_reducible assumption | (intro _) | with_reducible apply State.fence_keeps
    | with_reducible apply State.arriveCheck_keeps | with_reducible apply State.flowJob_keeps
    | with_reducible apply State.setFltState_keeps | with_reducible apply State.keeps_ite

theorem State.moveCopy_keeps {r s : State} (h : r.Keeps s) {core x2 x3} :
    r.Keeps (s.moveCopy core x2 x3) := by
  unfold State.moveCopy
  repeat' first
    | with_reducible assumption | (intro _) | with_reducible apply State.writeMem_keeps
    | with_reducible apply State.coreWrite_keeps | with_reducible apply State.adjustImage_keeps
    | with_reducible apply State.keeps_ite | split

theorem State.deadlock_keeps {r s : State} (h : r.Keeps s) {c} :
    r.Keeps (s.deadlock c) := by
  unfold State.deadlock
  repeat' first
    | with_reducible assumption | (intro _) | with_reducible apply State.exception_keeps
    | with_reducible apply State.keeps_ite | split

theorem State.wake_keeps {r s : State} (h : r.Keeps s) {c why} :
    r.Keeps (s.wake c why) := by
  unfold State.wake
  repeat' first
    | with_reducible assumption | (intro _) | with_reducible apply State.setCore_keeps
    | with_reducible apply State.keeps_ite

theorem State.tagComplete_keeps {r s : State} (h : r.Keeps s) {core tag} :
    r.Keeps (s.tagComplete core tag) := by
  unfold State.tagComplete
  repeat' first
    | with_reducible assumption | (intro _) | with_reducible apply State.moveCopy_keeps
    | with_reducible apply State.exception_keeps | with_reducible apply State.deadlock_keeps
    | with_reducible apply State.wake_keeps | with_reducible apply State.setCore_keeps
    | with_reducible apply State.keeps_ite | split

theorem State.addEnergy_keeps {r s : State} (h : r.Keeps s) {slot uj confidential} :
    r.Keeps (s.addEnergy slot uj confidential) := by
  unfold State.addEnergy
  repeat' first
    | with_reducible assumption | (intro _) | with_reducible apply State.bump_keeps
    | with_reducible apply State.adjustSheep_keeps

theorem State.moveTo_keeps {r s : State} (h : r.Keeps s) {p} : r.Keeps (s.moveTo p) :=
  State.keeps_mk (State.keeps_memories h id (fun x => Tab.wf_keep _ x _) id)

theorem State.startPool_keeps {r s : State} (h : r.Keeps s) {x1 k base b} :
    r.Keeps (s.startPool x1 k base b) := by
  unfold State.startPool
  repeat' first
    | with_reducible assumption | (intro _) | with_reducible apply State.serveSram_keeps
    | with_reducible apply State.clearRegs_keeps | with_reducible apply State.setFld_keeps
    | with_reducible apply State.setBit_keeps | with_reducible apply State.setPool_keeps
    | with_reducible apply State.keeps_ite

theorem State.startContext_keeps {r s : State} (h : r.Keeps s) {x1 v d} :
    r.Keeps (s.startContext x1 v d) := by
  unfold State.startContext
  repeat' first
    | with_reducible assumption | (intro _) | fail_if_no_progress (with_reducible apply State.keeps_mk)

theorem State.commitImage_keeps {r s : State} (h : r.Keeps s) {v} :
    r.Keeps (s.commitImage v) := by
  unfold State.commitImage
  repeat' first
    | with_reducible assumption | (intro _) | with_reducible apply State.moveTo_keeps
    | with_reducible apply State.settleDomains_keeps | with_reducible apply State.loadGroups_keeps
    | with_reducible apply State.startPool_keeps | with_reducible apply State.startContext_keeps
    | with_reducible apply State.startClaim_keeps | with_reducible apply State.settleImages_keeps
    | with_reducible apply State.showDigest_keeps | with_reducible apply State.keeps_foldl
    | with_reducible apply State.keeps_foldl_fst | fail_if_no_progress (with_reducible apply State.keeps_mk) | split

theorem State.textPrepared_keeps {r s : State} (h : r.Keeps s) {im st it} :
    r.Keeps (s.textPrepared im st it).1 := by
  unfold State.textPrepared
  repeat' first
    | with_reducible assumption | (intro _) | with_reducible apply State.damage_keeps
    | with_reducible apply State.bumpSat_keeps | with_reducible apply State.bump_keeps
    | with_reducible apply State.keeps_ite_fst | with_reducible apply State.keeps_ite | split

theorem State.lift_keeps {r s : State} (h : r.Keeps s) {l} :
    r.Keeps (s.lift l) := by
  unfold State.lift
  repeat' first
    | with_reducible assumption | (intro _) | with_reducible apply State.settlePlan_keeps
    | with_reducible apply State.setFld_keeps | with_reducible apply State.keeps_ite

theorem State.holdAt_keeps {r s : State} (h : r.Keeps s) {stage} :
    r.Keeps (s.holdAt stage) := by
  unfold State.holdAt
  repeat' first
    | with_reducible assumption | (intro _) | with_reducible apply State.adjustSheep_keeps
    | with_reducible apply State.setStage_keeps

theorem regsReset_wf (p : Part) : Tab.wf regDefault (regsReset p) = true := by
  unfold regsReset
  have base : Tab.wf regDefault ((Tab.empty.insert Reg.SHD_BOOT (1 : Word64)).insert Reg.HEEL_DCLASS 1) = true := by decide +kernel
  revert base
  generalize (Tab.empty.insert Reg.SHD_BOOT (1 : Word64)).insert Reg.HEEL_DCLASS 1 = t
  generalize List.range 32 = xs
  intro base
  induction xs generalizing t with
  | nil => exact base
  | cons x xs ih => exact ih _ (Tab.wf_set _ base _ _)

theorem wf_retained {t : Tab Word64} (h : Tab.wf regDefault t = true) (part : Part) (p : Nat × Word64 → Bool) :
    Tab.wf regDefault ((t.entries.filter p).foldl (fun (m : Tab Word64) e => m.insert e.1 e.2) (regsReset part)) = true := by
  have hall : ∀ e ∈ t.entries.filter p, e.2 ≠ regDefault e.1 := fun e he =>
    ((Tab.wf_iff regDefault t).1 h).2 e (List.mem_filter.1 he).1
  revert hall
  generalize t.entries.filter p = xs
  have g : Tab.wf regDefault (regsReset part) = true := regsReset_wf part
  revert g
  generalize regsReset part = m
  intro g hall
  induction xs generalizing m with
  | nil => exact g
  | cons x xs ih =>
    exact ih _ (Tab.wf_insert _ g _ _ (hall x (by simp))) fun e he => hall e (by simp [he])

theorem State.powerOnEffects_keeps {r s : State} (h : r.Keeps s) : r.Keeps s.powerOnEffects := by
  unfold State.powerOnEffects
  exact State.keeps_mk (State.setReg_keeps (State.setReg_keeps (State.keeps_mk (State.keeps_regs
    (State.loseWork_keeps (State.storeLoss_keeps h)) fun x => wf_retained x _ _))))

theorem State.powerOnReset_keeps {r s : State} (h : r.Keeps s) :
    r.Keeps (s.powerOnReset) := by
  unfold State.powerOnReset
  repeat' first
    | with_reducible assumption | (intro _) | with_reducible apply State.holdAt_keeps
    | with_reducible apply State.setCause_keeps | with_reducible apply State.powerOnEffects_keeps
    | with_reducible apply State.endStart_keeps | fail_if_no_progress (with_reducible apply State.keeps_mk)

theorem State.sendHeartbeat_keeps {r s : State} (h : r.Keeps s) :
    r.Keeps (s.sendHeartbeat) := by
  unfold State.sendHeartbeat
  repeat' first
    | with_reducible assumption | (intro _) | with_reducible apply State.fleetSendRole_keeps
    | with_reducible apply State.keeps_ite

theorem State.block_keeps {r s : State} (h : r.Keeps s) {c why} :
    r.Keeps (s.block c why) := by
  unfold State.block
  repeat' first
    | with_reducible assumption | (intro _) | with_reducible apply State.deadlock_keeps
    | with_reducible apply State.setCore_keeps

theorem State.sendOn_keeps {r s : State} (h : r.Keeps s) {core ch m} :
    r.Keeps (s.sendOn core ch m) := by
  unfold State.sendOn
  repeat' first
    | with_reducible assumption | (intro _) | with_reducible apply State.exception_keeps
    | with_reducible apply State.setCore_keeps | with_reducible apply State.block_keeps
    | with_reducible apply State.keeps_ite | split

theorem State.modelled_keeps {r s : State} (h : r.Keeps s) {im st it} :
    r.Keeps (s.modelled im st it).1 := by
  unfold State.modelled
  repeat' first
    | with_reducible assumption | (intro _) | with_reducible apply State.keeps_ite_fst

theorem State.briVerifyFailed_keeps {r s : State} (h : r.Keeps s) {e} :
    r.Keeps (s.briVerifyFailed e) := by
  unfold State.briVerifyFailed
  repeat' first
    | with_reducible assumption | (intro _) | with_reducible apply State.briMark_keeps
    | with_reducible apply State.bump_keeps | fail_if_no_progress (with_reducible apply State.keeps_mk)

theorem State.briCompressEnd_keeps {r s : State} (h : r.Keeps s) {e run st verified} :
    r.Keeps (s.briCompressEnd e run st verified) := by
  unfold State.briCompressEnd
  repeat' first
    | with_reducible assumption | (intro _) | with_reducible apply State.briMark_keeps
    | with_reducible apply State.briVerifyFailed_keeps | with_reducible apply State.briRelease_keeps
    | with_reducible apply State.putBri_keeps | with_reducible apply State.keeps_ite

theorem State.takeOut_keeps {r s : State} (h : r.Keeps s) {die} :
    r.Keeps (s.takeOut die) := by
  unfold State.takeOut
  repeat' first
    | with_reducible assumption | (intro _) | with_reducible apply State.setFld_keeps | with_reducible apply State.keeps_ite
    | fail_if_no_progress (with_reducible apply State.keeps_mk)

theorem State.channelHung_keeps {r s : State} (h : r.Keeps s) {a b} :
    r.Keeps (s.channelHung a b) := by
  unfold State.channelHung
  repeat' first
    | with_reducible assumption | (intro _) | with_reducible apply State.takeOut_keeps
    | with_reducible apply State.retireKennel_keeps | with_reducible apply State.keeps_ite
    | fail_if_no_progress (with_reducible apply State.keeps_mk)

theorem State.retimeTimers_keeps {r s : State} (h : r.Keeps s) :
    r.Keeps (s.retimeTimers) := by
  unfold State.retimeTimers
  repeat' first
    | with_reducible assumption | (intro _) | fail_if_no_progress (with_reducible apply State.keeps_mk)

theorem State.stepCounter_keeps {r s : State} (h : r.Keeps s) {total} :
    r.Keeps (s.stepCounter total) := by
  unfold State.stepCounter
  repeat' first
    | with_reducible assumption | (intro _) | with_reducible apply State.retimeTimers_keeps
    | with_reducible apply State.recomputeGates_keeps | with_reducible apply State.keeps_foldl
    | with_reducible apply State.keeps_foldl_fst | fail_if_no_progress (with_reducible apply State.keeps_mk)

theorem State.sendPtp_keeps {r s : State} (h : r.Keeps s) {port sub m rest} :
    r.Keeps (s.sendPtp port sub m rest) := by
  unfold State.sendPtp
  repeat' first
    | with_reducible assumption | (intro _) | with_reducible apply State.adjustPtp_keeps
    | with_reducible apply State.setPort_keeps

theorem State.appendChecks_keeps {r s : State} (h : r.Keeps s) {units payload} :
    r.Keeps (s.appendChecks units payload).1 := by
  unfold State.appendChecks
  repeat' first
    | with_reducible assumption | (intro _) | with_reducible apply State.chkRecord_keeps
    | with_reducible apply State.keeps_foldl | with_reducible apply State.keeps_foldl_fst

theorem State.maskSent_keeps {r s : State} (h : r.Keeps s) {slot arrival payload} :
    r.Keeps (s.maskSent slot arrival payload).1 := by
  unfold State.maskSent
  repeat' first
    | with_reducible assumption | (intro _) | with_reducible apply State.bump_keeps
    | with_reducible apply State.setFld_keeps | with_reducible apply State.keeps_ite_fst
    | with_reducible apply State.keeps_ite

theorem State.frameBytes_keeps {r s : State} (h : r.Keeps s) {port sub f} :
    r.Keeps (s.frameBytes port sub f).1 := by
  unfold State.frameBytes
  repeat' first
    | with_reducible assumption | (intro _) | with_reducible apply State.appendChecks_keeps
    | with_reducible apply State.pltCount_keeps | with_reducible apply State.maskSent_keeps
    | with_reducible apply State.adjustCtx_keeps | with_reducible apply State.keeps_ite_fst
    | with_reducible apply State.keeps_ite | with_reducible apply State.keeps_map_getD | split

theorem State.transmitFrom_keeps {r s : State} (h : r.Keeps s) {p sub classes} :
    r.Keeps (s.transmitFrom p sub classes) := by
  induction classes generalizing s with
  | nil => exact h
  | cons c rest ih =>
    unfold State.transmitFrom
    dsimp only
    have hp : ∀ x, r.Keeps (s.setPort p x) := fun x => State.setPort_keeps h
    split
    · exact ih (hp _)
    · refine State.setPort_keeps (State.keeps_ite ?_ (State.setTokens_keeps ?_)) <;>
        exact State.frameBytes_keeps (State.keeps_ite (hp _) (State.useRecord_keeps (hp _)))

theorem State.transmit_keeps {r s : State} (h : r.Keeps s) {p sub} :
    r.Keeps (s.transmit p sub) := by
  unfold State.transmit
  repeat' first
    | with_reducible assumption | (intro _) | with_reducible apply State.sendPtp_keeps
    | with_reducible apply State.transmitFrom_keeps | split

theorem State.decompressed_keeps {r s : State} (h : r.Keeps s) {im st it} :
    r.Keeps (s.decompressed im st it).1 := by
  unfold State.decompressed
  repeat' first
    | with_reducible assumption | (intro _) | with_reducible apply State.damage_keeps
    | with_reducible apply State.keeps_ite_fst | with_reducible apply State.keeps_ite
    | with_reducible apply State.keeps_map_getD | split | dsimp only

theorem State.decompress_keeps {r s : State} (h : r.Keeps s) {im st it} :
    r.Keeps (s.decompress im st it) := by
  unfold State.decompress
  repeat' first
    | with_reducible assumption | (intro _) | with_reducible apply State.decompressed_keeps
    | with_reducible apply State.passOn_keeps

theorem State.compressItem_keeps {r s : State} (h : r.Keeps s) {im st it} :
    r.Keeps (s.compressItem im st it) := by
  unfold State.compressItem
  repeat' first
    | with_reducible assumption | (intro _) | with_reducible apply State.handOn_keeps
    | with_reducible apply State.bump_keeps | with_reducible apply State.keeps_ite

theorem State.assignUnheld_keeps {r s : State} (h : r.Keeps s) :
    r.Keeps (s.assignUnheld) := by
  unfold State.assignUnheld
  repeat' first
    | with_reducible assumption | (intro _) | with_reducible apply State.adjustFleet_keeps
    | with_reducible apply State.changeRoster_keeps | with_reducible apply State.sendRestart_keeps
    | with_reducible apply State.keeps_ite | with_reducible apply State.keeps_foldl
    | with_reducible apply State.keeps_foldl_fst | split | dsimp only

theorem State.imageDecode_keeps {r s : State} (h : r.Keeps s) {im st it} :
    r.Keeps (s.imageDecode im st it) := by
  unfold State.imageDecode
  repeat' first
    | with_reducible assumption | (intro _) | with_reducible apply State.handOn_keeps
    | with_reducible apply State.decodedItem_keeps | with_reducible apply State.keeps_ite

theorem State.setStretch_keeps {r s : State} (h : r.Keeps s) {i n} :
    r.Keeps (s.setStretch i n) := by
  unfold State.setStretch
  repeat' first
    | with_reducible assumption | (intro _) | with_reducible apply State.keeps_ite
    | fail_if_no_progress (with_reducible apply State.keeps_mk)

theorem State.lower_keeps {r s : State} (h : r.Keeps s) {l} :
    r.Keeps (s.lower l) := by
  unfold State.lower
  repeat' first
    | with_reducible assumption | (intro _) | with_reducible apply State.alarm_keeps
    | with_reducible apply State.settlePlan_keeps | with_reducible apply State.setFld_keeps
    | with_reducible apply State.keeps_ite

theorem State.recordsArrived_keeps {r s : State} (h : r.Keeps s) {buddy body} :
    r.Keeps (s.recordsArrived buddy body) := by
  unfold State.recordsArrived
  repeat' first
    | with_reducible assumption | (intro _) | with_reducible apply State.adjustFleet_keeps
    | with_reducible apply State.sendRestart_keeps | with_reducible apply State.keeps_foldl
    | with_reducible apply State.keeps_foldl_fst | split

theorem State.takeoverAcked_keeps {r s : State} (h : r.Keeps s) {i} :
    r.Keeps (s.takeoverAcked i) := by
  unfold State.takeoverAcked
  repeat' first
    | with_reducible assumption | (intro _) | with_reducible apply State.adjustFleet_keeps
    | with_reducible apply State.becomeManager_keeps | with_reducible apply State.keeps_ite

theorem State.briCompressStep_keeps {r s : State} (h : r.Keeps s) {e run st verified} :
    r.Keeps (s.briCompressStep e run st verified) := by
  unfold State.briCompressStep
  repeat' first
    | with_reducible assumption | (intro _) | with_reducible apply State.briRelease_keeps
    | with_reducible apply State.briMark_keeps | with_reducible apply State.briVerifyFailed_keeps
    | with_reducible apply State.bump_keeps | with_reducible apply State.keeps_ite

theorem State.access_keeps {r s : State} (h : r.Keeps s) {core f n align write go} (hf : ∀ a0 a1 t, r.Keeps t → r.Keeps (go a0 a1 t)) :
    r.Keeps (s.access core f n align write go) := by
  unfold State.access
  repeat' first
    | with_reducible assumption | (intro _) | with_reducible apply State.exception_keeps
    | with_reducible apply State.setCore_keeps | with_reducible apply hf | with_reducible apply State.keeps_ite | split
    | dsimp only

theorem State.detokenized_keeps {r s : State} (h : r.Keeps s) {im st it} :
    r.Keeps (s.detokenized im st it).1 := by
  unfold State.detokenized
  repeat' first
    | with_reducible assumption | (intro _) | with_reducible apply State.bump_keeps

theorem State.requestItem_keeps {r s : State} (h : r.Keeps s) {it} :
    r.Keeps (s.requestItem it) := by
  unfold State.requestItem
  repeat' first
    | with_reducible assumption | (intro _) | with_reducible apply State.readRemote_keeps
    | with_reducible apply State.keeps_ite | with_reducible apply State.keeps_map_getD | split

theorem State.takeIndex_keeps {r s : State} (h : r.Keeps s) {slot shard j sh table} :
    r.Keeps (s.takeIndex slot shard j sh table) := by
  unfold State.takeIndex
  repeat' first
    | with_reducible assumption | (intro _) | with_reducible apply State.adjustJob_keeps
    | with_reducible apply State.requestItem_keeps | with_reducible apply State.haltJob_keeps
    | with_reducible apply State.keeps_ite | with_reducible apply State.keeps_foldl
    | with_reducible apply State.keeps_foldl_fst | split

theorem State.dropLost_keeps {r s : State} (h : r.Keeps s) {slot} :
    r.Keeps (s.dropLost slot) := by
  unfold State.dropLost
  repeat' first
    | with_reducible assumption | (intro _) | with_reducible apply State.dropRank_keeps
    | with_reducible apply State.adjustFleet_keeps | with_reducible apply State.keeps_foldl

theorem State.sampleRead_keeps {r s : State} (h : r.Keeps s) {im st it p} :
    r.Keeps (s.sampleRead im st it p) := by
  unfold State.sampleRead
  repeat' first
    | with_reducible assumption | (intro _) | with_reducible apply State.adjustFacts_keeps
    | with_reducible apply State.passOn_keeps | split

theorem State.endCheckpoint_keeps {r s : State} (h : r.Keeps s) {c} :
    r.Keeps (s.endCheckpoint c) := by
  unfold State.endCheckpoint
  repeat' first
    | with_reducible assumption | (intro _) | with_reducible apply State.adjustStore_keeps
    | with_reducible apply State.drew_keeps | with_reducible apply State.setBit_keeps
    | with_reducible apply State.setReg_keeps

theorem State.oalloc_keeps {r s : State} (h : r.Keeps s) {core f} :
    r.Keeps (s.oalloc core f) := by
  unfold State.oalloc
  repeat' first
    | with_reducible assumption | (intro _) | with_reducible apply State.setCore_keeps
    | with_reducible apply State.poolRequest_keeps | split | dsimp only

theorem State.libraryOuts_keeps {r s : State} (h : r.Keeps s) {im st it} {t : State} {outs : List (Nat × Item)}
    (e : s.libraryOuts im st it = some (t, outs)) : r.Keeps t := by
  have key : ∀ o : Option (State × List (Nat × Item)), (∀ p, o = some p → r.Keeps p.1) → o = some (t, outs) → r.Keeps t :=
    fun o g e => g _ e
  refine key _ ?_ e
  unfold State.libraryOuts
  have one : ∀ (q : State × Item) (n : Nat), r.Keeps q.1 → ∀ p, some (q.1, [(n, q.2)]) = some p → r.Keeps p.1 := by
    intro q n g p e; cases e; exact g
  dsimp only
  split
  · intro p e; cases e; exact State.splitOuts_keeps (State.decompressed_keeps h)
  split
  · exact one _ _ (State.digested_keeps h)
  split
  · intro p e; cases e
  split
  · exact one (s, it) _ h
  split
  · exact one _ _ (State.textPrepared_keeps h)
  split
  · exact one _ _ (State.audioDecoded_keeps h)
  split
  · exact one _ _ (State.modelled_keeps h)
  · exact one _ _ (State.detokenized_keeps h)

theorem State.emitHeld_keeps {r s : State} (h : r.Keeps s) {im st it port handle len flags} :
    r.Keeps (s.emitHeld im st it port handle len flags) := by
  unfold State.emitHeld
  dsimp only
  have lib : ∀ {it : Item} {t : State} {outs : List (Nat × Item)},
      (if im.runsLibrary st = true then s.libraryOuts im st it else none) = some (t, outs) → r.Keeps t := by
    intro it t outs e
    split at e
    · exact State.libraryOuts_keeps h e
    · cases e
  refine State.keeps_ite (State.completeSample_keeps (State.emitAll_keeps (State.putItem_keeps ?_)))
    (State.emitAll_keeps (State.putItem_keeps ?_)) <;>
  · split
    · next e => exact State.keeps_ite (lib e) h
    · exact h

theorem State.ptpTake_keeps {r s : State} (h : r.Keeps s) {k m} :
    r.Keeps (s.ptpTake k m) := by
  unfold State.ptpTake
  repeat' first
    | with_reducible assumption | (intro _) | with_reducible apply State.adjustPtp_keeps
    | with_reducible apply State.masterDecision_keeps | with_reducible apply State.ptpOffset_keeps
    | with_reducible apply State.keeps_ite | split | dsimp only

theorem State.ptpReceive_keeps {r s : State} (h : r.Keeps s) {port sub frame} :
    r.Keeps (s.ptpReceive port sub frame) := by
  unfold State.ptpReceive
  repeat' first
    | with_reducible assumption | (intro _) | with_reducible apply State.pltCount_keeps
    | with_reducible apply State.ptpTake_keeps | with_reducible apply State.keeps_ite | split

theorem State.ptpEvent_keeps {r s : State} (h : r.Keeps s) {x1} :
    r.Keeps (s.ptpEvent x1) := by
  unfold State.ptpEvent
  repeat' first
    | with_reducible assumption | (intro _) | with_reducible apply State.masterFound_keeps
    | with_reducible apply State.ptpOffset_keeps | with_reducible apply State.stepCounter_keeps
    | with_reducible apply State.settleRoles_keeps | with_reducible apply State.setServo_keeps
    | with_reducible apply State.ptpReceive_keeps | with_reducible apply State.ptpSend_keeps
    | with_reducible apply State.keeps_ite | split

theorem State.sampleRail_keeps {r s : State} (h : r.Keeps s) {rail mv ma} :
    r.Keeps (s.sampleRail rail mv ma) := by
  unfold State.sampleRail
  repeat' first
    | with_reducible assumption | (intro _) | with_reducible apply State.adjustSheep_keeps
    | with_reducible apply State.setFld_keeps | with_reducible apply State.lower_keeps
    | with_reducible apply State.keeps_ite

theorem State.shadowArrival_keeps {r s : State} (h : r.Keeps s) {body} :
    r.Keeps (s.shadowArrival body) := by
  unfold State.shadowArrival
  repeat' first
    | with_reducible assumption | (intro _) | with_reducible apply State.dropRank_keeps
    | with_reducible apply State.gainRank_keeps | with_reducible apply State.packOn_keeps
    | with_reducible apply State.adjustFleet_keeps | with_reducible apply State.keeps_foldl

theorem State.warmReset_keeps {r s : State} (h : r.Keeps s) :
    r.Keeps (s.warmReset) := by
  unfold State.warmReset
  repeat' first
    | with_reducible assumption | (intro _) | with_reducible apply State.holdAt_keeps
    | with_reducible apply State.warmDown_keeps | with_reducible apply State.keeps_ite
    | fail_if_no_progress (with_reducible apply State.keeps_mk)

theorem State.takeRank_keeps {r s : State} (h : r.Keeps s) {slot rank first record} :
    r.Keeps (s.takeRank slot rank first record) := by
  unfold State.takeRank
  repeat' first
    | with_reducible assumption | (intro _) | with_reducible apply State.gainRank_keeps
    | with_reducible apply State.drew_keeps | with_reducible apply State.bumpSat_keeps
    | with_reducible apply State.adjustJob_keeps | with_reducible apply State.keeps_ite

theorem State.moved_keeps {r s : State} (h : r.Keeps s) {rank first record} :
    r.Keeps (s.moved rank first record) := by
  unfold State.moved
  repeat' first
    | with_reducible assumption | (intro _) | with_reducible apply State.adjustFleet_keeps
    | with_reducible apply State.dropMoved_keeps | with_reducible apply State.arriveCheck_keeps
    | with_reducible apply State.flowRank_keeps | with_reducible apply State.takeRank_keeps
    | with_reducible apply State.keeps_ite

theorem State.judgeHeartbeat_keeps {r s : State} (h : r.Keeps s) {i body} :
    r.Keeps (s.judgeHeartbeat i body) := by
  unfold State.judgeHeartbeat
  repeat' first
    | with_reducible assumption | (intro _) | with_reducible apply State.adjustFleet_keeps
    | with_reducible apply State.settleLog_keeps | with_reducible apply State.failMember_keeps
    | with_reducible apply State.keeps_ite

theorem State.heelPeerBatch_keeps {r s : State} (h : r.Keeps s) {k d} :
    r.Keeps (s.heelPeerBatch k d) := by
  unfold State.heelPeerBatch
  repeat' first
    | with_reducible assumption | (intro _) | with_reducible apply State.showPending_keeps
    | with_reducible apply State.compareBatch_keeps | with_reducible apply State.setHeel_keeps | split

theorem State.allocRoster_keeps {r s : State} (h : r.Keeps s) {slot} :
    r.Keeps (s.allocRoster slot) := by
  unfold State.allocRoster
  repeat' first
    | with_reducible assumption | (intro _) | with_reducible apply State.gainRank_keeps
    | with_reducible apply State.keeps_ite | with_reducible apply State.keeps_foldl

theorem State.mirrorRanks_keeps {r s : State} (h : r.Keeps s) {slot all} :
    r.Keeps (s.mirrorRanks slot all) := by
  unfold State.mirrorRanks
  repeat' first
    | with_reducible assumption | (intro _) | with_reducible apply State.mirror_keeps | with_reducible apply State.keeps_ite
    | with_reducible apply State.keeps_foldl

theorem State.underRoster_keeps {r s : State} (h : r.Keeps s) {first taken oldBuddy} :
    r.Keeps (s.underRoster first taken oldBuddy) := by
  unfold State.underRoster
  repeat' first
    | with_reducible assumption | (intro _) | with_reducible apply State.fence_keeps
    | with_reducible apply State.allocRoster_keeps | with_reducible apply State.startNow_keeps
    | with_reducible apply State.dropLost_keeps | with_reducible apply State.cancelMoves_keeps
    | with_reducible apply State.adjustFleet_keeps | with_reducible apply State.mirrorRanks_keeps
    | with_reducible apply State.arriveCheck_keeps | with_reducible apply State.flowJob_keeps
    | with_reducible apply State.keeps_ite

theorem State.rosterArrived_keeps {r s : State} (h : r.Keeps s) {source m} :
    r.Keeps (s.rosterArrived source m) := by
  unfold State.rosterArrived
  repeat' first
    | with_reducible assumption | (intro _) | with_reducible apply State.setFltCode_keeps
    | with_reducible apply State.setFltState_keeps | with_reducible apply State.adjustFleet_keeps
    | with_reducible apply State.setBit_keeps | with_reducible apply State.adoptRoster_keeps
    | with_reducible apply State.underRoster_keeps | with_reducible apply State.keeps_ite

theorem State.sweepDone_keeps {r s : State} (h : r.Keeps s) {n} :
    r.Keeps (s.sweepDone n) := by
  unfold State.sweepDone
  repeat' first
    | with_reducible assumption | (intro _) | with_reducible apply State.copyUnits_keeps
    | with_reducible apply State.setBit_keeps | with_reducible apply State.raise_keeps
    | with_reducible apply State.adjustStore_keeps | with_reducible apply State.keeps_foldl

theorem State.poolSetCount_keeps {r s : State} (h : r.Keeps s) {handle stage count} :
    r.Keeps (s.poolSetCount handle stage count) := by
  unfold State.poolSetCount
  repeat' first
    | with_reducible assumption | (intro _) | with_reducible apply State.poolRefuse_keeps
    | with_reducible apply State.setPool_keeps | with_reducible apply State.keeps_ite | split | dsimp only

theorem State.scanned_keeps {r s : State} (h : r.Keeps s) {targets perBlock rated} :
    r.Keeps (s.scanned targets perBlock rated) := by
  unfold State.scanned
  repeat' first
    | with_reducible assumption | (intro _) | with_reducible apply State.setReg_keeps
    | with_reducible apply State.setFld_keeps | with_reducible apply State.adjustSheep_keeps
    | with_reducible apply State.adjustStore_keeps

theorem State.replayStore_keeps {r s : State} (h : r.Keeps s) {failed} :
    r.Keeps (s.replayStore failed) := by
  unfold State.replayStore
  repeat' first
    | with_reducible assumption | (intro _) | with_reducible apply State.adjustStore_keeps
    | with_reducible apply State.showNs_keeps | with_reducible apply State.showBlocks_keeps
    | with_reducible apply State.setReg_keeps | with_reducible apply State.keeps_foldl

theorem State.replayed_keeps {r s : State} (h : r.Keeps s) {failedCkpts} :
    r.Keeps (s.replayed failedCkpts) := by
  unfold State.replayed
  repeat' first
    | with_reducible assumption | (intro _) | with_reducible apply State.setBit_keeps
    | with_reducible apply State.replayStore_keeps

theorem State.stageEnded_keeps {r s : State} (h : r.Keeps s) {x1} :
    r.Keeps (s.stageEnded x1) := by
  unfold State.stageEnded
  repeat' first
    | with_reducible assumption | (intro _) | with_reducible apply State.stageDone_keeps
    | with_reducible apply State.failStart_keeps | with_reducible apply State.scanned_keeps
    | with_reducible apply State.replayed_keeps | with_reducible apply State.retireKennel_keeps
    | with_reducible apply State.keeps_ite | with_reducible apply State.keeps_foldl
    | with_reducible apply State.keeps_foldl_fst | split

theorem State.capStep_keeps {r s : State} (h : r.Keeps s) :
    r.Keeps (s.capStep) := by
  unfold State.capStep
  repeat' first
    | with_reducible assumption | (intro _) | with_reducible apply State.lower_keeps | with_reducible apply State.lift_keeps
    | with_reducible apply State.keeps_ite

theorem State.readMask_keeps {r s : State} (h : r.Keeps s) {m w} :
    r.Keeps (s.readMask m w) := by
  unfold State.readMask
  repeat' first
    | with_reducible assumption | (intro _) | fail_if_no_progress (with_reducible apply State.keeps_mk)

theorem State.maskStep_keeps {r s : State} (h : r.Keeps s) {slot k m} :
    r.Keeps (s.maskStep slot k m) := by
  unfold State.maskStep
  repeat' first
    | with_reducible assumption | (intro _) | with_reducible apply State.readVocab_keeps
    | with_reducible apply State.sendToMaskBuf_keeps | with_reducible apply State.readMask_keeps
    | fail_if_no_progress (with_reducible apply State.keeps_mk) | split

theorem State.captureEdge_keeps {r s : State} (h : r.Keeps s) {pin} :
    r.Keeps (s.captureEdge pin) := by
  unfold State.captureEdge
  repeat' first
    | with_reducible assumption | (intro _) | with_reducible apply State.adjustPin_keeps
    | with_reducible apply State.liveEdge_keeps | with_reducible apply State.keeps_ite
    | with_reducible apply State.keeps_foldl

theorem State.briStep_keeps {r s : State} (h : r.Keeps s) {e verified} :
    r.Keeps (s.briStep e verified) := by
  unfold State.briStep
  repeat' first
    | with_reducible assumption | (intro _) | with_reducible apply State.briCompressStep_keeps
    | with_reducible apply State.briCompressEnd_keeps | with_reducible apply State.briDecodeStep_keeps
    | with_reducible apply State.briMark_keeps | with_reducible apply State.keeps_ite | split | dsimp only

theorem State.briSave_keeps {r s : State} (h : r.Keeps s) {e run code} :
    r.Keeps (s.briSave e run code) := by
  unfold State.briSave
  repeat' first
    | with_reducible assumption | (intro _) | with_reducible apply State.writeMem_keeps
    | with_reducible apply State.keeps_ite | split

theorem State.briComplete_keeps {r s : State} (h : r.Keeps s) {e} :
    r.Keeps (s.briComplete e) := by
  unfold State.briComplete
  repeat' first
    | with_reducible assumption | (intro _) | with_reducible apply State.briStep_keeps
    | with_reducible apply State.briEnd_keeps | with_reducible apply State.briSave_keeps
    | with_reducible apply State.briRecord_keeps | with_reducible apply State.briFetch_keeps
    | with_reducible apply State.keeps_ite | split | dsimp only

theorem State.loadModel_keeps {r s : State} (h : r.Keeps s) {slot stage outcomes} :
    r.Keeps (s.loadModel slot stage outcomes) := by
  unfold State.loadModel
  repeat' first
    | with_reducible assumption | (intro _) | with_reducible apply State.readUnits_keeps
    | with_reducible apply State.haltJob_keeps | with_reducible apply State.adjustJob_keeps
    | with_reducible apply State.keeps_ite | split

theorem State.assignPosition_keeps {r s : State} (h : r.Keeps s) {slot rank} :
    r.Keeps (s.assignPosition slot rank) := by
  unfold State.assignPosition
  repeat' first
    | with_reducible assumption | (intro _) | with_reducible apply State.bump_keeps
    | with_reducible apply State.takePosition_keeps | with_reducible apply State.settleExhausted_keeps
    | with_reducible apply State.requestItem_keeps | with_reducible apply State.adjustJob_keeps
    | with_reducible apply State.adjustFacts_keeps | with_reducible apply State.passOn_keeps
    | with_reducible apply State.keeps_ite | split

theorem State.dmaUnfetched_keeps {r s : State} (h : r.Keeps s) {ch run} :
    r.Keeps (s.dmaUnfetched ch run) := by
  unfold State.dmaUnfetched
  repeat' first
    | with_reducible assumption | (intro _) | with_reducible apply State.dmaEnd_keeps
    | with_reducible apply State.drew_keeps

theorem State.loadDone_keeps {r s : State} (h : r.Keeps s) {o} :
    r.Keeps (s.loadDone o) := by
  unfold State.loadDone
  repeat' first
    | with_reducible assumption | (intro _) | with_reducible apply State.loadEnd_keeps
    | with_reducible apply State.measurePartition_keeps | with_reducible apply State.commitImage_keeps | split

theorem State.retireEngine_keeps {r s : State} (h : r.Keeps s) {cls e} :
    r.Keeps (s.retireEngine cls e) := by
  unfold State.retireEngine
  repeat' first
    | with_reducible assumption | (intro _) | with_reducible apply State.setFld_keeps
    | with_reducible apply State.haltJob_keeps | with_reducible apply State.keeps_ite
    | with_reducible apply State.keeps_foldl | with_reducible apply State.keeps_foldl_fst
    | fail_if_no_progress (with_reducible apply State.keeps_mk) | split

theorem State.keepMirror_keeps {r s : State} (h : r.Keeps s) {source i record} :
    r.Keeps (s.keepMirror source i record) := by
  unfold State.keepMirror
  repeat' first
    | with_reducible assumption | (intro _) | with_reducible apply State.adjustFleet_keeps
    | with_reducible apply State.fleetSend_keeps

theorem State.readDone_keeps {r s : State} (h : r.Keeps s) {ref result} :
    r.Keeps (s.readDone ref result) := by
  unfold State.readDone
  repeat' first
    | with_reducible assumption | (intro _) | with_reducible apply State.readUnits_keeps
    | with_reducible apply State.unreadable_keeps | with_reducible apply State.sampleRead_keeps
    | with_reducible apply State.endReads_keeps | with_reducible apply State.keeps_ite | split

theorem State.giveUp_keeps {r s : State} (h : r.Keeps s) {ctx dest msgId} :
    r.Keeps (s.giveUp ctx dest msgId) := by
  unfold State.giveUp
  repeat' first
    | with_reducible assumption | (intro _) | with_reducible apply State.adjustCtx_keeps
    | with_reducible apply State.batchUnconfirmed_keeps | with_reducible apply State.readFailed_keeps
    | with_reducible apply State.keeps_ite | with_reducible apply State.keeps_map_getD | split

theorem State.poolMinFreeRead_keeps {r s : State} (h : r.Keeps s) {k} :
    r.Keeps (s.poolMinFreeRead k) := by
  unfold State.poolMinFreeRead
  repeat' first
    | with_reducible assumption | (intro _) | with_reducible apply State.setFld_keeps
    | fail_if_no_progress (with_reducible apply State.keeps_mk)

theorem State.nandRead_keeps {r s : State} (h : r.Keeps s) {x1 unit c u outcome} :
    r.Keeps (s.nandRead x1 unit c u outcome) := by
  unfold State.nandRead
  repeat' first
    | with_reducible assumption | (intro _) | with_reducible apply State.readUnit_keeps
    | with_reducible apply State.adjustCmd_keeps | with_reducible apply State.keeps_ite

theorem State.crypt_keeps {r s : State} (h : r.Keeps s) {im st it} :
    r.Keeps (s.crypt im st it) := by
  unfold State.crypt
  repeat' first
    | with_reducible assumption | (intro _) | with_reducible apply State.passOn_keeps
    | with_reducible apply State.sampleRead_keeps | with_reducible apply State.damageFree_keeps
    | with_reducible apply State.keeps_ite | split

theorem State.fetched_keeps {r s : State} (h : r.Keeps s) {source i} :
    r.Keeps (s.fetched source i) := by
  unfold State.fetched
  repeat' first
    | with_reducible assumption | (intro _) | with_reducible apply State.fleetSend_keeps

theorem State.joinAsked_keeps {r s : State} (h : r.Keeps s) {source digest} :
    r.Keeps (s.joinAsked source digest) := by
  unfold State.joinAsked
  repeat' first
    | with_reducible assumption | (intro _) | with_reducible apply State.fleetSend_keeps
    | with_reducible apply State.adjustFleet_keeps | with_reducible apply State.assignUnheld_keeps
    | with_reducible apply State.changeRoster_keeps | with_reducible apply State.keeps_ite | split

theorem State.thermalStep_keeps {r s : State} (h : r.Keeps s) :
    r.Keeps (s.thermalStep) := by
  unfold State.thermalStep
  repeat' first
    | with_reducible assumption | (intro _) | with_reducible apply State.lower_keeps | with_reducible apply State.lift_keeps
    | with_reducible apply State.keeps_ite | split

theorem State.committed_keeps {r s : State} (h : r.Keeps s) {j} :
    r.Keeps (s.committed j) := by
  unfold State.committed
  repeat' first
    | with_reducible assumption | (intro _) | with_reducible apply State.setFld_keeps
    | with_reducible apply State.drew_keeps | with_reducible apply State.adjustFleet_keeps
    | with_reducible apply State.keeps_ite

theorem State.dispatch_keeps {r s : State} (h : r.Keeps s) {ref core handle} :
    r.Keeps (s.dispatch ref core handle) := by
  unfold State.dispatch
  repeat' first
    | with_reducible assumption | (intro _) | with_reducible apply State.putItem_keeps
    | with_reducible apply State.writeMem_keeps | with_reducible apply State.setCore_keeps
    | with_reducible apply State.keeps_ite | with_reducible apply State.keeps_map_getD | split

theorem State.pinRise_keeps {r s : State} (h : r.Keeps s) {por straps} :
    r.Keeps (s.pinRise por straps) := by
  unfold State.pinRise
  repeat' first
    | with_reducible assumption | (intro _) | with_reducible apply State.setReg_keeps
    | with_reducible apply State.beginStart_keeps | with_reducible apply State.keeps_ite
    | fail_if_no_progress (with_reducible apply State.keeps_mk)

theorem State.heartbeatArrived_keeps {r s : State} (h : r.Keeps s) {source i body} :
    r.Keeps (s.heartbeatArrived source i body) := by
  unfold State.heartbeatArrived
  repeat' first
    | with_reducible assumption | (intro _) | with_reducible apply State.judgeHeartbeat_keeps
    | with_reducible apply State.managerHears_keeps | with_reducible apply State.fleetSend_keeps
    | with_reducible apply State.keeps_ite

theorem State.tokenizeItem_keeps {r s : State} (h : r.Keeps s) {im st it} :
    r.Keeps (s.tokenizeItem im st it) := by
  unfold State.tokenizeItem
  repeat' first
    | with_reducible assumption | (intro _) | with_reducible apply State.handOn_keeps
    | with_reducible apply State.readVocab_keeps | with_reducible apply State.bump_keeps
    | with_reducible apply State.keeps_ite

theorem State.sout_keeps {r s : State} (h : r.Keeps s) {core f} :
    r.Keeps (s.sout core f) := by
  unfold State.sout
  repeat' first
    | with_reducible assumption | (intro _) | with_reducible apply State.exception_keeps
    | with_reducible apply State.setCore_keeps | with_reducible apply State.emitHeld_keeps
    | with_reducible apply State.keeps_ite | split

theorem State.resampleItem_keeps {r s : State} (h : r.Keeps s) {im st it} :
    r.Keeps (s.resampleItem im st it) := by
  unfold State.resampleItem
  repeat' first
    | with_reducible assumption | (intro _) | with_reducible apply State.handOn_keeps | with_reducible apply State.keeps_ite
    | split

theorem State.powerWindow_keeps {r s : State} (h : r.Keeps s) :
    r.Keeps (s.powerWindow) := by
  unfold State.powerWindow
  repeat' first
    | with_reducible assumption | (intro _) | with_reducible apply State.adjustSheep_keeps
    | with_reducible apply State.drew_keeps | with_reducible apply State.addEnergy_keeps
    | with_reducible apply State.bump_keeps | with_reducible apply State.keeps_ite | with_reducible apply State.keeps_foldl

theorem State.startCheckpoint_keeps {r s : State} (h : r.Keeps s) :
    r.Keeps (s.startCheckpoint) := by
  unfold State.startCheckpoint
  repeat' first
    | with_reducible assumption | (intro _) | with_reducible apply State.setBit_keeps
    | with_reducible apply State.adjustStore_keeps

theorem State.deliverMail_keeps {r s : State} (h : r.Keeps s) {core ch} :
    r.Keeps (s.deliverMail core ch) := by
  unfold State.deliverMail
  repeat' first
    | with_reducible assumption | (intro _) | with_reducible apply State.setCore_keeps
    | with_reducible apply State.deadlock_keeps | with_reducible apply State.wake_keeps
    | with_reducible apply State.keeps_ite | split

theorem State.timerFire_keeps {r s : State} (h : r.Keeps s) {i} :
    r.Keeps (s.timerFire i) := by
  unfold State.timerFire
  repeat' first
    | with_reducible assumption | (intro _) | with_reducible apply State.bump_keeps
    | with_reducible apply State.adjustPin_keeps | with_reducible apply State.raiseCoalesced_keeps
    | with_reducible apply State.keeps_ite | fail_if_no_progress (with_reducible apply State.keeps_mk) | split

theorem State.idle_keeps {r s : State} (h : r.Keeps s) :
    r.Keeps (s.idle) := by
  unfold State.idle
  repeat' first
    | with_reducible assumption | (intro _) | fail_if_no_progress (with_reducible apply State.keeps_mk)

theorem State.dmaComplete_keeps {r s : State} (h : r.Keeps s) {ch run} :
    r.Keeps (s.dmaComplete ch run) := by
  unfold State.dmaComplete
  repeat' first
    | with_reducible assumption | (intro _) | with_reducible apply State.chkThrough_keeps
    | with_reducible apply State.bump_keeps | with_reducible apply State.dmaStore_keeps
    | with_reducible apply State.dmaEnd_keeps | with_reducible apply State.dmaRecord_keeps
    | with_reducible apply State.dmaFetch_keeps | with_reducible apply State.keeps_ite

theorem State.countEcc_keeps {r s : State} (h : r.Keeps s) {c} :
    r.Keeps (s.countEcc c) := by
  unfold State.countEcc
  repeat' first
    | with_reducible assumption | (intro _) | with_reducible apply State.setKennel_keeps

theorem State.deadline_keeps {r s : State} (h : r.Keeps s) {slot rank} :
    r.Keeps (s.deadline slot rank) := by
  unfold State.deadline
  repeat' first
    | with_reducible assumption | (intro _) | with_reducible apply State.bump_keeps
    | with_reducible apply State.adjustJob_keeps | with_reducible apply State.flowRank_keeps
    | with_reducible apply State.keeps_ite | split

theorem State.overlay_keeps {r s : State} (h : r.Keeps s) {core a c} :
    r.Keeps (s.overlay core a c) := by
  unfold State.overlay
  repeat' first
    | with_reducible assumption | (intro _) | with_reducible apply State.exception_keeps
    | with_reducible apply State.setCore_keeps | with_reducible apply State.keeps_ite | split

theorem State.indexRead_keeps {r s : State} (h : r.Keeps s) {slot shard outcomes} :
    r.Keeps (s.indexRead slot shard outcomes) := by
  unfold State.indexRead
  repeat' first
    | with_reducible assumption | (intro _) | with_reducible apply State.readUnits_keeps
    | with_reducible apply State.haltJob_keeps | with_reducible apply State.takeIndex_keeps
    | with_reducible apply State.endReads_keeps | with_reducible apply State.keeps_ite | split

theorem State.receiveOn_keeps {r s : State} (h : r.Keeps s) {core f} :
    r.Keeps (s.receiveOn core f) := by
  unfold State.receiveOn
  repeat' first
    | with_reducible assumption | (intro _) | with_reducible apply State.exception_keeps
    | with_reducible apply State.block_keeps | with_reducible apply State.setCore_keeps
    | with_reducible apply State.setKennel_keeps | with_reducible apply State.wake_keeps | split | dsimp only

theorem State.openStream_keeps {r s : State} (h : r.Keeps s) {slot source m msg} :
    r.Keeps (s.openStream slot source m msg) := by
  unfold State.openStream
  repeat' first
    | with_reducible assumption | (intro _) | with_reducible apply State.badMessage_keeps
    | with_reducible apply State.endStream_keeps | with_reducible apply State.addWork_keeps
    | with_reducible apply State.setGen_keeps | with_reducible apply State.keeps_ite

theorem State.switchFirmware_keeps {r s : State} (h : r.Keeps s) :
    r.Keeps (s.switchFirmware) := by
  unfold State.switchFirmware
  repeat' first
    | with_reducible assumption | (intro _) | with_reducible apply State.endCheckpoint_keeps
    | with_reducible apply State.startCheckpoint_keeps | with_reducible apply State.swapSlot_keeps
    | with_reducible apply State.adjustStore_keeps | with_reducible apply State.endSweeps_keeps
    | with_reducible apply State.adjustSheep_keeps | with_reducible apply State.beginStart_keeps
    | with_reducible apply State.setCause_keeps | with_reducible apply State.keeps_ite

theorem State.takeoverAsked_keeps {r s : State} (h : r.Keeps s) {source epoch} :
    r.Keeps (s.takeoverAsked source epoch) := by
  unfold State.takeoverAsked
  repeat' first
    | with_reducible assumption | (intro _) | with_reducible apply State.adjustFleet_keeps
    | with_reducible apply State.fleetSend_keeps | with_reducible apply State.keeps_ite
    | with_reducible apply State.keeps_map_getD | split

theorem State.timeNsRead_keeps {r s : State} (h : r.Keeps s) :
    r.Keeps (s.timeNsRead) := by
  unfold State.timeNsRead
  repeat' first
    | with_reducible assumption | (intro _) | with_reducible apply State.setReg_keeps
    | fail_if_no_progress (with_reducible apply State.keeps_mk)

/-! ### The shapes of meanings -/

/-- What a command answers: each next state keeps what `r` had. -/
structure KeepsOut (r : State) (o : Host.Outcome State Fault Refusal) : Prop where
  all : ∀ t, o = .next t → r.Keeps t

theorem KeepsOut.next {r s : State} (h : r.Keeps s) : KeepsOut r (.next s) := ⟨fun _ e => by cases e; exact h⟩

theorem KeepsOut.fault {r : State} {f : Fault} : KeepsOut r (.fault f) := ⟨fun _ e => by cases e⟩

theorem act_keeps {r s : State} (h : r.Keeps s) {f : State → State} (hf : ∀ t, r.Keeps t → r.Keeps (f t)) :
    KeepsOut r (act f s) := KeepsOut.next (State.keeps_ite (hf s h) h)

theorem hostAct_keeps {r s : State} (h : r.Keeps s) {off} {f : State → State} (hf : ∀ t, r.Keeps t → r.Keeps (f t)) :
    KeepsOut r (hostAct off f s) := KeepsOut.next (State.keeps_ite (hf s h) h)

theorem jobAct_keeps {r s : State} (h : r.Keeps s) {f : State → State} (hf : ∀ t, r.Keeps t → r.Keeps (f t)) :
    KeepsOut r (jobAct f s) := act_keeps h fun t ht => State.heelSettle_keeps (hf t ht)

theorem jobCommand_keeps {r s : State} (h : r.Keeps s) {slot} {f : State → State} (hf : ∀ t, r.Keeps t → r.Keeps (f t)) :
    KeepsOut r (jobCommand slot f s) := hostAct_keeps h fun t ht => State.heelSettle_keeps (hf t ht)

theorem coreRow_keeps {r s : State} (h : r.Keeps s) {core f retry legal scalar} {body : Core → State → State}
    (hf : ∀ c t, r.Keeps t → r.Keeps (body c t)) : KeepsOut r (coreRow core f retry legal scalar body s) := by
  unfold coreRow
  split
  · exact KeepsOut.fault
  · refine act_keeps h fun t ht => ?_
    have hg := State.keeps_ite (c := f.check = .corrected) (State.countEcc_keeps (c := core) ht) ht
    exact State.keeps_ite ht (State.keeps_ite (State.exception_keeps ht) (State.keeps_ite (State.exception_keeps hg)
      (State.keeps_ite (State.setCore_keeps hg) (hf _ _ hg))))

theorem registerRow_keeps {r s : State} (h : r.Keeps s) {core f legal scalar} {g : Core → Core} :
    KeepsOut r (registerRow core f legal scalar g s) := coreRow_keeps h fun _ _ ht => State.setCore_keeps ht

theorem scalarRow_keeps {r s : State} (h : r.Keeps s) {core f legal} {val : Core → BitVec 64} :
    KeepsOut r (scalarRow core f legal val s) := registerRow_keeps h

theorem binaryRow_keeps {r s : State} (h : r.Keeps s) {core f op} : KeepsOut r (binaryRow core f op s) := scalarRow_keeps h

theorem elementRow_keeps {r s : State} (h : r.Keeps s) {core f legal b op} : KeepsOut r (elementRow core f legal b op s) :=
  registerRow_keeps h

theorem arithRow_keeps {r s : State} (h : r.Keeps s) {core f fp int} : KeepsOut r (arithRow core f fp int s) :=
  elementRow_keeps h

theorem accessRow_keeps {r s : State} (h : r.Keeps s) {core f legal n write} {go : Core → Nat → State → State}
    (hf : ∀ c a t, r.Keeps t → r.Keeps (go c a t)) : KeepsOut r (accessRow core f legal n write go s) :=
  coreRow_keeps h fun _ _ ht => State.access_keeps ht hf

theorem wideAccessRow_keeps {r s : State} (h : r.Keeps s) {core f write} {go : Core → Nat → State → State}
    (hf : ∀ c a t, r.Keeps t → r.Keeps (go c a t)) : KeepsOut r (wideAccessRow core f write go s) :=
  coreRow_keeps h fun _ _ ht => State.keeps_ite (State.access_keeps ht hf) (State.setCore_keeps ht)

theorem fleetTake_keeps {r s : State} (h : r.Keeps s) {kind msg} {f : FleetMsg → State → State}
    (hf : ∀ m t, r.Keeps t → r.Keeps (f m t)) : KeepsOut r (fleetTake kind msg f s) := by
  unfold fleetTake
  exact act_keeps h fun t ht => State.keeps_ite (State.heelSettle_keeps (hf _ t ht)) ht

theorem fleetFrom_keeps {r s : State} (h : r.Keeps s) {kind source msg} {f : Nat → FleetMsg → State → State}
    (hf : ∀ i m t, r.Keeps t → r.Keeps (f i m t)) : KeepsOut r (fleetFrom kind source msg f s) :=
  fleetTake_keeps h fun m t ht => by
    split
    · exact hf _ m t ht
    · exact ht

theorem returnRow_keeps {r s : State} (h : r.Keeps s) {slot kind msg} {f : MaskStage → State → State}
    (hf : ∀ m t, r.Keeps t → r.Keeps (f m t)) : KeepsOut r (returnRow slot kind msg f s) :=
  act_keeps h fun t ht => by
    split
    · exact State.keeps_ite (hf _ t ht) ht
    · exact ht

theorem trsGoRow_keeps {r s : State} (h : r.Keeps s) {set op} : KeepsOut r (trsGoRow set op s) :=
  hostAct_keeps h fun _ ht => State.keeps_ite (State.trsGo_keeps ht) ht

theorem pltRow_keeps {r s : State} (h : r.Keeps s) {port sub op frame} : KeepsOut r (pltRow port sub op frame s) :=
  jobAct_keeps h fun _ ht => State.pltReceive_keeps ht

theorem loadGoRow_keeps {r s : State} (h : r.Keeps s) {op hedge} : KeepsOut r (loadGoRow op hedge s) :=
  hostAct_keeps h fun _ ht => State.loadGo_keeps (State.setFld_keeps (State.setFld_keeps ht))

theorem mgmtRow_keeps {r s : State} (h : r.Keeps s) {src code} {body : Envelope → State → Answer}
    (hf : ∀ e t, r.Keeps t → Answer.Keeps r (body e t)) : KeepsOut r (mgmtRow src code body s) := by
  refine KeepsOut.next ?_
  split
  · exact State.keeps_ite (State.mgmtRun_keeps h hf) h
  · exact h

theorem heelRow_keeps {r s : State} (h : r.Keeps s) {kind frame} {f : Bytes → State → State}
    (hf : ∀ m t, r.Keeps t → r.Keeps (f m t)) : KeepsOut r (heelRow kind frame f s) :=
  jobAct_keeps h fun t ht => by
    split
    · next u m e => exact hf m u (State.Keeps.of_fst (State.heelReceive_keeps ht) e)
    · next u e => exact State.Keeps.of_fst (State.heelReceive_keeps ht) e

theorem engineRow_keeps {r s : State} (h : r.Keeps s) {ref kind} {f : State → Image → Stage → Item → State}
    (hf : ∀ t im st it, r.Keeps t → r.Keeps (f t im st it)) : KeepsOut r (engineRow ref kind f s) :=
  jobAct_keeps h fun t ht => by
    split
    · exact hf t _ _ _ ht
    · exact ht

end Sys2Proof.Machine
end

