-- ==== Sys2Proof/Laws/Plyn.lean ====
section
/-! SUPPORT. What the receive order of Plyn does with an accepted packet. -/

namespace Sys2Proof.Machine

/-- The test of step 5 on the key and its phase. -/
theorem Context.phase_test {s : State} {c : Context} {h : PltHeader} (hk : (s.contextKey c).isSome = true) (hp : c.phaseOk h = true) :
    ((s.contextKey c).isNone || !c.phaseOk h) = false := by
  rw [hp]
  cases q : s.contextKey c with
  | none => rw [q] at hk; cases hk
  | some k => rfl

/-- A frame on a sub-port with a link, of its opcode, valid, of the right length and age. -/
theorem State.pltReceive_good {s : State} {port sub op : Nat} {frame : Bytes} (h0 : s.ingressStalled port sub = false) (h1 : s.linkUp port sub = true)
    (h2 : (pltHeaderOf frame).opcode = op) (h3 : 64 ≤ frame.length) (h4 : (pltHeaderOf frame).valid s.sourceId = true)
    (h5 : frame.length = pltFrameLength (pltHeaderOf frame)) (h6 : s.ageBad (pltHeaderOf frame) = false) :
    s.pltReceive port sub op frame = match s.contexts.find (pltHeaderOf frame).context with
      | none => s.pltCount 2
      | some c => if c.onChip then s.fromStep5 port sub frame else s.missQueue port sub (pltHeaderOf frame) frame := by
  unfold State.pltReceive
  rw [if_neg (by simp [h0])]
  have a : (!s.linkUp port sub || decide ((pltHeaderOf frame).opcode ≠ op)) = false := by rw [h1, h2]; simp
  have b : (decide (frame.length < 64) || !(pltHeaderOf frame).valid s.sourceId || decide (frame.length ≠ pltFrameLength (pltHeaderOf frame))) =
      false := by
    rw [h4]
    simp only [Bool.or_eq_false_iff, decide_eq_false_iff_not, Bool.not_true, and_true, not_not]
    exact ⟨by omega, h5⟩
  simp only [a, b, h6, Bool.false_eq_true, if_false]
  all_goals rfl

/-- Step 5 on, for an authentic packet of an accepted key phase and the right shape. -/
theorem State.fromStep5_good {s : State} {port sub : Nat} {frame payload : Bytes} {c : Context}
    (hc : s.contexts.find (pltHeaderOf frame).context = some c) (hu : (pltHeaderOf frame).unauth = false)
    (ho : openFrame ((s.contextKey c).getD []) (pltHeaderOf frame) frame = some payload) (hk : (s.contextKey c).isSome = true)
    (hp : c.phaseOk (pltHeaderOf frame) = true) (hs : controlShapeOk (pltHeaderOf frame) payload = true)
    (h1 : (!opSingle (pltHeaderOf frame).opcode || decide ((pltHeaderOf frame).count = 1)) = true) :
    s.fromStep5 port sub frame = ((s.adjustCtx (pltHeaderOf frame).context fun _ => c.sawPacket (pltHeaderOf frame) port sub).touchCtx
      (pltHeaderOf frame).context).dispatchPacket port sub (c.sawPacket (pltHeaderOf frame) port sub) (pltHeaderOf frame) payload := by
  have a := Context.phase_test hk hp
  have b : (!controlShapeOk (pltHeaderOf frame) payload || (opSingle (pltHeaderOf frame).opcode && decide ((pltHeaderOf frame).count ≠ 1))) =
      false := by
    rw [hs]
    cases q : opSingle (pltHeaderOf frame).opcode with
    | false => rfl
    | true => rw [q] at h1; simpa using h1
  unfold State.fromStep5
  simp only [hc, hu, ho, a, b, Bool.false_eq_true, if_false]

/-- An accepted packet is handed to its opcode. -/
theorem State.packet_receive {s u : State} {port sub op : Nat} {frame payload : Bytes} {c : Context} {h : PltHeader}
    (hp : s.packet port sub op frame = some (u, c, h, payload)) :
    s.live = true ∧ h.opcode = op ∧ s.pltReceive port sub op frame = u.dispatchPacket port sub c h payload := by
  unfold State.packet at hp
  simp only [] at hp
  split at hp
  · rename_i hc
    simp only [Bool.and_eq_true, decide_eq_true_eq, Bool.not_eq_true'] at hc
    obtain ⟨⟨⟨⟨⟨⟨⟨⟨q0, qs⟩, q1⟩, q2⟩, q3⟩, q4⟩, q5⟩, q6⟩, q7⟩ := hc
    split at hp
    · cases hp
    · rename_i c0 hc0
      split at hp
      · cases hp
      · rename_i p0 hp0
        split at hp
        · rename_i hd
          rw [Bool.and_eq_true, Bool.and_eq_true, Bool.and_eq_true, Bool.and_eq_true] at hd
          obtain ⟨⟨⟨⟨r1, r2⟩, r3⟩, r4⟩, r5⟩ := hd
          rw [State.pltReceive_good qs q1 q2 q3 q4 q5 q6, hc0]
          simp only [r1, if_true]
          rw [State.fromStep5_good hc0 q7 hp0 r2 r3 r4 r5]
          injection hp with hp
          injection hp with x1 hp
          injection hp with x2 hp
          injection hp with x3 x4
          rw [← x1, ← x2, ← x3, ← x4]
          exact ⟨q0, q2, rfl⟩
        · cases hp
  · cases hp

/-! ### Sealed frames -/

/-- A header has 64 bytes. -/
theorem PltHeader.bytes_length (h : PltHeader) : h.bytes.length = 64 := by
  simp [PltHeader.bytes, beBytes_length]

/-- A header is read from its own bytes only. -/
theorem pltHeaderOf_append (a b : Bytes) (h : a.length = 64) : pltHeaderOf (a ++ b) = pltHeaderOf a := by
  have e : ∀ o n, o + n ≤ 64 → beFieldAt (a ++ b) o n = beFieldAt a o n := by
    intro o n hn
    unfold beFieldAt
    rw [List.drop_append_of_le_length (by omega), List.take_append_of_le_length (by simp; omega)]
  simp [pltHeaderOf, e]

/-- What a sealed frame looks like. -/
theorem sealFrame_eq {k : Bytes} {h : PltHeader} (p : Bytes) (hu : h.unauth = false) :
    sealFrame k h p = h.bytes ++ ((gcmSeal (h.key k) h.nonce h.bytes p).1 ++ (gcmSeal (h.key k) h.nonce h.bytes p).2) := by
  unfold sealFrame
  simp [hu]

theorem PltHeader.nonce_length (h : PltHeader) : h.nonce.length = 12 := by simp [PltHeader.nonce, beBytes_length]

theorem pltHeaderOf_sealFrame (k : Bytes) {h : PltHeader} (p : Bytes) (hu : h.unauth = false) :
    pltHeaderOf (sealFrame k h p) = pltHeaderOf h.bytes := by
  rw [sealFrame_eq p hu, pltHeaderOf_append _ _ h.bytes_length]

/-- A sealed frame opens under the same key and header. -/
theorem openFrame_sealFrame (k : Bytes) (h : PltHeader) (p : Bytes) (hu : h.unauth = false) (hn : h.payloadBytes = p.length) :
    openFrame k h (sealFrame k h p) = some p := by
  have l := gcmSeal_length (h.key k) h.nonce h.bytes p h.nonce_length
  rw [sealFrame_eq p hu]
  unfold openFrame
  simp only [hn]
  have a : (h.bytes ++ ((gcmSeal (h.key k) h.nonce h.bytes p).1 ++ (gcmSeal (h.key k) h.nonce h.bytes p).2)).take 64 = h.bytes := by
    rw [List.take_append_of_le_length (by rw [h.bytes_length]), List.take_of_length_le (by rw [h.bytes_length])]
  have b : (h.bytes ++ ((gcmSeal (h.key k) h.nonce h.bytes p).1 ++ (gcmSeal (h.key k) h.nonce h.bytes p).2)).drop 64 =
      (gcmSeal (h.key k) h.nonce h.bytes p).1 ++ (gcmSeal (h.key k) h.nonce h.bytes p).2 := by
    rw [List.drop_append_of_le_length (by rw [h.bytes_length]), List.drop_of_length_le (by rw [h.bytes_length])]; rfl
  rw [a, ← List.drop_drop, b, List.take_append_of_le_length (by rw [l]), List.take_of_length_le (by rw [l]),
    List.drop_append_of_le_length (by rw [l]), List.drop_of_length_le (by rw [l]), List.nil_append]
  exact gcmOpen_gcmSeal _ _ _ _ h.nonce_length

theorem gcmTag_length (key iv aad ct : Bytes) (h : iv.length = 12) : (gcmTag (aesRoundKeys key) iv aad ct).length = 16 := by
  have hb : (iv ++ beBytes 4 1).length = 16 := by rw [List.length_append, h, beBytes_length]
  have hx : ∀ x, (xorBytes (beBytes 16 x) (aesEncryptWith (aesRoundKeys key) (iv ++ beBytes 4 1))).length = 16 := by
    intro x
    have e := aesEncryptWith_length key (iv ++ beBytes 4 1) hb
    generalize aesEncryptWith (aesRoundKeys key) (iv ++ beBytes 4 1) = y at e ⊢
    have l := beBytes_length 16 x
    generalize beBytes 16 x = z at l ⊢
    have := xorBytes_length z y
    omega
  exact hx _

theorem gcmSeal_tag_length (key iv aad pt : Bytes) (h : iv.length = 12) : (gcmSeal key iv aad pt).2.length = 16 := by
  have e : (gcmSeal key iv aad pt).2 =
      gcmTag (aesRoundKeys key) iv aad (xorBytes pt (gcmStream (aesRoundKeys key) iv (ceilDiv pt.length 16) 2)) := by
    rw [gcmSeal]
  rw [e]
  exact gcmTag_length key iv aad _ h

theorem sealFrame_length (k : Bytes) (h : PltHeader) (p : Bytes) (hu : h.unauth = false) :
    (sealFrame k h p).length = 64 + p.length + 16 := by
  rw [sealFrame_eq p hu, List.length_append, List.length_append, h.bytes_length, gcmSeal_length _ _ _ _ h.nonce_length]
  have := gcmSeal_tag_length (h.key k) h.nonce h.bytes p h.nonce_length
  omega

/-- A frame sealed for an on-chip context is accepted. -/
theorem State.packet_sealed {s : State} {port sub : Nat} {h : PltHeader} {c : Context} {k p : Bytes} (hl : s.live = true)
    (h0 : s.ingressStalled port sub = false) (h1 : s.linkUp port sub = true) (hb : pltHeaderOf h.bytes = h) (hu : h.unauth = false) (hn : h.payloadBytes = p.length)
    (h4 : h.valid s.sourceId = true) (h6 : s.ageBad h = false) (hc : s.contexts.find h.context = some c) (ho : c.onChip = true)
    (hk : s.contextKey c = some k) (hp : c.phaseOk h = true) (hs : controlShapeOk h p = true)
    (h2 : (!opSingle h.opcode || decide (h.count = 1)) = true) :
    s.packet port sub h.opcode (sealFrame k h p) =
      some ((s.adjustCtx h.context fun _ => c.sawPacket h port sub).touchCtx h.context, c.sawPacket h port sub, h, p) := by
  have hd : pltHeaderOf (sealFrame k h p) = h := by rw [pltHeaderOf_sealFrame _ _ hu, hb]
  have hlen := sealFrame_length k h p hu
  unfold State.packet
  simp only [hd]
  rw [if_pos]
  · simp only [hc, hk, Option.getD_some, openFrame_sealFrame k h p hu hn, ho, hp, hs, h2]
    rfl
  · have h5 : pltFrameLength h = (sealFrame k h p).length := by
      rw [hlen]; unfold pltFrameLength; rw [hu, hn]; rfl
    rw [hl, h0, h1, h4, h6, hu, h5, hlen]
    simp
    omega

end Sys2Proof.Machine
end

