-- ==== Sys2Proof/Laws/State.lean ====
section
/-! SUPPORT. What each update of State leaves alone: one lemma per field per update, true by unfolding. -/

namespace Sys2Proof.Machine

/-! ### State.setReg -/

@[simp] theorem State.setReg_pending (s : State) (off : Nat) (v : Word64) : (s.setReg off v).pending = s.pending := rfl
@[simp] theorem State.setReg_free (s : State) (off : Nat) (v : Word64) : (s.setReg off v).free = s.free := rfl
@[simp] theorem State.setReg_hostRead (s : State) (off : Nat) (v : Word64) : (s.setReg off v).hostRead = s.hostRead := rfl
@[simp] theorem State.setReg_regPend (s : State) (off : Nat) (v : Word64) : (s.setReg off v).regPend = s.regPend := rfl
@[simp] theorem State.setReg_part (s : State) (off : Nat) (v : Word64) : (s.setReg off v).part = s.part := rfl
@[simp] theorem State.setReg_board (s : State) (off : Nat) (v : Word64) : (s.setReg off v).board = s.board := rfl
@[simp] theorem State.setReg_retired (s : State) (off : Nat) (v : Word64) : (s.setReg off v).retired = s.retired := rfl
@[simp] theorem State.setReg_islands (s : State) (off : Nat) (v : Word64) : (s.setReg off v).islands = s.islands := rfl
@[simp] theorem State.setReg_hung (s : State) (off : Nat) (v : Word64) : (s.setReg off v).hung = s.hung := rfl
@[simp] theorem State.setReg_outOfService (s : State) (off : Nat) (v : Word64) : (s.setReg off v).outOfService = s.outOfService := rfl
@[simp] theorem State.setReg_claims (s : State) (off : Nat) (v : Word64) : (s.setReg off v).claims = s.claims := rfl
@[simp] theorem State.setReg_partition (s : State) (off : Nat) (v : Word64) : (s.setReg off v).partition = s.partition := rfl
@[simp] theorem State.setReg_served (s : State) (off : Nat) (v : Word64) : (s.setReg off v).served = s.served := rfl
@[simp] theorem State.setReg_sramServed (s : State) (off : Nat) (v : Word64) : (s.setReg off v).sramServed = s.sramServed := rfl
@[simp] theorem State.setReg_loadOp (s : State) (off : Nat) (v : Word64) : (s.setReg off v).loadOp = s.loadOp := rfl
@[simp] theorem State.setReg_images (s : State) (off : Nat) (v : Word64) : (s.setReg off v).images = s.images := rfl
@[simp] theorem State.setReg_timers (s : State) (off : Nat) (v : Word64) : (s.setReg off v).timers = s.timers := rfl
@[simp] theorem State.setReg_jobs (s : State) (off : Nat) (v : Word64) : (s.setReg off v).jobs = s.jobs := rfl
@[simp] theorem State.setReg_items (s : State) (off : Nat) (v : Word64) : (s.setReg off v).items = s.items := rfl
@[simp] theorem State.setReg_text (s : State) (off : Nat) (v : Word64) : (s.setReg off v).text = s.text := rfl
@[simp] theorem State.setReg_queues (s : State) (off : Nat) (v : Word64) : (s.setReg off v).queues = s.queues := rfl
@[simp] theorem State.setReg_cores (s : State) (off : Nat) (v : Word64) : (s.setReg off v).cores = s.cores := rfl
@[simp] theorem State.setReg_kennels (s : State) (off : Nat) (v : Word64) : (s.setReg off v).kennels = s.kennels := rfl
@[simp] theorem State.setReg_restarting (s : State) (off : Nat) (v : Word64) : (s.setReg off v).restarting = s.restarting := rfl
@[simp] theorem State.setReg_reloading (s : State) (off : Nat) (v : Word64) : (s.setReg off v).reloading = s.reloading := rfl
@[simp] theorem State.setReg_heel (s : State) (off : Nat) (v : Word64) : (s.setReg off v).heel = s.heel := rfl
@[simp] theorem State.setReg_contexts (s : State) (off : Nat) (v : Word64) : (s.setReg off v).contexts = s.contexts := rfl
@[simp] theorem State.setReg_msgIds (s : State) (off : Nat) (v : Word64) : (s.setReg off v).msgIds = s.msgIds := rfl
@[simp] theorem State.setReg_clock (s : State) (off : Nat) (v : Word64) : (s.setReg off v).clock = s.clock := rfl
@[simp] theorem State.setReg_ports (s : State) (off : Nat) (v : Word64) : (s.setReg off v).ports = s.ports := rfl
@[simp] theorem State.setReg_time (s : State) (off : Nat) (v : Word64) : (s.setReg off v).time = s.time := rfl
@[simp] theorem State.setReg_uptime (s : State) (off : Nat) (v : Word64) : (s.setReg off v).uptime = s.uptime := rfl
@[simp] theorem State.setReg_dma (s : State) (off : Nat) (v : Word64) : (s.setReg off v).dma = s.dma := rfl
@[simp] theorem State.setReg_pools (s : State) (off : Nat) (v : Word64) : (s.setReg off v).pools = s.pools := rfl
@[simp] theorem State.setReg_chk (s : State) (off : Nat) (v : Word64) : (s.setReg off v).chk = s.chk := rfl
@[simp] theorem State.setReg_bri (s : State) (off : Nat) (v : Word64) : (s.setReg off v).bri = s.bri := rfl
@[simp] theorem State.setReg_sram (s : State) (off : Nat) (v : Word64) : (s.setReg off v).sram = s.sram := rfl
@[simp] theorem State.setReg_dram (s : State) (off : Nat) (v : Word64) : (s.setReg off v).dram = s.dram := rfl
@[simp] theorem State.setReg_hostMem (s : State) (off : Nat) (v : Word64) : (s.setReg off v).hostMem = s.hostMem := rfl
@[simp] theorem State.setReg_store (s : State) (off : Nat) (v : Word64) : (s.setReg off v).store = s.store := rfl
@[simp] theorem State.setReg_fleet (s : State) (off : Nat) (v : Word64) : (s.setReg off v).fleet = s.fleet := rfl
@[simp] theorem State.setReg_security (s : State) (off : Nat) (v : Word64) : (s.setReg off v).security = s.security := rfl
@[simp] theorem State.setReg_sheep (s : State) (off : Nat) (v : Word64) : (s.setReg off v).sheep = s.sheep := rfl

/-! ### State.setFld -/

@[simp] theorem State.setFld_pending (s : State) (off : Nat) (f : Fld) (x : Nat) : (s.setFld off f x).pending = s.pending := rfl
@[simp] theorem State.setFld_free (s : State) (off : Nat) (f : Fld) (x : Nat) : (s.setFld off f x).free = s.free := rfl
@[simp] theorem State.setFld_hostRead (s : State) (off : Nat) (f : Fld) (x : Nat) : (s.setFld off f x).hostRead = s.hostRead := rfl
@[simp] theorem State.setFld_regPend (s : State) (off : Nat) (f : Fld) (x : Nat) : (s.setFld off f x).regPend = s.regPend := rfl
@[simp] theorem State.setFld_part (s : State) (off : Nat) (f : Fld) (x : Nat) : (s.setFld off f x).part = s.part := rfl
@[simp] theorem State.setFld_board (s : State) (off : Nat) (f : Fld) (x : Nat) : (s.setFld off f x).board = s.board := rfl
@[simp] theorem State.setFld_retired (s : State) (off : Nat) (f : Fld) (x : Nat) : (s.setFld off f x).retired = s.retired := rfl
@[simp] theorem State.setFld_islands (s : State) (off : Nat) (f : Fld) (x : Nat) : (s.setFld off f x).islands = s.islands := rfl
@[simp] theorem State.setFld_hung (s : State) (off : Nat) (f : Fld) (x : Nat) : (s.setFld off f x).hung = s.hung := rfl
@[simp] theorem State.setFld_outOfService (s : State) (off : Nat) (f : Fld) (x : Nat) : (s.setFld off f x).outOfService = s.outOfService := rfl
@[simp] theorem State.setFld_claims (s : State) (off : Nat) (f : Fld) (x : Nat) : (s.setFld off f x).claims = s.claims := rfl
@[simp] theorem State.setFld_partition (s : State) (off : Nat) (f : Fld) (x : Nat) : (s.setFld off f x).partition = s.partition := rfl
@[simp] theorem State.setFld_served (s : State) (off : Nat) (f : Fld) (x : Nat) : (s.setFld off f x).served = s.served := rfl
@[simp] theorem State.setFld_sramServed (s : State) (off : Nat) (f : Fld) (x : Nat) : (s.setFld off f x).sramServed = s.sramServed := rfl
@[simp] theorem State.setFld_loadOp (s : State) (off : Nat) (f : Fld) (x : Nat) : (s.setFld off f x).loadOp = s.loadOp := rfl
@[simp] theorem State.setFld_images (s : State) (off : Nat) (f : Fld) (x : Nat) : (s.setFld off f x).images = s.images := rfl
@[simp] theorem State.setFld_timers (s : State) (off : Nat) (f : Fld) (x : Nat) : (s.setFld off f x).timers = s.timers := rfl
@[simp] theorem State.setFld_jobs (s : State) (off : Nat) (f : Fld) (x : Nat) : (s.setFld off f x).jobs = s.jobs := rfl
@[simp] theorem State.setFld_items (s : State) (off : Nat) (f : Fld) (x : Nat) : (s.setFld off f x).items = s.items := rfl
@[simp] theorem State.setFld_text (s : State) (off : Nat) (f : Fld) (x : Nat) : (s.setFld off f x).text = s.text := rfl
@[simp] theorem State.setFld_queues (s : State) (off : Nat) (f : Fld) (x : Nat) : (s.setFld off f x).queues = s.queues := rfl
@[simp] theorem State.setFld_cores (s : State) (off : Nat) (f : Fld) (x : Nat) : (s.setFld off f x).cores = s.cores := rfl
@[simp] theorem State.setFld_kennels (s : State) (off : Nat) (f : Fld) (x : Nat) : (s.setFld off f x).kennels = s.kennels := rfl
@[simp] theorem State.setFld_restarting (s : State) (off : Nat) (f : Fld) (x : Nat) : (s.setFld off f x).restarting = s.restarting := rfl
@[simp] theorem State.setFld_reloading (s : State) (off : Nat) (f : Fld) (x : Nat) : (s.setFld off f x).reloading = s.reloading := rfl
@[simp] theorem State.setFld_heel (s : State) (off : Nat) (f : Fld) (x : Nat) : (s.setFld off f x).heel = s.heel := rfl
@[simp] theorem State.setFld_contexts (s : State) (off : Nat) (f : Fld) (x : Nat) : (s.setFld off f x).contexts = s.contexts := rfl
@[simp] theorem State.setFld_msgIds (s : State) (off : Nat) (f : Fld) (x : Nat) : (s.setFld off f x).msgIds = s.msgIds := rfl
@[simp] theorem State.setFld_clock (s : State) (off : Nat) (f : Fld) (x : Nat) : (s.setFld off f x).clock = s.clock := rfl
@[simp] theorem State.setFld_ports (s : State) (off : Nat) (f : Fld) (x : Nat) : (s.setFld off f x).ports = s.ports := rfl
@[simp] theorem State.setFld_time (s : State) (off : Nat) (f : Fld) (x : Nat) : (s.setFld off f x).time = s.time := rfl
@[simp] theorem State.setFld_uptime (s : State) (off : Nat) (f : Fld) (x : Nat) : (s.setFld off f x).uptime = s.uptime := rfl
@[simp] theorem State.setFld_dma (s : State) (off : Nat) (f : Fld) (x : Nat) : (s.setFld off f x).dma = s.dma := rfl
@[simp] theorem State.setFld_pools (s : State) (off : Nat) (f : Fld) (x : Nat) : (s.setFld off f x).pools = s.pools := rfl
@[simp] theorem State.setFld_chk (s : State) (off : Nat) (f : Fld) (x : Nat) : (s.setFld off f x).chk = s.chk := rfl
@[simp] theorem State.setFld_bri (s : State) (off : Nat) (f : Fld) (x : Nat) : (s.setFld off f x).bri = s.bri := rfl
@[simp] theorem State.setFld_sram (s : State) (off : Nat) (f : Fld) (x : Nat) : (s.setFld off f x).sram = s.sram := rfl
@[simp] theorem State.setFld_dram (s : State) (off : Nat) (f : Fld) (x : Nat) : (s.setFld off f x).dram = s.dram := rfl
@[simp] theorem State.setFld_hostMem (s : State) (off : Nat) (f : Fld) (x : Nat) : (s.setFld off f x).hostMem = s.hostMem := rfl
@[simp] theorem State.setFld_store (s : State) (off : Nat) (f : Fld) (x : Nat) : (s.setFld off f x).store = s.store := rfl
@[simp] theorem State.setFld_fleet (s : State) (off : Nat) (f : Fld) (x : Nat) : (s.setFld off f x).fleet = s.fleet := rfl
@[simp] theorem State.setFld_security (s : State) (off : Nat) (f : Fld) (x : Nat) : (s.setFld off f x).security = s.security := rfl
@[simp] theorem State.setFld_sheep (s : State) (off : Nat) (f : Fld) (x : Nat) : (s.setFld off f x).sheep = s.sheep := rfl

/-! ### State.setBit -/

@[simp] theorem State.setBit_pending (s : State) (off : Nat) (f : Fld) (b : Bool) : (s.setBit off f b).pending = s.pending := rfl
@[simp] theorem State.setBit_free (s : State) (off : Nat) (f : Fld) (b : Bool) : (s.setBit off f b).free = s.free := rfl
@[simp] theorem State.setBit_hostRead (s : State) (off : Nat) (f : Fld) (b : Bool) : (s.setBit off f b).hostRead = s.hostRead := rfl
@[simp] theorem State.setBit_regPend (s : State) (off : Nat) (f : Fld) (b : Bool) : (s.setBit off f b).regPend = s.regPend := rfl
@[simp] theorem State.setBit_part (s : State) (off : Nat) (f : Fld) (b : Bool) : (s.setBit off f b).part = s.part := rfl
@[simp] theorem State.setBit_board (s : State) (off : Nat) (f : Fld) (b : Bool) : (s.setBit off f b).board = s.board := rfl
@[simp] theorem State.setBit_retired (s : State) (off : Nat) (f : Fld) (b : Bool) : (s.setBit off f b).retired = s.retired := rfl
@[simp] theorem State.setBit_islands (s : State) (off : Nat) (f : Fld) (b : Bool) : (s.setBit off f b).islands = s.islands := rfl
@[simp] theorem State.setBit_hung (s : State) (off : Nat) (f : Fld) (b : Bool) : (s.setBit off f b).hung = s.hung := rfl
@[simp] theorem State.setBit_outOfService (s : State) (off : Nat) (f : Fld) (b : Bool) : (s.setBit off f b).outOfService = s.outOfService := rfl
@[simp] theorem State.setBit_claims (s : State) (off : Nat) (f : Fld) (b : Bool) : (s.setBit off f b).claims = s.claims := rfl
@[simp] theorem State.setBit_partition (s : State) (off : Nat) (f : Fld) (b : Bool) : (s.setBit off f b).partition = s.partition := rfl
@[simp] theorem State.setBit_served (s : State) (off : Nat) (f : Fld) (b : Bool) : (s.setBit off f b).served = s.served := rfl
@[simp] theorem State.setBit_sramServed (s : State) (off : Nat) (f : Fld) (b : Bool) : (s.setBit off f b).sramServed = s.sramServed := rfl
@[simp] theorem State.setBit_loadOp (s : State) (off : Nat) (f : Fld) (b : Bool) : (s.setBit off f b).loadOp = s.loadOp := rfl
@[simp] theorem State.setBit_images (s : State) (off : Nat) (f : Fld) (b : Bool) : (s.setBit off f b).images = s.images := rfl
@[simp] theorem State.setBit_timers (s : State) (off : Nat) (f : Fld) (b : Bool) : (s.setBit off f b).timers = s.timers := rfl
@[simp] theorem State.setBit_jobs (s : State) (off : Nat) (f : Fld) (b : Bool) : (s.setBit off f b).jobs = s.jobs := rfl
@[simp] theorem State.setBit_items (s : State) (off : Nat) (f : Fld) (b : Bool) : (s.setBit off f b).items = s.items := rfl
@[simp] theorem State.setBit_text (s : State) (off : Nat) (f : Fld) (b : Bool) : (s.setBit off f b).text = s.text := rfl
@[simp] theorem State.setBit_queues (s : State) (off : Nat) (f : Fld) (b : Bool) : (s.setBit off f b).queues = s.queues := rfl
@[simp] theorem State.setBit_cores (s : State) (off : Nat) (f : Fld) (b : Bool) : (s.setBit off f b).cores = s.cores := rfl
@[simp] theorem State.setBit_kennels (s : State) (off : Nat) (f : Fld) (b : Bool) : (s.setBit off f b).kennels = s.kennels := rfl
@[simp] theorem State.setBit_restarting (s : State) (off : Nat) (f : Fld) (b : Bool) : (s.setBit off f b).restarting = s.restarting := rfl
@[simp] theorem State.setBit_reloading (s : State) (off : Nat) (f : Fld) (b : Bool) : (s.setBit off f b).reloading = s.reloading := rfl
@[simp] theorem State.setBit_heel (s : State) (off : Nat) (f : Fld) (b : Bool) : (s.setBit off f b).heel = s.heel := rfl
@[simp] theorem State.setBit_contexts (s : State) (off : Nat) (f : Fld) (b : Bool) : (s.setBit off f b).contexts = s.contexts := rfl
@[simp] theorem State.setBit_msgIds (s : State) (off : Nat) (f : Fld) (b : Bool) : (s.setBit off f b).msgIds = s.msgIds := rfl
@[simp] theorem State.setBit_clock (s : State) (off : Nat) (f : Fld) (b : Bool) : (s.setBit off f b).clock = s.clock := rfl
@[simp] theorem State.setBit_ports (s : State) (off : Nat) (f : Fld) (b : Bool) : (s.setBit off f b).ports = s.ports := rfl
@[simp] theorem State.setBit_time (s : State) (off : Nat) (f : Fld) (b : Bool) : (s.setBit off f b).time = s.time := rfl
@[simp] theorem State.setBit_uptime (s : State) (off : Nat) (f : Fld) (b : Bool) : (s.setBit off f b).uptime = s.uptime := rfl
@[simp] theorem State.setBit_dma (s : State) (off : Nat) (f : Fld) (b : Bool) : (s.setBit off f b).dma = s.dma := rfl
@[simp] theorem State.setBit_pools (s : State) (off : Nat) (f : Fld) (b : Bool) : (s.setBit off f b).pools = s.pools := rfl
@[simp] theorem State.setBit_chk (s : State) (off : Nat) (f : Fld) (b : Bool) : (s.setBit off f b).chk = s.chk := rfl
@[simp] theorem State.setBit_bri (s : State) (off : Nat) (f : Fld) (b : Bool) : (s.setBit off f b).bri = s.bri := rfl
@[simp] theorem State.setBit_sram (s : State) (off : Nat) (f : Fld) (b : Bool) : (s.setBit off f b).sram = s.sram := rfl
@[simp] theorem State.setBit_dram (s : State) (off : Nat) (f : Fld) (b : Bool) : (s.setBit off f b).dram = s.dram := rfl
@[simp] theorem State.setBit_hostMem (s : State) (off : Nat) (f : Fld) (b : Bool) : (s.setBit off f b).hostMem = s.hostMem := rfl
@[simp] theorem State.setBit_store (s : State) (off : Nat) (f : Fld) (b : Bool) : (s.setBit off f b).store = s.store := rfl
@[simp] theorem State.setBit_fleet (s : State) (off : Nat) (f : Fld) (b : Bool) : (s.setBit off f b).fleet = s.fleet := rfl
@[simp] theorem State.setBit_security (s : State) (off : Nat) (f : Fld) (b : Bool) : (s.setBit off f b).security = s.security := rfl
@[simp] theorem State.setBit_sheep (s : State) (off : Nat) (f : Fld) (b : Bool) : (s.setBit off f b).sheep = s.sheep := rfl

/-! ### State.bump -/

@[simp] theorem State.bump_pending (s : State) (off : Nat) (f : Fld) (n : Nat) : (s.bump off f n).pending = s.pending := rfl
@[simp] theorem State.bump_free (s : State) (off : Nat) (f : Fld) (n : Nat) : (s.bump off f n).free = s.free := rfl
@[simp] theorem State.bump_hostRead (s : State) (off : Nat) (f : Fld) (n : Nat) : (s.bump off f n).hostRead = s.hostRead := rfl
@[simp] theorem State.bump_regPend (s : State) (off : Nat) (f : Fld) (n : Nat) : (s.bump off f n).regPend = s.regPend := rfl
@[simp] theorem State.bump_part (s : State) (off : Nat) (f : Fld) (n : Nat) : (s.bump off f n).part = s.part := rfl
@[simp] theorem State.bump_board (s : State) (off : Nat) (f : Fld) (n : Nat) : (s.bump off f n).board = s.board := rfl
@[simp] theorem State.bump_retired (s : State) (off : Nat) (f : Fld) (n : Nat) : (s.bump off f n).retired = s.retired := rfl
@[simp] theorem State.bump_islands (s : State) (off : Nat) (f : Fld) (n : Nat) : (s.bump off f n).islands = s.islands := rfl
@[simp] theorem State.bump_hung (s : State) (off : Nat) (f : Fld) (n : Nat) : (s.bump off f n).hung = s.hung := rfl
@[simp] theorem State.bump_outOfService (s : State) (off : Nat) (f : Fld) (n : Nat) : (s.bump off f n).outOfService = s.outOfService := rfl
@[simp] theorem State.bump_claims (s : State) (off : Nat) (f : Fld) (n : Nat) : (s.bump off f n).claims = s.claims := rfl
@[simp] theorem State.bump_partition (s : State) (off : Nat) (f : Fld) (n : Nat) : (s.bump off f n).partition = s.partition := rfl
@[simp] theorem State.bump_served (s : State) (off : Nat) (f : Fld) (n : Nat) : (s.bump off f n).served = s.served := rfl
@[simp] theorem State.bump_sramServed (s : State) (off : Nat) (f : Fld) (n : Nat) : (s.bump off f n).sramServed = s.sramServed := rfl
@[simp] theorem State.bump_loadOp (s : State) (off : Nat) (f : Fld) (n : Nat) : (s.bump off f n).loadOp = s.loadOp := rfl
@[simp] theorem State.bump_images (s : State) (off : Nat) (f : Fld) (n : Nat) : (s.bump off f n).images = s.images := rfl
@[simp] theorem State.bump_timers (s : State) (off : Nat) (f : Fld) (n : Nat) : (s.bump off f n).timers = s.timers := rfl
@[simp] theorem State.bump_jobs (s : State) (off : Nat) (f : Fld) (n : Nat) : (s.bump off f n).jobs = s.jobs := rfl
@[simp] theorem State.bump_items (s : State) (off : Nat) (f : Fld) (n : Nat) : (s.bump off f n).items = s.items := rfl
@[simp] theorem State.bump_text (s : State) (off : Nat) (f : Fld) (n : Nat) : (s.bump off f n).text = s.text := rfl
@[simp] theorem State.bump_queues (s : State) (off : Nat) (f : Fld) (n : Nat) : (s.bump off f n).queues = s.queues := rfl
@[simp] theorem State.bump_cores (s : State) (off : Nat) (f : Fld) (n : Nat) : (s.bump off f n).cores = s.cores := rfl
@[simp] theorem State.bump_kennels (s : State) (off : Nat) (f : Fld) (n : Nat) : (s.bump off f n).kennels = s.kennels := rfl
@[simp] theorem State.bump_restarting (s : State) (off : Nat) (f : Fld) (n : Nat) : (s.bump off f n).restarting = s.restarting := rfl
@[simp] theorem State.bump_reloading (s : State) (off : Nat) (f : Fld) (n : Nat) : (s.bump off f n).reloading = s.reloading := rfl
@[simp] theorem State.bump_heel (s : State) (off : Nat) (f : Fld) (n : Nat) : (s.bump off f n).heel = s.heel := rfl
@[simp] theorem State.bump_contexts (s : State) (off : Nat) (f : Fld) (n : Nat) : (s.bump off f n).contexts = s.contexts := rfl
@[simp] theorem State.bump_msgIds (s : State) (off : Nat) (f : Fld) (n : Nat) : (s.bump off f n).msgIds = s.msgIds := rfl
@[simp] theorem State.bump_clock (s : State) (off : Nat) (f : Fld) (n : Nat) : (s.bump off f n).clock = s.clock := rfl
@[simp] theorem State.bump_ports (s : State) (off : Nat) (f : Fld) (n : Nat) : (s.bump off f n).ports = s.ports := rfl
@[simp] theorem State.bump_time (s : State) (off : Nat) (f : Fld) (n : Nat) : (s.bump off f n).time = s.time := rfl
@[simp] theorem State.bump_uptime (s : State) (off : Nat) (f : Fld) (n : Nat) : (s.bump off f n).uptime = s.uptime := rfl
@[simp] theorem State.bump_dma (s : State) (off : Nat) (f : Fld) (n : Nat) : (s.bump off f n).dma = s.dma := rfl
@[simp] theorem State.bump_pools (s : State) (off : Nat) (f : Fld) (n : Nat) : (s.bump off f n).pools = s.pools := rfl
@[simp] theorem State.bump_chk (s : State) (off : Nat) (f : Fld) (n : Nat) : (s.bump off f n).chk = s.chk := rfl
@[simp] theorem State.bump_bri (s : State) (off : Nat) (f : Fld) (n : Nat) : (s.bump off f n).bri = s.bri := rfl
@[simp] theorem State.bump_sram (s : State) (off : Nat) (f : Fld) (n : Nat) : (s.bump off f n).sram = s.sram := rfl
@[simp] theorem State.bump_dram (s : State) (off : Nat) (f : Fld) (n : Nat) : (s.bump off f n).dram = s.dram := rfl
@[simp] theorem State.bump_hostMem (s : State) (off : Nat) (f : Fld) (n : Nat) : (s.bump off f n).hostMem = s.hostMem := rfl
@[simp] theorem State.bump_store (s : State) (off : Nat) (f : Fld) (n : Nat) : (s.bump off f n).store = s.store := rfl
@[simp] theorem State.bump_fleet (s : State) (off : Nat) (f : Fld) (n : Nat) : (s.bump off f n).fleet = s.fleet := rfl
@[simp] theorem State.bump_security (s : State) (off : Nat) (f : Fld) (n : Nat) : (s.bump off f n).security = s.security := rfl
@[simp] theorem State.bump_sheep (s : State) (off : Nat) (f : Fld) (n : Nat) : (s.bump off f n).sheep = s.sheep := rfl

/-! ### State.bumpSat -/

@[simp] theorem State.bumpSat_pending (s : State) (off : Nat) (f : Fld) (n : Nat) : (s.bumpSat off f n).pending = s.pending := rfl
@[simp] theorem State.bumpSat_free (s : State) (off : Nat) (f : Fld) (n : Nat) : (s.bumpSat off f n).free = s.free := rfl
@[simp] theorem State.bumpSat_hostRead (s : State) (off : Nat) (f : Fld) (n : Nat) : (s.bumpSat off f n).hostRead = s.hostRead := rfl
@[simp] theorem State.bumpSat_regPend (s : State) (off : Nat) (f : Fld) (n : Nat) : (s.bumpSat off f n).regPend = s.regPend := rfl
@[simp] theorem State.bumpSat_part (s : State) (off : Nat) (f : Fld) (n : Nat) : (s.bumpSat off f n).part = s.part := rfl
@[simp] theorem State.bumpSat_board (s : State) (off : Nat) (f : Fld) (n : Nat) : (s.bumpSat off f n).board = s.board := rfl
@[simp] theorem State.bumpSat_retired (s : State) (off : Nat) (f : Fld) (n : Nat) : (s.bumpSat off f n).retired = s.retired := rfl
@[simp] theorem State.bumpSat_islands (s : State) (off : Nat) (f : Fld) (n : Nat) : (s.bumpSat off f n).islands = s.islands := rfl
@[simp] theorem State.bumpSat_hung (s : State) (off : Nat) (f : Fld) (n : Nat) : (s.bumpSat off f n).hung = s.hung := rfl
@[simp] theorem State.bumpSat_outOfService (s : State) (off : Nat) (f : Fld) (n : Nat) : (s.bumpSat off f n).outOfService = s.outOfService := rfl
@[simp] theorem State.bumpSat_claims (s : State) (off : Nat) (f : Fld) (n : Nat) : (s.bumpSat off f n).claims = s.claims := rfl
@[simp] theorem State.bumpSat_partition (s : State) (off : Nat) (f : Fld) (n : Nat) : (s.bumpSat off f n).partition = s.partition := rfl
@[simp] theorem State.bumpSat_served (s : State) (off : Nat) (f : Fld) (n : Nat) : (s.bumpSat off f n).served = s.served := rfl
@[simp] theorem State.bumpSat_sramServed (s : State) (off : Nat) (f : Fld) (n : Nat) : (s.bumpSat off f n).sramServed = s.sramServed := rfl
@[simp] theorem State.bumpSat_loadOp (s : State) (off : Nat) (f : Fld) (n : Nat) : (s.bumpSat off f n).loadOp = s.loadOp := rfl
@[simp] theorem State.bumpSat_images (s : State) (off : Nat) (f : Fld) (n : Nat) : (s.bumpSat off f n).images = s.images := rfl
@[simp] theorem State.bumpSat_timers (s : State) (off : Nat) (f : Fld) (n : Nat) : (s.bumpSat off f n).timers = s.timers := rfl
@[simp] theorem State.bumpSat_jobs (s : State) (off : Nat) (f : Fld) (n : Nat) : (s.bumpSat off f n).jobs = s.jobs := rfl
@[simp] theorem State.bumpSat_items (s : State) (off : Nat) (f : Fld) (n : Nat) : (s.bumpSat off f n).items = s.items := rfl
@[simp] theorem State.bumpSat_text (s : State) (off : Nat) (f : Fld) (n : Nat) : (s.bumpSat off f n).text = s.text := rfl
@[simp] theorem State.bumpSat_queues (s : State) (off : Nat) (f : Fld) (n : Nat) : (s.bumpSat off f n).queues = s.queues := rfl
@[simp] theorem State.bumpSat_cores (s : State) (off : Nat) (f : Fld) (n : Nat) : (s.bumpSat off f n).cores = s.cores := rfl
@[simp] theorem State.bumpSat_kennels (s : State) (off : Nat) (f : Fld) (n : Nat) : (s.bumpSat off f n).kennels = s.kennels := rfl
@[simp] theorem State.bumpSat_restarting (s : State) (off : Nat) (f : Fld) (n : Nat) : (s.bumpSat off f n).restarting = s.restarting := rfl
@[simp] theorem State.bumpSat_reloading (s : State) (off : Nat) (f : Fld) (n : Nat) : (s.bumpSat off f n).reloading = s.reloading := rfl
@[simp] theorem State.bumpSat_heel (s : State) (off : Nat) (f : Fld) (n : Nat) : (s.bumpSat off f n).heel = s.heel := rfl
@[simp] theorem State.bumpSat_contexts (s : State) (off : Nat) (f : Fld) (n : Nat) : (s.bumpSat off f n).contexts = s.contexts := rfl
@[simp] theorem State.bumpSat_msgIds (s : State) (off : Nat) (f : Fld) (n : Nat) : (s.bumpSat off f n).msgIds = s.msgIds := rfl
@[simp] theorem State.bumpSat_clock (s : State) (off : Nat) (f : Fld) (n : Nat) : (s.bumpSat off f n).clock = s.clock := rfl
@[simp] theorem State.bumpSat_ports (s : State) (off : Nat) (f : Fld) (n : Nat) : (s.bumpSat off f n).ports = s.ports := rfl
@[simp] theorem State.bumpSat_time (s : State) (off : Nat) (f : Fld) (n : Nat) : (s.bumpSat off f n).time = s.time := rfl
@[simp] theorem State.bumpSat_uptime (s : State) (off : Nat) (f : Fld) (n : Nat) : (s.bumpSat off f n).uptime = s.uptime := rfl
@[simp] theorem State.bumpSat_dma (s : State) (off : Nat) (f : Fld) (n : Nat) : (s.bumpSat off f n).dma = s.dma := rfl
@[simp] theorem State.bumpSat_pools (s : State) (off : Nat) (f : Fld) (n : Nat) : (s.bumpSat off f n).pools = s.pools := rfl
@[simp] theorem State.bumpSat_chk (s : State) (off : Nat) (f : Fld) (n : Nat) : (s.bumpSat off f n).chk = s.chk := rfl
@[simp] theorem State.bumpSat_bri (s : State) (off : Nat) (f : Fld) (n : Nat) : (s.bumpSat off f n).bri = s.bri := rfl
@[simp] theorem State.bumpSat_sram (s : State) (off : Nat) (f : Fld) (n : Nat) : (s.bumpSat off f n).sram = s.sram := rfl
@[simp] theorem State.bumpSat_dram (s : State) (off : Nat) (f : Fld) (n : Nat) : (s.bumpSat off f n).dram = s.dram := rfl
@[simp] theorem State.bumpSat_hostMem (s : State) (off : Nat) (f : Fld) (n : Nat) : (s.bumpSat off f n).hostMem = s.hostMem := rfl
@[simp] theorem State.bumpSat_store (s : State) (off : Nat) (f : Fld) (n : Nat) : (s.bumpSat off f n).store = s.store := rfl
@[simp] theorem State.bumpSat_fleet (s : State) (off : Nat) (f : Fld) (n : Nat) : (s.bumpSat off f n).fleet = s.fleet := rfl
@[simp] theorem State.bumpSat_security (s : State) (off : Nat) (f : Fld) (n : Nat) : (s.bumpSat off f n).security = s.security := rfl
@[simp] theorem State.bumpSat_sheep (s : State) (off : Nat) (f : Fld) (n : Nat) : (s.bumpSat off f n).sheep = s.sheep := rfl

/-! ### State.clearReg -/

@[simp] theorem State.clearReg_pending (s : State) (off : Nat) : (s.clearReg off).pending = s.pending := rfl
@[simp] theorem State.clearReg_free (s : State) (off : Nat) : (s.clearReg off).free = s.free := rfl
@[simp] theorem State.clearReg_hostRead (s : State) (off : Nat) : (s.clearReg off).hostRead = s.hostRead := rfl
@[simp] theorem State.clearReg_regPend (s : State) (off : Nat) : (s.clearReg off).regPend = s.regPend := rfl
@[simp] theorem State.clearReg_part (s : State) (off : Nat) : (s.clearReg off).part = s.part := rfl
@[simp] theorem State.clearReg_board (s : State) (off : Nat) : (s.clearReg off).board = s.board := rfl
@[simp] theorem State.clearReg_retired (s : State) (off : Nat) : (s.clearReg off).retired = s.retired := rfl
@[simp] theorem State.clearReg_islands (s : State) (off : Nat) : (s.clearReg off).islands = s.islands := rfl
@[simp] theorem State.clearReg_hung (s : State) (off : Nat) : (s.clearReg off).hung = s.hung := rfl
@[simp] theorem State.clearReg_outOfService (s : State) (off : Nat) : (s.clearReg off).outOfService = s.outOfService := rfl
@[simp] theorem State.clearReg_claims (s : State) (off : Nat) : (s.clearReg off).claims = s.claims := rfl
@[simp] theorem State.clearReg_partition (s : State) (off : Nat) : (s.clearReg off).partition = s.partition := rfl
@[simp] theorem State.clearReg_served (s : State) (off : Nat) : (s.clearReg off).served = s.served := rfl
@[simp] theorem State.clearReg_sramServed (s : State) (off : Nat) : (s.clearReg off).sramServed = s.sramServed := rfl
@[simp] theorem State.clearReg_loadOp (s : State) (off : Nat) : (s.clearReg off).loadOp = s.loadOp := rfl
@[simp] theorem State.clearReg_images (s : State) (off : Nat) : (s.clearReg off).images = s.images := rfl
@[simp] theorem State.clearReg_timers (s : State) (off : Nat) : (s.clearReg off).timers = s.timers := rfl
@[simp] theorem State.clearReg_jobs (s : State) (off : Nat) : (s.clearReg off).jobs = s.jobs := rfl
@[simp] theorem State.clearReg_items (s : State) (off : Nat) : (s.clearReg off).items = s.items := rfl
@[simp] theorem State.clearReg_text (s : State) (off : Nat) : (s.clearReg off).text = s.text := rfl
@[simp] theorem State.clearReg_queues (s : State) (off : Nat) : (s.clearReg off).queues = s.queues := rfl
@[simp] theorem State.clearReg_cores (s : State) (off : Nat) : (s.clearReg off).cores = s.cores := rfl
@[simp] theorem State.clearReg_kennels (s : State) (off : Nat) : (s.clearReg off).kennels = s.kennels := rfl
@[simp] theorem State.clearReg_restarting (s : State) (off : Nat) : (s.clearReg off).restarting = s.restarting := rfl
@[simp] theorem State.clearReg_reloading (s : State) (off : Nat) : (s.clearReg off).reloading = s.reloading := rfl
@[simp] theorem State.clearReg_heel (s : State) (off : Nat) : (s.clearReg off).heel = s.heel := rfl
@[simp] theorem State.clearReg_contexts (s : State) (off : Nat) : (s.clearReg off).contexts = s.contexts := rfl
@[simp] theorem State.clearReg_msgIds (s : State) (off : Nat) : (s.clearReg off).msgIds = s.msgIds := rfl
@[simp] theorem State.clearReg_clock (s : State) (off : Nat) : (s.clearReg off).clock = s.clock := rfl
@[simp] theorem State.clearReg_ports (s : State) (off : Nat) : (s.clearReg off).ports = s.ports := rfl
@[simp] theorem State.clearReg_time (s : State) (off : Nat) : (s.clearReg off).time = s.time := rfl
@[simp] theorem State.clearReg_uptime (s : State) (off : Nat) : (s.clearReg off).uptime = s.uptime := rfl
@[simp] theorem State.clearReg_dma (s : State) (off : Nat) : (s.clearReg off).dma = s.dma := rfl
@[simp] theorem State.clearReg_pools (s : State) (off : Nat) : (s.clearReg off).pools = s.pools := rfl
@[simp] theorem State.clearReg_chk (s : State) (off : Nat) : (s.clearReg off).chk = s.chk := rfl
@[simp] theorem State.clearReg_bri (s : State) (off : Nat) : (s.clearReg off).bri = s.bri := rfl
@[simp] theorem State.clearReg_sram (s : State) (off : Nat) : (s.clearReg off).sram = s.sram := rfl
@[simp] theorem State.clearReg_dram (s : State) (off : Nat) : (s.clearReg off).dram = s.dram := rfl
@[simp] theorem State.clearReg_hostMem (s : State) (off : Nat) : (s.clearReg off).hostMem = s.hostMem := rfl
@[simp] theorem State.clearReg_store (s : State) (off : Nat) : (s.clearReg off).store = s.store := rfl
@[simp] theorem State.clearReg_fleet (s : State) (off : Nat) : (s.clearReg off).fleet = s.fleet := rfl
@[simp] theorem State.clearReg_security (s : State) (off : Nat) : (s.clearReg off).security = s.security := rfl
@[simp] theorem State.clearReg_sheep (s : State) (off : Nat) : (s.clearReg off).sheep = s.sheep := rfl

/-! ### State.clearRegs -/

@[simp] theorem State.clearRegs_pending (s : State) (lo hi : Nat) : (s.clearRegs lo hi).pending = s.pending := rfl
@[simp] theorem State.clearRegs_free (s : State) (lo hi : Nat) : (s.clearRegs lo hi).free = s.free := rfl
@[simp] theorem State.clearRegs_hostRead (s : State) (lo hi : Nat) : (s.clearRegs lo hi).hostRead = s.hostRead := rfl
@[simp] theorem State.clearRegs_regPend (s : State) (lo hi : Nat) : (s.clearRegs lo hi).regPend = s.regPend := rfl
@[simp] theorem State.clearRegs_part (s : State) (lo hi : Nat) : (s.clearRegs lo hi).part = s.part := rfl
@[simp] theorem State.clearRegs_board (s : State) (lo hi : Nat) : (s.clearRegs lo hi).board = s.board := rfl
@[simp] theorem State.clearRegs_retired (s : State) (lo hi : Nat) : (s.clearRegs lo hi).retired = s.retired := rfl
@[simp] theorem State.clearRegs_islands (s : State) (lo hi : Nat) : (s.clearRegs lo hi).islands = s.islands := rfl
@[simp] theorem State.clearRegs_hung (s : State) (lo hi : Nat) : (s.clearRegs lo hi).hung = s.hung := rfl
@[simp] theorem State.clearRegs_outOfService (s : State) (lo hi : Nat) : (s.clearRegs lo hi).outOfService = s.outOfService := rfl
@[simp] theorem State.clearRegs_claims (s : State) (lo hi : Nat) : (s.clearRegs lo hi).claims = s.claims := rfl
@[simp] theorem State.clearRegs_partition (s : State) (lo hi : Nat) : (s.clearRegs lo hi).partition = s.partition := rfl
@[simp] theorem State.clearRegs_served (s : State) (lo hi : Nat) : (s.clearRegs lo hi).served = s.served := rfl
@[simp] theorem State.clearRegs_sramServed (s : State) (lo hi : Nat) : (s.clearRegs lo hi).sramServed = s.sramServed := rfl
@[simp] theorem State.clearRegs_loadOp (s : State) (lo hi : Nat) : (s.clearRegs lo hi).loadOp = s.loadOp := rfl
@[simp] theorem State.clearRegs_images (s : State) (lo hi : Nat) : (s.clearRegs lo hi).images = s.images := rfl
@[simp] theorem State.clearRegs_timers (s : State) (lo hi : Nat) : (s.clearRegs lo hi).timers = s.timers := rfl
@[simp] theorem State.clearRegs_jobs (s : State) (lo hi : Nat) : (s.clearRegs lo hi).jobs = s.jobs := rfl
@[simp] theorem State.clearRegs_items (s : State) (lo hi : Nat) : (s.clearRegs lo hi).items = s.items := rfl
@[simp] theorem State.clearRegs_text (s : State) (lo hi : Nat) : (s.clearRegs lo hi).text = s.text := rfl
@[simp] theorem State.clearRegs_queues (s : State) (lo hi : Nat) : (s.clearRegs lo hi).queues = s.queues := rfl
@[simp] theorem State.clearRegs_cores (s : State) (lo hi : Nat) : (s.clearRegs lo hi).cores = s.cores := rfl
@[simp] theorem State.clearRegs_kennels (s : State) (lo hi : Nat) : (s.clearRegs lo hi).kennels = s.kennels := rfl
@[simp] theorem State.clearRegs_restarting (s : State) (lo hi : Nat) : (s.clearRegs lo hi).restarting = s.restarting := rfl
@[simp] theorem State.clearRegs_reloading (s : State) (lo hi : Nat) : (s.clearRegs lo hi).reloading = s.reloading := rfl
@[simp] theorem State.clearRegs_heel (s : State) (lo hi : Nat) : (s.clearRegs lo hi).heel = s.heel := rfl
@[simp] theorem State.clearRegs_contexts (s : State) (lo hi : Nat) : (s.clearRegs lo hi).contexts = s.contexts := rfl
@[simp] theorem State.clearRegs_msgIds (s : State) (lo hi : Nat) : (s.clearRegs lo hi).msgIds = s.msgIds := rfl
@[simp] theorem State.clearRegs_clock (s : State) (lo hi : Nat) : (s.clearRegs lo hi).clock = s.clock := rfl
@[simp] theorem State.clearRegs_ports (s : State) (lo hi : Nat) : (s.clearRegs lo hi).ports = s.ports := rfl
@[simp] theorem State.clearRegs_time (s : State) (lo hi : Nat) : (s.clearRegs lo hi).time = s.time := rfl
@[simp] theorem State.clearRegs_uptime (s : State) (lo hi : Nat) : (s.clearRegs lo hi).uptime = s.uptime := rfl
@[simp] theorem State.clearRegs_dma (s : State) (lo hi : Nat) : (s.clearRegs lo hi).dma = s.dma := rfl
@[simp] theorem State.clearRegs_pools (s : State) (lo hi : Nat) : (s.clearRegs lo hi).pools = s.pools := rfl
@[simp] theorem State.clearRegs_chk (s : State) (lo hi : Nat) : (s.clearRegs lo hi).chk = s.chk := rfl
@[simp] theorem State.clearRegs_bri (s : State) (lo hi : Nat) : (s.clearRegs lo hi).bri = s.bri := rfl
@[simp] theorem State.clearRegs_sram (s : State) (lo hi : Nat) : (s.clearRegs lo hi).sram = s.sram := rfl
@[simp] theorem State.clearRegs_dram (s : State) (lo hi : Nat) : (s.clearRegs lo hi).dram = s.dram := rfl
@[simp] theorem State.clearRegs_hostMem (s : State) (lo hi : Nat) : (s.clearRegs lo hi).hostMem = s.hostMem := rfl
@[simp] theorem State.clearRegs_store (s : State) (lo hi : Nat) : (s.clearRegs lo hi).store = s.store := rfl
@[simp] theorem State.clearRegs_fleet (s : State) (lo hi : Nat) : (s.clearRegs lo hi).fleet = s.fleet := rfl
@[simp] theorem State.clearRegs_security (s : State) (lo hi : Nat) : (s.clearRegs lo hi).security = s.security := rfl
@[simp] theorem State.clearRegs_sheep (s : State) (lo hi : Nat) : (s.clearRegs lo hi).sheep = s.sheep := rfl

/-! ### State.drew -/

@[simp] theorem State.drew_pending (s : State) : (s.drew).pending = s.pending := rfl
@[simp] theorem State.drew_hostRead (s : State) : (s.drew).hostRead = s.hostRead := rfl
@[simp] theorem State.drew_regs (s : State) : (s.drew).regs = s.regs := rfl
@[simp] theorem State.drew_regPend (s : State) : (s.drew).regPend = s.regPend := rfl
@[simp] theorem State.drew_part (s : State) : (s.drew).part = s.part := rfl
@[simp] theorem State.drew_board (s : State) : (s.drew).board = s.board := rfl
@[simp] theorem State.drew_retired (s : State) : (s.drew).retired = s.retired := rfl
@[simp] theorem State.drew_islands (s : State) : (s.drew).islands = s.islands := rfl
@[simp] theorem State.drew_hung (s : State) : (s.drew).hung = s.hung := rfl
@[simp] theorem State.drew_outOfService (s : State) : (s.drew).outOfService = s.outOfService := rfl
@[simp] theorem State.drew_claims (s : State) : (s.drew).claims = s.claims := rfl
@[simp] theorem State.drew_partition (s : State) : (s.drew).partition = s.partition := rfl
@[simp] theorem State.drew_served (s : State) : (s.drew).served = s.served := rfl
@[simp] theorem State.drew_sramServed (s : State) : (s.drew).sramServed = s.sramServed := rfl
@[simp] theorem State.drew_loadOp (s : State) : (s.drew).loadOp = s.loadOp := rfl
@[simp] theorem State.drew_images (s : State) : (s.drew).images = s.images := rfl
@[simp] theorem State.drew_timers (s : State) : (s.drew).timers = s.timers := rfl
@[simp] theorem State.drew_jobs (s : State) : (s.drew).jobs = s.jobs := rfl
@[simp] theorem State.drew_items (s : State) : (s.drew).items = s.items := rfl
@[simp] theorem State.drew_text (s : State) : (s.drew).text = s.text := rfl
@[simp] theorem State.drew_queues (s : State) : (s.drew).queues = s.queues := rfl
@[simp] theorem State.drew_cores (s : State) : (s.drew).cores = s.cores := rfl
@[simp] theorem State.drew_kennels (s : State) : (s.drew).kennels = s.kennels := rfl
@[simp] theorem State.drew_restarting (s : State) : (s.drew).restarting = s.restarting := rfl
@[simp] theorem State.drew_reloading (s : State) : (s.drew).reloading = s.reloading := rfl
@[simp] theorem State.drew_heel (s : State) : (s.drew).heel = s.heel := rfl
@[simp] theorem State.drew_contexts (s : State) : (s.drew).contexts = s.contexts := rfl
@[simp] theorem State.drew_msgIds (s : State) : (s.drew).msgIds = s.msgIds := rfl
@[simp] theorem State.drew_clock (s : State) : (s.drew).clock = s.clock := rfl
@[simp] theorem State.drew_ports (s : State) : (s.drew).ports = s.ports := rfl
@[simp] theorem State.drew_time (s : State) : (s.drew).time = s.time := rfl
@[simp] theorem State.drew_uptime (s : State) : (s.drew).uptime = s.uptime := rfl
@[simp] theorem State.drew_dma (s : State) : (s.drew).dma = s.dma := rfl
@[simp] theorem State.drew_pools (s : State) : (s.drew).pools = s.pools := rfl
@[simp] theorem State.drew_chk (s : State) : (s.drew).chk = s.chk := rfl
@[simp] theorem State.drew_bri (s : State) : (s.drew).bri = s.bri := rfl
@[simp] theorem State.drew_sram (s : State) : (s.drew).sram = s.sram := rfl
@[simp] theorem State.drew_dram (s : State) : (s.drew).dram = s.dram := rfl
@[simp] theorem State.drew_hostMem (s : State) : (s.drew).hostMem = s.hostMem := rfl
@[simp] theorem State.drew_store (s : State) : (s.drew).store = s.store := rfl
@[simp] theorem State.drew_fleet (s : State) : (s.drew).fleet = s.fleet := rfl
@[simp] theorem State.drew_security (s : State) : (s.drew).security = s.security := rfl
@[simp] theorem State.drew_sheep (s : State) : (s.drew).sheep = s.sheep := rfl

/-! ### State.raise -/

@[simp] theorem State.raise_pending (s : State) (v : Nat) : (s.raise v).pending = s.pending := rfl
@[simp] theorem State.raise_free (s : State) (v : Nat) : (s.raise v).free = s.free := rfl
@[simp] theorem State.raise_hostRead (s : State) (v : Nat) : (s.raise v).hostRead = s.hostRead := rfl
@[simp] theorem State.raise_regs (s : State) (v : Nat) : (s.raise v).regs = s.regs := rfl
@[simp] theorem State.raise_regPend (s : State) (v : Nat) : (s.raise v).regPend = s.regPend := rfl
@[simp] theorem State.raise_part (s : State) (v : Nat) : (s.raise v).part = s.part := rfl
@[simp] theorem State.raise_retired (s : State) (v : Nat) : (s.raise v).retired = s.retired := rfl
@[simp] theorem State.raise_islands (s : State) (v : Nat) : (s.raise v).islands = s.islands := rfl
@[simp] theorem State.raise_hung (s : State) (v : Nat) : (s.raise v).hung = s.hung := rfl
@[simp] theorem State.raise_outOfService (s : State) (v : Nat) : (s.raise v).outOfService = s.outOfService := rfl
@[simp] theorem State.raise_claims (s : State) (v : Nat) : (s.raise v).claims = s.claims := rfl
@[simp] theorem State.raise_partition (s : State) (v : Nat) : (s.raise v).partition = s.partition := rfl
@[simp] theorem State.raise_served (s : State) (v : Nat) : (s.raise v).served = s.served := rfl
@[simp] theorem State.raise_sramServed (s : State) (v : Nat) : (s.raise v).sramServed = s.sramServed := rfl
@[simp] theorem State.raise_loadOp (s : State) (v : Nat) : (s.raise v).loadOp = s.loadOp := rfl
@[simp] theorem State.raise_images (s : State) (v : Nat) : (s.raise v).images = s.images := rfl
@[simp] theorem State.raise_timers (s : State) (v : Nat) : (s.raise v).timers = s.timers := rfl
@[simp] theorem State.raise_jobs (s : State) (v : Nat) : (s.raise v).jobs = s.jobs := rfl
@[simp] theorem State.raise_items (s : State) (v : Nat) : (s.raise v).items = s.items := rfl
@[simp] theorem State.raise_text (s : State) (v : Nat) : (s.raise v).text = s.text := rfl
@[simp] theorem State.raise_queues (s : State) (v : Nat) : (s.raise v).queues = s.queues := rfl
@[simp] theorem State.raise_cores (s : State) (v : Nat) : (s.raise v).cores = s.cores := rfl
@[simp] theorem State.raise_kennels (s : State) (v : Nat) : (s.raise v).kennels = s.kennels := rfl
@[simp] theorem State.raise_restarting (s : State) (v : Nat) : (s.raise v).restarting = s.restarting := rfl
@[simp] theorem State.raise_reloading (s : State) (v : Nat) : (s.raise v).reloading = s.reloading := rfl
@[simp] theorem State.raise_heel (s : State) (v : Nat) : (s.raise v).heel = s.heel := rfl
@[simp] theorem State.raise_contexts (s : State) (v : Nat) : (s.raise v).contexts = s.contexts := rfl
@[simp] theorem State.raise_msgIds (s : State) (v : Nat) : (s.raise v).msgIds = s.msgIds := rfl
@[simp] theorem State.raise_clock (s : State) (v : Nat) : (s.raise v).clock = s.clock := rfl
@[simp] theorem State.raise_ports (s : State) (v : Nat) : (s.raise v).ports = s.ports := rfl
@[simp] theorem State.raise_time (s : State) (v : Nat) : (s.raise v).time = s.time := rfl
@[simp] theorem State.raise_uptime (s : State) (v : Nat) : (s.raise v).uptime = s.uptime := rfl
@[simp] theorem State.raise_dma (s : State) (v : Nat) : (s.raise v).dma = s.dma := rfl
@[simp] theorem State.raise_pools (s : State) (v : Nat) : (s.raise v).pools = s.pools := rfl
@[simp] theorem State.raise_chk (s : State) (v : Nat) : (s.raise v).chk = s.chk := rfl
@[simp] theorem State.raise_bri (s : State) (v : Nat) : (s.raise v).bri = s.bri := rfl
@[simp] theorem State.raise_sram (s : State) (v : Nat) : (s.raise v).sram = s.sram := rfl
@[simp] theorem State.raise_dram (s : State) (v : Nat) : (s.raise v).dram = s.dram := rfl
@[simp] theorem State.raise_hostMem (s : State) (v : Nat) : (s.raise v).hostMem = s.hostMem := rfl
@[simp] theorem State.raise_store (s : State) (v : Nat) : (s.raise v).store = s.store := rfl
@[simp] theorem State.raise_fleet (s : State) (v : Nat) : (s.raise v).fleet = s.fleet := rfl
@[simp] theorem State.raise_security (s : State) (v : Nat) : (s.raise v).security = s.security := rfl
@[simp] theorem State.raise_sheep (s : State) (v : Nat) : (s.raise v).sheep = s.sheep := rfl

/-! ### State.addClaim -/

@[simp] theorem State.addClaim_pending (s : State) (r i o : Nat) : (s.addClaim r i o).pending = s.pending := rfl
@[simp] theorem State.addClaim_free (s : State) (r i o : Nat) : (s.addClaim r i o).free = s.free := rfl
@[simp] theorem State.addClaim_hostRead (s : State) (r i o : Nat) : (s.addClaim r i o).hostRead = s.hostRead := rfl
@[simp] theorem State.addClaim_regs (s : State) (r i o : Nat) : (s.addClaim r i o).regs = s.regs := rfl
@[simp] theorem State.addClaim_regPend (s : State) (r i o : Nat) : (s.addClaim r i o).regPend = s.regPend := rfl
@[simp] theorem State.addClaim_part (s : State) (r i o : Nat) : (s.addClaim r i o).part = s.part := rfl
@[simp] theorem State.addClaim_board (s : State) (r i o : Nat) : (s.addClaim r i o).board = s.board := rfl
@[simp] theorem State.addClaim_retired (s : State) (r i o : Nat) : (s.addClaim r i o).retired = s.retired := rfl
@[simp] theorem State.addClaim_islands (s : State) (r i o : Nat) : (s.addClaim r i o).islands = s.islands := rfl
@[simp] theorem State.addClaim_hung (s : State) (r i o : Nat) : (s.addClaim r i o).hung = s.hung := rfl
@[simp] theorem State.addClaim_outOfService (s : State) (r i o : Nat) : (s.addClaim r i o).outOfService = s.outOfService := rfl
@[simp] theorem State.addClaim_partition (s : State) (r i o : Nat) : (s.addClaim r i o).partition = s.partition := rfl
@[simp] theorem State.addClaim_served (s : State) (r i o : Nat) : (s.addClaim r i o).served = s.served := rfl
@[simp] theorem State.addClaim_sramServed (s : State) (r i o : Nat) : (s.addClaim r i o).sramServed = s.sramServed := rfl
@[simp] theorem State.addClaim_loadOp (s : State) (r i o : Nat) : (s.addClaim r i o).loadOp = s.loadOp := rfl
@[simp] theorem State.addClaim_images (s : State) (r i o : Nat) : (s.addClaim r i o).images = s.images := rfl
@[simp] theorem State.addClaim_timers (s : State) (r i o : Nat) : (s.addClaim r i o).timers = s.timers := rfl
@[simp] theorem State.addClaim_jobs (s : State) (r i o : Nat) : (s.addClaim r i o).jobs = s.jobs := rfl
@[simp] theorem State.addClaim_items (s : State) (r i o : Nat) : (s.addClaim r i o).items = s.items := rfl
@[simp] theorem State.addClaim_text (s : State) (r i o : Nat) : (s.addClaim r i o).text = s.text := rfl
@[simp] theorem State.addClaim_queues (s : State) (r i o : Nat) : (s.addClaim r i o).queues = s.queues := rfl
@[simp] theorem State.addClaim_cores (s : State) (r i o : Nat) : (s.addClaim r i o).cores = s.cores := rfl
@[simp] theorem State.addClaim_kennels (s : State) (r i o : Nat) : (s.addClaim r i o).kennels = s.kennels := rfl
@[simp] theorem State.addClaim_restarting (s : State) (r i o : Nat) : (s.addClaim r i o).restarting = s.restarting := rfl
@[simp] theorem State.addClaim_reloading (s : State) (r i o : Nat) : (s.addClaim r i o).reloading = s.reloading := rfl
@[simp] theorem State.addClaim_heel (s : State) (r i o : Nat) : (s.addClaim r i o).heel = s.heel := rfl
@[simp] theorem State.addClaim_contexts (s : State) (r i o : Nat) : (s.addClaim r i o).contexts = s.contexts := rfl
@[simp] theorem State.addClaim_msgIds (s : State) (r i o : Nat) : (s.addClaim r i o).msgIds = s.msgIds := rfl
@[simp] theorem State.addClaim_clock (s : State) (r i o : Nat) : (s.addClaim r i o).clock = s.clock := rfl
@[simp] theorem State.addClaim_ports (s : State) (r i o : Nat) : (s.addClaim r i o).ports = s.ports := rfl
@[simp] theorem State.addClaim_time (s : State) (r i o : Nat) : (s.addClaim r i o).time = s.time := rfl
@[simp] theorem State.addClaim_uptime (s : State) (r i o : Nat) : (s.addClaim r i o).uptime = s.uptime := rfl
@[simp] theorem State.addClaim_dma (s : State) (r i o : Nat) : (s.addClaim r i o).dma = s.dma := rfl
@[simp] theorem State.addClaim_pools (s : State) (r i o : Nat) : (s.addClaim r i o).pools = s.pools := rfl
@[simp] theorem State.addClaim_chk (s : State) (r i o : Nat) : (s.addClaim r i o).chk = s.chk := rfl
@[simp] theorem State.addClaim_bri (s : State) (r i o : Nat) : (s.addClaim r i o).bri = s.bri := rfl
@[simp] theorem State.addClaim_sram (s : State) (r i o : Nat) : (s.addClaim r i o).sram = s.sram := rfl
@[simp] theorem State.addClaim_dram (s : State) (r i o : Nat) : (s.addClaim r i o).dram = s.dram := rfl
@[simp] theorem State.addClaim_hostMem (s : State) (r i o : Nat) : (s.addClaim r i o).hostMem = s.hostMem := rfl
@[simp] theorem State.addClaim_store (s : State) (r i o : Nat) : (s.addClaim r i o).store = s.store := rfl
@[simp] theorem State.addClaim_fleet (s : State) (r i o : Nat) : (s.addClaim r i o).fleet = s.fleet := rfl
@[simp] theorem State.addClaim_security (s : State) (r i o : Nat) : (s.addClaim r i o).security = s.security := rfl
@[simp] theorem State.addClaim_sheep (s : State) (r i o : Nat) : (s.addClaim r i o).sheep = s.sheep := rfl

/-! ### State.dropClaim -/

@[simp] theorem State.dropClaim_pending (s : State) (r i o : Nat) : (s.dropClaim r i o).pending = s.pending := rfl
@[simp] theorem State.dropClaim_free (s : State) (r i o : Nat) : (s.dropClaim r i o).free = s.free := rfl
@[simp] theorem State.dropClaim_hostRead (s : State) (r i o : Nat) : (s.dropClaim r i o).hostRead = s.hostRead := rfl
@[simp] theorem State.dropClaim_regs (s : State) (r i o : Nat) : (s.dropClaim r i o).regs = s.regs := rfl
@[simp] theorem State.dropClaim_regPend (s : State) (r i o : Nat) : (s.dropClaim r i o).regPend = s.regPend := rfl
@[simp] theorem State.dropClaim_part (s : State) (r i o : Nat) : (s.dropClaim r i o).part = s.part := rfl
@[simp] theorem State.dropClaim_board (s : State) (r i o : Nat) : (s.dropClaim r i o).board = s.board := rfl
@[simp] theorem State.dropClaim_retired (s : State) (r i o : Nat) : (s.dropClaim r i o).retired = s.retired := rfl
@[simp] theorem State.dropClaim_islands (s : State) (r i o : Nat) : (s.dropClaim r i o).islands = s.islands := rfl
@[simp] theorem State.dropClaim_hung (s : State) (r i o : Nat) : (s.dropClaim r i o).hung = s.hung := rfl
@[simp] theorem State.dropClaim_outOfService (s : State) (r i o : Nat) : (s.dropClaim r i o).outOfService = s.outOfService := rfl
@[simp] theorem State.dropClaim_partition (s : State) (r i o : Nat) : (s.dropClaim r i o).partition = s.partition := rfl
@[simp] theorem State.dropClaim_served (s : State) (r i o : Nat) : (s.dropClaim r i o).served = s.served := rfl
@[simp] theorem State.dropClaim_sramServed (s : State) (r i o : Nat) : (s.dropClaim r i o).sramServed = s.sramServed := rfl
@[simp] theorem State.dropClaim_loadOp (s : State) (r i o : Nat) : (s.dropClaim r i o).loadOp = s.loadOp := rfl
@[simp] theorem State.dropClaim_images (s : State) (r i o : Nat) : (s.dropClaim r i o).images = s.images := rfl
@[simp] theorem State.dropClaim_timers (s : State) (r i o : Nat) : (s.dropClaim r i o).timers = s.timers := rfl
@[simp] theorem State.dropClaim_jobs (s : State) (r i o : Nat) : (s.dropClaim r i o).jobs = s.jobs := rfl
@[simp] theorem State.dropClaim_items (s : State) (r i o : Nat) : (s.dropClaim r i o).items = s.items := rfl
@[simp] theorem State.dropClaim_text (s : State) (r i o : Nat) : (s.dropClaim r i o).text = s.text := rfl
@[simp] theorem State.dropClaim_queues (s : State) (r i o : Nat) : (s.dropClaim r i o).queues = s.queues := rfl
@[simp] theorem State.dropClaim_cores (s : State) (r i o : Nat) : (s.dropClaim r i o).cores = s.cores := rfl
@[simp] theorem State.dropClaim_kennels (s : State) (r i o : Nat) : (s.dropClaim r i o).kennels = s.kennels := rfl
@[simp] theorem State.dropClaim_restarting (s : State) (r i o : Nat) : (s.dropClaim r i o).restarting = s.restarting := rfl
@[simp] theorem State.dropClaim_reloading (s : State) (r i o : Nat) : (s.dropClaim r i o).reloading = s.reloading := rfl
@[simp] theorem State.dropClaim_heel (s : State) (r i o : Nat) : (s.dropClaim r i o).heel = s.heel := rfl
@[simp] theorem State.dropClaim_contexts (s : State) (r i o : Nat) : (s.dropClaim r i o).contexts = s.contexts := rfl
@[simp] theorem State.dropClaim_msgIds (s : State) (r i o : Nat) : (s.dropClaim r i o).msgIds = s.msgIds := rfl
@[simp] theorem State.dropClaim_clock (s : State) (r i o : Nat) : (s.dropClaim r i o).clock = s.clock := rfl
@[simp] theorem State.dropClaim_ports (s : State) (r i o : Nat) : (s.dropClaim r i o).ports = s.ports := rfl
@[simp] theorem State.dropClaim_time (s : State) (r i o : Nat) : (s.dropClaim r i o).time = s.time := rfl
@[simp] theorem State.dropClaim_uptime (s : State) (r i o : Nat) : (s.dropClaim r i o).uptime = s.uptime := rfl
@[simp] theorem State.dropClaim_dma (s : State) (r i o : Nat) : (s.dropClaim r i o).dma = s.dma := rfl
@[simp] theorem State.dropClaim_pools (s : State) (r i o : Nat) : (s.dropClaim r i o).pools = s.pools := rfl
@[simp] theorem State.dropClaim_chk (s : State) (r i o : Nat) : (s.dropClaim r i o).chk = s.chk := rfl
@[simp] theorem State.dropClaim_bri (s : State) (r i o : Nat) : (s.dropClaim r i o).bri = s.bri := rfl
@[simp] theorem State.dropClaim_sram (s : State) (r i o : Nat) : (s.dropClaim r i o).sram = s.sram := rfl
@[simp] theorem State.dropClaim_dram (s : State) (r i o : Nat) : (s.dropClaim r i o).dram = s.dram := rfl
@[simp] theorem State.dropClaim_hostMem (s : State) (r i o : Nat) : (s.dropClaim r i o).hostMem = s.hostMem := rfl
@[simp] theorem State.dropClaim_store (s : State) (r i o : Nat) : (s.dropClaim r i o).store = s.store := rfl
@[simp] theorem State.dropClaim_fleet (s : State) (r i o : Nat) : (s.dropClaim r i o).fleet = s.fleet := rfl
@[simp] theorem State.dropClaim_security (s : State) (r i o : Nat) : (s.dropClaim r i o).security = s.security := rfl
@[simp] theorem State.dropClaim_sheep (s : State) (r i o : Nat) : (s.dropClaim r i o).sheep = s.sheep := rfl

/-! ### State.adjustJob -/

@[simp] theorem State.adjustJob_pending (s : State) (n : Nat) (f : Job → Job) : (s.adjustJob n f).pending = s.pending := rfl
@[simp] theorem State.adjustJob_free (s : State) (n : Nat) (f : Job → Job) : (s.adjustJob n f).free = s.free := rfl
@[simp] theorem State.adjustJob_hostRead (s : State) (n : Nat) (f : Job → Job) : (s.adjustJob n f).hostRead = s.hostRead := rfl
@[simp] theorem State.adjustJob_regs (s : State) (n : Nat) (f : Job → Job) : (s.adjustJob n f).regs = s.regs := rfl
@[simp] theorem State.adjustJob_regPend (s : State) (n : Nat) (f : Job → Job) : (s.adjustJob n f).regPend = s.regPend := rfl
@[simp] theorem State.adjustJob_part (s : State) (n : Nat) (f : Job → Job) : (s.adjustJob n f).part = s.part := rfl
@[simp] theorem State.adjustJob_board (s : State) (n : Nat) (f : Job → Job) : (s.adjustJob n f).board = s.board := rfl
@[simp] theorem State.adjustJob_retired (s : State) (n : Nat) (f : Job → Job) : (s.adjustJob n f).retired = s.retired := rfl
@[simp] theorem State.adjustJob_islands (s : State) (n : Nat) (f : Job → Job) : (s.adjustJob n f).islands = s.islands := rfl
@[simp] theorem State.adjustJob_hung (s : State) (n : Nat) (f : Job → Job) : (s.adjustJob n f).hung = s.hung := rfl
@[simp] theorem State.adjustJob_outOfService (s : State) (n : Nat) (f : Job → Job) : (s.adjustJob n f).outOfService = s.outOfService := rfl
@[simp] theorem State.adjustJob_claims (s : State) (n : Nat) (f : Job → Job) : (s.adjustJob n f).claims = s.claims := rfl
@[simp] theorem State.adjustJob_partition (s : State) (n : Nat) (f : Job → Job) : (s.adjustJob n f).partition = s.partition := rfl
@[simp] theorem State.adjustJob_served (s : State) (n : Nat) (f : Job → Job) : (s.adjustJob n f).served = s.served := rfl
@[simp] theorem State.adjustJob_sramServed (s : State) (n : Nat) (f : Job → Job) : (s.adjustJob n f).sramServed = s.sramServed := rfl
@[simp] theorem State.adjustJob_loadOp (s : State) (n : Nat) (f : Job → Job) : (s.adjustJob n f).loadOp = s.loadOp := rfl
@[simp] theorem State.adjustJob_images (s : State) (n : Nat) (f : Job → Job) : (s.adjustJob n f).images = s.images := rfl
@[simp] theorem State.adjustJob_timers (s : State) (n : Nat) (f : Job → Job) : (s.adjustJob n f).timers = s.timers := rfl
@[simp] theorem State.adjustJob_items (s : State) (n : Nat) (f : Job → Job) : (s.adjustJob n f).items = s.items := rfl
@[simp] theorem State.adjustJob_text (s : State) (n : Nat) (f : Job → Job) : (s.adjustJob n f).text = s.text := rfl
@[simp] theorem State.adjustJob_queues (s : State) (n : Nat) (f : Job → Job) : (s.adjustJob n f).queues = s.queues := rfl
@[simp] theorem State.adjustJob_cores (s : State) (n : Nat) (f : Job → Job) : (s.adjustJob n f).cores = s.cores := rfl
@[simp] theorem State.adjustJob_kennels (s : State) (n : Nat) (f : Job → Job) : (s.adjustJob n f).kennels = s.kennels := rfl
@[simp] theorem State.adjustJob_restarting (s : State) (n : Nat) (f : Job → Job) : (s.adjustJob n f).restarting = s.restarting := rfl
@[simp] theorem State.adjustJob_reloading (s : State) (n : Nat) (f : Job → Job) : (s.adjustJob n f).reloading = s.reloading := rfl
@[simp] theorem State.adjustJob_heel (s : State) (n : Nat) (f : Job → Job) : (s.adjustJob n f).heel = s.heel := rfl
@[simp] theorem State.adjustJob_contexts (s : State) (n : Nat) (f : Job → Job) : (s.adjustJob n f).contexts = s.contexts := rfl
@[simp] theorem State.adjustJob_msgIds (s : State) (n : Nat) (f : Job → Job) : (s.adjustJob n f).msgIds = s.msgIds := rfl
@[simp] theorem State.adjustJob_clock (s : State) (n : Nat) (f : Job → Job) : (s.adjustJob n f).clock = s.clock := rfl
@[simp] theorem State.adjustJob_ports (s : State) (n : Nat) (f : Job → Job) : (s.adjustJob n f).ports = s.ports := rfl
@[simp] theorem State.adjustJob_time (s : State) (n : Nat) (f : Job → Job) : (s.adjustJob n f).time = s.time := rfl
@[simp] theorem State.adjustJob_uptime (s : State) (n : Nat) (f : Job → Job) : (s.adjustJob n f).uptime = s.uptime := rfl
@[simp] theorem State.adjustJob_dma (s : State) (n : Nat) (f : Job → Job) : (s.adjustJob n f).dma = s.dma := rfl
@[simp] theorem State.adjustJob_pools (s : State) (n : Nat) (f : Job → Job) : (s.adjustJob n f).pools = s.pools := rfl
@[simp] theorem State.adjustJob_chk (s : State) (n : Nat) (f : Job → Job) : (s.adjustJob n f).chk = s.chk := rfl
@[simp] theorem State.adjustJob_bri (s : State) (n : Nat) (f : Job → Job) : (s.adjustJob n f).bri = s.bri := rfl
@[simp] theorem State.adjustJob_sram (s : State) (n : Nat) (f : Job → Job) : (s.adjustJob n f).sram = s.sram := rfl
@[simp] theorem State.adjustJob_dram (s : State) (n : Nat) (f : Job → Job) : (s.adjustJob n f).dram = s.dram := rfl
@[simp] theorem State.adjustJob_hostMem (s : State) (n : Nat) (f : Job → Job) : (s.adjustJob n f).hostMem = s.hostMem := rfl
@[simp] theorem State.adjustJob_store (s : State) (n : Nat) (f : Job → Job) : (s.adjustJob n f).store = s.store := rfl
@[simp] theorem State.adjustJob_fleet (s : State) (n : Nat) (f : Job → Job) : (s.adjustJob n f).fleet = s.fleet := rfl
@[simp] theorem State.adjustJob_security (s : State) (n : Nat) (f : Job → Job) : (s.adjustJob n f).security = s.security := rfl
@[simp] theorem State.adjustJob_sheep (s : State) (n : Nat) (f : Job → Job) : (s.adjustJob n f).sheep = s.sheep := rfl

/-! ### State.setCore -/

@[simp] theorem State.setCore_pending (s : State) (c : Nat) (x : Core) : (s.setCore c x).pending = s.pending := rfl
@[simp] theorem State.setCore_free (s : State) (c : Nat) (x : Core) : (s.setCore c x).free = s.free := rfl
@[simp] theorem State.setCore_hostRead (s : State) (c : Nat) (x : Core) : (s.setCore c x).hostRead = s.hostRead := rfl
@[simp] theorem State.setCore_regs (s : State) (c : Nat) (x : Core) : (s.setCore c x).regs = s.regs := rfl
@[simp] theorem State.setCore_regPend (s : State) (c : Nat) (x : Core) : (s.setCore c x).regPend = s.regPend := rfl
@[simp] theorem State.setCore_part (s : State) (c : Nat) (x : Core) : (s.setCore c x).part = s.part := rfl
@[simp] theorem State.setCore_board (s : State) (c : Nat) (x : Core) : (s.setCore c x).board = s.board := rfl
@[simp] theorem State.setCore_retired (s : State) (c : Nat) (x : Core) : (s.setCore c x).retired = s.retired := rfl
@[simp] theorem State.setCore_islands (s : State) (c : Nat) (x : Core) : (s.setCore c x).islands = s.islands := rfl
@[simp] theorem State.setCore_hung (s : State) (c : Nat) (x : Core) : (s.setCore c x).hung = s.hung := rfl
@[simp] theorem State.setCore_outOfService (s : State) (c : Nat) (x : Core) : (s.setCore c x).outOfService = s.outOfService := rfl
@[simp] theorem State.setCore_claims (s : State) (c : Nat) (x : Core) : (s.setCore c x).claims = s.claims := rfl
@[simp] theorem State.setCore_partition (s : State) (c : Nat) (x : Core) : (s.setCore c x).partition = s.partition := rfl
@[simp] theorem State.setCore_served (s : State) (c : Nat) (x : Core) : (s.setCore c x).served = s.served := rfl
@[simp] theorem State.setCore_sramServed (s : State) (c : Nat) (x : Core) : (s.setCore c x).sramServed = s.sramServed := rfl
@[simp] theorem State.setCore_loadOp (s : State) (c : Nat) (x : Core) : (s.setCore c x).loadOp = s.loadOp := rfl
@[simp] theorem State.setCore_images (s : State) (c : Nat) (x : Core) : (s.setCore c x).images = s.images := rfl
@[simp] theorem State.setCore_timers (s : State) (c : Nat) (x : Core) : (s.setCore c x).timers = s.timers := rfl
@[simp] theorem State.setCore_jobs (s : State) (c : Nat) (x : Core) : (s.setCore c x).jobs = s.jobs := rfl
@[simp] theorem State.setCore_items (s : State) (c : Nat) (x : Core) : (s.setCore c x).items = s.items := rfl
@[simp] theorem State.setCore_text (s : State) (c : Nat) (x : Core) : (s.setCore c x).text = s.text := rfl
@[simp] theorem State.setCore_queues (s : State) (c : Nat) (x : Core) : (s.setCore c x).queues = s.queues := rfl
@[simp] theorem State.setCore_kennels (s : State) (c : Nat) (x : Core) : (s.setCore c x).kennels = s.kennels := rfl
@[simp] theorem State.setCore_restarting (s : State) (c : Nat) (x : Core) : (s.setCore c x).restarting = s.restarting := rfl
@[simp] theorem State.setCore_reloading (s : State) (c : Nat) (x : Core) : (s.setCore c x).reloading = s.reloading := rfl
@[simp] theorem State.setCore_heel (s : State) (c : Nat) (x : Core) : (s.setCore c x).heel = s.heel := rfl
@[simp] theorem State.setCore_contexts (s : State) (c : Nat) (x : Core) : (s.setCore c x).contexts = s.contexts := rfl
@[simp] theorem State.setCore_msgIds (s : State) (c : Nat) (x : Core) : (s.setCore c x).msgIds = s.msgIds := rfl
@[simp] theorem State.setCore_clock (s : State) (c : Nat) (x : Core) : (s.setCore c x).clock = s.clock := rfl
@[simp] theorem State.setCore_ports (s : State) (c : Nat) (x : Core) : (s.setCore c x).ports = s.ports := rfl
@[simp] theorem State.setCore_time (s : State) (c : Nat) (x : Core) : (s.setCore c x).time = s.time := rfl
@[simp] theorem State.setCore_uptime (s : State) (c : Nat) (x : Core) : (s.setCore c x).uptime = s.uptime := rfl
@[simp] theorem State.setCore_dma (s : State) (c : Nat) (x : Core) : (s.setCore c x).dma = s.dma := rfl
@[simp] theorem State.setCore_pools (s : State) (c : Nat) (x : Core) : (s.setCore c x).pools = s.pools := rfl
@[simp] theorem State.setCore_chk (s : State) (c : Nat) (x : Core) : (s.setCore c x).chk = s.chk := rfl
@[simp] theorem State.setCore_bri (s : State) (c : Nat) (x : Core) : (s.setCore c x).bri = s.bri := rfl
@[simp] theorem State.setCore_sram (s : State) (c : Nat) (x : Core) : (s.setCore c x).sram = s.sram := rfl
@[simp] theorem State.setCore_dram (s : State) (c : Nat) (x : Core) : (s.setCore c x).dram = s.dram := rfl
@[simp] theorem State.setCore_hostMem (s : State) (c : Nat) (x : Core) : (s.setCore c x).hostMem = s.hostMem := rfl
@[simp] theorem State.setCore_store (s : State) (c : Nat) (x : Core) : (s.setCore c x).store = s.store := rfl
@[simp] theorem State.setCore_fleet (s : State) (c : Nat) (x : Core) : (s.setCore c x).fleet = s.fleet := rfl
@[simp] theorem State.setCore_security (s : State) (c : Nat) (x : Core) : (s.setCore c x).security = s.security := rfl
@[simp] theorem State.setCore_sheep (s : State) (c : Nat) (x : Core) : (s.setCore c x).sheep = s.sheep := rfl

/-! ### State.setKennel -/

@[simp] theorem State.setKennel_pending (s : State) (k : Nat) (x : Kennel) : (s.setKennel k x).pending = s.pending := rfl
@[simp] theorem State.setKennel_free (s : State) (k : Nat) (x : Kennel) : (s.setKennel k x).free = s.free := rfl
@[simp] theorem State.setKennel_hostRead (s : State) (k : Nat) (x : Kennel) : (s.setKennel k x).hostRead = s.hostRead := rfl
@[simp] theorem State.setKennel_regs (s : State) (k : Nat) (x : Kennel) : (s.setKennel k x).regs = s.regs := rfl
@[simp] theorem State.setKennel_regPend (s : State) (k : Nat) (x : Kennel) : (s.setKennel k x).regPend = s.regPend := rfl
@[simp] theorem State.setKennel_part (s : State) (k : Nat) (x : Kennel) : (s.setKennel k x).part = s.part := rfl
@[simp] theorem State.setKennel_board (s : State) (k : Nat) (x : Kennel) : (s.setKennel k x).board = s.board := rfl
@[simp] theorem State.setKennel_retired (s : State) (k : Nat) (x : Kennel) : (s.setKennel k x).retired = s.retired := rfl
@[simp] theorem State.setKennel_islands (s : State) (k : Nat) (x : Kennel) : (s.setKennel k x).islands = s.islands := rfl
@[simp] theorem State.setKennel_hung (s : State) (k : Nat) (x : Kennel) : (s.setKennel k x).hung = s.hung := rfl
@[simp] theorem State.setKennel_outOfService (s : State) (k : Nat) (x : Kennel) : (s.setKennel k x).outOfService = s.outOfService := rfl
@[simp] theorem State.setKennel_claims (s : State) (k : Nat) (x : Kennel) : (s.setKennel k x).claims = s.claims := rfl
@[simp] theorem State.setKennel_partition (s : State) (k : Nat) (x : Kennel) : (s.setKennel k x).partition = s.partition := rfl
@[simp] theorem State.setKennel_served (s : State) (k : Nat) (x : Kennel) : (s.setKennel k x).served = s.served := rfl
@[simp] theorem State.setKennel_sramServed (s : State) (k : Nat) (x : Kennel) : (s.setKennel k x).sramServed = s.sramServed := rfl
@[simp] theorem State.setKennel_loadOp (s : State) (k : Nat) (x : Kennel) : (s.setKennel k x).loadOp = s.loadOp := rfl
@[simp] theorem State.setKennel_images (s : State) (k : Nat) (x : Kennel) : (s.setKennel k x).images = s.images := rfl
@[simp] theorem State.setKennel_timers (s : State) (k : Nat) (x : Kennel) : (s.setKennel k x).timers = s.timers := rfl
@[simp] theorem State.setKennel_jobs (s : State) (k : Nat) (x : Kennel) : (s.setKennel k x).jobs = s.jobs := rfl
@[simp] theorem State.setKennel_items (s : State) (k : Nat) (x : Kennel) : (s.setKennel k x).items = s.items := rfl
@[simp] theorem State.setKennel_text (s : State) (k : Nat) (x : Kennel) : (s.setKennel k x).text = s.text := rfl
@[simp] theorem State.setKennel_queues (s : State) (k : Nat) (x : Kennel) : (s.setKennel k x).queues = s.queues := rfl
@[simp] theorem State.setKennel_cores (s : State) (k : Nat) (x : Kennel) : (s.setKennel k x).cores = s.cores := rfl
@[simp] theorem State.setKennel_restarting (s : State) (k : Nat) (x : Kennel) : (s.setKennel k x).restarting = s.restarting := rfl
@[simp] theorem State.setKennel_reloading (s : State) (k : Nat) (x : Kennel) : (s.setKennel k x).reloading = s.reloading := rfl
@[simp] theorem State.setKennel_heel (s : State) (k : Nat) (x : Kennel) : (s.setKennel k x).heel = s.heel := rfl
@[simp] theorem State.setKennel_contexts (s : State) (k : Nat) (x : Kennel) : (s.setKennel k x).contexts = s.contexts := rfl
@[simp] theorem State.setKennel_msgIds (s : State) (k : Nat) (x : Kennel) : (s.setKennel k x).msgIds = s.msgIds := rfl
@[simp] theorem State.setKennel_clock (s : State) (k : Nat) (x : Kennel) : (s.setKennel k x).clock = s.clock := rfl
@[simp] theorem State.setKennel_ports (s : State) (k : Nat) (x : Kennel) : (s.setKennel k x).ports = s.ports := rfl
@[simp] theorem State.setKennel_time (s : State) (k : Nat) (x : Kennel) : (s.setKennel k x).time = s.time := rfl
@[simp] theorem State.setKennel_uptime (s : State) (k : Nat) (x : Kennel) : (s.setKennel k x).uptime = s.uptime := rfl
@[simp] theorem State.setKennel_dma (s : State) (k : Nat) (x : Kennel) : (s.setKennel k x).dma = s.dma := rfl
@[simp] theorem State.setKennel_pools (s : State) (k : Nat) (x : Kennel) : (s.setKennel k x).pools = s.pools := rfl
@[simp] theorem State.setKennel_chk (s : State) (k : Nat) (x : Kennel) : (s.setKennel k x).chk = s.chk := rfl
@[simp] theorem State.setKennel_bri (s : State) (k : Nat) (x : Kennel) : (s.setKennel k x).bri = s.bri := rfl
@[simp] theorem State.setKennel_sram (s : State) (k : Nat) (x : Kennel) : (s.setKennel k x).sram = s.sram := rfl
@[simp] theorem State.setKennel_dram (s : State) (k : Nat) (x : Kennel) : (s.setKennel k x).dram = s.dram := rfl
@[simp] theorem State.setKennel_hostMem (s : State) (k : Nat) (x : Kennel) : (s.setKennel k x).hostMem = s.hostMem := rfl
@[simp] theorem State.setKennel_store (s : State) (k : Nat) (x : Kennel) : (s.setKennel k x).store = s.store := rfl
@[simp] theorem State.setKennel_fleet (s : State) (k : Nat) (x : Kennel) : (s.setKennel k x).fleet = s.fleet := rfl
@[simp] theorem State.setKennel_security (s : State) (k : Nat) (x : Kennel) : (s.setKennel k x).security = s.security := rfl
@[simp] theorem State.setKennel_sheep (s : State) (k : Nat) (x : Kennel) : (s.setKennel k x).sheep = s.sheep := rfl

/-! ### State.setPort -/

@[simp] theorem State.setPort_pending (s : State) (p : Nat) (x : Port) : (s.setPort p x).pending = s.pending := rfl
@[simp] theorem State.setPort_free (s : State) (p : Nat) (x : Port) : (s.setPort p x).free = s.free := rfl
@[simp] theorem State.setPort_hostRead (s : State) (p : Nat) (x : Port) : (s.setPort p x).hostRead = s.hostRead := rfl
@[simp] theorem State.setPort_regs (s : State) (p : Nat) (x : Port) : (s.setPort p x).regs = s.regs := rfl
@[simp] theorem State.setPort_regPend (s : State) (p : Nat) (x : Port) : (s.setPort p x).regPend = s.regPend := rfl
@[simp] theorem State.setPort_part (s : State) (p : Nat) (x : Port) : (s.setPort p x).part = s.part := rfl
@[simp] theorem State.setPort_board (s : State) (p : Nat) (x : Port) : (s.setPort p x).board = s.board := rfl
@[simp] theorem State.setPort_retired (s : State) (p : Nat) (x : Port) : (s.setPort p x).retired = s.retired := rfl
@[simp] theorem State.setPort_islands (s : State) (p : Nat) (x : Port) : (s.setPort p x).islands = s.islands := rfl
@[simp] theorem State.setPort_hung (s : State) (p : Nat) (x : Port) : (s.setPort p x).hung = s.hung := rfl
@[simp] theorem State.setPort_outOfService (s : State) (p : Nat) (x : Port) : (s.setPort p x).outOfService = s.outOfService := rfl
@[simp] theorem State.setPort_claims (s : State) (p : Nat) (x : Port) : (s.setPort p x).claims = s.claims := rfl
@[simp] theorem State.setPort_partition (s : State) (p : Nat) (x : Port) : (s.setPort p x).partition = s.partition := rfl
@[simp] theorem State.setPort_served (s : State) (p : Nat) (x : Port) : (s.setPort p x).served = s.served := rfl
@[simp] theorem State.setPort_sramServed (s : State) (p : Nat) (x : Port) : (s.setPort p x).sramServed = s.sramServed := rfl
@[simp] theorem State.setPort_loadOp (s : State) (p : Nat) (x : Port) : (s.setPort p x).loadOp = s.loadOp := rfl
@[simp] theorem State.setPort_images (s : State) (p : Nat) (x : Port) : (s.setPort p x).images = s.images := rfl
@[simp] theorem State.setPort_timers (s : State) (p : Nat) (x : Port) : (s.setPort p x).timers = s.timers := rfl
@[simp] theorem State.setPort_jobs (s : State) (p : Nat) (x : Port) : (s.setPort p x).jobs = s.jobs := rfl
@[simp] theorem State.setPort_items (s : State) (p : Nat) (x : Port) : (s.setPort p x).items = s.items := rfl
@[simp] theorem State.setPort_text (s : State) (p : Nat) (x : Port) : (s.setPort p x).text = s.text := rfl
@[simp] theorem State.setPort_queues (s : State) (p : Nat) (x : Port) : (s.setPort p x).queues = s.queues := rfl
@[simp] theorem State.setPort_cores (s : State) (p : Nat) (x : Port) : (s.setPort p x).cores = s.cores := rfl
@[simp] theorem State.setPort_kennels (s : State) (p : Nat) (x : Port) : (s.setPort p x).kennels = s.kennels := rfl
@[simp] theorem State.setPort_restarting (s : State) (p : Nat) (x : Port) : (s.setPort p x).restarting = s.restarting := rfl
@[simp] theorem State.setPort_reloading (s : State) (p : Nat) (x : Port) : (s.setPort p x).reloading = s.reloading := rfl
@[simp] theorem State.setPort_heel (s : State) (p : Nat) (x : Port) : (s.setPort p x).heel = s.heel := rfl
@[simp] theorem State.setPort_contexts (s : State) (p : Nat) (x : Port) : (s.setPort p x).contexts = s.contexts := rfl
@[simp] theorem State.setPort_msgIds (s : State) (p : Nat) (x : Port) : (s.setPort p x).msgIds = s.msgIds := rfl
@[simp] theorem State.setPort_clock (s : State) (p : Nat) (x : Port) : (s.setPort p x).clock = s.clock := rfl
@[simp] theorem State.setPort_time (s : State) (p : Nat) (x : Port) : (s.setPort p x).time = s.time := rfl
@[simp] theorem State.setPort_uptime (s : State) (p : Nat) (x : Port) : (s.setPort p x).uptime = s.uptime := rfl
@[simp] theorem State.setPort_dma (s : State) (p : Nat) (x : Port) : (s.setPort p x).dma = s.dma := rfl
@[simp] theorem State.setPort_pools (s : State) (p : Nat) (x : Port) : (s.setPort p x).pools = s.pools := rfl
@[simp] theorem State.setPort_chk (s : State) (p : Nat) (x : Port) : (s.setPort p x).chk = s.chk := rfl
@[simp] theorem State.setPort_bri (s : State) (p : Nat) (x : Port) : (s.setPort p x).bri = s.bri := rfl
@[simp] theorem State.setPort_sram (s : State) (p : Nat) (x : Port) : (s.setPort p x).sram = s.sram := rfl
@[simp] theorem State.setPort_dram (s : State) (p : Nat) (x : Port) : (s.setPort p x).dram = s.dram := rfl
@[simp] theorem State.setPort_hostMem (s : State) (p : Nat) (x : Port) : (s.setPort p x).hostMem = s.hostMem := rfl
@[simp] theorem State.setPort_store (s : State) (p : Nat) (x : Port) : (s.setPort p x).store = s.store := rfl
@[simp] theorem State.setPort_fleet (s : State) (p : Nat) (x : Port) : (s.setPort p x).fleet = s.fleet := rfl
@[simp] theorem State.setPort_security (s : State) (p : Nat) (x : Port) : (s.setPort p x).security = s.security := rfl
@[simp] theorem State.setPort_sheep (s : State) (p : Nat) (x : Port) : (s.setPort p x).sheep = s.sheep := rfl

/-! ### State.setChk -/

@[simp] theorem State.setChk_pending (s : State) (u : Nat) (x : ChkUnit) : (s.setChk u x).pending = s.pending := rfl
@[simp] theorem State.setChk_free (s : State) (u : Nat) (x : ChkUnit) : (s.setChk u x).free = s.free := rfl
@[simp] theorem State.setChk_hostRead (s : State) (u : Nat) (x : ChkUnit) : (s.setChk u x).hostRead = s.hostRead := rfl
@[simp] theorem State.setChk_regs (s : State) (u : Nat) (x : ChkUnit) : (s.setChk u x).regs = s.regs := rfl
@[simp] theorem State.setChk_regPend (s : State) (u : Nat) (x : ChkUnit) : (s.setChk u x).regPend = s.regPend := rfl
@[simp] theorem State.setChk_part (s : State) (u : Nat) (x : ChkUnit) : (s.setChk u x).part = s.part := rfl
@[simp] theorem State.setChk_board (s : State) (u : Nat) (x : ChkUnit) : (s.setChk u x).board = s.board := rfl
@[simp] theorem State.setChk_retired (s : State) (u : Nat) (x : ChkUnit) : (s.setChk u x).retired = s.retired := rfl
@[simp] theorem State.setChk_islands (s : State) (u : Nat) (x : ChkUnit) : (s.setChk u x).islands = s.islands := rfl
@[simp] theorem State.setChk_hung (s : State) (u : Nat) (x : ChkUnit) : (s.setChk u x).hung = s.hung := rfl
@[simp] theorem State.setChk_outOfService (s : State) (u : Nat) (x : ChkUnit) : (s.setChk u x).outOfService = s.outOfService := rfl
@[simp] theorem State.setChk_claims (s : State) (u : Nat) (x : ChkUnit) : (s.setChk u x).claims = s.claims := rfl
@[simp] theorem State.setChk_partition (s : State) (u : Nat) (x : ChkUnit) : (s.setChk u x).partition = s.partition := rfl
@[simp] theorem State.setChk_served (s : State) (u : Nat) (x : ChkUnit) : (s.setChk u x).served = s.served := rfl
@[simp] theorem State.setChk_sramServed (s : State) (u : Nat) (x : ChkUnit) : (s.setChk u x).sramServed = s.sramServed := rfl
@[simp] theorem State.setChk_loadOp (s : State) (u : Nat) (x : ChkUnit) : (s.setChk u x).loadOp = s.loadOp := rfl
@[simp] theorem State.setChk_images (s : State) (u : Nat) (x : ChkUnit) : (s.setChk u x).images = s.images := rfl
@[simp] theorem State.setChk_timers (s : State) (u : Nat) (x : ChkUnit) : (s.setChk u x).timers = s.timers := rfl
@[simp] theorem State.setChk_jobs (s : State) (u : Nat) (x : ChkUnit) : (s.setChk u x).jobs = s.jobs := rfl
@[simp] theorem State.setChk_items (s : State) (u : Nat) (x : ChkUnit) : (s.setChk u x).items = s.items := rfl
@[simp] theorem State.setChk_text (s : State) (u : Nat) (x : ChkUnit) : (s.setChk u x).text = s.text := rfl
@[simp] theorem State.setChk_queues (s : State) (u : Nat) (x : ChkUnit) : (s.setChk u x).queues = s.queues := rfl
@[simp] theorem State.setChk_cores (s : State) (u : Nat) (x : ChkUnit) : (s.setChk u x).cores = s.cores := rfl
@[simp] theorem State.setChk_kennels (s : State) (u : Nat) (x : ChkUnit) : (s.setChk u x).kennels = s.kennels := rfl
@[simp] theorem State.setChk_restarting (s : State) (u : Nat) (x : ChkUnit) : (s.setChk u x).restarting = s.restarting := rfl
@[simp] theorem State.setChk_reloading (s : State) (u : Nat) (x : ChkUnit) : (s.setChk u x).reloading = s.reloading := rfl
@[simp] theorem State.setChk_heel (s : State) (u : Nat) (x : ChkUnit) : (s.setChk u x).heel = s.heel := rfl
@[simp] theorem State.setChk_contexts (s : State) (u : Nat) (x : ChkUnit) : (s.setChk u x).contexts = s.contexts := rfl
@[simp] theorem State.setChk_msgIds (s : State) (u : Nat) (x : ChkUnit) : (s.setChk u x).msgIds = s.msgIds := rfl
@[simp] theorem State.setChk_clock (s : State) (u : Nat) (x : ChkUnit) : (s.setChk u x).clock = s.clock := rfl
@[simp] theorem State.setChk_ports (s : State) (u : Nat) (x : ChkUnit) : (s.setChk u x).ports = s.ports := rfl
@[simp] theorem State.setChk_time (s : State) (u : Nat) (x : ChkUnit) : (s.setChk u x).time = s.time := rfl
@[simp] theorem State.setChk_uptime (s : State) (u : Nat) (x : ChkUnit) : (s.setChk u x).uptime = s.uptime := rfl
@[simp] theorem State.setChk_dma (s : State) (u : Nat) (x : ChkUnit) : (s.setChk u x).dma = s.dma := rfl
@[simp] theorem State.setChk_pools (s : State) (u : Nat) (x : ChkUnit) : (s.setChk u x).pools = s.pools := rfl
@[simp] theorem State.setChk_bri (s : State) (u : Nat) (x : ChkUnit) : (s.setChk u x).bri = s.bri := rfl
@[simp] theorem State.setChk_sram (s : State) (u : Nat) (x : ChkUnit) : (s.setChk u x).sram = s.sram := rfl
@[simp] theorem State.setChk_dram (s : State) (u : Nat) (x : ChkUnit) : (s.setChk u x).dram = s.dram := rfl
@[simp] theorem State.setChk_hostMem (s : State) (u : Nat) (x : ChkUnit) : (s.setChk u x).hostMem = s.hostMem := rfl
@[simp] theorem State.setChk_store (s : State) (u : Nat) (x : ChkUnit) : (s.setChk u x).store = s.store := rfl
@[simp] theorem State.setChk_fleet (s : State) (u : Nat) (x : ChkUnit) : (s.setChk u x).fleet = s.fleet := rfl
@[simp] theorem State.setChk_security (s : State) (u : Nat) (x : ChkUnit) : (s.setChk u x).security = s.security := rfl
@[simp] theorem State.setChk_sheep (s : State) (u : Nat) (x : ChkUnit) : (s.setChk u x).sheep = s.sheep := rfl

/-! ### State.setBri -/

@[simp] theorem State.setBri_pending (s : State) (e : Nat) (x : BriEngine) : (s.setBri e x).pending = s.pending := rfl
@[simp] theorem State.setBri_free (s : State) (e : Nat) (x : BriEngine) : (s.setBri e x).free = s.free := rfl
@[simp] theorem State.setBri_hostRead (s : State) (e : Nat) (x : BriEngine) : (s.setBri e x).hostRead = s.hostRead := rfl
@[simp] theorem State.setBri_regs (s : State) (e : Nat) (x : BriEngine) : (s.setBri e x).regs = s.regs := rfl
@[simp] theorem State.setBri_regPend (s : State) (e : Nat) (x : BriEngine) : (s.setBri e x).regPend = s.regPend := rfl
@[simp] theorem State.setBri_part (s : State) (e : Nat) (x : BriEngine) : (s.setBri e x).part = s.part := rfl
@[simp] theorem State.setBri_board (s : State) (e : Nat) (x : BriEngine) : (s.setBri e x).board = s.board := rfl
@[simp] theorem State.setBri_retired (s : State) (e : Nat) (x : BriEngine) : (s.setBri e x).retired = s.retired := rfl
@[simp] theorem State.setBri_islands (s : State) (e : Nat) (x : BriEngine) : (s.setBri e x).islands = s.islands := rfl
@[simp] theorem State.setBri_hung (s : State) (e : Nat) (x : BriEngine) : (s.setBri e x).hung = s.hung := rfl
@[simp] theorem State.setBri_outOfService (s : State) (e : Nat) (x : BriEngine) : (s.setBri e x).outOfService = s.outOfService := rfl
@[simp] theorem State.setBri_claims (s : State) (e : Nat) (x : BriEngine) : (s.setBri e x).claims = s.claims := rfl
@[simp] theorem State.setBri_partition (s : State) (e : Nat) (x : BriEngine) : (s.setBri e x).partition = s.partition := rfl
@[simp] theorem State.setBri_served (s : State) (e : Nat) (x : BriEngine) : (s.setBri e x).served = s.served := rfl
@[simp] theorem State.setBri_sramServed (s : State) (e : Nat) (x : BriEngine) : (s.setBri e x).sramServed = s.sramServed := rfl
@[simp] theorem State.setBri_loadOp (s : State) (e : Nat) (x : BriEngine) : (s.setBri e x).loadOp = s.loadOp := rfl
@[simp] theorem State.setBri_images (s : State) (e : Nat) (x : BriEngine) : (s.setBri e x).images = s.images := rfl
@[simp] theorem State.setBri_timers (s : State) (e : Nat) (x : BriEngine) : (s.setBri e x).timers = s.timers := rfl
@[simp] theorem State.setBri_jobs (s : State) (e : Nat) (x : BriEngine) : (s.setBri e x).jobs = s.jobs := rfl
@[simp] theorem State.setBri_items (s : State) (e : Nat) (x : BriEngine) : (s.setBri e x).items = s.items := rfl
@[simp] theorem State.setBri_text (s : State) (e : Nat) (x : BriEngine) : (s.setBri e x).text = s.text := rfl
@[simp] theorem State.setBri_queues (s : State) (e : Nat) (x : BriEngine) : (s.setBri e x).queues = s.queues := rfl
@[simp] theorem State.setBri_cores (s : State) (e : Nat) (x : BriEngine) : (s.setBri e x).cores = s.cores := rfl
@[simp] theorem State.setBri_kennels (s : State) (e : Nat) (x : BriEngine) : (s.setBri e x).kennels = s.kennels := rfl
@[simp] theorem State.setBri_restarting (s : State) (e : Nat) (x : BriEngine) : (s.setBri e x).restarting = s.restarting := rfl
@[simp] theorem State.setBri_reloading (s : State) (e : Nat) (x : BriEngine) : (s.setBri e x).reloading = s.reloading := rfl
@[simp] theorem State.setBri_heel (s : State) (e : Nat) (x : BriEngine) : (s.setBri e x).heel = s.heel := rfl
@[simp] theorem State.setBri_contexts (s : State) (e : Nat) (x : BriEngine) : (s.setBri e x).contexts = s.contexts := rfl
@[simp] theorem State.setBri_msgIds (s : State) (e : Nat) (x : BriEngine) : (s.setBri e x).msgIds = s.msgIds := rfl
@[simp] theorem State.setBri_clock (s : State) (e : Nat) (x : BriEngine) : (s.setBri e x).clock = s.clock := rfl
@[simp] theorem State.setBri_ports (s : State) (e : Nat) (x : BriEngine) : (s.setBri e x).ports = s.ports := rfl
@[simp] theorem State.setBri_time (s : State) (e : Nat) (x : BriEngine) : (s.setBri e x).time = s.time := rfl
@[simp] theorem State.setBri_uptime (s : State) (e : Nat) (x : BriEngine) : (s.setBri e x).uptime = s.uptime := rfl
@[simp] theorem State.setBri_dma (s : State) (e : Nat) (x : BriEngine) : (s.setBri e x).dma = s.dma := rfl
@[simp] theorem State.setBri_pools (s : State) (e : Nat) (x : BriEngine) : (s.setBri e x).pools = s.pools := rfl
@[simp] theorem State.setBri_chk (s : State) (e : Nat) (x : BriEngine) : (s.setBri e x).chk = s.chk := rfl
@[simp] theorem State.setBri_sram (s : State) (e : Nat) (x : BriEngine) : (s.setBri e x).sram = s.sram := rfl
@[simp] theorem State.setBri_dram (s : State) (e : Nat) (x : BriEngine) : (s.setBri e x).dram = s.dram := rfl
@[simp] theorem State.setBri_hostMem (s : State) (e : Nat) (x : BriEngine) : (s.setBri e x).hostMem = s.hostMem := rfl
@[simp] theorem State.setBri_store (s : State) (e : Nat) (x : BriEngine) : (s.setBri e x).store = s.store := rfl
@[simp] theorem State.setBri_fleet (s : State) (e : Nat) (x : BriEngine) : (s.setBri e x).fleet = s.fleet := rfl
@[simp] theorem State.setBri_security (s : State) (e : Nat) (x : BriEngine) : (s.setBri e x).security = s.security := rfl
@[simp] theorem State.setBri_sheep (s : State) (e : Nat) (x : BriEngine) : (s.setBri e x).sheep = s.sheep := rfl

/-! ### State.setHeel -/

@[simp] theorem State.setHeel_pending (s : State) (k : Nat) (x : HeelSession) : (s.setHeel k x).pending = s.pending := rfl
@[simp] theorem State.setHeel_free (s : State) (k : Nat) (x : HeelSession) : (s.setHeel k x).free = s.free := rfl
@[simp] theorem State.setHeel_hostRead (s : State) (k : Nat) (x : HeelSession) : (s.setHeel k x).hostRead = s.hostRead := rfl
@[simp] theorem State.setHeel_regs (s : State) (k : Nat) (x : HeelSession) : (s.setHeel k x).regs = s.regs := rfl
@[simp] theorem State.setHeel_regPend (s : State) (k : Nat) (x : HeelSession) : (s.setHeel k x).regPend = s.regPend := rfl
@[simp] theorem State.setHeel_part (s : State) (k : Nat) (x : HeelSession) : (s.setHeel k x).part = s.part := rfl
@[simp] theorem State.setHeel_board (s : State) (k : Nat) (x : HeelSession) : (s.setHeel k x).board = s.board := rfl
@[simp] theorem State.setHeel_retired (s : State) (k : Nat) (x : HeelSession) : (s.setHeel k x).retired = s.retired := rfl
@[simp] theorem State.setHeel_islands (s : State) (k : Nat) (x : HeelSession) : (s.setHeel k x).islands = s.islands := rfl
@[simp] theorem State.setHeel_hung (s : State) (k : Nat) (x : HeelSession) : (s.setHeel k x).hung = s.hung := rfl
@[simp] theorem State.setHeel_outOfService (s : State) (k : Nat) (x : HeelSession) : (s.setHeel k x).outOfService = s.outOfService := rfl
@[simp] theorem State.setHeel_claims (s : State) (k : Nat) (x : HeelSession) : (s.setHeel k x).claims = s.claims := rfl
@[simp] theorem State.setHeel_partition (s : State) (k : Nat) (x : HeelSession) : (s.setHeel k x).partition = s.partition := rfl
@[simp] theorem State.setHeel_served (s : State) (k : Nat) (x : HeelSession) : (s.setHeel k x).served = s.served := rfl
@[simp] theorem State.setHeel_sramServed (s : State) (k : Nat) (x : HeelSession) : (s.setHeel k x).sramServed = s.sramServed := rfl
@[simp] theorem State.setHeel_loadOp (s : State) (k : Nat) (x : HeelSession) : (s.setHeel k x).loadOp = s.loadOp := rfl
@[simp] theorem State.setHeel_images (s : State) (k : Nat) (x : HeelSession) : (s.setHeel k x).images = s.images := rfl
@[simp] theorem State.setHeel_timers (s : State) (k : Nat) (x : HeelSession) : (s.setHeel k x).timers = s.timers := rfl
@[simp] theorem State.setHeel_jobs (s : State) (k : Nat) (x : HeelSession) : (s.setHeel k x).jobs = s.jobs := rfl
@[simp] theorem State.setHeel_items (s : State) (k : Nat) (x : HeelSession) : (s.setHeel k x).items = s.items := rfl
@[simp] theorem State.setHeel_text (s : State) (k : Nat) (x : HeelSession) : (s.setHeel k x).text = s.text := rfl
@[simp] theorem State.setHeel_queues (s : State) (k : Nat) (x : HeelSession) : (s.setHeel k x).queues = s.queues := rfl
@[simp] theorem State.setHeel_cores (s : State) (k : Nat) (x : HeelSession) : (s.setHeel k x).cores = s.cores := rfl
@[simp] theorem State.setHeel_kennels (s : State) (k : Nat) (x : HeelSession) : (s.setHeel k x).kennels = s.kennels := rfl
@[simp] theorem State.setHeel_restarting (s : State) (k : Nat) (x : HeelSession) : (s.setHeel k x).restarting = s.restarting := rfl
@[simp] theorem State.setHeel_reloading (s : State) (k : Nat) (x : HeelSession) : (s.setHeel k x).reloading = s.reloading := rfl
@[simp] theorem State.setHeel_contexts (s : State) (k : Nat) (x : HeelSession) : (s.setHeel k x).contexts = s.contexts := rfl
@[simp] theorem State.setHeel_msgIds (s : State) (k : Nat) (x : HeelSession) : (s.setHeel k x).msgIds = s.msgIds := rfl
@[simp] theorem State.setHeel_clock (s : State) (k : Nat) (x : HeelSession) : (s.setHeel k x).clock = s.clock := rfl
@[simp] theorem State.setHeel_ports (s : State) (k : Nat) (x : HeelSession) : (s.setHeel k x).ports = s.ports := rfl
@[simp] theorem State.setHeel_time (s : State) (k : Nat) (x : HeelSession) : (s.setHeel k x).time = s.time := rfl
@[simp] theorem State.setHeel_uptime (s : State) (k : Nat) (x : HeelSession) : (s.setHeel k x).uptime = s.uptime := rfl
@[simp] theorem State.setHeel_dma (s : State) (k : Nat) (x : HeelSession) : (s.setHeel k x).dma = s.dma := rfl
@[simp] theorem State.setHeel_pools (s : State) (k : Nat) (x : HeelSession) : (s.setHeel k x).pools = s.pools := rfl
@[simp] theorem State.setHeel_chk (s : State) (k : Nat) (x : HeelSession) : (s.setHeel k x).chk = s.chk := rfl
@[simp] theorem State.setHeel_bri (s : State) (k : Nat) (x : HeelSession) : (s.setHeel k x).bri = s.bri := rfl
@[simp] theorem State.setHeel_sram (s : State) (k : Nat) (x : HeelSession) : (s.setHeel k x).sram = s.sram := rfl
@[simp] theorem State.setHeel_dram (s : State) (k : Nat) (x : HeelSession) : (s.setHeel k x).dram = s.dram := rfl
@[simp] theorem State.setHeel_hostMem (s : State) (k : Nat) (x : HeelSession) : (s.setHeel k x).hostMem = s.hostMem := rfl
@[simp] theorem State.setHeel_store (s : State) (k : Nat) (x : HeelSession) : (s.setHeel k x).store = s.store := rfl
@[simp] theorem State.setHeel_fleet (s : State) (k : Nat) (x : HeelSession) : (s.setHeel k x).fleet = s.fleet := rfl
@[simp] theorem State.setHeel_security (s : State) (k : Nat) (x : HeelSession) : (s.setHeel k x).security = s.security := rfl
@[simp] theorem State.setHeel_sheep (s : State) (k : Nat) (x : HeelSession) : (s.setHeel k x).sheep = s.sheep := rfl

/-! ### State.adjustStore -/

@[simp] theorem State.adjustStore_pending (s : State) (f : Store → Store) : (s.adjustStore f).pending = s.pending := rfl
@[simp] theorem State.adjustStore_free (s : State) (f : Store → Store) : (s.adjustStore f).free = s.free := rfl
@[simp] theorem State.adjustStore_hostRead (s : State) (f : Store → Store) : (s.adjustStore f).hostRead = s.hostRead := rfl
@[simp] theorem State.adjustStore_regs (s : State) (f : Store → Store) : (s.adjustStore f).regs = s.regs := rfl
@[simp] theorem State.adjustStore_regPend (s : State) (f : Store → Store) : (s.adjustStore f).regPend = s.regPend := rfl
@[simp] theorem State.adjustStore_part (s : State) (f : Store → Store) : (s.adjustStore f).part = s.part := rfl
@[simp] theorem State.adjustStore_board (s : State) (f : Store → Store) : (s.adjustStore f).board = s.board := rfl
@[simp] theorem State.adjustStore_retired (s : State) (f : Store → Store) : (s.adjustStore f).retired = s.retired := rfl
@[simp] theorem State.adjustStore_islands (s : State) (f : Store → Store) : (s.adjustStore f).islands = s.islands := rfl
@[simp] theorem State.adjustStore_hung (s : State) (f : Store → Store) : (s.adjustStore f).hung = s.hung := rfl
@[simp] theorem State.adjustStore_outOfService (s : State) (f : Store → Store) : (s.adjustStore f).outOfService = s.outOfService := rfl
@[simp] theorem State.adjustStore_claims (s : State) (f : Store → Store) : (s.adjustStore f).claims = s.claims := rfl
@[simp] theorem State.adjustStore_partition (s : State) (f : Store → Store) : (s.adjustStore f).partition = s.partition := rfl
@[simp] theorem State.adjustStore_served (s : State) (f : Store → Store) : (s.adjustStore f).served = s.served := rfl
@[simp] theorem State.adjustStore_sramServed (s : State) (f : Store → Store) : (s.adjustStore f).sramServed = s.sramServed := rfl
@[simp] theorem State.adjustStore_loadOp (s : State) (f : Store → Store) : (s.adjustStore f).loadOp = s.loadOp := rfl
@[simp] theorem State.adjustStore_images (s : State) (f : Store → Store) : (s.adjustStore f).images = s.images := rfl
@[simp] theorem State.adjustStore_timers (s : State) (f : Store → Store) : (s.adjustStore f).timers = s.timers := rfl
@[simp] theorem State.adjustStore_jobs (s : State) (f : Store → Store) : (s.adjustStore f).jobs = s.jobs := rfl
@[simp] theorem State.adjustStore_items (s : State) (f : Store → Store) : (s.adjustStore f).items = s.items := rfl
@[simp] theorem State.adjustStore_text (s : State) (f : Store → Store) : (s.adjustStore f).text = s.text := rfl
@[simp] theorem State.adjustStore_queues (s : State) (f : Store → Store) : (s.adjustStore f).queues = s.queues := rfl
@[simp] theorem State.adjustStore_cores (s : State) (f : Store → Store) : (s.adjustStore f).cores = s.cores := rfl
@[simp] theorem State.adjustStore_kennels (s : State) (f : Store → Store) : (s.adjustStore f).kennels = s.kennels := rfl
@[simp] theorem State.adjustStore_restarting (s : State) (f : Store → Store) : (s.adjustStore f).restarting = s.restarting := rfl
@[simp] theorem State.adjustStore_reloading (s : State) (f : Store → Store) : (s.adjustStore f).reloading = s.reloading := rfl
@[simp] theorem State.adjustStore_heel (s : State) (f : Store → Store) : (s.adjustStore f).heel = s.heel := rfl
@[simp] theorem State.adjustStore_contexts (s : State) (f : Store → Store) : (s.adjustStore f).contexts = s.contexts := rfl
@[simp] theorem State.adjustStore_msgIds (s : State) (f : Store → Store) : (s.adjustStore f).msgIds = s.msgIds := rfl
@[simp] theorem State.adjustStore_clock (s : State) (f : Store → Store) : (s.adjustStore f).clock = s.clock := rfl
@[simp] theorem State.adjustStore_ports (s : State) (f : Store → Store) : (s.adjustStore f).ports = s.ports := rfl
@[simp] theorem State.adjustStore_time (s : State) (f : Store → Store) : (s.adjustStore f).time = s.time := rfl
@[simp] theorem State.adjustStore_uptime (s : State) (f : Store → Store) : (s.adjustStore f).uptime = s.uptime := rfl
@[simp] theorem State.adjustStore_dma (s : State) (f : Store → Store) : (s.adjustStore f).dma = s.dma := rfl
@[simp] theorem State.adjustStore_pools (s : State) (f : Store → Store) : (s.adjustStore f).pools = s.pools := rfl
@[simp] theorem State.adjustStore_chk (s : State) (f : Store → Store) : (s.adjustStore f).chk = s.chk := rfl
@[simp] theorem State.adjustStore_bri (s : State) (f : Store → Store) : (s.adjustStore f).bri = s.bri := rfl
@[simp] theorem State.adjustStore_sram (s : State) (f : Store → Store) : (s.adjustStore f).sram = s.sram := rfl
@[simp] theorem State.adjustStore_dram (s : State) (f : Store → Store) : (s.adjustStore f).dram = s.dram := rfl
@[simp] theorem State.adjustStore_hostMem (s : State) (f : Store → Store) : (s.adjustStore f).hostMem = s.hostMem := rfl
@[simp] theorem State.adjustStore_fleet (s : State) (f : Store → Store) : (s.adjustStore f).fleet = s.fleet := rfl
@[simp] theorem State.adjustStore_security (s : State) (f : Store → Store) : (s.adjustStore f).security = s.security := rfl
@[simp] theorem State.adjustStore_sheep (s : State) (f : Store → Store) : (s.adjustStore f).sheep = s.sheep := rfl

/-! ### State.adjustSecurity -/

@[simp] theorem State.adjustSecurity_pending (s : State) (f : Security → Security) : (s.adjustSecurity f).pending = s.pending := rfl
@[simp] theorem State.adjustSecurity_free (s : State) (f : Security → Security) : (s.adjustSecurity f).free = s.free := rfl
@[simp] theorem State.adjustSecurity_hostRead (s : State) (f : Security → Security) : (s.adjustSecurity f).hostRead = s.hostRead := rfl
@[simp] theorem State.adjustSecurity_regs (s : State) (f : Security → Security) : (s.adjustSecurity f).regs = s.regs := rfl
@[simp] theorem State.adjustSecurity_regPend (s : State) (f : Security → Security) : (s.adjustSecurity f).regPend = s.regPend := rfl
@[simp] theorem State.adjustSecurity_part (s : State) (f : Security → Security) : (s.adjustSecurity f).part = s.part := rfl
@[simp] theorem State.adjustSecurity_board (s : State) (f : Security → Security) : (s.adjustSecurity f).board = s.board := rfl
@[simp] theorem State.adjustSecurity_retired (s : State) (f : Security → Security) : (s.adjustSecurity f).retired = s.retired := rfl
@[simp] theorem State.adjustSecurity_islands (s : State) (f : Security → Security) : (s.adjustSecurity f).islands = s.islands := rfl
@[simp] theorem State.adjustSecurity_hung (s : State) (f : Security → Security) : (s.adjustSecurity f).hung = s.hung := rfl
@[simp] theorem State.adjustSecurity_outOfService (s : State) (f : Security → Security) : (s.adjustSecurity f).outOfService = s.outOfService := rfl
@[simp] theorem State.adjustSecurity_claims (s : State) (f : Security → Security) : (s.adjustSecurity f).claims = s.claims := rfl
@[simp] theorem State.adjustSecurity_partition (s : State) (f : Security → Security) : (s.adjustSecurity f).partition = s.partition := rfl
@[simp] theorem State.adjustSecurity_served (s : State) (f : Security → Security) : (s.adjustSecurity f).served = s.served := rfl
@[simp] theorem State.adjustSecurity_sramServed (s : State) (f : Security → Security) : (s.adjustSecurity f).sramServed = s.sramServed := rfl
@[simp] theorem State.adjustSecurity_loadOp (s : State) (f : Security → Security) : (s.adjustSecurity f).loadOp = s.loadOp := rfl
@[simp] theorem State.adjustSecurity_images (s : State) (f : Security → Security) : (s.adjustSecurity f).images = s.images := rfl
@[simp] theorem State.adjustSecurity_timers (s : State) (f : Security → Security) : (s.adjustSecurity f).timers = s.timers := rfl
@[simp] theorem State.adjustSecurity_jobs (s : State) (f : Security → Security) : (s.adjustSecurity f).jobs = s.jobs := rfl
@[simp] theorem State.adjustSecurity_items (s : State) (f : Security → Security) : (s.adjustSecurity f).items = s.items := rfl
@[simp] theorem State.adjustSecurity_text (s : State) (f : Security → Security) : (s.adjustSecurity f).text = s.text := rfl
@[simp] theorem State.adjustSecurity_queues (s : State) (f : Security → Security) : (s.adjustSecurity f).queues = s.queues := rfl
@[simp] theorem State.adjustSecurity_cores (s : State) (f : Security → Security) : (s.adjustSecurity f).cores = s.cores := rfl
@[simp] theorem State.adjustSecurity_kennels (s : State) (f : Security → Security) : (s.adjustSecurity f).kennels = s.kennels := rfl
@[simp] theorem State.adjustSecurity_restarting (s : State) (f : Security → Security) : (s.adjustSecurity f).restarting = s.restarting := rfl
@[simp] theorem State.adjustSecurity_reloading (s : State) (f : Security → Security) : (s.adjustSecurity f).reloading = s.reloading := rfl
@[simp] theorem State.adjustSecurity_heel (s : State) (f : Security → Security) : (s.adjustSecurity f).heel = s.heel := rfl
@[simp] theorem State.adjustSecurity_contexts (s : State) (f : Security → Security) : (s.adjustSecurity f).contexts = s.contexts := rfl
@[simp] theorem State.adjustSecurity_msgIds (s : State) (f : Security → Security) : (s.adjustSecurity f).msgIds = s.msgIds := rfl
@[simp] theorem State.adjustSecurity_clock (s : State) (f : Security → Security) : (s.adjustSecurity f).clock = s.clock := rfl
@[simp] theorem State.adjustSecurity_ports (s : State) (f : Security → Security) : (s.adjustSecurity f).ports = s.ports := rfl
@[simp] theorem State.adjustSecurity_time (s : State) (f : Security → Security) : (s.adjustSecurity f).time = s.time := rfl
@[simp] theorem State.adjustSecurity_uptime (s : State) (f : Security → Security) : (s.adjustSecurity f).uptime = s.uptime := rfl
@[simp] theorem State.adjustSecurity_dma (s : State) (f : Security → Security) : (s.adjustSecurity f).dma = s.dma := rfl
@[simp] theorem State.adjustSecurity_pools (s : State) (f : Security → Security) : (s.adjustSecurity f).pools = s.pools := rfl
@[simp] theorem State.adjustSecurity_chk (s : State) (f : Security → Security) : (s.adjustSecurity f).chk = s.chk := rfl
@[simp] theorem State.adjustSecurity_bri (s : State) (f : Security → Security) : (s.adjustSecurity f).bri = s.bri := rfl
@[simp] theorem State.adjustSecurity_sram (s : State) (f : Security → Security) : (s.adjustSecurity f).sram = s.sram := rfl
@[simp] theorem State.adjustSecurity_dram (s : State) (f : Security → Security) : (s.adjustSecurity f).dram = s.dram := rfl
@[simp] theorem State.adjustSecurity_hostMem (s : State) (f : Security → Security) : (s.adjustSecurity f).hostMem = s.hostMem := rfl
@[simp] theorem State.adjustSecurity_store (s : State) (f : Security → Security) : (s.adjustSecurity f).store = s.store := rfl
@[simp] theorem State.adjustSecurity_fleet (s : State) (f : Security → Security) : (s.adjustSecurity f).fleet = s.fleet := rfl
@[simp] theorem State.adjustSecurity_sheep (s : State) (f : Security → Security) : (s.adjustSecurity f).sheep = s.sheep := rfl

/-! ### State.adjustSheep -/

@[simp] theorem State.adjustSheep_pending (s : State) (f : Sheepdog → Sheepdog) : (s.adjustSheep f).pending = s.pending := rfl
@[simp] theorem State.adjustSheep_free (s : State) (f : Sheepdog → Sheepdog) : (s.adjustSheep f).free = s.free := rfl
@[simp] theorem State.adjustSheep_hostRead (s : State) (f : Sheepdog → Sheepdog) : (s.adjustSheep f).hostRead = s.hostRead := rfl
@[simp] theorem State.adjustSheep_regs (s : State) (f : Sheepdog → Sheepdog) : (s.adjustSheep f).regs = s.regs := rfl
@[simp] theorem State.adjustSheep_regPend (s : State) (f : Sheepdog → Sheepdog) : (s.adjustSheep f).regPend = s.regPend := rfl
@[simp] theorem State.adjustSheep_part (s : State) (f : Sheepdog → Sheepdog) : (s.adjustSheep f).part = s.part := rfl
@[simp] theorem State.adjustSheep_board (s : State) (f : Sheepdog → Sheepdog) : (s.adjustSheep f).board = s.board := rfl
@[simp] theorem State.adjustSheep_retired (s : State) (f : Sheepdog → Sheepdog) : (s.adjustSheep f).retired = s.retired := rfl
@[simp] theorem State.adjustSheep_islands (s : State) (f : Sheepdog → Sheepdog) : (s.adjustSheep f).islands = s.islands := rfl
@[simp] theorem State.adjustSheep_hung (s : State) (f : Sheepdog → Sheepdog) : (s.adjustSheep f).hung = s.hung := rfl
@[simp] theorem State.adjustSheep_outOfService (s : State) (f : Sheepdog → Sheepdog) : (s.adjustSheep f).outOfService = s.outOfService := rfl
@[simp] theorem State.adjustSheep_claims (s : State) (f : Sheepdog → Sheepdog) : (s.adjustSheep f).claims = s.claims := rfl
@[simp] theorem State.adjustSheep_partition (s : State) (f : Sheepdog → Sheepdog) : (s.adjustSheep f).partition = s.partition := rfl
@[simp] theorem State.adjustSheep_served (s : State) (f : Sheepdog → Sheepdog) : (s.adjustSheep f).served = s.served := rfl
@[simp] theorem State.adjustSheep_sramServed (s : State) (f : Sheepdog → Sheepdog) : (s.adjustSheep f).sramServed = s.sramServed := rfl
@[simp] theorem State.adjustSheep_loadOp (s : State) (f : Sheepdog → Sheepdog) : (s.adjustSheep f).loadOp = s.loadOp := rfl
@[simp] theorem State.adjustSheep_images (s : State) (f : Sheepdog → Sheepdog) : (s.adjustSheep f).images = s.images := rfl
@[simp] theorem State.adjustSheep_timers (s : State) (f : Sheepdog → Sheepdog) : (s.adjustSheep f).timers = s.timers := rfl
@[simp] theorem State.adjustSheep_jobs (s : State) (f : Sheepdog → Sheepdog) : (s.adjustSheep f).jobs = s.jobs := rfl
@[simp] theorem State.adjustSheep_items (s : State) (f : Sheepdog → Sheepdog) : (s.adjustSheep f).items = s.items := rfl
@[simp] theorem State.adjustSheep_text (s : State) (f : Sheepdog → Sheepdog) : (s.adjustSheep f).text = s.text := rfl
@[simp] theorem State.adjustSheep_queues (s : State) (f : Sheepdog → Sheepdog) : (s.adjustSheep f).queues = s.queues := rfl
@[simp] theorem State.adjustSheep_cores (s : State) (f : Sheepdog → Sheepdog) : (s.adjustSheep f).cores = s.cores := rfl
@[simp] theorem State.adjustSheep_kennels (s : State) (f : Sheepdog → Sheepdog) : (s.adjustSheep f).kennels = s.kennels := rfl
@[simp] theorem State.adjustSheep_restarting (s : State) (f : Sheepdog → Sheepdog) : (s.adjustSheep f).restarting = s.restarting := rfl
@[simp] theorem State.adjustSheep_reloading (s : State) (f : Sheepdog → Sheepdog) : (s.adjustSheep f).reloading = s.reloading := rfl
@[simp] theorem State.adjustSheep_heel (s : State) (f : Sheepdog → Sheepdog) : (s.adjustSheep f).heel = s.heel := rfl
@[simp] theorem State.adjustSheep_contexts (s : State) (f : Sheepdog → Sheepdog) : (s.adjustSheep f).contexts = s.contexts := rfl
@[simp] theorem State.adjustSheep_msgIds (s : State) (f : Sheepdog → Sheepdog) : (s.adjustSheep f).msgIds = s.msgIds := rfl
@[simp] theorem State.adjustSheep_clock (s : State) (f : Sheepdog → Sheepdog) : (s.adjustSheep f).clock = s.clock := rfl
@[simp] theorem State.adjustSheep_ports (s : State) (f : Sheepdog → Sheepdog) : (s.adjustSheep f).ports = s.ports := rfl
@[simp] theorem State.adjustSheep_time (s : State) (f : Sheepdog → Sheepdog) : (s.adjustSheep f).time = s.time := rfl
@[simp] theorem State.adjustSheep_uptime (s : State) (f : Sheepdog → Sheepdog) : (s.adjustSheep f).uptime = s.uptime := rfl
@[simp] theorem State.adjustSheep_dma (s : State) (f : Sheepdog → Sheepdog) : (s.adjustSheep f).dma = s.dma := rfl
@[simp] theorem State.adjustSheep_pools (s : State) (f : Sheepdog → Sheepdog) : (s.adjustSheep f).pools = s.pools := rfl
@[simp] theorem State.adjustSheep_chk (s : State) (f : Sheepdog → Sheepdog) : (s.adjustSheep f).chk = s.chk := rfl
@[simp] theorem State.adjustSheep_bri (s : State) (f : Sheepdog → Sheepdog) : (s.adjustSheep f).bri = s.bri := rfl
@[simp] theorem State.adjustSheep_sram (s : State) (f : Sheepdog → Sheepdog) : (s.adjustSheep f).sram = s.sram := rfl
@[simp] theorem State.adjustSheep_dram (s : State) (f : Sheepdog → Sheepdog) : (s.adjustSheep f).dram = s.dram := rfl
@[simp] theorem State.adjustSheep_hostMem (s : State) (f : Sheepdog → Sheepdog) : (s.adjustSheep f).hostMem = s.hostMem := rfl
@[simp] theorem State.adjustSheep_store (s : State) (f : Sheepdog → Sheepdog) : (s.adjustSheep f).store = s.store := rfl
@[simp] theorem State.adjustSheep_fleet (s : State) (f : Sheepdog → Sheepdog) : (s.adjustSheep f).fleet = s.fleet := rfl
@[simp] theorem State.adjustSheep_security (s : State) (f : Sheepdog → Sheepdog) : (s.adjustSheep f).security = s.security := rfl

/-! ### What each update gives the field that it changes -/

@[simp] theorem State.setReg_regs (s : State) (off : Nat) (v : Word64) : (s.setReg off v).regs = Tab.set regDefault s.regs off v := rfl
@[simp] theorem State.clearReg_regs (s : State) (off : Nat) : (s.clearReg off).regs = s.regs.erase off := rfl
@[simp] theorem State.drew_free (s : State) : s.drew.free = s.free + 1 := rfl
@[simp] theorem State.adjustJob_jobs (s : State) (n : Nat) (f : Job → Job) : (s.adjustJob n f).jobs = s.jobs.adjust n f := rfl
@[simp] theorem State.setCore_cores (s : State) (c : Nat) (x : Core) : (s.setCore c x).cores = s.cores.insert c x := rfl
@[simp] theorem State.setKennel_kennels (s : State) (k : Nat) (x : Kennel) : (s.setKennel k x).kennels = s.kennels.insert k x := rfl
@[simp] theorem State.setPort_ports (s : State) (p : Nat) (x : Port) : (s.setPort p x).ports = s.ports.insert p x := rfl
@[simp] theorem State.setChk_chk (s : State) (u : Nat) (x : ChkUnit) : (s.setChk u x).chk = s.chk.insert u x := rfl
@[simp] theorem State.setBri_bri (s : State) (e : Nat) (x : BriEngine) : (s.setBri e x).bri = s.bri.insert e x := rfl
@[simp] theorem State.setHeel_heel (s : State) (k : Nat) (x : HeelSession) : (s.setHeel k x).heel = s.heel.insert k x := rfl
@[simp] theorem State.adjustStore_store (s : State) (f : Store → Store) : (s.adjustStore f).store = f s.store := rfl
@[simp] theorem State.adjustSecurity_security (s : State) (f : Security → Security) : (s.adjustSecurity f).security = f s.security := rfl
@[simp] theorem State.adjustSheep_sheep (s : State) (f : Sheepdog → Sheepdog) : (s.adjustSheep f).sheep = f s.sheep := rfl
@[simp] theorem State.addClaim_claims (s : State) (r i o : Nat) : (s.addClaim r i o).claims = s.claims ++ [⟨r, i, o⟩] := rfl

/-! ### Memories -/

@[simp] theorem State.setMem_pending (s : State) (sp : Space) (m : Memory) : (s.setMem sp m).pending = s.pending := by cases sp <;> rfl
@[simp] theorem State.writeMem_pending (s : State) (sp : Space) (a : Nat) (b : Bytes) : (s.writeMem sp a b).pending = s.pending := by
  cases sp <;> rfl
@[simp] theorem State.setMem_free (s : State) (sp : Space) (m : Memory) : (s.setMem sp m).free = s.free := by cases sp <;> rfl
@[simp] theorem State.writeMem_free (s : State) (sp : Space) (a : Nat) (b : Bytes) : (s.writeMem sp a b).free = s.free := by
  cases sp <;> rfl
@[simp] theorem State.setMem_hostRead (s : State) (sp : Space) (m : Memory) : (s.setMem sp m).hostRead = s.hostRead := by cases sp <;> rfl
@[simp] theorem State.writeMem_hostRead (s : State) (sp : Space) (a : Nat) (b : Bytes) : (s.writeMem sp a b).hostRead = s.hostRead := by
  cases sp <;> rfl
@[simp] theorem State.setMem_regs (s : State) (sp : Space) (m : Memory) : (s.setMem sp m).regs = s.regs := by cases sp <;> rfl
@[simp] theorem State.writeMem_regs (s : State) (sp : Space) (a : Nat) (b : Bytes) : (s.writeMem sp a b).regs = s.regs := by
  cases sp <;> rfl
@[simp] theorem State.setMem_regPend (s : State) (sp : Space) (m : Memory) : (s.setMem sp m).regPend = s.regPend := by cases sp <;> rfl
@[simp] theorem State.writeMem_regPend (s : State) (sp : Space) (a : Nat) (b : Bytes) : (s.writeMem sp a b).regPend = s.regPend := by
  cases sp <;> rfl
@[simp] theorem State.setMem_part (s : State) (sp : Space) (m : Memory) : (s.setMem sp m).part = s.part := by cases sp <;> rfl
@[simp] theorem State.writeMem_part (s : State) (sp : Space) (a : Nat) (b : Bytes) : (s.writeMem sp a b).part = s.part := by
  cases sp <;> rfl
@[simp] theorem State.setMem_board (s : State) (sp : Space) (m : Memory) : (s.setMem sp m).board = s.board := by cases sp <;> rfl
@[simp] theorem State.writeMem_board (s : State) (sp : Space) (a : Nat) (b : Bytes) : (s.writeMem sp a b).board = s.board := by
  cases sp <;> rfl
@[simp] theorem State.setMem_retired (s : State) (sp : Space) (m : Memory) : (s.setMem sp m).retired = s.retired := by cases sp <;> rfl
@[simp] theorem State.writeMem_retired (s : State) (sp : Space) (a : Nat) (b : Bytes) : (s.writeMem sp a b).retired = s.retired := by
  cases sp <;> rfl
@[simp] theorem State.setMem_islands (s : State) (sp : Space) (m : Memory) : (s.setMem sp m).islands = s.islands := by cases sp <;> rfl
@[simp] theorem State.writeMem_islands (s : State) (sp : Space) (a : Nat) (b : Bytes) : (s.writeMem sp a b).islands = s.islands := by
  cases sp <;> rfl
@[simp] theorem State.setMem_hung (s : State) (sp : Space) (m : Memory) : (s.setMem sp m).hung = s.hung := by cases sp <;> rfl
@[simp] theorem State.writeMem_hung (s : State) (sp : Space) (a : Nat) (b : Bytes) : (s.writeMem sp a b).hung = s.hung := by
  cases sp <;> rfl
@[simp] theorem State.setMem_outOfService (s : State) (sp : Space) (m : Memory) : (s.setMem sp m).outOfService = s.outOfService := by cases sp <;> rfl
@[simp] theorem State.writeMem_outOfService (s : State) (sp : Space) (a : Nat) (b : Bytes) : (s.writeMem sp a b).outOfService = s.outOfService := by
  cases sp <;> rfl
@[simp] theorem State.setMem_claims (s : State) (sp : Space) (m : Memory) : (s.setMem sp m).claims = s.claims := by cases sp <;> rfl
@[simp] theorem State.writeMem_claims (s : State) (sp : Space) (a : Nat) (b : Bytes) : (s.writeMem sp a b).claims = s.claims := by
  cases sp <;> rfl
@[simp] theorem State.setMem_partition (s : State) (sp : Space) (m : Memory) : (s.setMem sp m).partition = s.partition := by cases sp <;> rfl
@[simp] theorem State.writeMem_partition (s : State) (sp : Space) (a : Nat) (b : Bytes) : (s.writeMem sp a b).partition = s.partition := by
  cases sp <;> rfl
@[simp] theorem State.setMem_served (s : State) (sp : Space) (m : Memory) : (s.setMem sp m).served = s.served := by cases sp <;> rfl
@[simp] theorem State.writeMem_served (s : State) (sp : Space) (a : Nat) (b : Bytes) : (s.writeMem sp a b).served = s.served := by
  cases sp <;> rfl
@[simp] theorem State.setMem_sramServed (s : State) (sp : Space) (m : Memory) : (s.setMem sp m).sramServed = s.sramServed := by cases sp <;> rfl
@[simp] theorem State.writeMem_sramServed (s : State) (sp : Space) (a : Nat) (b : Bytes) : (s.writeMem sp a b).sramServed = s.sramServed := by
  cases sp <;> rfl
@[simp] theorem State.setMem_loadOp (s : State) (sp : Space) (m : Memory) : (s.setMem sp m).loadOp = s.loadOp := by cases sp <;> rfl
@[simp] theorem State.writeMem_loadOp (s : State) (sp : Space) (a : Nat) (b : Bytes) : (s.writeMem sp a b).loadOp = s.loadOp := by
  cases sp <;> rfl
@[simp] theorem State.setMem_images (s : State) (sp : Space) (m : Memory) : (s.setMem sp m).images = s.images := by cases sp <;> rfl
@[simp] theorem State.writeMem_images (s : State) (sp : Space) (a : Nat) (b : Bytes) : (s.writeMem sp a b).images = s.images := by
  cases sp <;> rfl
@[simp] theorem State.setMem_timers (s : State) (sp : Space) (m : Memory) : (s.setMem sp m).timers = s.timers := by cases sp <;> rfl
@[simp] theorem State.writeMem_timers (s : State) (sp : Space) (a : Nat) (b : Bytes) : (s.writeMem sp a b).timers = s.timers := by
  cases sp <;> rfl
@[simp] theorem State.setMem_jobs (s : State) (sp : Space) (m : Memory) : (s.setMem sp m).jobs = s.jobs := by cases sp <;> rfl
@[simp] theorem State.writeMem_jobs (s : State) (sp : Space) (a : Nat) (b : Bytes) : (s.writeMem sp a b).jobs = s.jobs := by
  cases sp <;> rfl
@[simp] theorem State.setMem_items (s : State) (sp : Space) (m : Memory) : (s.setMem sp m).items = s.items := by cases sp <;> rfl
@[simp] theorem State.writeMem_items (s : State) (sp : Space) (a : Nat) (b : Bytes) : (s.writeMem sp a b).items = s.items := by
  cases sp <;> rfl
@[simp] theorem State.setMem_text (s : State) (sp : Space) (m : Memory) : (s.setMem sp m).text = s.text := by cases sp <;> rfl
@[simp] theorem State.writeMem_text (s : State) (sp : Space) (a : Nat) (b : Bytes) : (s.writeMem sp a b).text = s.text := by
  cases sp <;> rfl
@[simp] theorem State.setMem_queues (s : State) (sp : Space) (m : Memory) : (s.setMem sp m).queues = s.queues := by cases sp <;> rfl
@[simp] theorem State.writeMem_queues (s : State) (sp : Space) (a : Nat) (b : Bytes) : (s.writeMem sp a b).queues = s.queues := by
  cases sp <;> rfl
@[simp] theorem State.setMem_cores (s : State) (sp : Space) (m : Memory) : (s.setMem sp m).cores = s.cores := by cases sp <;> rfl
@[simp] theorem State.writeMem_cores (s : State) (sp : Space) (a : Nat) (b : Bytes) : (s.writeMem sp a b).cores = s.cores := by
  cases sp <;> rfl
@[simp] theorem State.setMem_kennels (s : State) (sp : Space) (m : Memory) : (s.setMem sp m).kennels = s.kennels := by cases sp <;> rfl
@[simp] theorem State.writeMem_kennels (s : State) (sp : Space) (a : Nat) (b : Bytes) : (s.writeMem sp a b).kennels = s.kennels := by
  cases sp <;> rfl
@[simp] theorem State.setMem_restarting (s : State) (sp : Space) (m : Memory) : (s.setMem sp m).restarting = s.restarting := by cases sp <;> rfl
@[simp] theorem State.writeMem_restarting (s : State) (sp : Space) (a : Nat) (b : Bytes) : (s.writeMem sp a b).restarting = s.restarting := by
  cases sp <;> rfl
@[simp] theorem State.setMem_reloading (s : State) (sp : Space) (m : Memory) : (s.setMem sp m).reloading = s.reloading := by cases sp <;> rfl
@[simp] theorem State.writeMem_reloading (s : State) (sp : Space) (a : Nat) (b : Bytes) : (s.writeMem sp a b).reloading = s.reloading := by
  cases sp <;> rfl
@[simp] theorem State.setMem_heel (s : State) (sp : Space) (m : Memory) : (s.setMem sp m).heel = s.heel := by cases sp <;> rfl
@[simp] theorem State.writeMem_heel (s : State) (sp : Space) (a : Nat) (b : Bytes) : (s.writeMem sp a b).heel = s.heel := by
  cases sp <;> rfl
@[simp] theorem State.setMem_contexts (s : State) (sp : Space) (m : Memory) : (s.setMem sp m).contexts = s.contexts := by cases sp <;> rfl
@[simp] theorem State.writeMem_contexts (s : State) (sp : Space) (a : Nat) (b : Bytes) : (s.writeMem sp a b).contexts = s.contexts := by
  cases sp <;> rfl
@[simp] theorem State.setMem_msgIds (s : State) (sp : Space) (m : Memory) : (s.setMem sp m).msgIds = s.msgIds := by cases sp <;> rfl
@[simp] theorem State.writeMem_msgIds (s : State) (sp : Space) (a : Nat) (b : Bytes) : (s.writeMem sp a b).msgIds = s.msgIds := by
  cases sp <;> rfl
@[simp] theorem State.setMem_clock (s : State) (sp : Space) (m : Memory) : (s.setMem sp m).clock = s.clock := by cases sp <;> rfl
@[simp] theorem State.writeMem_clock (s : State) (sp : Space) (a : Nat) (b : Bytes) : (s.writeMem sp a b).clock = s.clock := by
  cases sp <;> rfl
@[simp] theorem State.setMem_ports (s : State) (sp : Space) (m : Memory) : (s.setMem sp m).ports = s.ports := by cases sp <;> rfl
@[simp] theorem State.writeMem_ports (s : State) (sp : Space) (a : Nat) (b : Bytes) : (s.writeMem sp a b).ports = s.ports := by
  cases sp <;> rfl
@[simp] theorem State.setMem_time (s : State) (sp : Space) (m : Memory) : (s.setMem sp m).time = s.time := by cases sp <;> rfl
@[simp] theorem State.writeMem_time (s : State) (sp : Space) (a : Nat) (b : Bytes) : (s.writeMem sp a b).time = s.time := by
  cases sp <;> rfl
@[simp] theorem State.setMem_uptime (s : State) (sp : Space) (m : Memory) : (s.setMem sp m).uptime = s.uptime := by cases sp <;> rfl
@[simp] theorem State.writeMem_uptime (s : State) (sp : Space) (a : Nat) (b : Bytes) : (s.writeMem sp a b).uptime = s.uptime := by
  cases sp <;> rfl
@[simp] theorem State.setMem_dma (s : State) (sp : Space) (m : Memory) : (s.setMem sp m).dma = s.dma := by cases sp <;> rfl
@[simp] theorem State.writeMem_dma (s : State) (sp : Space) (a : Nat) (b : Bytes) : (s.writeMem sp a b).dma = s.dma := by
  cases sp <;> rfl
@[simp] theorem State.setMem_pools (s : State) (sp : Space) (m : Memory) : (s.setMem sp m).pools = s.pools := by cases sp <;> rfl
@[simp] theorem State.writeMem_pools (s : State) (sp : Space) (a : Nat) (b : Bytes) : (s.writeMem sp a b).pools = s.pools := by
  cases sp <;> rfl
@[simp] theorem State.setMem_chk (s : State) (sp : Space) (m : Memory) : (s.setMem sp m).chk = s.chk := by cases sp <;> rfl
@[simp] theorem State.writeMem_chk (s : State) (sp : Space) (a : Nat) (b : Bytes) : (s.writeMem sp a b).chk = s.chk := by
  cases sp <;> rfl
@[simp] theorem State.setMem_bri (s : State) (sp : Space) (m : Memory) : (s.setMem sp m).bri = s.bri := by cases sp <;> rfl
@[simp] theorem State.writeMem_bri (s : State) (sp : Space) (a : Nat) (b : Bytes) : (s.writeMem sp a b).bri = s.bri := by
  cases sp <;> rfl
@[simp] theorem State.setMem_store (s : State) (sp : Space) (m : Memory) : (s.setMem sp m).store = s.store := by cases sp <;> rfl
@[simp] theorem State.writeMem_store (s : State) (sp : Space) (a : Nat) (b : Bytes) : (s.writeMem sp a b).store = s.store := by
  cases sp <;> rfl
@[simp] theorem State.setMem_fleet (s : State) (sp : Space) (m : Memory) : (s.setMem sp m).fleet = s.fleet := by cases sp <;> rfl
@[simp] theorem State.writeMem_fleet (s : State) (sp : Space) (a : Nat) (b : Bytes) : (s.writeMem sp a b).fleet = s.fleet := by
  cases sp <;> rfl
@[simp] theorem State.setMem_security (s : State) (sp : Space) (m : Memory) : (s.setMem sp m).security = s.security := by cases sp <;> rfl
@[simp] theorem State.writeMem_security (s : State) (sp : Space) (a : Nat) (b : Bytes) : (s.writeMem sp a b).security = s.security := by
  cases sp <;> rfl
@[simp] theorem State.setMem_sheep (s : State) (sp : Space) (m : Memory) : (s.setMem sp m).sheep = s.sheep := by cases sp <;> rfl
@[simp] theorem State.writeMem_sheep (s : State) (sp : Space) (a : Nat) (b : Bytes) : (s.writeMem sp a b).sheep = s.sheep := by
  cases sp <;> rfl
@[simp] theorem State.mem_setMem_same (s : State) (sp : Space) (m : Memory) : (s.setMem sp m).mem sp = m := by cases sp <;> rfl
theorem State.mem_setMem_other (s : State) (sp sq : Space) (m : Memory) (h : sq ≠ sp) : (s.setMem sp m).mem sq = s.mem sq := by
  cases sp <;> cases sq <;> first | rfl | exact absurd rfl h

end Sys2Proof.Machine
end

