-- ==== Sys2Proof/Tests/Slice0.lean ====
section
/-! SUPPORT. Tests: for every statement with hypotheses concrete states and operands that meet them together, worked examples
of the spec, single steps, and an ill-formed term for every check of well-formedness. -/

set_option maxRecDepth 4000

namespace Sys2Proof.Tests

open Sys2Proof Sys2Proof.Machine

/-! ### States to test on -/

/-- Fields of an instruction of form R, of form I, and with a TYPE. -/
def fieldsR (d a b imm : Nat) : Fields := ⟨0, false, Fin.ofNat 32 d, Fin.ofNat 32 a, Fin.ofNat 32 b, 0, 9, BitVec.ofNat 28 imm, .clean⟩
def fieldsI (d a b imm : Nat) : Fields := ⟨0, false, Fin.ofNat 32 d, Fin.ofNat 32 a, Fin.ofNat 32 b, 0, 9, BitVec.ofNat 28 imm, .clean⟩
def fieldsT (ty d a b imm : Nat) : Fields := ⟨0, false, Fin.ofNat 32 d, Fin.ofNat 32 a, Fin.ofNat 32 b, 0, Fin.ofNat 16 ty, BitVec.ofNat 28 imm, .clean⟩

/-- Kennel 0 is bound to hedge 0, stage 5, group 1; core 1 holds a few values, and an assigned opcode stands at its pc. -/
def coreState : State :=
  { State.reset with
    kennels := Tab.empty.insert 0 { Kennel.reset with bound := some ⟨0, 5, 1, 0⟩, regions := (Tab.empty.insert 0 Region.shared).insert 1 (.owned 1) }
    cores := Tab.empty.insert 1 { Core.reset with
      pc := 8, imem := (Tab.empty.insert 8 1).insert 12 1, s := ((Tab.empty.insert 1 4088).insert 2 5).insert 3 (BitVec.ofNat 64 0x10000) } }

/-- As `coreState`, with a pc that is no multiple of 8: a state that no run reaches. -/
def oddState : State := coreState.setCore 1 { coreState.core 1 with pc := 12 }

/-- As `coreState`, with no instruction at the pc. -/
def blankState : State := coreState.setCore 1 { coreState.core 1 with imem := Tab.empty }

/-- As `coreState`, with a GET in flight that writes the first 256 bytes of data memory, which s3 points to. -/
def copyState : State := coreState.setCore 1 { coreState.core 1 with tags := Tab.empty.insert 4 ⟨false, 0x10000, 0, 0, 256⟩ }

/-- A program whose channel table binds two channels of core 1 and core 2 of a kennel, and one of core 1 to no kennel. -/
def chanProgram : Program :=
  ⟨0, 0, 0, 0, 0, 0, 0, [], [], [], [⟨0, 0xFFFF, 1, 0, 0, 0xFFFF, 2, 3⟩, ⟨0, 0xFFFF, 1, 1, 0, 0xFFFF, 2, 4⟩]⟩

/-- An image of one stage, number 5, of one kennel a group, that runs the program. -/
def chanImage : Image :=
  { bytes := [], digest := [], varies := false, stages := [⟨0, 5, 4, 0, 1, 0, 1, 1, 0, 0, 0, 0⟩], edges := [], claims := [],
    programs := [chanProgram], tables := [], timers := [], gates := [], planReq := 0, bound := [(5, [0])], reserve := [], engines := [] }

/-- Core 1 runs the program, with a message on its way and one that waits. -/
def chanState : State :=
  { coreState.setCore 1 { coreState.core 1 with outq := Tab.empty.insert 0 [.scalar 7], inq := Tab.empty.insert 0 [.scalar 9] } with
    images := Tab.empty.insert 0 chanImage }

/-- Pool 0 of hedge 0 in DRAM holds buffer 1; core 1 is about to copy 64 bytes of it to its data memory. -/
def poolState : State :=
  { coreState.setCore 1 { coreState.core 1 with
      s := (((Tab.empty.insert 1 1).insert 2 0).insert 3 64).insert 4 (BitVec.ofNat 64 0x10000) } with
    pools := Tab.empty.insert 0 ⟨0, true, 0, 256, 4, [⟨5, 0, 4⟩], Tab.empty.insert 1 ⟨1, 5⟩, []⟩ }

/-- The fields of that GET, under tag 4. -/
def copyFields : Fields := ⟨0, false, 4, 1, 2, 3, 9, 4, .clean⟩

/-- The copy is in flight. -/
def copyState2 : State := poolState.setCore 1 { poolState.core 1 with tags := Tab.empty.insert 4 ⟨false, 0x10000, 1, 0, 64⟩ }

/-- The first two regions of the kennel store are SHARED and s1 points to them. -/
def overlayState : State :=
  (coreState.setKennel 0 { coreState.kennel 0 with regions := (Tab.empty.insert 0 Region.shared).insert 1 .shared }).setCore 1
    { coreState.core 1 with s := Tab.empty.insert 1 (BitVec.ofNat 64 0x100000) }

/-- Job 3 of hedge 0: it runs the one-stage image below and is RUNNING. -/
def demoDesc : JobDesc := ⟨77, 0, 0, 1, 0, 0, 0, 0, 0, List.replicate 32 0⟩
def demoJob : Job := newJob demoDesc ⟨10, [], []⟩ ⟨[(0, 0)], [], [], 0, 0, 0, false⟩

/-- An image of one stage, number 5, with an edge that leaves its port 0. -/
def sampleImage : Image := { chanImage with edges := [⟨0, 5, 0, 9, 0⟩] }

/-- A sample of job 3 at stage 5. -/
def demoItem (core : Option (Nat × Nat)) : Item := ⟨3, 5, 0, 0, 0, 6, 6, .bytes [1, 2, 3], 0, [], 0, 0, [], [], false, core⟩

/-- Core 1 works on the sample, which is in buffer 1 of pool 0. -/
def sampleState : State :=
  { (poolState.setCore 1 { coreState.core 1 with held := none }).setFld (Reg.ENL_JOB_STATUS 3) Fld.ENL_JOB_STATUS_STATE 2 with
    images := Tab.empty.insert 0 sampleImage
    jobs := Tab.empty.insert 3 demoJob
    pools := Tab.empty.insert 0 ⟨0, true, 0, 4096, 4, [⟨5, 0, 4⟩], Tab.empty.insert 1 ⟨1, 5⟩, []⟩
    items := [demoItem (some (1, 1))] }

/-- The sample waits, and core 1 waits for one in SIN. -/
def dispatchState : State :=
  { sampleState.setCore 1 { coreState.core 1 with held := none, blocked := .sin 4 } with items := [demoItem none] }

/-- Core 1 holds a sample with no budget left; its group waits to restart and another one for its reload. -/
def budgetState : State :=
  { sampleState.setCore 1 { coreState.core 1 with held := some ⟨3, 5, 0, 6⟩ } with
    images := Tab.empty.insert 0 { sampleImage with programs := [{ chanProgram with budget := 100 }], reserve := [(5, [7])] }
    restarting := [(0, 5, 1)]
    reloading := [(0, 5, 1)] }

/-- The host port is up and the device runs; job 3 is RUNNING. -/
def hostState : State :=
  { sampleState.setFld Reg.PWR_DOMAINS Fld.PWR_DOMAINS_ON 0xFFFFF with sheep := { sampleState.sheep with mode := .ready } }

/-- Job 3 is DRAINING with nothing left. -/
def drainState : State := { hostState.setFld (Reg.ENL_JOB_STATUS 3) Fld.ENL_JOB_STATUS_STATE 3 with items := [] }

/-- Job 3 is READY. -/
def readyState : State := hostState.setFld (Reg.ENL_JOB_STATUS 3) Fld.ENL_JOB_STATUS_STATE 1

/-- A sample of job 3 waits at engine stage 5, of a kind, with the parameters given; shard 0 has the index table given. -/
def engineState (kind : Nat) (table : Bytes) (p : Payload) (indexes : List (Nat × Bytes)) : State :=
  { sampleState with
    images := Tab.empty.insert 0 { sampleImage with
      stages := [⟨0, 5, kind, 0, 0, 0, 0, 0, 0, 3, 1, 0⟩], tables := [⟨0, 1, table⟩], engines := [(5, [2])] }
    jobs := Tab.empty.insert 3 { demoJob with
      manifest := ⟨10, [⟨0, 1, 0, 0, 1, 1, 0, 4096, 0, 0, 10, 0, 0, if indexes = [(0, List.replicate 64 0)] then 48 else 16, false, []⟩], []⟩
      indexes := indexes
      streams := [{ demoJob.newStream 0 noQueue (resumeOf []) none with
        window := [⟨0, 6, 6, { SampleFacts.new with raw := some [1, 2] }, false, false⟩] }] }
    items := [{ demoItem none with payload := p }] }

/-- The reference that names it. -/
def engineRef : ItemRef := ⟨3, 5, 0, 6⟩

/-- Job 3 has a MASK stage of two streams, and stage 5 an empty vocabulary. -/
def maskState : State := engineState kindMask ([0, 0, 0, 0, 2, 0] ++ List.replicate 10 0) .nothing []

/-- Timer 2 runs with its pulse high; pin 1 is PPS_OUT and pin 2 PPS_IN; the timers' interval runs with an event held. -/
def clockState : State :=
  let t := ((State.reset.startTimer 2 ⟨true, true, 4, 100, 0, 0, 1000⟩ 0).adjustPin 1 fun p => { p with function := 1 }).adjustPin 2
    fun p => { p with function := 2 }
  { t with
    timers := t.timers.adjust 2 fun r => { r with pulseHigh := true }
    board := { t.board with coalesce := Tab.empty.insert 0x2000 ⟨true, true⟩ } }

/-- Session 1 is enabled on its pins for job 3 and paired; an own digest waits, and two frames are not acknowledged. -/
def heelTest : State :=
  ((hostState.setReg (Reg.HEEL_CTRL 1) 101).setHeelState 1 heelPaired).setHeel 1 { HeelSession.idle with
    ownBatch := [⟨5, 0, 0, [], none⟩], nextSeq := 5, expected := 7, unacked := [(3, []), (4, [])] }

/-- Session 1 waits in START of job 3 for the peer. -/
def heelWait : State :=
  let t := ((readyState.setReg (Reg.HEEL_CTRL 1) 101).setHeelState 1 heelWaitPeer).setHeel 1 { HeelSession.idle with expected := 7 }
  t.adjustJob 3 fun j => { j with starting := true }

/-- Session 1 is frozen with its job halted. -/
def heelIce : State := (heelTest.setHeelState 1 heelIsFrozen).setFld (Reg.ENL_JOB_STATUS 3) Fld.ENL_JOB_STATUS_STATE 5

/-- A good frame of the pin link of a session with a SEQ. -/
def heelMsg (kind : Nat) (k : Fin 4) (seq : Nat) : HeelFrame :=
  ⟨k, true, seq, 0, BitVec.ofNat 32 (heelCrc seq 0 (heelMessage kind k 0 0 0 (List.replicate 32 0))), 0, 0, 0, List.replicate 32 0, []⟩

/-- Key 3 of the store, which context 7 uses. -/
def plynKey : Bytes := List.replicate 32 0

/-- A WRITE of node 9 to buffer 2 of context 7. -/
def plynHdr (msgId fragment : Nat) : PltHeader := ⟨1, 1, 0, 0, 0, 7, fragment, 1, msgId, 9, 5, 0, 0, 0, 0, 2, 1, 0, 4, 0⟩

/-- Context 7: on chip, under key 3, with a writable and readable buffer 2 of 1 MiB; a message to node 9 is in flight. -/
def plynCtx : Context where
  hedge := 0
  keySource := 1
  flags := 0
  keyId := 3
  filterLog2 := 10
  tclass := 0
  dramClaim := 0
  onChip := true
  stamp := 0
  fetching := false
  job := none
  jobEpoch := 0
  buffers := [⟨2, 1, 7, 0, 2 ^ 32, 1, Tab.empty⟩]
  filter := []
  phases := Tab.empty
  toAck := Tab.empty
  cameOn := Tab.empty
  partialImm := []
  posted := []
  senders := [⟨9, 0, [⟨0, .fleet 0, ⟨0, 0, 0, none⟩, [⟨plynHdr 0 0, [], some [], false, false, 0, 10, 0⟩], some 0⟩], []⟩]
  trips := Tab.empty
  reports := []
  reads := []

/-- Port 0 is enabled with its link up; this device is source 5, and context 7 is as given. -/
def plynWith (c : Context) : State :=
  let t := ((hostState.setReg Reg.PLT_SOURCE_ID 5).setBit (Reg.PLT_PORT_CFG 0) Fld.PLT_PORT_CFG_ENABLE true).setFld
    (Reg.PLT_PORT_STATUS 0) Fld.PLT_PORT_STATUS_LINK 1
  { t with
    contexts := Tab.empty.insert 7 c
    security := { t.security with keys := t.security.keys.insert 3 ⟨0, 2, plynKey⟩ } }
def plynState : State := plynWith plynCtx

/-- An envelope without a valid signature. -/
def envelope (code scope counter : Nat) (args : Bytes) : Bytes :=
  leBytes 4 0x444D4348 ++ leBytes 2 code ++ leBytes 1 scope ++ [0] ++ leBytes 8 counter ++ List.replicate 32 0 ++ leBytes 4 args.length ++
    args ++ List.replicate 96 0

/-- The management network has a session, and the device serves commands in a mode. -/
def mgmtState (mode : SheepMode) : State :=
  { hostState with security := { hostState.security with tlsSessions := 1 }, sheep := { hostState.sheep with mode := mode } }

/-- May an envelope of a command be sent to a state, with arguments in their layout and in a mode that serves it? -/
def mgmtReady (t : State) (code : Nat) (args : Bytes) : Bool :=
  let b := envelope code 0xFF 1 args
  let e := envelopeOf b
  decide (t.mgmtBytes (.network b) = some b) && envelopeOk b && e.code == code && decide (e.args = args) && argsOk code args &&
    t.sheep.mode.serves code

/-- Namespace 1 is present and encrypted, with a unit under its RETIRING generation 4; its third slot is free. -/
def nsState : State :=
  let t := (((mgmtState .ready).setBit (Reg.FTL_NS_STATE 1) Fld.FTL_NS_STATE_PRESENT true).setBit (Reg.FTL_NS_STATE 1)
    Fld.FTL_NS_STATE_ENCRYPT true).setReg (Reg.FTL_NS_SIZE 1) 100
  let t := ((t.setKeySlot 1 0 4 keyRetiring).setKeySlot 1 1 5 keyActive).setFld Reg.FTL_CAPACITY Fld.FTL_CAPACITY_UNITS 300
  { t with store := { t.store with
      namespaces := Tab.empty.insert 1 ⟨none, Tab.empty.insert 7 ⟨[9], 3, 3, 0, 4, 0, 0, 0, [], false⟩⟩
      dataBlocks := 10, unitsPerBlock := 4, rated := 100, nextPseq := 20 } }

/-- A command on namespace 1. -/
def trsCmd (op lba count seq : Nat) : TrsCmd := ⟨op, 1, lba, count, 0x1000, seq, [], 0, [], [], [], none, none⟩

/-! ### Hypotheses of the statements are met -/

theorem test_witness_scalar : (coreState.takes 1 (fieldsR 3 1 2 0) .no && (coreState.core 1).executes (fieldsR 3 1 2 0) && formR (fieldsR 3 1 2 0) 0 &&
    formI (fieldsI 3 1 0 7)) = true := by decide

theorem test_witness_division : (coreState.takes 1 (fieldsT 9 30 1 0 0) .no && (coreState.core 1).executes (fieldsT 9 30 1 0 0) &&
    formR (fieldsT 9 30 1 0 0) 0 && (coreState.core 1).getS 0 == 0 && formR (fieldsT 10 3 1 2 0) 0 && (coreState.core 1).getS 2 != 0 &&
    formR (fieldsT 4 31 1 2 0) 0) = true := by decide

theorem test_witness_control : (coreState.takes 1 (fieldsR 3 1 2 7) .no && (coreState.core 1).executes (fieldsR 3 1 2 7) && formR (fieldsR 3 1 2 7) 3 &&
    isP (fieldsR 3 1 2 7).d && [0, 1, 2, 3, 4, 5].all (fun n => formI (fieldsI 3 1 0 n)) && (coreState.kennel 0).bound.isSome &&
    formR (fieldsR 3 0 0 0) 0) = true := by decide

theorem test_witness_branch : (coreState.takes 1 (fieldsI 0 0 0 1) .no && (coreState.core 1).executes (fieldsI 0 0 0 1) && formI (fieldsI 0 0 0 1) &&
    decide ((coreState.core 1).pc = 8) && formI (fieldsI 0 0 0 (2 ^ 28 - 2)) && formI (fieldsI 0 0 0 511) &&
    formR (fieldsR 0 1 0 0) 0 && formR (fieldsR 0 2 0 0) 0 && decide (((coreState.core 1).getS 1).toNat = 4088) &&
    decide (((coreState.core 1).getS 2).toNat = 5) && decide (4096 ≤ ((coreState.core 1).getS 3).toNat)) = true := by decide

theorem test_witness_branch_unaligned : ((oddState.takes 1 (fieldsI 0 0 0 1) .no && (oddState.core 1).executes (fieldsI 0 0 0 1)) = true ∧
    0 ≤ ((oddState.core 1).pc : Int) + 8 * (fieldsI 0 0 0 1).imm.toInt ∧ ((oddState.core 1).pc : Int) + 8 * (fieldsI 0 0 0 1).imm.toInt < 4096 ∧
    (((oddState.core 1).pc : Int) + 8 * (fieldsI 0 0 0 1).imm.toInt) % 8 ≠ 0) := by decide

theorem test_witness_illegal : (coreState.takes 1 (fieldsR 1 1 1 0) .no && decide (11 ≤ (fieldsT 11 0 0 0 0).ty.val) && decide ((fieldsR 1 1 1 1).imm ≠ 0) &&
    decide ((fieldsI 1 1 1 0).b ≠ 0) && !(coreState.core 1).executes { fieldsR 1 1 1 0 with pneg := true } && coreState.hasCore 80 &&
    !(coreState.live && coreState.coreReady 80 .no) && !coreState.hasCore 80000 &&
    ([.no, .tag, .send, .recv].all fun b => coreState.coreReady 1 b) && !blankState.opcodeOk 1 && blankState.coreReady 1 .no) = true := by decide

theorem test_witness_load_store : (coreState.takes 1 (fieldsI 2 3 0 8) .tag && (coreState.core 1).executes (fieldsI 2 3 0 8) && formI (fieldsI 2 3 0 8) &&
    decide (coreState.accessFault 1 ((coreState.core 1).address (fieldsI 2 3 0 8)) 8 8 false = none) &&
    decide (coreState.accessFault 1 ((coreState.core 1).address (fieldsI 2 3 0 8)) 8 8 true = none) &&
    decide (coreState.accessFault 1 ((coreState.core 1).address (fieldsT 8 2 3 0 32)) 256 32 true = none) &&
    !(coreState.core 1).tagged 65544 8 true && (coreState.core 1).governs (fieldsT 8 2 3 0 32) 0) = true := by decide

theorem test_witness_load_waits : (copyState.takes 1 (fieldsI 2 3 0 8) .tag && (copyState.core 1).tagged 65536 8 true && (copyState.core 1).tagged 65536 256 false &&
    decide (copyState.accessFault 1 65536 8 8 false = none)) = true := by decide

theorem test_witness_access : (coreState.takes 1 (fieldsI 2 0 0 0) .tag && (coreState.core 1).executes (fieldsI 2 0 0 0) && formI (fieldsI 2 0 0 0) &&
    decide ((coreState.core 1).address (fieldsI 2 0 0 0) = 0) && decide ((coreState.core 1).address (fieldsI 2 3 0 1) = 65537) &&
    decide ((coreState.core 1).address (fieldsI 2 0 0 0x100800) = 0x100800) && decide ((coreState.kennel 0).regions.find 2 = none) &&
    decide ((coreState.kennel 0).regions.find 0 = some .shared) && decide ((coreState.kennel 0).regions.find 1 = some (.owned 1))) = true := by decide

theorem test_witness_store_frame : (coreState.takes 1 (fieldsI 2 3 1 8) .tag && (coreState.core 1).executes (fieldsI 2 3 1 8) &&
    decide (coreState.accessFault 1 ((coreState.core 1).address (fieldsI 2 3 1 8)) 8 8 true = none) &&
    !(coreState.core 1).tagged 65544 8 true) = true := by decide

theorem test_witness_wide_store_frame : (coreState.takes 1 (fieldsT 8 2 3 0 32) .tag && formI (fieldsT 8 2 3 0 32) &&
    decide (coreState.accessFault 1 ((coreState.core 1).address (fieldsT 8 2 3 0 32)) 256 32 true = none) &&
    (coreState.core 1).governs (fieldsT 8 2 3 0 32) 0 && !(coreState.core 1).tagged 65568 256 true) = true := by decide

theorem test_witness_stores_answer : (∃ t, exec (.st 1 (fieldsI 2 3 1 8)) coreState = .next t) ∧
    ∃ t, exec (.wst 1 (fieldsT 8 2 3 0 32)) coreState = .next t := ⟨⟨_, rfl⟩, ⟨_, rfl⟩⟩

theorem test_witness_wide : (coreState.takes 1 (fieldsT 8 2 3 1 0) .no && decide ((fieldsT 8 2 3 1 0).d.val < 16) && decide ((fieldsT 8 2 3 1 0).a.val < 16) &&
    decide ((fieldsT 8 2 3 1 0).b.val < 16) && decide ((fieldsT 8 2 3 1 0).c.val < 8) &&
    [6, 7, 0, 1].all (fun ty => decide ((fieldsT ty 2 3 1 0).ty.val ≤ 8)) && decide (uimm (fieldsT 8 2 3 1 0) = 0) &&
    decide (uimm (fieldsT 5 2 3 1 1) < 2)) = true := by decide

theorem test_witness_wcmp : (coreState.takes 1 (fieldsT 8 2 3 1 5) .no && decide ((fieldsT 8 2 3 1 5).ty.val ≤ 8) && decide (uimm (fieldsT 8 2 3 1 5) < 8) &&
    decide ((fieldsT 8 2 3 1 5).d.val < 8) && decide ((fieldsT 8 2 3 1 5).a.val < 16) && decide ((fieldsT 8 0 3 1 5).d.val = 0)) = true := by decide

theorem test_witness_reductions : (coreState.takes 1 (fieldsT 5 2 3 2 0) .no && (coreState.core 1).executes (fieldsT 5 2 3 2 0) && formR (fieldsT 5 2 3 2 0) 0 &&
    formR (fieldsT 8 2 3 0 0) 0 && (typeFormat 8).isSome && (typeFormat 6).isSome && decide (((coreState.core 1).getS 2).toNat < elementCount 4) &&
    decide (elementCount 4 ≤ ((coreState.core 1).getS 1).toNat)) = true := by decide

theorem test_witness_wraps : (coreState.takes 1 (fieldsT 9 3 1 0 0) .no && (coreState.core 1).executes (fieldsT 9 3 1 0 0) && decide ((fieldsT 9 3 1 0 0).d.val ≠ 0) &&
    formR (fieldsT 9 3 1 0 0) 0 && decide (((coreState.core 1).getS 0).toNat = 0) && formI (fieldsI 3 1 0 7)) = true := by decide

theorem test_witness_nan : (0x7E01 / 2 ^ 10 % 2 ^ 5 = 31 ∧ 0x7E01 % 2 ^ 10 ≠ 0) ∧ (0x7F81 / 2 ^ 7 % 2 ^ 8 = 255 ∧ 0x7F81 % 2 ^ 7 ≠ 0) ∧
    (0x7F800001 / 2 ^ 23 % 2 ^ 8 = 255 ∧ 0x7F800001 % 2 ^ 23 ≠ 0) ∧ Nat.testBit 0x7F800001 22 = false := by decide

theorem test_witness_channels : (chanState.takes 1 (fieldsR 3 2 0 0) .send && chanState.takes 1 (fieldsR 3 2 0 0) .recv && chanState.takes 1 (fieldsR 3 2 0 0) .no && chanState.live && chanState.hasCore 1 &&
    (chanState.core 1).executes (fieldsR 3 2 0 0) && formR (fieldsR 3 2 0 0) 4 && formR (fieldsR 3 2 0 1) 4 &&
    decide (chanState.channelPeer 1 0 0 = some (2, 3)) && decide (chanState.channelPeer 1 1 0 = some (2, 4)) &&
    decide (chanState.channelPeer 1 0 1 = none) && decide (chanState.channelPeer 1 1 1 = none) &&
    decide ((queueAt (chanState.core 1).outq 0) = [.scalar 7]) && decide ((queueAt (chanState.core 1).inq 0) = [.scalar 9]) &&
    (chanState.core 1).mayLeave (.scalar 7) && decide ((chanState.kennel 0).regions.find 1 = some (.owned 1)) &&
    decide ((chanState.kennel 0).regions.find 0 = some .shared)) = true := by decide

theorem test_witness_copies : (poolState.takes 1 copyFields .tag && poolState.takes 1 copyFields .no && (poolState.core 1).executes copyFields && formR copyFields 4 &&
    formR { copyFields with imm := 0 } 0 && decide ((poolState.core 1).tags.find 4 = none) &&
    ((poolState.bindingOf 1).bind fun b => poolState.hubBuffer b.hedge ((poolState.core 1).getS copyFields.a.val).toNat).isSome &&
    decide (((poolState.core 1).getS copyFields.c.val).toNat = 64) &&
    decide (poolState.accessFault 1 ((poolState.core 1).getS copyFields.d.val).toNat 64 1 true = none)) = true := by decide

theorem test_witness_tag_complete : (copyState2.live && copyState2.hasCore 1 && ((copyState2.core 1).tags.find 4).isSome &&
    ((copyState2.bindingOf 1).bind fun b => copyState2.hubBuffer b.hedge 1).isSome) = true := by decide

theorem test_witness_overlay : (overlayState.takes 1 (fieldsR 0 1 0 0) .no && (overlayState.core 1).executes (fieldsR 0 1 0 0) && formR (fieldsR 0 1 0 0) 0 &&
    decide (((overlayState.core 1).getS 1).toNat = 0x100000) &&
    decide (∀ r ∈ regionsOf 0x100000 2048, (overlayState.kennel 0).regions.find r = some .shared) &&
    decide (overlayState.accessFault 1 0x100000 2048 2048 false = none)) = true := by decide

theorem test_witness_samples : (sampleState.takes 1 (fieldsR 2 1 0 0) .no && (sampleState.core 1).executes (fieldsR 2 1 0 0) && formR (fieldsR 2 1 0 0) 0 &&
    formR (fieldsR 2 1 0 0) 3 && decide ((sampleState.core 1).held = none) && (sampleState.heldItem 1).isSome && (sampleState.jobImage 3).isSome &&
    decide (sampleImage.outPorts 5 = [0]) && (sampleImage.stage 5).isSome && (sampleState.outputPool 0 5 4088).isSome &&
    !(sampleState.core 1).served.contains 0 && (coreState.heldItem 1).isNone) = true := by decide

theorem test_witness_dispatch : (dispatchState.live && dispatchState.hasCore 1 && (dispatchState.item ⟨3, 5, 0, 6⟩).isSome &&
    decide ((dispatchState.core 1).blocked = .sin 4) && (sampleImage.stage 5).isSome && (dispatchState.jobs.find 3).isSome &&
    decide (dispatchState.heldBuffer 0 1 = some (.dram, 4096, 4096)) && dispatchState.jobActive 3 && dispatchState.coreRuns 1 &&
    decide ((dispatchState.core 1).held = none) &&
    ((dispatchState.item ⟨3, 5, 0, 6⟩).map fun it => dispatchState.mayDispatch sampleImage ⟨0, 5, 4, 0, 1, 0, 1, 1, 0, 0, 0, 0⟩ it 1 &&
      it.payload.toBytes.length ≤ 4096) == some true) = true := by decide

theorem test_witness_exceptions : (budgetState.live && budgetState.hasCore 1 && budgetState.coreRuns 1 && budgetState.exhausted 1 &&
    !coreState.exhausted 1 && decide (((0 : Fin 16).val, 5, 1) ∈ budgetState.restarting) && decide (((0 : Fin 16).val, 5, 1) ∈ budgetState.reloading) &&
    (budgetState.boundStage ⟨0, 5, 1, 0⟩).isSome && budgetState.kennelOk 7) = true := by decide

theorem test_witness_loads : (hostState.hostReaches Reg.ENL_LOAD_CTRL && !hostState.loading &&
    (hostState.setBit Reg.ENL_LOAD_STATUS Fld.ENL_LOAD_STATUS_BUSY true).loading &&
    (hostState.setBit Reg.ENL_LOAD_STATUS Fld.ENL_LOAD_STATUS_BUSY true).hostReaches Reg.ENL_LOAD_CTRL && hostState.live &&
    (loadCheck hostState 0 0 0 []).isSome && hostState.slotsOf 0 == [3] && hostState.jobActive 3 && (hostState.images.find 0).isSome &&
    (hostState.images.find 1).isNone && (hostState.slotsOf 1).isEmpty) = true := by decide

theorem test_witness_failed_load : (hostState.live && (loadCheck hostState 0 0 0 []).isSome &&
    decide ((({ hostState with loadOp := some ⟨0, 0, 0, []⟩ } : State)).loadOp = some ⟨0, 0, 0, []⟩)) = true := by decide

theorem test_witness_jobs : (hostState.hostReaches (Reg.ENL_JOB_CTRL 3) && decide (hostState.jobState 3 = jobRunning) &&
    decide (hostState.jobState 4 = jobEmpty) && decide (drainState.jobState 3 = jobDraining) && drainState.drained 3 && drainState.live &&
    decide (readyState.jobState 3 = jobReady) && readyState.hostReaches (Reg.ENL_JOB_CTRL 3) && (readyState.jobs.find 3).isSome &&
    !demoJob.starting && !demoJob.map.fleet && readyState.queues.vals.isEmpty && decide (readyState.heelOf 3 = none)) = true := by decide

theorem test_witness_engine_stages : (let c := engineState kindCrypt [0] (.bytes [1, 2]) []
    let c1 := engineState kindCrypt [1] (.bytes [1, 2]) []
    let x := engineState kindCrypt [0] (.stored [1, 2] (some [3])) [(0, [0, 0, 0, 0, 0, 0, 0, 0])]
    let y := engineState kindCrypt [0] (.stored [1, 2] (some [3])) []
    let z := engineState kindCrypt [0] .nothing []
    let d := engineState kindDecompress [0, 16] (.bytes [1, 2]) []
    let g := engineState kindDigest [] (.bytes [1, 2]) []
    [c, c1, x, y, z, d, g].all (fun t => t.live && (t.jobs.find 3).isSome) &&
    [c, c1, x, y, z].all (fun t => (t.engineItem engineRef kindCrypt).isSome) && (d.engineItem engineRef kindDecompress).isSome &&
    (g.engineItem engineRef kindDigest).isSome && (((g.items.head?).bind fun it => g.place it.key).bind (·.facts.raw)).isSome &&
    (((g.jobs.find 3).bind fun j => j.entryOf 6).bind fun e => e.2.2.digest).isNone &&
    ((x.jobs.find 3).bind fun j => j.entryOf 6).isSome && ((y.jobs.find 3).bind fun j => j.entryOf 6).isNone) = true := by decide

theorem test_witness_digest : (let g := engineState kindDigest [] (.bytes [1, 2]) [(0, List.replicate 64 0)]
    (g.live && (g.engineItem engineRef kindDigest).isSome && (((g.jobs.find 3).bind fun j => j.entryOf 6).bind fun e => e.2.2.digest).isSome)) = true := by
  decide

theorem test_witness_decode : (let i := engineState kindDecode [1] (.bytes [1, 2]) []
    let i0 := engineState kindDecode [1] .nothing []
    let v0 := engineState kindDecode [2] .nothing []
    let v1 := engineState kindDecode [2] (.bytes [1, 2]) []
    let v2 := engineState kindDecode [2, 5] (.bytes [1, 2]) []
    let w := { v2 with items := v2.items.map fun it => { it with frame := 1 } }
    [i, i0, v0, v1, v2, w].all (fun t => t.live && (t.jobs.find 3).isSome && (t.engineItem engineRef kindDecode).isSome) &&
    i.items.all (fun it => !it.passes && it.payload ≠ .nothing) && (videoTableOf [2, 5]).steer && (videoTableOf [2, 5]).accel &&
    !(videoTableOf [2]).steer && ((v2.jobs.find 3).bind fun j => j.regionFor ((w.items.head?).getD (demoItem none))).isNone) = true := by decide

theorem test_witness_more_stages : (let a := engineState kindResample [0, 0, 0, 0, 1, 0, 1, 0, 3] (.picture ⟨1, 1, 8, .grey, 1, [⟨1, 1, #[7]⟩]⟩) []
    let b := engineState kindResample [] (.frames []) []
    let c := engineState kindResample [] (.bytes [1]) []
    let d := { c with items := c.items.map fun it => it.flag flagUndecodable }
    let e := engineState kindTokenize [] (.bytes [1]) []
    let f := engineState kindTokenize [] .nothing []
    let g := { f with items := f.items.map fun it => it.flag flagUndecodable }
    let h := engineState kindCompress [] (.bytes [1]) []
    let i := engineState kindCompress [] .nothing []
    [a, b, c, d].all (fun t => t.live && (t.jobs.find 3).isSome && (t.engineItem engineRef kindResample).isSome) &&
    [e, f, g].all (fun t => t.live && (t.engineItem engineRef kindTokenize).isSome) &&
    [h, i].all (fun t => t.live && (t.engineItem engineRef kindCompress).isSome && t.retired.isEmpty) &&
    [a, b, c, e, f].all (fun t => t.items.all fun it => !hasFlag it.flags flagUndecodable && !it.passes) &&
    [d, g].all (fun t => t.items.all fun it => hasFlag it.flags flagUndecodable) &&
    (assocList sampleImage.engines 5 ++ [2]).contains 2 && (((h.images.find 0).map fun im => (assocList im.engines 5).contains 2).getD false)) = true := by decide

theorem test_witness_source : (let t := engineState kindSource [1] .nothing [(0, List.replicate 160 0)]
    let u := { engineState kindSource [1] .nothing [] with jobs := t.jobs.adjust 3 fun j => { j with indexes := [] } }
    let w := { t with jobs := t.jobs.adjust 3 fun j => { j with streams := [{ demoJob.newStream 0 noQueue (resumeOf []) (some ⟨0, 7⟩) with window := [⟨0, 6, 6, SampleFacts.new, false, false⟩] }] } }
    [t, u, w].all (fun t => t.live && decide (t.jobState 3 = jobRunning) && t.jobActive 3 && !t.heelPauses 3 && (t.jobs.find 3).isSome &&
      ((t.jobImage 3).bind fun im => im.stageOfKind kindSource).isSome) && ((w.jobs.find 3).bind fun j => (j.stream 0).bind (·.next)).isSome &&
    (t.engineItem engineRef kindSource).isSome && ((t.jobs.find 3).bind fun j => j.entryOf 6).isSome &&
    ((u.jobs.find 3).map fun j => !(u.waitingAt 3 j 0).isEmpty && (j.indexOf 0).isNone) == some true) = true := by decide

theorem test_witness_source_cases : (let t := engineState kindSource [] .nothing []
    let live := engineState kindSource (List.replicate 64 3) .nothing []
    let bad := t.setBit (Reg.FTL_NS_STATE 1) Fld.FTL_NS_STATE_PRESENT true
    let sh : Shard := ⟨0, 1, 0, 0, 1, 1, 0, 4096, 0, 0, 10, 0, 0, 16, false, []⟩
    t.live && decide ((t.orderTable 3).livePin ≠ 0xFF) && !t.unitsStalled sh.locator (sh.units 0 160) && (t.readUnits sh.locator (sh.units 0 160) []).2 &&
    live.live && bad.live) = true := by decide

theorem test_witness_return : (let msgO : Bytes := [1, 0, 0, 0] ++ List.replicate 8 0 ++ [255, 255, 255, 255, 255, 255, 0, 0, 9, 0, 0, 0] ++ List.replicate 8 0
    let msgC := fun (n : Byte) => [3, 0, 0, 0, n, 0, 0, 0] ++ List.replicate 8 0
    let msgT := fun (n : Byte) => [2, 0, 0, 0, n, 0, 0, 0, 1, 0] ++ List.replicate 6 0 ++ [0, 0, 0, 0]
    let w : MaskWork := ⟨1, 0, 0, 0, ⟨0, []⟩, 0, 0, 0⟩
    let o := maskState.setGen 3 0 { GenStream.idle with open_ := true, step := 2, held := [(4, 0, [])] }
    let o := { o with text := { o.text with work := [(3, 0, w)] } }
    maskState.live && maskState.jobActive 3 && ((maskState.maskStage 3).map fun m => returnOk (fieldAt m.table 4 2) msgO &&
      !returnOk (fieldAt m.table 4 2) [1] && returnOk (fieldAt m.table 4 2) (msgT 2) && returnOk (fieldAt m.table 4 2) (msgC 3) && m.openOk (fieldAt msgO 0xC 4) (fieldAt msgO 0x10 2)) == some true &&
    fieldAt msgO 0 1 == 1 && fieldAt (msgC 3) 4 4 == 3 && fieldAt (msgT 2) 0 1 == 2 && (o.gen 3 0).open_ && (o.maskStage 3).isSome && o.jobActive 3 && !(maskState.gen 3 0).open_ &&
    decide ((o.gen 3 0).held = [(4, 0, [])]) && ((o.maskStage 3).map fun m => ((o.engineWork m 0).take 4).find? (fun w => w.1 = 3 && w.2.1 = 0) == some (3, 0, w)) == some true) = true := by decide

theorem test_witness_time : (clockState.live && (clockState.timers.find 2).isSome && ((clockState.timers.find 2).map (·.pulseHigh)) == some true &&
    decide (clockState.servo = ptpFree) && decide ((clockState.setServo ptpAcquiring).servo = ptpAcquiring) && (clockState.setServo ptpHoldover).live &&
    decide ((clockState.setServo ptpHoldover).servo = ptpHoldover) && decide (clockState.pinFunction 1 = 1) && decide (clockState.pinFunction 2 = 2) &&
    decide (clockState.board.coalesce.find 0x2000 = some ⟨true, true⟩) && decide (clockState.board.coalesce.find 0 = none)) = true := by decide

theorem test_witness_records : (let m := engineState kindModel [] .nothing []
    let s0 := engineState kindStore [1, 0, 0, 0, 0, 0, 0, 0, 0, 0, 0, 0, 0, 0, 0, 0, 5] .nothing []
    let s1 := { s0 with jobs := s0.jobs.adjust 3 fun j => { j with store := [(5, 2, [7])] } }
    let s2 := { s1 with images := s1.images.adjust 0 fun im => { im with tables := [] } }
    let q := { readyState with queues := readyState.queues.insert 9 ⟨3, 0, 0, []⟩ }
    [m, s1, s2].all (fun t => t.live && t.jobActive 3 && (t.jobs.find 3).isSome && (t.jobImage 3).isSome) &&
    ((m.jobImage 3).map fun im => im.stageKind 5 == kindModel) == some true &&
    ((s1.jobs.find 3).map fun j => j.store.findIdx? (fun e => e.1 = 5) == some 0 && j.store.length == 1) == some true && !s1.store.activating &&
    (framedRecord 2 [7]).length == 1 && s1.fld (Reg.FTL_JOB_STORE_LBA 3) Fld.FTL_JOB_STORE_LBA_LBA == 0 &&
    ((s1.jobImage 3).map fun im => fieldAt (im.stageTable 5) 0x10 8) == some 5 && ((s2.jobImage 3).map fun im => fieldAt (im.stageTable 5) 0x10 8) == some 0 &&
    !s1.bit (Reg.FTL_NS_STATE 1) Fld.FTL_NS_STATE_READ_ONLY && q.hostReaches (Reg.PBQ_DEPTH 9) && (q.queues.find 9).isSome && q.jobState 3 == jobReady) = true := by decide

theorem test_witness_heel : (heelTest.live && heelTest.hostReaches (Reg.HEEL_CTRL 1) && heelTest.hostReaches (Reg.HEEL_LINKSEL 1) &&
    heelTest.hostReaches (Reg.HEEL_CTRL 2) && !heelTest.heelBusy 2 && !heelTest.bit (Reg.HEEL_CTRL 2) Fld.HEEL_CTRL_ENABLE &&
    heelTest.bit (Reg.HEEL_CTRL 1) Fld.HEEL_CTRL_ENABLE && heelTest.heelBusy 1 && decide (heelTest.heelState 1 = heelPaired) &&
    (heelTest.heelReceive heelSetup (heelMsg heelSetup 1 7)).2.isSome && (heelTest.heelReceive heelSetup (heelMsg heelSetup 1 8)).2.isNone &&
    (heelTest.heelReceive heelAck (heelMsg heelAck 1 0)).2.isSome && heelWait.heelStarting 1 && heelWait.live && !heelWait.heelBusy 1 &&
    (heelWait.heelReceive heelSetup (heelMsg heelSetup 1 7)).2.isSome && !(heelTest.setHeelState 1 heelIdle).heelStarting 1 &&
    ((heelTest.setHeelState 1 heelIdle).heelReceive heelSetup (heelMsg heelSetup 1 7)).2.isSome &&
    heelTest.bit (Reg.HEEL_CTRL 1) Fld.HEEL_CTRL_LINK && (((heelTest.heelSession 1).unacked.dropWhile fun x => x.1 ≠ 3).getLast?).isSome) = true := by decide +kernel

theorem test_witness_heel_digests : (heelTest.live && [heelBatch, heelStage, heelFreeze, heelRequest].all (fun n => (heelTest.heelReceive n (heelMsg n 1 7)).2.isSome) &&
    (heelTest.heelReceive heelBatch (heelMsg heelBatch 1 7)).1.heelTakesDigests 1 && (heelTest.heelReceive heelBatch (heelMsg heelBatch 1 8)).2.isNone &&
    (heelTest.heelReceive heelStage (heelMsg heelStage 1 7)).1.heelTakesDigests 1 &&
    !((heelTest.setHeelState 1 heelIdle).heelReceive heelBatch (heelMsg heelBatch 1 7)).1.heelTakesDigests 1 &&
    !(heelTest.heelSession 1).ownBatch.isEmpty && heelIce.live && decide (heelIce.heelState 1 = heelIsFrozen) && !heelIce.bit (Reg.HEEL_CTRL 1) Fld.HEEL_CTRL_ROLE &&
    (heelIce.heelSession 1).locate.isNone) = true := by decide +kernel

theorem test_witness_heel_locate : (let m : Mismatch := ⟨false, 0, 0, 0, [], []⟩
    let l := heelIce.setHeel 1 { heelIce.heelSession 1 with locate := some ⟨[m], 4, 0, 0, []⟩ }
    let f := heelIce.setBit (Reg.HEEL_CTRL 1) Fld.HEEL_CTRL_ROLE true
    l.live && f.live && (l.heelReceive heelAnswer (heelMsg heelAnswer 1 7)).2.isSome && ((l.heelReceive heelAnswer (heelMsg heelAnswer 1 7)).1.heelSession 1).locate.isSome &&
    (f.heelReceive heelReport (heelMsg heelReport 1 7)).2.isSome && (f.heelReceive heelReport (heelMsg heelReport 1 7)).1.bit (Reg.HEEL_CTRL 1) Fld.HEEL_CTRL_ROLE &&
    decide ((f.heelReceive heelReport (heelMsg heelReport 1 7)).1.heelState 1 = heelIsFrozen) &&
    decide ((heelMsg heelAnswer 1 7).keyA = m.keyA)) = true := by decide +kernel

theorem test_witness_pin_link : ((List.range 4).all (fun k => heelTest.heelState k ≠ heelPaired || heelTest.jobActive (heelTest.heelJob k)) &&
    heelTest.bit (Reg.HEEL_CTRL 1) Fld.HEEL_CTRL_LINK && decide ((heelMsg heelBatch 1 8).seq ≠ (heelTest.heelSession 1).expected) &&
    !heelTest.bit (Reg.HEEL_CTRL 2) Fld.HEEL_CTRL_ENABLE &&
    decide ((heelMsg heelBatch 1 8).crc.toNat ≠ heelCrc 7 0 (heelMessage heelBatch 1 0 0 0 (List.replicate 32 0)))) = true := by decide +kernel

theorem test_witness_receive_order : (plynState.packet 0 0 opWrite (sealFrame plynKey (plynHdr 0 0) [1, 2, 3, 4])).isSome = true ∧
    pltHeaderOf (sealFrame plynKey (plynHdr 0 0) [1, 2, 3, 4]) = plynHdr 0 0 ∧
    (sealFrame plynKey (plynHdr 0 0) [1, 2, 3, 4]).length = pltFrameLength (plynHdr 0 0) ∧
    (let h := plynHdr 0 0
    let off := plynWith { plynCtx with onChip := false }
    let gone := { plynState with contexts := Tab.empty }
    let late := { plynState with time := { plynState.time with sec := 9 } }
    let other := plynWith { plynCtx with keyId := 4 }
    plynState.live && plynState.linkUp 0 0 && !plynState.linkUp 1 0 && decide (h.opcode = opWrite) && h.valid plynState.sourceId &&
    !plynState.ingressStalled 0 0 && decide (plynState.carriedBy [] = .invalid) && !plynState.ageBad h && late.ageBad h && late.linkUp 0 0 && late.live && h.valid late.sourceId && !h.unauth &&
    off.linkUp 0 0 && !off.ageBad h && off.live && h.valid off.sourceId && gone.linkUp 0 0 && !gone.ageBad h && gone.live && h.valid gone.sourceId &&
    other.linkUp 0 0 && !other.ageBad h && other.live && (other.contextKey { plynCtx with keyId := 4 }).isNone) = true := by
  refine ⟨?_, ?_, ?_, by decide⟩
  · exact congrArg Option.isSome (State.packet_sealed (s := plynState) (port := 0) (sub := 0) (c := plynCtx) (h := plynHdr 0 0) (k := plynKey)
      (p := [1, 2, 3, 4]) (by decide) (by decide) (by decide) (by decide) (by decide) (by decide) (by decide) (by decide) (by decide) (by decide) (by decide) (by decide) (by decide) (by decide))
  · rw [pltHeaderOf_sealFrame _ _ rfl]; decide
  · rw [sealFrame_length _ _ _ rfl]; decide

theorem test_witness_receive_shape :
    openFrame plynKey { plynHdr 0 0 with opcode := opAtomicAdd } (sealFrame plynKey { plynHdr 0 0 with opcode := opAtomicAdd } [1, 2, 3, 4]) =
      some [1, 2, 3, 4] ∧
    (let g := { plynHdr 0 0 with opcode := opAtomicAdd }
    !controlShapeOk g [1, 2, 3, 4] && g.valid plynState.sourceId && (plynState.contextKey plynCtx).isSome && plynCtx.phaseOk g) = true := by
  exact ⟨openFrame_sealFrame _ _ _ rfl rfl, by decide⟩

theorem test_witness_packet_write : ∃ u c h p, (plynWith (plynCtx)).packet 0 0 opWrite
    (sealFrame plynKey (plynHdr 0 0) [1, 2, 3, 4]) = some (u, c, h, p) ∧ ((c.entry h).isNone && !c.filterFull && decide (u.epochFault c h = none) && decide (u.plynUnits 0 0 false h.context h.opcode = []) &&
      decide (u.bufferFault c h p.length = none) && (u.ctxBuffer h.context c h.buffer).isSome) = true :=
  ⟨_, _, _, _, State.packet_sealed (c := (plynCtx)) (h := (plynHdr 0 0)) (p := [1, 2, 3, 4]) (by decide) (by decide) (by decide) (by decide) (by decide) (by decide) (by decide) (by decide) (by decide) (by decide) (by decide) (by decide) (by decide) (by decide), by decide⟩

theorem test_witness_packet_again : ∃ u c h p, (plynWith ({ plynCtx with filter := [⟨(plynHdr 0 0).msgKey, 0, [0], none, none⟩] })).packet 0 0 opWrite
    (sealFrame plynKey (plynHdr 0 0) [1, 2, 3, 4]) = some (u, c, h, p) ∧ (((c.entry h).map fun e => e.executed.contains h.fragment) == some true) = true :=
  ⟨_, _, _, _, State.packet_sealed (c := ({ plynCtx with filter := [⟨(plynHdr 0 0).msgKey, 0, [0], none, none⟩] })) (h := (plynHdr 0 0)) (p := [1, 2, 3, 4]) (by decide) (by decide) (by decide) (by decide) (by decide) (by decide) (by decide) (by decide) (by decide) (by decide) (by decide) (by decide) (by decide) (by decide), by decide⟩

theorem test_witness_packet_refused : ∃ u c h p, (plynWith ({ plynCtx with filter := [⟨(plynHdr 0 0).msgKey, 0, [], some (6, 0), none⟩] })).packet 0 0 opWrite
    (sealFrame plynKey (plynHdr 0 0) [1, 2, 3, 4]) = some (u, c, h, p) ∧ (((c.entry h).bind (·.nak)) == some (6, 0) && !(((c.entry h).map fun e => e.executed.contains h.fragment).getD false)) = true :=
  ⟨_, _, _, _, State.packet_sealed (c := ({ plynCtx with filter := [⟨(plynHdr 0 0).msgKey, 0, [], some (6, 0), none⟩] })) (h := (plynHdr 0 0)) (p := [1, 2, 3, 4]) (by decide) (by decide) (by decide) (by decide) (by decide) (by decide) (by decide) (by decide) (by decide) (by decide) (by decide) (by decide) (by decide) (by decide), by decide⟩

theorem test_witness_packet_atomic : ∃ u c h p, (plynWith (plynCtx)).packet 0 0 opAtomicAdd
    (sealFrame plynKey ({ plynHdr 0 0 with opcode := opAtomicAdd, length := 8 }) [0, 0, 0, 0, 0, 0, 0, 1]) = some (u, c, h, p) ∧ (decide (u.epochFault c h = none) && decide (u.bufferFault c h p.length = none) && (u.ctxBuffer h.context c h.buffer).isSome) = true :=
  ⟨_, _, _, _, State.packet_sealed (c := (plynCtx)) (h := ({ plynHdr 0 0 with opcode := opAtomicAdd, length := 8 })) (p := [0, 0, 0, 0, 0, 0, 0, 1]) (by decide) (by decide) (by decide) (by decide) (by decide) (by decide) (by decide) (by decide) (by decide) (by decide) (by decide) (by decide) (by decide) (by decide), by decide⟩

theorem test_witness_packet_stale : ∃ u c h p, (plynWith ({ plynCtx with jobEpoch := 1 })).packet 0 0 opAtomicAdd
    (sealFrame plynKey ({ plynHdr 0 0 with opcode := opAtomicAdd, length := 8 }) [0, 0, 0, 0, 0, 0, 0, 1]) = some (u, c, h, p) ∧ ((u.epochFault c h).isSome && (c.entry h).isNone) = true :=
  ⟨_, _, _, _, State.packet_sealed (c := ({ plynCtx with jobEpoch := 1 })) (h := ({ plynHdr 0 0 with opcode := opAtomicAdd, length := 8 })) (p := [0, 0, 0, 0, 0, 0, 0, 1]) (by decide) (by decide) (by decide) (by decide) (by decide) (by decide) (by decide) (by decide) (by decide) (by decide) (by decide) (by decide) (by decide) (by decide), by decide⟩

theorem test_witness_packet_full : ∃ u c h p, (plynWith ({ plynCtx with filterLog2 := 0, filter := [⟨⟨0, 0, 0, 9⟩, 0, [], none, none⟩] })).packet 0 0 opAtomicAdd
    (sealFrame plynKey ({ plynHdr 0 0 with opcode := opAtomicAdd, length := 8 }) [0, 0, 0, 0, 0, 0, 0, 1]) = some (u, c, h, p) ∧ ((c.entry h).isNone && c.filterFull && decide (u.epochFault c h = none)) = true :=
  ⟨_, _, _, _, State.packet_sealed (c := ({ plynCtx with filterLog2 := 0, filter := [⟨⟨0, 0, 0, 9⟩, 0, [], none, none⟩] })) (h := ({ plynHdr 0 0 with opcode := opAtomicAdd, length := 8 })) (p := [0, 0, 0, 0, 0, 0, 0, 1]) (by decide) (by decide) (by decide) (by decide) (by decide) (by decide) (by decide) (by decide) (by decide) (by decide) (by decide) (by decide) (by decide) (by decide), by decide⟩

theorem test_witness_packet_bounds : ∃ u c h p, (plynWith (plynCtx)).packet 0 0 opWrite
    (sealFrame plynKey ({ plynHdr 0 0 with offset := 2 ^ 21 }) [1, 2, 3, 4]) = some (u, c, h, p) ∧ ((u.bufferFault c h p.length).isSome && decide (u.epochFault c h = none)) = true :=
  ⟨_, _, _, _, State.packet_sealed (c := (plynCtx)) (h := ({ plynHdr 0 0 with offset := 2 ^ 21 })) (p := [1, 2, 3, 4]) (by decide) (by decide) (by decide) (by decide) (by decide) (by decide) (by decide) (by decide) (by decide) (by decide) (by decide) (by decide) (by decide) (by decide), by decide⟩

theorem test_witness_packet_read : ∃ u c h p, (plynWith (plynCtx)).packet 0 0 opReadReq
    (sealFrame plynKey ({ plynHdr 0 0 with opcode := opReadReq, length := 8 }) []) = some (u, c, h, p) ∧ (decide (u.bufferFault c h h.length = none) && ((u.ctxBuffer h.context c h.buffer).any fun b => !u.unitsStalled b.nsid (b.unitsOf h.offset h.length) && (u.readBufferUnits b h.offset h.length).2)) = true :=
  ⟨_, _, _, _, State.packet_sealed (c := (plynCtx)) (h := ({ plynHdr 0 0 with opcode := opReadReq, length := 8 })) (p := []) (by decide) (by decide) (by decide) (by decide) (by decide) (by decide) (by decide) (by decide) (by decide) (by decide) (by decide) (by decide) (by decide) (by decide), by decide⟩

theorem test_witness_packet_response : ∃ u c h p, (plynWith (plynCtx)).packet 0 0 opReadResp
    (sealFrame plynKey ({ plynHdr 0 0 with opcode := opReadResp }) [1, 2, 3, 4]) = some (u, c, h, p) ∧ (decide (u.epochFault c h = none) && decide (u.plynUnits 0 0 false h.context h.opcode = [])) = true :=
  ⟨_, _, _, _, State.packet_sealed (c := (plynCtx)) (h := ({ plynHdr 0 0 with opcode := opReadResp })) (p := [1, 2, 3, 4]) (by decide) (by decide) (by decide) (by decide) (by decide) (by decide) (by decide) (by decide) (by decide) (by decide) (by decide) (by decide) (by decide) (by decide), by decide⟩

theorem test_witness_packet_ack : ∃ u c h p, (plynWith (plynCtx)).packet 0 0 opAck
    (sealFrame plynKey ({ plynHdr 0 0 with opcode := opAck, length := 12 }) (ackEntry (0, 0, 0))) = some (u, c, h, p) ∧ (u.live) = true :=
  ⟨_, _, _, _, State.packet_sealed (c := (plynCtx)) (h := ({ plynHdr 0 0 with opcode := opAck, length := 12 })) (p := (ackEntry (0, 0, 0))) (by decide) (by decide) (by decide) (by decide) (by decide) (by decide) (by decide) (by decide) (by decide) (by decide) (by decide) (by decide) (by decide) (by decide), by decide⟩

theorem test_witness_packet_nak : ∃ u c h p, (plynWith (plynCtx)).packet 0 0 opNak
    (sealFrame plynKey ({ plynHdr 0 0 with opcode := opNak, length := 16, aux := NAK_ACCESS }) (nakEntry 0 0 0)) = some (u, c, h, p) ∧ (((u.contexts.find h.context).bind fun c => c.senderOf h.source 0).any fun (_, m) => m.frags.any fun f => !f.acked && f.frame.isSome) = true :=
  ⟨_, _, _, _, State.packet_sealed (c := (plynCtx)) (h := ({ plynHdr 0 0 with opcode := opNak, length := 16, aux := NAK_ACCESS })) (p := (nakEntry 0 0 0)) (by decide) (by decide) (by decide) (by decide) (by decide) (by decide) (by decide) (by decide) (by decide) (by decide) (by decide) (by decide) (by decide) (by decide), by decide⟩

theorem test_witness_packet_credit : ∃ u c h p, (plynWith (plynCtx)).packet 0 0 opCredit
    (sealFrame plynKey ({ plynHdr 0 0 with opcode := opCredit, length := 16 }) (List.replicate 16 0)) = some (u, c, h, p) ∧ (decide (u.epochFault c h = none) && !c.filterFull && (c.entry h).isNone) = true :=
  ⟨_, _, _, _, State.packet_sealed (c := (plynCtx)) (h := ({ plynHdr 0 0 with opcode := opCredit, length := 16 })) (p := (List.replicate 16 0)) (by decide) (by decide) (by decide) (by decide) (by decide) (by decide) (by decide) (by decide) (by decide) (by decide) (by decide) (by decide) (by decide) (by decide), by decide⟩

theorem test_witness_sealed : (let h := plynHdr 7 0
    decide (h.version < 2 ^ 4) && decide (h.opcode < 2 ^ 4) && decide (h.flags < 2 ^ 8) && decide (h.msgId < 2 ^ 48) && decide (h.offset < 2 ^ 64) &&
    !h.unauth && decide (h.payloadBytes = [(1 : Byte), 2, 3, 4].length)) = true := by decide

theorem test_witness_plyn_timers : (let miss := (plynWith { plynCtx with onChip := false, fetching := true }).setPort 0 ⟨none, Tab.empty, Tab.empty, [(0, (plynHdr 0 0).bytes)], Tab.empty, []⟩
    let fl := plynState.setBit Reg.FLT_CTRL Fld.FLT_CTRL_ENABLE true
    let x := (plynCtx.sender 9)
    miss.live && ((miss.port 0).missq.any fun f => (pltHeaderOf f.2).context = 7) && ((miss.contexts.find 7).map fun c => !c.onChip && c.fetching) == some true &&
    fl.live && (fl.contexts.find 7).isSome && (plynCtx.senders.find? fun x => x.dest = 9 && x.msgs.any fun m => m.msgId = 0) == some x &&
    ((x.msgs.find? fun m => m.msgId = 0).map fun m => m.bornNs.isSome && fl.purposeLive m.purpose && m.frags.any fun f => f.frame.isSome && !f.acked && fl.uptime - f.sentNs < 3500000) == some true &&
    !x.isHeld 0 0) = true := by decide

theorem test_witness_retry : (let q : Queue := ⟨3, 0, 0, [⟨⟨0, 0, 0, 0, [], 0, [], [], [], [], [], false, 0, 0⟩, [], 0, 1, false, 0⟩]⟩
    let s := { hostState with
      queues := hostState.queues.insert 9 q
      jobs := hostState.jobs.adjust 3 fun j => { j with
        map := ⟨[(0, 1)], [⟨9, 0, 0, 0, 0⟩], [], 0, 0, 0, false⟩
        streams := [{ demoJob.newStream 0 9 (resumeOf []) none with deliveries := [{ Delivery.idle with credit := some (1, 1, 1), waiting := true }] }] } }
    s.live && s.jobActive 3 && ((s.delivery 3 0 0).any fun (_, st, d, _) => d.waiting && d.credit.isSome && (s.queueEntry st.queue d.ordinal).isSome && (s.flowRank 3 0).live)) = true := by
  decide

theorem test_witness_ports : ((let q := plynState.adjustPtp 0 fun p => p.push (ptpOwn 0 .sync 0); q.live && q.linkUp 0 0 && !(q.ptpPort 0).queue.isEmpty) &&
    (plynState.ptpPort 0).queue.isEmpty && plynState.live && plynState.linkUp 0 0 && !plynState.linkUp 0 1 && plynState.hostReaches (Reg.PLT_PORT_CFG 0) &&
    plynState.hostReaches (Reg.PLT_SHAPER_RATE 4 3 7) && plynState.hostReaches (Reg.PLT_SHAPER_BURST 0 0 0) && plynState.hostReaches Reg.PLT_TIME_NS &&
    plynState.hostReaches (Reg.PLT_MISSQ 4) && decide (getFld Fld.PLT_PORT_CFG_ENABLE 1 = 1) && decide (getFld Fld.PLT_PORT_CFG_ENABLE 0 ≠ 1)) = true := by decide

theorem test_witness_dma : (let free := hostState
    let held := hostState.setBit (Reg.DMA_CH_CTRL 2) Fld.DMA_CH_CTRL_HOLD true
    let claimed := hostState.addClaim 0x0C 2 0
    let run : DmaRun := ⟨0, ⟨0, 4096, 0, 0, 8, 1, 8, 1, 0, 0, 0⟩⟩
    let busy := { held.setFld (Reg.DMA_CH_STATUS 2) Fld.DMA_CH_STATUS_STATE chBusy with dma := Tab.empty.insert 2 run }
    let ab := { busy.setFld (Reg.DMA_CH_STATUS 2) Fld.DMA_CH_STATUS_STATE chAborting with dma := Tab.empty.insert 2 run }
    [free, held, claimed, busy, ab].all (fun t => t.hostReaches (Reg.DMA_CH_CTRL 2) && t.live) && !free.bit (Reg.DMA_CH_CTRL 2) Fld.DMA_CH_CTRL_HOLD &&
    held.bit (Reg.DMA_CH_CTRL 2) Fld.DMA_CH_CTRL_HOLD && decide (held.dmaState 2 = chIdle) && (claimed.claimOwner 0x0C 2).isSome && (free.claimOwner 0x0C 2).isNone &&
    decide (busy.dmaState 2 = chBusy) && (busy.dma.find 2).isSome && !busy.dmaStalled 2 && (busy.chkThrough (busy.dmaUnits 2 false) (busy.dmaStream run.desc) true).2.2 && !run.desc.last &&
    ({ run.desc with ctrl := 63 } : DmaDesc).last && decide (ab.dmaState 2 = chAborting) && (ab.dma.find 2).isSome) = true := by decide

theorem test_witness_pools : (let p : Pool := ⟨0, true, 0, 4096, 4, [⟨5, 0, 4⟩, ⟨6, 0, 0⟩], (Tab.empty.insert 1 ⟨1, 5⟩).insert 2 ⟨3, 5⟩, []⟩
    let s := { hostState with pools := Tab.empty.insert 0 p }
    s.live && decide (s.pools.find 0 = some p) && p.grants 5 && !p.grants 6 && (p.requester 6).isSome && (p.requester 7).isNone &&
    (s.pools.find (handlePool (2 ^ 26))).isNone && decide (handlePool 9 = 0) && decide (p.buffers ≤ handleIndex 9) && (p.held.find 0).isNone &&
    decide (p.held.find 1 = some ⟨1, 5⟩) && decide (p.held.find 2 = some ⟨3, 5⟩) && s.hostReaches (Reg.POOL_MIN_FREE 63)) = true := by decide

theorem test_witness_checks : (let held := hostState.setBit (Reg.CHK_CTRL 3) Fld.CHK_CTRL_HOLD true
    let on := held.setBit (Reg.CHK_CTRL 3) Fld.CHK_CTRL_ENABLE true
    let ask := on.setBit (Reg.CHK_CTRL 3) Fld.CHK_CTRL_PAUSE true
    let stall := on.setBit (Reg.CHK_CTRL 3) Fld.CHK_CTRL_PAUSED true
    let bad := held.setFld (Reg.CHK_CFG 3) Fld.CHK_CFG_MODE 3
    let strip := on.setFld (Reg.CHK_CFG 3) Fld.CHK_CFG_MODE chkStrip
    let claimed := hostState.addClaim 0x0B 3 0
    [hostState, held, on, ask, stall, bad, strip, claimed].all (fun t => t.hostReaches (Reg.CHK_CTRL 3) && t.hostReaches (Reg.CHK_CFG 3) && t.hostReaches (Reg.CHK_RUNNING 3) && t.live) &&
    held.chkHeld 3 && !hostState.chkHeld 3 && (hostState.claimOwner 0x0B 3).isNone && (claimed.claimOwner 0x0B 3).isSome && claimed.chkClaimed 3 && !hostState.chkClaimed 3 &&
    (held.chkConfig 3).ok && !(bad.chkConfig 3).ok && on.chkOn 3 && on.chkHeld 3 && !on.chkPaused 3 && stall.chkPaused 3 && ask.bit (Reg.CHK_CTRL 3) Fld.CHK_CTRL_PAUSE && ask.chkOn 3 &&
    decide ((strip.chkConfig 3).mode = chkStrip) && strip.chkOn 3 && decide (((strip.chkConfig 3).poly.appended (((strip.chkFeed 3 []).chkEndRecord 3).reg (Reg.CHK_RESULT 3))) ≠ [])) = true := by decide

theorem test_witness_briar : (let held := hostState.setBit (Reg.BRI_ENG_CTRL 40) Fld.BRI_ENG_CTRL_HOLD true
    let bound := hostState.setBit (Reg.BRI_ENG_STATUS 40) Fld.BRI_ENG_STATUS_BOUND true
    let run : BriRun := ⟨0, ⟨1, 1, 12, 14, 0, 0, 0, 0, 0, 0, 0, 0⟩, 0, 0, none, 0⟩
    let busy := (held.setFld (Reg.BRI_ENG_STATUS 40) Fld.BRI_ENG_STATUS_STATE chBusy).setBri 40 ⟨none, some run⟩
    let ab := (held.setFld (Reg.BRI_ENG_STATUS 40) Fld.BRI_ENG_STATUS_STATE chAborting).setBri 40 ⟨none, some run⟩
    let bad := (held.setFld (Reg.BRI_ENG_STATUS 40) Fld.BRI_ENG_STATUS_STATE chAborting).setBri 40 ⟨none, some { run with ended := some (ST_BRI_DESC, 0) }⟩
    [hostState, held, bound, busy, ab, bad].all (fun t => t.hostReaches (Reg.BRI_ENG_CTRL 40) && t.live) && !hostState.bit (Reg.BRI_ENG_CTRL 40) Fld.BRI_ENG_CTRL_HOLD &&
    !hostState.bit (Reg.BRI_ENG_STATUS 40) Fld.BRI_ENG_STATUS_BOUND && bound.bit (Reg.BRI_ENG_STATUS 40) Fld.BRI_ENG_STATUS_BOUND && !bound.bit (Reg.BRI_ENG_CTRL 40) Fld.BRI_ENG_CTRL_HOLD &&
    held.bit (Reg.BRI_ENG_CTRL 40) Fld.BRI_ENG_CTRL_HOLD && decide (held.briState 40 = chIdle) && decide (busy.briState 40 = chBusy) && decide (ab.briState 40 = chAborting) &&
    (((ab.briStep 40 true).briEngine 40).run).isSome && (((bad.briStep 40 true).briEngine 40).run.any fun r => r.ended.isSome && decide (r.ended = some (ST_BRI_DESC, 0))) &&
    ((ab.briEngine 40).run).isSome) = true := by decide

theorem test_witness_envelopes : (let good := envelope 0x0105 0xFF 1 [200, 0]
    let bad := envelope 0x0105 0xFF 1 [100, 0]
    let t := mgmtState .ready
    let q := { t with board := { t.board with por := false }, security := { t.security with tlsSessions := 0 } }
    decide (t.mgmtBytes (.network good) = some good) && decide (q.mgmtBytes (.network good) = none) && decide (fieldAt good 4 2 = 0x0105) &&
    envelopeOk good && envelopeOk bad && !envelopeOk (good ++ [0]) && argsOk 0x0105 (envelopeOf good).args && !argsOk 0x0105 (envelopeOf bad).args &&
    !(mgmtState .fallback).sheep.mode.serves 0x0105 && decide ((mgmtState .fallback).mgmtBytes (.network good) = some good) &&
    !(State.anchorSigns t (envelopeOf good)) && ((List.range 16).all fun h => !State.ownerSigns t h (envelopeOf good)) &&
    !(State.unsignedOk t false (envelopeOf good))) = true := by decide

theorem test_witness_sheepdog_commands : (let t := mgmtState .ready
    let staged := { t with sheep := { t.sheep with staged := true } }
    let quiet := staged.setFld (Reg.ENL_JOB_STATUS 3) Fld.ENL_JOB_STATUS_STATE 1
    let count (u : State) := u.setReg (Reg.SEC_CMD_COUNTER 16) 1
    let claimed := (t.addClaim 0x02 7 ownerManagement).addClaim 0x01 15 ownerManagement
    let pinned := claimed.adjustPin 15 fun p => { p with function := 5 }
    let program : Bytes := leBytes 1 0 ++ [0xFF, 0, 0] ++ leBytes 4 0 ++ leBytes 8 100 ++ leBytes 4 0 ++ leBytes 4 1000 ++ leBytes 8 0
    mgmtReady t 0x0101 [4, 0, 0, 0, 0, 0, 0, 0, 9] && mgmtReady t 0x0101 [4, 0, 0, 0, 1, 0, 0, 0] && mgmtReady t 0x0102 [] &&
    mgmtReady staged 0x0102 [] && mgmtReady quiet 0x0102 [] && !t.sheep.staged && (count staged).anyJobActive && !(count quiet).anyJobActive &&
    mgmtReady t 0x0103 [1] && mgmtReady t 0x0103 [2] && mgmtReady t 0x0104 [] && mgmtReady t 0x0105 [150, 0] && mgmtReady t 0x0106 [16] &&
    mgmtReady t 0x0107 [5, 15, 1] && mgmtReady claimed 0x0107 [5, 15, 1] && mgmtReady pinned 0x0107 [5, 15, 0] && mgmtReady t 0x0107 [9, 3, 1] &&
    mgmtReady t 0x0107 [0x37, 16, 1] && mgmtReady t 0x0107 [0x80, 8, 0] && mgmtReady t 0x0107 ([0x80, 7, 1, 0] ++ program) &&
    mgmtReady claimed 0x0107 ([0x80, 7, 1, 0] ++ program) && mgmtReady claimed 0x0107 [0x80, 7, 0] && mgmtReady t 0x0108 [] &&
    (count t).timerProgramOk program && !(count t).timerProgramOk (List.replicate 32 0) && ((count t).claimOwner 0x02 7).isNone &&
    decide ((count claimed).claimOwner 0x02 7 = some ownerManagement) && pinFunctionListed 5 && pinFunctionListed 0x37 && !pinFunctionListed 9 &&
    decide ((count pinned).pinFunction 15 = 5) && ((count t).claimOwner 0x01 15).isNone && decide ((count t).fld Reg.SHD_BOOT Fld.SHD_BOOT_SLOT < 2) &&
    mgmtReady t 0x0107 ([0x80, 0, 1, 0] ++ List.replicate 32 0)) = true := by decide +kernel

theorem test_witness_store_commands : (let t := nsState
    let busy := t.showNs 1
    let full := (t.setKeySlot 1 2 6 keyRetiring).setKeySlot 1 3 7 keyRetiring
    let plain := t.setBit (Reg.FTL_NS_STATE 1) Fld.FTL_NS_STATE_ENCRYPT false
    let claimed := t.addClaim 0x09 1 2
    let used := { t with store := { t.store with cmds := Tab.empty.insert 0 ⟨1, 1, 0, 1, 0, 1, [], 0, [], [], [], none, none⟩ } }
    let create (n size : Nat) := leBytes 4 n ++ leBytes 8 size ++ [1, 0, 0, 0]
    mgmtReady t 0x0301 (create 0 1) && mgmtReady t 0x0301 (create 65 1) && mgmtReady t 0x0301 (create 1 1) && mgmtReady t 0x0301 (create 64 201) &&
    mgmtReady t 0x0301 (create 64 200) && !t.nsPresent 64 && t.nsPresent 1 && decide (t.unitsGiven = 100) && mgmtReady t 0x0302 (leBytes 4 1) &&
    mgmtReady t 0x0302 (leBytes 4 64) && (claimed.claimOwner 0x09 1).isSome && (t.claimOwner 0x09 1).isNone && (used.store.cmds.vals.any fun c => c.nsid = 1) &&
    mgmtReady t 0x0303 (leBytes 4 1) && decide (t.slotsIn 1 keyFree = [(2, 0, 0), (3, 0, 0)]) && mgmtReady full 0x0303 (leBytes 4 1) &&
    (full.slotsIn 1 keyFree).isEmpty && !plain.nsEncrypted 1 && t.nsEncrypted 1 && mgmtReady t 0x0304 (leBytes 4 1 ++ [50, 0, 0, 0]) &&
    !(t.slotsIn 1 keyRetiring).isEmpty && ((t.setKeySlot 1 0 0 0).slotsIn 1 keyRetiring).isEmpty && mgmtReady t 0x0305 (leBytes 4 1 ++ leBytes 4 4) &&
    decide ((t.slotsIn 1 keyRetiring).find? (fun k => k.2.1 = 4) = some (0, 4, 1 + 1)) && ((t.slotsIn 1 keyRetiring).find? fun k => k.2.1 = 3).isNone &&
    busy.genInUse 1 0 4 && !t.genInUse 1 0 4) = true := by decide +kernel

theorem test_witness_security_commands : (let t := mgmtState .ready
    let keyed := { t with security := { t.security with keys := Tab.empty.insert 3 ⟨0, 2, plynKey⟩ } }
    let named := { keyed with contexts := Tab.empty.insert 7 plynCtx }
    let full := { t with security := { t.security with keys := ⟨(List.range 8188).map fun i => (i + 10, ⟨0, 0, []⟩)⟩ } }
    let bare := { t with images := Tab.empty }
    let rest := List.replicate 157 (0 : Byte)
    let g := publicKey 1
    mgmtReady t 0x0401 (0 :: List.replicate 32 7) && mgmtReady t 0x0402 (leBytes 4 0 ++ 4 :: rest) && mgmtReady t 0x0402 (leBytes 4 0x10000 ++ 4 :: rest) &&
    mgmtReady t 0x0402 (leBytes 4 0xFFFF ++ 4 :: rest) && (keyed.security.keys.find 3).isSome && (t.security.keys.find 3).isNone && decide (t.keysUsed < 8192) &&
    decide (8192 ≤ full.keysUsed) && (full.security.keys.find 1).isNone && mgmtReady keyed 0x0403 (leBytes 4 3) && mgmtReady keyed 0x0403 (leBytes 4 0) &&
    mgmtReady named 0x0403 (leBytes 4 3) && named.keyNamed 3 && !keyed.keyNamed 3 && mgmtReady t 0x0404 (1 :: g) && (t.images.find 0).isSome &&
    (bare.images.find 1).isNone && mgmtReady { t with images := Tab.empty.insert 1 chanImage } 0x0404 (1 :: g) && mgmtReady t 0x0405 (g ++ g) &&
    (decodePoint g).isSome && mgmtReady t 0x0405 [1] && mgmtReady t 0x0406 []) = true := by decide +kernel

/-- The device is at a boot stage. -/
def bootState (stage : Nat) : State :=
  { State.reset with sheep := { State.reset.sheep with mode := .starting } }.setStage stage

theorem test_witness_starts : (let low : State := { State.reset with board := { State.reset.board with por := false } }
    let held : State := { low with sheep := { low.sheep with mode := .held } }
    let off : State := { hostState.setFld Reg.PWR_DOMAINS Fld.PWR_DOMAINS_ON 1 with sheep := { hostState.sheep with mode := .thermalOff, sites := Tab.empty.insert 3 ⟨[8999], 8999 * filterScale⟩ } }
    let quiet : State := { hostState with store := { hostState.store with activating := true } }
    State.reset.board.por && State.reset.board.warm && !low.board.por && decide (held.sheep.mode = .held) && hostState.live && !off.domainOn 14 &&
    (let miss : State := { bootState 5 with sheep := { (bootState 5).sheep with nandTargets := [17] } }
     decide (miss.sheep.nandTargets.find? (fun p => !([NandTarget.mk 1 0 8].any fun x => targetPlace x = p)) = some 17) && miss.live) &&
    (bootState 6).store.ckpts.isEmpty && (let c : State := { bootState 6 with store := { (bootState 6).store with ckpts := [(bootState 6).store.checkpoint] } }
      decide (c.store.ckpts.length = 1) && decide (c.fld Reg.SHD_BOOT Fld.SHD_BOOT_STAGE = 6)) &&
    hostState.domainOn 14 && decide (hostState.sheep.mode = .ready) &&
    [1, 2, 3, 4, 5, 6, 7].all (fun n => let t := bootState n; decide (t.fld Reg.SHD_BOOT Fld.SHD_BOOT_STAGE = n) && t.live && decide (t.sheep.mode = .starting)) &&
    decide ((stageDomains 3).find? (fun d => !(bootState 3).domainOn d) = some 1) && (let t := (bootState 3).powerDomain 14 true; t.domainOn 14) &&
    decide (off.hottest = some (8999 : Int)) && decide ((8999 : Int) < off.tWarn - 1000) && quiet.store.cmds.entries.isEmpty && quiet.live) = true := by decide

theorem test_witness_retained : (hostState.registersOk && hostState.board.por && hostState.store.cmds.entries.isEmpty && hostState.store.sweeps.entries.isEmpty) = true := by decide

theorem test_witness_retained_warm : ∃ t, exec .warmReset hostState = .next t := ⟨_, exec_warmReset _⟩

/-- Site 3 was at a temperature, in hundredths of °C, and VDD_CORE at 10 A. -/
def hotState (t : Int) (mv : Int) : State :=
  { hostState with sheep := { hostState.sheep with
      sites := Tab.empty.insert 3 ⟨[t], t * filterScale⟩
      volts := Tab.empty.insert 2 ⟨[mv], mv * filterScale⟩, amps := Tab.empty.insert 2 ⟨[10000], 10000 * filterScale⟩ } }

theorem test_witness_sensors : (let s := (hotState 11500 800).setFld Reg.PWR_DROOP Fld.PWR_DROOP_MV 800
    let after (t : State) (raw : Int) := (t.adjustSheep fun y => { y with sites := y.sites.insert 3 (((t.sheep.sites.find 3).getD Sensor.idle).sample raw) }).showTemps
    let spike : State := { hostState with sheep := { hostState.sheep with sites := Tab.empty.insert 4 ⟨[20000], 20000 * filterScale⟩ } }
    let v : Sensor := ⟨[800], 800 * filterScale⟩
    let cap (w : Nat) := s.setFld Reg.PWR_CAP Fld.PWR_CAP_WATTS w
    s.live && decide ((after s 11500).hottest = some (11500 : Int)) && decide ((after s 11500).tShutdown ≤ (11500 : Int)) &&
    decide (s.sheep.mode = .ready) && decide ((spike.hottest) = none) && decide (spike.goodSites.2 ≠ 0) && decide ((v.sample 400).filtered < s.droopLevel) &&
    decide (s.droopLevel ≤ v.filtered) && decide (¬ (v.sample 900).filtered < s.droopLevel) && decide (s.power = 8000) && decide (1000 * (cap 7).fld Reg.PWR_CAP Fld.PWR_CAP_WATTS < 8000) &&
    decide (95 * (1000 * (cap 9).fld Reg.PWR_CAP Fld.PWR_CAP_WATTS) > 100 * s.power) && decide (95 * 8000 ≤ 100 * s.power) &&
    decide ((hotState 10500 0).hottest = some (10500 : Int)) && decide ((hotState 9999 0).hottest = some (9999 : Int)) &&
    decide ((hotState 10000 0).hottest = some (10000 : Int)) && decide (s.tThrottle = (10500 : Int)) &&
    decide ((after (hotState 9000 0) 9000).hottest = some (9000 : Int))) = true := by decide +kernel

theorem test_witness_telemetry : (let on := hostState.setBit Reg.GLB_STRAPS Fld.GLB_STRAPS_JTAG_EN true
    let conf : State := { on with partition := ⟨[⟨0, true, 1000, 0, 0, 0, [], 0, 0, 0, 0, [], 0, 0⟩], 0, 0, 0⟩ }
    hostState.live && on.live && decide (hostState.sheep.mode ≠ .held) && !hostState.bit Reg.GLB_STRAPS Fld.GLB_STRAPS_JTAG_EN &&
    on.bit Reg.GLB_STRAPS Fld.GLB_STRAPS_JTAG_EN && !on.jtagLocked .crypto && conf.jtagLocked .crypto && !conf.jtagLocked .other && hostState.sheepServes false &&
    !State.sheepServes { hostState with sheep := { hostState.sheep with mode := .failed } } false && hostState.jobs.entries.length == 1) = true := by decide

/-- Namespace 1 of 100 units has unit 7 mapped in block 0; set 9 is ready to take a command. -/
def trsState (op lba count addr : Nat) : State :=
  let t := ((nsState.setReg (Reg.TRS_OPCODE 9) (BitVec.ofNat 64 op)).setReg (Reg.TRS_NSID 9) 1).setReg (Reg.TRS_LBA 9) (BitVec.ofNat 64 lba)
  (t.setReg (Reg.TRS_COUNT 9) (BitVec.ofNat 64 count)).setReg (Reg.TRS_HOST_ADDR 9) (BitVec.ofNat 64 addr)

/-- Set 9 holds a command in a state, and `others` are outstanding beside it. -/
def cmdState (state : Nat) (c : TrsCmd) (others : List (Nat × TrsCmd)) : State :=
  let t := nsState.setReg (Reg.TRS_STATUS 9) (putFld Fld.TRS_STATUS_STATE 0 state)
  { t with store := { t.store with
      cmds := others.foldl (fun (m : Tab TrsCmd) (e : Nat × TrsCmd) => m.insert e.1 e.2) (Tab.empty.insert 9 c)
      blocks := Tab.empty.insert 0 ⟨.open_, 1, 3, 0⟩, fresh := 1, dataBlocks := 10, unitsPerBlock := 4 } }

/-- Set 9 is ready for a command that passes every check. -/
def trsReady (op lba count addr : Nat) : Bool :=
  let t := trsState op lba count addr
  t.hostReaches (Reg.TRS_CTRL 9) && decide (t.fld (Reg.TRS_OPCODE 9) Fld.TRS_OPCODE_OPCODE = op) && decide (t.trsState 9 = 0) &&
    decide (t.trsCheck op 1 lba count addr = ST_OK)

theorem test_witness_trs : (let ok := trsReady
    let t := trsState 1 99 2 64
    let ready (t : State) := t.live && decide (t.trsState 9 = 1) && (t.store.cmds.find 9).isSome
    ok 1 99 1 64 && ok 2 0 100 0 && ok 3 0 64 0 && ok 4 0 0 0 && ok 5 99 1 0 && ok 6 0 1 0 && ok 7 0 0 0 && decide (t.trsCheck 1 1 99 2 64 = ST_TRS_FIELD) &&
    decide ((t.setReg (Reg.TRS_STATUS 9) 1).trsState 9 = 1) && (t.setBit Reg.TRS_RESET Fld.TRS_RESET_BUSY true).bit Reg.TRS_RESET Fld.TRS_RESET_BUSY &&
    [1, 2, 3, 4, 5, 6, 7].all (fun op => ready (cmdState 1 (trsCmd op 7 1 5) [])) && (cmdState 1 (trsCmd 2 7 1 5) []).canReserve 1 &&
    !(cmdState 1 (trsCmd 2 7 41 5) []).canReserve 41 && !(cmdState 1 (trsCmd 1 7 1 5) []).trsBlocked (trsCmd 1 7 1 5) &&
    (cmdState 1 (trsCmd 1 7 1 5) [(3, trsCmd 2 7 1 4)]).trsBlocked (trsCmd 1 7 1 5)) = true := by decide +kernel

theorem test_witness_trs_ends : (let st (state : Nat) (c : TrsCmd) := cmdState state c []
    let ready (c : TrsCmd) := let t := st 2 c; t.live && decide (t.store.cmds.find 9 = some c) && decide (t.trsState 9 = 2) && !t.trsBlocked c
    let r := trsCmd 1 7 1 5
    let w : TrsCmd := { trsCmd 2 7 1 5 with fetched := [[1]] }
    let f := trsCmd 4 0 0 5
    let full : Store := { (st 2 w).store with dataBlocks := 1, blocks := Tab.empty.insert 0 ⟨.closed, 4, 3, 0⟩ }
    let busy := (st 1 r).setBit Reg.TRS_RESET Fld.TRS_RESET_BUSY true
    ready r && ((st 2 r).mapped 1 7).isSome && ready { r with seen := [0] } && (st 2 r).unitsSeen { r with seen := [0] } 1 && !(st 2 r).unitsSeen r 1 &&
    ready { r with seen := [0], failed := some 0 } && ready (trsCmd 6 7 1 5) && ready w && ready { w with opcode := 3 } && decide (1 ≤ (st 2 w).store.room) &&
    decide (full.room = 0) && ready (trsCmd 5 7 1 5) && ready (trsCmd 7 0 0 5) && ready { w with cut := some (0, ST_TRS_BUS) } && ready f &&
    !(cmdState 1 f []).flushWaits f && (cmdState 1 f [(3, trsCmd 2 7 1 4)]).flushWaits f && (cmdState 2 r [(3, trsCmd 2 7 1 4)]).trsBlocked r &&
    busy.bit Reg.TRS_RESET Fld.TRS_RESET_BUSY && busy.hostReaches Reg.TRS_RESET && !(st 1 r).bit Reg.TRS_RESET Fld.TRS_RESET_BUSY &&
    decide ((st 1 r).store.cmds.entries = [(9, r)]) && decide ((((st 1 r).setBit Reg.TRS_RESET Fld.TRS_RESET_BUSY true)).trsState 9 = 1) &&
    nsState.hostReaches Reg.TRS_RESET && nsState.store.cmds.entries.isEmpty && !nsState.bit Reg.TRS_RESET Fld.TRS_RESET_BUSY &&
    (nsState.setBit Reg.TRS_RESET Fld.TRS_RESET_BUSY true).live && (List.range 16).all (fun k => !(st 2 r).chkPaused k)) = true := by decide +kernel

/-- A medium of 1000 data blocks of 4 units with the blocks given; the rest were never used or stand in `freed`. -/
def mediumState (blocks : List (Nat × Block)) (fresh : Nat) (freed : List Nat) : State :=
  { nsState with store := { nsState.store with
      blocks := blocks.foldl (fun (m : Tab Block) (e : Nat × Block) => m.insert e.1 e.2) Tab.empty
      fresh := fresh, freed := freed, dataBlocks := 1000, unitsPerBlock := 4, sinceCkpt := 3 } }

theorem test_witness_medium : (let closed : Block := ⟨.closed, 4, 3, 0⟩
    let full := mediumState [(0, closed), (1, ⟨.reclaimed, 4, 2, 1⟩), (2, ⟨.open_, 2, 9, 0⟩)] 1000 []
    let tight := mediumState [(0, closed)] 1000 []
    let roomy := mediumState [(0, closed)] 900 []
    let reading := { full with store := { full.store with cmds := Tab.empty.insert 9 { trsCmd 1 7 1 5 with blocks := [1] } } }
    let ckpt := { full with store := { full.store with taking := some full.store.checkpoint } }
    let record := { full with store := { full.store with nand := [⟨0, 0, some (1, 0, 4), ⟨[], 5, 5, 4, 0, 0, 0, 1, [], false⟩⟩] } }
    let warm := { full with store := { full.store with health := { full.store.health with readings := [9000] } } }
    let swept := { full with store := { full.store with sweeps := Tab.empty.insert 1 50 } }
    full.live && full.hostReaches Reg.FTL_HEALTH_SNAP && decide (full.store.sinceCkpt ≠ 0) && full.store.taking.isNone && ckpt.store.taking.isSome && record.recordNeeded 1 && !full.recordNeeded 1 &&
    !warm.store.health.readings.isEmpty && full.store.health.readings.isEmpty &&
    decide (full.store.freeBlocks * 100 < full.store.dataBlocks) && decide (full.storeVictim = some 0) && decide (full.store.validIn 0 ≤ full.store.room) &&
    decide (tight.storeVictim = some 0) && decide (tight.store.room < tight.store.validIn 0) && decide (roomy.store.dataBlocks ≤ roomy.store.freeBlocks * 100) &&
    !full.blockRead 1 && reading.blockRead 1 && full.store.freed.isEmpty && (swept.store.sweeps.find 1).isSome && (full.store.sweeps.find 1).isNone) = true := by decide +kernel

/-- A fleet of a manager (node 5), a worker (node 9), a standby (node 11) and a spare (node 12) with one barrier's ranks 0 and 1
held by the worker. -/
def fleetRoster : Roster :=
  ⟨3, 1, 2, [⟨5, roleManager, 0, noOwner, 1, 0⟩, ⟨9, roleWorker, 0, noOwner, 1, 2⟩, ⟨11, roleStandby, 0, noOwner, 1, 0⟩, ⟨12, roleSpare, 0, noOwner, 1, 0⟩], [1, 1]⟩

/-- This device is a member with an index, a role and a state; worker 1 reported itself RUNNING with queues not full. -/
def fleetState (node index role state : Nat) : State :=
  let t := ((plynState.setReg Reg.PLT_SOURCE_ID (BitVec.ofNat 64 node)).setBit Reg.FLT_CTRL Fld.FLT_CTRL_ENABLE true).setFld Reg.FLT_CTRL
    Fld.FLT_CTRL_JOB 3
  let t := ((t.setFld Reg.FLT_STATUS Fld.FLT_STATUS_STATE state).setFld Reg.FLT_STATUS Fld.FLT_STATUS_ROLE role).setFld Reg.FLT_INDEX
    Fld.FLT_INDEX_INDEX index
  let t := ((t.setFld Reg.FLT_INDEX Fld.FLT_INDEX_BUDDY 0).setFld Reg.FLT_ROSTER_EPOCH Fld.FLT_ROSTER_EPOCH_EPOCH 3).setFld Reg.FLT_ROLE_EPOCH Fld.FLT_ROLE_EPOCH_EPOCH 1
  { t with fleet := { Fleet.idle with roster := some fleetRoster, workers := Tab.empty.insert 1 ⟨true, 0, true, jobRunning, true, true⟩ } }

/-- A fleet message of the roster epoch in force. -/
def fleetMsg (kind : Nat) (body : Bytes) : Bytes := fleetMessage kind 1 3 0 body

theorem test_witness_fleet_members : (let m := fleetState 5 0 roleManager fltActive
    let w := fleetState 9 1 roleWorker fltActive
    let st := fleetState 11 2 roleStandby fltActive
    let joining := fleetState 9 1 roleWorker fltJoining
    let unlocked := m.setFld (Reg.ENL_JOB_STATUS 3) Fld.ENL_JOB_STATUS_STATE 1
    let mapped := unlocked.adjustJob 3 fun j => { j with map := { j.map with fleet := true } }
    let v (role : Nat) : Word64 := putFld Fld.FLT_CTRL_JOB (putFld Fld.FLT_CTRL_ROLE 0 role) 3
    let takes (t : State) (kind : Nat) := t.live && t.fleetOn && decide (t.fltState ≠ fltFenced) && decide (fieldAt (fleetMsg kind [1]) 0 1 = kind) &&
      decide (t.rosterEpoch ≤ fieldAt (fleetMsg kind [1]) 4 4) && decide (16 ≤ (fleetMsg kind [1]).length)
    takes m 1 && takes w 2 && takes joining 2 && takes m 3 && takes st 3 && takes w 4 && takes m 0x0F && m.hostReaches Reg.FLT_CTRL && m.fleetLocked &&
    !unlocked.fleetLocked && (unlocked.jobs.find 3).isSome && decide ((mapped.jobs.find 3).map (·.map.fleet) = some true) &&
    decide (getFld Fld.FLT_CTRL_ROLE (putFld Fld.FLT_CTRL_ENABLE (v 2) 1) = roleManager) && decide (getFld Fld.FLT_CTRL_JOB (v 1) = 3) &&
    rosterFormatOk (rosterBytes fleetRoster) && decide (rosterOf (rosterBytes fleetRoster) = fleetRoster) && !rosterFormatOk [1] &&
    decide (((fleetRoster.entries.find? fun e => e.role = roleManager).map (·.node)) = some 5) && !w.fleet.refused && decide (m.fleet.memberAt 9 = some 1) &&
    decide (m.roleOf 1 = roleWorker) && decide (st.roleOf 0 = roleManager) && decide (w.ownRoleEpoch = 1) && m.admitted 1 && m.noProgress 1 &&
    decide ((fleetState 9 1 roleWorker fltIsolated).fltState = fltIsolated) && decide ((fleetState 9 1 roleWorker fltFenced).fltState = fltFenced)) = true := by
  decide +kernel

theorem test_witness_fleet_work : (let m := fleetState 5 0 roleManager fltActive
    let w := fleetState 9 1 roleWorker fltActive
    let st := fleetState 11 2 roleStandby fltActive
    let warm := fleetState 12 3 roleWarm fltActive
    let arriving := { w with fleet := { w.fleet with arriving := some 0, mirrorWait := Tab.empty.insert 0 5 } }
    let taking := { st with fleet := { st.fleet with takeover := some 2 } }
    let granted := { w with fleet := { w.fleet with takeover := some 2 } }
    let held := w.adjustJob 3 fun j => { j with streams := [j.newStream 0 noQueue (resumeOf []) none] }
    let takes (t : State) (kind source : Nat) := t.live && t.fleetOn && decide (t.fltState ≠ fltFenced) && decide (fieldAt (fleetMsg kind []) 0 1 = kind) &&
      decide (t.rosterEpoch ≤ fieldAt (fleetMsg kind []) 4 4) && decide (16 ≤ (fleetMsg kind []).length) && (t.fleet.memberAt source).isSome
    let extra : List RosterEntry := [⟨20, roleWorker, 0, noOwner, 1, 0⟩, ⟨21, roleWorker, 0, noOwner, 1, 0⟩]
    let three := { taking with fleet := { taking.fleet with roster := some { fleetRoster with
      entries := fleetRoster.entries ++ extra } } }
    takes m 5 9 && takes st 5 9 && takes warm 5 5 && takes arriving 6 11 && takes w 7 5 && takes st 7 5 && takes w 8 9 && takes arriving 9 9 && takes w 10 5 &&
    takes w 11 5 && takes m 12 9 && takes w 13 11 && takes taking 14 9 && decide (m.roleOf 1 = roleWorker) && decide (w.roleOf 0 = roleManager) &&
    arriving.logAcks 2 && !arriving.logAcks 0 && decide (arriving.fleet.arriving = some 0) && decide (fieldAt (fleetMsg 6 []) 8 8 = 0) &&
    decide (arriving.fleet.mirrorWait.find 0 = some 5) && decide ((fleetMsg 8 (List.replicate 48 0)).length = 64) &&
    decide ((fleetMsg 10 (List.replicate 58 0)).length = 74) && decide (w.fleet.ownerOf 0 = w.ownIndex) && decide (warm.fleet.ownerOf 0 ≠ warm.ownIndex) &&
    ((held.jobs.find 3).bind (·.stream 0)).isSome && decide ((resumeOf (List.replicate 48 0)).ordinal = 0) &&
    decide (w.fleet.indexOfRole roleManager = some 0) && decide (((w.fleet.entry 0).map (·.roleEpoch)) = some 1) && decide (w.roleOf 2 = roleStandby) &&
    decide (granted.fleet.takeover = some 2) && taking.fleet.takeover.isSome && decide ((withRole taking.roster roleWorker).length = 1) &&
    decide ((withRole three.roster roleWorker).length = 3) && decide (w.fld Reg.FLT_INDEX Fld.FLT_INDEX_BUDDY = 0) && (m.fleet.memberAt 5).isSome) = true := by
  decide +kernel

theorem test_witness_idle : State.reset.pending = [] := rfl

theorem test_witness_reset_registers : Reg.PWR_CAP ≠ Reg.SHD_BOOT ∧ Reg.PWR_CAP ≠ Reg.HEEL_DCLASS ∧ Reg.GLB_KENNEL_HEALTH 32 ≤ Reg.PWR_CAP := by decide

theorem test_witness_sound : (State.sound { hostState with pending := [.pcieConfigRequest] }) = true := by decide

theorem test_witness_sound_step : ∃ t, step { hostState with pending := [.pcieConfigRequest] } = .next t := ⟨_, exec_pcieConfigRequest _⟩

theorem test_witness_queue : (step { State.reset with pending := [.smbusReject, .droopLimiterStep true] } matches .next _) = true := by decide

theorem test_witness_silent : ∃ t, exec (.chkEnable 3) { hostState with outOfService := [2, 4] } = .next t := ⟨_, exec_chkEnable 3 _⟩

theorem test_witness_faulty : ({ hostState with outOfService := [2, 4] } : State).outOfService ≠ [] := by decide

theorem test_witness_wide_register : (hostState.hostReaches (Reg.TRS_LBA 9) && decide (Reg.TRS_LBA 9 % 8 = 0) && ((regAt (Reg.TRS_LBA 9)).any (·.wide)) &&
    (regAt (Reg.TRS_LBA 9 + 4)).isNone && hostState.hostReaches Reg.PWR_DROOP && decide (Reg.PWR_DROOP % 8 = 0) && ((regAt Reg.PWR_DROOP).any (!·.wide)) &&
    hostState.hostReaches (Reg.PWR_DROOP + 4)) = true := by decide

theorem test_witness_plain_write : (let d := (regAt Reg.SHD_ALARM).getD ⟨0, [], true, 0, []⟩
    hostState.hostReaches Reg.SHD_ALARM && decide (Reg.SHD_ALARM % 4 = 0) && decide (regAt Reg.SHD_ALARM = some d) && !d.wide &&
    (hostState.unitWrite Reg.SHD_ALARM d 3).isNone && (hostState.jobWrite Reg.SHD_ALARM d 3).isNone && (regAt 0x100020).isNone &&
    !State.reset.hostReaches 0x100008 && (regAt 0x10001C).isNone && (regAt (0x10001C - 4)).isNone) = true := by decide

theorem test_witness_excluded : (let sites (n : Nat) (c : Int) : Tab Sensor := ⟨(List.range n).map fun k => (k, ⟨[c], c * filterScale⟩)⟩
    let hot (n : Nat) : State := { hostState with sheep := { hostState.sheep with sites := ⟨(sites 20 3000).entries ++
      ((List.range n).map fun k => (k + 20, ⟨[9000], 9000 * filterScale⟩))⟩ } }
    (hot 8).live && decide ((hot 8).siteTemps.length - (hot 8).goodSites.1.length = 8) && decide ((hot 8).hottest = some (3000 : Int)) &&
    decide ((hot 9).siteTemps.length - (hot 9).goodSites.1.length = 9)) = true := by decide +kernel

/-! ### Worked examples of the spec -/

/-- Byte order of device structures and of Plyn headers (the example of R8). -/
theorem test_byte_orders : leBytes 4 0x12345678 = [0x78, 0x56, 0x34, 0x12] ∧ beBytes 4 0x12345678 = [0x12, 0x34, 0x56, 0x78] := by decide

/-- The two halves of a 64-bit register (the example of R13), at TRS_HOST_ADDR of set 9. -/
theorem test_register_halves : (match exec (.registerWrite (Reg.TRS_HOST_ADDR 9) 32 0x2000) hostState with
    | .next t => decide (t.reg (Reg.TRS_HOST_ADDR 9) = 0) && (match exec (.registerWrite (Reg.TRS_HOST_ADDR 9 + 4) 32 1) t with
      | .next u => decide (u.reg (Reg.TRS_HOST_ADDR 9) = 0x100002000)
      | _ => false)
    | _ => false) = true := by decide +kernel

/-- Core 61,234 is in kennel 765 (the example of R18). -/
theorem test_core_number : kennelOf 61234 = 765 := by decide

/-- ENL_JOB_STATUS of slot 7 (the example before R395). -/
theorem test_register_index : Reg.ENL_JOB_STATUS 7 = 0x2010EC := by decide

/-- A WDOT lane adds its products one by one (the example of R72): 1.0 and twice 2^-12 × 2^-12 stay 1.0. -/
theorem test_wdot_order : (dotFp (Format.mk 8 7 true) 0x3F800000 0x3980 0x3980 0x3980 0x3980).1 = 0x3F800000 := by decide +kernel

/-- The check values of Table 9-5 over "123456789". -/
theorem test_check_values : Poly.crc32c.check (ascii "123456789") = 0xE3069283 ∧ Poly.crc32.check (ascii "123456789") = 0xCBF43926 ∧
    Poly.crc64.check (ascii "123456789") = 0xAE8B14860A799888 ∧ Poly.crc16.check (ascii "123456789") = 0xD0DB := by decide +kernel

/-- "abababa" compresses to a stored block in a stream of 40 bytes, and back (the example of R284). -/
theorem test_briar_example : (let r := (briCompress 9 16 false (ascii "abababa")).1
    decide (r.length = 40) && decide (sliceAt r 16 8 = [0, 0, 6, 0, 7, 0, 0, 0])) = true := by decide +kernel

/-- A coarsened counter and the charged energy (the example of R361). -/
theorem test_coarse_reading : (State.coarseValue { State.reset with sheep := { State.reset.sheep with
      sampled := Tab.empty.insert (Reg.TOK_TOKENS 4) 1234567 } } (Reg.TOK_TOKENS 4) = 1179648) ∧
    ((State.reset.addEnergy 3 31270000 true).sheep.energy.find 3 = some 270000) ∧
    ((State.reset.addEnergy 3 31270000 true).reg (Reg.PWR_JOB_ENERGY 3) = 31000000) := by decide +kernel

/-- The second command of R307's example waits for the first, and the fourth does not. -/
theorem test_trs_example : (let t := cmdState 1 (trsCmd 1 104 8 42) [(10, { trsCmd 2 100 8 41 with fetched := [] })]
    t.trsBlocked (trsCmd 1 104 8 42) && !t.trsBlocked (trsCmd 1 200 1 44)) = true := by decide

/-- SHA-256 and SHA-384 of "abc" (the standard that R348 and R356 name, FIPS 180-4). -/
theorem test_sha2 : sha256 (ascii "abc") = beBytes 32 0xba7816bf8f01cfea414140de5dae2223b00361a396177a9cb410ff61f20015ad ∧
    sha384 (ascii "abc") = beBytes 48
      0xcb00753f45a35e8bb5a03d699ac65007272c32ab0eded1631a8b605a43ff5bed8086072ba1e7cc2358baeca134c825a7 := by decide +kernel

/-- Each round constant is the first 64 bits of the fraction of the cube root of its prime (FIPS 180-4). -/
theorem test_sha2_constants : (((List.range 410).filter isPrime).zip (cubeRootRows.flatMap packedWords)).all (fun x =>
    (List.range 8).any fun w => (w * 2 ^ 64 + x.2) ^ 3 ≤ x.1 * 2 ^ 192 && decide (x.1 * 2 ^ 192 < (w * 2 ^ 64 + x.2 + 1) ^ 3)) = true := by
  decide +kernel

/-- Words written out from Tables 3-3 and 3-5: `@!p3 ADD s4, s1, s2`, `LD` with IMM −8 and TYPE 5, `GET` with C, `HALT`, and
opcodes that the table does not assign. -/
theorem test_core_words : decodeCoreWord 7 0x824B01 = some (.add 7 ⟨3, true, 4, 1, 2, 0, 0, 0, .clean⟩) ∧
    decodeCoreWord 0 0xFFFFFF8500045010 = some (.ld 0 ⟨0, false, 5, 2, 0, 0, 5, BitVec.ofInt 28 (-8), .clean⟩) ∧
    decodeCoreWord 1 0x1018C24040 = some (.get 1 ⟨0, false, 4, 1, 3, 3, 0, 1, .clean⟩) ∧
    decodeCoreWord 2 0x46 = some (.halt 2 ⟨0, false, 0, 0, 0, 0, 0, 0, .clean⟩) ∧
    ([0x00, 0x0D, 0x12, 0x1B, 0x22, 0x2F, 0x35, 0x47, 0xFF].all fun w => (decodeCoreWord 0 w).isNone) = true := by decide

/-! ### Single steps -/

/-- MUL takes the low half of a product that wraps. -/
theorem test_mul_wraps : (match exec (.mul 1 { fieldsT 5 4 2 2 0 with ty := 5 }) (coreState.setCore 1 { coreState.core 1 with
      s := Tab.empty.insert 2 (BitVec.ofNat 64 (2 ^ 40 + 3)) }) with
    | .next t => decide ((t.core 1).exception ≠ 0 ∨ (t.core 1).getS 4 = BitVec.ofNat 64 ((2 ^ 40 + 3) * (2 ^ 40 + 3)))
    | _ => false) = true := by decide +kernel

/-- A read of CHK_RUNNING shows the value and latches the byte count (R273). -/
theorem test_chk_running_read : (match exec (.chkRunningRead 3) (hostState.setChk 3 { running := 0xABCD, bytes := 9, into := 0 }) with
    | .next t => decide (t.hostRead = 0xABCD) && decide (t.reg (Reg.CHK_BYTES 3) = 9)
    | _ => false) = true := by decide +kernel

/-- A DMA channel that nobody holds does not start (R251). -/
theorem test_dma_not_held : (match exec (.dmaGo 5) hostState with
    | .next t => decide (t.fld (Reg.DMA_CH_STATUS 5) Fld.DMA_CH_STATUS_CODE = ST_DMA_NOT_HELD)
    | _ => false) = true := by decide +kernel

/-- A power-on reset holds the device until POR_N rises, and then boot stage 1 runs (R374, R382). -/
theorem test_power_on : (match exec .powerOnReset hostState with
    | .next t => decide (t.sheep.mode = .held) && (match exec (.resetPinRise true 0x15) t with
      | .next u => decide (u.sheep.mode = .starting) && decide (u.bootStage = 1) && decide (u.reg Reg.GLB_STRAPS = 0x15)
      | _ => false)
    | _ => false) = true := by decide +kernel

/-- A core that the part does not have is a fault of the model (log entry 47). -/
theorem test_no_such_core : (match exec (.halt 80000 (fieldsR 0 0 0 0)) State.reset with
    | .fault .noSuchUnit => true
    | _ => false) = true := by decide

/-- The table gives its rows no bits, so that no word spells a command. -/
theorem test_no_words : decodeTableWord 32 0x1234 = none ∧ State.reset.withFetchWord 32 0x1234 = State.reset := ⟨rfl, rfl⟩

/-! ### Well-formedness: a term that each check refuses, and well-formed ones -/

/-- A well-formed item, and items whose stage, epoch or position is out of range. -/
def goodItem : ItemRef := ⟨3, 5, 0, 6⟩
def badItems : List ItemRef := [⟨3, 65536, 0, 6⟩, ⟨3, 5, 2 ^ 32, 6⟩, ⟨3, 5, 0, 2 ^ 48⟩]

/-- Heel messages with a field out of range. -/
def badFrames : List HeelFrame :=
  let f := heelMsg 1 2 3
  [{ f with seq := 65536 }, { f with ackSeq := 65536 }, { f with keyA := 2 ^ 64 }, { f with epoch := 2 ^ 32 }, { f with keyB := 2 ^ 64 },
    { f with digest := [] }]

theorem test_wf_items : goodItem.wf = true ∧ (badItems.all fun i => !i.wf) = true := by decide

theorem test_wf_heel : (heelMsg 1 2 3).wf = true ∧ (badFrames.all fun f => !f.wf) = true := by decide

theorem test_wf_keys : (MsgKey.mk 9 1 0 4).wf = true ∧ ([MsgKey.mk (2 ^ 32) 1 0 4, ⟨9, 2 ^ 32, 0, 4⟩, ⟨9, 1, 256, 4⟩, ⟨9, 1, 0, 2 ^ 48⟩].all
    fun k => !k.wf) = true := by decide

theorem test_wf_events : (PtpEvent.offset (-2 ^ 31)).wf = true ∧ (PtpEvent.offset (2 ^ 31)).wf = false ∧ (PtpEvent.offset (-2 ^ 31 - 1)).wf = false ∧
    (NandOutcome.hard 65537).wf = false ∧ (JtagBlock.kennel 1000).wf = false ∧ (BootResult.failed 256 0).wf = false ∧
    (BootResult.failed 1 (2 ^ 32)).wf = false ∧ (BootResult.doneSelfTest [1000]).wf = false ∧ (BootResult.doneNand [⟨48, 0, 8⟩] 1 1).wf = false ∧
    (BootResult.doneNand [⟨0, 16, 8⟩] 1 1).wf = false ∧ (BootResult.doneNand [⟨0, 0, 2 ^ 32⟩] 1 1).wf = false ∧
    (BootResult.doneNand [] 0 1).wf = false ∧ (BootResult.doneNand [] 1 0).wf = false ∧ (BootResult.doneNand [⟨47, 15, 8⟩] 1 1).wf = true := by decide

theorem test_wf_refused_one : ([Instr.registerWrite (2 ^ 26) 32 0, .registerWrite 0 24 0, .reserveReloadDone 0 65536 0, .reserveReloadDone 0 0 65536,
    .engineFault 0 0, .engineFault 16 0, .engineFault 1 256, .modelPackageLoad 0 ⟨65536, []⟩, .modelPackageLoad 0 ⟨0, [.hard 65537]⟩, .positionAssign 0 65535, .sampleDispatch goodItem 80000 0,
    .sampleDispatch goodItem 0 (2 ^ 32), .sampleDispatch ⟨0, 65536, 0, 0⟩ 0 0, .indexTableRead 0 ⟨2 ^ 32, []⟩, .indexTableRead 0 ⟨0, [.hard 65537]⟩, .regionWaitExpiry goodItem (2 ^ 32),
    .regionWaitExpiry ⟨0, 65536, 0, 0⟩ 0, .compressStage ⟨0, 65536, 0, 0⟩ 0 true, .deadlineExpiry 0 65535, .mailboxDeliver 80000 0,
    .mailboxDeliver 0 8, .tagComplete 80000 0, .exBudget 80000, .groupRestart 0 65536 0, .groupRestart 0 0 65536, .returnOpen 0 (2 ^ 32) [],
    .maskStep 0 (2 ^ 32), .storeRecord 0 65536, .heelFrameResend 0 65536, .contextFetchDone 0 65536, .ackTimer 65536 0, .ackTimer 0 (2 ^ 32),
    .cryptStage ⟨0, 65536, 0, 0⟩, .sampleReadDone ⟨0, 65536, 0, 0⟩ .remote, .sampleReadDone goodItem (.nand [.hard 65537]), .sampleReadDone ⟨0, 65536, 0, 0⟩ (.nand []), .add 80000 (fieldsR 0 0 0 0), .halt 80000 (fieldsR 0 0 0 0)].all
      fun c => !c.wf) = true := by decide

theorem test_wf_refused_two : ([Instr.retransmitTimeout 65536 0 0 0, .retransmitTimeout 0 (2 ^ 32) 0 0, .retransmitTimeout 0 0 (2 ^ 48) 0,
    .retransmitTimeout 0 0 0 65536, .messageGiveUp 65536 0 0, .messageGiveUp 0 (2 ^ 32) 0, .messageGiveUp 0 0 (2 ^ 48), .retryHoldExpiry 65536 0 0 0,
    .retryHoldExpiry 0 (2 ^ 32) 0 0, .retryHoldExpiry 0 0 (2 ^ 48) 0, .retryHoldExpiry 0 0 0 65536, .filterEntryExpiry 65536 ⟨9, 1, 0, 4⟩,
    .filterEntryExpiry 0 ⟨9, 1, 256, 4⟩, .keyPhaseWindowExpiry 65536 0, .keyPhaseWindowExpiry 0 (2 ^ 32), .deliveryRetryTimer 0 65535 0,
    .deliveryRetryTimer 0 0 (2 ^ 32), .ptpEventMessage (.offset (2 ^ 31)), .dmaTransferError 0 true (2 ^ 64), .dmaAbortComplete 0 (some (2 ^ 64)),
    .poolRequest 0 65536, .poolRelease (2 ^ 32) 0, .poolRelease 0 65536, .poolSetCount (2 ^ 32) 0 0, .poolSetCount 0 65536 0, .poolSetCount 0 0 65536,
    .pltAck 0 0 (List.replicate 16385 0)].all fun c => !c.wf) = true := by decide +kernel

theorem test_wf_refused_three : (Instr.nandReadDone 0 65536 .soft).wf = false ∧ (Instr.nandReadDone 0 0 (.hard 65537)).wf = false ∧
    (Instr.trsBusError 0 65537).wf = false ∧ (Instr.blockErase (2 ^ 32)).wf = false ∧ (Instr.programFailure (2 ^ 32)).wf = false ∧
    (Instr.eraseFailure (2 ^ 32)).wf = false ∧ (Instr.sweepDone 0).wf = false ∧
    (Instr.sweepDone 65).wf = false ∧ (Instr.hbAck (2 ^ 32) 0 []).wf = false ∧ (Instr.hbAck 0 (2 ^ 32) []).wf = false ∧
    (Instr.livenessLeaseExpiry 65536).wf = false ∧ (Instr.progressLeaseExpiry 65536).wf = false ∧ (Instr.jtagAccess (.kennel 1000) true).wf = false ∧
    (Instr.bootStageComplete (.failed 256 0)).wf = false ∧ (Instr.temperatureSample 0 32768).wf = false ∧ (Instr.temperatureSample 0 (-32769)).wf = false ∧
    (Instr.railSample 0 65536 0).wf = false ∧ (Instr.railSample 0 0 (2 ^ 32)).wf = false ∧ (Instr.join (2 ^ 32) []).wf = false ∧
    (Instr.heelSetup { heelMsg 1 2 3 with digest := [] }).wf = false := by decide

theorem test_wf_long_frames : (PtpEvent.frame 0 0 (List.replicate 16385 0)).wf = false ∧
    (Instr.invalidFrame 0 ⟨0, List.replicate 16385 0⟩).wf = false := by decide +kernel

theorem test_wf_long_message : (Instr.resolve 0 (List.replicate 65536 0)).wf = false := by
  show (dwordOk 0 && decide ((List.replicate 65536 (0 : Byte)).length < 65536)) = false
  rw [List.length_replicate]
  decide

end Sys2Proof.Tests
end

/-! ### Every step keeps a state sound (O55) -/

namespace Sys2Proof.Machine

/-- A command that names a unit which the part may not have: the fault leaves no next state. -/
theorem faultOr_keeps {r : State} {c : Prop} [Decidable c] {f : Fault} {o : Host.Outcome State Fault Refusal}
    (h : KeepsOut r o) : KeepsOut r (if c then .fault f else o) := by
  split
  · exact KeepsOut.fault
  · exact h

/-- No command of any family touches the queue, and each keeps the canonical forms: its row is one of the shapes of
Laws/Keeps around shared operations that keep them. -/
theorem exec_keeps {r s : State} (h : r.Keeps s) (c : Instr) : KeepsOut r (exec c s) := by
  cases c
  all_goals dsimp only [exec]
  -- Host accesses
  case registerWrite => exact hostAct_keeps h fun _ ht => State.hostWrite_keeps ht
  case pltTimeNsRead => exact hostAct_keeps h fun _ ht => State.timeNsRead_keeps ht
  case pltMissqRead => exact hostAct_keeps h fun _ ht => State.missqRead_keeps ht
  case poolMinFreeRead => exact hostAct_keeps h fun _ ht => State.poolMinFreeRead_keeps ht
  case chkRunningRead => exact hostAct_keeps h fun _ ht => State.chkRunningRead_keeps ht
  -- Islands, dies and engines
  case islandDroopDetect | stretchStepDown => exact act_keeps h fun _ ht => State.setStretch_keeps ht
  case channelHung => exact act_keeps h fun _ ht => State.channelHung_keeps ht
  case reserveReloadDone => exact act_keeps h fun _ ht => State.reloadDone_keeps ht
  case dieFault => exact KeepsOut.next (State.takeOut_keeps h)
  case engineFault => exact faultOr_keeps (jobAct_keeps h fun _ ht => State.retireEngine_keeps ht)
  -- Images and epoch timers
  case wholeDeviceLoad | perHedgeLoad | unload | reservedLoadOp => exact loadGoRow_keeps h
  case loadComplete =>
    exact act_keeps h fun _ ht => by
      split
      · exact State.keeps_ite (State.loadDone_keeps ht) ht
      · exact ht
  case unloadComplete =>
    exact act_keeps h fun _ ht => by
      split
      · exact State.keeps_ite (State.unloadDone_keeps ht) ht
      · exact ht
  case epochTimerFire => exact act_keeps h fun _ ht => State.timerFire_keeps ht
  case timerPulseEnd =>
    exact act_keeps h fun _ ht => by
      split
      · exact State.keeps_ite (State.adjustPin_keeps (State.keeps_mk ht)) ht
      · exact ht
  -- Jobs
  case accept => exact jobCommand_keeps h fun _ ht => State.accept_keeps ht
  case start => exact jobCommand_keeps h fun _ ht => State.start_keeps ht
  case stop => exact jobCommand_keeps h fun _ ht => State.stop_keeps ht
  case abort => exact jobCommand_keeps h fun _ ht => State.abort_keeps ht
  case clear => exact jobCommand_keeps h fun _ ht => State.clearSlot_keeps ht
  case drainComplete => exact jobAct_keeps h fun _ ht => State.drainComplete_keeps ht
  case modelPackageLoad => exact jobAct_keeps h fun _ ht => State.loadModel_keeps ht
  case positionAssign => exact jobAct_keeps h fun _ ht => State.assignPosition_keeps ht
  -- Samples and engines
  case sampleDispatch => exact faultOr_keeps (act_keeps h fun _ ht => State.dispatch_keeps ht)
  case indexTableRead => exact jobAct_keeps h fun _ ht => State.indexRead_keeps ht
  case sampleReadDone => exact jobAct_keeps h fun _ ht => State.readDone_keeps ht
  case cryptStage => exact engineRow_keeps h fun _ _ _ _ ht => State.crypt_keeps ht
  case decompressStage => exact engineRow_keeps h fun _ _ _ _ ht => State.decompress_keeps ht
  case digestStage => exact engineRow_keeps h fun _ _ _ _ ht => State.handOn_keeps (State.digested_keeps ht)
  case imageDecode => exact engineRow_keeps h fun _ _ _ _ ht => State.imageDecode_keeps ht
  case videoDecode => exact engineRow_keeps h fun _ _ _ _ ht => State.videoDecode_keeps ht
  case regionWaitExpiry => exact engineRow_keeps h fun _ _ _ _ ht => State.regionExpired_keeps ht
  case captureTrigger => exact act_keeps h fun _ ht => State.captureEdge_keeps ht
  case resample => exact engineRow_keeps h fun _ _ _ _ ht => State.resampleItem_keeps ht
  case tokenize => exact engineRow_keeps h fun _ _ _ _ ht => State.tokenizeItem_keeps ht
  case compressStage =>
    exact engineRow_keeps h fun _ _ _ _ ht => State.keeps_ite ht
      (State.keeps_ite (State.compressItem_keeps ht) (State.bump_keeps (State.retireEngine_keeps ht)))
  case deadlineExpiry => exact jobAct_keeps h fun _ ht => State.deadline_keeps ht
  -- Kennel cores: scalar and wide instructions
  case add | sub | and | or | xor | shl | shr | sra | mul => exact binaryRow_keeps h
  case addi => exact scalarRow_keeps h
  case div | cmp | cww | wcmp | wredu | wins | wext | mbpoll | halt => exact registerRow_keeps h
  case ld => exact accessRow_keeps h fun _ _ _ ht => State.setCore_keeps ht
  case st => exact accessRow_keeps h fun _ _ _ ht => State.coreWrite_keeps (State.setCore_keeps ht)
  case br | call | jr => exact coreRow_keeps h fun _ _ ht => State.jump_keeps ht
  case cwr =>
    exact coreRow_keeps h fun _ _ ht => by
      split
      · exact State.setCore_keeps ht
      · exact State.exception_keeps ht
  case wld => exact wideAccessRow_keeps h fun _ _ _ ht => State.setCore_keeps ht
  case wst => exact wideAccessRow_keeps h fun _ _ _ ht => State.coreWrite_keeps (State.setCore_keeps ht)
  case wadd | wsub | wmul => exact arithRow_keeps h
  case wfma | wdot | wsel | wshuf | wcvt | wmax | wmin | wbcast => exact elementRow_keeps h
  case wreduU =>
    exact coreRow_keeps h fun _ _ ht => by
      split
      · exact State.setCore_keeps (State.drew_keeps ht)
      · exact State.setCore_keeps ht
  case sin => exact coreRow_keeps h fun _ _ ht => State.keeps_ite (State.exception_keeps ht) (State.setCore_keeps ht)
  case sout => exact coreRow_keeps h fun _ _ ht => State.heelSettle_keeps (State.sout_keeps ht)
  case sdone => exact coreRow_keeps h fun _ _ ht => State.heelSettle_keeps (State.sdone_keeps ht)
  case oalloc => exact coreRow_keeps h fun _ _ ht => State.oalloc_keeps ht
  case mbsend => exact coreRow_keeps h fun _ _ ht => State.sendOn_keeps ht
  case mbrecv => exact coreRow_keeps h fun _ _ ht => State.receiveOn_keeps ht
  case mailboxDeliver => exact faultOr_keeps (act_keeps h fun _ ht => State.deliverMail_keeps ht)
  case kgive => exact coreRow_keeps h fun _ _ ht => State.kgive_keeps ht
  case get | put => exact coreRow_keeps h fun _ _ ht => State.startCopy_keeps ht
  case tagComplete => exact faultOr_keeps (act_keeps h fun _ ht => State.tagComplete_keeps ht)
  case wait => exact coreRow_keeps h fun _ _ ht => State.keeps_ite (State.block_keeps ht) (State.setCore_keeps ht)
  case fence => exact coreRow_keeps h fun _ _ ht => State.keeps_ite (State.setCore_keeps ht) (State.setCore_keeps ht)
  case ovl => exact coreRow_keeps h fun _ _ ht => State.overlay_keeps ht
  case rdtime => exact coreRow_keeps h fun _ _ ht => State.setCore_keeps (State.drew_keeps ht)
  case exBudget => exact faultOr_keeps (act_keeps h fun _ ht => State.keeps_ite (State.exception_keeps ht) ht)
  -- Restarts, return messages and queues
  case groupRestart => exact act_keeps h fun _ ht => State.groupRestart_keeps ht
  case returnOpen => exact returnRow_keeps h fun _ _ ht => State.openStream_keeps ht
  case returnTokens | returnClose => exact returnRow_keeps h fun _ _ ht => State.stepMessage_keeps ht
  case maskStep =>
    exact act_keeps h fun _ ht => by
      split
      · exact State.keeps_ite (State.maskStep_keeps ht) ht
      · exact ht
  case storeRecord => exact jobAct_keeps h fun _ ht => State.storeRecord_keeps ht
  case pbqDepthWrite => exact hostAct_keeps h fun _ ht => State.pbqDepthWrite_keeps ht
  -- Heel
  case heelCtrlWrite => exact hostAct_keeps h fun _ ht => State.heelCtrlWrite_keeps ht
  case heelLinkselWrite => exact hostAct_keeps h fun _ ht => State.heelLinkselWrite_keeps ht
  case heelSetup => exact heelRow_keeps h fun _ _ ht => State.heelSetupGot_keeps ht
  case heelSetupTimeout => exact jobAct_keeps h fun _ ht => State.keeps_ite (State.setupFailed_keeps ht) ht
  case heelBatchDigest => exact heelRow_keeps h fun _ _ ht => State.keeps_ite (State.heelPeerBatch_keeps ht) ht
  case heelStageDigest => exact heelRow_keeps h fun _ _ ht => State.keeps_ite (State.heelPeerStage_keeps ht) ht
  case heelDigestTimeout => exact jobAct_keeps h fun _ ht => State.keeps_ite ht (State.freezeSession_keeps ht)
  case heelFreeze => exact heelRow_keeps h fun _ _ ht => State.freezeSession_keeps ht
  case heelLocateStart => exact act_keeps h fun _ ht => State.keeps_ite (State.heelNext_keeps ht) ht
  case heelLocateRequest => exact heelRow_keeps h fun _ _ ht => State.heelSend_keeps ht
  case heelLocateAnswer =>
    exact heelRow_keeps h fun _ _ ht => by
      split
      · split
        · exact State.keeps_ite (State.heelAnswered_keeps ht) ht
        · exact ht
      · exact ht
  case heelReport => exact heelRow_keeps h fun _ _ ht => State.keeps_ite (State.writeDiv_keeps ht) ht
  case heelAckFrame => exact act_keeps h fun _ ht => State.heelReceive_keeps ht
  case heelFrameResend =>
    exact act_keeps h fun _ ht => by
      refine State.keeps_ite ?_ ht
      split
      · exact State.setHeel_keeps ht
      · exact ht
  -- Plyn transport, ports and network time
  case invalidFrame => exact jobAct_keeps h fun _ ht => State.frameArrives_keeps ht
  case pltWrite | pltWriteImm | pltReadReq | pltReadResp | pltAtomicAdd | pltAtomicCas | pltAck | pltNak | pltCredit =>
    exact pltRow_keeps h
  case contextFetchDone => exact jobAct_keeps h fun _ ht => State.keeps_ite (State.fetchDone_keeps ht) ht
  case ackTimer => exact act_keeps h fun _ ht => State.flushAcks_keeps ht
  case retransmitTimeout => exact act_keeps h fun _ ht => State.retransmit_keeps ht
  case messageGiveUp => exact jobAct_keeps h fun _ ht => State.giveUp_keeps ht
  case retryHoldExpiry | filterEntryExpiry | keyPhaseWindowExpiry => exact act_keeps h fun _ ht => State.adjustCtx_keeps ht
  case deliveryRetryTimer => exact jobAct_keeps h fun _ ht => State.repeatBatch_keeps ht
  case frameTransmit => exact act_keeps h fun _ ht => State.keeps_ite (State.transmit_keeps ht) ht
  case gateEntryChange => exact act_keeps h fun _ ht => State.recomputeGates_keeps ht
  case pltPortCfgWrite => exact hostAct_keeps h fun _ ht => State.portCfgWrite_keeps ht
  case linkStateChange => exact act_keeps h fun _ ht => State.keeps_ite ht (State.setFld_keeps ht)
  case shaperRateWrite => exact hostAct_keeps h fun _ ht => State.shaperRateWrite_keeps ht
  case shaperBurstWrite => exact hostAct_keeps h fun _ ht => State.shaperBurstWrite_keeps ht
  case ptpEventMessage => exact act_keeps h fun _ ht => State.ptpEvent_keeps ht
  case masterLoss => exact act_keeps h fun _ ht => State.keeps_ite (State.forgetMaster_keeps (State.setServo_keeps ht)) ht
  case holdoverTimeout => exact act_keeps h fun _ ht => State.keeps_ite (State.setServo_keeps ht) ht
  case ppsInEdge =>
    exact act_keeps h fun _ ht =>
      State.keeps_ite (State.keeps_ite (State.stepCounter_keeps (State.keeps_mk ht)) (State.keeps_mk ht)) ht
  case ppsSecond => exact act_keeps h fun _ ht => State.keeps_ite (State.adjustPin_keeps ht) ht
  -- Movers, pools, check units and Briar
  case dmaGo => exact hostAct_keeps h fun _ ht => State.dmaGo_keeps ht
  case dmaAbort => exact hostAct_keeps h fun _ ht => State.dmaAbort_keeps ht
  case dmaHold => exact hostAct_keeps h fun _ ht => State.dmaHold_keeps ht
  case dmaRelease => exact hostAct_keeps h fun _ ht => State.dmaRelease_keeps ht
  case dmaDescriptorComplete =>
    exact act_keeps h fun _ ht => by
      split
      · exact State.keeps_ite (State.dmaComplete_keeps ht) ht
      · exact ht
  case dmaTransferError =>
    exact act_keeps h fun _ ht => by
      split
      · exact State.dmaStop_keeps ht
      · exact ht
  case dmaAbortComplete =>
    exact act_keeps h fun _ ht => by
      split
      · refine State.keeps_ite ?_ ht
        split
        · exact State.dmaStop_keeps ht
        · exact State.dmaUnfetched_keeps ht
      · exact ht
  case poolRequest => exact act_keeps h fun _ ht => State.poolRequest_keeps ht
  case poolRelease => exact act_keeps h fun _ ht => State.poolRelease_keeps ht
  case poolSetCount => exact act_keeps h fun _ ht => State.poolSetCount_keeps ht
  case chkEnable => exact hostAct_keeps h fun _ ht => State.chkEnable_keeps ht
  case chkDisable => exact hostAct_keeps h fun _ ht => State.drainStalled_keeps (State.chkDisable_keeps ht)
  case chkPause => exact hostAct_keeps h fun _ ht => State.chkPause_keeps ht
  case chkPaused => exact act_keeps h fun _ ht => State.keeps_ite (State.setBit_keeps ht) ht
  case chkResume => exact hostAct_keeps h fun _ ht => State.drainStalled_keeps (State.chkResume_keeps ht)
  case chkHold => exact hostAct_keeps h fun _ ht => State.chkHold_keeps ht
  case chkRelease => exact hostAct_keeps h fun _ ht => State.drainStalled_keeps (State.chkRelease_keeps ht)
  case chkConfigWrite => exact hostAct_keeps h fun _ ht => State.chkConfigWrite_keeps ht
  case chkStateWrite => exact hostAct_keeps h fun _ ht => State.chkStateWrite_keeps ht
  case chkRecord => exact act_keeps h fun _ ht => State.keeps_ite (State.chkRecord_keeps ht) ht
  case briGo => exact hostAct_keeps h fun _ ht => State.briGo_keeps ht
  case briAbort => exact hostAct_keeps h fun _ ht => State.briAbort_keeps ht
  case briHold => exact hostAct_keeps h fun _ ht => State.briHold_keeps ht
  case briRelease => exact hostAct_keeps h fun _ ht => State.briDrop_keeps ht
  case briBlockDone =>
    exact act_keeps h fun _ ht => State.keeps_ite (State.briStop_keeps (State.briStep_keeps ht)) (State.briStep_keeps ht)
  case briDescriptorComplete =>
    exact act_keeps h fun _ ht => State.keeps_ite (State.briComplete_keeps ht) (State.keeps_ite (State.briStop_keeps ht) ht)
  -- Block store
  case trsRead | trsWrite | trsWriteAtomic | trsFlush | trsTrim | trsVerify | trsFormat => exact trsGoRow_keeps h
  case trsCommandStart =>
    exact act_keeps h fun _ ht => by
      split
      · exact State.keeps_ite (State.trsBegin_keeps ht) ht
      · exact ht
  case nandReadDone =>
    exact act_keeps h fun _ ht => by
      split
      · split
        · exact State.keeps_ite (State.nandRead_keeps ht) ht
        · exact ht
      · exact ht
  case trsCommandComplete =>
    exact act_keeps h fun _ ht => by
      split
      · exact State.trsEnd_keeps ht
      · exact ht
  case trsBusError =>
    exact act_keeps h fun _ ht => by
      split
      · exact State.keeps_ite (State.trsBus_keeps ht) ht
      · exact ht
  case controllerReset => exact hostAct_keeps h fun _ ht => State.controllerReset_keeps ht
  case controllerResetDone => exact act_keeps h fun _ ht => State.keeps_ite (State.raise_keeps (State.setBit_keeps ht)) ht
  case checkpointStart => exact act_keeps h fun _ ht => State.keeps_ite ht (State.startCheckpoint_keeps ht)
  case checkpointDone =>
    exact act_keeps h fun _ ht => by
      split
      · exact State.endCheckpoint_keeps ht
      · exact ht
  case garbageCollection => exact act_keeps h fun _ ht => State.collect_keeps ht
  case blockErase =>
    exact act_keeps h fun _ ht => by
      split
      · exact State.keeps_ite (State.showBlocks_keeps (State.adjustStore_keeps ht)) ht
      · exact ht
  case programFailure =>
    exact act_keeps h fun _ ht => by
      split
      · exact State.keeps_ite (State.copyUnits_keeps (State.retireBlock_keeps (State.adjustHealth_keeps ht))) ht
      · exact ht
  case eraseFailure =>
    exact act_keeps h fun _ ht => by
      split
      · exact State.keeps_ite (State.retireBlock_keeps (State.adjustHealth_keeps ht)) ht
      · exact ht
  case healthSnapshot => exact hostAct_keeps h fun _ ht => State.healthSnap_keeps ht
  case temperatureHour => exact act_keeps h fun _ ht => State.adjustHealth_keeps ht
  case sweepDone => exact act_keeps h fun _ ht => State.keeps_ite (State.sweepDone_keeps ht) ht
  case blkNsCreate => exact mgmtRow_keeps h fun _ _ ht => nsCreateBody_keeps ht
  case blkNsDelete => exact mgmtRow_keeps h fun _ _ ht => nsDeleteBody_keeps ht
  case blkKeyRotate => exact mgmtRow_keeps h fun _ _ ht => keyRotateBody_keeps ht
  case blkKeySweep => exact mgmtRow_keeps h fun _ _ ht => keySweepBody_keeps ht
  case blkKeyDestroy => exact mgmtRow_keeps h fun _ _ ht => keyDestroyGenBody_keeps ht
  -- Fleet
  case fleetEnable => exact hostAct_keeps h fun _ ht => State.heelSettle_keeps (State.fleetControl_keeps ht)
  case fltConfigWrite => exact hostAct_keeps h fun _ ht => State.heelSettle_keeps (State.fleetConfig_keeps ht)
  case join => exact fleetTake_keeps h fun _ _ ht => State.keeps_ite (State.joinAsked_keeps ht) ht
  case roster => exact fleetTake_keeps h fun _ _ ht => State.rosterArrived_keeps ht
  case heartbeat => exact fleetFrom_keeps h fun _ _ _ ht => State.heartbeatArrived_keeps ht
  case hbAck => exact fleetFrom_keeps h fun _ _ _ ht => State.heartbeatAcked_keeps ht
  case arrive =>
    exact fleetFrom_keeps h fun _ _ _ ht =>
      State.keeps_ite (State.arrivalAtLog_keeps ht) (State.keeps_ite (State.shadowArrival_keeps ht) ht)
  case arriveAck => exact fleetFrom_keeps h fun _ _ _ ht => State.keeps_ite (State.arrivalDurable_keeps ht) ht
  case commit => exact fleetFrom_keeps h fun _ _ _ ht => State.keeps_ite (State.committed_keeps ht) ht
  case mirror => exact fleetFrom_keeps h fun _ _ _ ht => State.keeps_ite (State.keepMirror_keeps ht) ht
  case mirrorAck => exact fleetFrom_keeps h fun _ _ _ ht => State.keeps_ite (State.mirrored_keeps ht) ht
  case move => exact fleetFrom_keeps h fun _ _ _ ht => State.keeps_ite (State.moved_keeps ht) ht
  case fetch => exact fleetFrom_keeps h fun _ _ _ ht => State.keeps_ite (State.fetched_keeps ht) ht
  case records => exact fleetFrom_keeps h fun _ _ _ ht => State.keeps_ite (State.recordsArrived_keeps ht) ht
  case takeover => exact fleetFrom_keeps h fun _ _ _ ht => State.keeps_ite (State.takeoverAsked_keeps ht) ht
  case takeoverAck => exact fleetFrom_keeps h fun _ _ _ ht => State.takeoverAcked_keeps ht
  case resolve => exact fleetFrom_keeps h fun _ _ _ ht => State.keeps_ite (State.fleetSend_keeps ht) ht
  case heartbeatTimer => exact act_keeps h fun _ ht => State.sendHeartbeat_keeps ht
  case livenessLeaseExpiry | progressLeaseExpiry =>
    exact act_keeps h fun _ ht => State.keeps_ite (State.settleLog_keeps (State.failMember_keeps ht)) ht
  case workerIsolation => exact act_keeps h fun _ ht => State.keeps_ite (State.setFltState_keeps ht) ht
  case managerIsolation =>
    exact act_keeps h fun _ ht => State.keeps_ite (State.adjustFleet_keeps (State.setFltState_keeps ht)) ht
  case standbyTakeoverTimeout => exact act_keeps h fun _ ht => State.startTakeover_keeps ht
  case takeoverQuorumTimeout =>
    exact act_keeps h fun _ ht => State.keeps_ite (State.setFltCode_keeps (State.adjustFleet_keeps ht)) ht
  -- Security, power, boot and management
  case secAttest => exact mgmtRow_keeps h fun _ _ ht => attestBody_keeps ht
  case secKeyImport => exact mgmtRow_keeps h fun _ _ ht => keyImportBody_keeps ht
  case secKeyDestroy => exact mgmtRow_keeps h fun _ _ ht => keyDestroyBody_keeps ht
  case secHedgeOwner => exact mgmtRow_keeps h fun _ _ ht => hedgeOwnerBody_keeps ht
  case secAnchorSet => exact mgmtRow_keeps h fun _ _ ht => anchorSetBody_keeps ht
  case secCertRead => exact mgmtRow_keeps h fun _ _ ht => certReadBody_keeps ht
  case mgmtTlsHandshake => exact KeepsOut.next (State.keeps_ite (State.adjustSecurity_keeps h) h)
  case jtagAccess =>
    exact act_keeps h fun _ ht => State.keeps_ite ht
      (State.keeps_ite (State.keeps_mk (State.bumpSat_keeps (State.setBit_keeps ht))) (State.setBit_keeps ht))
  case powerWindowBoundary => exact act_keeps h fun _ ht => State.powerWindow_keeps ht
  case counterSampleBoundary => exact act_keeps h fun _ ht => State.adjustSheep_keeps ht
  case shdFwStage => exact mgmtRow_keeps h fun _ _ ht => fwStageBody_keeps ht
  case shdFwActivate => exact mgmtRow_keeps h fun _ _ ht => fwActivateBody_keeps ht
  case firmwareSwitch => exact act_keeps h fun _ ht => State.keeps_ite (State.switchFirmware_keeps ht) ht
  case shdReset => exact mgmtRow_keeps h fun _ _ ht => resetBody_keeps ht
  case shdFallbackExit => exact mgmtRow_keeps h fun _ _ ht => fallbackExitBody_keeps ht
  case pwrSetCap => exact mgmtRow_keeps h fun _ _ ht => setCapBody_keeps ht
  case pwrSetPlanMax => exact mgmtRow_keeps h fun _ _ ht => setPlanMaxBody_keeps ht
  case shdFeature => exact mgmtRow_keeps h fun _ _ ht => featureBody_keeps ht
  case shdDiag => exact mgmtRow_keeps h fun _ _ ht => diagBody_keeps ht
  case powerOnReset => exact KeepsOut.next (State.powerOnReset_keeps h)
  case warmReset => exact KeepsOut.next (State.warmReset_keeps h)
  case hostPortReset =>
    exact act_keeps h fun _ ht => State.controllerReset_keeps (State.drainStalled_keeps (State.releaseHolds_keeps ht))
  case pcieConfigRequest | smbusReject => exact act_keeps h fun _ ht => State.keeps_mk ht
  case domainPowerGood => exact act_keeps h fun _ ht => State.keeps_ite (State.powerDomain_keeps ht) ht
  case bootStageComplete => exact act_keeps h fun _ ht => State.keeps_ite (State.stageEnded_keeps ht) ht
  case bootStageTimeout => exact act_keeps h fun _ ht => State.keeps_ite (State.failStart_keeps ht) ht
  case temperatureSample => exact act_keeps h fun _ ht => State.sampleSite_keeps ht
  case thermalRestart => exact act_keeps h fun _ ht => State.keeps_ite (State.beginStart_keeps ht) ht
  case railSample => exact act_keeps h fun _ ht => State.sampleRail_keeps ht
  case capLimiterStep => exact act_keeps h fun _ ht => State.capStep_keeps ht
  case thermalLimiterStep => exact act_keeps h fun _ ht => State.thermalStep_keeps ht
  case droopLimiterStep => exact act_keeps h fun _ ht => State.keeps_ite (State.lower_keeps ht) (State.lift_keeps ht)
  case smbusBlockRead => exact act_keeps h fun _ ht => State.keeps_ite ht (State.keeps_mk ht)
  case resetPinRise => exact KeepsOut.next (State.pinRise_keeps h)
  case msixCoalesceExpiry =>
    exact act_keeps h fun _ ht => by
      dsimp only
      split
      · exact State.keeps_mk (State.raise_keeps ht)
      · exact State.keeps_mk ht

/-- A step takes the command at the front of the queue away and keeps the rest and the canonical forms. -/
theorem step_keeps {s t : State} (e : step s = .next t) : State.Keeps { s with pending := s.pending.tail } t := by
  unfold step at e
  split at e
  next hp =>
    cases e
    refine State.idle_keeps ⟨?_, id, id⟩
    rw [hp, List.tail_nil]
  next c rest hp =>
    rw [hp, List.tail_cons]
    exact (exec_keeps (State.Keeps.refl _) c).all t e

theorem State.sound_iff (s : State) :
    s.sound = true ↔ (∀ c ∈ s.pending, c.wf = true) ∧ s.memoriesOk = true ∧ s.registersOk = true := by
  simp [State.sound, State.queueOk, and_assoc]

/-- Settles O55: the queue after a step is the tail of the queue before it, and every step keeps the canonical forms. -/
theorem stepsKeepStatesSound : Obligations.StepsKeepStatesSound := by
  unfold Obligations.StepsKeepStatesSound
  intro s t hs hstep
  obtain ⟨hqueue, hmem, hregs⟩ := s.sound_iff.1 hs
  obtain ⟨hp, keepsMem, keepsRegs⟩ := step_keeps hstep
  refine t.sound_iff.2 ⟨fun c hc => hqueue c ?_, keepsMem hmem, keepsRegs hregs⟩
  rw [hp] at hc
  exact List.mem_of_mem_tail hc

end Sys2Proof.Machine

/-! ### Host accesses by width (O58) -/

namespace Sys2Proof.Machine

/-- The regions that a mode closes to the host begin and end at multiples of 8. -/
theorem State.hostReaches_upper (s : State) {off : Nat} (h8 : off % 8 = 0) : s.hostReaches (off + 4) = s.hostReaches off := by
  have lower : 0x100000 ≤ off + 4 ↔ 0x100000 ≤ off := by omega
  have upper : off + 4 < 0x200000 ↔ off < 0x200000 := by omega
  simp only [State.hostReaches, lower, upper]

theorem exec_registerWrite_reaches {s : State} {off : Nat} (h : s.hostReaches off = true) (width : Nat) (v : Word64) :
    exec (.registerWrite off width v) s = .next (s.hostWrite off width v) := by
  rw [exec_registerWrite, execRegisterWrite, hostAct_reaches h]

theorem State.hostWrite_32 (s : State) {off : Nat} (h : off % 4 = 0) (v : Word64) :
    s.hostWrite off 32 v = s.write32 off (v.toNat % 2 ^ 32) := by simp [State.hostWrite, h]

theorem State.hostWrite_64 (s : State) {off : Nat} (h : off % 8 = 0) (v : Word64) :
    s.hostWrite off 64 v = s.write64 off v := by simp [State.hostWrite, h]

theorem State.hostReadValue_32 {s : State} {off : Nat} (h : s.hostReaches off = true) (h4 : off % 4 = 0) :
    s.hostReadValue off 32 = s.read32 off := by simp [State.hostReadValue, h, h4]

theorem State.hostReadValue_64 {s : State} {off : Nat} (h : s.hostReaches off = true) (h8 : off % 8 = 0) :
    s.hostReadValue off 64 = s.read32 off + s.read32 (off + 4) * 2 ^ 32 := by simp [State.hostReadValue, h, h8]

/-! A 64-bit register whose upper half is no register of its own. -/

theorem State.read32_lower {s : State} {off : Nat} {d : RegDesc} (hd : regAt off = some d)
    (hwin : ¬ (healthWindow ≤ off ∧ off < healthWindow + 928)) : s.read32 off = (s.readReg off d).toNat % 2 ^ 32 := by
  simp only [State.read32, Bool.and_eq_true, decide_eq_true_eq, hwin, if_false, hd]

theorem State.read32_upper {s : State} {off : Nat} {d : RegDesc} (h8 : off % 8 = 0) (hd : regAt off = some d)
    (hw : d.wide = true) (hu : regAt (off + 4) = none) (hwin : ¬ (healthWindow ≤ off ∧ off < healthWindow + 928)) :
    s.read32 (off + 4) = (s.readReg off d).toNat / 2 ^ 32 := by
  have hwin' : ¬ (healthWindow ≤ off + 4 ∧ off + 4 < healthWindow + 928) := by
    unfold healthWindow at hwin ⊢
    omega
  have hmod : (off + 4) % 8 = 4 := by omega
  simp only [State.read32, Bool.and_eq_true, decide_eq_true_eq, hwin', if_false, hu, hmod, if_true, Nat.add_sub_cancel, hd, hw]

theorem State.write32_lower (s : State) {off : Nat} {d : RegDesc} (hd : regAt off = some d) (hw : d.wide = true) (n : Nat) :
    s.write32 off n = { s with regPend := s.regPend.insert off (BitVec.ofNat 32 n) } := by
  simp only [State.write32, hd, hw, if_true]

theorem State.write64_whole (s : State) {off : Nat} {d : RegDesc} (hd : regAt off = some d) (hw : d.wide = true)
    (v : Word64) : s.write64 off v = State.regWrite { s with regPend := s.regPend.erase off } off d v := by
  simp only [State.write64, hd, hw, if_true]

/-- A write of the upper half is a 64-bit write of it with the pending lower half, or with the register's. -/
theorem State.write32_upper (s : State) {off : Nat} {d : RegDesc} (h8 : off % 8 = 0) (hd : regAt off = some d)
    (hw : d.wide = true) (hu : regAt (off + 4) = none) (n : Nat) :
    s.write32 (off + 4) n = s.write64 off
      (BitVec.ofNat 64 (((s.regPend.find off).getD (BitVec.setWidth 32 (s.reg off))).toNat + n * 2 ^ 32)) := by
  have hmod : (off + 4) % 8 = 4 := by omega
  simp only [State.write32, State.write64, hu, hmod, if_true, Nat.add_sub_cancel, hd, hw]

/-- A 64-bit write where a 32-bit register lies is two 32-bit writes, the low half first. -/
theorem State.write64_halves {s : State} {off : Nat} {d : RegDesc} (hd : regAt off = some d) (hw : d.wide = false)
    (v : Word64) : s.write64 off v = (s.write32 off (v.toNat % 2 ^ 32)).write32 (off + 4) (v.toNat / 2 ^ 32) := by
  simp [State.write64, hd, hw]

/-- Settles O58, by what a 32-bit access of each half is. -/
theorem sixtyFourBitRegistersTakeTheirHalves : Obligations.SixtyFourBitRegistersTakeTheirHalves := by
  unfold Obligations.SixtyFourBitRegistersTakeTheirHalves
  intro s off d hr h8 hd
  have h4 : off % 4 = 0 := by omega
  have h4' : (off + 4) % 4 = 0 := by omega
  have hr' : s.hostReaches (off + 4) = true := by rw [s.hostReaches_upper h8, hr]
  refine ⟨fun hw hu => ⟨fun hwin => ?_, fun v => ?_, fun v => ?_, fun v => ?_⟩, fun hw => ⟨?_, fun v t ht hrt => ?_⟩⟩
  · have hwhole := Nat.mod_add_div' (s.readReg off d).toNat (2 ^ 32)
    rw [State.hostReadValue_64 hr h8, State.read32_lower hd hwin, State.read32_upper h8 hd hw hu hwin, hwhole]
  · rw [exec_registerWrite_reaches hr, State.hostWrite_64 _ h8, State.write64_whole _ hd hw]
  · rw [exec_registerWrite_reaches hr, State.hostWrite_32 _ h4, State.write32_lower _ hd hw]
  · dsimp only
    rw [exec_registerWrite_reaches hr', State.hostWrite_32 _ h4', State.write32_upper _ h8 hd hw hu,
      exec_registerWrite_reaches hr, State.hostWrite_64 _ h8]
    cases s.regPend.find off <;> simp
  · rw [State.hostReadValue_64 hr h8, State.hostReadValue_32 hr h4, State.hostReadValue_32 hr' h4']
  · have low : v.toNat % 2 ^ 32 % 2 ^ 64 % 2 ^ 32 = v.toNat % 2 ^ 32 := by omega
    have high : v.toNat / 2 ^ 32 % 2 ^ 64 % 2 ^ 32 = v.toNat / 2 ^ 32 := by have := v.isLt; omega
    rw [exec_registerWrite_reaches hr, State.hostWrite_32 _ h4, BitVec.toNat_ofNat, low] at ht
    injection ht with ht
    subst ht
    rw [exec_registerWrite_reaches hr, State.hostWrite_64 _ h8, State.write64_halves hd hw, exec_registerWrite_reaches hrt,
      State.hostWrite_32 _ h4', BitVec.toNat_ofNat, high]

end Sys2Proof.Machine

/-! ### Plain writes by access type (O59) -/

namespace Sys2Proof.Machine

/-- Two fields share no bit. -/
def Fld.apart (f g : Fld) : Bool := f.lo + f.len ≤ g.lo || g.lo + g.len ≤ f.lo

/-- The fields of a register lie within 64 bits, and no two share a bit. -/
def fieldsApart : List FieldDesc → Bool
  | [] => true
  | f :: fs => decide (f.fld.lo + f.fld.len ≤ 64) && fs.all (fun g => f.fld.apart g.fld) && fieldsApart fs

theorem fieldsApart_cons {f : FieldDesc} {fs : List FieldDesc} (h : fieldsApart (f :: fs) = true) :
    f.fld.lo + f.fld.len ≤ 64 ∧ (∀ g ∈ fs, f.fld.lo + f.fld.len ≤ g.fld.lo ∨ g.fld.lo + g.fld.len ≤ f.fld.lo) ∧
      fieldsApart fs = true := by
  simpa [fieldsApart, Fld.apart, and_assoc] using h

/-- Every register of a block has its fields apart. -/
def blockApart (ds : List RegDesc) : Bool := ds.all fun d => fieldsApart d.fields

theorem blockApart_ite {c : Prop} [Decidable c] {ds es : List RegDesc} (hd : blockApart ds = true) (he : blockApart es = true) :
    blockApart (if c then ds else es) = true := by split <;> assumption

theorem blockRegs_apart (off : Nat) : blockApart (blockRegs off) = true := by
  unfold blockRegs
  repeat' with_reducible apply blockApart_ite
  all_goals decide +kernel

theorem regAt_fieldsApart {off : Nat} {d : RegDesc} (h : regAt off = some d) : fieldsApart d.fields = true :=
  List.all_eq_true.1 (blockRegs_apart off) d (List.mem_of_find?_eq_some h)

/-- Fields put one after the other change no bit outside them. -/
theorem getLsbD_foldl_putFld (val : FieldDesc → Nat) {fs : List FieldDesc} (ha : fieldsApart fs = true) (x : Word64) {i : Nat}
    (hi : ∀ f ∈ fs, ¬ (f.fld.lo ≤ i ∧ i < f.fld.lo + f.fld.len)) :
    (fs.foldl (fun y f => putFld f.fld y (val f)) x).getLsbD i = x.getLsbD i := by
  induction fs generalizing x with
  | nil => rfl
  | cons f fs ih =>
    obtain ⟨hlen, -, hrest⟩ := fieldsApart_cons ha
    rw [List.foldl_cons, ih hrest _ fun g hg => hi g (List.mem_cons_of_mem f hg), getLsbD_putFld f.fld hlen,
      if_neg (hi f List.mem_cons_self)]

/-- Fields put one after the other leave a field apart from them all as it was. -/
theorem getFld_foldl_putFld_other (val : FieldDesc → Nat) {fs : List FieldDesc} (ha : fieldsApart fs = true) (x : Word64)
    {g : Fld} (hg : ∀ f ∈ fs, g.lo + g.len ≤ f.fld.lo ∨ f.fld.lo + f.fld.len ≤ g.lo) :
    getFld g (fs.foldl (fun y f => putFld f.fld y (val f)) x) = getFld g x := by
  induction fs generalizing x with
  | nil => rfl
  | cons f fs ih =>
    obtain ⟨hlen, -, hrest⟩ := fieldsApart_cons ha
    rw [List.foldl_cons, ih hrest _ fun k hk => hg k (List.mem_cons_of_mem f hk),
      getFld_putFld_other f.fld g hlen (hg f List.mem_cons_self)]

/-- Each of the fields put one after the other reads as what was put there. -/
theorem getFld_foldl_putFld (val : FieldDesc → Nat) {fs : List FieldDesc} (ha : fieldsApart fs = true) (x : Word64)
    {g : FieldDesc} (hg : g ∈ fs) :
    getFld g.fld (fs.foldl (fun y f => putFld f.fld y (val f)) x) = val g % 2 ^ g.fld.len := by
  induction fs generalizing x with
  | nil => cases hg
  | cons f fs ih =>
    obtain ⟨hlen, happ, hrest⟩ := fieldsApart_cons ha
    rw [List.foldl_cons]
    rcases List.mem_cons.1 hg with rfl | hmem
    · rw [getFld_foldl_putFld_other val hrest _ happ, getFld_putFld_self g.fld hlen]
    · exact ih hrest _ hmem

theorem getFld_lt (f : Fld) (v : Word64) : getFld f v < 2 ^ f.len := Nat.mod_lt _ (Nat.two_pow_pos _)

/-- What a field holds after a write, as its access type states. -/
theorem FieldDesc.written_mod (f : FieldDesc) (old v : Word64) :
    BitVec.ofNat 64 (f.written old v % 2 ^ f.fld.len) = match f.access with
      | .rw => BitVec.ofNat 64 (getFld f.fld v)
      | .w1c => BitVec.ofNat 64 (getFld f.fld old) &&& ~~~BitVec.ofNat 64 (getFld f.fld v)
      | .w1s => BitVec.ofNat 64 (getFld f.fld old) ||| BitVec.ofNat 64 (getFld f.fld v)
      | .ro | .wo => BitVec.ofNat 64 (getFld f.fld old) := by
  have ho : getFld f.fld old < 2 ^ f.fld.len := getFld_lt _ _
  have hv : getFld f.fld v < 2 ^ f.fld.len := getFld_lt _ _
  have small : ∀ n, (BitVec.ofNat 64 n).toNat ≤ n := fun n => by
    rw [BitVec.toNat_ofNat]
    exact Nat.mod_le _ _
  have folded : f.written old v = match f.access with
      | .rw => getFld f.fld v
      | .w1c => (BitVec.ofNat 64 (getFld f.fld old) &&& ~~~BitVec.ofNat 64 (getFld f.fld v)).toNat
      | .w1s => (BitVec.ofNat 64 (getFld f.fld old) ||| BitVec.ofNat 64 (getFld f.fld v)).toNat
      | .ro | .wo => getFld f.fld old := rfl
  rw [folded]
  cases f.access
  case ro | wo => simp only [Nat.mod_eq_of_lt ho]
  case rw => simp only [Nat.mod_eq_of_lt hv]
  case w1c =>
    have bound : (BitVec.ofNat 64 (getFld f.fld old) &&& ~~~BitVec.ofNat 64 (getFld f.fld v)).toNat < 2 ^ f.fld.len := by
      rw [BitVec.toNat_and]
      exact Nat.lt_of_le_of_lt Nat.and_le_left (Nat.lt_of_le_of_lt (small _) ho)
    simp only [Nat.mod_eq_of_lt bound, BitVec.ofNat_toNat, BitVec.setWidth_eq]
  case w1s =>
    have bound : (BitVec.ofNat 64 (getFld f.fld old) ||| BitVec.ofNat 64 (getFld f.fld v)).toNat < 2 ^ f.fld.len := by
      rw [BitVec.toNat_or]
      exact Nat.or_lt_two_pow (Nat.lt_of_le_of_lt (small _) ho) (Nat.lt_of_le_of_lt (small _) hv)
    simp only [Nat.mod_eq_of_lt bound, BitVec.ofNat_toNat, BitVec.setWidth_eq]

/-- A write that changes nothing where it reaches the device changes nothing at all. -/
theorem exec_registerWrite_same {s : State} {off width : Nat} {v : Word64} (h : s.hostWrite off width v = s) :
    exec (.registerWrite off width v) s = .next s := by
  rw [exec_registerWrite, execRegisterWrite, hostAct, h, ite_self]

theorem State.hostWrite_unaligned (s : State) {off width : Nat} (v : Word64) (h32 : width ≠ 32 ∨ off % 4 ≠ 0)
    (h64 : width ≠ 64 ∨ off % 8 ≠ 0) : s.hostWrite off width v = s := by
  have not32 : (width = 32 && off % 4 = 0) = false := by simpa using imp_iff_not_or.2 h32
  have not64 : (width = 64 && off % 8 = 0) = false := by simpa using imp_iff_not_or.2 h64
  simp only [State.hostWrite, not32, not64, Bool.false_eq_true, if_false]

/-- No register starts at the offset, and it is no upper half. -/
theorem State.write32_nowhere (s : State) {off : Nat} (n : Nat) (hn : regAt off = none)
    (hup : off % 8 ≠ 4 ∨ regAt (off - 4) = none ∨ ∃ d, regAt (off - 4) = some d ∧ d.wide = false) :
    s.write32 off n = s := by
  simp only [State.write32, hn]
  rcases hup with h | h | ⟨d, h, hw⟩
  · simp [h]
  · simp [h]
  · split
    next e =>
      split at e
      · rw [h] at e
        cases e
        simp [hw]
      · cases e
    next => rfl

theorem State.hostWrite_nowhere (s : State) {off : Nat} (v : Word64) (hn : regAt off = none)
    (hup : off % 8 ≠ 4 ∨ regAt (off - 4) = none ∨ ∃ d, regAt (off - 4) = some d ∧ d.wide = false) :
    s.hostWrite off 32 v = s := by
  by_cases h4 : off % 4 = 0
  · rw [State.hostWrite_32 s h4, State.write32_nowhere s _ hn hup]
  · exact State.hostWrite_unaligned s v (.inr h4) (.inl (by decide))

/-- A 32-bit write of a 32-bit register without special effects acts as the access types state. -/
theorem State.hostWrite_plain (s : State) {off : Nat} {d : RegDesc} (v : Word64) (h4 : off % 4 = 0) (hd : regAt off = some d)
    (hw : d.wide = false) (hu : s.unitWrite off d (BitVec.ofNat 64 (v.toNat % 2 ^ 32)) = none)
    (hj : s.jobWrite off d (BitVec.ofNat 64 (v.toNat % 2 ^ 32)) = none) :
    s.hostWrite off 32 v = s.plainWrite off d (BitVec.ofNat 64 (v.toNat % 2 ^ 32)) := by
  simp only [State.hostWrite_32 s h4, State.write32, hd, hw, Bool.false_eq_true, if_false, State.regWrite, hu, hj, Option.none_or]

/-- Settles O59: the fields of every register are apart, so that each reads as what its access type makes of the write. -/
theorem plainWritesFollowTheAccessTypes : Obligations.PlainWritesFollowTheAccessTypes := by
  unfold Obligations.PlainWritesFollowTheAccessTypes
  intro s off width v
  refine ⟨fun hr => ?_, fun h32 h64 => exec_registerWrite_same (State.hostWrite_unaligned s v h32 h64),
    fun hn hup => exec_registerWrite_same (State.hostWrite_nowhere s v hn hup), fun d hr h4 hd hw => ?_⟩
  · rw [exec_registerWrite, execRegisterWrite, hostAct_not hr]
  intro w hu hj
  have apart := regAt_fieldsApart hd
  refine ⟨d.written (s.reg off) w, ?_, fun f hf => ?_, fun i _ hi => getLsbD_foldl_putFld _ apart _ hi⟩
  · rw [exec_registerWrite_reaches hr, State.hostWrite_plain s v h4 hd hw hu hj, State.plainWrite]
  · dsimp only
    rw [RegDesc.written, getFld_foldl_putFld _ apart _ hf]
    exact FieldDesc.written_mod f _ _

end Sys2Proof.Machine

/-! ### The state after reset (O54, O53) -/

namespace Sys2Proof.Machine

/-- Settles O54: the queue and the memories are empty, and the register file lists what differs from the field tables. -/
theorem resetIsSound : Obligations.ResetIsSound := by
  unfold Obligations.ResetIsSound
  refine State.reset.sound_iff.2 ⟨fun c hc => absurd hc List.not_mem_nil, ?_, ?_⟩
  · simp only [State.memoriesOk, State.reset, Memory.wf_empty, Bool.and_self]
  · rw [State.registersOk]
    exact regsReset_wf Part.hl8_80_c

theorem Tab.get_foldl_set_ne {val : Nat → Word64} {key : Nat → Nat} {ns : List Nat} {k : Nat} (h : ∀ n ∈ ns, k ≠ key n)
    (t : Tab Word64) :
    Tab.get regDefault (ns.foldl (fun u n => Tab.set regDefault u (key n) (val n)) t) k = Tab.get regDefault t k := by
  induction ns generalizing t with
  | nil => rfl
  | cons n ns ih =>
    rw [List.foldl_cons, ih fun m hm => h m (List.mem_cons_of_mem n hm), Tab.get_set_ne _ _ (h n List.mem_cons_self)]

/-- A register that the part and the firmware do not set reads the reset value of its field table. -/
theorem State.reset_reg {off : Nat} (hboot : off ≠ Reg.SHD_BOOT) (hclass : off ≠ Reg.HEEL_DCLASS)
    (hhealth : off < Reg.GLB_KENNEL_HEALTH 0 ∨ Reg.GLB_KENNEL_HEALTH 32 ≤ off) : State.reset.reg off = regDefault off := by
  have outside : ∀ n ∈ List.range 32, off ≠ Reg.GLB_KENNEL_HEALTH n := by
    intro n hn
    have := List.mem_range.1 hn
    unfold Reg.GLB_KENNEL_HEALTH at *
    omega
  calc State.reset.reg off
      = Tab.get regDefault ((Tab.empty.insert Reg.SHD_BOOT 1).insert Reg.HEEL_DCLASS 1) off := Tab.get_foldl_set_ne outside _
    _ = regDefault off := by
      rw [Tab.get, Tab.find_insert_ne _ hclass, Tab.find_insert_ne _ hboot, Tab.find_empty, Option.getD_none]

/-- The blocks above the Sheepdog, but for the determinism class. -/
theorem State.reset_reg_above {off : Nat} (h : Reg.SHD_BOOT < off) (hclass : off ≠ Reg.HEEL_DCLASS) :
    State.reset.reg off = regDefault off :=
  State.reset_reg (Nat.ne_of_gt h) hclass (.inr (by unfold Reg.SHD_BOOT at h; unfold Reg.GLB_KENNEL_HEALTH; omega))

theorem State.reset_fld_above {off : Nat} (h : Reg.SHD_BOOT < off) (hclass : off ≠ Reg.HEEL_DCLASS) (f : Fld) :
    State.reset.fld off f = getFld f (regDefault off) := by
  rw [State.fld, State.reset_reg_above h hclass]

/-- Settles O53, by the reset value of each register's field table. -/
theorem resetHoldsTheSpecValues : Obligations.ResetHoldsTheSpecValues := by
  unfold Obligations.ResetHoldsTheSpecValues
  have domains : ∀ d, d < 20 → (State.reset.domainOn d = true ↔ d = 0) := by decide +kernel
  have measurements : ∀ m i, m < 8 → i < 8 → State.reset.reg (Reg.SEC_MEAS m i) = 0 := by
    intro m i hm hi
    have zero : ∀ m < 8, ∀ i < 8, regDefault (Reg.SEC_MEAS m i) = 0 := by decide +kernel
    have above : Reg.SHD_BOOT < Reg.SEC_MEAS m i := by unfold Reg.SHD_BOOT Reg.SEC_MEAS; omega
    have below : Reg.SEC_MEAS m i < Reg.HEEL_DCLASS := by unfold Reg.SEC_MEAS Reg.HEEL_DCLASS; omega
    rw [State.reset_reg_above above (Nat.ne_of_lt below), zero m hm i hi]
  have leash : ∀ ch, ch < 64 → State.reset.fld (Reg.DMA_CH_LEASH ch) Fld.DMA_CH_LEASH_SHARE = 256 := by
    intro ch hch
    have share : ∀ ch < 64, getFld Fld.DMA_CH_LEASH_SHARE (regDefault (Reg.DMA_CH_LEASH ch)) = 256 := by decide +kernel
    have above : Reg.SHD_BOOT < Reg.DMA_CH_LEASH ch := by unfold Reg.SHD_BOOT Reg.DMA_CH_LEASH; omega
    have below : Reg.DMA_CH_LEASH ch < Reg.HEEL_DCLASS := by unfold Reg.DMA_CH_LEASH Reg.HEEL_DCLASS; omega
    rw [State.reset_fld_above above (Nat.ne_of_lt below), share ch hch]
  refine ⟨rfl, by decide +kernel, rfl, domains, rfl, rfl, rfl, rfl, rfl, rfl, rfl, rfl, rfl, rfl, measurements,
    fun off hboot hclass hhealth => State.reset_reg hboot hclass hhealth, ?_, ?_, ?_, ?_, ?_, ?_, leash⟩
  all_goals
    rw [State.reset_fld_above (by decide) (by decide)]
    decide +kernel

end Sys2Proof.Machine

/-! ### Ports, shapers and the two reads (O35) -/

namespace Sys2Proof.Machine

/-- The first PTP message that waits at a sub-port leaves before any frame. -/
theorem State.transmit_ptp {s : State} {p sub : Nat} {m : PtpMessage} {rest : List PtpMessage}
    (h : (s.ptpPort (ptpKey p sub)).queue = m :: rest) : s.transmit p sub = s.sendPtp p sub m rest := by
  simp only [State.transmit, h]

theorem State.transmit_classes {s : State} {p sub : Nat} (h : (s.ptpPort (ptpKey p sub)).queue = []) :
    s.transmit p sub = s.transmitFrom p sub [7, 6, 5, 4, 3, 2, 1, 0] := by
  simp only [State.transmit, h]

theorem exec_frameTransmit_linked {s : State} {port : Fin 5} {sub : Fin 4} (hl : s.live = true) (hu : s.linkUp port sub = true) :
    exec (.frameTransmit port sub) s = .next (s.transmit port sub) := by
  rw [exec_frameTransmit, execFrameTransmit, act_live hl, if_pos hu]

theorem exec_frameTransmit_unlinked {s : State} {port : Fin 5} {sub : Fin 4} (hl : s.live = true)
    (hu : s.linkUp port sub = false) : exec (.frameTransmit port sub) s = .next s := by
  rw [exec_frameTransmit, execFrameTransmit, act_live hl, hu, if_neg Bool.false_ne_true]

/-- PLT_PORT_CFG with SPLIT and PAYLOAD as a write leaves them: on an enabled port, and by the reserved value 3, unchanged. -/
def State.portLayout (s : State) (p : Nat) (v : Word64) : State :=
  let split := getFld Fld.PLT_PORT_CFG_SPLIT v
  let payload := getFld Fld.PLT_PORT_CFG_PAYLOAD v
  let t := if s.portEnabled p = true ∨ split = 3 then s else s.setFld (Reg.PLT_PORT_CFG p) Fld.PLT_PORT_CFG_SPLIT split
  if s.portEnabled p = true ∨ payload = 3 then t else t.setFld (Reg.PLT_PORT_CFG p) Fld.PLT_PORT_CFG_PAYLOAD payload

theorem State.portCfgWrite_enable {s : State} {p : Nat} {v : Word64} (h : getFld Fld.PLT_PORT_CFG_ENABLE v = 1) :
    s.portCfgWrite p v = ((s.portLayout p v).setBit (Reg.PLT_PORT_CFG p) Fld.PLT_PORT_CFG_ENABLE true).settleDomains := by
  simp only [State.portCfgWrite, State.portLayout, h, Bool.or_eq_true, decide_eq_true_eq, decide_true, if_true]

theorem State.portCfgWrite_disable {s : State} {p : Nat} {v : Word64} (h : getFld Fld.PLT_PORT_CFG_ENABLE v ≠ 1) :
    s.portCfgWrite p v = (((s.portLayout p v).setBit (Reg.PLT_PORT_CFG p) Fld.PLT_PORT_CFG_ENABLE false).setFld
      (Reg.PLT_PORT_STATUS p) Fld.PLT_PORT_STATUS_LINK 0).settleDomains := by
  simp only [State.portCfgWrite, State.portLayout, h, Bool.or_eq_true, decide_eq_true_eq, decide_false, if_false]

/-- Settles O35: on a device that is live, or where the access reaches it, each row is its meaning. -/
theorem portsShapersAndTimeReadsComplete : Obligations.PortsShapersAndTimeReadsComplete := by
  unfold Obligations.PortsShapersAndTimeReadsComplete
  intro s port sub cls v
  refine ⟨fun hl => ⟨fun hu => ⟨fun m rest hq => ?_, fun hq => ?_⟩, exec_frameTransmit_unlinked hl, ?_, fun up => ?_⟩,
    fun hr => ⟨fun en => ?_, fun en => ?_⟩, fun hr => ?_, fun hr => ?_, fun hr => ?_, fun hr => ?_⟩
  · rw [exec_frameTransmit_linked hl hu, State.transmit_ptp hq]
  · rw [exec_frameTransmit_linked hl hu, State.transmit_classes hq]
  · rw [exec_gateEntryChange, execGateEntryChange, act_live hl]
  · rw [exec_linkStateChange, execLinkStateChange, act_live hl]
    simp only [Bool.and_assoc]
  · rw [exec_pltPortCfgWrite, execPltPortCfgWrite, hostAct_reaches hr, State.portCfgWrite_enable en, State.portLayout]
  · rw [exec_pltPortCfgWrite, execPltPortCfgWrite, hostAct_reaches hr, State.portCfgWrite_disable en, State.portLayout]
  · rw [exec_shaperRateWrite, execShaperRateWrite, hostAct_reaches hr, State.shaperRateWrite]
  · rw [exec_shaperBurstWrite, execShaperBurstWrite, hostAct_reaches hr, State.shaperBurstWrite]
  · rw [exec_pltTimeNsRead, execPltTimeNsRead, hostAct_reaches hr, State.timeNsRead]
  · rw [exec_pltMissqRead, execPltMissqRead, hostAct_reaches hr, State.missqRead]

end Sys2Proof.Machine

/-! ### A device out of service (O57) -/

namespace Sys2Proof.Machine

/-- Every row of a management command, from one source. -/
def mgmtCommands (src : MgmtSource) : List Instr :=
  [.secAttest src, .secKeyImport src, .secKeyDestroy src, .secHedgeOwner src, .secAnchorSet src, .secCertRead src, .blkNsCreate src,
    .blkNsDelete src, .blkKeyRotate src, .blkKeySweep src, .blkKeyDestroy src, .shdFwStage src, .shdFwActivate src, .shdReset src,
    .shdFallbackExit src, .pwrSetCap src, .pwrSetPlanMax src, .shdFeature src, .shdDiag src]

/-- What a device out of service still acts on: further faults, resets and, with H-die 0 unharmed, the management port. -/
inductive ActsOutOfService (s : State) : Instr → Prop where
  | dieFault (die : Fin 6) : ActsOutOfService s (.dieFault die)
  | powerOnReset : ActsOutOfService s .powerOnReset
  | warmReset : ActsOutOfService s .warmReset
  | resetPinRise (por : Bool) (straps : BitVec 8) : ActsOutOfService s (.resetPinRise por straps)
  | handshake (h0 : dieH0 ∉ s.outOfService) (chain : Bytes) : ActsOutOfService s (.mgmtTlsHandshake chain)
  | management (h0 : dieH0 ∉ s.outOfService) (envelope : Bytes) {c : Instr} (hc : c ∈ mgmtCommands (.network envelope)) :
    ActsOutOfService s c

/-- No next state but the state itself. -/
def Silent (s : State) (o : Host.Outcome State Fault Refusal) : Prop := ∀ t, o = .next t → t = s

theorem silent_self {s : State} : Silent s (.next s) := by
  rintro t ⟨⟩
  rfl

theorem silent_faultOr {s : State} {c : Prop} [Decidable c] {f : Fault} {o : Host.Outcome State Fault Refusal} (h : Silent s o) :
    Silent s (if c then .fault f else o) := by
  split
  · rintro t ⟨⟩
  · exact h

theorem State.live_eq_false {s : State} (h : s.outOfService ≠ []) : s.live = false := by
  rwa [State.live, List.isEmpty_eq_false_iff]

section
variable {s : State} (h : s.outOfService ≠ [])
include h

/-! The shapes of a row. -/

theorem act_silent (f : State → State) : Silent s (act f s) := by
  rw [act_not_live (State.live_eq_false h)]
  exact silent_self

theorem State.hostReaches_eq_false (off : Nat) : s.hostReaches off = false := by
  rw [State.hostReaches, State.live_eq_false h, Bool.false_and, Bool.false_and]

theorem hostAct_silent (off : Nat) (f : State → State) : Silent s (hostAct off f s) := by
  rw [hostAct_not (State.hostReaches_eq_false h off)]
  exact silent_self

theorem jobAct_silent (f : State → State) : Silent s (jobAct f s) := act_silent h _

theorem jobCommand_silent (slot : Fin 64) (f : State → State) : Silent s (jobCommand slot f s) := hostAct_silent h _ _

theorem loadGoRow_silent (op : Nat) (hedge : Fin 16) : Silent s (loadGoRow op hedge s) := hostAct_silent h _ _

theorem trsGoRow_silent (set : Fin 256) (op : Nat) : Silent s (trsGoRow set op s) := hostAct_silent h _ _

theorem engineRow_silent (r : ItemRef) (kind : Nat) (f : State → Image → Stage → Item → State) : Silent s (engineRow r kind f s) :=
  jobAct_silent h _

theorem pltRow_silent (port : Fin 5) (sub : Fin 4) (op : Nat) (frame : Bytes) : Silent s (pltRow port sub op frame s) :=
  jobAct_silent h _

theorem heelRow_silent (kind : Nat) (frame : HeelFrame) (f : Bytes → State → State) : Silent s (heelRow kind frame f s) :=
  jobAct_silent h _

theorem returnRow_silent (slot : Fin 64) (kind : Nat) (msg : Bytes) (f : MaskStage → State → State) :
    Silent s (returnRow slot kind msg f s) := act_silent h _

theorem fleetTake_silent (kind : Nat) (msg : Bytes) (f : FleetMsg → State → State) : Silent s (fleetTake kind msg f s) :=
  act_silent h _

theorem fleetFrom_silent (kind source : Nat) (msg : Bytes) (f : Nat → FleetMsg → State → State) :
    Silent s (fleetFrom kind source msg f s) := fleetTake_silent h _ _ _

/-! Rows of the core instructions: a core that the part does not have is a fault, which leaves no next state. -/

section
variable (core : Nat) (f : Fields)

theorem coreRow_silent (retry : Blocked) (legal scalar : Bool) (body : Core → State → State) :
    Silent s (coreRow core f retry legal scalar body s) := silent_faultOr (act_silent h _)

theorem registerRow_silent (legal scalar : Bool) (g : Core → Core) : Silent s (registerRow core f legal scalar g s) :=
  coreRow_silent h core f _ _ _ _

theorem scalarRow_silent (legal : Bool) (val : Core → BitVec 64) : Silent s (scalarRow core f legal val s) :=
  registerRow_silent h core f _ _ _

theorem binaryRow_silent (op : BitVec 64 → BitVec 64 → BitVec 64) : Silent s (binaryRow core f op s) :=
  scalarRow_silent h core f _ _

theorem elementRow_silent (legal : Bool) (b : Nat) (op : Core → Nat → Nat × FpFlags) : Silent s (elementRow core f legal b op s) :=
  registerRow_silent h core f _ _ _

theorem arithRow_silent (fp : Format → Nat → Nat → Nat × FpFlags) (int : Int → Int → Int) : Silent s (arithRow core f fp int s) :=
  elementRow_silent h core f _ _ _

theorem accessRow_silent (legal : Bool) (n : Nat) (write : Bool) (go : Core → Nat → State → State) :
    Silent s (accessRow core f legal n write go s) := coreRow_silent h core f _ _ _ _

theorem wideAccessRow_silent (write : Bool) (go : Core → Nat → State → State) : Silent s (wideAccessRow core f write go s) := by
  unfold wideAccessRow
  exact coreRow_silent h core f _ _ _ _

end

/-! Management commands. -/

/-- H-die 0 at fault: the management port is silent too. -/
theorem State.sheepServes_network (h0 : dieH0 ∈ s.outOfService) : s.sheepServes false = false := by
  rw [State.sheepServes, State.live_eq_false h, List.contains_iff_mem.2 h0]
  rfl

theorem State.mgmtBytes_mailbox : s.mgmtBytes .mailbox = none := by
  rw [State.mgmtBytes, State.hostReaches_eq_false h]
  rfl

theorem State.mgmtBytes_network (h0 : dieH0 ∈ s.outOfService) (b : Bytes) : s.mgmtBytes (.network b) = none := by
  rw [State.mgmtBytes, State.sheepServes_network h h0]
  rfl

omit h in
theorem mgmtRow_silent {src : MgmtSource} (hb : s.mgmtBytes src = none) (code : Nat) (body : Envelope → State → Answer) :
    Silent s (mgmtRow src code body s) := by
  rw [mgmtRow, hb]
  exact silent_self

/-- A management row is silent, unless its envelope comes from the network and H-die 0 is unharmed. -/
theorem mgmtRow_outOfService {c : Instr} {src : MgmtSource} (hc : c ∈ mgmtCommands src) (code : Nat)
    (body : Envelope → State → Answer) : Silent s (mgmtRow src code body s) ∨ ActsOutOfService s c := by
  cases src with
  | mailbox => exact .inl (mgmtRow_silent (State.mgmtBytes_mailbox h) code body)
  | network b =>
    by_cases h0 : dieH0 ∈ s.outOfService
    · exact .inl (mgmtRow_silent (State.mgmtBytes_network h h0 b) code body)
    · exact .inr (.management h0 b hc)

theorem mgmtTlsHandshake_outOfService (chain : Bytes) :
    Silent s (execMgmtTlsHandshake chain s) ∨ ActsOutOfService s (.mgmtTlsHandshake chain) := by
  by_cases h0 : dieH0 ∈ s.outOfService
  · left
    rw [execMgmtTlsHandshake, State.sheepServes_network h h0]
    exact silent_self
  · exact .inr (.handshake h0 chain)

/-- Every command is silent, or one of those that act on a device out of service. -/
theorem exec_outOfService (c : Instr) : Silent s (exec c s) ∨ ActsOutOfService s c := by
  cases c
  all_goals dsimp only [exec]
  -- Faults, resets and the management port
  case dieFault die => exact .inr (.dieFault die)
  case powerOnReset => exact .inr .powerOnReset
  case warmReset => exact .inr .warmReset
  case resetPinRise por straps => exact .inr (.resetPinRise por straps)
  case mgmtTlsHandshake chain => exact mgmtTlsHandshake_outOfService h chain
  case secAttest | secKeyImport | secKeyDestroy | secHedgeOwner | secAnchorSet | secCertRead | blkNsCreate | blkNsDelete |
      blkKeyRotate | blkKeySweep | blkKeyDestroy | shdFwStage | shdFwActivate | shdReset | shdFallbackExit | pwrSetCap |
      pwrSetPlanMax | shdFeature | shdDiag =>
    exact mgmtRow_outOfService h (by simp [mgmtCommands]) _ _
  all_goals left
  -- Host accesses
  case registerWrite | pltTimeNsRead | pltMissqRead | poolMinFreeRead | chkRunningRead | pbqDepthWrite | heelCtrlWrite |
      heelLinkselWrite | pltPortCfgWrite | shaperRateWrite | shaperBurstWrite | dmaGo | dmaAbort | dmaHold | dmaRelease |
      chkEnable | chkDisable | chkPause | chkResume | chkHold | chkRelease | chkConfigWrite | chkStateWrite | briGo | briAbort |
      briHold | briRelease | controllerReset | healthSnapshot | fleetEnable | fltConfigWrite =>
    exact hostAct_silent h _ _
  case wholeDeviceLoad | perHedgeLoad | unload | reservedLoadOp => exact loadGoRow_silent h _ _
  case accept | start | stop | abort | clear => exact jobCommand_silent h _ _
  case trsRead | trsWrite | trsWriteAtomic | trsFlush | trsTrim | trsVerify | trsFormat => exact trsGoRow_silent h _ _
  -- Instructions of the kennel cores
  case add | sub | and | or | xor | shl | shr | sra | mul => exact binaryRow_silent h _ _ _
  case addi => exact scalarRow_silent h _ _ _ _
  case div | cmp | cww | wcmp | wredu | wins | wext | mbpoll | halt => exact registerRow_silent h _ _ _ _ _
  case ld | st => exact accessRow_silent h _ _ _ _ _ _
  case wld | wst => exact wideAccessRow_silent h _ _ _ _
  case wadd | wsub | wmul => exact arithRow_silent h _ _ _ _
  case wfma | wdot | wsel | wshuf | wcvt | wmax | wmin | wbcast => exact elementRow_silent h _ _ _ _ _
  case br | call | jr | cwr | wreduU | sin | sout | sdone | oalloc | mbsend | mbrecv | kgive | get | put | wait | fence | ovl | rdtime =>
    exact coreRow_silent h _ _ _ _ _ _
  -- Events at a core or engine, which the part may not have
  case sampleDispatch | mailboxDeliver | tagComplete | exBudget => exact silent_faultOr (act_silent h _)
  case engineFault => exact silent_faultOr (jobAct_silent h _)
  -- Samples, batches and messages
  case cryptStage | decompressStage | digestStage | imageDecode | videoDecode | regionWaitExpiry | resample | tokenize |
      compressStage =>
    exact engineRow_silent h _ _ _
  case drainComplete | modelPackageLoad | positionAssign | indexTableRead | sampleReadDone | deadlineExpiry | storeRecord |
      heelSetupTimeout | heelDigestTimeout | invalidFrame | contextFetchDone | messageGiveUp | deliveryRetryTimer =>
    exact jobAct_silent h _
  case returnOpen | returnTokens | returnClose => exact returnRow_silent h _ _ _ _
  case heelSetup | heelBatchDigest | heelStageDigest | heelFreeze | heelLocateRequest | heelLocateAnswer | heelReport =>
    exact heelRow_silent h _ _ _
  case pltWrite | pltWriteImm | pltReadReq | pltReadResp | pltAtomicAdd | pltAtomicCas | pltAck | pltNak | pltCredit =>
    exact pltRow_silent h _ _ _ _
  case join | roster => exact fleetTake_silent h _ _ _
  case heartbeat | hbAck | arrive | arriveAck | commit | mirror | mirrorAck | move | fetch | records | takeover | takeoverAck |
      resolve =>
    exact fleetFrom_silent h _ _ _ _
  -- Every other event acts on a device in service only
  all_goals exact act_silent h _

end

/-- Settles O57: each command's row is silent by its shape, or is one of those that still act. -/
theorem devicesOutOfServiceStaySilent : Obligations.DevicesOutOfServiceStaySilent := by
  unfold Obligations.DevicesOutOfServiceStaySilent
  intro s t c hs e
  rcases exec_outOfService hs c with silent | acts
  · exact .inl (silent t e)
  · right
    cases acts with
    | dieFault die => exact .inl ⟨die, rfl⟩
    | powerOnReset => exact .inr (.inl rfl)
    | warmReset => exact .inr (.inr (.inl rfl))
    | resetPinRise por straps => exact .inr (.inr (.inr (.inl ⟨por, straps, rfl⟩)))
    | handshake h0 chain => exact .inr (.inr (.inr (.inr ⟨h0, .inl ⟨chain, rfl⟩⟩)))
    | management h0 b hc => exact .inr (.inr (.inr (.inr ⟨h0, .inr ⟨b, hc⟩⟩)))

end Sys2Proof.Machine

/-! ### Exceptions, restarts and retirement (O17) -/

namespace Sys2Proof.Machine

theorem exec_exBudget_exhausted {s : State} {core : Nat} (hl : s.live = true) (hc : s.hasCore core = true)
    (hr : s.coreRuns core = true) (hx : s.exhausted core = true) :
    exec (.exBudget core) s = .next (s.exception core EX_BUDGET) := by
  rw [exec_exBudget, execExBudget, hc, if_neg (by decide), act_live hl, hr, hx, if_pos (by decide)]

theorem exec_exBudget_otherwise {s : State} {core : Nat} (hl : s.live = true) (hc : s.hasCore core = true)
    (h : s.coreRuns core = false ∨ s.exhausted core = false) : exec (.exBudget core) s = .next s := by
  have hn : ¬ (s.coreRuns core && s.exhausted core) = true := by simpa [or_iff_not_imp_left] using h
  rw [exec_exBudget, execExBudget, hc, if_neg (by decide), act_live hl, if_neg hn]

/-- A group that waits for its restart: samples cancelled first, then the cores, then the kennels. -/
theorem State.groupRestart_waiting {s : State} {h st g : Nat} (hw : (h, st, g) ∈ s.restarting) :
    s.groupRestart h st g = (s.groupKennels h st g).foldl State.restartKennel
      (((s.groupKennels h st g).flatMap coresOf).foldl State.restartCore
        { s.cancelCores ((s.groupKennels h st g).flatMap coresOf) with restarting := s.restarting.erase (h, st, g) }) := by
  rw [State.groupRestart, List.contains_iff_mem.2 hw, if_neg (by decide)]

/-- A group that waits for a reload takes the first healthy kennels of its stage's reserve where there are enough. -/
theorem State.reloadDone_enough {s : State} {h st g : Nat} {im : Image} {stage : Stage} (hw : (h, st, g) ∈ s.reloading)
    (hb : s.boundStage ⟨h, st, g, 0⟩ = some (im, stage))
    (hn : stage.group ≤ ((assocList im.reserve st).filter s.kennelOk).length) :
    let ks := ((assocList im.reserve st).filter s.kennelOk).take stage.group
    s.reloadDone h st g =
      (ks.zipIdx.foldl (fun (t : State) (x : Nat × Nat) => t.loadKennel im h stage x.1 g x.2)
        { s with reloading := s.reloading.erase (h, st, g) }).adjustImage h fun im =>
          { im with bound := setAssoc im.bound st (assocList im.bound st ++ ks)
                    reserve := setAssoc im.reserve st ((assocList im.reserve st).filter fun k => !ks.contains k) } := by
  intro ks
  rw [State.reloadDone, List.contains_iff_mem.2 hw, if_neg (by decide), hb]
  exact if_neg (Nat.not_lt.2 hn)

/-- The state in which a channel is listed as hung. -/
def State.noteHung (s : State) (a b : Nat) : State :=
  { s with hung := if s.hung.contains (a, b) then s.hung else s.hung ++ [(a, b)] }

theorem State.channelHung_hubs {s : State} {a b : Nat} (ha : 1000 ≤ a) (hb : 1000 ≤ b) :
    s.channelHung a b = (s.noteHung a b).takeOut (islandDie b) := by
  simp [State.channelHung, State.noteHung, ha, hb]

/-- Where an end is a kennel's, each kennel at an end is retired, the sending end's first. -/
theorem State.channelHung_kennels {s : State} {a b : Nat} (h : a < 1000 ∨ b < 1000) :
    s.channelHung a b =
      let t := if a < 1000 then (s.noteHung a b).retireKennel a else s.noteHung a b
      if b < 1000 then t.retireKennel b else t := by
  have hn : ¬ (decide (1000 ≤ a) && decide (1000 ≤ b)) = true := by
    simp only [Bool.and_eq_true, decide_eq_true_eq]
    omega
  rw [State.channelHung, if_neg hn, State.noteHung]

theorem exec_channelHung_live {s : State} (hl : s.live = true) (a b : Fin 1090) :
    exec (.channelHung a b) s = .next (s.channelHung a b) := by
  rw [exec_channelHung, execChannelHung, act_live hl]

theorem exec_engineFault_present {s : State} {cls e : Nat} (hl : s.live = true) (he : e < engineCount cls) :
    exec (.engineFault cls e) s = .next (s.retireEngine cls e).heelSettle := by
  rw [exec_engineFault, execEngineFault, if_neg (Nat.not_le.2 he), jobAct, act_live hl]

theorem exec_engineFault_absent {s : State} {cls e : Nat} (he : engineCount cls ≤ e) :
    exec (.engineFault cls e) s = .fault .noSuchUnit := by
  rw [exec_engineFault, execEngineFault, if_pos he]

/-- Settles O17: on a device in service each row is its meaning, by the branch that the state and the operands choose. -/
theorem exceptionsRestartsAndRetirement : Obligations.ExceptionsRestartsAndRetirement := by
  unfold Obligations.ExceptionsRestartsAndRetirement
  intro s hl
  refine ⟨fun core hc => ⟨exec_exBudget_exhausted hl hc, exec_exBudget_otherwise hl hc⟩, fun h st g hw => ?_,
    fun h st g im stage hw hb => ?_, fun a b => ⟨fun ha hb => ?_, fun ha hb => ?_, fun ha hb => ?_, fun ha hb => ?_⟩,
    fun cls e => ⟨exec_engineFault_present hl, exec_engineFault_absent⟩, fun die => ?_, fun i => ⟨?_, ?_⟩⟩
  · rw [exec_groupRestart, execGroupRestart, act_live hl, State.groupRestart_waiting hw]
  · intro spare ks hn
    rw [exec_reserveReloadDone, execReserveReloadDone, act_live hl, State.reloadDone_enough hw hb hn]
  · rw [exec_channelHung_live hl, State.channelHung_hubs ha hb]
    rfl
  · rw [exec_channelHung_live hl, State.channelHung_kennels (.inl ha), if_pos ha, if_neg (Nat.not_lt.2 hb)]
    rfl
  · rw [exec_channelHung_live hl, State.channelHung_kennels (.inr hb), if_neg (Nat.not_lt.2 ha), if_pos hb]
    rfl
  · rw [exec_channelHung_live hl, State.channelHung_kennels (.inl ha), if_pos ha, if_pos hb]
    rfl
  · rw [exec_dieFault, execDieFault, State.takeOut]
  · rw [exec_islandDroopDetect, execIslandDroopDetect, act_live hl]
  · rw [exec_stretchStepDown, execStretchStepDown, act_live hl]

end Sys2Proof.Machine

/-! ### Loads that fail (O19) -/

namespace Sys2Proof.Machine

/-! A load that ends with an error: each loader register as it stands then, and what else the end of it touches. -/

/-- ENL_LOAD_STATUS at the end of a load that fails: BUSY falls, DONE and ERR are set, CODE is the error's. -/
def failedLoadStatus (v : Word64) (e : LoadError) : Word64 :=
  putFld Fld.ENL_LOAD_STATUS_CODE (putFld Fld.ENL_LOAD_STATUS_ERR (putFld Fld.ENL_LOAD_STATUS_DONE
    (putFld Fld.ENL_LOAD_STATUS_BUSY v 0) 1) 1) e.code

/-- ENL_LOAD_ERR_RES at the end of a load that fails. -/
def failedLoadRes (v : Word64) (e : LoadError) : Word64 :=
  putFld Fld.ENL_LOAD_ERR_RES_OWNER (putFld Fld.ENL_LOAD_ERR_RES_RTYPE (putFld Fld.ENL_LOAD_ERR_RES_SECTION v e.sect) e.rtype) e.owner

theorem State.reg_loadEnd_some (s : State) (e : LoadError) (off : Nat) :
    (s.loadEnd (some e)).reg off =
      if off = Reg.ENL_LOAD_STATUS then failedLoadStatus (s.reg off) e
      else if off = Reg.ENL_LOAD_ERR_RES then failedLoadRes (s.reg off) e
      else if off = Reg.ENL_LOAD_ERR_INDEX then putFld Fld.ENL_LOAD_ERR_INDEX_INDEX (s.reg off) e.index
      else s.reg off := by
  have raised : ∀ (t : State) v, (t.raise v).reg off = t.reg off := fun _ _ => rfl
  have ended : State.reg { s with loadOp := none } = s.reg := rfl
  have res_ne_status : Reg.ENL_LOAD_ERR_RES ≠ Reg.ENL_LOAD_STATUS := by decide
  have index_ne_status : Reg.ENL_LOAD_ERR_INDEX ≠ Reg.ENL_LOAD_STATUS := by decide
  have index_ne_res : Reg.ENL_LOAD_ERR_INDEX ≠ Reg.ENL_LOAD_ERR_RES := by decide
  simp only [State.loadEnd, raised, State.setBit, State.reg_setFld, ended, failedLoadStatus, failedLoadRes]
  by_cases hs : off = Reg.ENL_LOAD_STATUS
  · subst hs
    simp [res_ne_status.symm, index_ne_status.symm]
  · by_cases hr : off = Reg.ENL_LOAD_ERR_RES
    · subst hr
      simp [res_ne_status, index_ne_res.symm]
    · by_cases hi : off = Reg.ENL_LOAD_ERR_INDEX
      · subst hi
        simp [index_ne_status, index_ne_res]
      · simp [hs, hr, hi]

/-- A state that differs from another in its register file at most. -/
def State.SameButRegs (s t : State) : Prop := ∃ r, t = { s with regs := r }

theorem State.SameButRegs.refl (s : State) : s.SameButRegs s := ⟨s.regs, rfl⟩

theorem State.SameButRegs.setFld {s t : State} (h : s.SameButRegs t) (off : Nat) (f : Fld) (x : Nat) :
    s.SameButRegs (t.setFld off f x) := by
  obtain ⟨r, rfl⟩ := h
  exact ⟨_, rfl⟩

theorem State.SameButRegs.setBit {s t : State} (h : s.SameButRegs t) (off : Nat) (f : Fld) (b : Bool) :
    s.SameButRegs (t.setBit off f b) := h.setFld off f _

/-- Beside the registers, a load that fails touches the operation itself and vector 1. -/
theorem State.loadEnd_some_frame (s : State) (e : LoadError) :
    s.loadEnd (some e) = { s with
      regs := (s.loadEnd (some e)).regs, loadOp := none
      board := { s.board with irq := s.board.irq.insert 1 (((s.board.irq.find 1).getD 0) + 1) } } := by
  obtain ⟨t, ht, he⟩ : ∃ t, State.SameButRegs { s with loadOp := none } t ∧ s.loadEnd (some e) = t.raise 1 := by
    refine ⟨_, ?_, rfl⟩
    iterate 5 refine State.SameButRegs.setFld ?_ _ _ _
    iterate 3 refine State.SameButRegs.setBit ?_ _ _ _
    exact .refl _
  obtain ⟨r, rfl⟩ := ht
  rw [he]
  rfl

/-- The fields of ENL_LOAD_STATUS after a load that fails; HEDGE stays. -/
theorem failedLoadStatus_fields (v : Word64) (e : LoadError) :
    getFld Fld.ENL_LOAD_STATUS_BUSY (failedLoadStatus v e) = 0 ∧ getFld Fld.ENL_LOAD_STATUS_DONE (failedLoadStatus v e) = 1 ∧
    getFld Fld.ENL_LOAD_STATUS_ERR (failedLoadStatus v e) = 1 ∧
    getFld Fld.ENL_LOAD_STATUS_CODE (failedLoadStatus v e) = e.code % 2 ^ Fld.ENL_LOAD_STATUS_CODE.len ∧
    getFld Fld.ENL_LOAD_STATUS_HEDGE (failedLoadStatus v e) = getFld Fld.ENL_LOAD_STATUS_HEDGE v := by
  unfold failedLoadStatus
  refine ⟨?_, ?_, ?_, getFld_putFld_self _ (by decide) _ _, ?_⟩
  · rw [getFld_putFld_other _ _ (by decide) (by decide), getFld_putFld_other _ _ (by decide) (by decide),
      getFld_putFld_other _ _ (by decide) (by decide), getFld_putFld_self _ (by decide)]
    rfl
  · rw [getFld_putFld_other _ _ (by decide) (by decide), getFld_putFld_other _ _ (by decide) (by decide),
      getFld_putFld_self _ (by decide)]
    rfl
  · rw [getFld_putFld_other _ _ (by decide) (by decide), getFld_putFld_self _ (by decide)]
    rfl
  · rw [getFld_putFld_other _ _ (by decide) (by decide), getFld_putFld_other _ _ (by decide) (by decide),
      getFld_putFld_other _ _ (by decide) (by decide), getFld_putFld_other _ _ (by decide) (by decide)]

/-- The fields of ENL_LOAD_ERR_RES after a load that fails. -/
theorem failedLoadRes_fields (v : Word64) (e : LoadError) :
    getFld Fld.ENL_LOAD_ERR_RES_SECTION (failedLoadRes v e) = e.sect % 2 ^ Fld.ENL_LOAD_ERR_RES_SECTION.len ∧
    getFld Fld.ENL_LOAD_ERR_RES_RTYPE (failedLoadRes v e) = e.rtype % 2 ^ Fld.ENL_LOAD_ERR_RES_RTYPE.len ∧
    getFld Fld.ENL_LOAD_ERR_RES_OWNER (failedLoadRes v e) = e.owner % 2 ^ Fld.ENL_LOAD_ERR_RES_OWNER.len := by
  unfold failedLoadRes
  refine ⟨?_, ?_, getFld_putFld_self _ (by decide) _ _⟩
  · rw [getFld_putFld_other _ _ (by decide) (by decide), getFld_putFld_other _ _ (by decide) (by decide),
      getFld_putFld_self _ (by decide)]
  · rw [getFld_putFld_other _ _ (by decide) (by decide), getFld_putFld_self _ (by decide)]

theorem exec_loadComplete_load {s : State} {o : LoadOp} (hl : s.live = true) (ho : s.loadOp = some o) (hop : o.op ≠ 2) :
    exec .loadComplete s = .next (s.loadDone o) := by
  rw [exec_loadComplete, execLoadComplete, act_live hl, ho]
  exact congrArg _ (if_pos hop)

theorem State.loadDone_fails {s : State} {o : LoadOp} {e : LoadError}
    (hc : loadCheck s o.op o.hedge o.len o.bytes = some e) : s.loadDone o = s.loadEnd (some e) := by
  rw [State.loadDone, hc]

/-- Settles O19: the end of the load is `loadEnd` with the error, whose three registers are read field by field. -/
theorem failedLoadsLeaveTheDeviceAsItWas : Obligations.FailedLoadsLeaveTheDeviceAsItWas := by
  unfold Obligations.FailedLoadsLeaveTheDeviceAsItWas
  intro s t o e hl ho hop hc ht
  rw [exec_loadComplete_load hl ho hop, State.loadDone_fails hc] at ht
  injection ht with ht
  subst ht
  have status : (s.loadEnd (some e)).reg Reg.ENL_LOAD_STATUS = failedLoadStatus (s.reg Reg.ENL_LOAD_STATUS) e := by
    rw [State.reg_loadEnd_some, if_pos rfl]
  have res : (s.loadEnd (some e)).reg Reg.ENL_LOAD_ERR_RES = failedLoadRes (s.reg Reg.ENL_LOAD_ERR_RES) e := by
    rw [State.reg_loadEnd_some, if_neg (by decide), if_pos rfl]
  have index : (s.loadEnd (some e)).reg Reg.ENL_LOAD_ERR_INDEX =
      putFld Fld.ENL_LOAD_ERR_INDEX_INDEX (s.reg Reg.ENL_LOAD_ERR_INDEX) e.index := by
    rw [State.reg_loadEnd_some, if_neg (by decide), if_neg (by decide), if_pos rfl]
  obtain ⟨busy, done, err, code, hedge⟩ := failedLoadStatus_fields (s.reg Reg.ENL_LOAD_STATUS) e
  obtain ⟨sect, rtype, owner⟩ := failedLoadRes_fields (s.reg Reg.ENL_LOAD_ERR_RES) e
  simp only [State.bit, State.fld, status, res, index]
  refine ⟨by rw [busy]; rfl, by rw [done]; rfl, by rw [err]; rfl, code, hedge, sect, rtype, owner,
    getFld_putFld_self _ (by decide) _ _, fun off hs hr hi => ?_, s.loadEnd_some_frame e⟩
  rw [State.reg_loadEnd_some, if_neg hs, if_neg hr, if_neg hi]

end Sys2Proof.Machine

/-! ### Loads and unloads (O18) -/

namespace Sys2Proof.Machine

/-- ENL_LOAD_CTRL as a GO row writes it: OP and HEDGE. -/
def State.loadCtrl (s : State) (op h : Nat) : State :=
  (s.setFld Reg.ENL_LOAD_CTRL Fld.ENL_LOAD_CTRL_OP op).setFld Reg.ENL_LOAD_CTRL Fld.ENL_LOAD_CTRL_HEDGE h

theorem State.reg_loadCtrl (s : State) (op h : Nat) {off : Nat} (hne : off ≠ Reg.ENL_LOAD_CTRL) :
    (s.loadCtrl op h).reg off = s.reg off := by
  rw [State.loadCtrl, State.reg_setFld_ne _ hne, State.reg_setFld_ne _ hne]

theorem State.loading_loadCtrl (s : State) (op h : Nat) : (s.loadCtrl op h).loading = s.loading := by
  rw [State.loading, State.bit, State.fld, State.reg_loadCtrl s op h (by decide)]
  rfl

/-- The loader's registers as a GO clears them: HEDGE of the status is the operation's, the error registers are reset. -/
def State.loadClear (s : State) (h : Nat) : State :=
  ((s.setFld Reg.ENL_LOAD_STATUS Fld.ENL_LOAD_STATUS_HEDGE h).clearReg Reg.ENL_LOAD_ERR_RES).clearReg Reg.ENL_LOAD_ERR_INDEX

/-- The image that a GO copies. -/
def State.loadImage (s : State) : Bytes :=
  s.readMem .host (s.reg Reg.ENL_LOAD_ADDR).toNat
    (if (s.reg Reg.ENL_LOAD_LEN).toNat ≤ 2 ^ 30 then (s.reg Reg.ENL_LOAD_LEN).toNat else 64)

theorem State.loadImage_loadCtrl (s : State) (op h : Nat) : (s.loadCtrl op h).loadImage = s.loadImage := by
  rw [State.loadImage, State.reg_loadCtrl s op h (by decide), State.reg_loadCtrl s op h (by decide)]
  rfl

theorem State.loadGo_busy {s : State} (hb : s.loading = true) (op h : Nat) : s.loadGo op h = s := by
  rw [State.loadGo, if_pos hb]

theorem State.loadGo_reserved {s : State} (hb : s.loading = false) (h : Nat) :
    s.loadGo 3 h = (s.loadClear h).loadEnd (some (plainError ENL_ERR_FORMAT)) := by
  rw [State.loadGo, hb, if_neg Bool.false_ne_true, if_pos rfl, State.loadClear]

theorem State.loadGo_begins {s : State} (hb : s.loading = false) {op : Nat} (hop : op ≠ 3) (h : Nat) :
    s.loadGo op h = { s.loadClear h with
      loadOp := some ⟨op, h, (s.reg Reg.ENL_LOAD_LEN).toNat, if op = 2 then [] else s.loadImage⟩ }.setBit Reg.ENL_LOAD_STATUS
        Fld.ENL_LOAD_STATUS_BUSY true := by
  rw [State.loadGo, hb, if_neg Bool.false_ne_true, if_neg hop, State.loadClear, State.loadImage]

section
variable {s : State} (hr : s.hostReaches Reg.ENL_LOAD_CTRL = true) (h : Fin 16)
include hr

theorem loadGoRow_busy (hb : s.loading = true) (op : Nat) : loadGoRow op h s = .next (s.loadCtrl op h) := by
  rw [loadGoRow, hostAct_reaches hr]
  exact congrArg _ (State.loadGo_busy (by rw [← hb]; exact s.loading_loadCtrl op h) op h)

theorem loadGoRow_reserved (hb : s.loading = false) :
    loadGoRow 3 h s = .next (((s.loadCtrl 3 h).loadClear h).loadEnd (some (plainError ENL_ERR_FORMAT))) := by
  rw [loadGoRow, hostAct_reaches hr]
  exact congrArg _ (State.loadGo_reserved (by rw [← hb]; exact s.loading_loadCtrl 3 h) h)

theorem loadGoRow_begins (hb : s.loading = false) {op : Nat} (hop : op ≠ 3) :
    loadGoRow op h s = .next ({ (s.loadCtrl op h).loadClear h with
      loadOp := some ⟨op, h, (s.reg Reg.ENL_LOAD_LEN).toNat, if op = 2 then [] else s.loadImage⟩ }.setBit Reg.ENL_LOAD_STATUS
        Fld.ENL_LOAD_STATUS_BUSY true) := by
  have idle : (s.loadCtrl op h).loading = false := by rw [State.loading_loadCtrl, hb]
  have begun := State.loadGo_begins idle hop h
  rw [State.loadImage_loadCtrl, State.reg_loadCtrl s op h (by decide)] at begun
  rw [loadGoRow, hostAct_reaches hr]
  exact congrArg _ begun

end

theorem State.loadDone_commits {s : State} {o : LoadOp} (hc : loadCheck s o.op o.hedge o.len o.bytes = none) :
    s.loadDone o = ((s.commitImage (loadView o.bytes)).measurePartition o).loadEnd none := by
  rw [State.loadDone, hc]

theorem exec_unloadComplete_unload {s : State} {o : LoadOp} (hl : s.live = true) (ho : s.loadOp = some o) (hop : o.op = 2) :
    exec .unloadComplete s = .next (s.unloadDone o.hedge) := by
  rw [exec_unloadComplete, execUnloadComplete, act_live hl, ho]
  exact congrArg _ (if_pos hop)

theorem State.unloadDone_absent {s : State} {h : Nat} (hi : s.images.find h = none) :
    s.unloadDone h = s.loadEnd (some (plainError ENL_ERR_HEDGE)) := by
  rw [State.unloadDone, hi]

theorem State.unloadDone_busy {s : State} {h : Nat} {im : Image} (hi : s.images.find h = some im)
    (hj : ∃ n ∈ s.slotsOf h, s.jobState n = jobReady ∨ s.jobActive n = true) :
    s.unloadDone h = s.loadEnd (some (plainError ENL_ERR_BUSY)) := by
  rw [State.unloadDone, hi]
  exact if_pos (by simpa using hj)

theorem State.unloadDone_unloads {s : State} {h : Nat} {im : Image} (hi : s.images.find h = some im)
    (hj : ∀ n ∈ s.slotsOf h, s.jobState n ≠ jobReady ∧ s.jobActive n = false) :
    s.unloadDone h = (s.unloadImage h im).loadEnd none := by
  rw [State.unloadDone, hi]
  exact if_neg (by simpa using hj)

/-- Settles O18: a GO row begins its operation where none is under way, and each completion is the end of its own. -/
theorem loadAndUnloadOperations : Obligations.LoadAndUnloadOperations := by
  unfold Obligations.LoadAndUnloadOperations
  intro s h ctl go len img begin_
  refine ⟨fun hr hb => ⟨?_, ?_, ?_, ?_⟩, fun hr hb => ⟨?_, ?_, ?_, ?_⟩, fun hl o ho => ⟨fun hop => ⟨fun e hc => ?_, fun hc => ?_⟩,
    fun hop => ⟨fun hi => ?_, fun im hi => ⟨fun hj => ?_, fun hj => ?_⟩⟩⟩⟩
  · exact loadGoRow_busy hr h hb 0
  · exact loadGoRow_busy hr h hb 1
  · exact loadGoRow_busy hr h hb 2
  · exact loadGoRow_busy hr h hb 3
  · exact loadGoRow_begins hr h hb (by decide)
  · exact loadGoRow_begins hr h hb (by decide)
  · exact loadGoRow_begins hr h hb (by decide)
  · exact loadGoRow_reserved hr h hb
  · rw [exec_loadComplete_load hl ho hop, State.loadDone_fails hc]
  · rw [exec_loadComplete_load hl ho hop, State.loadDone_commits hc]
  · rw [exec_unloadComplete_unload hl ho hop, State.unloadDone_absent hi]
  · rw [exec_unloadComplete_unload hl ho hop, State.unloadDone_busy hi hj]
  · rw [exec_unloadComplete_unload hl ho hop, State.unloadDone_unloads hi hj]

end Sys2Proof.Machine

/-! ### Commands of a job slot (O20) -/

namespace Sys2Proof.Machine

/-- Where the host reaches the slot, a command acts and the Heel sessions follow. -/
theorem jobCommand_reaches {s : State} {slot : Fin 64} (hr : s.hostReaches (Reg.ENL_JOB_CTRL slot) = true) (f : State → State) :
    jobCommand slot f s = .next (f s).heelSettle := by
  rw [jobCommand, hostAct_reaches hr]

/-! ACCEPT and START. -/

theorem State.accept_wrong {s : State} {n : Nat} (h : s.jobState n ≠ jobEmpty) : s.accept n = s.setJobCode n ST_JOB_STATE := by
  rw [State.accept, if_pos h]

theorem State.accept_passes {s t : State} {n : Nat} (h : s.jobState n = jobEmpty) (ha : s.acceptJob n = .ok t) : s.accept n = t := by
  rw [State.accept, if_neg (not_not_intro h), ha]

theorem State.accept_fails {s : State} {n code : Nat} (h : s.jobState n = jobEmpty) (ha : s.acceptJob n = .error code) :
    s.accept n = s.setJobCode n code := by
  rw [State.accept, if_neg (not_not_intro h), ha]

theorem State.start_wrong {s : State} {n : Nat} (h : s.jobState n ≠ jobReady) : s.start n = s.setJobCode n ST_JOB_STATE := by
  rw [State.start]
  cases s.jobs.find n with
  | none => rfl
  | some j => exact if_pos h

section
variable {s : State} {n : Nat} {j : Job} (hst : s.jobState n = jobReady) (hj : s.jobs.find n = some j)
include hst hj

theorem State.start_single (hs : j.starting = false) (hf : j.map.fleet = false) : s.start n = s.startNow n := by
  simp [State.start, hj, hst, hs, hf]

/-- START of a fleet job on a device that is in no fleet. -/
theorem State.start_noFleet (hs : j.starting = false) (hf : j.map.fleet = true) (hin : s.inFleet n = false) :
    s.start n = s.setJobCode n ST_FLT_SETUP := by
  simp [State.start, hj, hst, hs, hf, hin]

/-- START of a fleet job before the first roster. -/
theorem State.start_waits (hs : j.starting = false) (hf : j.map.fleet = true) (hin : s.inFleet n = true)
    (hrf : s.fleet.refused = false) (hro : s.fleet.roster = none) :
    s.start n = s.adjustJob n fun j => { j with starting := true } := by
  simp [State.start, hj, hst, hs, hf, hin, hrf, hro]

end

section
variable {s : State} {n : Nat} {j : Job} (hj : s.jobs.find n = some j)
include hj

theorem State.startNow_unplaced {code : Nat} (hq : ∃ q ∈ s.queues.vals, q.job = n) (hp : s.placeQueues n = .error code) :
    s.startNow n = (s.adjustJob n fun j => { j with starting := false }).setJobCode n code := by
  have hq' : (s.queues.vals.any fun q => q.job = n) = true := by simpa using hq
  simp only [State.startNow, hj, hq', if_true, hp]

theorem State.startNow_placed {t : State} (hq : ∃ q ∈ s.queues.vals, q.job = n) (hp : s.placeQueues n = .ok t)
    (hh : t.heelOf n = none) : s.startNow n = t.beginRun n := by
  have hq' : (s.queues.vals.any fun q => q.job = n) = true := by simpa using hq
  simp only [State.startNow, hj, hq', if_true, hp, hh]

theorem State.startNow_noQueues (hq : ∀ q ∈ s.queues.vals, q.job ≠ n) (hh : s.heelOf n = none) : s.startNow n = s.beginRun n := by
  have hq' : (s.queues.vals.any fun q => q.job = n) = false := by simpa using hq
  simp only [State.startNow, hj, hq', Bool.false_eq_true, if_false, hh]

end

/-! The ends of a run. -/

theorem State.stop_wrong {s : State} {n : Nat} (h : s.jobState n ≠ jobRunning) : s.stop n = s.setJobCode n ST_JOB_STATE := by
  rw [State.stop, if_pos h]

theorem State.stop_running {s : State} {n : Nat} (h : s.jobState n = jobRunning) :
    s.stop n = ((s.adjustJob n fun j => { j with streams := j.streams.map fun x => { x with next := none } }).setJobState n
      jobDraining ST_OK).flowJob n := by
  rw [State.stop, if_neg (not_not_intro h)]

theorem State.jobActive_iff (s : State) (n : Nat) : s.jobActive n = true ↔ s.jobState n = jobRunning ∨ s.jobState n = jobDraining := by
  simp [State.jobActive]

theorem State.abort_wrong {s : State} {n : Nat} (h : s.jobActive n = false) : s.abort n = s.setJobCode n ST_JOB_STATE := by
  simp [State.abort, h]

theorem State.abort_active {s : State} {n : Nat} (h : s.jobActive n = true) :
    s.abort n = (((s.discardWork n).emptyQueues n).adjustJob n fun j => { j with exhausted := false }).setJobState n
      jobStopped ST_OK := by
  simp [State.abort, h]

/-- Is a slot in a state that CLEAR empties: READY, STOPPED or HALTED (R58)? -/
def State.clearable (s : State) (n : Nat) : Prop :=
  s.jobState n = jobReady ∨ s.jobState n = jobStopped ∨ s.jobState n = jobHalted

theorem State.clearSlot_clearable {s : State} {n : Nat} (h : s.clearable n) : s.clearSlot n = s.dropJob n :=
  if_pos (by simpa [State.clearable, or_assoc] using h)

theorem State.clearSlot_wrong {s : State} {n : Nat} (h : ¬ s.clearable n) : s.clearSlot n = s.setJobCode n ST_JOB_STATE :=
  if_neg (by simpa [State.clearable, or_assoc] using h)

theorem State.drainComplete_drained {s : State} {n : Nat} (h : s.jobState n = jobDraining) (hd : s.drained n = true) :
    s.drainComplete n = s.setJobState n jobStopped ST_OK := by
  simp [State.drainComplete, h, hd]

/-- Settles O20: a command is the slot's operation where the host reaches it, by the branch that the slot's state chooses. -/
theorem jobCommandsComplete : Obligations.JobCommandsComplete := by
  unfold Obligations.JobCommandsComplete
  intro s slot wrong st
  refine ⟨fun hr => ?_, fun hl hst hd => ?_⟩
  · have accept : exec (.accept slot) s = .next (s.accept slot).heelSettle := by
      rw [exec_accept, execAccept, jobCommand_reaches hr]
    have start : exec (.start slot) s = .next (s.start slot).heelSettle := by
      rw [exec_start, execStart, jobCommand_reaches hr]
    have stop : exec (.stop slot) s = .next (s.stop slot).heelSettle := by
      rw [exec_stop, execStop, jobCommand_reaches hr]
    have abort : exec (.abort slot) s = .next (s.abort slot).heelSettle := by
      rw [exec_abort, execAbort, jobCommand_reaches hr]
    have clear : exec (.clear slot) s = .next (s.clearSlot slot).heelSettle := by
      rw [exec_clear, execClear, jobCommand_reaches hr]
    refine ⟨fun h => ?_, fun h => ⟨fun t ha => ?_, fun code ha => ?_⟩, fun h => ?_,
      fun j h hj hs => ⟨fun hf hin => ?_, fun hf hin hrf hro => ?_, fun code hf hq hp => ?_, fun t hf hq hp hh => ?_,
        fun hf hq hh => ?_⟩,
      fun h => ?_, fun h => ?_, fun h h' => ?_, fun h => ?_, fun h => ?_, fun h => ?_⟩
    · rw [accept, State.accept_wrong h]
    · rw [accept, State.accept_passes h ha]
    · rw [accept, State.accept_fails h ha]
    · rw [start, State.start_wrong h]
    · rw [start, State.start_noFleet h hj hs hf hin]
    · rw [start, State.start_waits h hj hs hf hin hrf hro]
    · rw [start, State.start_single h hj hs hf, State.startNow_unplaced hj hq hp]
    · rw [start, State.start_single h hj hs hf, State.startNow_placed hj hq hp hh]
    · rw [start, State.start_single h hj hs hf, State.startNow_noQueues hj hq hh]
    · rw [stop, State.stop_wrong h]
    · rw [stop, State.stop_running h]
    · rw [abort, State.abort_wrong (Bool.eq_false_iff.2 fun ha => (s.jobActive_iff slot).1 ha |>.elim h h')]
    · rw [abort, State.abort_active ((s.jobActive_iff slot).2 h)]
    · rw [clear, State.clearSlot_clearable h]
    · rw [clear, State.clearSlot_wrong h]
  · rw [exec_drainComplete, execDrainComplete, jobAct, act_live hl, State.drainComplete_drained hst hd]

end Sys2Proof.Machine

/-! ### Epoch timers, network time, PPS pins and coalescing intervals (O26) -/

namespace Sys2Proof.Machine

/-! Epoch timers. -/

/-- The state in which a firing of a running timer is counted, and its next one is due. -/
def State.timerCounted (s : State) (i : Nat) (r : TimerRun) : State :=
  { s.bump (Reg.SHD_TIMER_STATUS i) Fld.SHD_TIMER_STATUS_COUNT with
    timers := s.timers.insert i { r with
      pulseHigh := r.program.pulse, nextNs := r.program.firstAt (max s.time.total r.nextNs + 1) } }

theorem State.timerFire_running {s : State} {i : Nat} {r : TimerRun} (h : s.timers.find i = some r) :
    s.timerFire i =
      let t := s.timerCounted i r
      let u := if r.program.pulse then t.adjustPin r.program.pin fun p => { p with level := true } else t
      if r.program.interrupt then u.raiseCoalesced 0x2000 12 else u := by
  rw [State.timerFire, h]
  rfl

theorem exec_timerPulseEnd_high {s : State} {i : Fin 8} {r : TimerRun} (hl : s.live = true) (h : s.timers.find i = some r)
    (hp : r.pulseHigh = true) :
    exec (.timerPulseEnd i) s = .next ({ s with timers := s.timers.insert i { r with pulseHigh := false } }.adjustPin
      r.program.pin fun p => { p with level := false }) := by
  simp only [exec_timerPulseEnd, execTimerPulseEnd, act_live hl, h, hp, if_true]

/-! The servo of network time. -/

theorem State.masterFound_begins {s : State} (h1 : s.servo ≠ ptpLocked) (h2 : s.servo ≠ ptpAcquiring) :
    s.masterFound = s.setServo ptpAcquiring := by
  simp [State.masterFound, h1, h2]

/-- The state in which an offset is shown and, beside it, how many in a row were good. -/
def State.offsetShown (s : State) (ns : Int) (good : Nat) : State :=
  { s.setFld Reg.PLT_PTP_OFFSET Fld.PLT_PTP_OFFSET_NS (wrapInt 32 ns) with time := { s.time with good := good } }

theorem State.ptpOffset_measured {s : State} (h : s.servo = ptpLocked ∨ s.servo = ptpAcquiring) (ns : Int) :
    s.ptpOffset ns =
      let good := if -100 ≤ ns ∧ ns ≤ 100 then s.time.good + 1 else 0
      if s.servo = ptpAcquiring ∧ 8 ≤ good then (s.offsetShown ns good).setServo ptpLocked else s.offsetShown ns good := by
  have measuring : ¬ (decide (s.servo ≠ ptpLocked) && decide (s.servo ≠ ptpAcquiring)) = true := by
    simpa [or_iff_not_imp_left] using h
  rw [State.ptpOffset, if_neg measuring]
  simp only [Bool.and_eq_true, decide_eq_true_eq]
  rfl

theorem exec_ptpEventMessage_live {s : State} (hl : s.live = true) (e : PtpEvent) :
    exec (.ptpEventMessage e) s = .next (s.ptpEvent e) := by
  rw [exec_ptpEventMessage, execPtpEventMessage, act_live hl]

theorem State.ptpSend_sync (s : State) (k : Nat) :
    s.ptpSend k .sync = if (s.ptpPort k).role = .master then
      s.adjustPtp k fun p => { p.push (ptpOwn k .sync p.seq) with seq := (p.seq + 1) % 2 ^ 16 } else s := rfl

theorem State.ptpSend_announce (s : State) (k : Nat) :
    s.ptpSend k .announce = if (s.ptpPort k).role = .master then
      s.adjustPtp k fun p => { p.push { ptpOwn k .announce p.seq with dataset := s.announced } with seq := (p.seq + 1) % 2 ^ 16 }
      else s := rfl

theorem exec_masterLoss_held {s : State} (hl : s.live = true) (h : s.servo = ptpLocked ∨ s.servo = ptpAcquiring) :
    exec .masterLoss s = .next (s.setServo ptpHoldover).forgetMaster := by
  rw [exec_masterLoss, execMasterLoss, act_live hl, if_pos (by simpa using h)]

theorem exec_holdoverTimeout_holdover {s : State} (hl : s.live = true) (h : s.servo = ptpHoldover) :
    exec .holdoverTimeout s = .next (s.setServo ptpFree) := by
  rw [exec_holdoverTimeout, execHoldoverTimeout, act_live hl, if_pos h]

/-! Pins that carry a second's pulse. -/

theorem exec_ppsInEdge_input {s : State} {pin : Fin 16} (hl : s.live = true) (h : s.pinFunction pin = 2) :
    exec (.ppsInEdge pin) s =
      let t := { s with time := { s.time with ppsEdge := some s.time.total } }
      .next (if s.servo = ptpGrandmaster then t.stepCounter ((s.time.total + 500000000) / 1000000000 * 1000000000) else t) := by
  rw [exec_ppsInEdge, execPpsInEdge, act_live hl, if_pos h]

theorem exec_ppsSecond_output {s : State} {pin : Fin 16} (hl : s.live = true) (h : s.pinFunction pin = 1) :
    exec (.ppsSecond pin) s = .next (s.adjustPin pin fun p => { p with highUntil := s.uptime + 100000000 }) := by
  rw [exec_ppsSecond, execPpsSecond, act_live hl, if_pos h]

/-! Coalescing intervals. -/

/-- An event held back in the interval that ends is raised, and the next interval starts. -/
theorem exec_msixCoalesceExpiry_held {s : State} {source : CoalesceSource} (hl : s.live = true)
    (h : s.board.coalesce.find (coalesceKey source) = some ⟨true, true⟩) :
    exec (.msixCoalesceExpiry source) s =
      let t := s.raise (coalesceVector source)
      .next { t with board := { t.board with coalesce := t.board.coalesce.insert (coalesceKey source) ⟨true, false⟩ } } := by
  simp only [exec_msixCoalesceExpiry, execMsixCoalesceExpiry, act_live hl, h]

theorem exec_msixCoalesceExpiry_quiet {s : State} {source : CoalesceSource} (hl : s.live = true)
    (h : s.board.coalesce.find (coalesceKey source) ≠ some ⟨true, true⟩) :
    exec (.msixCoalesceExpiry source) s =
      .next { s with board := { s.board with coalesce := s.board.coalesce.erase (coalesceKey source) } } := by
  rw [exec_msixCoalesceExpiry, execMsixCoalesceExpiry, act_live hl]
  dsimp only
  split
  next held => exact absurd held h
  next => rfl

/-- Settles O26: on a device in service each row is its meaning, by the branch that timer, servo, pin or interval chooses. -/
theorem timersAndNetworkTimeComplete : Obligations.TimersAndNetworkTimeComplete := by
  unfold Obligations.TimersAndNetworkTimeComplete
  intro s hl
  refine ⟨fun i r hr => ⟨?_, exec_timerPulseEnd_high hl hr⟩, ⟨fun h1 h2 => ?_, fun ns h => ?_, fun port sub => ⟨fun b => ?_, ?_, ?_, ?_⟩,
    fun ns => ?_, ?_, exec_masterLoss_held hl, exec_holdoverTimeout_holdover hl⟩,
    fun pin => ⟨exec_ppsInEdge_input hl, exec_ppsSecond_output hl⟩,
    fun source => ⟨exec_msixCoalesceExpiry_held hl, exec_msixCoalesceExpiry_quiet hl⟩⟩
  · rw [exec_epochTimerFire, execEpochTimerFire, act_live hl, State.timerFire_running hr, State.timerCounted]
  · rw [exec_ptpEventMessage_live hl, State.ptpEvent, State.masterFound_begins h1 h2]
  · rw [exec_ptpEventMessage_live hl, State.ptpEvent, State.ptpOffset_measured h]
    rfl
  · rw [exec_ptpEventMessage_live hl, State.ptpEvent, State.ptpReceive]
    cases s.linkUp port sub <;> rfl
  · rw [exec_ptpEventMessage_live hl, State.ptpEvent, State.ptpSend_sync]
  · rw [exec_ptpEventMessage_live hl, State.ptpEvent, State.ptpSend_announce]
  · rw [exec_ptpEventMessage_live hl, State.ptpEvent]
  · rw [exec_ptpEventMessage_live hl, State.ptpEvent]
  · rw [exec_ptpEventMessage_live hl, State.ptpEvent]

end Sys2Proof.Machine

/-! ### Management commands of Sheepdog (O41) -/

namespace Sys2Proof.Machine

/-! A command that reaches its body: the envelope is whole, its arguments are in their layout, and the mode serves it. -/

/-- The scope's counter takes COUNTER (R357). -/
def State.counted (s : State) (e : Envelope) : State :=
  s.setReg (Reg.SEC_CMD_COUNTER (counterOf e.scope)) (BitVec.ofNat 64 e.counter)

/-- The state once an answer's result is posted and what follows it has acted. -/
def Answer.posted (a : Answer) (host : Bool) : State := a.after (a.state.postResult host a.code a.data)

theorem State.runEnvelope_served {s : State} {e : Envelope} (ha : argsOk e.code e.args = true)
    (hs : s.sheep.mode.serves e.code = true) (host : Bool) (body : Envelope → State → Answer) :
    s.runEnvelope host e body =
      if s.envelopeCheck host e = ST_OK then body e (s.counted e) else s.answers (s.envelopeCheck host e) := by
  have served : (s.counted e).sheep.mode.serves e.code = true := hs
  rw [State.counted] at served
  simp only [State.runEnvelope, State.counted, ha, served, Bool.not_true, Bool.false_eq_true, if_false, ne_eq, ite_not]

/-- A command whose envelope is in order posts the code of R357's check that fails, or what its body answers. -/
theorem mgmtRow_served {s : State} {src : MgmtSource} {b : Bytes} (hb : s.mgmtBytes src = some b) (ok : envelopeOk b = true)
    (ha : argsOk (envelopeOf b).code (envelopeOf b).args = true) (hs : s.sheep.mode.serves (envelopeOf b).code = true)
    {code : Nat} (hc : (envelopeOf b).code = code) (body : Envelope → State → Answer) :
    mgmtRow src code body s =
      .next (if s.envelopeCheck (fromHost src) (envelopeOf b) = ST_OK then
          (body (envelopeOf b) (s.counted (envelopeOf b))).posted (fromHost src)
        else s.postResult (fromHost src) (s.envelopeCheck (fromHost src) (envelopeOf b)) []).heelSettle := by
  have named : fieldAt b 4 2 = code := hc
  have run : s.mgmtRun src b body =
      ((s.runEnvelope (fromHost src) (envelopeOf b) body).posted (fromHost src)).heelSettle := by
    rw [State.mgmtRun, ok, if_neg (by decide), Answer.posted]
  simp only [mgmtRow, hb, named, if_true, run, State.runEnvelope_served ha hs]
  split
  next => rfl
  next => rfl

/-! Firmware. -/

theorem fwStageBody_part {e : Envelope} (h : fieldAt e.args 4 1 = 0) (t : State) :
    fwStageBody e t = (t.stageFirmware (fieldAt e.args 0 4) (e.args.drop 8)).answers ST_OK := by
  rw [fwStageBody, if_pos h]

/-- The slot that does not run. -/
theorem State.slotBytes_inactive {s : State} (h : s.bootSlot < 2) :
    s.slotBytes (1 - s.bootSlot) = if s.bootSlot = 0 then s.sheep.slotB else s.sheep.slotA := by
  have which : s.bootSlot = 0 ∨ s.bootSlot = 1 := by omega
  rcases which with h0 | h1
  · simp [State.slotBytes, h0]
  · simp [State.slotBytes, h1]

theorem fwStageBody_final {e : Envelope} (h : fieldAt e.args 4 1 ≠ 0) (t : State) :
    fwStageBody e t =
      let u := t.stageFirmware (fieldAt e.args 0 4) (e.args.drop 8)
      if Config.firmwareSigned (u.slotBytes (1 - u.bootSlot)) then (u.adjustSheep fun x => { x with staged := true }).answers ST_OK
      else u.answers ST_FW_IMAGE := by
  rw [fwStageBody, if_neg h]

theorem fwActivateBody_none {t : State} (h : t.sheep.staged = false) (e : Envelope) :
    fwActivateBody e t = t.answers ST_FW_NONE := by
  simp [fwActivateBody, h]

theorem fwActivateBody_busy {t : State} (h : t.sheep.staged = true) (hj : t.anyJobActive = true) (e : Envelope) :
    fwActivateBody e t = t.answers ST_FW_BUSY := by
  simp [fwActivateBody, h, hj]

theorem fwActivateBody_idle {t : State} (h : t.sheep.staged = true) (hj : t.anyJobActive = false) (e : Envelope) :
    fwActivateBody e t =
      if t.images.entries ≠ [] ∧ t.classDiffers = true then t.answers ST_DCLASS_BUSY else t.quiesceStore.answers ST_OK := by
  simp [fwActivateBody, h, hj]

/-! Features: epoch timers of management. -/

section
variable {e : Envelope} (hf : fieldAt e.args 0 1 = featureTimer)
include hf

theorem featureBody_timerRange (hi : 8 ≤ fieldAt e.args 1 1) (t : State) : featureBody e t = t.answers ST_PWR_RANGE := by
  rw [featureBody, if_pos hf, if_pos hi]

theorem featureBody_timerOn (hi : fieldAt e.args 1 1 < 8) (hen : fieldAt e.args 2 1 = 1) (t : State) :
    featureBody e t = t.featureTimerOf (fieldAt e.args 1 1) true (e.args.drop 4) := by
  rw [featureBody, if_pos hf, if_neg (Nat.not_le.2 hi), decide_eq_true hen]

theorem featureBody_timerOff (hi : fieldAt e.args 1 1 < 8) (hen : fieldAt e.args 2 1 ≠ 1) (t : State) :
    featureBody e t = t.featureTimerOf (fieldAt e.args 1 1) false (e.args.drop 4) := by
  rw [featureBody, if_pos hf, if_neg (Nat.not_le.2 hi), decide_eq_false hen]

end

section
variable {t : State} {i : Nat} {program : Bytes}

theorem State.featureTimerOf_range (hp : t.timerProgramOk program = false) :
    t.featureTimerOf i true program = t.answers ST_PWR_RANGE := by
  simp [State.featureTimerOf, hp]

theorem State.featureTimerOf_claimed (hp : t.timerProgramOk program = true) (hc : t.claimOwner 0x02 i ≠ none) :
    t.featureTimerOf i true program = t.answers ST_BUSY_CLAIMED := by
  simp [State.featureTimerOf, hp, Option.isSome_iff_ne_none.2 hc]

theorem State.featureTimerOf_starts (hp : t.timerProgramOk program = true) (hc : t.claimOwner 0x02 i = none) :
    t.featureTimerOf i true program =
      ((t.addClaim 0x02 i ownerManagement).startTimer i (timerProgramAt program 0) ownerManagement).answers ST_OK := by
  simp [State.featureTimerOf, hp, hc]

theorem State.featureTimerOf_stops (hc : t.claimOwner 0x02 i = some ownerManagement) :
    t.featureTimerOf i false program = ((t.dropClaim 0x02 i ownerManagement).stopTimer i).answers ST_OK := by
  simp [State.featureTimerOf, hc]

theorem State.featureTimerOf_notHeld (hc : t.claimOwner 0x02 i ≠ some ownerManagement) :
    t.featureTimerOf i false program = t.answers ST_OK := by
  simp [State.featureTimerOf, hc]

end

/-! Features: pins. -/

section
variable {e : Envelope} (hf : fieldAt e.args 0 1 ≠ featureTimer)
include hf

theorem featureBody_pinRange (h : pinFunctionListed (fieldAt e.args 0 1) = false ∨ 16 ≤ fieldAt e.args 1 1) (t : State) :
    featureBody e t = t.answers ST_PWR_RANGE := by
  rw [featureBody, if_neg hf, if_pos (by simpa using h)]

variable (hl : pinFunctionListed (fieldAt e.args 0 1) = true) (hi : fieldAt e.args 1 1 < 16)
include hl hi

theorem featureBody_pinOn (hen : fieldAt e.args 2 1 = 1) (t : State) :
    featureBody e t = t.featurePin (fieldAt e.args 0 1) (fieldAt e.args 1 1) true := by
  rw [featureBody, if_neg hf, if_neg (by simp [hl, hi]), decide_eq_true hen]

theorem featureBody_pinOff (hen : fieldAt e.args 2 1 ≠ 1) (t : State) :
    featureBody e t = t.featurePin (fieldAt e.args 0 1) (fieldAt e.args 1 1) false := by
  rw [featureBody, if_neg hf, if_neg (by simp [hl, hi]), decide_eq_false hen]

end

section
variable {t : State} {f i : Nat}

theorem State.featurePin_claimed (hc : t.claimOwner 0x01 i ≠ none) : t.featurePin f i true = t.answers ST_BUSY_CLAIMED := by
  simp [State.featurePin, Option.isSome_iff_ne_none.2 hc]

theorem State.featurePin_takes (hc : t.claimOwner 0x01 i = none) :
    t.featurePin f i true = (((t.addClaim 0x01 i ownerManagement).adjustPin i fun _ =>
      { Pin.free with function := f, owner := ownerManagement }).settleGatePin f).answers ST_OK := by
  simp [State.featurePin, hc]

theorem State.featurePin_returns (hc : t.claimOwner 0x01 i = some ownerManagement) (hf : t.pinFunction i = f) :
    t.featurePin f i false = ((t.dropClaim 0x01 i ownerManagement).adjustPin i fun _ => Pin.free).answers ST_OK := by
  simp [State.featurePin, State.managementPin, hc, hf]

theorem State.featurePin_notHeld (h : ¬ t.claimOwner 0x01 i = some ownerManagement ∨ t.pinFunction i ≠ f) :
    t.featurePin f i false = t.answers ST_OK := by
  have other : t.managementPin i f = false := by
    simpa [State.managementPin, or_iff_not_imp_left] using h
  simp [State.featurePin, other]

end

/-- The data of SHD_DIAG, register by register. -/
theorem diagBody_data (e : Envelope) (t : State) :
    diagBody e t = ⟨t, ST_OK, leBytes 4 (t.reg Reg.SHD_BOOT).toNat ++ leBytes 4 (t.reg Reg.SHD_BOOT_DETAIL).toNat ++
      leBytes 4 (t.reg Reg.SHD_RESET_CAUSE).toNat, id⟩ := by
  rw [diagBody, List.flatMap_cons, List.flatMap_cons, List.flatMap_cons, List.flatMap_nil, List.append_nil, List.append_assoc]

/-- Settles O41: each row posts what its body answers, which the command's arguments and the state choose. -/
theorem sheepdogCommandsComplete : Obligations.SheepdogCommandsComplete := by
  unfold Obligations.SheepdogCommandsComplete
  intro s src b hb ok e ha hs host check t ends result arg
  have row : ∀ {c code body} {a : Answer}, exec c s = mgmtRow src code body s → e.code = code → body e t = a →
      exec c s = ends (a.posted host) := by
    intro c code body a hx hc hbody
    rw [hx, mgmtRow_served hb ok ha hs hc, ← hbody]
    rfl
  have reply : ∀ {c code body} {u : State} {r : Nat}, exec c s = mgmtRow src code body s → e.code = code →
      body e t = u.answers r → exec c s = result u r := row
  refine ⟨fun hc => ?_, fun hc => ?_, fun hc => ?_, fun hc => ?_, fun hc => ?_, fun hc => ?_, fun hc => ?_, fun hc => ?_⟩
  · intro offset u image
    have stage : ∀ {u r}, fwStageBody e t = u.answers r → exec (.shdFwStage src) s = result u r := reply (exec_shdFwStage src s) hc
    refine ⟨fun h => stage (fwStageBody_part h t), fun h hslot => ?_⟩
    have inactive : u.slotBytes (1 - u.bootSlot) = image := State.slotBytes_inactive hslot
    have final := fwStageBody_final h t
    by_cases signed : Config.firmwareSigned image = true
    · rw [if_pos signed]
      exact stage (final.trans (if_pos (inactive ▸ signed)))
    · rw [if_neg signed]
      exact stage (final.trans (if_neg (inactive ▸ signed)))
  · have activate : ∀ {u r}, fwActivateBody e t = u.answers r → exec (.shdFwActivate src) s = result u r :=
      reply (exec_shdFwActivate src s) hc
    refine ⟨fun h => activate (fwActivateBody_none h e), fun h hj => activate (fwActivateBody_busy h hj e), fun h hj => ?_⟩
    have idle := fwActivateBody_idle h hj e
    by_cases differs : t.images.entries ≠ [] ∧ t.classDiffers = true
    · rw [if_pos differs]
      exact activate (idle.trans (if_pos differs))
    · rw [if_neg differs]
      exact activate (idle.trans (if_neg differs))
  · rw [row (exec_shdReset src s) hc rfl]
    by_cases warm : arg 0 1 = 1
    · rw [if_pos warm]
      exact congrArg ends (if_pos warm)
    · rw [if_neg warm]
      exact congrArg ends (if_neg warm)
  · rw [row (exec_shdFallbackExit src s) hc rfl]
    rfl
  · exact reply (exec_pwrSetCap src s) hc rfl
  · exact reply (exec_pwrSetPlanMax src s) hc rfl
  · intro f i program mine
    have feature : ∀ {u r}, featureBody e t = u.answers r → exec (.shdFeature src) s = result u r := reply (exec_shdFeature src s) hc
    refine ⟨fun hf => ⟨fun hi => feature (featureBody_timerRange hf hi t), fun hi hen => ?_, fun hi hen hm => ?_, fun hi hen hm => ?_⟩,
      fun hf => ⟨fun h => feature (featureBody_pinRange hf h t), fun hl hi hen => ?_, fun hl hi hen hm hpf => ?_, fun hl hi hen h => ?_⟩⟩
    · have enable := featureBody_timerOn hf hi hen t
      exact ⟨fun hp => feature (enable.trans (State.featureTimerOf_range hp)),
        fun hp hcl => feature (enable.trans (State.featureTimerOf_claimed hp hcl)),
        fun hp hcl => feature (enable.trans (State.featureTimerOf_starts hp hcl))⟩
    · exact feature ((featureBody_timerOff hf hi hen t).trans (State.featureTimerOf_stops hm))
    · exact feature ((featureBody_timerOff hf hi hen t).trans (State.featureTimerOf_notHeld hm))
    · have enable := featureBody_pinOn hf hl hi hen t
      exact ⟨fun hcl => feature (enable.trans (State.featurePin_claimed hcl)),
        fun hcl => feature (enable.trans (State.featurePin_takes hcl))⟩
    · exact feature ((featureBody_pinOff hf hl hi hen t).trans (State.featurePin_returns hm hpf))
    · exact feature ((featureBody_pinOff hf hl hi hen t).trans (State.featurePin_notHeld h))
  · rw [row (exec_shdDiag src s) hc (diagBody_data e t)]
    rfl

end Sys2Proof.Machine

/-! ### Rows of the core instructions -/

namespace Sys2Proof.Machine

/-! What the form checks ask (Tables 3-2 to 3-4). -/

theorem formR_iff {f : Fields} {bits : Nat} : formR f bits = true ↔ f.ty.val ≤ 10 ∧ uimm f < 2 ^ bits := by
  simp [formR, typeAssigned]

theorem formR_of_wide {f : Fields} {bits : Nat} (hty : f.ty.val ≤ 8) (h : uimm f < 2 ^ bits) : formR f bits = true :=
  formR_iff.2 ⟨by omega, h⟩

theorem typeWide_of_le {ty : Nat} (h : ty ≤ 8) : typeWide ty = true := decide_eq_true h

theorem isW_of_lt {r : Fin 32} (h : r.val < 16) : isW r = true := decide_eq_true h

theorem isP_of_lt {r : Fin 32} (h : r.val < 8) : isP r = true := decide_eq_true h

section
variable {s : State} {core : Nat} {f : Fields} {legal : Bool} (h : s.takes core f .no = true)
include h

theorem registerRow_runs {scalar : Bool} (hl : legal = true) (he : scalar = true → (s.core core).executes f = true)
    (g : Core → Core) : registerRow core f legal scalar g s = .next (s.setCore core (g (s.core core)).retire) :=
  coreRow_runs _ h hl he

theorem registerRow_illegal {scalar : Bool} (hl : legal = false) (g : Core → Core) :
    registerRow core f legal scalar g s = .next (s.exception core EX_ILLEGAL) :=
  coreRow_illegal _ h hl

theorem scalarRow_runs (hl : legal = true) (he : (s.core core).executes f = true) (val : Core → BitVec 64) :
    scalarRow core f legal val s = .next (s.setCore core ((s.core core).setS f.d.val (val (s.core core))).retire) :=
  registerRow_runs h hl (fun _ => he) _

theorem binaryRow_runs (hf : formR f 0 = true) (he : (s.core core).executes f = true) (op : BitVec 64 → BitVec 64 → BitVec 64) :
    binaryRow core f op s = .next (s.setCore core ((s.core core).setS f.d.val
      (op ((s.core core).getS f.a.val) ((s.core core).getS f.b.val))).retire) :=
  scalarRow_runs h hf he _

/-- A legal element-wise instruction leaves what its operation gives for each enabled element of w[D]. -/
theorem elementRow_writes (hl : legal = true) (b : Nat) (op : Core → Nat → Nat × FpFlags) :
    ∃ t, elementRow core f legal b op s = .next t ∧ s.elementsWritten t core f b (op (s.core core)) :=
  ⟨_, registerRow_runs h hl (fun wide => absurd wide Bool.false_ne_true) _, elementsWritten_writeElements s core f b _⟩

end

end Sys2Proof.Machine

/-! ### Scalar arithmetic (O1, O2) -/

namespace Sys2Proof.Machine

/-- Settles O1: each row is its operation on s[A] and s[B], or on s[A] and the immediate. -/
theorem scalarArithmeticWritesDestination : Obligations.ScalarArithmeticWritesDestination := by
  unfold Obligations.ScalarArithmeticWritesDestination
  intro s core f h he c a b wrote
  refine ⟨fun hf => ?_, fun hf => scalarRow_runs h hf he fun c => c.getS f.a.val + f.imm.signExtend 64⟩
  have row : ∀ op, binaryRow core f op s = .next (wrote (op a b)) := binaryRow_runs h hf he
  exact ⟨row (· + ·), row (· - ·), row (· &&& ·), row (· ||| ·), row (· ^^^ ·), row (· * ·),
    row fun a b => a <<< (b.toNat % 64), row fun a b => a >>> (b.toNat % 64), row fun a b => a.sshiftRight (b.toNat % 64)⟩

theorem divU_zero (a : BitVec 64) : divU a 0 = (BitVec.allOnes 64, a) := rfl

theorem divS_zero (a : BitVec 64) : divS a 0 = (BitVec.allOnes 64, a) := rfl

theorem divU_of_ne {a b : BitVec 64} (h : b ≠ 0) : divU a b = (a / b, a % b) := if_neg h

theorem divS_of_ne {a b : BitVec 64} (h : b ≠ 0) : divS a b = (a.sdiv b, a.srem b) := if_neg h

/-- The division that a TYPE names. -/
theorem exec_div_runs {s : State} {core : Nat} {f : Fields} (h : s.takes core f .no = true) (he : (s.core core).executes f = true)
    (hf : formR f 0 = true) (hty : f.ty.val = 9 ∨ f.ty.val = 10) (hd : f.d.val ≤ 30) {q r : BitVec 64}
    (hqr : (if f.ty.val = 9 then divU else divS) ((s.core core).getS f.a.val) ((s.core core).getS f.b.val) = (q, r)) :
    exec (.div core f) s = .next (s.setCore core (((s.core core).setS f.d.val q).setS (f.d.val + 1) r).retire) := by
  have legal : (formR f 0 && (f.ty.val = 9 || f.ty.val = 10) && f.d.val ≤ 30) = true := by simp [hf, hty, hd]
  rw [exec_div, execDiv, registerRow_runs h legal fun _ => he, hqr]

theorem exec_div_illegal {s : State} {core : Nat} {f : Fields} (h : s.takes core f .no = true)
    (hbad : (f.ty.val ≠ 9 ∧ f.ty.val ≠ 10) ∨ f.d.val = 31) : exec (.div core f) s = .next (s.exception core EX_ILLEGAL) := by
  have illegal : (formR f 0 && (f.ty.val = 9 || f.ty.val = 10) && f.d.val ≤ 30) = false := by
    simp only [Bool.and_eq_false_iff, Bool.or_eq_false_iff, decide_eq_false_iff_not]
    omega
  rw [exec_div, execDiv, registerRow_illegal h illegal]

/-- Settles O2, by the type and whether the divisor is zero. -/
theorem divisionResults : Obligations.DivisionResults := by
  unfold Obligations.DivisionResults
  intro s core f h he hf c a b wrote
  refine ⟨fun hty hd => ⟨fun hb => ?_, fun hb h9 => ?_, fun hb h10 => ?_⟩, exec_div_illegal h⟩
  · refine exec_div_runs h he hf hty hd ?_
    rw [show (s.core core).getS f.b.val = 0 from hb]
    split
    · exact divU_zero a
    · exact divS_zero a
  · exact exec_div_runs h he hf hty hd (by rw [if_pos h9]; exact divU_of_ne hb)
  · exact exec_div_runs h he hf hty hd (by rw [if_neg (by omega)]; exact divS_of_ne hb)

end Sys2Proof.Machine

/-! ### Comparison, control words, time and HALT (O3) -/

namespace Sys2Proof.Machine

section
variable {s : State} {core : Nat} {f : Fields} (h : s.takes core f .no = true)
include h

theorem exec_cwr_reads (he : (s.core core).executes f = true) (hf : formI f = true) (hn : uimm f ≤ 4) {v : BitVec 64}
    (hv : s.controlWord core (uimm f) = some v) :
    exec (.cwr core f) s = .next (s.setCore core ((s.core core).setS f.d.val v).retire) := by
  have legal : (formI f && uimm f ≤ 4) = true := by simp [hf, hn]
  rw [exec_cwr, execCwr, coreRow_runs _ h legal fun _ => he, hv]

theorem exec_cwr_illegal (hn : 4 < uimm f) : exec (.cwr core f) s = .next (s.exception core EX_ILLEGAL) := by
  have illegal : (formI f && uimm f ≤ 4) = false := by simp [hn]
  rw [exec_cwr, execCwr, coreRow_illegal _ h illegal]

theorem exec_cww_illegal (hn : uimm f ≠ 3) : exec (.cww core f) s = .next (s.exception core EX_ILLEGAL) := by
  have illegal : (formI f && uimm f = 3) = false := by simp [hn]
  rw [exec_cww, execCww, registerRow_illegal h illegal]

end

/-- GROUPIDX as a bound kennel holds it. -/
theorem State.controlWord_groupIdx {s : State} {core : Nat} {g : Binding} (hg : (s.kennel (core / 80)).bound = some g) :
    s.controlWord core 2 = some (BitVec.ofNat 64 g.groupIdx) := by
  have bound : s.bindingOf core = some g := hg
  rw [State.controlWord, bound]
  rfl

/-- Settles O3: each control word by its number, the other rows by their bodies. -/
theorem controlWordsCompareTimeAndHalt : Obligations.ControlWordsCompareTimeAndHalt := by
  unfold Obligations.ControlWordsCompareTimeAndHalt
  intro s core f h he c a b wrote
  have exe : true = true → (s.core core).executes f = true := fun _ => he
  refine ⟨fun hf hp => ?_, fun hf => ?_, fun hf => ⟨?_, ?_⟩⟩
  · have legal : (formR f 3 && isP f.d) = true := by rw [hf, hp]; rfl
    rw [exec_cmp, execCmp, registerRow_runs h legal exe]
  · have cwr : uimm f ≤ 4 → ∀ {v}, s.controlWord core (uimm f) = some v → exec (.cwr core f) s = .next (wrote v) :=
      fun hn _ hv => exec_cwr_reads h he hf hn hv
    refine ⟨fun hn => cwr (by omega) (by rw [hn]; rfl), fun hn => cwr (by omega) (by rw [hn]; rfl),
      fun hn g hg => cwr (by omega) (by rw [hn, State.controlWord_groupIdx hg]),
      fun hn => ⟨cwr (by omega) (by rw [hn]; rfl), ?_⟩, fun hn => cwr (by omega) (by rw [hn]; rfl),
      exec_cwr_illegal h, exec_cww_illegal h⟩
    have legal : (formI f && uimm f = 3) = true := by simp [hf, hn]
    rw [exec_cww, execCww, registerRow_runs h legal exe]
    rfl
  · rw [exec_rdtime, execRdtime, coreRow_runs _ h hf exe]
    rfl
  · rw [exec_halt, execHalt, registerRow_runs h hf exe]

end Sys2Proof.Machine

/-! ### Branches (O4) -/

namespace Sys2Proof.Machine

/-- Settles O4: each row is a jump, whose target decides. -/
theorem branchTargets : Obligations.BranchTargets := by
  unfold Obligations.BranchTargets
  intro s core f h he c there far
  have exe : true = true → (s.core core).executes f = true := fun _ => he
  refine ⟨fun hf => ?_, fun hf => ?_⟩
  · have br : exec (.br core f) s = .next (s.jump core there c) := by
      rw [exec_br, execBr, coreRow_runs _ h hf exe]
      rfl
    have call : exec (.call core f) s = .next (s.jump core there (c.setS 31 (BitVec.ofNat 64 (c.pc + 8)))) := by
      rw [exec_call, execCall, coreRow_runs _ h hf exe]
      rfl
    rw [br, call]
    refine ⟨fun h0 h1 h8 => ⟨?_, ?_⟩, fun out => ⟨?_, ?_⟩, fun h0 h1 h8 => ⟨?_, ?_⟩⟩
    · rw [State.jump_inside _ h0 h1 h8]
    · rw [State.jump_inside _ h0 h1 h8]
    · rw [State.jump_outside _ out]
    · rw [State.jump_outside _ out]
    · rw [State.jump_unaligned _ h0 h1 h8]
    · rw [State.jump_unaligned _ h0 h1 h8]
  · have jr : exec (.jr core f) s = .next (s.jump core far c) := by
      rw [exec_jr, execJr, coreRow_runs _ h hf exe]
    rw [jr]
    refine ⟨fun h1 h8 => ?_, fun out => ?_, fun h1 h8 => ?_⟩
    · rw [State.jump_inside _ (by omega) (by omega) (by omega), Int.toNat_natCast]
    · rw [State.jump_outside _ (by omega)]
    · rw [State.jump_unaligned _ (by omega) (by omega) (by omega)]

end Sys2Proof.Machine

/-! ### Loads and stores (O6, O7, O8) -/

namespace Sys2Proof.Machine

/-! The exceptions of an access, in the order in which they are tested (R75 to R77). -/

theorem typeBytes_pos (ty : Nat) : 0 < typeBytes ty := by
  rcases typeBytes_cases ty with h | h | h | h <;> omega

/-- Does a range of `n` bytes lie in data memory or the kennel store (Table 3-7)? -/
def inCoreMap (a n : Nat) : Prop := (0x10000 ≤ a ∧ a + n ≤ 0x13000) ∨ (0x100000 ≤ a ∧ a + n ≤ 0x140000)

theorem coreSpaceOf_nowhere_iff (a n : Nat) : coreSpaceOf a n = .nowhere ↔ ¬ inCoreMap a n := by
  rw [coreSpaceOf_eq, inCoreMap]
  split
  next data => exact iff_of_false CoreSpace.noConfusion (not_not_intro (.inl data))
  next notData =>
    split
    next store => exact iff_of_false CoreSpace.noConfusion (not_not_intro (.inr store))
    next notStore => exact iff_of_true rfl (not_or_intro notData notStore)

theorem coreSpaceOf_store {a n : Nat} (h0 : 0x100000 ≤ a) (h1 : a + n ≤ 0x140000) : coreSpaceOf a n = .store := by
  rw [coreSpaceOf_eq, if_neg (by omega), if_pos ⟨h0, h1⟩]

/-- A range that is not empty meets the region of its first byte. -/
theorem first_mem_regionsOf (a : Nat) {n : Nat} (hn : 0 < n) : (a - storeBase) / 1024 ∈ regionsOf a n := by
  refine List.mem_map.2 ⟨0, List.mem_range.2 ?_, Nat.add_zero _⟩
  unfold ceilDiv
  omega

section
variable {s : State} {core a n align : Nat} {write : Bool}

theorem State.accessFault_outside (hm : ¬ inCoreMap a n) : s.accessFault core a n align write = some EX_ADDR := by
  rw [State.accessFault, if_pos ((coreSpaceOf_nowhere_iff a n).2 hm)]

theorem State.accessFault_unaligned (hm : inCoreMap a n) (ha : a % align ≠ 0) :
    s.accessFault core a n align write = some EX_ALIGN := by
  rw [State.accessFault, if_neg (mt (coreSpaceOf_nowhere_iff a n).1 (not_not_intro hm)), if_pos ha]

theorem State.accessFault_denied (hn : 0 < n) (h0 : 0x100000 ≤ a) (h1 : a + n ≤ 0x140000) (ha : a % align = 0)
    (hr : regionAllows ((s.kennel (core / 80)).regions.find ((a - 0x100000) / 1024)) (core % 80) write = false) :
    s.accessFault core a n align write = some EX_OWN := by
  have store := coreSpaceOf_store h0 h1
  have denied : ((regionsOf a n).all fun r =>
      regionAllows ((s.kennel (kennelOf core)).regions.find r) (coreIndex core) write) = false :=
    List.all_eq_false.2 ⟨_, first_mem_regionsOf a hn, Bool.eq_false_iff.1 hr⟩
  rw [State.accessFault, store, if_neg CoreSpace.noConfusion, if_neg (not_not_intro ha), denied]
  rfl

end

/-- The regions that a core may not touch: UNUSED, SHARED under a store, and those of another owner. -/
theorem regionAllows_denied {r : Option Region} {index : Nat} {write : Bool}
    (h : r = none ∨ (r = some .shared ∧ write = true) ∨ ∃ j, r = some (.owned j) ∧ j ≠ index) :
    regionAllows r index write = false := by
  rcases h with rfl | ⟨rfl, rfl⟩ | ⟨j, rfl, hj⟩
  · rfl
  · rfl
  · exact decide_eq_false hj

/-! What each row does where its access goes. -/

/-- Bytes that WST stores for an element of w[D]: its own where it is enabled, and else what memory holds. -/
def State.maskedElement (s : State) (core : Nat) (f : Fields) (c : Core) (a e : Nat) : Bytes :=
  let n := typeBytes f.ty.val
  if c.governs f (n * e) then leBytes n (element n e (c.getW f.d.val)) else s.coreRead core (a + n * e) n

/-- The 256 bytes that WST stores. -/
def State.maskedBytes (s : State) (core : Nat) (f : Fields) (c : Core) (a : Nat) : Bytes :=
  (List.range (elementCount (typeBytes f.ty.val))).flatMap (s.maskedElement core f c a)

/-- Does the governing predicate enable an element of a wide access (R68)? -/
def Core.enablesSome (c : Core) (f : Fields) : Prop :=
  ∃ e, e < elementCount (typeBytes f.ty.val) ∧ c.governs f (typeBytes f.ty.val * e) = true

/-- LD writes s[D]. -/
def ldBody (core : Nat) (f : Fields) (c : Core) (a : Nat) (s : State) : State :=
  s.setCore core (c.setS f.d.val (extendTo64 f.ty.val (leNat (s.coreRead core a (typeBytes f.ty.val))))).retire

/-- ST writes the low bytes of s[B]. -/
def stBody (core : Nat) (f : Fields) (c : Core) (a : Nat) (s : State) : State :=
  (s.setCore core c.retire).coreWrite core a (leBytes (typeBytes f.ty.val) (c.getS f.b.val).toNat)

/-- WLD writes the enabled elements of w[D]. -/
def wldBody (core : Nat) (f : Fields) (c : Core) (a : Nat) (s : State) : State :=
  s.setCore core (c.writeInts f f.d.val (typeBytes f.ty.val) fun e =>
    element (typeBytes f.ty.val) e (BitVec.ofNat 2048 (leNat (s.coreRead core a 256)))).retire

/-- WST writes the bytes of the enabled elements of w[D]. -/
def wstBody (core : Nat) (f : Fields) (c : Core) (a : Nat) (s : State) : State :=
  (s.setCore core c.retire).coreWrite core a (s.maskedBytes core f c a)

section
variable {s : State} {core : Nat} {f : Fields} (h : s.takes core f .tag = true)
include h

section
variable (he : (s.core core).executes f = true)
include he

theorem exec_ld_accesses (hf : formI f = true) :
    exec (.ld core f) s = .next (s.access core f (typeBytes f.ty.val) (typeBytes f.ty.val) false (ldBody core f)) := by
  rw [exec_ld, execLd, accessRow, coreRow_runs _ h hf fun _ => he]
  rfl

theorem exec_st_accesses (hty : f.ty.val ≤ 10) (hc : f.c = 0) :
    exec (.st core f) s = .next (s.access core f (typeBytes f.ty.val) (typeBytes f.ty.val) true (stBody core f)) := by
  have legal : (typeAssigned f.ty.val && f.c.val = 0) = true := by simp [typeAssigned, hty, hc]
  rw [exec_st, execSt, accessRow, coreRow_runs _ h legal fun _ => he]
  rfl

end

variable (hf : formI f = true) (hty : f.ty.val ≤ 8) (hd : f.d.val < 16)
include hf hty hd

omit h in
theorem wideAccess_legal : (formI f && typeWide f.ty.val && isW f.d) = true := by
  rw [hf, typeWide_of_le hty, isW_of_lt hd]
  rfl

theorem wideAccessRow_accesses (he : (s.core core).enablesSome f) (write : Bool) (go : Core → Nat → State → State) :
    wideAccessRow core f write go s = .next (s.access core f 256 32 write go) := by
  have enabled : ((List.range (elementCount (typeBytes f.ty.val))).any fun e =>
      (s.core core).governs f (typeBytes f.ty.val * e)) = true := by simpa [Core.enablesSome] using he
  simp only [wideAccessRow]
  rw [coreRow_runs _ h (wideAccess_legal hf hty hd) fun scalar => absurd scalar Bool.false_ne_true, if_pos enabled]

theorem wideAccessRow_disabled
    (he : ∀ e, e < elementCount (typeBytes f.ty.val) → (s.core core).governs f (typeBytes f.ty.val * e) = false)
    (write : Bool) (go : Core → Nat → State → State) :
    wideAccessRow core f write go s = .next (s.setCore core (s.core core).retire) := by
  have disabled : ((List.range (elementCount (typeBytes f.ty.val))).any fun e =>
      (s.core core).governs f (typeBytes f.ty.val * e)) = false := by simpa using he
  simp only [wideAccessRow]
  rw [coreRow_runs _ h (wideAccess_legal hf hty hd) fun scalar => absurd scalar Bool.false_ne_true, disabled,
    if_neg Bool.false_ne_true]

theorem exec_wld_accesses (he : (s.core core).enablesSome f) :
    exec (.wld core f) s = .next (s.access core f 256 32 false (wldBody core f)) :=
  wideAccessRow_accesses h hf hty hd he false (wldBody core f)

theorem exec_wst_accesses (he : (s.core core).enablesSome f) :
    exec (.wst core f) s = .next (s.access core f 256 32 true (wstBody core f)) :=
  wideAccessRow_accesses h hf hty hd he true (wstBody core f)

end

/-- Settles O7: every row is an access, which tests the map, the alignment and the region in this order. -/
theorem coreAccessExceptions : Obligations.CoreAccessExceptions := by
  unfold Obligations.CoreAccessExceptions
  intro s core f h c a n inMap region traps
  have trap : ∀ {i m align write go}, exec i s = .next (s.access core f m align write go) → 0 < m → traps i m align write := by
    intro i m align write go access hm
    refine ⟨fun out => ?_, fun inside ha => ?_, fun h0 inside ha hr => ?_⟩
    · rw [access, State.access_faults go (State.accessFault_outside out)]
    · rw [access, State.access_faults go (State.accessFault_unaligned inside ha)]
    · have store : a + m ≤ 0x140000 := by rcases inside with data | store <;> omega
      rw [access, State.access_faults go (State.accessFault_denied hm h0 store ha (regionAllows_denied hr))]
  have pos : 0 < n := typeBytes_pos _
  exact ⟨fun he hf => trap (exec_ld_accesses h he hf) pos, fun he hty hc => trap (exec_st_accesses h he hty hc) pos,
    fun hf hty hd he =>
      ⟨trap (exec_wld_accesses h hf hty hd he) (by decide), trap (exec_wst_accesses h hf hty hd he) (by decide)⟩⟩

/-- Settles O6: every row is an access, which goes on or waits for a copy. -/
theorem loadsAndStoresComplete : Obligations.LoadsAndStoresComplete := by
  unfold Obligations.LoadsAndStoresComplete
  intro s core f h c a n waits
  refine ⟨fun he hf hx => ⟨fun ht => ?_, fun ht => ?_⟩, fun he hty hc hx => ⟨fun ht => ?_, fun ht => ?_⟩, fun hf hty hd =>
    ⟨fun he => ⟨fun hx => ⟨fun ht => ?_, fun ht => ?_⟩, fun hx => ⟨fun ht => ?_, fun ht => ?_⟩⟩,
      fun he => ⟨?_, ?_⟩⟩⟩
  · rw [exec_ld_accesses h he hf, State.access_goes _ hx ht, ldBody]
  · rw [exec_ld_accesses h he hf, State.access_waits _ hx ht]
  · rw [exec_st_accesses h he hty hc, State.access_goes _ hx ht, stBody]
  · rw [exec_st_accesses h he hty hc, State.access_waits _ hx ht]
  · rw [exec_wld_accesses h hf hty hd he, State.access_goes _ hx ht, wldBody]
    exact ⟨_, rfl, elementsWritten_writeElements s core f n _⟩
  · rw [exec_wld_accesses h hf hty hd he, State.access_waits _ hx ht]
  · rw [exec_wst_accesses h hf hty hd he, State.access_goes _ hx ht]
    rfl
  · rw [exec_wst_accesses h hf hty hd he, State.access_waits _ hx ht]
  · exact wideAccessRow_disabled h hf hty hd he _ _
  · exact wideAccessRow_disabled h hf hty hd he _ _

/-! The bytes that WST stores, element by element. -/

section
variable {α : Type} {g : Nat → List α} {b : Nat}

theorem length_flatMap_range {n : Nat} (hg : ∀ i < n, (g i).length = b) : ((List.range n).flatMap g).length = b * n := by
  rw [List.length_flatMap, List.map_congr_left (fun i hi => hg i (List.mem_range.1 hi)), List.map_const', List.sum_replicate,
    List.length_range, smul_eq_mul, Nat.mul_comm]

/-- Piece `e` of pieces of `b` elements each. -/
theorem take_drop_flatMap_range {n e : Nat} (hg : ∀ i < n, (g i).length = b) (he : e < n) :
    (((List.range n).flatMap g).drop (b * e)).take b = g e := by
  induction n with
  | zero => exact absurd he (Nat.not_lt_zero e)
  | succ n ih =>
    have before : ∀ i < n, (g i).length = b := fun i hi => hg i (Nat.lt_succ_of_lt hi)
    have len := length_flatMap_range before
    rw [List.range_succ, List.flatMap_append, List.flatMap_singleton]
    rcases Nat.lt_succ_iff_lt_or_eq.1 he with lt | rfl
    · have room : b * e + b ≤ b * n := by rw [← Nat.mul_succ]; exact Nat.mul_le_mul_left b lt
      rw [List.drop_append_of_le_length (by omega), List.take_append_of_le_length (by rw [List.length_drop]; omega), ih before lt]
    · rw [← len, List.drop_left, ← hg e he, List.take_length]

end

theorem Memory.length_read (m : Memory) (a n : Nat) : (Memory.read m a n).length = n := by
  induction n generalizing a with
  | zero => rfl
  | succ n ih => rw [Memory.read, List.length_cons, ih]

theorem State.length_coreRead (s : State) (core : Nat) {a n : Nat} (h : inCoreMap a n) : (s.coreRead core a n).length = n := by
  unfold State.coreRead
  split
  · exact Memory.length_read _ _ _
  · exact Memory.length_read _ _ _
  next out => exact absurd h ((coreSpaceOf_nowhere_iff a n).1 out)

theorem elementCount_mul_wide {ty : Nat} (h : ty ≤ 8) : typeBytes ty * elementCount (typeBytes ty) = 256 := by
  interval_cases ty <;> rfl

/-- An element lies within the 256 bytes of a wide access. -/
theorem element_end_le {ty e : Nat} (hty : ty ≤ 8) (he : e < elementCount (typeBytes ty)) :
    typeBytes ty * e + typeBytes ty ≤ 256 := by
  rw [← elementCount_mul_wide hty, ← Nat.mul_succ]
  exact Nat.mul_le_mul_left _ he

section
variable {s : State} {core a : Nat} {f : Fields} (hty : f.ty.val ≤ 8) (hm : inCoreMap a 256) (c : Core)
include hty hm

theorem State.length_maskedElement {e : Nat} (he : e < elementCount (typeBytes f.ty.val)) :
    (s.maskedElement core f c a e).length = typeBytes f.ty.val := by
  simp only [State.maskedElement]
  split
  · exact leBytes_length _ _
  · have inside := element_end_le hty he
    exact s.length_coreRead core (by unfold inCoreMap at *; omega)

theorem State.length_maskedBytes : (s.maskedBytes core f c a).length = 256 := by
  rw [State.maskedBytes, length_flatMap_range fun e => State.length_maskedElement hty hm c, elementCount_mul_wide hty]

theorem State.maskedBytes_element {e : Nat} (he : e < elementCount (typeBytes f.ty.val)) :
    ((s.maskedBytes core f c a).drop (typeBytes f.ty.val * e)).take (typeBytes f.ty.val) = s.maskedElement core f c a e :=
  take_drop_flatMap_range (fun _ => State.length_maskedElement hty hm c) he

end

theorem State.accessFault_none_inMap {s : State} {core a n align : Nat} {write : Bool}
    (h : s.accessFault core a n align write = none) : inCoreMap a n :=
  not_not.1 (mt (coreSpaceOf_nowhere_iff a n).2 (State.accessFault_none h).1)

/-- Settles O8: each row is a write of core memory, which says what such a write leaves. -/
theorem storesChangeOnlyTheirBytes : Obligations.StoresChangeOnlyTheirBytes := by
  unfold Obligations.StoresChangeOnlyTheirBytes
  intro s t core f h c a n rest
  have stores : ∀ {m} {bs : Bytes}, bs.length = m → inCoreMap a m → t = (s.setCore core c.retire).coreWrite core a bs →
      (∀ k x, 0 < k → a ≤ x → x + k ≤ a + m → t.coreRead core x k = (bs.drop (x - a)).take k) ∧ rest m := by
    rintro m bs rfl inside rfl
    exact s.coreWrite_law core a bs c.retire rfl (mt (coreSpaceOf_nowhere_iff a _).1 (not_not_intro inside))
  have pos : 0 < n := typeBytes_pos _
  refine ⟨fun he hty hc hx ht ex => ?_, fun hf hty hd he hx ht ex => ?_⟩
  · rw [exec_st_accesses h he hty hc, State.access_goes _ hx ht] at ex
    have len : (leBytes n (c.getS f.b.val).toNat).length = n := leBytes_length _ _
    obtain ⟨reads, others⟩ := stores len (State.accessFault_none_inMap hx) (Host.Outcome.next.inj ex).symm
    refine ⟨?_, others⟩
    rw [reads n a pos (Nat.le_refl a) (Nat.le_refl _), Nat.sub_self, List.drop_zero, List.take_of_length_le (Nat.le_of_eq len)]
  · rw [exec_wst_accesses h hf hty hd he, State.access_goes _ hx ht] at ex
    have inside := State.accessFault_none_inMap hx
    obtain ⟨reads, others⟩ := stores (State.length_maskedBytes hty inside c) inside (Host.Outcome.next.inj ex).symm
    refine ⟨fun e hlt => ?_, others⟩
    have last : n * e + n ≤ 256 := element_end_le hty hlt
    rw [reads n (a + n * e) pos (by omega) (by omega), Nat.add_sub_cancel_left]
    exact State.maskedBytes_element hty inside c hlt

end Sys2Proof.Machine

/-! ### Element-wise wide instructions (O9) -/

namespace Sys2Proof.Machine

theorem wideLegal_of {f : Fields} {bits : Nat} {tyOk : Bool} (hty : f.ty.val ≤ 8) (hu : uimm f < 2 ^ bits) (ok : tyOk = true)
    (hd : f.d.val < 16) (ha : f.a.val < 16) (hb : f.b.val < 16) : wideLegal f bits tyOk = true := by
  rw [wideLegal, formR_of_wide hty hu, ok, isW_of_lt hd, isW_of_lt ha, isW_of_lt hb]
  rfl

theorem typeFormat_of_int {ty : Nat} (h : ty ≤ 5) : typeFormat ty = none := by
  rw [typeFormat, if_neg (by omega), if_neg (by omega), if_neg (by omega)]

theorem dotInt_eq (ty : Nat) (a b : Nat → Nat) : dotInt ty a b = wrapInt 32 (typeInt ty (a 0) * typeInt ty (b 0) +
    typeInt ty (a 1) * typeInt ty (b 1) + typeInt ty (a 2) * typeInt ty (b 2) + typeInt ty (a 3) * typeInt ty (b 3)) := by
  simp [dotInt, List.range_succ]

/-- Settles O9: each row is element-wise with its own operation, which is the result of Table 3-5. -/
theorem wideElementwiseResults : Obligations.WideElementwiseResults := by
  unfold Obligations.WideElementwiseResults
  intro s core f h c ty b x y d bits leaves hd hty
  have hty8 : f.ty.val ≤ 8 := hty
  have wide := typeWide_of_le hty8
  have row : ∀ {i legal n op val}, exec i s = elementRow core f legal n op s → legal = true → (∀ e, op c e = val e) →
      leaves i n val := by
    intro i legal n op val hi hl hop
    obtain ⟨t, ht, written⟩ := elementRow_writes h hl n op
    exact ⟨t, hi.trans ht, funext hop ▸ written⟩
  have noB : uimm f = 0 → (formR f 0 && typeWide f.ty.val && isW f.d) = true := by
    intro hu
    rw [formR_of_wide hty8 (by omega), wide, isW_of_lt hd]
    rfl
  refine ⟨fun ha hb => ⟨fun hu => ?_, fun hu => ?_⟩, fun ha hu => ?_, fun hu => ⟨?_, ?_⟩⟩
  · have legal : wideLegal f 1 (typeWide f.ty.val) = true := wideLegal_of hty8 hu wide hd ha hb
    refine ⟨?_, ?_, ?_⟩
    · exact row (by rw [exec_wadd, execWadd, arithRow]) legal (fun _ => by rfl)
    · exact row (by rw [exec_wsub, execWsub, arithRow]) legal (fun _ => by rfl)
    · exact row (by rw [exec_wmul, execWmul, arithRow]) legal (fun _ => by rfl)
  · have legal : ∀ {ok : Bool}, ok = true → wideLegal f 0 ok = true := fun ok => wideLegal_of hty8 (by omega) ok hd ha hb
    refine ⟨fun h8 => ?_, fun h6 => ?_, fun h7 => ?_, fun h1 => ?_, fun hc => ?_, ?_, ?_, ?_⟩
    · exact row (by rw [exec_wfma, execWfma]) (legal (decide_eq_true h8)) (fun _ => by rfl)
    · have fp : typeFormat f.ty.val = some fp16 := by rw [show f.ty.val = 6 from h6]; rfl
      exact row (by rw [exec_wdot, execWdot]) (legal (by rw [show f.ty.val = 6 from h6]; rfl)) (fun _ => by rw [fp]; rfl)
    · have fp : typeFormat f.ty.val = some bf16 := by rw [show f.ty.val = 7 from h7]; rfl
      exact row (by rw [exec_wdot, execWdot]) (legal (by rw [show f.ty.val = 7 from h7]; rfl)) (fun _ => by rw [fp]; rfl)
    · have int : typeFormat f.ty.val = none := typeFormat_of_int (Nat.le_trans h1 (by decide))
      have ok : (f.ty.val = 6 || f.ty.val = 7 || f.ty.val ≤ 1) = true := by simp [show f.ty.val ≤ 1 from h1]
      exact row (by rw [exec_wdot, execWdot]) (legal ok) (fun _ => by rw [int, dotInt_eq]; rfl)
    · have ok : (wideLegal f 0 (typeWide f.ty.val) && isP f.c) = true := by rw [legal wide, isP_of_lt hc]; rfl
      exact row (by rw [exec_wsel, execWsel]) ok (fun _ => by rfl)
    · exact row (by rw [exec_wshuf, execWshuf]) (legal rfl) (fun _ => by rfl)
    · exact row (by rw [exec_wmax, execWmax]) (legal wide) (fun _ => by rfl)
    · exact row (by rw [exec_wmin, execWmin]) (legal wide) (fun _ => by rfl)
  · have ok : (formR f 4 && typeWide f.ty.val && typeWide (uimm f) && isW f.d && isW f.a) = true := by
      rw [formR_of_wide hty8 (by omega), wide, typeWide_of_le hu, isW_of_lt hd, isW_of_lt ha]
      rfl
    exact row (by rw [exec_wcvt, execWcvt]) ok (fun _ => by exact if_congr lt_min_iff rfl rfl)
  · exact row (by rw [exec_wbcast, execWbcast]) (noB hu) (fun _ => by rfl)
  · exact row (by rw [exec_wins, execWins]; rfl) (noB hu) (fun _ => by rfl)

end Sys2Proof.Machine

/-! ### Wide comparison (O10) -/

namespace Sys2Proof.Machine

/-- The comparison of element `e` of w[A] and w[B], with its flags. -/
def Core.comparison (c : Core) (f : Fields) (e : Nat) : Bool × FpFlags := elementCond f.ty.val (uimm f) (c.elA f e) (c.elB f e)

/-- WCMP at one element: the bit of p[D], and the flags, of an element that `c` enables. -/
def Core.compareAt (c : Core) (f : Fields) (x : Core) (e : Nat) : Core :=
  if c.governs f (typeBytes f.ty.val * e) then
    { x.setP f.d.val (putBit (x.getP f.d.val) (typeBytes f.ty.val * e) (c.comparison f e).1) with
      flags := x.flags.or (c.comparison f e).2 }
  else x

section
variable (c : Core) (f : Fields)

theorem Core.compareAt_on (x : Core) {e : Nat} (on : c.governs f (typeBytes f.ty.val * e) = true) : c.compareAt f x e =
    { x.setP f.d.val (putBit (x.getP f.d.val) (typeBytes f.ty.val * e) (c.comparison f e).1) with
      flags := x.flags.or (c.comparison f e).2 } :=
  if_pos on

theorem Core.compareAt_off (x : Core) {e : Nat} (off : ¬ c.governs f (typeBytes f.ty.val * e) = true) : c.compareAt f x e = x :=
  if_neg off

theorem Core.compareAt_frame (x : Core) (e : Nat) :
    c.compareAt f x e = { x with p := (c.compareAt f x e).p, flags := (c.compareAt f x e).flags } := by
  unfold Core.compareAt Core.setP
  split
  · split <;> rfl
  · rfl

theorem Core.foldl_compareAt_frame (l : List Nat) (x : Core) :
    l.foldl (c.compareAt f) x = { x with p := (l.foldl (c.compareAt f) x).p, flags := (l.foldl (c.compareAt f) x).flags } := by
  induction l generalizing x with
  | nil => rfl
  | cons e l ih =>
    rw [List.foldl_cons, ih, Core.compareAt_frame]

theorem Core.getP_compareAt_ne (x : Core) (e : Nat) {r : Nat} (h : r ≠ f.d.val) : (c.compareAt f x e).getP r = x.getP r := by
  unfold Core.compareAt
  split
  · exact (x.getP_setP _ _ _).trans (if_neg fun same => h same.1)
  · rfl

theorem Core.getP_foldl_compareAt_ne (l : List Nat) (x : Core) {r : Nat} (h : r ≠ f.d.val) :
    (l.foldl (c.compareAt f) x).getP r = x.getP r := by
  induction l generalizing x with
  | nil => rfl
  | cons e l ih => rw [List.foldl_cons, ih, Core.getP_compareAt_ne c f x e h]

theorem Core.flags_foldl_compareAt (l : List Nat) (x : Core) : (l.foldl (c.compareAt f) x).flags =
    (l.filter fun e => c.governs f (typeBytes f.ty.val * e)).foldl (fun a e => a.or (c.comparison f e).2) x.flags := by
  induction l generalizing x with
  | nil => rfl
  | cons e l ih =>
    rw [List.foldl_cons, ih, List.filter_cons]
    by_cases on : c.governs f (typeBytes f.ty.val * e) = true
    · rw [if_pos on, List.foldl_cons, Core.compareAt_on c f x on]
    · rw [if_neg on, Core.compareAt_off c f x on]

section
variable (hd : f.d.val ≠ 0) {i : Nat} (hi : i < 256)
include hd hi

theorem Core.getLsbD_compareAt (x : Core) (e : Nat) : ((c.compareAt f x e).getP f.d.val).getLsbD i =
    if i = typeBytes f.ty.val * e ∧ c.governs f i = true then (c.comparison f e).1 else (x.getP f.d.val).getLsbD i := by
  by_cases on : c.governs f (typeBytes f.ty.val * e) = true
  · have written : (c.compareAt f x e).getP f.d.val =
        putBit (x.getP f.d.val) (typeBytes f.ty.val * e) (c.comparison f e).1 := by
      rw [Core.compareAt_on c f x on]
      exact (x.getP_setP _ _ _).trans (if_pos ⟨rfl, hd⟩)
    rw [written, getLsbD_putBit _ _ _ _ hi]
    exact if_congr ⟨fun at_ => ⟨at_, at_ ▸ on⟩, And.left⟩ rfl rfl
  · rw [Core.compareAt_off c f x on, if_neg]
    rintro ⟨rfl, on'⟩
    exact on on'

/-- The bits of p[D] once the elements of a list are compared. -/
theorem Core.getLsbD_foldl_compareAt (l : List Nat) (x : Core) : ((l.foldl (c.compareAt f) x).getP f.d.val).getLsbD i =
    if i % typeBytes f.ty.val = 0 ∧ i / typeBytes f.ty.val ∈ l ∧ c.governs f i = true then
      (c.comparison f (i / typeBytes f.ty.val)).1
    else (x.getP f.d.val).getLsbD i := by
  have pos := typeBytes_pos f.ty.val
  induction l generalizing x with
  | nil => simp
  | cons e l ih =>
    have here : i = typeBytes f.ty.val * e ↔ i % typeBytes f.ty.val = 0 ∧ i / typeBytes f.ty.val = e := by
      constructor
      · rintro rfl
        exact ⟨Nat.mul_mod_right _ _, Nat.mul_div_cancel_left _ pos⟩
      · rintro ⟨multiple, rfl⟩
        exact (Nat.mul_div_cancel' (Nat.dvd_of_mod_eq_zero multiple)).symm
    rw [List.foldl_cons, ih, Core.getLsbD_compareAt c f hd hi]
    simp only [List.mem_cons, here]
    grind

end

end

/-- Settles O10: the row compares the elements one by one, each of which changes its own bit of p[D] and the flags alone. -/
theorem wideComparisonWritesPredicateBits : Obligations.WideComparisonWritesPredicateBits := by
  unfold Obligations.WideComparisonWritesPredicateBits
  intro s core f h hty hu hd ha hb c b cmp
  have legal : (formR f 3 && typeWide f.ty.val && isP f.d && isW f.a && isW f.b) = true := by
    rw [formR_of_wide hty hu, typeWide_of_le hty, isP_of_lt hd, isW_of_lt ha, isW_of_lt hb]
    rfl
  refine ⟨(List.range (elementCount b)).foldl (c.compareAt f) c, ?_, c.foldl_compareAt_frame f _ c,
    fun r hr => c.getP_foldl_compareAt_ne f _ c hr, fun _ => rfl, fun hd0 i hi => ?_, c.flags_foldl_compareAt f _ c⟩
  · exact registerRow_runs h legal (fun scalar => absurd scalar Bool.false_ne_true) fun c =>
      (List.range (elementCount b)).foldl (c.compareAt f) c
  · have inside : i / b ∈ List.range (elementCount b) :=
      List.mem_range.2 (Nat.div_lt_of_lt_mul (by rw [elementCount_mul_wide hty]; exact hi))
    exact (c.getLsbD_foldl_compareAt f hd0 hi _ c).trans (if_congr (and_congr_right fun _ => and_iff_right inside) rfl rfl)

end Sys2Proof.Machine

/-! ### Reductions and single elements (O11) -/

namespace Sys2Proof.Machine

theorem Core.intSum_eq (c : Core) (f : Fields) : c.intSum f =
    BitVec.ofInt 64 ((List.range (elementCount (typeBytes f.ty.val))).map fun e => typeInt f.ty.val (c.elA f e)).sum := by
  rw [Core.intSum, Core.elementsA, List.foldl_map, List.sum_eq_foldl, List.foldl_map]

theorem Core.map_elementsA {α : Type} (c : Core) (f : Fields) (g : Nat → α) :
    (c.elementsA f).map g = (List.range (elementCount (typeBytes f.ty.val))).map fun e => g (c.elA f e) := by
  rw [Core.elementsA, List.map_map]
  rfl

/-- Settles O11: each row by the format of its TYPE, or by whether the index names an element. -/
theorem reductionsAndSingleElements : Obligations.ReductionsAndSingleElements := by
  unfold Obligations.ReductionsAndSingleElements
  intro s core f h he hf hty ha c b x sum wrote idx
  have exe : true = true → (s.core core).executes f = true := fun _ => he
  have legal : (formR f 0 && typeWide f.ty.val && isW f.a) = true := by
    rw [hf, typeWide_of_le hty, isW_of_lt ha]
    rfl
  refine ⟨fun int => ?_, fun fm hfm => ⟨?_, ?_⟩, fun hlt => ?_, fun hle => ?_⟩
  · have none := typeFormat_of_int int
    constructor
    · rw [exec_wredu, execWredu, registerRow_runs h legal exe, none]
      exact congrArg (fun v => Host.Outcome.next (wrote v)) (c.intSum_eq f)
    · rw [exec_wreduU, execWreduU, coreRow_runs _ h legal exe, none]
      exact congrArg (fun v => Host.Outcome.next (wrote v)) (c.intSum_eq f)
  · rw [exec_wredu, execWredu, registerRow_runs h legal exe, hfm]
    simp only [Core.map_elementsA]
    rfl
  · rw [exec_wreduU, execWreduU, coreRow_runs _ h legal exe, hfm]
    simp only [Core.map_elementsA]
    rfl
  · rw [exec_wext, execWext, registerRow_runs h legal exe]
    exact congrArg (fun v => Host.Outcome.next (wrote v)) (if_pos hlt)
  · rw [exec_wext, execWext, registerRow_runs h legal exe]
    exact congrArg (fun v => Host.Outcome.next (wrote v)) (if_neg (Nat.not_lt.2 hle))

end Sys2Proof.Machine

/-! ### Integer results (O12) -/

namespace Sys2Proof.Machine

theorem natCast_wrapInt (w : Nat) (i : Int) : (wrapInt w i : Int) = i % 2 ^ w := by
  rw [wrapInt, Int.toNat_of_nonneg (Int.emod_nonneg _ (by positivity)), Nat.cast_pow, Nat.cast_ofNat]

theorem wrapInt_lt (w : Nat) (i : Int) : wrapInt w i < 2 ^ w := by
  have lt : (wrapInt w i : Int) < 2 ^ w := natCast_wrapInt w i ▸ Int.emod_lt_of_pos i (by positivity)
  exact_mod_cast lt

/-- The bits of a TYPE stand for a number of their residue class. -/
theorem dvd_typeInt_sub (ty n : Nat) : (2 ^ (8 * typeBytes ty) : Int) ∣ typeInt ty n - n := by
  have low : (2 ^ (8 * typeBytes ty) : Int) ∣ ((n % 2 ^ (8 * typeBytes ty) : Nat) : Int) - n := by
    push_cast
    exact (dvd_sub_comm).1 (Int.dvd_self_sub_of_emod_eq rfl)
  simp only [typeInt, signedOf]
  split
  · split
    · exact low
    · rw [sub_right_comm]
      exact dvd_sub low (by push_cast; exact dvd_rfl)
  · rw [sub_self]
    exact dvd_zero _

theorem dvd_typeInt_wrapInt_sub (ty : Nat) (i : Int) :
    (2 ^ (8 * typeBytes ty) : Int) ∣ typeInt ty (wrapInt (8 * typeBytes ty) i) - i := by
  have low : (2 ^ (8 * typeBytes ty) : Int) ∣ wrapInt (8 * typeBytes ty) i - i := by
    rw [natCast_wrapInt]
    exact (dvd_sub_comm).1 (Int.dvd_self_sub_of_emod_eq rfl)
  have sum := dvd_add (dvd_typeInt_sub ty (wrapInt (8 * typeBytes ty) i)) low
  rwa [sub_add_sub_cancel] at sum

/-- The least number of an integer TYPE. -/
def typeMin (ty : Nat) : Int := if typeSigned ty then -(2 ^ (8 * typeBytes ty - 1)) else 0

/-- The greatest number of an integer TYPE. -/
def typeMax (ty : Nat) : Int := if typeSigned ty then 2 ^ (8 * typeBytes ty - 1) - 1 else 2 ^ (8 * typeBytes ty) - 1

theorem intRange_eq (ty : Nat) : intRange (typeSigned ty) (8 * typeBytes ty) = (typeMin ty, typeMax ty) := by
  unfold intRange typeMin typeMax
  split
  · push_cast; rfl
  · push_cast; rfl

theorem two_pow_typeBits (ty : Nat) : 2 ^ (8 * typeBytes ty) = 2 * 2 ^ (8 * typeBytes ty - 1) := by
  have pos := typeBytes_pos ty
  rw [← pow_succ', Nat.sub_add_cancel (by omega)]

theorem typeMax_eq (ty : Nat) : typeMax ty = typeMin ty + 2 ^ (8 * typeBytes ty) - 1 := by
  have full : (2 : Int) ^ (8 * typeBytes ty) = 2 * 2 ^ (8 * typeBytes ty - 1) := by exact_mod_cast two_pow_typeBits ty
  unfold typeMin typeMax
  split <;> omega

/-- What the bits of a TYPE stand for lies in its range. -/
theorem typeInt_mem_range {ty n : Nat} (h : n < 2 ^ (8 * typeBytes ty)) :
    typeMin ty ≤ typeInt ty n ∧ typeInt ty n ≤ typeMax ty := by
  have full := two_pow_typeBits ty
  simp only [typeInt, signedOf, typeMin, typeMax, Nat.mod_eq_of_lt h]
  split
  · zify at *
    split <;> omega
  · zify at *
    omega

/-- A number in the range of a TYPE is what its low bits stand for. -/
theorem typeInt_wrapInt {ty : Nat} {i : Int} (h0 : typeMin ty ≤ i) (h1 : i ≤ typeMax ty) :
    typeInt ty (wrapInt (8 * typeBytes ty) i) = i := by
  obtain ⟨low, high⟩ := typeInt_mem_range (wrapInt_lt (8 * typeBytes ty) i)
  have span := typeMax_eq ty
  exact sub_eq_zero.1 (Int.eq_zero_of_abs_lt_dvd (dvd_typeInt_wrapInt_sub ty i) (abs_lt.2 ⟨by omega, by omega⟩))

theorem typeInt_saturate (ty : Nat) (i : Int) :
    typeInt ty (saturate (typeSigned ty) (8 * typeBytes ty) i) = max (typeMin ty) (min (typeMax ty) i) := by
  have span := typeMax_eq ty
  have one : (1 : Int) ≤ 2 ^ (8 * typeBytes ty) := one_le_pow₀ (by norm_num)
  rw [saturate, intRange_eq]
  exact typeInt_wrapInt (le_max_left _ _) (max_le (by omega) (min_le_left _ _))

theorem arithElement_int {ty : Nat} (h : ty ≤ 5) (sat : Bool) (fp : Format → Nat → Nat → Nat × FpFlags)
    (op : Int → Int → Int) (a b : Nat) :
    (arithElement ty sat fp op a b).1 = intResult ty sat (op (typeInt ty a) (typeInt ty b)) := by
  rw [arithElement, typeFormat_of_int h]

/-! Scalar results, read back as numbers. -/

theorem Core.setS_exception (c : Core) (r : Nat) (v : BitVec 64) : (c.setS r v).exception = c.exception := by
  unfold Core.setS
  split <;> rfl

@[simp] theorem Core.getS_retire (c : Core) (r : Nat) : c.retire.getS r = c.getS r := rfl

theorem Core.getS_setS_self (c : Core) {r : Nat} (h : r ≠ 0) (v : BitVec 64) : (c.setS r v).getS r = v := by
  rw [Core.getS_setS, if_pos ⟨rfl, h⟩]

/-- The state in which a core has written s[D] reads it there. -/
theorem State.getS_written (s : State) (core : Nat) (c : Core) {d : Nat} (hd : d ≠ 0) (v : BitVec 64) :
    ((s.setCore core (c.setS d v).retire).core core).getS d = v := by
  rw [State.core_setCore_self, Core.getS_retire, Core.getS_setS_self c hd]

theorem toNat_add_signExtend {w : Nat} (x : BitVec 64) (imm : BitVec w) :
    ((x + imm.signExtend 64).toNat : Int) = (x.toNat + imm.toInt) % 2 ^ 64 := by
  rw [BitVec.toNat_add, BitVec.signExtend, BitVec.toNat_ofInt]
  push_cast
  rw [Int.toNat_of_nonneg (Int.emod_nonneg _ (by norm_num)), Int.add_emod_emod]

theorem toNat_sub_wraps (a b : BitVec 64) : (a - b).toNat = (a.toNat + 2 ^ 64 - b.toNat) % 2 ^ 64 := by
  rw [BitVec.toNat_sub, ← Nat.sub_add_comm (Nat.le_of_lt b.isLt), Nat.add_comm]

/-- Settles O12: an integer element is the wrapped or saturated result, which its TYPE reads back; the scalar rows are O1 and O2. -/
theorem integerArithmeticWrapsOrSaturates : Obligations.IntegerArithmeticWrapsOrSaturates := by
  unfold Obligations.IntegerArithmeticWrapsOrSaturates
  constructor
  · intro ty a b sat fp op hty w v r lo hi
    have result : r = intResult ty sat v := arithElement_int hty sat fp op a b
    rw [result, intResult]
    cases sat with
    | false => exact ⟨wrapInt_lt w v, fun _ => dvd_typeInt_wrapInt_sub ty v, fun on => absurd on Bool.false_ne_true⟩
    | true => exact ⟨wrapInt_lt w _, fun off => absurd off.symm Bool.false_ne_true, fun _ => typeInt_saturate ty v⟩
  · intro s core f h he hd c x y
    obtain ⟨arith, addi⟩ := scalarArithmeticWritesDestination s core f h he
    refine ⟨fun hf => ?_, fun hf => ⟨_, addi hf, ?_⟩⟩
    · obtain ⟨add, sub, -, -, -, mul, -⟩ := arith hf
      refine ⟨⟨_, add, ?_⟩, ⟨_, sub, ?_⟩, ⟨_, mul, ?_⟩, fun hty hd30 hy => ?_⟩
      · rw [State.getS_written s core c hd, BitVec.toNat_add]
      · rw [State.getS_written s core c hd, toNat_sub_wraps]
      · rw [State.getS_written s core c hd, BitVec.toNat_mul]
      · obtain ⟨division, -⟩ := divisionResults s core f h he hf
        obtain ⟨byZero, -⟩ := division hty hd30
        refine ⟨_, byZero (BitVec.eq_of_toNat_eq hy), ?_, ?_, ?_⟩
        · rw [State.core_setCore_self]
          exact (Core.setS_exception _ _ _).trans (Core.setS_exception _ _ _)
        · rw [State.core_setCore_self, Core.getS_retire, Core.getS_setS, if_neg (by omega),
            Core.getS_setS_self c hd, BitVec.toNat_allOnes]
        · rw [State.core_setCore_self, Core.getS_retire, Core.getS_setS_self _ (Nat.succ_ne_zero _)]
    · rw [State.getS_written s core c hd, toNat_add_signExtend]

end Sys2Proof.Machine

/-! ### Mailboxes and region tokens (O14) -/

namespace Sys2Proof.Machine

/-- The form of MBSEND and MBRECV, whose register `r` is a wide one under IMM[0]. -/
theorem channel_legal {f : Fields} {r : Fin 32} (hf : formR f 4 = true) (hr : immWide f = true → r.val < 16) :
    (formR f 4 && (!immWide f || isW r)) = true := by
  cases hw : immWide f with
  | false => rw [hf]; rfl
  | true => rw [hf, isW_of_lt (hr hw)]; rfl

section
variable {s : State} {core : Nat} {f : Fields} (he : (s.core core).executes f = true) (hf : formR f 4 = true)
include he hf

theorem exec_mbsend_sends (h : s.takes core f .send = true) (ha : immWide f = true → f.a.val < 16) :
    exec (.mbsend core f) s = .next (s.sendOn core (immChannel f)
      (if immWide f then .wide ((s.core core).getW f.a.val) else .scalar ((s.core core).getS f.a.val))) := by
  rw [exec_mbsend, execMbsend, coreRow_runs _ h (channel_legal hf ha) fun _ => he]

theorem exec_mbrecv_receives (h : s.takes core f .recv = true) (hd : immWide f = true → f.d.val < 16) :
    exec (.mbrecv core f) s = .next (s.receiveOn core f) := by
  rw [exec_mbrecv, execMbrecv, coreRow_runs _ h (channel_legal hf hd) fun _ => he]

end

/-! Sending. -/

theorem State.sendOn_unbound {s : State} {core ch : Nat} (hp : s.channelPeer core 0 ch = none) (m : ChanMsg) :
    s.sendOn core ch m = s.exception core EX_CHAN := by
  rw [State.sendOn, hp]

section
variable {s : State} {core ch d dch : Nat} (hp : s.channelPeer core 0 ch = some (d, dch)) {m : ChanMsg}
include hp

theorem State.sendOn_queues
    (hr : msgBytes (queueAt (s.core d).inq dch) + msgBytes (queueAt (s.core core).outq ch) + m.size ≤ 512) :
    s.sendOn core ch m = s.setCore core { (s.core core).retire with
      outq := setQueue (s.core core).outq ch (queueAt (s.core core).outq ch ++ [m]) } := by
  rw [State.sendOn, hp]
  exact if_pos hr

theorem State.sendOn_blocks (hr : 512 < msgBytes (queueAt (s.core d).inq dch) + msgBytes (queueAt (s.core core).outq ch) + m.size) :
    s.sendOn core ch m = s.block core .send := by
  rw [State.sendOn, hp]
  exact if_neg (Nat.not_le.2 hr)

end

/-! Receiving. -/

theorem State.receiveOn_unbound {s : State} {core : Nat} {f : Fields} (hp : s.channelPeer core 1 (immChannel f) = none) :
    s.receiveOn core f = s.exception core EX_CHAN := by
  rw [State.receiveOn, hp]

section
variable {s : State} {core src sch : Nat} {f : Fields} (hp : s.channelPeer core 1 (immChannel f) = some (src, sch))
include hp

theorem State.receiveOn_empty (hq : queueAt (s.core core).inq (immChannel f) = []) : s.receiveOn core f = s.block core .recv := by
  simp only [State.receiveOn, hp, hq]

theorem State.receiveOn_otherKind {m : ChanMsg} {rest : List ChanMsg} (hq : queueAt (s.core core).inq (immChannel f) = m :: rest)
    (hm : (s.core core).receive f m = none) : s.receiveOn core f = s.exception core EX_CHAN := by
  simp only [State.receiveOn, hp, hq, hm]

theorem State.receiveOn_scalar {v : BitVec 64} {rest : List ChanMsg}
    (hq : queueAt (s.core core).inq (immChannel f) = .scalar v :: rest) (hw : immWide f = false) :
    s.receiveOn core f = (s.setCore core { ((s.core core).setS f.d.val v).retire with
      inq := setQueue (s.core core).inq (immChannel f) rest }).wake src .send := by
  simp only [State.receiveOn, hp, hq, Core.receive, hw, Bool.false_eq_true, if_false]

theorem State.receiveOn_wide {v : BitVec 2048} {rest : List ChanMsg}
    (hq : queueAt (s.core core).inq (immChannel f) = .wide v :: rest) (hw : immWide f = true) :
    s.receiveOn core f = (s.setCore core { ((s.core core).setW f.d.val v).retire with
      inq := setQueue (s.core core).inq (immChannel f) rest }).wake src .send := by
  simp only [State.receiveOn, hp, hq, Core.receive, hw, if_true]

/-- A token makes the core its region's owner. -/
theorem State.receiveOn_region {r : Nat} {rest : List ChanMsg}
    (hq : queueAt (s.core core).inq (immChannel f) = .region r :: rest) (hw : immWide f = false) :
    s.receiveOn core f = ((s.setCore core { ((s.core core).setS f.d.val (BitVec.ofNat 64 r)).retire with
      inq := setQueue (s.core core).inq (immChannel f) rest }).setKennel (kennelOf core) { s.kennel (kennelOf core) with
        regions := (s.kennel (kennelOf core)).regions.insert r (.owned (coreIndex core)) }).wake src .send := by
  simp only [State.receiveOn, hp, hq, Core.receive, hw, Bool.false_eq_true, if_false, State.kennel_setCore]

end

/-- A message of the kind that IMM does not name. -/
theorem Core.receive_otherKind (c : Core) {f : Fields} {m : ChanMsg} (h : immWide f = true ↔ ∀ v, m ≠ .wide v) :
    c.receive f m = none := by
  cases m with
  | scalar v => exact if_pos (h.2 fun _ => ChanMsg.noConfusion)
  | region r => exact if_pos (h.2 fun _ => ChanMsg.noConfusion)
  | wide v => exact if_neg fun hw => h.1 hw v rfl

theorem not_isEmpty_eq_decide (l : List ChanMsg) : (!l.isEmpty) = decide (l ≠ []) := by
  cases l <;> rfl

/-! Giving a region away. -/

section
variable {s : State} {core region ch : Nat}

theorem State.kgive_notOwner (h : (s.kennel (kennelOf core)).regions.find region ≠ some (.owned (coreIndex core))) :
    s.kgive core region ch = s.exception core EX_OWN := by
  simp [State.kgive, h]

variable (hr : region < 256) (ho : (s.kennel (kennelOf core)).regions.find region = some (.owned (coreIndex core)))
include hr ho

theorem State.kgive_unbound (hp : s.channelPeer core 0 ch = none) : s.kgive core region ch = s.exception core EX_CHAN := by
  simp [State.kgive, Nat.not_le.2 hr, ho, hp]

variable {d dch : Nat} (hp : s.channelPeer core 0 ch = some (d, dch))
include hp

theorem State.kgive_otherKennel (hd : kennelOf d ≠ kennelOf core) : s.kgive core region ch = s.exception core EX_CHAN := by
  simp [State.kgive, Nat.not_le.2 hr, ho, hp, hd]

theorem State.kgive_gives (hd : kennelOf d = kennelOf core) : s.kgive core region ch =
    (s.setKennel (kennelOf core) { s.kennel (kennelOf core) with
      regions := (s.kennel (kennelOf core)).regions.insert region .inFlight }).setCore core { (s.core core).retire with
        outq := setQueue (s.core core).outq ch (queueAt (s.core core).outq ch ++ [.region region]) } := by
  simp [State.kgive, Nat.not_le.2 hr, ho, hp, hd]

end

/-! Delivery. -/

/-- What is queued outbound at a core is no part of any inbound channel. -/
theorem State.inq_setCore_outq (s : State) (core d : Nat) (q : Tab (List ChanMsg)) :
    ((s.setCore core { s.core core with outq := q }).core d).inq = (s.core d).inq := by
  by_cases same : d = core
  · subst same
    rw [State.core_setCore_self]
  · rw [State.core_setCore_ne s same]

theorem State.deliverMail_delivers {s : State} {core ch d dch : Nat} {m : ChanMsg} {rest : List ChanMsg}
    (hp : s.channelPeer core 0 ch = some (d, dch)) (hq : queueAt (s.core core).outq ch = m :: rest)
    (hm : (s.core core).mayLeave m = true) (hr : msgBytes (queueAt (s.core d).inq dch) + m.size ≤ 512) :
    s.deliverMail core ch =
      let t := s.setCore core { s.core core with outq := setQueue (s.core core).outq ch rest }
      ((t.setCore d { t.core d with inq := setQueue (t.core d).inq dch (queueAt (s.core d).inq dch ++ [m]) }).wake d .recv).deadlock
        core := by
  simp [State.deliverMail, hp, hq, hm, hr, State.inq_setCore_outq]

theorem exec_mailboxDeliver_live {s : State} {core : Nat} (hl : s.live = true) (hc : s.hasCore core = true) (ch : Nat) :
    exec (.mailboxDeliver core ch) s = .next (s.deliverMail core ch) := by
  rw [exec_mailboxDeliver, execMailboxDeliver, hc, if_neg (by decide), act_live hl]

/-- Settles O14: each row by its channel's binding and what is queued there. -/
theorem mailboxAndRegionInstructionsComplete : Obligations.MailboxAndRegionInstructionsComplete := by
  unfold Obligations.MailboxAndRegionInstructionsComplete
  intro s core f hf he c ch wide queued inbox ken m
  have exe : true = true → (s.core core).executes f = true := fun _ => he
  have next : ∀ {t u : State}, t = u → (Host.Outcome.next t : Host.Outcome State Fault Refusal) = .next u := congrArg _
  refine ⟨fun h ha => ?_, fun h hd => ?_, fun h hw => ⟨fun hd => ?_, ?_⟩, fun hl hc d dch x rest hp hq hm hr => ?_⟩
  · rw [exec_mbsend_sends he hf h ha]
    exact ⟨fun hp => next (State.sendOn_unbound hp _), fun d dch hp => ⟨fun hr => next (State.sendOn_queues hp hr),
      fun hr => next (State.sendOn_blocks hp hr)⟩⟩
  · rw [exec_mbrecv_receives he hf h hd]
    exact ⟨fun hp => next (State.receiveOn_unbound hp), fun src sch hp => ⟨fun hq => next (State.receiveOn_empty hp hq),
      fun v rest hq hw => next (State.receiveOn_scalar hp hq hw), fun v rest hq hw => next (State.receiveOn_wide hp hq hw),
      fun r rest hq hw => next (State.receiveOn_region hp hq hw),
      fun x rest hq hk => next (State.receiveOn_otherKind hp hq (Core.receive_otherKind c hk))⟩⟩
  · have legal : (formR f 4 && !immWide f && isP f.d) = true := by
      rw [hf, show immWide f = false from hw, isP_of_lt hd]
      rfl
    rw [exec_mbpoll, execMbpoll, registerRow_runs h legal exe, not_isEmpty_eq_decide]
    rfl
  · have legal : (formR f 4 && !immWide f) = true := by
      rw [hf, show immWide f = false from hw]
      rfl
    rw [exec_kgive, execKgive, coreRow_runs _ h legal exe]
    exact ⟨fun ho => next (State.kgive_notOwner ho), fun hr ho => ⟨fun hp => next (State.kgive_unbound hr ho hp),
      fun d dch hp => ⟨fun hd => next (State.kgive_otherKennel hr ho hp hd),
        fun hd => next (State.kgive_gives hr ho hp hd)⟩⟩⟩
  · rw [exec_mailboxDeliver_live hl hc, State.deliverMail_delivers hp hq hm hr]

end Sys2Proof.Machine

/-! ### Copies, waits and overlays (O15) -/

namespace Sys2Proof.Machine

/-- The hub buffer or table that s[A] names for a core's hedge. -/
def State.namedBuffer (s : State) (core : Nat) (f : Fields) : Option HubBuffer :=
  (s.bindingOf core).bind fun b => s.hubBuffer b.hedge ((s.core core).getS f.a.val).toNat

/-- The copy that GET or PUT starts: the core address in s[D], the handle in s[A], the offset in s[B], the length in s[C]. -/
def Core.copyOp (c : Core) (f : Fields) (put : Bool) : TagOp :=
  ⟨put, (c.getS f.d.val).toNat, (c.getS f.a.val).toNat, (c.getS f.b.val).toNat, (c.getS f.c.val).toNat⟩

theorem copyRange_inside {n off len : Nat} (h0 : 1 ≤ n) (h1 : n ≤ 65536) (hlen : off + n ≤ len) :
    (decide (n = 0) || decide (65536 < n) || decide (len < off + n)) = false := by
  simp only [Bool.or_eq_false_iff, decide_eq_false_iff_not]
  omega

section
variable {s : State} {core : Nat} {f : Fields} {put : Bool}

theorem State.startCopy_waits (ht : ((s.core core).tags.find (uimm f)).isSome = true) :
    s.startCopy core f put = s.setCore core { s.core core with blocked := .tag } :=
  if_pos ht

variable (ht : (s.core core).tags.find (uimm f) = none)
include ht

theorem State.startCopy_unknown (hb : s.namedBuffer core f = none) : s.startCopy core f put = s.exception core EX_BOUNDS := by
  rw [State.namedBuffer] at hb
  simp [State.startCopy, ht, hb]

variable {b : HubBuffer} (hb : s.namedBuffer core f = some b)
include hb

theorem State.startCopy_beyond (hn : ((s.core core).getS f.c.val).toNat = 0 ∨ 65536 < ((s.core core).getS f.c.val).toNat ∨
      b.length < ((s.core core).getS f.b.val).toNat + ((s.core core).getS f.c.val).toNat) :
    s.startCopy core f put = s.exception core EX_BOUNDS := by
  rw [State.namedBuffer] at hb
  simp only [State.startCopy, ht, hb, Option.isSome_none, Bool.false_eq_true, if_false]
  exact if_pos (by simpa [or_assoc] using hn)

variable (h0 : 1 ≤ ((s.core core).getS f.c.val).toNat) (h1 : ((s.core core).getS f.c.val).toNat ≤ 65536)
  (hlen : ((s.core core).getS f.b.val).toNat + ((s.core core).getS f.c.val).toNat ≤ b.length)
include h0 h1 hlen

theorem State.startCopy_faults {code : Nat}
    (hx : s.accessFault core ((s.core core).getS f.d.val).toNat ((s.core core).getS f.c.val).toNat 1 (!put) = some code) :
    s.startCopy core f put = s.exception core code := by
  rw [State.namedBuffer] at hb
  simp only [State.startCopy, ht, hb, hx, copyRange_inside h0 h1 hlen, Option.isSome_none, Bool.false_eq_true, if_false]

theorem State.startCopy_starts
    (hx : s.accessFault core ((s.core core).getS f.d.val).toNat ((s.core core).getS f.c.val).toNat 1 (!put) = none) :
    s.startCopy core f put = s.setCore core { (s.core core).retire with
      tags := (s.core core).tags.insert (uimm f) ((s.core core).copyOp f put) } := by
  rw [State.namedBuffer] at hb
  simp only [State.startCopy, ht, hb, hx, copyRange_inside h0 h1 hlen, Option.isSome_none, Bool.false_eq_true, if_false]
  rfl

end

/-- The copy under a tag, of a handle that still names something, moves its bytes and frees the tag. -/
theorem State.tagComplete_moves {s : State} {core tag : Nat} {op : TagOp} {b : HubBuffer}
    (ht : (s.core core).tags.find tag = some op) (hb : ((s.bindingOf core).bind fun b => s.hubBuffer b.hedge op.handle) = some b) :
    s.tagComplete core tag =
      let t := s.moveCopy core op b
      ((t.setCore core { t.core core with tags := (t.core core).tags.erase tag }).wake core .tag).deadlock core := by
  simp only [State.tagComplete, ht, hb]

theorem exec_tagComplete_live {s : State} {core : Nat} (hl : s.live = true) (hc : s.hasCore core = true) (tag : Fin 16) :
    exec (.tagComplete core tag) s = .next (s.tagComplete core tag) := by
  rw [exec_tagComplete, execTagComplete, hc, if_neg (by decide), act_live hl]

/-! OVL by where its source lies. -/

section
variable {s : State} {core a : Nat} (c : Core)

theorem State.overlay_outside (h : ¬ inCoreMap a 2048) : s.overlay core a c = s.exception core EX_ADDR :=
  if_pos ((coreSpaceOf_nowhere_iff a 2048).2 h)

theorem coreSpaceOf_data {a n : Nat} (h0 : 0x10000 ≤ a) (h1 : a + n ≤ 0x13000) : coreSpaceOf a n = .data := by
  rw [coreSpaceOf_eq, if_pos ⟨h0, h1⟩]

theorem State.overlay_fromData (h0 : 0x10000 ≤ a) (h1 : a + 2048 ≤ 0x13000) : s.overlay core a c = s.exception core EX_OWN := by
  simp [State.overlay, coreSpaceOf_data h0 h1]

variable (h0 : 0x100000 ≤ a) (h1 : a + 2048 ≤ 0x140000)
include h0 h1

theorem State.overlay_notShared
    (h : a % 2048 ≠ 0 ∨ ∃ r ∈ regionsOf a 2048, (s.kennel (kennelOf core)).regions.find r ≠ some .shared) :
    s.overlay core a c = s.exception core EX_OWN := by
  have bad : (decide (coreSpaceOf a 2048 ≠ .store) || decide (a % 2048 ≠ 0) ||
      !((regionsOf a 2048).all fun r => (s.kennel (kennelOf core)).regions.find r = some .shared)) = true := by
    rcases h with unaligned | ⟨r, hr, hs⟩
    · simp [unaligned]
    · have notAll : ((regionsOf a 2048).all fun r => (s.kennel (kennelOf core)).regions.find r = some .shared) = false :=
        List.all_eq_false.2 ⟨r, hr, by simpa using hs⟩
      simp [notAll]
  rw [State.overlay, coreSpaceOf_store h0 h1, if_neg CoreSpace.noConfusion]
  rw [coreSpaceOf_store h0 h1] at bad
  exact if_pos bad

theorem State.overlay_loads (h : a % 2048 = 0)
    (hs : ∀ r ∈ regionsOf a 2048, (s.kennel (kennelOf core)).regions.find r = some .shared)
    (hx : s.accessFault core a 2048 2048 false = none) :
    s.overlay core a c = s.setCore core { c.retire with imem := c.imem.write 0x800 (s.coreRead core a 2048), pc := 0x800 } := by
  have shared : ((regionsOf a 2048).all fun r => (s.kennel (kennelOf core)).regions.find r = some .shared) = true := by
    simpa using hs
  simp [State.overlay, coreSpaceOf_store h0 h1, h, shared, hx]

end

/-- Settles O15: each row by its tag, its handle and its ranges. -/
theorem copiesWaitsAndOverlaysComplete : Obligations.CopiesWaitsAndOverlaysComplete := by
  unfold Obligations.CopiesWaitsAndOverlaysComplete
  intro s core f c tag handle off n at_ buffer src ken
  have next : ∀ {t u : State}, t = u → (Host.Outcome.next t : Host.Outcome State Fault Refusal) = .next u := congrArg _
  refine ⟨fun h he hf => ⟨fun i put hi => ?_, fun ht => ?_, fun ht => ?_⟩, fun h he hf => ⟨fun ht => ?_, fun ht => ?_⟩,
    fun hl hc g op b ht hb => ?_, fun h he hf => ?_⟩
  · have starts : exec i s = .next (s.startCopy core f put) := by
      rcases hi with ⟨rfl, rfl⟩ | ⟨rfl, rfl⟩
      · rw [exec_get, execGet, coreRow_runs _ h hf fun _ => he]
      · rw [exec_put, execPut, coreRow_runs _ h hf fun _ => he]
    rw [starts]
    refine ⟨fun ht => next (State.startCopy_waits ht), fun ht => ⟨?_, fun b hb h0 h1 hlen =>
      ⟨fun hx => next (State.startCopy_starts ht hb h0 h1 hlen hx),
        fun code hx => next (State.startCopy_faults ht hb h0 h1 hlen hx)⟩⟩⟩
    · rintro (unknown | ⟨b, hb, beyond⟩)
      · exact next (State.startCopy_unknown ht unknown)
      · exact next (State.startCopy_beyond ht hb beyond)
  · rw [exec_wait, execWait, coreRow_runs _ h hf fun _ => he, ht]
    rfl
  · rw [exec_wait, execWait, coreRow_runs _ h hf fun _ => he, if_pos ht]
  · rw [exec_fence, execFence, coreRow_runs _ h hf fun _ => he, ht]
    rfl
  · rw [exec_fence, execFence, coreRow_runs _ h hf fun _ => he, if_pos (by simpa using ht)]
  · rw [exec_tagComplete_live hl hc, State.tagComplete_moves ht hb]
  · rw [exec_ovl, execOvl, coreRow_runs _ h hf fun _ => he]
    refine ⟨fun h0 h1 ha hs hx => next (State.overlay_loads c h0 h1 ha hs hx), fun outStore outData => ?_, ?_⟩
    · exact next (State.overlay_outside c fun inside => inside.elim outData outStore)
    · rintro (⟨h0, h1⟩ | ⟨⟨h0, h1⟩, bad⟩)
      · exact next (State.overlay_fromData c h0 h1)
      · exact next (State.overlay_notShared c h0 h1 bad)

end Sys2Proof.Machine

/-! ### Samples in and out of the cores (O16) -/

namespace Sys2Proof.Machine

section
variable {s : State} {core : Nat} {f : Fields} (h : s.takes core f .no = true) (he : (s.core core).executes f = true)
include h he

theorem exec_sin_runs (hf : formR f 0 = true) (hd : f.d.val ≤ 28) : exec (.sin core f) s = .next (
    if (s.core core).held.isSome then s.exception core EX_SAMPLE
    else s.setCore core { s.core core with blocked := .sin f.d.val }) := by
  have legal : (formR f 0 && f.d.val ≤ 28) = true := by simp [hf, hd]
  rw [exec_sin, execSin, coreRow_runs _ h legal fun _ => he]

theorem exec_sdone_runs (hf : formR f 0 = true) : exec (.sdone core f) s = .next (s.sdone core).heelSettle := by
  rw [exec_sdone, execSdone, coreRow_runs _ h hf fun _ => he]

theorem exec_oalloc_runs (hf : formR f 0 = true) : exec (.oalloc core f) s = .next (s.oalloc core f) := by
  rw [exec_oalloc, execOalloc, coreRow_runs _ h hf fun _ => he]

theorem exec_sout_runs (hf : formR f 3 = true) (hd : f.d.val ≤ 29) : exec (.sout core f) s = .next (s.sout core f).heelSettle := by
  have legal : (formR f 3 && f.d.val ≤ 29) = true := by simp [hf, hd]
  rw [exec_sout, execSout, coreRow_runs _ h legal fun _ => he]

end

/-! SDONE. -/

theorem State.sdone_noSample {s : State} {core : Nat} (hi : s.heldItem core = none) : s.sdone core = s.exception core EX_SAMPLE := by
  simp only [State.sdone, hi]

section
variable {s : State} {core h : Nat} {it : Item} {im : Image} (hi : s.heldItem core = some it) (him : s.jobImage it.slot = some im)
include hi him

theorem State.sdone_unserved (hp : ∃ p ∈ im.outPorts it.stage, p ∉ (s.core core).served) :
    s.sdone core = s.exception core EX_SAMPLE := by
  have missing : ((im.outPorts it.stage).all (s.core core).served.contains) = false := by simpa using hp
  simp only [State.sdone, hi, him, Option.map_some, Option.getD_some, missing, Bool.not_false, if_true]

theorem State.sdone_finishes (hc : it.core = some (core, h)) (hp : ∀ p ∈ im.outPorts it.stage, p ∈ (s.core core).served) :
    s.sdone core = ((((((s.setCore core { (s.core core).retire with held := none, served := [] }).takeItem it).adjustJob it.slot
      fun j => { j with faults := j.faults.erase it.stage }).bumpInput (((s.jobs.find it.slot).map (·.desc.hedge)).getD 0)
        it.stage h).releaseInput it.slot h it.stage it.epoch it.position).completeSample it.key) := by
  have served : ((im.outPorts it.stage).all (s.core core).served.contains) = true := by simpa using hp
  simp only [State.sdone, hi, him, hc, Option.map_some, Option.getD_some, served, Bool.not_true, Bool.false_eq_true, if_false]

end

/-! OALLOC. -/

section
variable {s t : State} {core k : Nat} {f : Fields} {b : Binding} (hb : s.bindingOf core = some b)
  (hk : s.outputPool b.hedge b.stage ((s.core core).getS f.a.val).toNat = some k)
include hb hk

theorem State.oalloc_granted {i : Nat} (hr : s.poolRequest k b.stage (some (core, f.d.val)) = (t, some i)) :
    s.oalloc core f = t.setCore core ((s.core core).setS f.d.val (BitVec.ofNat 64 (handleOf k i))).retire := by
  simp only [State.oalloc, hb, hk, hr, Option.bind_some, Option.map_some]

theorem State.oalloc_waits (hr : s.poolRequest k b.stage (some (core, f.d.val)) = (t, none)) :
    s.oalloc core f = t.setCore core { s.core core with blocked := .oalloc } := by
  simp only [State.oalloc, hb, hk, hr, Option.bind_some, Option.map_some]

end

/-! SOUT. -/

theorem State.sout_noSample {s : State} {core : Nat} {f : Fields} (hi : s.heldItem core = none) :
    s.sout core f = s.exception core EX_SAMPLE := by
  simp only [State.sout, hi]

section
variable {s : State} {core : Nat} {f : Fields} {it : Item} (hi : s.heldItem core = some it)
include hi

theorem State.sout_again (hs : uimm f ∈ (s.core core).served) : s.sout core f = s.exception core EX_SAMPLE := by
  simp only [State.sout, hi, List.contains_iff_mem.2 hs, if_true]

theorem State.sout_emits {im : Image} {st : Stage} (hs : uimm f ∉ (s.core core).served) (him : s.jobImage it.slot = some im)
    (hst : im.stage it.stage = some st) (hn : uimm f ∉ it.emitted) (hp : uimm f ∈ im.outPorts st.id) :
    s.sout core f = (s.setCore core { (s.core core).retire with served := (s.core core).served ++ [uimm f] }).emitHeld im st it
      (uimm f) ((s.core core).getS f.d.val).toNat ((s.core core).getS (f.d.val + 1)).toNat
        ((s.core core).getS (f.d.val + 2)).toNat := by
  simp [State.sout, hi, hs, him, hst, hn, hp]

end

/-! SAMPLE_DISPATCH. -/

theorem State.dispatch_takes {s : State} {r : ItemRef} {core handle d a size : Nat} {it : Item} {im : Image} {st : Stage} {j : Job}
    {sp : Space} (hi : s.item r = some it) (him : s.jobImage r.slot = some im) (hb : (s.core core).blocked = .sin d)
    (hst : im.stage r.stage = some st) (hj : s.jobs.find r.slot = some j)
    (hbuf : s.heldBuffer j.desc.hedge handle = some (sp, a, size)) (ha : s.jobActive r.slot = true) (hr : s.coreRuns core = true)
    (hh : (s.core core).held = none) (hm : s.mayDispatch im st it core = true) (hlen : it.payload.toBytes.length ≤ size) :
    s.dispatch r core handle =
      ((s.writeMem sp a it.payload.toBytes).putItem it { it with core := some (core, handle) }).setCore core
        ((s.core core).takeSample d it handle it.payload.toBytes.length (s.inputFlags it)
          (((s.programOf core).map (·.budget)).getD 0)) := by
  simp [State.dispatch, hi, him, hb, hst, hj, hbuf, ha, hr, hh, hm, Nat.not_lt.2 hlen]

theorem exec_sampleDispatch_live {s : State} {core : Nat} (hl : s.live = true) (hc : s.hasCore core = true) (r : ItemRef)
    (handle : Nat) : exec (.sampleDispatch r core handle) s = .next (s.dispatch r core handle) := by
  rw [exec_sampleDispatch, execSampleDispatch, hc, if_neg (by decide), act_live hl]

/-- Settles O16: each row by the sample that the core holds, its ports, its pool or its buffer. -/
theorem sampleInstructionsComplete : Obligations.SampleInstructionsComplete := by
  unfold Obligations.SampleInstructionsComplete
  intro s core f c
  refine ⟨fun h he hf => ⟨fun hd hn => ?_, fun hd hn => ?_, fun hi => ?_,
      fun it im hh hi him hc => ⟨fun hp => ?_, fun hp => ?_⟩,
      fun b k hb hk => ⟨fun t i hr => ?_, fun t hr => ?_⟩⟩,
    fun h he hf hd => ⟨fun hi => ?_, fun it hi => ⟨fun hs => ?_, fun hs im st him hst hn hp => ?_⟩⟩,
    fun hl hc r handle d it im st j sp a size hi him hb hst hj hbuf ha hr hh hm hlen => ?_⟩
  · rw [exec_sin_runs h he hf hd, if_neg (mt Option.isSome_iff_ne_none.1 (not_not_intro hn))]
  · rw [exec_sin_runs h he hf hd, if_pos (Option.isSome_iff_ne_none.2 hn)]
  · rw [exec_sdone_runs h he hf, State.sdone_noSample hi]
  · rw [exec_sdone_runs h he hf, State.sdone_finishes hi him hc hp]
  · rw [exec_sdone_runs h he hf, State.sdone_unserved hi him hp]
  · rw [exec_oalloc_runs h he hf, State.oalloc_granted hb hk hr]
  · rw [exec_oalloc_runs h he hf, State.oalloc_waits hb hk hr]
  · rw [exec_sout_runs h he hf hd, State.sout_noSample hi]
  · rw [exec_sout_runs h he hf hd, State.sout_again hi hs]
  · rw [exec_sout_runs h he hf hd, State.sout_emits hi hs him hst hn hp]
  · rw [exec_sampleDispatch_live hl hc, State.dispatch_takes hi him hb hst hj hbuf ha hr hh hm hlen]

end Sys2Proof.Machine

/-! ### Packages, records and the depth of queues (O27) -/

namespace Sys2Proof.Machine

theorem jobAct_live {s : State} (h : s.live = true) (f : State → State) : jobAct f s = .next (f s).heelSettle := by
  rw [jobAct, act_live h]

/-! MODEL_PACKAGE_LOAD. -/

/-- The units that hold a stage's model package. -/
def Image.packageUnits (im : Image) (stage : Nat) : List Nat :=
  (List.range (ceilDiv (fieldAt (im.stageTable stage) 0x28 8) unitBytes)).map (fieldAt (im.stageTable stage) 0x20 8 + ·)

/-- The package of a stage as its namespace holds it, opened with the checks of R356. -/
def State.openedPackage (s : State) (j : Job) (im : Image) (stage : Nat) : Except Nat Bytes :=
  s.openPackage j.desc.hedge (im.stageTable stage) (s.nsBytes (fieldAt (im.stageTable stage) 0x18 1)
    (unitBytes * fieldAt (im.stageTable stage) 0x20 8) (fieldAt (im.stageTable stage) 0x28 8))

/-- What the read of a stage's package makes of it, where the stage takes one. -/
def State.readPackage (s : State) (slot stage : Nat) (j : Job) (im : Image) (outcomes : List NandOutcome) : State :=
  let ns := fieldAt (im.stageTable stage) 0x18 1
  let r := s.readUnits ns (im.packageUnits stage) outcomes
  if s.unitsStalled ns (im.packageUnits stage) then s
  else if !r.2 then r.1.haltJob slot ST_SRC_UNREADABLE
  else
    match s.openedPackage j im stage with
    | .error code => r.1.haltJob slot code
    | .ok w => r.1.adjustJob slot fun j => { j with models := j.models ++ [(stage, w)] }

/-- A running job's MODEL or FILTER stage that has no weights yet reads its package. -/
theorem State.loadModel_reads {s : State} {slot stage : Nat} {j : Job} {im : Image} (outcomes : List NandOutcome)
    (hj : s.jobs.find slot = some j) (him : s.jobImage slot = some im) (ha : s.jobActive slot = true)
    (hk : im.stageKind stage = kindModel ∨ im.stageKind stage = kindFilter) (hn : ∀ m ∈ j.models, m.1 ≠ stage) :
    s.loadModel slot stage outcomes = s.readPackage slot stage j im outcomes := by
  have kind : (decide (im.stageKind stage = kindModel) || decide (im.stageKind stage = kindFilter)) = true := by simpa using hk
  have unread : (j.models.any fun m => m.1 = stage) = false := List.any_eq_false.2 fun m hm => by simpa using hn m hm
  simp only [State.loadModel, hj, him, ha, kind, unread, Bool.not_true, Bool.or_self, Bool.false_eq_true, if_false]
  rfl

section
variable {s : State} {slot stage : Nat} {j : Job} {im : Image} {outcomes : List NandOutcome}

theorem State.readPackage_stalled (hs : s.unitsStalled (fieldAt (im.stageTable stage) 0x18 1) (im.packageUnits stage) = true) :
    s.readPackage slot stage j im outcomes = s :=
  if_pos hs

variable (hs : s.unitsStalled (fieldAt (im.stageTable stage) 0x18 1) (im.packageUnits stage) = false)
include hs

theorem State.readPackage_unreadable
    (hr : (s.readUnits (fieldAt (im.stageTable stage) 0x18 1) (im.packageUnits stage) outcomes).2 = false) :
    s.readPackage slot stage j im outcomes =
      (s.readUnits (fieldAt (im.stageTable stage) 0x18 1) (im.packageUnits stage) outcomes).1.haltJob slot ST_SRC_UNREADABLE := by
  simp only [State.readPackage, hs, hr, Bool.false_eq_true, if_false, Bool.not_false, if_true]

variable (hr : (s.readUnits (fieldAt (im.stageTable stage) 0x18 1) (im.packageUnits stage) outcomes).2 = true)
include hr

theorem State.readPackage_fails {code : Nat} (ho : s.openedPackage j im stage = .error code) :
    s.readPackage slot stage j im outcomes =
      (s.readUnits (fieldAt (im.stageTable stage) 0x18 1) (im.packageUnits stage) outcomes).1.haltJob slot code := by
  simp only [State.readPackage, hs, hr, ho, Bool.false_eq_true, if_false, Bool.not_true]

theorem State.readPackage_keeps {w : Bytes} (ho : s.openedPackage j im stage = .ok w) :
    s.readPackage slot stage j im outcomes =
      (s.readUnits (fieldAt (im.stageTable stage) 0x18 1) (im.packageUnits stage) outcomes).1.adjustJob slot fun j =>
        { j with models := j.models ++ [(stage, w)] } := by
  simp only [State.readPackage, hs, hr, ho, Bool.false_eq_true, if_false, Bool.not_true]

end

/-! STORE_RECORD. -/

/-- The write of a record at the log cursor, as one command of the block store. -/
def State.recordWrite (s : State) (ns lba : Nat) (data : List Bytes) : TrsCmd :=
  ⟨blkWrite, ns, lba, data.length, 0, (s.reg Reg.TRS_NEXT_SEQ).toNat, data, 0, [], [], [], none, none⟩

/-- What becomes of record `i` of a job, framed as `data` for namespace `ns`, whose region ends at `last`. -/
def State.placeRecord (s : State) (slot i ns last : Nat) (data : List Bytes) : State :=
  let lba := s.fld (Reg.FTL_JOB_STORE_LBA slot) Fld.FTL_JOB_STORE_LBA_LBA
  if last < lba + data.length then s.haltJob slot ST_STORE_FULL
  else if s.bit (Reg.FTL_NS_STATE ns) Fld.FTL_NS_STATE_READ_ONLY then s.haltJob slot ST_MEDIUM_EXHAUSTED
  else if !s.canReserve data.length then (s.exhaust ns).haltJob slot ST_MEDIUM_EXHAUSTED
  else if s.trsBlocked (s.recordWrite ns lba data) || s.store.room < data.length || s.writeStalled ns data.length then s
  else (s.appendLog slot ns lba data).adjustJob slot fun j => { j with store := j.store.eraseIdx i }

theorem State.storeRecord_places {s : State} {slot stage i : Nat} {j : Job} {im : Image} {r : Nat × Nat × Bytes}
    (hj : s.jobs.find slot = some j) (him : s.jobImage slot = some im) (ha : s.jobActive slot = true)
    (hi : j.store.findIdx? (fun e => e.1 = stage) = some i) (hr : j.store[i]? = some r) (hs : s.store.activating = false) :
    s.storeRecord slot stage = s.placeRecord slot i (fieldAt (im.stageTable stage) 0 1)
      (fieldAt (im.stageTable stage) 8 8 + fieldAt (im.stageTable stage) 0x10 8) (framedRecord r.2.1 r.2.2) := by
  simp only [State.storeRecord, hj, him, hi, hr, ha, hs, Bool.not_true, Bool.or_self, Bool.false_eq_true, if_false, Option.getD_some]
  rfl

section
variable {s : State} {slot i ns last : Nat} {data : List Bytes}

theorem State.placeRecord_full (hl : last < s.fld (Reg.FTL_JOB_STORE_LBA slot) Fld.FTL_JOB_STORE_LBA_LBA + data.length) :
    s.placeRecord slot i ns last data = s.haltJob slot ST_STORE_FULL :=
  if_pos hl

variable (hl : s.fld (Reg.FTL_JOB_STORE_LBA slot) Fld.FTL_JOB_STORE_LBA_LBA + data.length ≤ last)
include hl

theorem State.placeRecord_readOnly (hro : s.bit (Reg.FTL_NS_STATE ns) Fld.FTL_NS_STATE_READ_ONLY = true) :
    s.placeRecord slot i ns last data = s.haltJob slot ST_MEDIUM_EXHAUSTED := by
  simp only [State.placeRecord, Nat.not_lt.2 hl, hro, if_false, if_true]

variable (hro : s.bit (Reg.FTL_NS_STATE ns) Fld.FTL_NS_STATE_READ_ONLY = false)
include hro

theorem State.placeRecord_exhausts (hc : s.canReserve data.length = false) :
    s.placeRecord slot i ns last data = (s.exhaust ns).haltJob slot ST_MEDIUM_EXHAUSTED := by
  simp only [State.placeRecord, Nat.not_lt.2 hl, hro, hc, Bool.false_eq_true, Bool.not_false, if_false, if_true]

variable (hc : s.canReserve data.length = true)
include hc

theorem State.placeRecord_waits
    (hw : s.trsBlocked (s.recordWrite ns (s.fld (Reg.FTL_JOB_STORE_LBA slot) Fld.FTL_JOB_STORE_LBA_LBA) data) = true ∨
      s.store.room < data.length ∨ s.writeStalled ns data.length = true) : s.placeRecord slot i ns last data = s := by
  simp only [State.placeRecord, Nat.not_lt.2 hl, hro, hc, Bool.false_eq_true, Bool.not_true, if_false]
  exact if_pos (by simpa [or_assoc] using hw)

theorem State.placeRecord_writes
    (hb : s.trsBlocked (s.recordWrite ns (s.fld (Reg.FTL_JOB_STORE_LBA slot) Fld.FTL_JOB_STORE_LBA_LBA) data) = false)
    (hroom : data.length ≤ s.store.room) (hs : s.writeStalled ns data.length = false) :
    s.placeRecord slot i ns last data =
      (s.appendLog slot ns (s.fld (Reg.FTL_JOB_STORE_LBA slot) Fld.FTL_JOB_STORE_LBA_LBA) data).adjustJob slot fun j =>
        { j with store := j.store.eraseIdx i } := by
  simp only [State.placeRecord, Nat.not_lt.2 hl, Nat.not_lt.2 hroom, hro, hc, hb, hs, Bool.false_eq_true, Bool.not_true,
    Bool.or_self, decide_false, if_false]

end

/-! PBQ_DEPTH_WRITE. -/

section
variable {s : State} {q : Nat} {v : Word64} {x : Queue} (hq : s.queues.find q = some x)
include hq

theorem State.pbqDepthWrite_sets (hj : s.jobState x.job = jobReady) (h0 : 1 ≤ getFld Fld.PBQ_DEPTH_MIB v)
    (h1 : getFld Fld.PBQ_DEPTH_MIB v ≤ 16384) :
    s.pbqDepthWrite q v =
      let t := s.setFld (Reg.PBQ_DEPTH q) Fld.PBQ_DEPTH_MIB (getFld Fld.PBQ_DEPTH_MIB v)
      t.setFld (Reg.PBQ_ENTRIES q) Fld.PBQ_ENTRIES_COUNT (t.queueCapacity q) := by
  simp [State.pbqDepthWrite, hq, hj, h0, h1]

theorem State.pbqDepthWrite_ignored
    (h : ¬ (s.jobState x.job = jobReady ∧ 1 ≤ getFld Fld.PBQ_DEPTH_MIB v ∧ getFld Fld.PBQ_DEPTH_MIB v ≤ 16384)) :
    s.pbqDepthWrite q v = s := by
  simp only [State.pbqDepthWrite, hq]
  exact if_neg (by simpa [and_assoc] using h)

end

/-- Settles O27: each row by what its stage, its record or its queue allows. -/
theorem packagesRecordsAndQueueDepthComplete : Obligations.PackagesRecordsAndQueueDepthComplete := by
  unfold Obligations.PackagesRecordsAndQueueDepthComplete
  intro s slot stage outcomes j im hj him
  refine ⟨fun hl ha hk hn => ?_, fun i r hl ha hi hr hact => ?_, fun q v x hreach hq => ?_⟩
  · intro desc ns lba len units r opened load
    have loads : exec load s = .next (s.readPackage slot stage j im outcomes).heelSettle := by
      rw [exec_modelPackageLoad, execModelPackageLoad, jobAct_live hl, State.loadModel_reads outcomes hj him ha hk hn]
    rw [loads]
    refine ⟨fun hs => ?_, fun hs hr => ?_, fun hs hr => ?_⟩
    · rw [State.readPackage_stalled hs]
    · rw [State.readPackage_unreadable hs hr]
      rfl
    · cases ho : opened with
      | error code =>
        rw [State.readPackage_fails hs hr ho]
        rfl
      | ok w =>
        rw [State.readPackage_keeps hs hr ho]
        rfl
  · intro t ns lba data last readOnly blocked
    rw [exec_storeRecord, execStoreRecord, jobAct_live hl, State.storeRecord_places hj him ha hi hr hact]
    refine ⟨fun full => ?_, fun fits hro => ?_, fun fits hro hc => ?_,
      fun fits hro hc => ⟨fun hw => ?_, fun hb hroom hs => ?_⟩⟩
    · rw [State.placeRecord_full full]
    · rw [State.placeRecord_readOnly fits hro]
    · rw [State.placeRecord_exhausts fits hro hc]
    · rw [State.placeRecord_waits fits hro hc hw]
    · rw [State.placeRecord_writes fits hro hc hb hroom hs]
  · intro mib t
    rw [exec_pbqDepthWrite, execPbqDepthWrite, hostAct_reaches hreach]
    refine ⟨fun hst h0 h1 => ?_, fun h => ?_⟩
    · rw [State.pbqDepthWrite_sets hq hst h0 h1]
    · rw [State.pbqDepthWrite_ignored hq h]

end Sys2Proof.Machine

/-! ### CRYPT, DECOMPRESS and DIGEST stages (O21) -/

namespace Sys2Proof.Machine

/-- On a live device the row of an engine stage acts on the item that waits there, and the Heel sessions follow. -/
theorem engineRow_acts {s : State} {r : ItemRef} {kind : Nat} {im : Image} {st : Stage} {it : Item} (hl : s.live = true)
    (hi : s.engineItem r kind = some (im, st, it)) (f : State → Image → Stage → Item → State) :
    engineRow r kind f s = .next (f s im st it).heelSettle := by
  simp only [engineRow, jobAct_live hl, hi]

/-! CRYPT_STAGE. -/

/-- The plaintext of what was read of a sample, where its index entry is known and its tag holds. -/
def State.plainOfSample (s : State) (j : Job) (sample : Nat) (p : Payload) : Option Bytes :=
  (j.entryOf sample).bind fun (e : Nat × Shard × IndexEntry) => s.plainOf e.2.1 e.2.2.offset e.2.2.length p

section
variable {s : State} {im : Image} {st : Stage} {it : Item} {j : Job} (hj : s.jobs.find it.slot = some j)
include hj

theorem State.crypt_nothing (hp : it.payload = .nothing) : s.crypt im st it = s.passOn im st it it := by
  simp only [State.crypt, hj, hp]

theorem State.crypt_seals (hp : it.payload ≠ .nothing) (hm : fieldAt (im.table st.table) 0 1 = 1) :
    s.crypt im st it = s.passOn im st it
      { it with payload := .bytes (sealObject (s.secret (fieldAt (im.table st.table) 4 4)) (reencryptNonce im j it)
          it.payload.toBytes) } := by
  cases h : it.payload with
  | nothing => exact absurd h hp
  | stored | bytes | picture | frames => simp only [State.crypt, hj, h, hm, if_true, Payload.toBytes]

theorem State.crypt_decrypts {c b : Bytes} {p : Option Bytes} (hp : it.payload = .stored c p)
    (hm : fieldAt (im.table st.table) 0 1 ≠ 1) (hb : s.plainOfSample j it.sample (.stored c p) = some b) :
    s.crypt im st it = s.sampleRead im st it (.bytes b) := by
  rw [State.plainOfSample] at hb
  simp only [State.crypt, hj, hp, hm, if_false, hb]

theorem State.crypt_authFails {c : Bytes} {p : Option Bytes} (hp : it.payload = .stored c p)
    (hm : fieldAt (im.table st.table) 0 1 ≠ 1) (hb : s.plainOfSample j it.sample (.stored c p) = none) :
    s.crypt im st it = (s.damageFree it dmgAuthFail).passOn im st it it.undecodable := by
  rw [State.plainOfSample] at hb
  simp only [State.crypt, hj, hp, hm, if_false, hb]

theorem State.crypt_plain (hp : ∀ c p, it.payload ≠ .stored c p) (hm : fieldAt (im.table st.table) 0 1 ≠ 1) :
    s.crypt im st it = s.passOn im st it it := by
  cases h : it.payload with
  | stored c p => exact absurd h (hp c p)
  | nothing => exact State.crypt_nothing hj h
  | bytes | picture | frames => simp only [State.crypt, hj, h, hm, if_false]

end

/-! DECOMPRESS_STAGE. -/

theorem State.decompress_nothing {s : State} {im : Image} {st : Stage} {it : Item} (hp : it.payload = .nothing) :
    s.decompress im st it = s.passOn im st it it := by
  simp only [State.decompress, State.decompressed, hp, if_true]

/-- What the codec of a sample's shard makes of an item at a DECOMPRESS stage. -/
def State.unpackedItem (s : State) (im : Image) (st : Stage) (it : Item) : Unpacked :=
  unpackBy ((((s.jobs.find it.slot).bind fun j => j.shardOf it.sample).map (·.2.codec)).getD 0)
    (fieldAt (im.table st.table) 0 4) (im.dicts (im.table st.table)) it.payload.toBytes

theorem State.decompress_unpacks {s : State} {im : Image} {st : Stage} {it : Item} (hp : it.payload ≠ .nothing) :
    s.decompress im st it = (match (s.unpackedItem im st it).fault with
      | some f => s.damage it (damageAt f.1 f.2)
      | none => s).passOn im st it (if (s.unpackedItem im st it).undecodable then it.undecodable
        else { it with payload := .bytes (s.unpackedItem im st it).out }) := by
  simp only [State.decompress, State.decompressed, hp, if_false]
  rfl

/-! DIGEST_STAGE. -/

/-- The digest of its bytes that a job's manifest expects of a sample. -/
def Job.wantedDigest (j : Job) (sample : Nat) : Option Bytes :=
  (j.entryOf sample).bind fun (e : Nat × Shard × IndexEntry) => e.2.2.digest

/-- A stage records the input digest of a sample. -/
def State.recordDigest (s : State) (it : Item) (raw : Bytes) : State :=
  s.adjustFacts it.key fun f => { f with input := some (sha256 raw), inputAt := some it.stage }

section
variable {s : State} {it : Item} {j : Job} {raw : Bytes} (hj : s.jobs.find it.slot = some j)
  (hr : (s.place it.key).bind (·.facts.raw) = some raw)
include hj hr

theorem State.digested_agrees (hw : j.wantedDigest it.sample = none ∨ j.wantedDigest it.sample = some (sha256 raw)) :
    s.digested it = (s.recordDigest it raw, it) := by
  rw [Job.wantedDigest] at hw
  rcases hw with hw | hw
  · simp only [State.digested, hr, hj, hw]
    rfl
  · simp only [State.digested, hr, hj, hw, if_true]
    rfl

theorem State.digested_differs {d : Bytes} (hw : j.wantedDigest it.sample = some d) (hd : d ≠ sha256 raw) :
    s.digested it = ((s.recordDigest it raw).damageFree it dmgDigest, it.undecodable) := by
  rw [Job.wantedDigest] at hw
  simp only [State.digested, hr, hj, hw, hd, if_false]
  rfl

end

/-- Settles O21: each row by its stage's mode, the item's payload and what the decoding or the digest finds. -/
theorem cryptDecompressAndDigestStagesComplete : Obligations.CryptDecompressAndDigestStagesComplete := by
  unfold Obligations.CryptDecompressAndDigestStagesComplete
  intro s r hl
  refine ⟨fun im st it j hi hj => ?_, fun im st it hi => ?_, fun im st it j raw hi hj hr => ?_⟩
  · intro table mode1
    have row : exec (.cryptStage r) s = .next (s.crypt im st it).heelSettle := by
      rw [exec_cryptStage, execCryptStage, engineRow_acts hl hi]
    rw [row]
    refine ⟨fun hp => ?_, fun hp hm => ?_, fun c p hp hm => ⟨fun b hb => ?_, fun hb => ?_⟩, fun hp hm => ?_⟩
    · rw [State.crypt_nothing hj hp]
    · rw [State.crypt_seals hj hp hm]
    · rw [State.crypt_decrypts hj hp hm hb]
    · rw [State.crypt_authFails hj hp hm hb]
    · rw [State.crypt_plain hj hp hm]
  · intro table codec u
    have row : exec (.decompressStage r) s = .next (s.decompress im st it).heelSettle := by
      rw [exec_decompressStage, execDecompressStage, engineRow_acts hl hi]
    rw [row]
    refine ⟨fun hp => ?_, fun hp => ?_⟩
    · rw [State.decompress_nothing hp]
    · rw [State.decompress_unpacks hp]
      rfl
  · intro t want
    have row : exec (.digestStage r) s = .next ((s.digested it).1.handOn im it [(0, (s.digested it).2)]).heelSettle := by
      rw [exec_digestStage, execDigestStage, engineRow_acts hl hi]
    rw [row]
    refine ⟨fun hw => ?_, fun d hw hd => ?_⟩
    · rw [State.digested_agrees hj hr hw]
      rfl
    · rw [State.digested_differs hj hr hw hd]
      rfl

end Sys2Proof.Machine

/-! ### DECODE stages (O22) -/

namespace Sys2Proof.Machine

/-- A stage hands on what a decoder made of an item. -/
def State.handOnDecoded (s : State) (im : Image) (it : Item) (limit : Nat) (d : DecodeResult) : State :=
  (s.decodedItem it limit d).1.handOn im it [(0, (s.decodedItem it limit d).2)]

theorem Item.passes_or_nothing (it : Item) :
    (it.passes || decide (it.payload = .nothing)) = true ↔ it.passes = true ∨ it.payload = .nothing := by
  rw [Bool.or_eq_true, decide_eq_true_eq]

theorem Item.not_passes_or_nothing {it : Item} (hp : it.passes = false) (hn : it.payload ≠ .nothing) :
    ¬ (it.passes || decide (it.payload = .nothing)) = true := by
  simp [hp, hn]

/-! IMAGE_DECODE. -/

section
variable {s : State} {im : Image} {st : Stage} {it : Item} (hf : fieldAt (im.table st.table) 0 1 = 1)
include hf

theorem State.imageDecode_passes (h : it.passes = true ∨ it.payload = .nothing) :
    s.imageDecode im st it = s.handOn im it [(0, it)] := by
  simp only [State.imageDecode, hf, ne_eq, not_true_eq_false, if_false, it.passes_or_nothing.2 h, if_true]

theorem State.imageDecode_decodes (hp : it.passes = false) (hn : it.payload ≠ .nothing) :
    s.imageDecode im st it =
      s.handOnDecoded im it (fieldAt (im.table st.table) 2 2) (decodeImage it.payload.toBytes) := by
  simp only [State.imageDecode, hf, ne_eq, not_true_eq_false, if_false, Item.not_passes_or_nothing hp hn]
  rfl

end

/-! VIDEO_DECODE. -/

/-- The next frame of a steered sample is decoded by the list that applies, in full where the accelerator's list is not
waited for, and otherwise waits (R114, R116). -/
def State.steerNext (s : State) (im : Image) (v : VideoTable) (j : Job) (it : Item) (src : VideoSource) : State :=
  match steeredList im v j it with
  | some rects => s.steerFrame im v it src rects false
  | none => if v.accel = true ∧ v.wait = 0 then s.steerFrame im v it src none true else s

section
variable {s : State} {im : Image} {st : Stage} {it : Item} (hf : fieldAt (im.table st.table) 0 1 = 2)
include hf

theorem State.videoDecode_passes (h : it.passes = true ∨ it.payload = .nothing) :
    s.videoDecode im st it = s.handOn im it [(0, it)] := by
  simp only [State.videoDecode, hf, ne_eq, not_true_eq_false, if_false, it.passes_or_nothing.2 h, if_true]

variable (hp : it.passes = false) (hn : it.payload ≠ .nothing)
include hp hn

theorem State.videoDecode_noVideo (hv : it.video = none) :
    s.videoDecode im st it = s.handOnDecoded im it (videoTableOf (im.table st.table)).limit .unusable := by
  simp only [State.videoDecode, hf, ne_eq, not_true_eq_false, if_false, Item.not_passes_or_nothing hp hn, hv]
  rfl

variable {src : VideoSource} {j : Job} (hv : it.video = some src) (hj : s.jobs.find it.slot = some j)
include hv hj

theorem State.videoDecode_unsupported (hs : videoSupported src.stream = false) :
    s.videoDecode im st it = s.handOnDecoded im it (videoTableOf (im.table st.table)).limit .unsupported := by
  simp only [State.videoDecode, hf, ne_eq, not_true_eq_false, if_false, Item.not_passes_or_nothing hp hn, hv, hj, hs,
    Bool.not_false, if_true]
  rfl

theorem State.videoDecode_whole (hs : videoSupported src.stream = true)
    (hw : (videoTableOf (im.table st.table)).steer = false ∨ src.reordered = true) :
    s.videoDecode im st it = s.handOnDecoded im it (videoTableOf (im.table st.table)).limit
      (.decoded (decodeVideo (videoTableOf (im.table st.table)) src)) := by
  have unsteered : ((videoTableOf (im.table st.table)).steer && !src.reordered) = false := by
    rcases hw with h | h <;> simp [h]
  simp only [State.videoDecode, hf, ne_eq, not_true_eq_false, if_false, Item.not_passes_or_nothing hp hn, hv, hj, hs,
    Bool.not_true, Bool.false_eq_true, unsteered]
  rfl

theorem State.videoDecode_steers (hs : videoSupported src.stream = true)
    (hw : ¬ ((videoTableOf (im.table st.table)).steer = false ∨ src.reordered = true)) :
    s.videoDecode im st it = s.steerNext im (videoTableOf (im.table st.table)) j it src := by
  have steered : ((videoTableOf (im.table st.table)).steer && !src.reordered) = true := by simpa using hw
  simp only [State.videoDecode, hf, ne_eq, not_true_eq_false, if_false, Item.not_passes_or_nothing hp hn, hv, hj, hs,
    Bool.not_true, Bool.false_eq_true, steered, if_true]
  cases h : steeredList im (videoTableOf (im.table st.table)) j it with
  | some rects => simp only [State.steerNext, h]
  | none => simp only [State.steerNext, h, Bool.and_eq_true, decide_eq_true_eq]

end

/-! REGION_WAIT_EXPIRY. -/

section
variable {s : State} {im : Image} {st : Stage} {it : Item}

theorem State.regionExpired_noVideo (frame : Nat) (hv : it.video = none) : s.regionExpired im st it frame = s := by
  simp only [State.regionExpired, hv]

variable {src : VideoSource} {j : Job} (hv : it.video = some src) (hj : s.jobs.find it.slot = some j)
include hv hj

theorem State.regionExpired_reordered (frame : Nat) (hr : src.reordered = true) : s.regionExpired im st it frame = s := by
  simp [State.regionExpired, hv, hj, hr]

theorem State.regionExpired_transfers (hs : (videoTableOf (im.table st.table)).steer = true)
    (ha : (videoTableOf (im.table st.table)).accel = true) (hf : it.frame ≠ 0) (hl : j.regionFor it = none)
    (hr : src.reordered = false) :
    s.regionExpired im st it it.frame = s.steerFrame im (videoTableOf (im.table st.table)) it src none true := by
  simp [State.regionExpired, hv, hj, hs, ha, hf, hl, hr]

end

/-- Settles O22: each row by the stage's FORMAT, the item's payload and flags, and what its decoder gives. -/
theorem decodeStagesComplete : Obligations.DecodeStagesComplete := by
  unfold Obligations.DecodeStagesComplete
  intro s r im st it hl hi table v whole
  have image : exec (.imageDecode r) s = .next (s.imageDecode im st it).heelSettle := by
    rw [exec_imageDecode, execImageDecode, engineRow_acts hl hi]
  have video : exec (.videoDecode r) s = .next (s.videoDecode im st it).heelSettle := by
    rw [exec_videoDecode, execVideoDecode, engineRow_acts hl hi]
  have wholeIs : ∀ limit d, s.handOnDecoded im it limit d = whole limit d := by
    intro limit d
    cases d <;> rfl
  refine ⟨fun hf h => ?_, fun hf hp hn => ?_, fun hf h => ?_, fun j hf hp hn hj => ?_,
    fun j frame hj hs ha hframe h0 hl' => ?_⟩
  · rw [image, State.imageDecode_passes hf h]
  · rw [image, State.imageDecode_decodes hf hp hn, wholeIs]
  · rw [video, State.videoDecode_passes hf h]
  · rw [video]
    cases hv : it.video with
    | none => rw [State.videoDecode_noVideo hf hp hn hv, wholeIs]
    | some src =>
      dsimp only
      cases hs : videoSupported src.stream with
      | false =>
        rw [State.videoDecode_unsupported hf hp hn hv hj hs, wholeIs]
        rfl
      | true =>
        by_cases hw : v.steer = false ∨ src.reordered = true
        · rw [State.videoDecode_whole hf hp hn hv hj hs hw, wholeIs, if_neg (by decide), if_pos hw]
        · rw [State.videoDecode_steers hf hp hn hv hj hs hw, if_neg (by decide), if_neg hw]
          rfl
  · have expiry : exec (.regionWaitExpiry r frame) s = .next (s.regionExpired im st it frame).heelSettle := by
      rw [exec_regionWaitExpiry, execRegionWaitExpiry, engineRow_acts hl hi]
    rw [expiry]
    cases hv : it.video with
    | none => rw [State.regionExpired_noVideo frame hv]
    | some src =>
      dsimp only
      cases hr : src.reordered with
      | true =>
        rw [State.regionExpired_reordered hv hj frame hr]
        rfl
      | false =>
        subst hframe
        rw [State.regionExpired_transfers hv hj hs ha h0 hl' hr]
        rfl

end Sys2Proof.Machine

/-! ### RESAMPLE, TOKENIZE and COMPRESS stages (O23) -/

namespace Sys2Proof.Machine

/-! RESAMPLE. -/

section
variable {s : State} {im : Image} {st : Stage} {it : Item} {j : Job} (hj : s.jobs.find it.slot = some j)
include hj

theorem State.resampleItem_fills (hu : hasFlag it.flags flagUndecodable = true) :
    s.resampleItem im st it = s.handOn im it
      [(0, { it with payload := .bytes (fillTensor (resampleTableOf (im.table st.table)) (fillDepth st.id it.sample it.payload)) })] := by
  simp only [State.resampleItem, hj, hu, if_true]

variable (hu : hasFlag it.flags flagUndecodable = false)
include hu

theorem State.resampleItem_picture {p : Picture} (hp : it.payload = .picture p) :
    s.resampleItem im st it = s.handOn im it [(0, { it with
      payload := .bytes (resample (resampleTableOf (im.table st.table)) j.desc.seed it.epoch it.sample st.id p) })] := by
  simp only [State.resampleItem, hj, hu, Bool.false_eq_true, if_false, hp]

theorem State.resampleItem_frames {fs : List VideoFrame} (hp : it.payload = .frames fs) :
    s.resampleItem im st it = s.handOn im it [(0, { it with payload := .bytes (fs.flatMap fun f =>
      resample (resampleTableOf (im.table st.table)) j.desc.seed it.epoch it.sample st.id (framePicture f)) })] := by
  simp only [State.resampleItem, hj, hu, Bool.false_eq_true, if_false, hp]

theorem State.resampleItem_passes (hp : ∀ p, it.payload ≠ .picture p) (hf : ∀ fs, it.payload ≠ .frames fs) :
    s.resampleItem im st it = s.handOn im it [(0, it)] := by
  cases h : it.payload with
  | picture p => exact absurd h (hp p)
  | frames fs => exact absurd h (hf fs)
  | nothing | stored | bytes => simp only [State.resampleItem, hj, hu, Bool.false_eq_true, if_false, h]

end

/-! TOKENIZE. -/

/-- The tokens that a TOKENIZE stage makes of an item. -/
def Item.tokens (it : Item) (im : Image) (st : Stage) : List Token :=
  tokenize (vocabOf (im.table (fieldAt (im.table st.table) 0 4))) (fieldAt (im.table st.table) 4 1) it.tokenPieces

/-- The stage's engine that tokenizes an item: an open value (log entry 53). -/
def Item.tokenizerEngine (it : Item) (im : Image) (st : Stage) : Nat :=
  (assocList im.engines st.id).getD
    (Config.tokenizerEngine st.id it.epoch it.position % (assocList im.engines st.id).length) 0

/-- The engine reads the vocabulary lines that an item takes, and its tokens and fallbacks are counted. -/
def State.tokensCounted (s : State) (im : Image) (st : Stage) (it : Item) : State :=
  let k := fieldAt (im.table st.table) 0 4
  let read := s.readVocab (decide (32 ≤ it.tokenizerEngine im st)) (((s.jobs.find it.slot).map (·.desc.hedge)).getD 0) k im
    ((vocabOf (im.table k)).linesOf (Config.tokenizerReads (im.table k) it.tokenPieces.flatten))
  (read.bump (Reg.TOK_TOKENS it.slot) Fld.TOK_TOKENS_COUNT (it.tokens im st).length).bump (Reg.TOK_FALLBACK it.slot)
    Fld.TOK_FALLBACK_COUNT ((it.tokens im st).filter (·.fallback)).length

/-- An item whose bytes are a value of each of its tokens. -/
def Item.tokenValues (it : Item) (im : Image) (st : Stage) (f : Token → Nat) : Item :=
  { it with payload := .bytes ((it.tokens im st).flatMap fun k => leBytes 4 (f k)), pieces := [] }

section
variable {s : State} {im : Image} {st : Stage} {it : Item}

theorem State.tokenizeItem_undecodable (hu : hasFlag it.flags flagUndecodable = true) :
    s.tokenizeItem im st it = s.handOn im it [(0, { it with payload := .bytes [], pieces := [] })] := by
  simp only [State.tokenizeItem, hu, if_true]

variable (hu : hasFlag it.flags flagUndecodable = false)
include hu

theorem State.tokenizeItem_passes (h : it.passes = true ∨ it.payload = .nothing) :
    s.tokenizeItem im st it = s.handOn im it [(0, it)] := by
  simp only [State.tokenizeItem, hu, Bool.false_eq_true, if_false, it.passes_or_nothing.2 h, if_true]

theorem State.tokenizeItem_tokenizes (hp : it.passes = false) (hn : it.payload ≠ .nothing) :
    s.tokenizeItem im st it = (s.tokensCounted im st it).handOn im it ((0, it.tokenValues im st (·.id)) ::
      (if natBit (fieldAt (im.table st.table) 4 1) 2 then [(1, it.tokenValues im st (·.off))] else [])) := by
  simp only [State.tokenizeItem, hu, Bool.false_eq_true, if_false, Item.not_passes_or_nothing hp hn]
  rfl

end

/-! COMPRESS_STAGE. -/

/-- The container of an item's bytes by the parameters of its COMPRESS stage, and the blocks stored in it as they are. -/
def Item.compressed (it : Item) (im : Image) (st : Stage) : Bytes × Nat :=
  briCompress (fieldAt (im.table st.table) 0 1) (fieldAt (im.table st.table) 1 1)
    (natBit (fieldAt (im.table st.table) 2 1) 0) it.payload.toBytes

section
variable {s : State} {im : Image} {st : Stage} {it : Item}

theorem State.compressItem_passes (hp : it.payload = .nothing) : s.compressItem im st it = s.handOn im it [(0, it)] := by
  simp only [State.compressItem, hp, if_true]

theorem State.compressItem_emits (hp : it.payload ≠ .nothing) :
    s.compressItem im st it = (s.bump Reg.BRI_STORED_BLOCKS Fld.BRI_STORED_BLOCKS_COUNT (it.compressed im st).2).handOn im it
      [(0, { it with payload := .bytes (it.compressed im st).1 })] := by
  simp only [State.compressItem, hp, if_false]
  rfl

variable {r : ItemRef} {e : Fin 16} (hl : s.live = true) (hi : s.engineItem r kindCompress = some (im, st, it))
  (he : e.val ∈ assocList im.engines st.id) (ha : (3, e.val) ∉ s.retired)
include hl hi he ha

/-- A live engine of the stage emits the item where its blocks verify, and is retired otherwise. -/
theorem exec_compressStage_acts (verified : Bool) : exec (.compressStage r e verified) s = .next (if verified then
    s.compressItem im st it else (s.retireEngine 3 e).bump (Reg.BRI_ENG_VERIFY_FAIL (32 + e.val))
      Fld.BRI_ENG_VERIFY_FAIL_COUNT).heelSettle := by
  have usable : (!(assocList im.engines st.id).contains e.val || s.retired.contains (3, e.val)) = false := by simp [he, ha]
  simp only [exec_compressStage, execCompressStage, engineRow_acts hl hi, usable, Bool.false_eq_true, if_false]

end

/-- Settles O23: each row by the item's flags and payload, and COMPRESS_STAGE by whether the blocks verify. -/
theorem resampleTokenizeAndCompressStagesComplete : Obligations.ResampleTokenizeAndCompressStagesComplete := by
  unfold Obligations.ResampleTokenizeAndCompressStagesComplete
  intro s r hl
  refine ⟨fun im st it j hi hj => ?_, fun im st it hi => ?_, fun im st it e hi he ha => ?_⟩
  · intro t tensor plain
    have row : exec (.resample r) s = .next (s.resampleItem im st it).heelSettle := by
      rw [exec_resample, execResample, engineRow_acts hl hi]
    rw [row]
    refine ⟨fun hu => ?_, fun p hu hp => ?_, fun fs hu hp => ?_, fun hu hp hf => ?_⟩
    · rw [State.resampleItem_fills hj hu]
    · rw [State.resampleItem_picture hj hu hp]
    · rw [State.resampleItem_frames hj hu hp]
    · rw [State.resampleItem_passes hj hu hp hf]
  · intro table flags k toks engines engine read t out
    have row : exec (.tokenize r) s = .next (s.tokenizeItem im st it).heelSettle := by
      rw [exec_tokenize, execTokenize, engineRow_acts hl hi]
    rw [row]
    refine ⟨fun hu => ?_, fun hu h => ?_, fun hu hp hn => ?_⟩
    · rw [State.tokenizeItem_undecodable hu]
    · rw [State.tokenizeItem_passes hu h]
    · rw [State.tokenizeItem_tokenizes hu hp hn]
      rfl
  · intro t c
    refine ⟨fun hp => ?_, fun hp => ?_, ?_⟩
    · rw [exec_compressStage_acts hl hi he ha, if_pos rfl, State.compressItem_passes hp]
    · rw [exec_compressStage_acts hl hi he ha, if_pos rfl, State.compressItem_emits hp]
      rfl
    · rw [exec_compressStage_acts hl hi he ha, if_neg (by decide)]

end Sys2Proof.Machine

/-! ### Positions, reads, capture edges and deadlines (O24) -/

namespace Sys2Proof.Machine

/-! POSITION_ASSIGN. -/

section
variable {s : State} {slot rank : Nat} {j : Job} {im : Image} {st : Stream} {src : Stage} {c : Cursor}
  (hj : s.jobs.find slot = some j) (him : s.jobImage slot = some im) (hst : j.stream rank = some st)
  (hsrc : im.stageOfKind kindSource = some src) (hc : st.next = some c) (hrun : s.jobState slot = jobRunning)
  (hheel : s.heelPauses slot = false)
include hj him hst hsrc hc hrun hheel

theorem State.assignPosition_full (hw : 4096 ≤ st.window.length) :
    s.assignPosition slot rank = s.bump (Reg.PBQ_JOB_STALLS slot) Fld.PBQ_JOB_STALLS_COUNT := by
  simp [State.assignPosition, hj, him, hst, hsrc, hc, hrun, hheel, hw]

variable (hw : st.window.length < 4096)
include hw

/-- A lower position of another stream with room goes first (R170, R178). -/
theorem State.assignPosition_yields (ha : j.ascends rank c = false) : s.assignPosition slot rank = s := by
  simp [State.assignPosition, hj, him, hst, hsrc, hc, hrun, hheel, Nat.not_le.2 hw, ha]

variable (ha : j.ascends rank c = true)
include ha

theorem State.assignPosition_requests (hl : (s.orderTable slot).livePin = 0xFF) :
    s.assignPosition slot rank =
      let x := s.takePosition slot rank src c (sigma (s.orderTable slot) j.desc.seed j.manifest c.epoch c.pos) .nothing
      (x.1.requestItem x.2).settleExhausted slot := by
  simp [State.assignPosition, hj, him, hst, hsrc, hc, hrun, hheel, Nat.not_le.2 hw, ha, hl]

theorem State.assignPosition_captures {ring : LiveRing} {frame stamp : Nat} {bytes : Bytes}
    (hl : (s.orderTable slot).livePin ≠ 0xFF) (hr : j.live.find (s.orderTable slot).livePin = some ring)
    (hu : ring.waiting.head? = some (frame, stamp, bytes)) :
    s.assignPosition slot rank =
      let t := s.adjustJob slot fun j => { j with live := j.live.insert (s.orderTable slot).livePin (ring.takeUnit frame bytes) }
      let x := t.takePosition slot rank src c frame (.bytes bytes)
      let u := x.1.adjustFacts x.2.key fun f => { f with stamp := some stamp }
      (u.passOn im src x.2 { x.2 with past := if Config.randomAccess bytes then [] else ring.before frame }).settleExhausted
        slot := by
  simp [State.assignPosition, hj, him, hst, hsrc, hc, hrun, hheel, Nat.not_le.2 hw, ha, hl, hr, hu]

end

/-! Reads of units from NAND. -/

/-- A read of units of a namespace: nothing on a stalled channel, else `bad` or `good` of the state after it, by whether a
unit fails read recovery (R98). -/
def State.readingUnits (s : State) (ns : Nat) (units : List Nat) (outcomes : List NandOutcome) (bad good : State → State) : State :=
  if s.unitsStalled ns units then s
  else if !(s.readUnits ns units outcomes).2 then bad (s.readUnits ns units outcomes).1
  else good (s.readUnits ns units outcomes).1

section
variable {s : State} {ns : Nat} {units : List Nat} {outcomes : List NandOutcome} {bad good : State → State}

theorem State.readingUnits_stalled (hs : s.unitsStalled ns units = true) : s.readingUnits ns units outcomes bad good = s :=
  if_pos hs

variable (hs : s.unitsStalled ns units = false)
include hs

theorem State.readingUnits_fails (hr : (s.readUnits ns units outcomes).2 = false) :
    s.readingUnits ns units outcomes bad good = bad (s.readUnits ns units outcomes).1 := by
  simp only [State.readingUnits, hs, hr, Bool.false_eq_true, Bool.not_false, if_false, if_true]

theorem State.readingUnits_succeeds (hr : (s.readUnits ns units outcomes).2 = true) :
    s.readingUnits ns units outcomes bad good = good (s.readUnits ns units outcomes).1 := by
  simp only [State.readingUnits, hs, hr, Bool.false_eq_true, Bool.not_true, if_false]

end

/-! INDEX_TABLE_READ. -/

/-- An active job whose items wait at SOURCE for a shard's table needs it. -/
theorem State.indexNeeded {s : State} {slot shard : Nat} {j : Job} (ha : s.jobActive slot = true) (hix : j.indexOf shard = none)
    (hw : s.waitingAt slot j shard ≠ []) :
    (!s.jobActive slot || (j.indexOf shard).isSome || (s.waitingAt slot j shard).isEmpty) = false := by
  simp [ha, hix, hw]

section
variable {s : State} {slot shard : Nat} {j : Job} {sh : Shard} (outcomes : List NandOutcome) (hj : s.jobs.find slot = some j)
  (hsh : j.manifest.shards[shard]? = some sh) (ha : s.jobActive slot = true) (hix : j.indexOf shard = none)
  (hw : s.waitingAt slot j shard ≠ [])
include hj hsh ha hix hw

/-- The table of a NAND shard that items wait for is read from its units. -/
theorem State.indexRead_nand (hk : sh.kind = 1) :
    s.indexRead slot shard outcomes = s.readingUnits sh.locator (sh.units sh.indexOffset sh.indexLength) outcomes
      (fun t => t.haltJob slot ST_SRC_UNREADABLE) fun t => t.takeIndex slot shard j sh
        (s.plainOf sh sh.indexOffset sh.indexLength (s.nandPayload sh sh.indexOffset sh.indexLength)) := by
  have needed := State.indexNeeded ha hix hw
  simp only [State.indexRead, hj, hsh, needed, hk, Bool.false_eq_true, if_false, if_true, State.readingUnits]

theorem State.indexRead_remote {b : Bytes} (hk : sh.kind ≠ 1) (hb : s.remoteBytes sh (indexRef slot shard) = some b) :
    s.indexRead slot shard outcomes = (s.endReads sh (indexRef slot shard)).takeIndex slot shard j sh
      (s.plainOf sh sh.indexOffset sh.indexLength (remotePayload sh b)) := by
  have needed := State.indexNeeded ha hix hw
  simp only [State.indexRead, hj, hsh, needed, hk, hb, Bool.false_eq_true, if_false]

end

/-! SAMPLE_READ_DONE. -/

section
variable {s : State} {r : ItemRef} {im : Image} {st : Stage} {it : Item} {j : Job} {k : Nat} {sh : Shard} {e : IndexEntry}
  (hi : s.engineItem r kindSource = some (im, st, it)) (hj : s.jobs.find r.slot = some j)
  (he : j.entryOf it.sample = some (k, sh, e))
include hi hj he

/-- The bytes of a sample in a NAND shard are read from the units of its entry. -/
theorem State.readDone_nand (outcomes : List NandOutcome) (hk : sh.kind = 1) :
    s.readDone r (.nand outcomes) = s.readingUnits sh.locator (sh.units e.offset e.length) outcomes
      (fun t => t.unreadable im st it sh) fun t => t.sampleRead im st it (s.nandPayload sh e.offset e.length) := by
  simp only [State.readDone, hi, hj, he, hk, ne_eq, not_true_eq_false, decide_false, Bool.false_or, State.readingUnits]

theorem State.readDone_remote {b : Bytes} (hk : sh.kind = 2) (hb : s.remoteBytes sh r = some b) :
    s.readDone r .remote = (s.endReads sh r).sampleRead im st it (remotePayload sh b) := by
  simp only [State.readDone, hi, hj, he, hk, hb, ne_eq, not_true_eq_false, if_false]

end

/-! CAPTURE_TRIGGER and DEADLINE_EXPIRY. -/

@[simp] theorem State.jobs_adjustPin (s : State) (pin : Nat) (f : Pin → Pin) : (s.adjustPin pin f).jobs = s.jobs := rfl

/-- An edge at least 1 µs after the last accepted one is an edge for every job (R384). -/
theorem State.captureEdge_accepted {s : State} {pin : Nat} (hf : s.pinFunction pin = pinCapture)
    (ht : ∀ t, (s.board.pins[pin]?).bind (·.lastEdge) = some t → t + 1000 ≤ s.time.total) :
    s.captureEdge pin = s.jobs.entries.foldl (fun (t : State) (e : Nat × Job) => t.liveEdge e.1 pin)
      (s.adjustPin pin fun p => { p with lastEdge := some s.time.total }) := by
  unfold State.captureEdge
  cases h : (s.board.pins[pin]?).bind (·.lastEdge) with
  | none => simp [hf]
  | some t => simp [hf, Nat.not_lt.2 (ht t h)]

theorem State.deadline_defers {s : State} {slot rank : Nat} {st : Stream} {p : Place} {rest : List Place}
    (hst : (s.jobs.find slot).bind (·.stream rank) = some st) (ha : s.jobActive slot = true)
    (hp : (s.orderTable slot).policy = policyTimely) (hw : st.window = p :: rest) (hc : p.complete = false)
    (hroom : st.deferred.length + st.late.length < 64) :
    s.deadline slot rank = ((s.bump (Reg.PBQ_JOB_DEFERRED slot) Fld.PBQ_JOB_DEFERRED_COUNT).adjustJob slot fun j =>
      j.adjustStream rank fun st => { st with
        window := rest, deferred := st.deferred ++ [{ p with epochLast := false }]
        ending := if p.epochLast then some p.epoch else st.ending }).flowRank slot rank := by
  simp [State.deadline, hst, ha, hp, hw, hc, Nat.not_le.2 hroom]

/-- Settles O24: each row by its stream's window, its shard's reads, its pin's last edge or its window's head. -/
theorem sourceCommandsComplete : Obligations.SourceCommandsComplete := by
  unfold Obligations.SourceCommandsComplete
  intro s slot rank outcomes hl
  refine ⟨fun j im st src c hj him hst hsrc hc hrun hheel => ?_, fun j shard sh hj hsh ha hix hw => ⟨?_, fun b hk hb => ?_⟩,
    fun r im st it j k sh e hi hj he => ⟨?_, fun b hk hb => ?_⟩, fun pin hf ht => ?_,
    fun st p rest hst ha hp hw hc hroom => ?_⟩
  · intro o
    have row : exec (.positionAssign slot rank) s = .next (s.assignPosition slot rank).heelSettle := by
      rw [exec_positionAssign, execPositionAssign, jobAct_live hl]
    rw [row]
    refine ⟨fun hw => ?_, fun hw ha => ?_, fun hw ha ho => ?_, fun ring frame stamp bytes hw ha ho hr hu => ?_⟩
    · rw [State.assignPosition_full hj him hst hsrc hc hrun hheel hw]
    · rw [State.assignPosition_yields hj him hst hsrc hc hrun hheel hw ha]
    · rw [State.assignPosition_requests hj him hst hsrc hc hrun hheel hw ha ho]
    · rw [State.assignPosition_captures hj him hst hsrc hc hrun hheel hw ha ho hr hu]
  · intro units r hk
    have row : exec (.indexTableRead slot ⟨shard, outcomes⟩) s = .next (s.indexRead slot shard outcomes).heelSettle := by
      rw [exec_indexTableRead, execIndexTableRead, jobAct_live hl]
    rw [row, State.indexRead_nand outcomes hj hsh ha hix hw hk]
    refine ⟨fun hs => ?_, fun hs => ⟨fun hr => ?_, fun hr => ?_⟩⟩
    · rw [State.readingUnits_stalled hs]
    · rw [State.readingUnits_fails hs hr]
    · rw [State.readingUnits_succeeds hs hr]
  · rw [exec_indexTableRead, execIndexTableRead, jobAct_live hl, State.indexRead_remote outcomes hj hsh ha hix hw hk hb]
  · intro units x hk
    have row : exec (.sampleReadDone r (.nand outcomes)) s = .next (s.readDone r (.nand outcomes)).heelSettle := by
      rw [exec_sampleReadDone, execSampleReadDone, jobAct_live hl]
    rw [row, State.readDone_nand hi hj he outcomes hk]
    refine ⟨fun hs => ?_, fun hs => ⟨fun hr => ?_, fun hr => ?_⟩⟩
    · rw [State.readingUnits_stalled hs]
    · rw [State.readingUnits_fails hs hr]
    · rw [State.readingUnits_succeeds hs hr]
  · rw [exec_sampleReadDone, execSampleReadDone, jobAct_live hl, State.readDone_remote hi hj he hk hb]
  · rw [exec_captureTrigger, execCaptureTrigger, act_live hl, State.captureEdge_accepted hf ht]
  · rw [exec_deadlineExpiry, execDeadlineExpiry, jobAct_live hl, State.deadline_defers hst ha hp hw hc hroom]

end Sys2Proof.Machine

/-! ### Return messages and masks (O25) -/

namespace Sys2Proof.Machine

/-! Rows of the return path. -/

/-- A message of the row's KIND is handled by the MASK stage of the job that runs. -/
theorem returnRow_acts {s : State} {slot : Fin 64} {m : MaskStage} {kind : Nat} {msg : Bytes} (hl : s.live = true)
    (hm : s.maskStage slot = some m) (ha : s.jobActive slot = true) (hk : fieldAt msg 0 1 = kind)
    (f : MaskStage → State → State) : returnRow slot kind msg f s = .next (f m s) := by
  simp only [returnRow, act_live hl, hm, ha, hk, decide_true, Bool.and_self, if_true]

/-! An OPEN (R148, R149, R396). -/

/-- The stream that an OPEN opens: at step 1, with the automaton, stop set, options, limit and mask buffer that the message
names (R148). -/
def MaskStage.opened (m : MaskStage) (source : Nat) (msg : Bytes) : GenStream :=
  { GenStream.idle with
    open_ := true, config := gramInitial (m.automaton (fieldAt msg 0xC 4)), grammar := fieldAt msg 0xC 4
    stopSet := fieldAt msg 0x10 2, options := fieldAt msg 0x12 2, maxTokens := fieldAt msg 0x14 4
    maskBuf := fieldAt msg 0x18 4, maskGen := fieldAt msg 0x1C 4, dest := source, step := 1 }

section
variable {s : State} {slot source : Nat} {m : MaskStage} {msg : Bytes}

theorem State.openStream_malformed (hr : returnOk (fieldAt m.table 4 2) msg = false) :
    s.openStream slot source m msg = s.badMessage slot := by
  simp only [State.openStream, hr, Bool.not_false, if_true]

variable {k : Nat} {old : GenStream} (hk : fieldAt msg 2 2 = k) (hg : s.gen slot k = old)
  (hr : returnOk (fieldAt m.table 4 2) msg = true)
include hk hg hr

theorem State.openStream_alreadyOpen (ho : old.open_ = true) :
    s.openStream slot source m msg = (s.badMessage slot).endStream slot k m old (.plain ST_TOK_STREAM) := by
  simp only [State.openStream, hk, hg, hr, ho, Bool.not_true, Bool.false_eq_true, if_false, if_true]

variable (ho : old.open_ = false)
include ho

theorem State.openStream_badNames (hn : m.openOk (fieldAt msg 0xC 4) (fieldAt msg 0x10 2) = false) :
    s.openStream slot source m msg = s.badMessage slot := by
  simp only [State.openStream, hk, hg, hr, ho, hn, Bool.not_true, Bool.not_false, Bool.false_eq_true, if_false, if_true]

theorem State.openStream_opens (hn : m.openOk (fieldAt msg 0xC 4) (fieldAt msg 0x10 2) = true) :
    s.openStream slot source m msg =
      (s.setGen slot k (m.opened source msg)).addWork slot k m (m.opened source msg) 1 0 s.time.total := by
  simp only [State.openStream, hk, hg, hr, ho, hn, Bool.not_true, Bool.false_eq_true, if_false, MaskStage.opened]

end

/-! A TOKENS or CLOSE (R149). -/

section
variable {s : State} {slot : Nat} {m : MaskStage} {msg : Bytes}

theorem State.stepMessage_discards
    (h : returnOk (fieldAt m.table 4 2) msg = false ∨ (s.gen slot (fieldAt msg 2 2)).open_ = false) :
    s.stepMessage slot m msg = s.badMessage slot := by
  rcases h with h | h <;> simp [State.stepMessage, h]

variable {k step : Nat} {g : GenStream} (hk : fieldAt msg 2 2 = k) (hstep : fieldAt msg 4 4 = step) (hg : s.gen slot k = g)
  (hr : returnOk (fieldAt m.table 4 2) msg = true) (ho : g.open_ = true)
include hk hstep hg hr ho

/-- A message of an open stream, by where its STEP stands to the step that the stream expects (R149). -/
theorem State.stepMessage_open :
    s.stepMessage slot m msg =
      if step < g.step ∨ g.step + 64 < step then s.endStream slot k m g (.plain ST_TOK_STEP)
      else if step = g.step then (s.handleReturn slot k m g s.time.total msg).drainHeld slot k m g.held.length
      else if ∃ h ∈ g.held, h.1 = step then s
      else s.setGen slot k { g with held := g.held ++ [(step, s.time.total, msg)] } := by
  simp only [State.stepMessage, hk, hstep, hg, hr, ho, Bool.not_true, Bool.or_self, Bool.false_eq_true, if_false,
    Bool.or_eq_true, decide_eq_true_eq, List.any_eq_true]

theorem State.stepMessage_outOfWindow (h : step < g.step ∨ g.step + 64 < step) :
    s.stepMessage slot m msg = s.endStream slot k m g (.plain ST_TOK_STEP) := by
  rw [State.stepMessage_open hk hstep hg hr ho, if_pos h]

/-- The message whose turn it is is handled, and the held ones whose turn has come after it. -/
theorem State.stepMessage_inTurn (h : step = g.step) :
    s.stepMessage slot m msg = (s.handleReturn slot k m g s.time.total msg).drainHeld slot k m g.held.length := by
  have inWindow : ¬ (step < g.step ∨ g.step + 64 < step) := by omega
  rw [State.stepMessage_open hk hstep hg hr ho, if_neg inWindow, if_pos h]

variable (hlt : g.step < step) (hle : step ≤ g.step + 64)
include hlt hle

/-- A message ahead of its turn is held, unless one of its step is. -/
theorem State.stepMessage_ahead :
    s.stepMessage slot m msg = if ∃ h ∈ g.held, h.1 = step then s
      else s.setGen slot k { g with held := g.held ++ [(step, s.time.total, msg)] } := by
  have inWindow : ¬ (step < g.step ∨ g.step + 64 < step) := by omega
  rw [State.stepMessage_open hk hstep hg hr ho, if_neg inWindow, if_neg hlt.ne']

theorem State.stepMessage_drops (hh : ∃ h ∈ g.held, h.1 = step) : s.stepMessage slot m msg = s := by
  rw [State.stepMessage_ahead hk hstep hg hr ho hlt hle, if_pos hh]

theorem State.stepMessage_holds (hh : ∀ h ∈ g.held, h.1 ≠ step) :
    s.stepMessage slot m msg = s.setGen slot k { g with held := g.held ++ [(step, s.time.total, msg)] } := by
  rw [State.stepMessage_ahead hk hstep hg hr ho hlt hle, if_neg fun ⟨h, hm, he⟩ => hh h hm he]

end

/-- TOKENS and CLOSE reach a stream by the same handling. -/
theorem exec_stepMessage {s : State} {slot : Fin 64} {m : MaskStage} {kind : Nat} {msg : Bytes} (hl : s.live = true)
    (hm : s.maskStage slot = some m) (ha : s.jobActive slot = true) (hkind : kind = returnTokens ∨ kind = returnClose)
    (hk : fieldAt msg 0 1 = kind) :
    exec (if kind = returnTokens then .returnTokens slot msg else .returnClose slot msg) s =
      .next (s.stepMessage slot m msg) := by
  rcases hkind with rfl | rfl
  · rw [if_pos rfl, exec_returnTokens, execReturnTokens, returnRow_acts hl hm ha hk]
  · rw [if_neg (by decide), exec_returnClose, execReturnClose, returnRow_acts hl hm ha hk]

/-! MASK_STEP (R155, R158). -/

/-- The message of a stream that one of its engine's 4 step units works on is done: its mask is computed from what the
caches hand over, and sent. -/
theorem State.maskStep_sends {s : State} {slot k : Nat} {m : MaskStage} {x : Nat × Nat × MaskWork}
    (hx : ((s.engineWork m k).take 4).find? (fun w => w.1 = slot && w.2.1 = k) = some x) :
    s.maskStep slot k m =
      let w := x.2.2
      let a := m.automaton w.grammar
      let t := { s with text := { s.text with work := s.text.work.erase x } }.readVocab (decide (16 ≤ m.engine k)) m.hedge
        (fieldAt m.table 0 4) m.image (m.vocab.linesOf (Config.maskReads (m.image.table (fieldAt m.table 0 4)) w.config.state w.config.stack))
      (t.readMask m w).sendToMaskBuf slot k m w
        (maskMessage k w.step false (maskCount a m.vocab w.config) (maskBitmap a m.vocab w.config)) false := by
  rw [State.maskStep, hx]

/-- Settles O25: each message by its layout, by whether its stream is open, and by where its STEP stands to the one that
the stream expects. -/
theorem returnMessagesAndMasksComplete : Obligations.ReturnMessagesAndMasksComplete := by
  unfold Obligations.ReturnMessagesAndMasksComplete
  intro s slot m hl hm ha
  refine ⟨fun msg source hk => ?_, fun msg kind hkind hk => ?_, fun k x hx => ?_⟩
  · intro k old bad
    have row : exec (.returnOpen slot source msg) s = .next (s.openStream slot source m msg) := by
      rw [exec_returnOpen, execReturnOpen, returnRow_acts hl hm ha hk]
    rw [row]
    refine ⟨fun hr => ?_, fun hr ho => ?_, fun hr ho hn => ?_, fun hr ho hn => ?_⟩
    · rw [State.openStream_malformed hr]
    · rw [State.openStream_alreadyOpen rfl rfl hr ho]
    · rw [State.openStream_badNames rfl rfl hr ho hn]
    · rw [State.openStream_opens rfl rfl hr ho hn]
      rfl
  · intro k step g i
    have row : exec i s = .next (s.stepMessage slot m msg) := exec_stepMessage hl hm ha hkind hk
    rw [row]
    refine ⟨fun h => ?_, fun hr ho => ⟨fun h => ?_, fun h => ?_, fun hlt hle hh => ?_, fun hlt hle hh => ?_⟩⟩
    · rw [State.stepMessage_discards h]
    · rw [State.stepMessage_outOfWindow rfl rfl rfl hr ho h]
    · rw [State.stepMessage_inTurn rfl rfl rfl hr ho h]
    · rw [State.stepMessage_drops rfl rfl rfl hr ho hlt hle hh]
    · rw [State.stepMessage_holds rfl rfl rfl hr ho hlt hle hh]
  · rw [exec_maskStep, execMaskStep, act_live hl]
    simp only [hm, ha, if_true, State.maskStep_sends hx]

end Sys2Proof.Machine

/-! ### Heel messages on their link, and frames that a pin link discards (O30) -/

namespace Sys2Proof.Machine

/-! Rows of the seven messages that carry a payload. -/

/-- The rows of the messages of Table 7-3 that are not bare acknowledgements, each with its KIND. -/
def heelRows (f : HeelFrame) : List (Instr × Nat) :=
  [(.heelSetup f, heelSetup), (.heelBatchDigest f, heelBatch), (.heelStageDigest f, heelStage), (.heelFreeze f, heelFreeze),
    (.heelLocateRequest f, heelRequest), (.heelLocateAnswer f, heelAnswer), (.heelReport f, heelReport)]

/-- Each row receives by the KIND it is listed with, which is not that of an acknowledgement. -/
theorem exec_heelRows {f : HeelFrame} {i : Instr × Nat} (hi : i ∈ heelRows f) :
    i.2 ≠ heelAck ∧ ∃ g, exec i.1 = heelRow i.2 f g := by
  simp only [heelRows, List.mem_cons, List.not_mem_nil, or_false] at hi
  rcases hi with rfl | rfl | rfl | rfl | rfl | rfl | rfl
  all_goals exact ⟨Nat.succ_ne_zero _, _, rfl⟩

/-- A message that the link took whole is acted on, and the sessions follow. -/
theorem heelRow_whole {s t : State} {kind : Nat} {f : HeelFrame} {msg : Bytes} (hl : s.live = true)
    (hr : s.heelReceive kind f = (t, some msg)) (g : Bytes → State → State) :
    heelRow kind f g s = .next (g msg t).heelSettle := by
  rw [heelRow, jobAct_live hl, hr]

/-- A message that the link did not take whole leaves only what the link made of it. -/
theorem heelRow_notWhole {s t : State} {kind : Nat} {f : HeelFrame} (hl : s.live = true)
    (hr : s.heelReceive kind f = (t, none)) (g : Bytes → State → State) : heelRow kind f g s = .next t.heelSettle := by
  rw [heelRow, jobAct_live hl, hr]

/-! Messages that do not reach the session. -/

section
variable {s : State} {f : HeelFrame}
  (h : s.bit (Reg.HEEL_CTRL f.session) Fld.HEEL_CTRL_ENABLE = false ∨ f.pinLink ≠ s.bit (Reg.HEEL_CTRL f.session) Fld.HEEL_CTRL_LINK)
include h

/-- A session that is not enabled, or that uses the other link, receives nothing. -/
theorem State.heelReceive_elsewhere (kind : Nat) : s.heelReceive kind f = (s, none) := by
  rw [State.heelReceive, if_pos]
  rcases h with h | h
  · simp [h]
  · simp [Ne.symm h]

theorem heelRow_elsewhere (hs : s.heelSettle = s) (kind : Nat) (g : Bytes → State → State) : heelRow kind f g s = .next s := by
  by_cases hl : s.live = true
  · rw [heelRow_notWhole hl (State.heelReceive_elsewhere h kind), hs]
  · rw [heelRow, jobAct, act_not_live (Bool.eq_false_iff.2 hl)]

end

/-! Frames that are discarded (R213). -/

section
variable {x : HeelSession} {kind k : Nat} {f : HeelFrame}

theorem HeelSession.pinTake_badCrc {p : HeelPiece}
    (h : p.crc.toNat ≠ heelCrc p.seq p.ackSeq (heelMessage kind k f.keyA f.epoch f.keyB p.digest)) :
    x.pinTake kind k f p = (x, false) := by
  rw [HeelSession.pinTake, if_pos h]

theorem HeelSession.pinTake_outOfSequence {p : HeelPiece} (hk : kind ≠ heelAck) (h : p.seq ≠ x.expected) :
    x.pinTake kind k f p = (x, false) := by
  by_cases hc : p.crc.toNat ≠ heelCrc p.seq p.ackSeq (heelMessage kind k f.keyA f.epoch f.keyB p.digest)
  · exact HeelSession.pinTake_badCrc hc
  · rw [HeelSession.pinTake, if_neg hc, if_neg hk, if_pos h]

/-- Frames that are all discarded leave the session and the payload as they were, and no message whole. -/
theorem HeelSession.pinTakeAll_discarded {ps : List HeelPiece} (h : ∀ p ∈ ps, x.pinTake kind k f p = (x, false)) (got : Bytes) :
    HeelSession.pinTakeAll kind k f x got false ps = (x, got, false) := by
  induction ps with
  | nil => rfl
  | cons p ps ih =>
    rw [HeelSession.pinTakeAll, h p List.mem_cons_self]
    exact ih fun q hq => h q (List.mem_cons_of_mem _ hq)

end

/-- Writing a session back as it was changes nothing that is read of any session. -/
theorem State.heelSession_setHeel_same (s : State) (k j : Nat) :
    (s.setHeel k (s.heelSession k)).heelSession j = s.heelSession j := by
  by_cases hj : j = k
  · rw [hj, State.heelSession_setHeel_self]
  · simp [State.heelSession, State.setHeel, Tab.find_insert_ne _ hj]

/-- A pin link that discards every frame of a message writes its session back as it was. -/
theorem State.heelReceive_discarded {s : State} {kind : Nat} {f : HeelFrame}
    (he : s.bit (Reg.HEEL_CTRL f.session) Fld.HEEL_CTRL_ENABLE = true) (hp : s.bit (Reg.HEEL_CTRL f.session) Fld.HEEL_CTRL_LINK = true)
    (hf : f.pinLink = true)
    (h : ∀ p ∈ (⟨f.seq, f.ackSeq, f.crc, f.digest⟩ :: f.rest : List HeelPiece),
      (s.heelSession f.session).pinTake kind f.session f p = (s.heelSession f.session, false)) :
    s.heelReceive kind f = (s.setHeel f.session (s.heelSession f.session), none) := by
  simp [State.heelReceive, he, hp, hf, HeelSession.pinTakeAll_discarded h]

/-- Settles O30: a message for a session that does not receive it is `heelReceive_elsewhere`, one whose frames are all
discarded is `heelReceive_discarded`, and in both the sessions that follow have nothing to do. -/
theorem pinLinkFramesOutOfSequenceAreDiscarded : Obligations.PinLinkFramesOutOfSequenceAreDiscarded := by
  unfold Obligations.PinLinkFramesOutOfSequenceAreDiscarded
  intro s f hactive rows pin frames badCrc same
  have hs : s.heelSettle = s := State.heelSettle_active hactive
  have hsame : same.heelSettle = same := State.heelSettle_active hactive
  refine ⟨s.heelSession_setHeel_same f.session, fun i hi => ?_, fun h => ?_, fun hl he hp hf hbad => ?_⟩
  · obtain ⟨hk, g, hrow⟩ := exec_heelRows hi
    rw [hrow]
    refine ⟨fun h => heelRow_elsewhere h hs i.2 g, fun hl he hp hf hbad => ?_⟩
    have hr : s.heelReceive i.2 f = (same, none) := State.heelReceive_discarded he hp hf fun p hm =>
      (hbad p hm).elim HeelSession.pinTake_badCrc (HeelSession.pinTake_outOfSequence hk)
    rw [heelRow_notWhole hl hr, hsame]
  · rw [exec_heelAckFrame, execHeelAckFrame, act, State.heelReceive_elsewhere h, ite_self]
  · rw [exec_heelAckFrame, execHeelAckFrame, act_live hl,
      State.heelReceive_discarded he hp hf fun p hm => HeelSession.pinTake_badCrc (hbad p hm)]

end Sys2Proof.Machine

/-! ### Heel sessions: registers, set-up, acknowledgements and resends (O28) -/

namespace Sys2Proof.Machine

/-! Writes of HEEL_CTRL (R208, R217). -/

section
variable {s : State} {k : Nat} {v : Word64}

theorem State.heelCtrlWrite_busy (hb : s.heelBusy k = true) : s.heelCtrlWrite k v = s := if_pos hb

variable (hb : s.heelBusy k = false)
include hb

theorem State.heelCtrlWrite_enables (hon : getFld Fld.HEEL_CTRL_ENABLE v = 1)
    (hw : s.bit (Reg.HEEL_CTRL k) Fld.HEEL_CTRL_ENABLE = false) :
    s.heelCtrlWrite k v =
      ((((((s.setReg (Reg.HEEL_CTRL k) (BitVec.ofNat 64 (v.toNat % 2 ^ 11))).clearReg (Reg.HEEL_COMPARED k)).clearReg
        (Reg.HEEL_BLOCKS k)).clearReg (Reg.HEEL_UNCOMPARED k)).setHeel k HeelSession.idle).showPending k).setHeelState k heelIdle := by
  simp [State.heelCtrlWrite, hb, hon, hw]

theorem State.heelCtrlWrite_disables (hoff : getFld Fld.HEEL_CTRL_ENABLE v ≠ 1)
    (hw : s.bit (Reg.HEEL_CTRL k) Fld.HEEL_CTRL_ENABLE = true) :
    s.heelCtrlWrite k v =
      { ((s.setReg (Reg.HEEL_CTRL k) (BitVec.ofNat 64 (v.toNat % 2 ^ 11))).dropKept k fun _ => true).setHeelState k heelIdle with
        contexts := s.contexts.keep fun i c =>
          !(i = s.fld (Reg.HEEL_LINKSEL k) Fld.HEEL_LINKSEL_CONTEXT && c.dramClaim = noDramClaim) } := by
  simp [State.heelCtrlWrite, hb, hoff, hw]

theorem State.heelCtrlWrite_stays
    (h : getFld Fld.HEEL_CTRL_ENABLE v = 1 ↔ s.bit (Reg.HEEL_CTRL k) Fld.HEEL_CTRL_ENABLE = true) :
    s.heelCtrlWrite k v = s.setReg (Reg.HEEL_CTRL k) (BitVec.ofNat 64 (v.toNat % 2 ^ 11)) := by
  by_cases hw : s.bit (Reg.HEEL_CTRL k) Fld.HEEL_CTRL_ENABLE = true
  · simp [State.heelCtrlWrite, hb, hw, h.2 hw]
  · simp [State.heelCtrlWrite, hb, hw, mt h.1 hw]

end

/-! The peer's setup record (R209). -/

section
variable {s : State} {k : Nat}

theorem State.heelSetupGot_paired (hp : s.heelState k = heelPaired) (record : Bytes) : s.heelSetupGot k record = s := if_pos hp

variable (hp : s.heelState k ≠ heelPaired)
include hp

theorem State.heelSetupGot_keeps_record (hw : s.heelStarting k = false) (record : Bytes) :
    s.heelSetupGot k record = s.setHeel k { s.heelSession k with setupGot := some record } := by
  simp [State.heelSetupGot, hp, hw]

theorem State.heelSetupGot_compares (hw : s.heelStarting k = true) (record : Bytes) :
    s.heelSetupGot k record = (s.setHeel k { s.heelSession k with setupGot := some record }).setupBoth k (s.heelJob k) := by
  simp [State.heelSetupGot, hp, hw]

end

/-- A resend on a pin link leaves the last frame not acknowledged on the wire (R213). -/
theorem exec_heelFrameResend_resends {s : State} {k : Fin 4} {seq : Nat} {u : Nat × Bytes} (hl : s.live = true)
    (hp : s.bit (Reg.HEEL_CTRL k) Fld.HEEL_CTRL_LINK = true)
    (hu : ((s.heelSession k).unacked.dropWhile fun x => x.1 ≠ seq).getLast? = some u) :
    exec (.heelFrameResend k seq) s =
      .next (s.setHeel k { s.heelSession k with wire := heelFrame u.1 (s.heelSession k).ackSeq u.2 }) := by
  rw [exec_heelFrameResend, execHeelFrameResend, act_live hl]
  simp only [hp, hu, if_true]

/-- Settles O28: the writes by whether the session is busy and which way ENABLE goes, the setup message by the state of
the session that it finds. -/
theorem heelSessionsAreSetUp : Obligations.HeelSessionsAreSetUp := by
  unfold Obligations.HeelSessionsAreSetUp
  intro s k v r on was
  refine ⟨fun hr => ?_, fun hr => ?_, fun hl f t => ⟨fun msg h => ?_, fun h => ?_, ?_⟩, fun hl hw => ?_, fun hl seq u hp hu => ?_⟩
  · rw [exec_heelCtrlWrite, execHeelCtrlWrite, hostAct_reaches hr]
    refine ⟨fun hb => ?_, fun hb hon hw => ?_, fun hb hoff hw => ?_, fun hb h => ?_⟩
    · rw [State.heelCtrlWrite_busy hb]
    · rw [State.heelCtrlWrite_enables hb hon hw]
    · rw [State.heelCtrlWrite_disables hb hoff hw]
    · rw [State.heelCtrlWrite_stays hb h]
  · rw [exec_heelLinkselWrite, execHeelLinkselWrite, hostAct_reaches hr, State.heelLinkselWrite]
  · intro u
    rw [exec_heelSetup, execHeelSetup, heelRow_whole hl h]
    refine ⟨fun hp => ?_, fun hp hw => ?_, fun hp hw => ?_⟩
    · rw [State.heelSetupGot_paired hp]
    · rw [State.heelSetupGot_keeps_record hp hw]
    · rw [State.heelSetupGot_compares hp hw]
  · rw [exec_heelSetup, execHeelSetup, heelRow_notWhole hl h]
  · rw [exec_heelAckFrame, execHeelAckFrame, act_live hl]
  · rw [exec_heelSetupTimeout, execHeelSetupTimeout, jobAct_live hl, if_pos hw]
  · exact exec_heelFrameResend_resends hl hp hu

end Sys2Proof.Machine

/-! ### Heel digests, freezing and location (O29) -/

namespace Sys2Proof.Machine

/-- A message of any row that is not whole only moves the link on. -/
theorem exec_heelRows_notWhole {s t : State} {f : HeelFrame} {i : Instr × Nat} (hl : s.live = true) (hi : i ∈ heelRows f)
    (hr : s.heelReceive i.2 f = (t, none)) : exec i.1 s = .next t.heelSettle := by
  obtain ⟨-, g, hrow⟩ := exec_heelRows hi
  rw [hrow, heelRow_notWhole hl hr]

/-- The timeout freezes the session while an own digest waits (R212). -/
theorem exec_heelDigestTimeout_waiting {s : State} {k : Fin 4} (hl : s.live = true)
    (h : (s.heelSession k).ownBatch ≠ [] ∨ (s.heelSession k).ownStage ≠ []) :
    exec (.heelDigestTimeout k) s = .next (s.freezeSession k ST_HEEL_TIMEOUT).heelSettle := by
  have hw : ((s.heelSession k).ownBatch.isEmpty && (s.heelSession k).ownStage.isEmpty) = false := by
    simpa only [Bool.and_eq_false_iff, List.isEmpty_eq_false_iff] using h
  rw [exec_heelDigestTimeout, execHeelDigestTimeout, jobAct_live hl]
  simp only [hw, Bool.false_eq_true, if_false]

/-- Location begins on the leader of a frozen session where it has not begun (R215). -/
theorem exec_heelLocateStart_leader {s : State} {k : Fin 4} (hl : s.live = true) (hz : s.heelState k = heelIsFrozen)
    (hr : s.bit (Reg.HEEL_CTRL k) Fld.HEEL_CTRL_ROLE = false) (hn : (s.heelSession k).locate = none) :
    exec (.heelLocateStart k) s = .next (s.heelNext k ⟨(s.heelSession k).mismatches, 0, 0, 0, []⟩) := by
  rw [exec_heelLocateStart, execHeelLocateStart, act_live hl]
  simp [hz, hr, hn]

/-- An answer to the request that waits takes the procedure on (R215). -/
theorem exec_heelLocateAnswer_awaited {s t : State} {f : HeelFrame} {msg : Bytes} {l : Locate} {m : Mismatch} {rest : List Mismatch}
    (hl : s.live = true) (hr : s.heelReceive heelAnswer f = (t, some msg)) (hloc : (t.heelSession f.session).locate = some l)
    (htodo : l.todo = m :: rest) (ha : m.keyA = f.keyA) (he : m.epoch = f.epoch) (hb : m.keyB = f.keyB) :
    exec (.heelLocateAnswer f) s = .next (t.heelAnswered f.session l m ((msg.drop 4).take (beFieldAt msg 0 4))).heelSettle := by
  rw [exec_heelLocateAnswer, execHeelLocateAnswer, heelRow_whole hl hr]
  simp [hloc, htodo, ha, he, hb]

/-- A report on a frozen follower writes the leader's values (R215). -/
theorem exec_heelReport_follower {s t : State} {f : HeelFrame} {msg : Bytes} (hl : s.live = true)
    (hr : s.heelReceive heelReport f = (t, some msg)) (hrole : t.bit (Reg.HEEL_CTRL f.session) Fld.HEEL_CTRL_ROLE = true)
    (hz : t.heelState f.session = heelIsFrozen) :
    exec (.heelReport f) s = .next (t.writeDiv f.session (divergenceOf f.epoch f.keyB msg)).heelSettle := by
  rw [exec_heelReport, execHeelReport, heelRow_whole hl hr]
  simp [hrole, hz]

/-- Settles O29: a message that is not whole is `exec_heelRows_notWhole`; a whole one by its row, digests by whether the
session takes them. -/
theorem heelDigestsFreezesAndLocates : Obligations.HeelDigestsFreezesAndLocates := by
  unfold Obligations.HeelDigestsFreezesAndLocates
  intro s hl
  refine ⟨fun f t i hi hr => ?_, fun f t msg hr => ?_, fun f t msg hr => ?_, fun k => ⟨fun h => ?_, fun hz hrole hn => ?_⟩,
    fun f t msg hr => ?_, fun f t msg hr => ?_, fun f t msg l m rest hr hloc htodo ha he hb => ?_, fun f t msg hr hrole hz => ?_⟩
  · exact exec_heelRows_notWhole hl (List.mem_cons_of_mem _ hi) hr
  · rw [exec_heelBatchDigest, execHeelBatchDigest, heelRow_whole hl hr]
    refine ⟨fun ht => ?_, fun ht => ?_⟩
    · rw [if_pos ht]
    · rw [if_neg (Bool.eq_false_iff.1 ht)]
  · rw [exec_heelStageDigest, execHeelStageDigest, heelRow_whole hl hr]
    refine ⟨fun ht => ?_, fun ht => ?_⟩
    · rw [if_pos ht]
    · rw [if_neg (Bool.eq_false_iff.1 ht)]
  · exact exec_heelDigestTimeout_waiting hl h
  · exact exec_heelLocateStart_leader hl hz hrole hn
  · rw [exec_heelFreeze, execHeelFreeze, heelRow_whole hl hr]
  · rw [exec_heelLocateRequest, execHeelLocateRequest, heelRow_whole hl hr]
  · exact exec_heelLocateAnswer_awaited hl hr hloc htodo ha he hb
  · exact exec_heelReport_follower hl hr hrole hz

end Sys2Proof.Machine

/-! ### Sealed frames (O33) -/

namespace Sys2Proof.Machine

/-! Big-endian fields of bytes that are laid out one field after another. -/

theorem beBytes_succ (n v : Nat) : beBytes (n + 1) v = beBytes n (v / 256) ++ [BitVec.ofNat 8 v] := by
  simp [beBytes, leBytes]

theorem beNat_append_singleton (a : Bytes) (b : BitVec 8) : beNat (a ++ [b]) = beNat a * 256 + b.toNat := by
  simp [beNat]

/-- A number that fits `n` bytes reads back from them. -/
theorem beNat_beBytes {n v : Nat} (h : v < 2 ^ (8 * n)) : beNat (beBytes n v) = v := by
  induction n generalizing v with
  | zero =>
    have h0 : v = 0 := by simpa using h
    simp [h0, beBytes, leBytes, beNat]
  | succ n ih =>
    have hq : v / 256 < 2 ^ (8 * n) := Nat.div_lt_of_lt_mul (by rwa [Nat.mul_succ, pow_add, Nat.mul_comm] at h)
    rw [beBytes_succ, beNat_append_singleton, ih hq, BitVec.toNat_ofNat]
    omega

/-- The bytes of a record of big-endian fields, each given as its width in bytes and its value. -/
def beRecord (fs : List (Nat × Nat)) : Bytes := fs.flatMap fun f => beBytes f.1 f.2

theorem beRecord_append (fs gs : List (Nat × Nat)) : beRecord (fs ++ gs) = beRecord fs ++ beRecord gs := List.flatMap_append

theorem beRecord_length (fs : List (Nat × Nat)) : (beRecord fs).length = (fs.map (·.1)).sum := by
  simp [beRecord, List.length_flatMap, beBytes_length]

/-- A field reads back from the offset at which the fields before it end. -/
theorem beFieldAt_beRecord {fs : List (Nat × Nat)} {i n v : Nat} (hi : fs[i]? = some (n, v)) (hv : v < 2 ^ (8 * n)) :
    beFieldAt (beRecord fs) ((fs.take i).map (·.1)).sum n = v := by
  have hsplit : fs = fs.take i ++ ((n, v) :: fs.drop (i + 1)) := by
    obtain ⟨hlt, hget⟩ := List.getElem?_eq_some_iff.1 hi
    rw [← hget, List.getElem_cons_drop, List.take_append_drop]
  have hbytes : beRecord fs = beRecord (fs.take i) ++ (beBytes n v ++ beRecord (fs.drop (i + 1))) := by
    conv_lhs => rw [hsplit, beRecord_append]
    rfl
  rw [beFieldAt, hbytes, ← beRecord_length, List.drop_left, List.take_left' (beBytes_length n v), beNat_beBytes hv]

/-! The header of Table 8-2. -/

/-- The fields of a header in wire order: the first byte holds VERSION and OPCODE. -/
def PltHeader.wireFields (h : PltHeader) : List (Nat × Nat) :=
  [(1, h.version * 16 + h.opcode), (1, h.flags), (1, h.phase), (1, h.tclass), (2, h.context), (2, h.fragment), (2, h.count),
    (6, h.msgId), (4, h.source), (4, h.dest), (4, h.jobEpoch), (4, h.roleEpoch), (4, h.peerEpoch), (4, h.timestamp),
    (4, h.buffer), (4, h.generation), (8, h.offset), (4, h.length), (4, h.aux)]

theorem PltHeader.bytes_eq_beRecord (h : PltHeader) : h.bytes = beRecord h.wireFields := by
  simp only [PltHeader.bytes, beRecord, PltHeader.wireFields, List.flatMap_cons, List.flatMap_nil, List.append_nil, List.append_assoc]
  rfl

/-- The widths of the fields of a header in bytes. -/
def pltWidths : List Nat := [1, 1, 1, 1, 2, 2, 2, 6, 4, 4, 4, 4, 4, 4, 4, 4, 8, 4, 4]

theorem PltHeader.map_wireFields (h : PltHeader) : h.wireFields.map (·.1) = pltWidths := rfl

/-- A header whose fields fit their widths reads back from its bytes. -/
theorem pltHeaderOf_bytes {h : PltHeader} (hop : h.opcode < 16) (hfit : ∀ f ∈ h.wireFields, f.2 < 2 ^ (8 * f.1)) :
    pltHeaderOf h.bytes = h := by
  have field : ∀ i o {n v : Nat}, h.wireFields[i]? = some (n, v) → (pltWidths.take i).sum = o → beFieldAt h.bytes o n = v :=
    fun i o n v hi ho => by
      rw [h.bytes_eq_beRecord, ← ho, ← h.map_wireFields, ← List.map_take, beFieldAt_beRecord hi (hfit _ (List.mem_of_getElem? hi))]
  have first : beFieldAt h.bytes 0 1 = h.version * 16 + h.opcode := field 0 0 rfl rfl
  have hversion : beFieldAt h.bytes 0 1 / 16 = h.version := by omega
  have hopcode : beFieldAt h.bytes 0 1 % 16 = h.opcode := by omega
  rw [pltHeaderOf, hversion, hopcode, field 1 1 rfl rfl, field 2 2 rfl rfl, field 3 3 rfl rfl, field 4 4 rfl rfl, field 5 6 rfl rfl,
    field 6 8 rfl rfl, field 7 0xA rfl rfl, field 8 0x10 rfl rfl, field 9 0x14 rfl rfl, field 10 0x18 rfl rfl,
    field 11 0x1C rfl rfl, field 12 0x20 rfl rfl, field 13 0x24 rfl rfl, field 14 0x28 rfl rfl, field 15 0x2C rfl rfl,
    field 16 0x30 rfl rfl, field 17 0x38 rfl rfl, field 18 0x3C rfl rfl]

/-- Settles O33: the header reads back field by field, the tag makes up the rest of the length, and GCM opens what it sealed. -/
theorem sealedFramesOpen : Obligations.SealedFramesOpen := by
  unfold Obligations.SealedFramesOpen
  intro key h payload hversion hopcode hflags hphase htclass hcontext hfragment hcount hmsgId hsource hdest hjobEpoch hroleEpoch
    hpeerEpoch htimestamp hbuffer hgeneration hoffset hlength haux hunauth hpayload frame
  have hfit : ∀ f ∈ h.wireFields, f.2 < 2 ^ (8 * f.1) := by
    simp only [PltHeader.wireFields, List.forall_mem_cons]
    refine ⟨?_, hflags, hphase, htclass, hcontext, hfragment, hcount, hmsgId, hsource, hdest, hjobEpoch, hroleEpoch, hpeerEpoch,
      htimestamp, hbuffer, hgeneration, hoffset, hlength, haux, by simp⟩
    omega
  have hheader : pltHeaderOf frame = h := by rw [pltHeaderOf_sealFrame key payload hunauth, pltHeaderOf_bytes hopcode hfit]
  refine ⟨hheader, ?_, ?_⟩
  · rw [sealFrame_length key h payload hunauth, pltFrameLength, hpayload, hunauth]
    rfl
  · rw [hheader]
    exact openFrame_sealFrame key h payload hunauth hpayload

end Sys2Proof.Machine

/-! ### Plyn's timers and context fetches (O34) -/

namespace Sys2Proof.Machine

/-! CONTEXT_FETCH_DONE. -/

theorem State.startFetch_fetching {s : State} {ctx : Nat} {c : Context} (hc : s.contexts.find ctx = some c) (hf : c.fetching = true) :
    s.startFetch ctx = s := by
  simp only [State.startFetch, hc, hf, Option.map_some, Option.getD_some, if_true]

/-- The record that is being fetched comes on chip, and what waits for it at every port goes on (R237, R238). -/
theorem State.fetchDone_fetching {s : State} {ctx : Nat} {c : Context} (port : Nat) (hc : s.contexts.find ctx = some c)
    (hon : c.onChip = false) (hf : c.fetching = true) :
    s.fetchDone port ctx = ([port] ++ (List.range 5).filter (· ≠ port)).foldl (fun t p => t.drainMiss p ctx)
      ((s.adjustCtx ctx fun c => { c with onChip := true, fetching := false }).touchCtx ctx) := by
  simp only [State.fetchDone, State.startFetch_fetching hc hf, hc, hon, hf, Bool.not_true, Bool.or_false, Bool.false_eq_true, if_false]

theorem exec_contextFetchDone_awaited {s : State} {port : Fin 5} {ctx : Nat} (hl : s.live = true)
    (hw : ∃ f ∈ (s.port port).missq, (pltHeaderOf f.2).context = ctx) :
    exec (.contextFetchDone port ctx) s = .next (s.fetchDone port ctx).heelSettle := by
  have waits : ((s.port port).missq.any fun f => decide ((pltHeaderOf f.2).context = ctx)) = true := by
    simpa only [List.any_eq_true, decide_eq_true_eq] using hw
  rw [exec_contextFetchDone, execContextFetchDone, jobAct_live hl, if_pos waits]

/-! A message that a sender of a context holds. -/

section
variable {s : State} {ctx dest msgId : Nat} {c : Context} {x : Sender} {m : OutMsg} (hc : s.contexts.find ctx = some c)
  (hx : (c.senders.find? fun x => x.dest = dest && x.msgs.any fun m => m.msgId = msgId) = some x)
  (hm : (x.msgs.find? fun m => m.msgId = msgId) = some m)
include hc hx hm

/-- A fragment in flight that is young enough and that no hold names is queued again with its timeout doubled (R229). -/
theorem State.retransmit_repeats {fragment : Nat} {f : OutFrag} (hf : m.frags[fragment]? = some f) (hsent : f.frame ≠ none)
    (hack : f.acked = false) (hheld : x.isHeld msgId fragment = false) (hlive : s.purposeLive m.purpose = true)
    (hage : s.uptime - f.sentNs < 3500000) :
    s.retransmit ctx dest msgId fragment =
      (s.adjustCtx ctx fun c => c.setSender (x.adjustMsg msgId fun m => m.adjustFrag fragment fun f =>
        { f with resent := true, timeoutUs := min 1000 (2 * f.timeoutUs) })).pushTx m.route ⟨f.header, f.payload, true, m.route.addr⟩ := by
  have hsome : f.frame.isNone = false := Option.isNone_eq_false_iff.2 (Option.isSome_iff_ne_none.2 hsent)
  have hyoung : decide (3500000 ≤ s.uptime - f.sentNs) = false := decide_eq_false (by omega)
  simp only [State.retransmit, hc, hx, hm, hf, hsome, hack, hheld, hlive, hyoung, Bool.not_true, Bool.or_false, Bool.false_eq_true,
    if_false]

end

theorem Context.senderOf_found {c : Context} {dest msgId : Nat} {x : Sender} {m : OutMsg}
    (hx : (c.senders.find? fun x => x.dest = dest && x.msgs.any fun m => m.msgId = msgId) = some x)
    (hm : (x.msgs.find? fun m => m.msgId = msgId) = some m) : c.senderOf dest msgId = some (x, m) := by
  simp only [Context.senderOf, hx, hm, Option.bind_some, Option.map_some]

/-- The record without a message that is given up, with the report of it (R229). -/
def State.dropUnconfirmed (s : State) (ctx msgId : Nat) (x : Sender) (m : OutMsg) : State :=
  s.adjustCtx ctx fun c => { c.setSender (x.drop msgId) with reports := c.reports ++ [(m.purpose, ST_PLT_UNCONFIRMED)] }

/-- What issued a message that is given up goes on: a batch becomes UNCONFIRMED, a read whose answer is missing fails. -/
def State.tellIssuer (s : State) (c : Context) (m : OutMsg) : State :=
  match m.purpose with
  | .batch slot rank d _ => s.batchUnconfirmed slot rank d
  | .read item => if c.readFull ((m.frags.head?.map fun f => f.header.aux).getD 0) then s else s.readFailed item
  | _ => s

theorem State.giveUp_unconfirmed {s : State} {ctx dest msgId : Nat} {c : Context} {x : Sender} {m : OutMsg}
    (hc : s.contexts.find ctx = some c) (hx : c.senderOf dest msgId = some (x, m)) (hborn : m.bornNs ≠ none)
    (hopen : ∃ f ∈ m.frags, f.acked = false) :
    s.giveUp ctx dest msgId = (s.dropUnconfirmed ctx msgId x m).tellIssuer c m := by
  have hsent : m.bornNs.isNone = false := Option.isNone_eq_false_iff.2 (Option.isSome_iff_ne_none.2 hborn)
  have hall : m.frags.all (·.acked) = false := by simpa only [List.all_eq_false, Bool.not_eq_true] using hopen
  simp only [State.giveUp, hc, hx, hsent, hall, Bool.or_false, Bool.false_eq_true, if_false]
  rfl

/-! DELIVERY_RETRY_TIMER. -/

/-- A delivery that waits is counted and may start again, where its worker may start a message (R243). -/
theorem State.repeatBatch_waiting {s : State} {slot rank dest : Nat} {j : Job} {st : Stream} {d : Delivery} {de : DestEntry}
    (hd : s.delivery slot rank dest = some (j, st, d, de)) (ha : s.jobActive slot = true) (hw : d.waiting = true) :
    s.repeatBatch slot rank dest = ((s.bump (Reg.PLT_JOB_RETRIES slot) Fld.PLT_JOB_RETRIES_COUNT).adjustDelivery slot rank dest
      fun d => { d with waiting := false, repeats := d.repeats + 1 }).flowRank slot rank := by
  simp only [State.repeatBatch, hd, ha, hw, Bool.not_true, Bool.or_false, Bool.false_eq_true, if_false]

/-- Settles O34: a timer row is its change of the context record; the others by what they find in the tables. -/
theorem plynTimersAndFetchesComplete : Obligations.PlynTimersAndFetchesComplete := by
  unfold Obligations.PlynTimersAndFetchesComplete
  intro s hl
  refine ⟨fun port ctx c hw hc hon hf => ?_, fun ctx source => ?_, fun ctx dest msgId fragment c x m f hc hx hm => ⟨?_, ?_⟩,
    fun ctx dest msgId fragment => ?_, fun ctx key => ?_, fun ctx source => ?_, fun slot rank dest j st d de hd ha hw => ?_⟩
  · rw [exec_contextFetchDone_awaited hl hw, State.fetchDone_fetching port hc hon hf]
  · rw [exec_ackTimer, execAckTimer, act_live hl]
  · intro hf hsent hack hheld hlive hage
    rw [exec_retransmitTimeout, execRetransmitTimeout, act_live hl, State.retransmit_repeats hc hx hm hf hsent hack hheld hlive hage]
  · intro hborn hopen
    rw [exec_messageGiveUp, execMessageGiveUp, jobAct_live hl, State.giveUp_unconfirmed hc (Context.senderOf_found hx hm) hborn hopen]
    rfl
  · rw [exec_retryHoldExpiry, execRetryHoldExpiry, act_live hl]
  · rw [exec_filterEntryExpiry, execFilterEntryExpiry, act_live hl]
  · rw [exec_keyPhaseWindowExpiry, execKeyPhaseWindowExpiry, act_live hl]
  · rw [exec_deliveryRetryTimer, execDeliveryRetryTimer, jobAct_live hl, State.repeatBatch_waiting hd ha hw]

end Sys2Proof.Machine

/-! ### The receive order (O31) -/

namespace Sys2Proof.Machine

/-! The rows of Table 8-3. -/

/-- The nine opcode rows with the opcode of each. -/
def pltRows (port : Fin 5) (sub : Fin 4) (frame : Bytes) : List (Instr × Nat) :=
  [(.pltWrite port sub frame, opWrite), (.pltWriteImm port sub frame, opWriteImm), (.pltReadReq port sub frame, opReadReq),
    (.pltReadResp port sub frame, opReadResp), (.pltAtomicAdd port sub frame, opAtomicAdd), (.pltAtomicCas port sub frame, opAtomicCas),
    (.pltAck port sub frame, opAck), (.pltNak port sub frame, opNak), (.pltCredit port sub frame, opCredit)]

theorem exec_pltRows {s : State} {port : Fin 5} {sub : Fin 4} {frame : Bytes} {i : Instr × Nat} (hi : i ∈ pltRows port sub frame) :
    exec i.1 s = pltRow port sub i.2 frame s := by
  simp only [pltRows, List.mem_cons, List.not_mem_nil, or_false] at hi
  rcases hi with rfl | rfl | rfl | rfl | rfl | rfl | rfl | rfl | rfl <;> rfl

theorem exec_pltRows_live {s : State} (hl : s.live = true) {port : Fin 5} {sub : Fin 4} {frame : Bytes} {i : Instr × Nat}
    (hi : i ∈ pltRows port sub frame) : exec i.1 s = .next (s.pltReceive port sub i.2 frame).heelSettle := by
  rw [exec_pltRows hi, pltRow, jobAct_live hl]

theorem exec_invalidFrame_live {s : State} (hl : s.live = true) (port : Fin 5) (a : Arrival) :
    exec (.invalidFrame port a) s = .next (s.frameArrives port a.sub a.frame).heelSettle := by
  rw [exec_invalidFrame, execInvalidFrame, jobAct_live hl]

/-- Table 8-5, step 1: a frame that is long enough, of a valid header and of the length that the header states. -/
def State.wellFormed (s : State) (frame : Bytes) : Prop :=
  64 ≤ frame.length ∧ (pltHeaderOf frame).valid s.sourceId = true ∧ frame.length = pltFrameLength (pltHeaderOf frame)

theorem State.malformed_eq_false_iff (s : State) (frame : Bytes) :
    (decide (frame.length < 64) || !(pltHeaderOf frame).valid s.sourceId ||
      decide (frame.length ≠ pltFrameLength (pltHeaderOf frame))) = false ↔ s.wellFormed frame := by
  simp only [Bool.or_eq_false_iff, decide_eq_false_iff_not, Bool.not_eq_false', not_not, Nat.not_lt, and_assoc, State.wellFormed]

/-! Where a frame stops, in the order of Table 8-5. -/

section
variable {s : State} {port sub op : Nat} {frame : Bytes}

theorem State.pltReceive_stalled (hs : s.ingressStalled port sub = true) :
    s.pltReceive port sub op frame = s.setPort port { s.port port with held := (s.port port).held ++ [(sub, op, frame)] } := by
  rw [State.pltReceive, if_pos hs]

variable (hs : s.ingressStalled port sub = false)
include hs

theorem State.pltReceive_elsewhere (h : s.linkUp port sub = false ∨ (pltHeaderOf frame).opcode ≠ op) :
    s.pltReceive port sub op frame = s := by
  have stops : (!s.linkUp port sub || decide ((pltHeaderOf frame).opcode ≠ op)) = true := by
    simpa only [Bool.or_eq_true, Bool.not_eq_true', decide_eq_true_eq] using h
  simp only [State.pltReceive, hs, stops, Bool.false_eq_true, if_false, if_true]

variable (hl : s.linkUp port sub = true) (ho : (pltHeaderOf frame).opcode = op)
include hl ho

theorem State.pltReceive_malformed (hw : ¬ s.wellFormed frame) : s.pltReceive port sub op frame = s.pltCount 2 := by
  have stops := Bool.eq_true_of_not_eq_false (mt (s.malformed_eq_false_iff frame).1 hw)
  simp only [State.pltReceive, hs, hl, ho, stops, ne_eq, not_true_eq_false, decide_false, Bool.not_true, Bool.or_false,
    Bool.false_eq_true, if_false, if_true]

variable (hw : s.wellFormed frame)
include hw

theorem State.pltReceive_badAge (ha : s.ageBad (pltHeaderOf frame) = true) : s.pltReceive port sub op frame = s.pltCount 1 := by
  have passes := (s.malformed_eq_false_iff frame).2 hw
  simp only [State.pltReceive, hs, hl, ho, passes, ha, ne_eq, not_true_eq_false, decide_false, Bool.not_true, Bool.or_false,
    Bool.false_eq_true, if_false, if_true]

variable (ha : s.ageBad (pltHeaderOf frame) = false)
include ha

theorem State.pltReceive_noContext (hc : s.contexts.find (pltHeaderOf frame).context = none) :
    s.pltReceive port sub op frame = s.pltCount 2 := by
  obtain ⟨hlong, hvalid, hlength⟩ := hw
  rw [State.pltReceive_good hs hl ho hlong hvalid hlength ha, hc]

variable {c : Context} (hc : s.contexts.find (pltHeaderOf frame).context = some c)
include hc

theorem State.pltReceive_offChip (hon : c.onChip = false) :
    s.pltReceive port sub op frame = s.missQueue port sub (pltHeaderOf frame) frame := by
  obtain ⟨hlong, hvalid, hlength⟩ := hw
  simp only [State.pltReceive_good hs hl ho hlong hvalid hlength ha, hc, hon, Bool.false_eq_true, if_false]

theorem State.pltReceive_onChip (hon : c.onChip = true) : s.pltReceive port sub op frame = s.fromStep5 port sub frame := by
  obtain ⟨hlong, hvalid, hlength⟩ := hw
  simp only [State.pltReceive_good hs hl ho hlong hvalid hlength ha, hc, hon, if_true]

end

/-! Steps 5 and 6, for a context record on chip. -/

section
variable {s : State} {frame : Bytes} {c : Context} (port sub : Nat) (hc : s.contexts.find (pltHeaderOf frame).context = some c)
  (hu : (pltHeaderOf frame).unauth = false)
include hc hu

/-- Without an authentic tag, a key and an accepted key phase the packet is counted in counter 0 (R225). -/
theorem State.fromStep5_notAuthentic (h : openFrame ((s.contextKey c).getD []) (pltHeaderOf frame) frame = none ∨
    s.contextKey c = none ∨ c.phaseOk (pltHeaderOf frame) = false) : s.fromStep5 port sub frame = s.pltCount 0 := by
  cases hopen : openFrame ((s.contextKey c).getD []) (pltHeaderOf frame) frame with
  | none => simp only [State.fromStep5, hc, hu, hopen, Bool.false_eq_true, if_false]
  | some payload =>
    have stops : ((s.contextKey c).isNone || !c.phaseOk (pltHeaderOf frame)) = true := by
      simpa only [hopen, reduceCtorEq, false_or, Bool.or_eq_true, Option.isNone_iff_eq_none, Bool.not_eq_true'] using h
    simp only [State.fromStep5, hc, hu, hopen, stops, Bool.false_eq_true, if_false, if_true]

theorem State.fromStep5_badShape {payload : Bytes}
    (ho : openFrame ((s.contextKey c).getD []) (pltHeaderOf frame) frame = some payload) (hk : s.contextKey c ≠ none)
    (hp : c.phaseOk (pltHeaderOf frame) = true) (h : controlShapeOk (pltHeaderOf frame) payload = false ∨
      (opSingle (pltHeaderOf frame).opcode = true ∧ (pltHeaderOf frame).count ≠ 1)) : s.fromStep5 port sub frame = s.pltCount 2 := by
  have accepted := Context.phase_test (Option.isSome_iff_ne_none.2 hk) hp
  have stops : (!controlShapeOk (pltHeaderOf frame) payload ||
      (opSingle (pltHeaderOf frame).opcode && decide ((pltHeaderOf frame).count ≠ 1))) = true := by
    simpa only [Bool.or_eq_true, Bool.not_eq_true', Bool.and_eq_true, decide_eq_true_eq] using h
  simp only [State.fromStep5, hc, hu, ho, accepted, stops, Bool.false_eq_true, if_false, if_true]

end

/-! INVALID_FRAME. -/

theorem State.frameArrives_invalid {s : State} {port sub : Nat} {wire : Bytes} (hl : s.linkUp port sub = true)
    (h : s.carriedBy wire = .invalid) : s.frameArrives port sub wire = s.pltCount 2 := by
  simp only [State.frameArrives, hl, h, Bool.not_true, Bool.false_eq_true, if_false]

theorem State.frameArrives_plyn {s : State} {port sub : Nat} {wire frame : Bytes} (hl : s.linkUp port sub = true)
    (h : s.carriedBy wire = .plyn frame) :
    s.frameArrives port sub wire = s.pltReceive port sub (pltHeaderOf frame).opcode frame := by
  simp only [State.frameArrives, hl, h, Bool.not_true, Bool.false_eq_true, if_false]

/-- Settles O31: a row is the receive order of its opcode, and each clause is the step of Table 8-5 at which the frame stops. -/
theorem plynFramesPassTheReceiveOrder : Obligations.PlynFramesPassTheReceiveOrder := by
  unfold Obligations.PlynFramesPassTheReceiveOrder
  intro s port sub frame hlive h rows good count
  have row : ∀ i ∈ rows, exec i.1 s = .next (s.pltReceive port sub i.2 frame).heelSettle := fun i hi => exec_pltRows_live hlive hi
  refine ⟨fun i hi => ⟨fun hs => ?_, fun hs hd => ?_, fun hs hl ho => ⟨fun hw => ?_, fun hw ha => ?_, fun hw ha hc => ?_,
    fun c hw ha hc => ⟨fun hon => ?_, fun hon hu => ⟨fun hbad => ?_, fun payload hopen hk hp hshape => ?_⟩⟩⟩,
    fun u c g payload hp => ?_⟩, fun wire hl => ⟨fun hcar => ?_, fun hcar i hi ho => ?_⟩⟩
  · rw [row i hi, State.pltReceive_stalled hs]
  · rw [row i hi, State.pltReceive_elsewhere hs hd]
  · rw [row i hi, State.pltReceive_malformed hs hl ho hw]
  · rw [row i hi, State.pltReceive_badAge hs hl ho hw ha]
  · rw [row i hi, State.pltReceive_noContext hs hl ho hw ha hc]
  · rw [row i hi, State.pltReceive_offChip hs hl ho hw ha hc hon]
  · rw [row i hi, State.pltReceive_onChip hs hl ho hw ha hc hon, State.fromStep5_notAuthentic port sub hc hu hbad]
  · rw [row i hi, State.pltReceive_onChip hs hl ho hw ha hc hon, State.fromStep5_badShape port sub hc hu hopen hk hp hshape]
  · obtain ⟨-, -, hdispatch⟩ := State.packet_receive hp
    rw [row i hi, hdispatch]
  · rw [exec_invalidFrame_live hlive, State.frameArrives_invalid hl hcar]
  · rw [row i hi, exec_invalidFrame_live hlive, State.frameArrives_plyn hl hcar, ho]

end Sys2Proof.Machine

/-! ### Packets that the receive order accepts (O32) -/

namespace Sys2Proof.Machine

/-! The row of an accepted packet. -/

/-- An accepted packet is of its row's opcode, and the row hands it to that opcode. -/
theorem exec_pltRows_packet {s u : State} {port : Fin 5} {sub : Fin 4} {frame payload : Bytes} {c : Context} {h : PltHeader}
    {i : Instr × Nat} (hi : i ∈ pltRows port sub frame) (hp : s.packet port sub i.2 frame = some (u, c, h, payload)) :
    h.opcode = i.2 ∧ exec i.1 s = .next (u.dispatchPacket port sub c h payload).heelSettle := by
  obtain ⟨hl, hop, hdispatch⟩ := State.packet_receive hp
  exact ⟨hop, by rw [exec_pltRows_live hl hi, hdispatch]⟩

/-- The rows of the opcodes that execute at the receiver, with a replay filter entry (R230). -/
def pltRequestRows (port : Fin 5) (sub : Fin 4) (frame : Bytes) : List (Instr × Nat) :=
  (pltRows port sub frame).filter fun i => opFiltered i.2

theorem exec_pltRequestRows_packet {s u : State} {port : Fin 5} {sub : Fin 4} {frame payload : Bytes} {c : Context} {h : PltHeader}
    {i : Instr × Nat} (hi : i ∈ pltRequestRows port sub frame) (hp : s.packet port sub i.2 frame = some (u, c, h, payload)) :
    h.opcode = i.2 ∧ exec i.1 s = .next (u.filtered port sub c h payload).heelSettle := by
  obtain ⟨hrow, hreq⟩ := List.mem_filter.1 hi
  obtain ⟨hop, hexec⟩ := exec_pltRows_packet hrow hp
  exact ⟨hop, by rw [hexec, State.dispatchPacket, hop, if_pos hreq]⟩

section
variable {s : State} {port sub : Nat} {c : Context} {h : PltHeader} {payload : Bytes}

theorem State.dispatchPacket_readResp (hop : h.opcode = opReadResp) :
    s.dispatchPacket port sub c h payload = s.readResp port sub c h payload := by
  rw [State.dispatchPacket, hop, if_neg (by decide), if_pos rfl]

theorem State.dispatchPacket_ack (hop : h.opcode = opAck) : s.dispatchPacket port sub c h payload = s.ackArrived h payload := by
  rw [State.dispatchPacket, hop, if_neg (by decide), if_neg (by decide), if_pos rfl]

theorem State.dispatchPacket_nak (hop : h.opcode = opNak) : s.dispatchPacket port sub c h payload = s.nakArrived h payload := by
  rw [State.dispatchPacket, hop, if_neg (by decide), if_neg (by decide), if_neg (by decide)]

end

/-! The replay filter (R230). -/

/-- Was the fragment executed before? -/
def Context.done (c : Context) (h : PltHeader) : Bool := ((c.entry h).map fun e => e.executed.contains h.fragment).getD false

section
variable {s : State} {port sub : Nat} {c : Context} {h : PltHeader} {payload : Bytes}

theorem State.filtered_doneAtomic (hd : c.done h = true) (hop : h.opcode = opAtomicAdd ∨ h.opcode = opAtomicCas) :
    s.filtered port sub c h payload = (s.pltCount 4).ackAtomic h (((c.entry h).bind (·.result)).getD []) := by
  have again : h.opcode ≠ opReadReq := by rcases hop with e | e <;> rw [e] <;> decide
  have atomic : (decide (h.opcode = opAtomicAdd) || decide (h.opcode = opAtomicCas)) = true := by simpa using hop
  rw [Context.done] at hd
  simp only [State.filtered, hd, again, atomic, ne_eq, not_false_eq_true, decide_true, Bool.and_self, if_true]

theorem State.filtered_doneOther (hd : c.done h = true) (hop : h.opcode = opWrite ∨ h.opcode = opWriteImm ∨ h.opcode = opCredit) :
    s.filtered port sub c h payload = (s.pltCount 4).queueAck h := by
  have again : h.opcode ≠ opReadReq := by rcases hop with e | e | e <;> rw [e] <;> decide
  have atomic : (decide (h.opcode = opAtomicAdd) || decide (h.opcode = opAtomicCas)) = false := by
    rcases hop with e | e | e <;> rw [e] <;> decide
  rw [Context.done] at hd
  simp only [State.filtered, hd, again, atomic, ne_eq, not_false_eq_true, decide_true, Bool.and_self, if_true, Bool.false_eq_true,
    if_false]

variable (hd : c.done h = false ∨ h.opcode = opReadReq)
include hd

theorem Context.done_test : (c.done h && decide (h.opcode ≠ opReadReq)) = false := by
  rcases hd with hd | hd <;> simp [hd]

theorem State.filtered_refusedBefore {code detail : Nat} (hn : (c.entry h).bind (·.nak) = some (code, detail)) :
    s.filtered port sub c h payload = (s.pltCount 4).nak h (code % 256) detail (code / 256) := by
  have passes := Context.done_test hd
  rw [Context.done] at passes
  simp only [State.filtered, passes, hn, Bool.false_eq_true, if_false]

variable (hn : (c.entry h).bind (·.nak) = none)
include hn

theorem State.filtered_wrongEpoch {code detail bit : Nat} (he : s.epochFault c h = some (code, detail, bit)) :
    s.filtered port sub c h payload = s.refuse h code detail bit true := by
  have passes := Context.done_test hd
  rw [Context.done] at passes
  simp only [State.filtered, passes, hn, he, Bool.false_eq_true, if_false]

theorem State.filtered_request (he : s.epochFault c h = none) :
    s.filtered port sub c h payload = s.request port sub c h payload := by
  have passes := Context.done_test hd
  rw [Context.done] at passes
  simp only [State.filtered, passes, hn, he, Bool.false_eq_true, if_false]

end

/-! Steps 10 to 12 for a request. -/

/-- The bytes that a request accesses. -/
def PltHeader.accessLength (h : PltHeader) (payload : Bytes) : Nat := if h.opcode = opReadReq then h.length else payload.length

section
variable {s : State} {port sub : Nat} {c : Context} {h : PltHeader} {payload : Bytes}

theorem State.request_filterFull (he : c.entry h = none) (hf : c.filterFull = true) :
    s.request port sub c h payload = s.nak h NAK_RETRY_LATER 0 0 := by
  simp only [State.request, he, hf, Option.isNone_none, Bool.and_self, if_true]

variable (hroom : c.entry h ≠ none ∨ c.filterFull = false)
include hroom

theorem Context.room_test : ((c.entry h).isNone && c.filterFull) = false := by
  rcases hroom with hr | hr <;> simp [hr]

theorem State.request_credit (hop : h.opcode = opCredit) : s.request port sub c h payload =
    if s.creditFull c h payload then s.nak h NAK_RETRY_LATER 0 0 else s.execCredit c h payload := by
  simp only [State.request, Context.room_test hroom, hop, Bool.false_eq_true, if_false, if_true]

variable (hop : h.opcode ≠ opCredit) (hquiet : s.plynUnits port sub false h.context h.opcode = [])
include hop hquiet

theorem State.request_accessRefused {code detail : Nat}
    (hb : s.bufferFault c h (h.accessLength payload) = some (code, detail)) :
    s.request port sub c h payload = s.refuse h code detail 0 true := by
  rw [PltHeader.accessLength] at hb
  simp only [State.request, Context.room_test hroom, hop, hquiet, State.stripChecks, List.foldl_nil, hb, Bool.false_eq_true, if_false]

variable (hb : s.bufferFault c h (h.accessLength payload) = none)
include hb

/-- An allowed access is a READ_REQ, an atomic or a write. -/
theorem State.request_allowed : s.request port sub c h payload =
    if h.opcode = opReadReq then s.execRead c h
    else if h.opcode = opAtomicAdd || h.opcode = opAtomicCas then s.execAtomic c h payload
    else s.execWrite c h payload := by
  rw [PltHeader.accessLength] at hb
  simp only [State.request, Context.room_test hroom, hop, hquiet, State.stripChecks, List.foldl_nil, hb, Bool.not_true,
    Bool.false_eq_true, if_false]

theorem State.request_read (hread : h.opcode = opReadReq) : s.request port sub c h payload = s.execRead c h := by
  rw [State.request_allowed hroom hop hquiet hb, if_pos hread]

theorem State.request_atomic (ha : h.opcode = opAtomicAdd ∨ h.opcode = opAtomicCas) :
    s.request port sub c h payload = s.execAtomic c h payload := by
  have notRead : h.opcode ≠ opReadReq := by rcases ha with e | e <;> rw [e] <;> decide
  rw [State.request_allowed hroom hop hquiet hb, if_neg notRead, if_pos (by simpa using ha)]

theorem State.request_write (hw : h.opcode = opWrite ∨ h.opcode = opWriteImm) :
    s.request port sub c h payload = s.execWrite c h payload := by
  have notRead : h.opcode ≠ opReadReq := by rcases hw with e | e <;> rw [e] <;> decide
  have notAtomic : ¬ (decide (h.opcode = opAtomicAdd) || decide (h.opcode = opAtomicCas)) = true := by
    rcases hw with e | e <;> rw [e] <;> decide
  rw [State.request_allowed hroom hop hquiet hb, if_neg notRead, if_neg notAtomic]

end

/-! What a request does in its buffer (R222, R233, R234). -/

section
variable {s : State} {c : Context} {h : PltHeader} {b : CtxBuffer} (hb : s.ctxBuffer h.context c h.buffer = some b)
include hb

theorem State.execWrite_write (data : Bytes) (hop : h.opcode = opWrite) :
    s.execWrite c h data = ((s.writeBuffer h.context c b h.offset data).executed h none).queueAck h := by
  have notImm : ¬ h.opcode = opWriteImm := by rw [hop]; decide
  simp only [State.execWrite, hb, notImm, if_false]

theorem State.execWrite_immediate (data : Bytes) (hop : h.opcode = opWriteImm) :
    s.execWrite c h data = (((s.writeBuffer h.context c b h.offset data).executed h none).postImmediate h).queueAck h := by
  simp only [State.execWrite, hb, hop, if_true]

theorem State.execAtomic_stores (payload : Bytes) : s.execAtomic c h payload =
    ((s.writeBuffer h.context c b h.offset
      (leBytes 8 (atomicResult h.opcode (leNat (s.readBuffer b h.offset 8)) payload))).executed h
        (some (beBytes 8 (leNat (s.readBuffer b h.offset 8))))).ackAtomic h (beBytes 8 (leNat (s.readBuffer b h.offset 8))) := by
  simp only [State.execAtomic, hb]

variable (hs : s.unitsStalled b.nsid (b.unitsOf h.offset h.length) = false)
include hs

theorem State.execRead_answers (hr : (s.readBufferUnits b h.offset h.length).2 = true) : s.execRead c h =
    ((s.readBufferUnits b h.offset h.length).1.executed h none).answer h.context h.source opReadResp 0 h.aux c.tclass
      (s.readBuffer b h.offset h.length) := by
  simp only [State.execRead, hb, hs, hr, Bool.not_true, Bool.false_eq_true, if_false]

theorem State.execRead_unreadable (hr : (s.readBufferUnits b h.offset h.length).2 = false) :
    s.execRead c h = (s.readBufferUnits b h.offset h.length).1 := by
  simp only [State.execRead, hb, hs, hr, Bool.not_false, Bool.false_eq_true, if_false, if_true]

end

/-! Answers to this device's messages (R229, R234, R239). -/

/-- The first copy of each fragment of an answer is kept (R234). -/
def State.keepAnswer (s : State) (h : PltHeader) (data : Bytes) : State :=
  s.adjustCtx h.context fun c => { c with reads := c.reads.map fun r =>
    if r.tag = h.aux && !(r.got.any fun g => g.1 = h.offset) then { r with got := r.got ++ [(h.offset, data)] } else r }

theorem State.readResp_keepsAnswer {s : State} {port sub : Nat} {c : Context} {h : PltHeader} (payload : Bytes)
    (he : s.epochFault c h = none) (hquiet : s.plynUnits port sub false h.context h.opcode = []) :
    s.readResp port sub c h payload = s.keepAnswer h payload := by
  simp only [State.readResp, he, hquiet, State.stripChecks, List.foldl_nil, Bool.not_true, Bool.false_eq_true, if_false]
  rfl

/-- A message of the fleet's job or of the fleet whose receiver calls a role stale (R336): what the fleet sent stays, to be held. -/
def State.roleStale (s : State) (h : PltHeader) (x : Sender) (m : OutMsg) (msgId : Nat) : State :=
  let t := (if m.purpose.toFleet then s else s.adjustCtx h.context fun c => c.setSender (x.drop msgId)).roleRefused h.source
    (h.aux / 256 % 2)
  match m.purpose with
  | .read item => t.readFailed item
  | _ => t

section
variable {s : State} {h : PltHeader} {payload : Bytes}

theorem State.nakArrived_unknown (hc : h.aux % 256 = 0 ∨ NAK_CHECK < h.aux % 256) : s.nakArrived h payload = s.pltCount 2 := by
  have unknown : (decide (h.aux % 256 = 0) || decide (NAK_CHECK < h.aux % 256)) = true := by simpa using hc
  simp only [State.nakArrived, unknown, if_true]

theorem State.nakArrived_retryLater (hc : h.aux % 256 = NAK_RETRY_LATER) :
    s.nakArrived h payload = s.retryLater h.context h.source (beFieldAt payload 0 6) (beFieldAt payload 6 2) := by
  have known : (decide (NAK_RETRY_LATER = 0) || decide (NAK_CHECK < NAK_RETRY_LATER)) = false := by decide
  simp only [State.nakArrived, hc, known, Bool.false_eq_true, if_false, if_true]

variable {x : Sender} {m : OutMsg} {f : OutFrag} (hknown : ¬ (h.aux % 256 = 0 ∨ NAK_CHECK < h.aux % 256))
  (hlater : h.aux % 256 ≠ NAK_RETRY_LATER)
  (hx : ((s.contexts.find h.context).bind fun c => c.senderOf h.source (beFieldAt payload 0 6)) = some (x, m))
  (hf : m.frags[beFieldAt payload 6 2]? = some f) (hack : f.acked = false) (hsent : f.frame ≠ none)
include hknown hlater hx hf hack hsent

/-- A known refusal of a fragment in flight (R239). -/
theorem State.nakArrived_refusal : s.nakArrived h payload =
    if h.aux % 256 = NAK_ROLE_STALE ∧ s.fleetOn = true ∧ s.slotOf m.purpose = some s.fleetSlot then
      s.roleStale h x m (beFieldAt payload 0 6)
    else (s.adjustCtx h.context fun c => c.setSender (x.drop (beFieldAt payload 0 6))).refused h.source (h.aux % 256) m.purpose := by
  have known : (decide (h.aux % 256 = 0) || decide (NAK_CHECK < h.aux % 256)) = false := by simpa using hknown
  have inFlight : (f.acked || f.frame.isNone) = false := by
    rw [hack, Bool.false_or, Option.isNone_eq_false_iff]
    exact Option.isSome_iff_ne_none.2 hsent
  simp only [State.nakArrived, known, hlater, hx, hf, inFlight, Bool.and_eq_true, decide_eq_true_eq, and_assoc, Bool.false_eq_true,
    if_false]
  rfl

end

/-- Settles O32: a request stops at the replay filter, at its epochs, at a full filter or at its buffer, or executes; an answer
acts on the messages of its context. -/
theorem plynPacketsAreExecuted : Obligations.PlynPacketsAreExecuted := by
  unfold Obligations.PlynPacketsAreExecuted
  intro s port sub frame u c h payload done quiet rows
  refine ⟨fun i hi hp => ?_, fun hp he hq => ?_, fun hp => ?_, fun hp => ?_⟩
  · obtain ⟨hop, hexec⟩ := exec_pltRequestRows_packet (i := i) hi hp
    rw [hexec, ← hop]
    refine ⟨fun hd ha => ?_, fun hd ho => ?_, fun code detail hd hn => ?_, fun hd hn => ⟨fun code detail bit he => ?_, fun he =>
      ⟨fun hnew hfull => ?_, fun hroom => ⟨fun hcr => ?_, fun hcr hq => ⟨fun code detail hb => ?_, fun b hb hbuf =>
        ⟨fun hw => ?_, fun hw => ?_, fun hr hs => ⟨fun hok => ?_, fun hok => ?_⟩, fun ha => ?_⟩⟩⟩⟩⟩⟩
    · rw [State.filtered_doneAtomic hd ha]
    · rw [State.filtered_doneOther hd ho]
    · rw [State.filtered_refusedBefore hd hn]
    · rw [State.filtered_wrongEpoch hd hn he]
    · rw [State.filtered_request hd hn he, State.request_filterFull hnew hfull]
    · rw [State.filtered_request hd hn he, State.request_credit hroom hcr]
    · rw [State.filtered_request hd hn he, State.request_accessRefused hroom hcr hq hb]
    · rw [State.filtered_request hd hn he, State.request_write hroom hcr hq hb (.inl hw), State.execWrite_write hbuf payload hw]
    · rw [State.filtered_request hd hn he, State.request_write hroom hcr hq hb (.inr hw), State.execWrite_immediate hbuf payload hw]
    · rw [State.filtered_request hd hn he, State.request_read hroom hcr hq hb hr, State.execRead_answers hbuf hs hok]
    · rw [State.filtered_request hd hn he, State.request_read hroom hcr hq hb hr, State.execRead_unreadable hbuf hs hok]
    · rw [State.filtered_request hd hn he, State.request_atomic hroom hcr hq hb ha, State.execAtomic_stores hbuf payload]
  · obtain ⟨hop, hexec⟩ := exec_pltRows_packet (i := (.pltReadResp port sub frame, opReadResp)) (by simp [pltRows]) hp
    rw [hexec, State.dispatchPacket_readResp hop, State.readResp_keepsAnswer payload he hq]
    rfl
  · obtain ⟨hop, hexec⟩ := exec_pltRows_packet (i := (.pltAck port sub frame, opAck)) (by simp [pltRows]) hp
    rw [hexec, State.dispatchPacket_ack hop]
  · obtain ⟨hop, hexec⟩ := exec_pltRows_packet (i := (.pltNak port sub frame, opNak)) (by simp [pltRows]) hp
    rw [hexec, State.dispatchPacket_nak hop]
    refine ⟨fun hc => ?_, fun hc => ?_, fun x m f hknown hlater hx hf hack hsent => ?_⟩
    · rw [State.nakArrived_unknown hc]
    · rw [State.nakArrived_retryLater hc]
    · rw [State.nakArrived_refusal hknown hlater hx hf hack hsent]
      rfl

end Sys2Proof.Machine

/-! ### DMA channels (O36) -/

namespace Sys2Proof.Machine

/-! Commands of the host. -/

section
variable {s : State} {ch : Nat}

theorem State.dmaHold_held (hh : s.bit (Reg.DMA_CH_CTRL ch) Fld.DMA_CH_CTRL_HOLD = true) : s.dmaHold ch = s := by
  rw [State.dmaHold, if_pos hh]

theorem State.dmaGo_notHeld (hh : s.bit (Reg.DMA_CH_CTRL ch) Fld.DMA_CH_CTRL_HOLD = false) :
    s.dmaGo ch = s.setFld (Reg.DMA_CH_STATUS ch) Fld.DMA_CH_STATUS_CODE ST_DMA_NOT_HELD := by
  rw [State.dmaGo, hh, Bool.not_false, if_pos rfl]

theorem State.dmaRelease_idle (hh : s.bit (Reg.DMA_CH_CTRL ch) Fld.DMA_CH_CTRL_HOLD = true) (hi : s.dmaState ch = chIdle) :
    s.dmaRelease ch = (s.setBit (Reg.DMA_CH_CTRL ch) Fld.DMA_CH_CTRL_HOLD false).dropClaim 0x0C ch ownerManagement := by
  rw [State.dmaRelease, hh, hi, decide_eq_true rfl, Bool.and_self, if_pos rfl]

/-- HOLD = 0 is ignored on a channel that the host does not hold and on one that is not IDLE (R251). -/
theorem State.dmaRelease_ignored
    (h : s.bit (Reg.DMA_CH_CTRL ch) Fld.DMA_CH_CTRL_HOLD = false ∨ s.dmaState ch ≠ chIdle) : s.dmaRelease ch = s := by
  have stays : (s.bit (Reg.DMA_CH_CTRL ch) Fld.DMA_CH_CTRL_HOLD && decide (s.dmaState ch = chIdle)) = false := by
    rcases h with h | h <;> simp [h]
  rw [State.dmaRelease, stays, if_neg Bool.false_ne_true]

theorem State.dmaAbort_busy (hb : s.dmaState ch = chBusy) :
    s.dmaAbort ch = s.setFld (Reg.DMA_CH_STATUS ch) Fld.DMA_CH_STATUS_STATE chAborting := by
  rw [State.dmaAbort, if_pos hb]

theorem State.dmaAbort_ignored (hb : s.dmaState ch ≠ chBusy) : s.dmaAbort ch = s := by
  rw [State.dmaAbort, if_neg hb]

end

section
variable {s : State} {ch : Nat} (hh : s.bit (Reg.DMA_CH_CTRL ch) Fld.DMA_CH_CTRL_HOLD = false)
include hh

theorem State.dmaHold_claimed (hc : s.claimOwner 0x0C ch ≠ none) :
    s.dmaHold ch = s.setFld (Reg.DMA_CH_STATUS ch) Fld.DMA_CH_STATUS_CODE ST_BUSY_CLAIMED := by
  rw [State.dmaHold, hh, if_neg Bool.false_ne_true, if_pos (Option.isSome_iff_ne_none.2 hc)]

theorem State.dmaHold_claims (hc : s.claimOwner 0x0C ch = none) :
    s.dmaHold ch = (s.setBit (Reg.DMA_CH_CTRL ch) Fld.DMA_CH_CTRL_HOLD true).addClaim 0x0C ch ownerManagement := by
  rw [State.dmaHold, hh, hc, if_neg Bool.false_ne_true, Option.isSome_none, if_neg Bool.false_ne_true]

end

section
variable {s : State} {ch : Nat} (hh : s.bit (Reg.DMA_CH_CTRL ch) Fld.DMA_CH_CTRL_HOLD = true)
include hh

theorem State.dmaGo_ignored (hi : s.dmaState ch ≠ chIdle) : s.dmaGo ch = s := by
  rw [State.dmaGo, hh, Bool.not_true, if_neg Bool.false_ne_true, if_pos hi]

theorem State.dmaGo_fetches (hi : s.dmaState ch = chIdle) :
    s.dmaGo ch = (((s.setFld (Reg.DMA_CH_STATUS ch) Fld.DMA_CH_STATUS_STATE chBusy).setFld (Reg.DMA_CH_STATUS ch)
      Fld.DMA_CH_STATUS_CODE ST_OK).setReg (Reg.DMA_CH_BYTES ch) 0).dmaFetch ch (s.reg (Reg.DMA_CH_DESC ch)).toNat := by
  rw [State.dmaGo, hh, Bool.not_true, if_neg Bool.false_ne_true, if_neg (not_not_intro hi)]

end

/-! The ends of a descriptor. -/

/-- The state once the stream of a run has passed the inbound and then the outbound units of its channel and is stored and
counted. -/
def State.dmaDone (s : State) (ch : Nat) (run : DmaRun) : State :=
  let a := s.chkThrough (s.dmaUnits ch false) (s.dmaStream run.desc) true
  let b := a.1.chkThrough (s.dmaUnits ch true) a.2.1 true
  (b.1.dmaStore run.desc b.2.1).bump (Reg.DMA_CH_BYTES ch) Fld.DMA_CH_BYTES_COUNT run.desc.total

/-- Does every value that the inbound units strip from the stream of a run agree? -/
def State.dmaAgrees (s : State) (ch : Nat) (run : DmaRun) : Bool :=
  (s.chkThrough (s.dmaUnits ch false) (s.dmaStream run.desc) true).2.2

section
variable {s : State} {ch : Nat} {run : DmaRun}

/-- What follows the last write response of a descriptor, from the state with its stream stored (R257, R259). -/
theorem State.dmaComplete_eq : s.dmaComplete ch run =
    if !s.dmaAgrees ch run then (s.dmaDone ch run).dmaEnd ch run ST_DMA_CHECK 0
    else if run.desc.last then (s.dmaDone ch run).dmaEnd ch run ST_OK 0
    else (if run.desc.irq then (s.dmaDone ch run).dmaRecord ch run.desc.tag ST_OK run.at_ 0
      else s.dmaDone ch run).dmaFetch ch run.desc.next := rfl

theorem State.dmaComplete_differs (ha : s.dmaAgrees ch run = false) :
    s.dmaComplete ch run = (s.dmaDone ch run).dmaEnd ch run ST_DMA_CHECK 0 := by
  rw [State.dmaComplete_eq, ha, Bool.not_false, if_pos rfl]

variable (ha : s.dmaAgrees ch run = true)
include ha

theorem State.dmaComplete_last (hl : run.desc.last = true) :
    s.dmaComplete ch run = (s.dmaDone ch run).dmaEnd ch run ST_OK 0 := by
  rw [State.dmaComplete_eq, ha, Bool.not_true, if_neg Bool.false_ne_true, if_pos hl]

theorem State.dmaComplete_continues (hl : run.desc.last = false) :
    s.dmaComplete ch run = (if run.desc.irq then (s.dmaDone ch run).dmaRecord ch run.desc.tag ST_OK run.at_ 0
      else s.dmaDone ch run).dmaFetch ch run.desc.next := by
  rw [State.dmaComplete_eq, ha, hl, Bool.not_true, if_neg Bool.false_ne_true, if_neg Bool.false_ne_true]

end

section
variable {s : State} {ch : Fin 64} {run : DmaRun} (hl : s.live = true) (hf : s.dma.find ch = some run)
include hl hf

theorem exec_dmaDescriptorComplete_run : exec (.dmaDescriptorComplete ch) s =
    .next (if s.dmaState ch = chBusy ∧ s.dmaStalled ch = false then s.dmaComplete ch run else s) := by
  rw [exec_dmaDescriptorComplete, execDmaDescriptorComplete, act_live hl, hf]
  simp only [Bool.and_eq_true, decide_eq_true_eq, Bool.not_eq_true']

theorem exec_dmaTransferError_run (ecc : Bool) (p : Nat) : exec (.dmaTransferError ch ecc p) s =
    .next (s.dmaStop ch run p (if ecc then ST_DMA_ECC else ST_DMA_BUS)) := by
  rw [exec_dmaTransferError, execDmaTransferError, act_live hl, hf]

theorem exec_dmaAbortComplete_aborting (ha : s.dmaState ch = chAborting) (p : Option Nat) :
    exec (.dmaAbortComplete ch p) s = .next (match p with
      | some n => s.dmaStop ch run n ST_DMA_ABORTED
      | none => s.dmaUnfetched ch run) := by
  rw [exec_dmaAbortComplete, execDmaAbortComplete, act_live hl, hf]
  exact congrArg _ (if_pos ha)

end

/-- Settles O36: a host command by HOLD, STATE and the claim, the end of a descriptor by the stall, the check values and
LAST, and a stop by what of the stream came through. -/
theorem moversComplete : Obligations.MoversComplete := by
  unfold Obligations.MoversComplete
  intro s ch status held
  refine ⟨fun hr => ?_, fun run hl hf => ?_⟩
  · have hold : exec (.dmaHold ch) s = .next (s.dmaHold ch) := by rw [exec_dmaHold, execDmaHold, hostAct_reaches hr]
    have release : exec (.dmaRelease ch) s = .next (s.dmaRelease ch) := by rw [exec_dmaRelease, execDmaRelease, hostAct_reaches hr]
    have go : exec (.dmaGo ch) s = .next (s.dmaGo ch) := by rw [exec_dmaGo, execDmaGo, hostAct_reaches hr]
    have abort : exec (.dmaAbort ch) s = .next (s.dmaAbort ch) := by rw [exec_dmaAbort, execDmaAbort, hostAct_reaches hr]
    rw [hold, release, go, abort]
    refine ⟨fun hh => ?_, fun hh hc => ?_, fun hh hc => ?_, fun hh hi => ?_, fun h => ?_, fun hh => ?_, fun hh hi => ?_,
      fun hh hi => ?_, fun hb => ?_, fun hb => ?_⟩
    · rw [State.dmaHold_held hh]
    · rw [State.dmaHold_claimed hh hc]
    · rw [State.dmaHold_claims hh hc]
    · rw [State.dmaRelease_idle hh hi]
    · rw [State.dmaRelease_ignored h]
    · rw [State.dmaGo_notHeld hh]
    · rw [State.dmaGo_ignored hh hi]
    · rw [State.dmaGo_fetches hh hi]
    · rw [State.dmaAbort_busy hb]
    · rw [State.dmaAbort_ignored hb]
  · intro total stop a b done
    rw [exec_dmaDescriptorComplete_run hl hf]
    refine ⟨fun hb => ⟨fun hs => ?_, fun hs => ⟨fun hok => ?_, fun hok hlast => ?_, fun hok hlast => ?_⟩⟩, fun ecc p => ?_,
      fun p ha => ?_⟩
    · rw [if_neg (by simp [hs])]
    · rw [if_pos ⟨hb, hs⟩, State.dmaComplete_differs hok]
      rfl
    · rw [if_pos ⟨hb, hs⟩, State.dmaComplete_last hok hlast]
      rfl
    · rw [if_pos ⟨hb, hs⟩, State.dmaComplete_continues hok hlast]
      rfl
    · rw [exec_dmaTransferError_run hl hf]
      rfl
    · rw [exec_dmaAbortComplete_aborting hl hf ha]
      cases p <;> rfl

end Sys2Proof.Machine

/-! ### Buffer pools (O37) -/

namespace Sys2Proof.Machine

/-! Requests. -/

section
variable {s : State} {k stage : Nat} {p : Pool} (hp : s.pools.find k = some p) (who : Option (Nat × Nat))
include hp

theorem State.poolRequest_granted (hg : p.grants stage = true) :
    s.poolRequest k stage who = ((s.poolTake k p stage).1, some (s.poolTake k p stage).2) := by
  simp only [State.poolRequest, hp, hg, if_true]

theorem State.poolRequest_waits (hg : p.grants stage = false) (hr : p.requester stage ≠ none) :
    s.poolRequest k stage who = (s.setPool k { p with waiting := p.waiting ++ [(stage, who)] }, none) := by
  simp only [State.poolRequest, hp, hg, Option.isSome_iff_ne_none.2 hr, Bool.false_eq_true, if_false, if_true]

/-- A stage that is not a requester of the pool is not granted and does not wait (R260). -/
theorem State.poolRequest_stranger (hr : p.requester stage = none) : s.poolRequest k stage who = (s, none) := by
  have hg : p.grants stage = false := by rw [Pool.grants, hr]
  simp only [State.poolRequest, hp, hg, hr, Option.isSome_none, Bool.false_eq_true, if_false]

end

/-! Handles that name no buffer (R265). -/

section
variable {s : State} {h : Nat} (stage count : Nat)
  (hx : s.pools.find (handlePool h) = none ∨ ∃ p, s.pools.find (handlePool h) = some p ∧ p.buffers ≤ handleIndex h)
include hx

theorem State.poolRelease_badHandle : s.poolRelease h stage = s.poolRefuse h stage ST_POOL_HANDLE := by
  rcases hx with hn | ⟨p, hp, hi⟩
  · simp only [State.poolRelease, hn]
  · simp only [State.poolRelease, hp, ge_iff_le, hi, if_true]

theorem State.poolSetCount_badHandle : s.poolSetCount h stage count = s.poolRefuse h stage ST_POOL_HANDLE := by
  rcases hx with hn | ⟨p, hp, hi⟩
  · simp only [State.poolSetCount, hn]
  · simp only [State.poolSetCount, hp, ge_iff_le, hi, if_true]

end

/-! Handles of a buffer: FREE, or HELD with a count (R264). -/

section
variable {s : State} {h : Nat} (stage : Nat) {p : Pool} (hp : s.pools.find (handlePool h) = some p) (hi : handleIndex h < p.buffers)
include hp hi

theorem State.poolRelease_free (hb : p.held.find (handleIndex h) = none) :
    s.poolRelease h stage = s.poolRefuse h stage ST_POOL_DOUBLE_FREE := by
  simp only [State.poolRelease, hp, Nat.not_le.2 hi, hb, if_false]

theorem State.poolSetCount_free (count : Nat) (hb : p.held.find (handleIndex h) = none) :
    s.poolSetCount h stage count = s.poolRefuse h stage ST_POOL_NOT_HELD := by
  simp only [State.poolSetCount, hp, Nat.not_le.2 hi, hb, if_false]

variable {b : HeldBuffer} (hb : p.held.find (handleIndex h) = some b)
include hb

theorem State.poolRelease_frees (hc : b.count ≤ 1) :
    s.poolRelease h stage = State.poolServe (handlePool h) (p.waiting.length + 1)
      (s.setPool (handlePool h) { p with held := p.held.erase (handleIndex h) }) := by
  simp only [State.poolRelease, hp, Nat.not_le.2 hi, hb, hc, if_false, if_true]

theorem State.poolRelease_counts (hc : 1 < b.count) :
    s.poolRelease h stage = s.setPool (handlePool h)
      { p with held := p.held.insert (handleIndex h) { b with count := b.count - 1 } } := by
  simp only [State.poolRelease, hp, Nat.not_le.2 hi, hb, Nat.not_le.2 hc, if_false]

theorem State.poolSetCount_held (count : Nat) :
    s.poolSetCount h stage count = if 1 ≤ count ∧ count ≤ 255 then s.setPool (handlePool h)
      { p with held := p.held.insert (handleIndex h) { b with count := count } } else s := by
  simp only [State.poolSetCount, hp, Nat.not_le.2 hi, hb, if_false]

end

/-- Settles O37: a request by the grant test and the requesters, a release and a count by what the handle names. -/
theorem poolsComplete : Obligations.PoolsComplete := by
  unfold Obligations.PoolsComplete
  intro s
  refine ⟨fun hl k stage p hp => ?_, fun hl h stage count => ?_, fun k hr => ?_⟩
  · rw [exec_poolRequest, execPoolRequest, act_live hl]
    refine ⟨fun hg => ?_, fun hg hr => ?_, fun hr => ?_⟩
    · rw [State.poolRequest_granted hp none hg]
      rfl
    · rw [State.poolRequest_waits hp none hg hr]
    · rw [State.poolRequest_stranger hp none hr]
  · intro refuse
    have release : exec (.poolRelease h stage) s = .next (s.poolRelease h stage) := by
      rw [exec_poolRelease, execPoolRelease, act_live hl]
    have setCount : exec (.poolSetCount h stage count) s = .next (s.poolSetCount h stage count) := by
      rw [exec_poolSetCount, execPoolSetCount, act_live hl]
    have refused (code : Nat) : refuse code = Host.Outcome.next (s.poolRefuse h stage code) := rfl
    rw [release, setCount, refused, refused, refused]
    refine ⟨fun hx => ⟨?_, ?_⟩, fun p hp hi => ⟨fun hb => ⟨?_, ?_⟩, fun b hb => ⟨fun hc => ?_, fun hc => ?_,
      fun h1 h255 => ?_, fun hc => ?_⟩⟩⟩
    · rw [State.poolRelease_badHandle stage hx]
    · rw [State.poolSetCount_badHandle stage count hx]
    · rw [State.poolRelease_free stage hp hi hb]
    · rw [State.poolSetCount_free stage hp hi count hb]
    · rw [State.poolRelease_frees stage hp hi hb hc]
    · rw [State.poolRelease_counts stage hp hi hb hc]
    · rw [State.poolSetCount_held stage hp hi hb, if_pos ⟨h1, h255⟩]
    · rw [State.poolSetCount_held stage hp hi hb, if_neg hc]
  · rw [exec_poolMinFreeRead, execPoolMinFreeRead, hostAct_reaches hr, State.poolMinFreeRead]

end Sys2Proof.Machine

/-! ### Check-value units (O38) -/

namespace Sys2Proof.Machine

/-! Commands of the host, by whether it holds the unit (R267, R269). -/

/-- CHK_CTRL of a unit with ENABLE, PAUSE and PAUSED clear. -/
def State.chkOff (s : State) (u : Nat) : State :=
  ((s.setBit (Reg.CHK_CTRL u) Fld.CHK_CTRL_ENABLE false).setBit (Reg.CHK_CTRL u) Fld.CHK_CTRL_PAUSE false).setBit
    (Reg.CHK_CTRL u) Fld.CHK_CTRL_PAUSED false

theorem State.chkHold_claimed {s : State} {u : Nat} (hc : s.claimOwner 0x0B u ≠ none) : s.chkHold u = s := by
  rw [State.chkHold, Option.isSome_iff_ne_none.2 hc, Bool.or_true, if_pos rfl]

section
variable {s : State} {u : Nat} (hh : s.chkHeld u = true)
include hh

theorem State.chkHold_held : s.chkHold u = s := by
  rw [State.chkHold, hh, Bool.true_or, if_pos rfl]

theorem State.chkDisable_held : s.chkDisable u = s.chkOff u := by
  rw [State.chkDisable, if_pos hh, State.chkOff]

theorem State.chkRelease_held :
    s.chkRelease u = ((s.chkOff u).setBit (Reg.CHK_CTRL u) Fld.CHK_CTRL_HOLD false).dropClaim 0x0B u ownerManagement := by
  rw [State.chkRelease, if_pos hh, State.chkDisable_held hh]

theorem State.chkResume_held : s.chkResume u =
    (s.setBit (Reg.CHK_CTRL u) Fld.CHK_CTRL_PAUSE false).setBit (Reg.CHK_CTRL u) Fld.CHK_CTRL_PAUSED false := by
  rw [State.chkResume, if_pos hh]

theorem State.chkPause_on (ho : s.chkOn u = true) : s.chkPause u = s.setBit (Reg.CHK_CTRL u) Fld.CHK_CTRL_PAUSE true := by
  rw [State.chkPause, hh, ho, Bool.and_self, if_pos rfl]

theorem State.chkEnable_ok (hc : (s.chkConfig u).ok = true) :
    s.chkEnable u = (((s.setBit (Reg.CHK_CTRL u) Fld.CHK_CTRL_ENABLE true).setFld (Reg.CHK_CTRL u) Fld.CHK_CTRL_CODE 0).setChk u
      ⟨(s.chkConfig u).poly.initial, 0, 0⟩).setReg (Reg.CHK_MISMATCH_AT u) 0xFFFF_FFFF_FFFF_FFFF := by
  rw [State.chkEnable, if_pos hh, if_pos hc]

theorem State.chkEnable_badConfig (hc : (s.chkConfig u).ok = false) :
    s.chkEnable u =
      (s.setBit (Reg.CHK_CTRL u) Fld.CHK_CTRL_ENABLE false).setFld (Reg.CHK_CTRL u) Fld.CHK_CTRL_CODE ST_CHK_CONFIG := by
  rw [State.chkEnable, if_pos hh, hc, if_neg Bool.false_ne_true]

end

section
variable {s : State} {u : Nat} (hh : s.chkHeld u = false)
include hh

theorem State.chkHold_claims (hc : s.claimOwner 0x0B u = none) :
    s.chkHold u = (s.setBit (Reg.CHK_CTRL u) Fld.CHK_CTRL_HOLD true).addClaim 0x0B u ownerManagement := by
  rw [State.chkHold, hh, hc, Option.isSome_none, Bool.or_self, if_neg Bool.false_ne_true]

theorem State.chkRelease_free : s.chkRelease u = s := by
  rw [State.chkRelease, hh, if_neg Bool.false_ne_true]

theorem State.chkDisable_free : s.chkDisable u = s := by
  rw [State.chkDisable, hh, if_neg Bool.false_ne_true]

theorem State.chkResume_free : s.chkResume u = s := by
  rw [State.chkResume, hh, if_neg Bool.false_ne_true]

theorem State.chkPause_free : s.chkPause u = s := by
  rw [State.chkPause, hh, Bool.false_and, if_neg Bool.false_ne_true]

theorem State.chkEnable_free : s.chkEnable u = s := by
  rw [State.chkEnable, hh, if_neg Bool.false_ne_true]

end

/-! Configuration and running value (R269). -/

theorem State.chkConfigWrite_claimed {s : State} {u : Nat} (hc : s.chkClaimed u = true) (filter : Bool) (v : Word64) :
    s.chkConfigWrite u filter v = s := by
  rw [State.chkConfigWrite, if_pos hc]

theorem State.chkConfigWrite_unclaimed {s : State} {u : Nat} (hc : s.chkClaimed u = false) (filter : Bool) (v : Word64) :
    s.chkConfigWrite u filter v = if filter then s.setReg (Reg.CHK_FILTER u) (v &&& chkFilterMask)
      else s.setReg (Reg.CHK_CFG u) (v &&& chkCfgMask) := by
  rw [State.chkConfigWrite, hc, if_neg Bool.false_ne_true]

theorem State.chkStateWrite_running {s : State} {u : Nat} (ho : s.chkOn u = true) (hp : s.chkPaused u = false) (bytes : Bool)
    (v : Word64) : s.chkStateWrite u bytes v = s := by
  rw [State.chkStateWrite, ho, hp, Bool.not_false, Bool.and_self, if_pos rfl]

theorem State.chkStateWrite_quiet {s : State} {u : Nat} (h : s.chkOn u = false ∨ s.chkPaused u = true) (bytes : Bool)
    (v : Word64) : s.chkStateWrite u bytes v =
      if bytes then (s.setChk u { s.chkUnit u with bytes := v.toNat, into := v.toNat % (s.chkConfig u).record }).setReg
        (Reg.CHK_BYTES u) v
      else (s.setChk u { s.chkUnit u with running := v }).setReg (Reg.CHK_RUNNING u) v := by
  have quiet : (s.chkOn u && !s.chkPaused u) = false := by rcases h with h | h <;> simp [h]
  rw [State.chkStateWrite, quiet, if_neg Bool.false_ne_true]

/-! The snooped stream (R267, R268). -/

section
variable {s : State} {u : Fin 16}

theorem exec_chkPaused_asked (hl : s.live = true) (ho : s.chkOn u = true)
    (hp : s.bit (Reg.CHK_CTRL u) Fld.CHK_CTRL_PAUSE = true) :
    exec (.chkPaused u) s = .next (s.setBit (Reg.CHK_CTRL u) Fld.CHK_CTRL_PAUSED true) := by
  rw [exec_chkPaused, execChkPaused, act_live hl, ho, hp, Bool.and_self, if_pos rfl]

theorem exec_chkRecord_on (hl : s.live = true) (ho : s.chkOn u = true) (hp : s.chkPaused u = false) (data trailer : Bytes) :
    exec (.chkRecord u data trailer) s = .next (s.chkRecord u data trailer).1 := by
  rw [exec_chkRecord, execChkRecord, act_live hl, ho, hp, Bool.not_false, Bool.and_self, if_pos rfl]

end

/-- The value that follows a record in the stream, once the unit has seen the record. -/
def State.chkValue (s : State) (u : Nat) (data : Bytes) : Bytes :=
  (s.chkConfig u).poly.appended (((s.chkFeed u data).chkEndRecord u).reg (Reg.CHK_RESULT u))

theorem State.chkRecord_differs {s : State} {u : Nat} {data trailer : Bytes} (hm : (s.chkConfig u).mode = chkStrip)
    (hv : s.chkValue u data ≠ trailer) : (s.chkRecord u data trailer).1 =
      ((s.chkFeed u data).chkEndRecord u).chkMismatch u ((s.chkUnit u).bytes - (s.chkUnit u).into) := by
  rw [State.chkValue] at hv
  simp only [State.chkRecord, hm, hv, if_true, if_false]

/-- A unit in another mode, or one whose value agrees, takes the record in and finds no fault. -/
theorem State.chkRecord_passes {s : State} {u : Nat} {data trailer : Bytes}
    (h : (s.chkConfig u).mode ≠ chkStrip ∨ s.chkValue u data = trailer) :
    (s.chkRecord u data trailer).1 = (s.chkFeed u data).chkEndRecord u := by
  rw [State.chkValue] at h
  by_cases hm : (s.chkConfig u).mode = chkStrip
  · have agrees := h.resolve_left (not_not_intro hm)
    simp only [State.chkRecord, hm, agrees, if_true]
  · simp only [State.chkRecord, hm, if_false]
    split <;> rfl

/-- Settles O38: a host command by HOLD, the claim and the configuration, a write of the running value by ENABLE and PAUSED,
and a record by the mode and the trailer. -/
theorem checkUnitsComplete : Obligations.CheckUnitsComplete := by
  unfold Obligations.CheckUnitsComplete
  intro s u flag code off
  refine ⟨fun hr => ?_, fun v hr => ?_, fun v hr => ⟨fun h => ?_, fun ho hp b => ?_, ?_⟩,
    fun hl => ⟨fun ho hp => ?_, fun data trailer ho hp => ?_⟩⟩
  · have hold : exec (.chkHold u) s = .next (s.chkHold u) := by rw [exec_chkHold, execChkHold, hostAct_reaches hr]
    have release : exec (.chkRelease u) s = .next (s.chkRelease u).drainStalled := by
      rw [exec_chkRelease, execChkRelease, hostAct_reaches hr]
    have disable : exec (.chkDisable u) s = .next (s.chkDisable u).drainStalled := by
      rw [exec_chkDisable, execChkDisable, hostAct_reaches hr]
    have resume : exec (.chkResume u) s = .next (s.chkResume u).drainStalled := by
      rw [exec_chkResume, execChkResume, hostAct_reaches hr]
    have pause : exec (.chkPause u) s = .next (s.chkPause u) := by rw [exec_chkPause, execChkPause, hostAct_reaches hr]
    have enable : exec (.chkEnable u) s = .next (s.chkEnable u) := by rw [exec_chkEnable, execChkEnable, hostAct_reaches hr]
    rw [hold, release, disable, resume, pause, enable]
    refine ⟨fun hh => ?_, fun _ hc => ?_, fun hh hc => ?_, fun hh => ⟨?_, ?_, ?_, fun ho => ?_, fun hc => ?_, fun hc => ?_⟩,
      fun hh => ⟨?_, ?_, ?_, ?_, ?_⟩⟩
    · rw [State.chkHold_held hh]
    · rw [State.chkHold_claimed hc]
    · rw [State.chkHold_claims hh hc]
    · rw [State.chkRelease_held hh]
      rfl
    · rw [State.chkDisable_held hh]
      rfl
    · rw [State.chkResume_held hh]
    · rw [State.chkPause_on hh ho]
    · rw [State.chkEnable_ok hh hc]
    · rw [State.chkEnable_badConfig hh hc]
    · rw [State.chkRelease_free hh]
    · rw [State.chkDisable_free hh]
    · rw [State.chkResume_free hh]
    · rw [State.chkPause_free hh]
    · rw [State.chkEnable_free hh]
  · have row (filter : Bool) : exec (.chkConfigWrite u filter v) s = .next (s.chkConfigWrite u filter v) := by
      rw [exec_chkConfigWrite, execChkConfigWrite, hostAct_reaches hr]
    rw [row, row]
    refine ⟨fun hc => ?_, fun hc => ?_⟩
    · rw [State.chkConfigWrite_claimed hc, State.chkConfigWrite_claimed hc]
      exact ⟨rfl, rfl⟩
    · rw [State.chkConfigWrite_unclaimed hc, State.chkConfigWrite_unclaimed hc]
      exact ⟨rfl, rfl⟩
  · have row (bytes : Bool) : exec (.chkStateWrite u bytes v) s = .next (s.chkStateWrite u bytes v) := by
      rw [exec_chkStateWrite, execChkStateWrite, hostAct_reaches hr]
    rw [row, row, State.chkStateWrite_quiet h, State.chkStateWrite_quiet h]
    exact ⟨rfl, rfl⟩
  · rw [exec_chkStateWrite, execChkStateWrite, hostAct_reaches hr, State.chkStateWrite_running ho hp]
  · rw [exec_chkRunningRead, execChkRunningRead, hostAct_reaches hr, State.chkRunningRead]
  · rw [exec_chkPaused_asked hl ho hp]
  · intro t value
    rw [exec_chkRecord_on hl ho hp]
    refine ⟨fun hm hv => ?_, fun h => ?_⟩
    · rw [State.chkRecord_differs hm hv]
    · rw [State.chkRecord_passes h]

end Sys2Proof.Machine

/-! ### Ends of block commands and controller resets (O48) -/

namespace Sys2Proof.Machine

/-! Channels that no paused check unit stalls (R269). -/

section
variable {s : State} (hu : ∀ k, k < 16 → s.chkPaused k = false)
include hu

theorem State.nandStalled_unpaused (block n : Nat) (outbound : Bool) : s.nandStalled block n outbound = false := by
  rw [State.nandStalled, List.any_eq_false]
  intro k hk
  rw [hu k (List.mem_range.1 (List.mem_filter.1 hk).1)]
  exact Bool.false_ne_true

theorem State.writeStalled_unpaused (ns n : Nat) : s.writeStalled ns n = false := by
  rw [State.writeStalled, List.any_eq_false]
  intro b _
  rw [State.nandStalled_unpaused hu]
  exact Bool.false_ne_true

end

/-! NAND_READ_DONE: how the read of a mapped unit ends (R310). -/

/-- Did the medium lose the unit? -/
def StoredUnit.lost (u : StoredUnit) (outcome : NandOutcome) : Bool := u.bad || outcome = .uncorrectable

/-- The decode of a unit is counted, and what was decoded passes the check units of its channel: do their values agree? -/
def State.decodeUnit (s : State) (n : Nat) (u : StoredUnit) (outcome : NandOutcome) : State × Bool :=
  let counted := s.countCorrected (if u.bad then .uncorrectable else outcome)
  if u.lost outcome then (counted, true) else counted.checkUnit (Config.blockChannel u.block) n u

/-- Does the read of a unit fail: lost, or with check values that disagree? -/
def State.unitFails (s : State) (n : Nat) (u : StoredUnit) (outcome : NandOutcome) : Bool :=
  u.lost outcome || !(s.decodeUnit n u outcome).2

/-- The command with a unit of its range read. -/
def TrsCmd.sawUnit (c : TrsCmd) (unit : Nat) (fails : Bool) : TrsCmd :=
  { c with seen := unit :: c.seen, failed := if fails then some (min unit (c.failed.getD unit)) else c.failed }

section
variable {s : State} {set unit : Nat} {c : TrsCmd} {u : StoredUnit} {outcome : NandOutcome}

theorem State.readUnit_mapped {n lba : Nat} (hm : s.mapped n lba = some u) : s.readUnit n lba outcome =
    if s.unitFails n u outcome then ((s.decodeUnit n u outcome).1.unitFailed u.pseq (u.lost outcome), false)
    else ((s.decodeUnit n u outcome).1, true) := by
  rw [State.readUnit, hm]
  rfl

theorem State.nandRead_stalled (hs : s.nandStalled u.block c.nsid false = true) : s.nandRead set unit c u outcome = s := by
  rw [State.nandRead, if_pos hs]

theorem State.nandRead_ends (hm : s.mapped c.nsid (c.lba + unit) = some u) (hs : s.nandStalled u.block c.nsid false = false) :
    s.nandRead set unit c u outcome =
      (if s.unitFails c.nsid u outcome then (s.decodeUnit c.nsid u outcome).1.unitFailed u.pseq (u.lost outcome)
        else (s.decodeUnit c.nsid u outcome).1).adjustCmd set fun d => d.sawUnit unit (s.unitFails c.nsid u outcome) := by
  rw [State.nandRead, hs, if_neg Bool.false_ne_true, State.readUnit_mapped hm]
  cases s.unitFails c.nsid u outcome <;> rfl

end

theorem exec_nandReadDone_waited {s : State} {set : Fin 256} {unit : Nat} {c : TrsCmd} {u : StoredUnit} (outcome : NandOutcome)
    (hl : s.live = true) (hf : s.store.cmds.find set = some c) (hm : s.mapped c.nsid (c.lba + unit) = some u)
    (hs : s.trsState set = trsStarted) (hop : c.opcode = blkRead ∨ c.opcode = blkVerify) (hn : unit < c.count)
    (hnew : unit ∉ c.seen) : exec (.nandReadDone set unit outcome) s = .next (s.nandRead set unit c u outcome) := by
  have waited : (decide (s.trsState set = trsStarted) && (decide (c.opcode = blkRead) || decide (c.opcode = blkVerify)) &&
      decide (unit < c.count) && !c.seen.contains unit) = true := by simp [hs, hop, hn, hnew]
  rw [exec_nandReadDone, execNandReadDone, act_live hl, hf]
  simp only [hm, waited, if_true]

/-! TRS_COMMAND_COMPLETE (R304 to R307). -/

theorem exec_trsCommandComplete_cmd {s : State} {set : Fin 256} {c : TrsCmd} (hl : s.live = true)
    (hf : s.store.cmds.find set = some c) : exec (.trsCommandComplete set) s = .next (s.trsEnd set c) := by
  rw [exec_trsCommandComplete, execTrsCommandComplete, act_live hl, hf]

section
variable {s : State} {t : Nat} {c : TrsCmd}

theorem State.trsEnd_flush (hop : c.opcode = blkFlush) :
    s.trsEnd t c = if s.flushWaits c then s else s.trsFinish t ST_OK 0 := by
  rw [State.trsEnd, if_pos hop]

theorem State.trsEnd_waits (hop : c.opcode ≠ blkFlush) (h : s.trsState t ≠ trsStarted ∨ s.trsBlocked c = true) :
    s.trsEnd t c = s := by
  have waits : (decide (s.trsState t ≠ trsStarted) || s.trsBlocked c) = true := by simpa using h
  rw [State.trsEnd, if_neg hop, if_pos waits]

variable (hs : s.trsState t = trsStarted) (hb : s.trsBlocked c = false)
include hs hb

/-- A started command that nothing stands before is not kept from its end by its state. -/
theorem State.trsEnd_free_test : (decide (s.trsState t ≠ trsStarted) || s.trsBlocked c) = false := by
  simp [hs, hb]

/-- A READ or VERIFY whose units are there up to the first failure ends with them. -/
theorem State.trsEnd_read (hop : c.opcode = blkRead ∨ c.opcode = blkVerify) : s.trsEnd t c =
    if !s.unitsSeen c (c.failed.getD c.count) then s
    else (if c.opcode = blkRead then s.writeMem .host c.addr (s.unitsData c.nsid c.lba (c.failed.getD c.count)) else s).trsFinish t
      (if c.failed.isSome then ST_MEDIUM_UNREADABLE else ST_OK) (c.failed.getD c.count) := by
  have flush : c.opcode ≠ blkFlush := by rcases hop with e | e <;> rw [e] <;> decide
  have read : (decide (c.opcode = blkRead) || decide (c.opcode = blkVerify)) = true := by simpa using hop
  rw [State.trsEnd, if_neg flush, State.trsEnd_free_test hs hb, if_neg Bool.false_ne_true, if_pos read]

/-- A write ends with the units that it fetched, where there is room for them and no channel stalls. -/
theorem State.trsEnd_write (hop : c.opcode = blkWrite ∨ c.opcode = blkAtomic) : s.trsEnd t c =
    if s.store.room < (c.cut.getD (c.count, ST_OK)).1 || s.writeStalled c.nsid (c.cut.getD (c.count, ST_OK)).1 then s
    else (s.storeUnits c.nsid c.lba (c.fetched.take (c.cut.getD (c.count, ST_OK)).1)
      (if c.opcode = blkAtomic then some c.group else none)).trsFinish t (c.cut.getD (c.count, ST_OK)).2
        (c.cut.getD (c.count, ST_OK)).1 := by
  have flush : c.opcode ≠ blkFlush := by rcases hop with e | e <;> rw [e] <;> decide
  have read : (decide (c.opcode = blkRead) || decide (c.opcode = blkVerify)) = false := by rcases hop with e | e <;> rw [e] <;> decide
  have write : (decide (c.opcode = blkWrite) || decide (c.opcode = blkAtomic)) = true := by simpa using hop
  rw [State.trsEnd, if_neg flush, State.trsEnd_free_test hs hb, if_neg Bool.false_ne_true, read, if_neg Bool.false_ne_true,
    if_pos write]

/-- TRIM and FORMAT need room for one record. -/
theorem State.trsEnd_unmap (hop : c.opcode = blkTrim ∨ c.opcode = blkFormat) : s.trsEnd t c =
    if s.store.room < 1 then s
    else if c.opcode = blkTrim then (s.unmapUnits c.nsid c.lba c.count unitTrimRec).trsFinish t ST_OK c.count
    else (s.unmapUnits c.nsid 0 (s.nsSize c.nsid) unitFormatRec).trsFinish t ST_OK 0 := by
  have flush : c.opcode ≠ blkFlush := by rcases hop with e | e <;> rw [e] <;> decide
  have read : (decide (c.opcode = blkRead) || decide (c.opcode = blkVerify)) = false := by rcases hop with e | e <;> rw [e] <;> decide
  have write : (decide (c.opcode = blkWrite) || decide (c.opcode = blkAtomic)) = false := by
    rcases hop with e | e <;> rw [e] <;> decide
  rw [State.trsEnd, if_neg flush, State.trsEnd_free_test hs hb, if_neg Bool.false_ne_true, read, if_neg Bool.false_ne_true, write,
    if_neg Bool.false_ne_true]

section
variable (hop : c.opcode = blkRead ∨ c.opcode = blkVerify)
include hop

theorem State.trsEnd_readWhole (hf : c.failed = none) (hu : s.unitsSeen c c.count = true) : s.trsEnd t c =
    (if c.opcode = blkRead then s.writeMem .host c.addr (s.unitsData c.nsid c.lba c.count) else s).trsFinish t ST_OK c.count := by
  rw [State.trsEnd_read hs hb hop, hf, Option.getD_none, hu, Bool.not_true, if_neg Bool.false_ne_true, Option.isSome_none,
    if_neg Bool.false_ne_true]

theorem State.trsEnd_readFailed {n : Nat} (hf : c.failed = some n) (hu : s.unitsSeen c n = true) : s.trsEnd t c =
    (if c.opcode = blkRead then s.writeMem .host c.addr (s.unitsData c.nsid c.lba n) else s).trsFinish t ST_MEDIUM_UNREADABLE n := by
  rw [State.trsEnd_read hs hb hop, hf, Option.getD_some, hu, Bool.not_true, if_neg Bool.false_ne_true, Option.isSome_some, if_pos rfl]

theorem State.trsEnd_unseen (hu : s.unitsSeen c (c.failed.getD c.count) = false) : s.trsEnd t c = s := by
  rw [State.trsEnd_read hs hb hop, hu, Bool.not_false, if_pos rfl]

end

section
variable (hop : c.opcode = blkWrite ∨ c.opcode = blkAtomic)
include hop

theorem State.trsEnd_writeNoRoom (hr : s.store.room < (c.cut.getD (c.count, ST_OK)).1) : s.trsEnd t c = s := by
  rw [State.trsEnd_write hs hb hop, decide_eq_true hr, Bool.true_or, if_pos rfl]

/-- With room, the end of a write turns on the stall alone. -/
theorem State.trsEnd_writeRoom (hr : (c.cut.getD (c.count, ST_OK)).1 ≤ s.store.room) : s.trsEnd t c =
    if s.writeStalled c.nsid (c.cut.getD (c.count, ST_OK)).1 then s
    else (s.storeUnits c.nsid c.lba (c.fetched.take (c.cut.getD (c.count, ST_OK)).1)
      (if c.opcode = blkAtomic then some c.group else none)).trsFinish t (c.cut.getD (c.count, ST_OK)).2
        (c.cut.getD (c.count, ST_OK)).1 := by
  rw [State.trsEnd_write hs hb hop, decide_eq_false (Nat.not_lt.2 hr), Bool.false_or]

end

theorem State.trsEnd_unmapNoRoom (hop : c.opcode = blkTrim ∨ c.opcode = blkFormat) (hr : s.store.room = 0) : s.trsEnd t c = s := by
  rw [State.trsEnd_unmap hs hb hop, hr, if_pos Nat.zero_lt_one]

theorem State.trsEnd_trim (hop : c.opcode = blkTrim) (hr : 1 ≤ s.store.room) :
    s.trsEnd t c = (s.unmapUnits c.nsid c.lba c.count unitTrimRec).trsFinish t ST_OK c.count := by
  rw [State.trsEnd_unmap hs hb (.inl hop), if_neg (Nat.not_lt.2 hr), if_pos hop]

theorem State.trsEnd_format (hop : c.opcode = blkFormat) (hr : 1 ≤ s.store.room) :
    s.trsEnd t c = (s.unmapUnits c.nsid 0 (s.nsSize c.nsid) unitFormatRec).trsFinish t ST_OK 0 := by
  rw [State.trsEnd_unmap hs hb (.inr hop), if_neg (Nat.not_lt.2 hr), if_neg (by rw [hop]; decide)]

end

/-! TRS_BUS_ERROR (R311). -/

theorem exec_trsBusError_started {s : State} {set : Fin 256} {c : TrsCmd} (hl : s.live = true)
    (hf : s.store.cmds.find set = some c) (hs : s.trsState set = trsStarted) (units : Nat) :
    exec (.trsBusError set units) s = .next (s.trsBus set units c) := by
  rw [exec_trsBusError, execTrsBusError, act_live hl, hf]
  exact congrArg _ (if_pos hs)

section
variable {s : State} {t units : Nat} {c : TrsCmd}

theorem State.trsBus_read (hop : c.opcode = blkRead) : s.trsBus t units c =
    ((s.writeMem .host c.addr (s.unitsData c.nsid c.lba (min units c.count))).writeFree .host
      (c.addr + unitBytes * min units c.count) (unitBytes * (c.count - min units c.count))).trsFinish t ST_TRS_BUS
        (min units c.count) := by
  rw [State.trsBus, if_pos hop]

theorem State.trsBus_write (hop : c.opcode = blkWrite) : s.trsBus t units c =
    s.adjustCmd t fun d => { d with cut := d.cut.or (some (min units c.count, ST_TRS_BUS)) } := by
  rw [State.trsBus, if_neg (by rw [hop]; decide), if_pos hop]

theorem State.trsBus_atomic (hop : c.opcode = blkAtomic) : s.trsBus t units c = s.trsFinish t ST_TRS_BUS 0 := by
  rw [State.trsBus, if_neg (by rw [hop]; decide), if_neg (by rw [hop]; decide), if_pos hop]

end

/-! Controller resets (R308). -/

theorem exec_controllerReset_reaches {s : State} (hr : s.hostReaches Reg.TRS_RESET = true) :
    exec .controllerReset s = .next s.controllerReset := by
  rw [exec_controllerReset, execControllerReset, hostAct_reaches hr]

theorem State.controllerReset_running {s : State} (hb : s.bit Reg.TRS_RESET Fld.TRS_RESET_BUSY = true) :
    s.controllerReset = s := by
  rw [State.controllerReset, if_pos hb]

theorem State.controllerReset_begins {s : State} (hb : s.bit Reg.TRS_RESET Fld.TRS_RESET_BUSY = false) :
    s.controllerReset = s.store.cmds.entries.foldl (fun t e => t.resetCmd e.1 e.2)
      (s.setBit Reg.TRS_RESET Fld.TRS_RESET_BUSY true) := by
  rw [State.controllerReset, hb, if_neg Bool.false_ne_true]

theorem State.resetCmd_pending {s : State} {t : Nat} (c : TrsCmd) (hp : s.trsState t = trsPending) :
    s.resetCmd t c = s.trsFinish t ST_ABORT_RESET 0 := by
  rw [State.resetCmd, if_pos hp]

theorem exec_controllerResetDone_ends {s : State} (hl : s.live = true) (hb : s.bit Reg.TRS_RESET Fld.TRS_RESET_BUSY = true)
    (he : s.store.cmds.entries = []) :
    exec .controllerResetDone s = .next ((s.setBit Reg.TRS_RESET Fld.TRS_RESET_BUSY false).raise 8) := by
  rw [exec_controllerResetDone, execControllerResetDone, act_live hl, hb, he, List.isEmpty_nil, Bool.and_self, if_pos rfl]

theorem exec_controllerResetDone_waits {s : State} (hl : s.live = true)
    (h : s.bit Reg.TRS_RESET Fld.TRS_RESET_BUSY = false ∨ s.store.cmds.entries ≠ []) : exec .controllerResetDone s = .next s := by
  have waits : (s.bit Reg.TRS_RESET Fld.TRS_RESET_BUSY && s.store.cmds.entries.isEmpty) = false := by
    rcases h with h | h <;> simp [h]
  rw [exec_controllerResetDone, execControllerResetDone, act_live hl, waits, if_neg Bool.false_ne_true]

/-- Settles O48: the read of a unit by the stall, the end of a command by its opcode and what it waits for, a bus error by the
opcode, and a reset by BUSY and the commands outstanding. -/
theorem taskRegisterSetsComplete : Obligations.TaskRegisterSetsComplete := by
  unfold Obligations.TaskRegisterSetsComplete
  refine ⟨fun s set c hl hf => ?_, fun s hr => ?_, fun s hl => ?_⟩
  · intro state ends reads unpaused toHost
    rw [exec_trsCommandComplete_cmd hl hf]
    refine ⟨fun unit outcome u hm hs hop hn hnew => ?_, fun hop => ⟨fun hw => ?_, fun hw => ?_⟩, fun hop h => ?_,
      fun hs hb => ⟨fun hop hfail hu => ?_, fun n hop hfail hu => ?_, fun hop hu => ?_,
        fun hop => ⟨fun room => ?_, fun room hu => ?_, fun room => ?_⟩, fun hop room => ?_, fun hop room => ?_,
        fun hop room => ?_⟩,
      fun units hs => ?_⟩
    · intro counted lost checked fails t done
      rw [exec_nandReadDone_waited outcome hl hf hm hs hop hn hnew]
      refine ⟨fun hu => ?_, ?_⟩
      · rw [State.nandRead_ends hm (State.nandStalled_unpaused hu _ _ _)]
        rfl
      · cases hst : s.nandStalled u.block c.nsid false with
        | true => rw [State.nandRead_stalled hst, if_pos rfl]
        | false =>
          rw [State.nandRead_ends hm hst, if_neg Bool.false_ne_true]
          rfl
    · rw [State.trsEnd_flush hop, if_pos hw]
    · rw [State.trsEnd_flush hop, hw, if_neg Bool.false_ne_true]
    · rw [State.trsEnd_waits hop h]
    · rw [State.trsEnd_readWhole hs hb hop hfail hu]
      rfl
    · rw [State.trsEnd_readFailed hs hb hop hfail hu]
      rfl
    · rw [State.trsEnd_unseen hs hb hop hu]
    · rw [State.trsEnd_writeNoRoom hs hb hop room]
    · rw [State.trsEnd_writeRoom hs hb hop room, State.writeStalled_unpaused hu, if_neg Bool.false_ne_true]
      rfl
    · rw [State.trsEnd_writeRoom hs hb hop room, apply_ite Host.Outcome.next]
      rfl
    · rw [State.trsEnd_unmapNoRoom hs hb hop room]
    · rw [State.trsEnd_trim hs hb hop room]
    · rw [State.trsEnd_format hs hb hop room]
      rfl
    · intro n
      rw [exec_trsBusError_started hl hf hs]
      refine ⟨fun hop => ?_, fun hop => ?_, fun hop => ?_⟩
      · rw [State.trsBus_read hop]
        rfl
      · rw [State.trsBus_write hop]
      · rw [State.trsBus_atomic hop]
  · rw [exec_controllerReset_reaches hr]
    refine ⟨fun hb => ?_, fun hb => ?_⟩
    · rw [State.controllerReset_running hb]
    · intro busy
      rw [State.controllerReset_begins hb]
      refine ⟨rfl, fun he => ?_, fun k c he hp => ?_⟩
      · rw [he, List.foldl_nil]
      · rw [he, List.foldl_cons, List.foldl_nil, State.resetCmd_pending c hp]
  · exact ⟨exec_controllerResetDone_ends hl, exec_controllerResetDone_waits hl⟩

end Sys2Proof.Machine

/-! ### Briar engines (O39) -/

namespace Sys2Proof.Machine

/-! Commands of the host. -/

section
variable {s : State} {e : Nat}

theorem State.briHold_held (hh : s.bit (Reg.BRI_ENG_CTRL e) Fld.BRI_ENG_CTRL_HOLD = true) : s.briHold e = s := by
  rw [State.briHold, if_pos hh]

theorem State.briGo_notHeld (hh : s.bit (Reg.BRI_ENG_CTRL e) Fld.BRI_ENG_CTRL_HOLD = false) :
    s.briGo e = s.setFld (Reg.BRI_ENG_STATUS e) Fld.BRI_ENG_STATUS_CODE ST_BRI_NOT_HELD := by
  rw [State.briGo, hh, Bool.not_false, if_pos rfl]

theorem State.briDrop_quiet (hh : s.bit (Reg.BRI_ENG_CTRL e) Fld.BRI_ENG_CTRL_HOLD = true) (hb : s.briState e ≠ chBusy)
    (ha : s.briState e ≠ chAborting) : s.briDrop e =
      (s.setBit (Reg.BRI_ENG_CTRL e) Fld.BRI_ENG_CTRL_HOLD false).dropClaim 0x05 (engineKey (briClass e) (briNumber e))
        ownerManagement := by
  rw [State.briDrop, hh, decide_eq_true hb, decide_eq_true ha, Bool.and_self, Bool.and_self, if_pos rfl]

/-- HOLD = 0 is ignored on an engine that the host does not hold and on one at work (R291). -/
theorem State.briDrop_ignored (h : s.bit (Reg.BRI_ENG_CTRL e) Fld.BRI_ENG_CTRL_HOLD = false ∨ s.briState e = chBusy ∨
    s.briState e = chAborting) : s.briDrop e = s := by
  have stays : (s.bit (Reg.BRI_ENG_CTRL e) Fld.BRI_ENG_CTRL_HOLD && decide (s.briState e ≠ chBusy) &&
      decide (s.briState e ≠ chAborting)) = false := by
    rcases h with h | h | h <;> simp [h]
  rw [State.briDrop, stays, if_neg Bool.false_ne_true]

theorem State.briAbort_busy (hb : s.briState e = chBusy) :
    s.briAbort e = s.setFld (Reg.BRI_ENG_STATUS e) Fld.BRI_ENG_STATUS_STATE chAborting := by
  rw [State.briAbort, if_pos hb]

theorem State.briAbort_ignored (hb : s.briState e ≠ chBusy) : s.briAbort e = s := by
  rw [State.briAbort, if_neg hb]

end

section
variable {s : State} {e : Nat} (hh : s.bit (Reg.BRI_ENG_CTRL e) Fld.BRI_ENG_CTRL_HOLD = false)
include hh

theorem State.briHold_bound (hb : s.bit (Reg.BRI_ENG_STATUS e) Fld.BRI_ENG_STATUS_BOUND = true) :
    s.briHold e = s.setFld (Reg.BRI_ENG_STATUS e) Fld.BRI_ENG_STATUS_CODE ST_BUSY_CLAIMED := by
  rw [State.briHold, hh, if_neg Bool.false_ne_true, if_pos hb]

theorem State.briHold_claims (hb : s.bit (Reg.BRI_ENG_STATUS e) Fld.BRI_ENG_STATUS_BOUND = false) :
    s.briHold e = ((((s.setBit (Reg.BRI_ENG_CTRL e) Fld.BRI_ENG_CTRL_HOLD true).addClaim 0x05
      (engineKey (briClass e) (briNumber e)) ownerManagement).putBri e ⟨none, none⟩).setReg (Reg.BRI_ENG_CONSUMED e) 0).setReg
        (Reg.BRI_ENG_PRODUCED e) 0 := by
  rw [State.briHold, hh, hb, if_neg Bool.false_ne_true, if_neg Bool.false_ne_true]

end

section
variable {s : State} {e : Nat} (hh : s.bit (Reg.BRI_ENG_CTRL e) Fld.BRI_ENG_CTRL_HOLD = true)
include hh

theorem State.briGo_ignored (hi : s.briState e ≠ chIdle) : s.briGo e = s := by
  rw [State.briGo, hh, Bool.not_true, if_neg Bool.false_ne_true, if_pos hi]

theorem State.briGo_fetches (hi : s.briState e = chIdle) :
    s.briGo e = ((s.setFld (Reg.BRI_ENG_STATUS e) Fld.BRI_ENG_STATUS_STATE chBusy).setFld (Reg.BRI_ENG_STATUS e)
      Fld.BRI_ENG_STATUS_CODE ST_OK).briFetch e (s.reg (Reg.BRI_ENG_DESC e)).toNat := by
  rw [State.briGo, hh, Bool.not_true, if_neg Bool.false_ne_true, if_neg (not_not_intro hi)]

end

/-! The stop of an aborting engine, by what its last block found (R296). -/

section
variable {s : State} {e : Nat} {run : BriRun} (hr : (s.briEngine e).run = some run)
include hr

theorem State.briStop_failed {code bit : Nat} (hf : run.ended = some (code, bit)) (hc : code ≠ ST_OK) :
    s.briStop e = s.briEnd e run code bit := by
  simp only [State.briStop, hr, hf, if_neg hc]

/-- Blocks that remain and a descriptor that came to its end are both aborted. -/
theorem State.briStop_aborts (hf : run.ended = none ∨ ∃ bit, run.ended = some (ST_OK, bit)) :
    s.briStop e = s.briEnd e run ST_BRI_ABORTED noBit := by
  rcases hf with hf | ⟨bit, hf⟩
  · simp only [State.briStop, hr, hf]
  · simp only [State.briStop, hr, hf, if_true]

end

section
variable {s : State} {e : Fin 48} (hl : s.live = true)
include hl

theorem exec_briBlockDone_working (ha : s.briState e ≠ chAborting) (verified : Bool) :
    exec (.briBlockDone e verified) s = .next (s.briStep e verified) := by
  rw [exec_briBlockDone, execBriBlockDone, act_live hl]
  exact congrArg _ (if_neg ha)

theorem exec_briBlockDone_aborting (ha : s.briState e = chAborting) (verified : Bool) :
    exec (.briBlockDone e verified) s = .next ((s.briStep e verified).briStop e) := by
  rw [exec_briBlockDone, execBriBlockDone, act_live hl]
  exact congrArg _ (if_pos ha)

theorem exec_briDescriptorComplete_busy (hb : s.briState e = chBusy) :
    exec (.briDescriptorComplete e) s = .next (s.briComplete e) := by
  rw [exec_briDescriptorComplete, execBriDescriptorComplete, act_live hl, if_pos hb]

theorem exec_briDescriptorComplete_aborting (ha : s.briState e = chAborting) :
    exec (.briDescriptorComplete e) s = .next (s.briStop e) := by
  have working : s.briState e ≠ chBusy := ha ▸ by decide
  rw [exec_briDescriptorComplete, execBriDescriptorComplete, act_live hl, if_neg working, if_pos ha]

end

/-- Settles O39: a host command by HOLD, BOUND and STATE, and the end of a block or of a descriptor by STATE and, on an
aborting engine, by what the last block found. -/
theorem briarEnginesComplete : Obligations.BriarEnginesComplete := by
  unfold Obligations.BriarEnginesComplete
  intro s e status state held key
  refine ⟨fun hr => ?_, fun hl verified => ?_⟩
  · have hold : exec (.briHold e) s = .next (s.briHold e) := by rw [exec_briHold, execBriHold, hostAct_reaches hr]
    have release : exec (.briRelease e) s = .next (s.briDrop e) := by rw [exec_briRelease, execBriRelease, hostAct_reaches hr]
    have go : exec (.briGo e) s = .next (s.briGo e) := by rw [exec_briGo, execBriGo, hostAct_reaches hr]
    have abort : exec (.briAbort e) s = .next (s.briAbort e) := by rw [exec_briAbort, execBriAbort, hostAct_reaches hr]
    rw [hold, release, go, abort]
    refine ⟨fun hh => ?_, fun hh hb => ?_, fun hh hb => ?_, fun hh hb ha => ?_, fun h => ?_, fun hh => ?_, fun hh hi => ?_,
      fun hh hi => ?_, fun hb => ?_, fun hb => ?_⟩
    · rw [State.briHold_held hh]
    · rw [State.briHold_bound hh hb]
    · rw [State.briHold_claims hh hb]
    · rw [State.briDrop_quiet hh hb ha]
    · rw [State.briDrop_ignored h]
    · rw [State.briGo_notHeld hh]
    · rw [State.briGo_ignored hh hi]
    · rw [State.briGo_fetches hh hi]
    · rw [State.briAbort_busy hb]
    · rw [State.briAbort_ignored hb]
  · intro t
    refine ⟨fun ha => exec_briBlockDone_working hl ha verified, fun run ha hrun => ?_,
      fun hb => exec_briDescriptorComplete_busy hl hb, fun run ha hrun => ?_⟩
    · rw [exec_briBlockDone_aborting hl ha]
      exact ⟨fun code bit hf hc => congrArg _ (State.briStop_failed hrun hf hc), fun hf => congrArg _ (State.briStop_aborts hrun hf)⟩
    · rw [exec_briDescriptorComplete_aborting hl ha]
      exact ⟨fun code bit hf hc => congrArg _ (State.briStop_failed hrun hf hc), fun hf => congrArg _ (State.briStop_aborts hrun hf)⟩

end Sys2Proof.Machine

/-! ### One step (O52, O56) -/

namespace Sys2Proof.Machine

theorem step_cons (s : State) (c : Instr) : step { s with pending := c :: s.pending } = exec c s := rfl

theorem step_idle {s : State} (h : s.pending = []) : step s = .next s.idle := by
  unfold step
  split
  next => rfl
  next c rest hp => exact absurd (h.symm.trans hp) (List.cons_ne_nil c rest).symm

/-- Settles O52: a step matches the queue, and the idle step is what an empty one leaves. -/
theorem stepRunsTheFrontCommand : Obligations.StepRunsTheFrontCommand := by
  unfold Obligations.StepRunsTheFrontCommand
  exact ⟨fun c s => step_cons s c, fun s => step_idle⟩

/-- Settles O56: every command's row keeps the queue that it is given, and a step gives it the tail. -/
theorem stepsConsumeOneCommand : Obligations.StepsConsumeOneCommand := by
  unfold Obligations.StepsConsumeOneCommand
  intro s t e
  obtain ⟨queue, -, -⟩ := step_keeps e
  exact queue

end Sys2Proof.Machine

/-! ### Envelopes of management commands (O40) -/

namespace Sys2Proof.Machine

/-- The management commands, each with the CODE of its envelope (Tables 11-6, 13-4 and 14-8). -/
def managementRows : List ((MgmtSource → Instr) × Nat) :=
  [(Instr.secAttest, 0x0401), (Instr.secKeyImport, 0x0402), (Instr.secKeyDestroy, 0x0403), (Instr.secHedgeOwner, 0x0404),
    (Instr.secAnchorSet, 0x0405), (Instr.secCertRead, 0x0406), (Instr.blkNsCreate, 0x0301), (Instr.blkNsDelete, 0x0302),
    (Instr.blkKeyRotate, 0x0303), (Instr.blkKeySweep, 0x0304), (Instr.blkKeyDestroy, 0x0305), (Instr.shdFwStage, 0x0101),
    (Instr.shdFwActivate, 0x0102), (Instr.shdReset, 0x0103), (Instr.shdFallbackExit, 0x0104), (Instr.pwrSetCap, 0x0105),
    (Instr.pwrSetPlanMax, 0x0106), (Instr.shdFeature, 0x0107), (Instr.shdDiag, 0x0108)]

theorem exec_managementRows : ∀ row ∈ managementRows, ∃ body, ∀ src s, exec (row.1 src) s = mgmtRow src row.2 body s := by
  simp only [managementRows, List.forall_mem_cons]
  exact ⟨⟨_, exec_secAttest⟩, ⟨_, exec_secKeyImport⟩, ⟨_, exec_secKeyDestroy⟩, ⟨_, exec_secHedgeOwner⟩, ⟨_, exec_secAnchorSet⟩,
    ⟨_, exec_secCertRead⟩, ⟨_, exec_blkNsCreate⟩, ⟨_, exec_blkNsDelete⟩, ⟨_, exec_blkKeyRotate⟩, ⟨_, exec_blkKeySweep⟩,
    ⟨_, exec_blkKeyDestroy⟩, ⟨_, exec_shdFwStage⟩, ⟨_, exec_shdFwActivate⟩, ⟨_, exec_shdReset⟩, ⟨_, exec_shdFallbackExit⟩,
    ⟨_, exec_pwrSetCap⟩, ⟨_, exec_pwrSetPlanMax⟩, ⟨_, exec_shdFeature⟩, ⟨_, exec_shdDiag⟩, List.forall_mem_nil _⟩

/-- The owner key of a hedge verifies an envelope where the hedge has one that does. -/
theorem State.ownerSigns_eq_any (s : State) (h : Nat) (e : Envelope) :
    s.ownerSigns h e = (s.security.owners.find h).any fun k => ecdsaVerify k e.signed e.signature := by
  unfold State.ownerSigns
  cases s.security.owners.find h <;> rfl

section
variable {src : MgmtSource} {code : Nat} {body : Envelope → State → Answer} {s : State}

theorem mgmtRow_unreached (h : s.mgmtBytes src = none) : mgmtRow src code body s = .next s := by
  rw [mgmtRow, h]

variable {b : Bytes} (hb : s.mgmtBytes src = some b)
include hb

theorem mgmtRow_otherCode (hc : fieldAt b 4 2 ≠ code) : mgmtRow src code body s = .next s := by
  simp only [mgmtRow, hb, if_neg hc]

variable (hc : fieldAt b 4 2 = code)
include hc

theorem mgmtRow_badFormat (h : envelopeOk b = false) :
    mgmtRow src code body s = .next (s.postResult (fromHost src) ST_MBX_FORMAT []).heelSettle := by
  simp only [mgmtRow, hb, if_pos hc, State.mgmtRun, h, Bool.not_false, if_true]
  rfl

/-- Where the run of a whole envelope answers with a code alone, the row posts that code. -/
theorem mgmtRow_answers (h : envelopeOk b = true) {t : State} {r : Nat}
    (ha : s.runEnvelope (fromHost src) (envelopeOf b) body = t.answers r) :
    mgmtRow src code body s = .next (t.postResult (fromHost src) r []).heelSettle := by
  simp only [mgmtRow, hb, if_pos hc, State.mgmtRun, h, Bool.not_true, Bool.false_eq_true, if_false, ha]
  rfl

end

section
variable {s : State} {host : Bool} {e : Envelope} (body : Envelope → State → Answer)

theorem State.runEnvelope_refused (h : s.envelopeCheck host e ≠ ST_OK) :
    s.runEnvelope host e body = s.answers (s.envelopeCheck host e) := by
  rw [State.runEnvelope, if_pos h]

theorem State.runEnvelope_badArgs (h : s.envelopeCheck host e = ST_OK) (ha : argsOk e.code e.args = false) :
    s.runEnvelope host e body = (s.counted e).answers ST_PWR_RANGE := by
  simp only [State.runEnvelope, h, ha, State.counted, ne_eq, not_true, if_false, Bool.not_false, if_true]

theorem State.runEnvelope_unserved (h : s.envelopeCheck host e = ST_OK) (ha : argsOk e.code e.args = true)
    (hs : s.sheep.mode.serves e.code = false) : s.runEnvelope host e body = (s.counted e).answers ST_FALLBACK := by
  have unserved : (s.counted e).sheep.mode.serves e.code = false := hs
  rw [State.counted] at unserved
  simp only [State.runEnvelope, h, ha, State.counted, unserved, ne_eq, not_true, if_false, Bool.not_true, Bool.false_eq_true,
    Bool.not_false, if_true]

end

/-- Settles O40: the row of a management command is one shape around its body, and each check that fails answers before the
body runs. -/
theorem managementEnvelopesAreChecked : Obligations.ManagementEnvelopesAreChecked := by
  unfold Obligations.ManagementEnvelopesAreChecked
  intro s src rows row hrow
  obtain ⟨body, hexec⟩ := exec_managementRows row hrow
  have row_eq : exec (row.1 src) s = mgmtRow src row.2 body s := hexec src s
  refine ⟨fun hb => row_eq.trans (mgmtRow_unreached hb), ?_⟩
  intro b hb e host result counter unsigned anchorSigns ownerSigns known signer code counted
  have check : s.envelopeCheck host e = code := by
    simp only [State.envelopeCheck, State.ownerSigns_eq_any, Bool.or_assoc]
    rfl
  refine ⟨fun hc => row_eq.trans (mgmtRow_otherCode hb hc), fun hc h => row_eq.trans (mgmtRow_badFormat hb hc h), fun hc ok => ?_⟩
  have answered : ∀ {t r}, s.runEnvelope host e body = t.answers r → exec (row.1 src) s = result t r := fun ha =>
    row_eq.trans (mgmtRow_answers hb hc ok ha)
  have refused : code ≠ ST_OK → s.runEnvelope host e body = s.answers code := fun h =>
    check ▸ State.runEnvelope_refused body (check ▸ h)
  refine ⟨fun h => answered (refused h), fun ha => ?_, fun ha hs => ?_⟩
  · by_cases h : code = ST_OK
    · rw [show counted = s.counted e from if_pos h, if_pos h]
      exact answered (State.runEnvelope_badArgs body (check.trans h) ha)
    · rw [show counted = s from if_neg h, if_neg h]
      exact answered (refused h)
  · by_cases h : code = ST_OK
    · rw [show counted = s.counted e from if_pos h, if_pos h]
      exact answered (State.runEnvelope_unserved body (check.trans h) ha hs)
    · rw [show counted = s from if_neg h, if_neg h]
      exact answered (refused h)

end Sys2Proof.Machine

/-! ### Sensors and limiters (O45) -/

namespace Sys2Proof.Machine

/-! A temperature sample. -/

/-- A sample has passed its site's filter, the registers show it, and an excluded site has alarmed SENSOR (R366, R367). -/
def State.siteSampled (s : State) (site : Nat) (raw : Int) : State :=
  let x := ((s.sheep.sites.find site).getD Sensor.idle).sample raw
  let t := (s.adjustSheep fun y => { y with sites := y.sites.insert site x }).showTemps
  if t.goodSites.2 = 0 then t else t.alarm Fld.SHD_ALARM_SENSOR

/-- The hottest temperature enters the hour's readings and, from T_WARN on, alarms WARN (R317, R370). -/
def State.hottestRead (s : State) (h : Int) : State :=
  let t := s.adjustHealth fun x => x.read (s.uptime / 1000000000 + 1) h
  if t.tWarn ≤ h then t.alarm Fld.SHD_ALARM_WARN else t

/-- Does a temperature switch the device off (R370)? -/
def State.shutsDown (s : State) (h : Int) : Prop := s.tShutdown ≤ h ∧ s.sheep.mode ≠ .thermalOff ∧ s.sheep.mode ≠ .held

theorem State.shutsDown_iff {s : State} {h : Int} :
    (decide (s.tShutdown ≤ h) && decide (s.sheep.mode ≠ .thermalOff) && decide (s.sheep.mode ≠ .held)) = true ↔ s.shutsDown h := by
  simp only [State.shutsDown, Bool.and_eq_true, decide_eq_true_eq, and_assoc]

section
variable {s : State} {site : Nat} {raw h : Int}

theorem State.sampleSite_noneCounts (hn : (s.siteSampled site raw).hottest = none) :
    s.sampleSite site raw = s.siteSampled site raw := by
  unfold State.sampleSite
  dsimp only
  split
  next => rfl
  next h hh => cases hh.symm.trans hn

theorem State.sampleSite_off (hh : (s.siteSampled site raw).hottest = some h) (hd : ((s.siteSampled site raw).hottestRead h).shutsDown h) :
    s.sampleSite site raw = ((s.siteSampled site raw).hottestRead h).thermalDown := by
  unfold State.sampleSite
  dsimp only
  split
  next hn => cases hn.symm.trans hh
  next k hk =>
    cases Option.some.inj (hk.symm.trans hh)
    exact if_pos (State.shutsDown_iff.2 hd)

theorem State.sampleSite_on (hh : (s.siteSampled site raw).hottest = some h)
    (hd : ¬ ((s.siteSampled site raw).hottestRead h).shutsDown h) :
    s.sampleSite site raw = (s.siteSampled site raw).hottestRead h := by
  unfold State.sampleSite
  dsimp only
  split
  next hn => cases hn.symm.trans hh
  next k hk =>
    cases Option.some.inj (hk.symm.trans hh)
    exact if_neg (mt State.shutsDown_iff.1 hd)

end

theorem exec_temperatureSample_live {s : State} (hl : s.live = true) (site : Fin 64) (raw : Int) :
    exec (.temperatureSample site raw) s = .next (s.sampleSite site raw) := by
  rw [exec_temperatureSample, execTemperatureSample, act_live hl]

/-! A rail sample. -/

/-- Both filters of a rail have taken a sample, and PWR_POWER shows the power (R361, R366). -/
def State.railSampled (s : State) (rail mv ma : Nat) : State :=
  let t := s.adjustSheep fun x => { x with
    volts := x.volts.insert rail (((x.volts.find rail).getD Sensor.idle).sample mv)
    amps := x.amps.insert rail (((x.amps.find rail).getD Sensor.idle).sample ma) }
  (t.adjustSheep fun x => { x with windowSum := x.windowSum + t.power, windowCount := x.windowCount + 1 }).setFld
    Reg.PWR_POWER Fld.PWR_POWER_MW t.power

/-- Does VDD_CORE fall below PWR_DROOP with a sample (Table 14-2)? -/
def State.coreFalls (s : State) (rail mv : Nat) : Prop :=
  let v := (s.sheep.volts.find rail).getD Sensor.idle
  rail = railCore ∧ (v.sample mv).filtered < s.droopLevel ∧ (v.raws = [] ∨ s.droopLevel ≤ v.filtered)

section
variable {s : State} {rail : Nat} {mv : Nat}

theorem State.coreFalls_iff :
    (decide (rail = railCore) && decide ((((s.sheep.volts.find rail).getD Sensor.idle).sample mv).filtered < s.droopLevel) &&
      (((s.sheep.volts.find rail).getD Sensor.idle).raws.isEmpty ||
        decide (s.droopLevel ≤ ((s.sheep.volts.find rail).getD Sensor.idle).filtered))) = true ↔ s.coreFalls rail mv := by
  simp only [State.coreFalls, Bool.and_eq_true, Bool.or_eq_true, decide_eq_true_eq, List.isEmpty_iff, and_assoc]

theorem State.sampleRail_falls (h : s.coreFalls rail mv) (ma : Nat) :
    s.sampleRail rail mv ma = (s.railSampled rail mv ma).lower .droop := if_pos (State.coreFalls_iff.2 h)

theorem State.sampleRail_holds (h : ¬ s.coreFalls rail mv) (ma : Nat) :
    s.sampleRail rail mv ma = s.railSampled rail mv ma := if_neg (mt State.coreFalls_iff.1 h)

end

/-! The limiters. -/

section
variable {s : State}

theorem State.capStep_above (h : 1000 * s.fld Reg.PWR_CAP Fld.PWR_CAP_WATTS < s.power) : s.capStep = s.lower .cap := by
  rw [State.capStep, if_pos h]

theorem State.capStep_below (h : s.power ≤ 1000 * s.fld Reg.PWR_CAP Fld.PWR_CAP_WATTS)
    (hb : 100 * s.power < 95 * (1000 * s.fld Reg.PWR_CAP Fld.PWR_CAP_WATTS)) : s.capStep = s.lift .cap := by
  rw [State.capStep, if_neg (Nat.not_lt.2 h), if_pos hb]

theorem State.capStep_between (h : s.power ≤ 1000 * s.fld Reg.PWR_CAP Fld.PWR_CAP_WATTS)
    (hb : 95 * (1000 * s.fld Reg.PWR_CAP Fld.PWR_CAP_WATTS) ≤ 100 * s.power) : s.capStep = s := by
  rw [State.capStep, if_neg (Nat.not_lt.2 h), if_neg (Nat.not_lt.2 hb)]

variable {h : Int} (hh : s.hottest = some h)
include hh

theorem State.thermalStep_hot (ht : s.tThrottle ≤ h) : s.thermalStep = s.lower .thermal := by
  simp only [State.thermalStep, hh, if_pos ht]

theorem State.thermalStep_cool (hc : h < s.tThrottle - 500) : s.thermalStep = s.lift .thermal := by
  have below : ¬ s.tThrottle ≤ h := by omega
  simp only [State.thermalStep, hh, if_neg below, if_pos hc]

theorem State.thermalStep_between (hc : s.tThrottle - 500 ≤ h) (ht : h < s.tThrottle) : s.thermalStep = s := by
  simp only [State.thermalStep, hh, if_neg (Int.not_le.2 ht), if_neg (Int.not_lt.2 hc)]

end

/-- Settles O45: a sample passes its filter and meets the limits in order, and each limiter's step is one of three. -/
theorem sensorsAndLimitersComplete : Obligations.SensorsAndLimitersComplete := by
  unfold Obligations.SensorsAndLimitersComplete
  intro s hl alarm lower lift
  refine ⟨?_, ?_, ?_, fun h hh => ⟨fun ht => ?_, fun hc => ?_, fun hc ht => ?_⟩, ?_, ?_⟩
  · intro site raw x shown t
    have sampled : exec (.temperatureSample site raw) s = .next (s.sampleSite site raw) := exec_temperatureSample_live hl site raw
    refine ⟨fun hn => sampled.trans (congrArg _ (State.sampleSite_noneCounts hn)), ?_⟩
    intro h hh read u
    refine ⟨fun hs => ?_, fun hs hoff hheld => ?_⟩
    · refine sampled.trans (congrArg _ (State.sampleSite_on hh ?_))
      rintro ⟨hot, notOff, notHeld⟩
      rcases hs with cool | off | held
      · exact absurd hot (Int.not_le.2 cool)
      · exact notOff off
      · exact notHeld held
    · exact sampled.trans (congrArg _ (State.sampleSite_off hh ⟨hs, hoff, hheld⟩))
  · intro rail mv ma v a t shown falls
    have sampled : exec (.railSample rail mv ma) s = .next (s.sampleRail rail mv ma) := by
      rw [exec_railSample, execRailSample, act_live hl]
    exact ⟨fun hf => sampled.trans (congrArg _ (State.sampleRail_falls hf ma)),
      fun hf => sampled.trans (congrArg _ (State.sampleRail_holds hf ma))⟩
  · intro cap
    have step : exec .capLimiterStep s = .next s.capStep := by rw [exec_capLimiterStep, execCapLimiterStep, act_live hl]
    rw [step]
    exact ⟨fun h => congrArg _ (State.capStep_above h), fun h hb => congrArg _ (State.capStep_below h hb),
      fun h hb => congrArg _ (State.capStep_between h hb)⟩
  · rw [exec_thermalLimiterStep, execThermalLimiterStep, act_live hl, State.thermalStep_hot hh ht]
    rfl
  · rw [exec_thermalLimiterStep, execThermalLimiterStep, act_live hl, State.thermalStep_cool hh hc]
    rfl
  · rw [exec_thermalLimiterStep, execThermalLimiterStep, act_live hl, State.thermalStep_between hh hc ht]
  · rw [exec_droopLimiterStep, execDroopLimiterStep, act_live hl, if_pos rfl]
    rfl
  · rw [exec_droopLimiterStep, execDroopLimiterStep, act_live hl, if_neg Bool.false_ne_true]
    rfl

end Sys2Proof.Machine

/-! ### Telemetry and debug accesses (O46) -/

namespace Sys2Proof.Machine

section
variable {s : State} (hl : s.live = true)
include hl

/-- A block read of a powered Sheepdog answers the register that the code names, or a NACK. -/
theorem exec_smbusBlockRead_running (hm : s.sheep.mode ≠ .held) (code : Byte) :
    exec (.smbusBlockRead code) s =
      .next { s with board := { s.board with smbus := (s.smbusValue code.toNat).map (leBytes 4) } } := by
  rw [exec_smbusBlockRead, execSmbusBlockRead, act_live hl, if_neg hm]

variable (block : JtagBlock) (write : Bool)

theorem exec_jtagAccess_disabled (hj : s.bit Reg.GLB_STRAPS Fld.GLB_STRAPS_JTAG_EN = false) :
    exec (.jtagAccess block write) s = .next s := by
  rw [exec_jtagAccess, execJtagAccess, act_live hl, hj, Bool.not_false, if_pos rfl]

variable (hj : s.bit Reg.GLB_STRAPS Fld.GLB_STRAPS_JTAG_EN = true)
include hj

theorem exec_jtagAccess_open (hb : s.jtagLocked block = false) :
    exec (.jtagAccess block write) s = .next (s.setBit Reg.SEC_DEBUG Fld.SEC_DEBUG_SEEN true) := by
  rw [exec_jtagAccess, execJtagAccess, act_live hl, hj, Bool.not_true, if_neg Bool.false_ne_true, hb, if_neg Bool.false_ne_true]

theorem exec_jtagAccess_locked (hb : s.jtagLocked block = true) :
    exec (.jtagAccess block write) s = .next
      { (s.setBit Reg.SEC_DEBUG Fld.SEC_DEBUG_SEEN true).bumpSat Reg.SEC_DEBUG Fld.SEC_DEBUG_DENIED with
        hostRead := if write then s.hostRead else 0 } := by
  rw [exec_jtagAccess, execJtagAccess, act_live hl, hj, Bool.not_true, if_neg Bool.false_ne_true, hb, if_pos rfl]

end

theorem State.smbusValue_unlisted (s : State) {code : Nat} (h : 4 ≤ code) : s.smbusValue code = none := by
  obtain ⟨n, rfl⟩ := Nat.exists_eq_add_of_le' h
  rfl

/-- Settles O46: each access is its row's meaning where the device is live, by the block, the code and the strap. -/
theorem telemetryAndDebugAccessesComplete : Obligations.TelemetryAndDebugAccessesComplete := by
  unfold Obligations.TelemetryAndDebugAccessesComplete
  intro s
  refine ⟨fun hl => ⟨?_, ?_, fun hm => ?_, ?_, fun block write => ⟨exec_jtagAccess_disabled hl block write, fun hj =>
    ⟨exec_jtagAccess_open hl block write hj, exec_jtagAccess_locked hl block write hj⟩⟩⟩, fun chain hs => ?_, fun chain hs => ?_⟩
  · intro mean t u
    rw [exec_powerWindowBoundary, execPowerWindowBoundary, act_live hl]
    rfl
  · rw [exec_counterSampleBoundary, execCounterSampleBoundary, act_live hl]
  · intro reads
    have read := exec_smbusBlockRead_running hl hm
    refine ⟨read 0, read 1, read 2, read 3, fun code hc => ?_⟩
    rw [read code, State.smbusValue_unlisted s hc]
    rfl
  · rw [exec_smbusReject, execSmbusReject, act_live hl]
  · rw [exec_mgmtTlsHandshake, execMgmtTlsHandshake, hs, Bool.true_and]
  · rw [exec_mgmtTlsHandshake, execMgmtTlsHandshake, hs, Bool.false_and, if_neg Bool.false_ne_true]

end Sys2Proof.Machine

/-! ### Membership of a fleet (O50) -/

namespace Sys2Proof.Machine

/-! When a fleet message is taken (R329). -/

/-- Does a member of a fleet take a message: it is long enough, not fenced off, and of no lower ROSTER_EPOCH? -/
def State.takesFleet (s : State) (msg : Bytes) : Prop :=
  (s.fleetOn = true ∧ 16 ≤ msg.length ∧ s.fltState ≠ fltFenced) ∧ s.rosterEpoch ≤ fieldAt msg 4 4

theorem State.takesFleet_of_fleetOn {s : State} {msg : Bytes} (hf : s.fleetOn = true) (hm : 16 ≤ msg.length)
    (hs : s.fltState ≠ fltFenced) (he : s.rosterEpoch ≤ fieldAt msg 4 4) : s.takesFleet msg := ⟨⟨hf, hm, hs⟩, he⟩

theorem State.takesFleet_iff {s : State} {kind : Nat} {msg : Bytes} :
    (s.fleetOn && 16 ≤ msg.length && fieldAt msg 0 1 = kind && s.fltState ≠ fltFenced && s.rosterEpoch ≤ fieldAt msg 4 4) = true ↔
      s.takesFleet msg ∧ fieldAt msg 0 1 = kind := by
  simp only [State.takesFleet, Bool.and_eq_true, decide_eq_true_eq]
  tauto

section
variable {s : State} {msg : Bytes} (hl : s.live = true)
include hl

theorem fleetTake_discarded (h : ¬ s.takesFleet msg) (kind : Nat) (f : FleetMsg → State → State) :
    fleetTake kind msg f s = .next s := by
  rw [fleetTake, act_live hl]
  exact congrArg _ (if_neg fun taken => h (State.takesFleet_iff.1 taken).1)

theorem fleetFrom_discarded (h : ¬ s.takesFleet msg) (kind source : Nat) (f : Nat → FleetMsg → State → State) :
    fleetFrom kind source msg f s = .next s := fleetTake_discarded hl h kind _

variable {kind : Nat} (h : s.takesFleet msg) (hk : fieldAt msg 0 1 = kind)
include h hk

theorem fleetTake_taken (f : FleetMsg → State → State) :
    fleetTake kind msg f s = .next (f (fleetMsgOf msg) s).heelSettle := by
  rw [fleetTake, act_live hl]
  exact congrArg _ (if_pos (State.takesFleet_iff.2 ⟨h, hk⟩))

theorem fleetFrom_taken {source i : Nat} (hi : s.fleet.memberAt source = some i) (f : Nat → FleetMsg → State → State) :
    fleetFrom kind source msg f s = .next (f i (fleetMsgOf msg) s).heelSettle := by
  rw [fleetFrom, fleetTake_taken hl h hk]
  simp only [hi]

end

/-! A write of FLT_CTRL (R328). -/

theorem State.bit_setBit_true (s : State) (off : Nat) (f : Fld) (hf : f.lo + f.len ≤ 64) (hlen : 1 ≤ f.len) :
    (s.setBit off f true).bit off f = true := by
  have fits : 1 % 2 ^ f.len = 1 := Nat.mod_eq_of_lt (Nat.one_lt_two_pow (Nat.one_le_iff_ne_zero.1 hlen))
  rw [State.bit, State.setBit, State.fld_setFld_self _ _ _ hf, if_pos rfl, fits, decide_eq_true rfl]

/-- The fleet's registers after a write of FLT_CTRL with ENABLE: the old fleet is left, and ROLE and JOB are the written ones. -/
def State.fleetEnabled (s : State) (w : Word64) : State :=
  ((s.leaveFleet.setFld Reg.FLT_CTRL Fld.FLT_CTRL_ROLE (getFld Fld.FLT_CTRL_ROLE w)).setFld Reg.FLT_CTRL Fld.FLT_CTRL_JOB
    (getFld Fld.FLT_CTRL_JOB w)).setBit Reg.FLT_CTRL Fld.FLT_CTRL_ENABLE true

theorem State.fleetEnabled_fleetOn (s : State) (w : Word64) : (s.fleetEnabled w).fleetOn = true :=
  State.bit_setBit_true _ _ _ (by decide) (by decide)

/-- The role that FLT_CTRL asks for, taken without a code. -/
def State.fleetRoleTaken (s : State) : State :=
  (s.setFltCode ST_OK).setFld Reg.FLT_STATUS Fld.FLT_STATUS_ROLE (s.fld Reg.FLT_CTRL Fld.FLT_CTRL_ROLE)

theorem State.fleetControl_locked {s : State} (h : s.fleetLocked = true) (w : Word64) : s.fleetControl w = s := by
  rw [State.fleetControl, if_pos h]

section
variable {s : State} {w : Word64} (h : s.fleetLocked = false) (hw : getFld Fld.FLT_CTRL_ENABLE w = 1)
include h hw

theorem State.fleetControl_refused
    (hj : ∀ j, (s.fleetEnabled w).jobs.find (s.fleetEnabled w).fleetSlot = some j → j.map.fleet = false) :
    s.fleetControl w = ((s.fleetEnabled w).setBit Reg.FLT_CTRL Fld.FLT_CTRL_ENABLE false).setFltCode ST_FLT_SETUP := by
  have on := State.fleetEnabled_fleetOn s w
  simp only [State.fleetEnabled] at hj on ⊢
  simp only [State.fleetControl, h, hw, on, decide_true, Bool.not_true, Bool.false_eq_true, if_false]
  split
  next j hfind => rw [hj j hfind, Bool.not_false, if_pos rfl]
  next => rfl

variable {j : Job} (hj : (s.fleetEnabled w).jobs.find (s.fleetEnabled w).fleetSlot = some j) (hf : j.map.fleet = true)
include hj hf

theorem State.fleetControl_forms (hr : (s.fleetEnabled w).fld Reg.FLT_CTRL Fld.FLT_CTRL_ROLE = roleManager) :
    s.fleetControl w = (s.fleetEnabled w).fleetRoleTaken.formFleet j := by
  have on := State.fleetEnabled_fleetOn s w
  simp only [State.fleetRoleTaken, State.fleetEnabled] at hj hr on ⊢
  simp only [State.fleetControl, h, hw, on, hj, hf, hr, decide_true, Bool.not_true, Bool.false_eq_true, if_false, if_true]

theorem State.fleetControl_joins (hr : (s.fleetEnabled w).fld Reg.FLT_CTRL Fld.FLT_CTRL_ROLE ≠ roleManager) :
    s.fleetControl w = (s.fleetEnabled w).fleetRoleTaken.sendJoin j := by
  have on := State.fleetEnabled_fleetOn s w
  simp only [State.fleetRoleTaken, State.fleetEnabled] at hj hr on ⊢
  simp only [State.fleetControl, h, hw, on, hj, hf, hr, decide_true, Bool.not_true, Bool.false_eq_true, if_false]

end

theorem State.fleetConfig_locked {s : State} (h : s.fleetLocked = true) (reg : FleetReg) (v : Word64) : s.fleetConfig reg v = s := by
  cases reg with
  | ctrl => exact State.fleetControl_locked h v
  | context => exact if_pos h
  | manager => exact if_pos h

section
variable {s : State} (h : s.fleetLocked = false) (v : Word64)
include h

theorem State.fleetConfig_context :
    s.fleetConfig .context v = s.setFld Reg.FLT_CONTEXT Fld.FLT_CONTEXT_CONTEXT (getFld Fld.FLT_CONTEXT_CONTEXT v) := by
  simp only [State.fleetConfig, h, Bool.false_eq_true, if_false]

theorem State.fleetConfig_manager :
    s.fleetConfig .manager v = s.setFld Reg.FLT_MANAGER Fld.FLT_MANAGER_NODE (getFld Fld.FLT_MANAGER_NODE v) := by
  simp only [State.fleetConfig, h, Bool.false_eq_true, if_false]

end

/-! A ROSTER (R335). -/

section
variable {s : State} {source : Nat} {m : FleetMsg}

theorem State.rosterArrived_atManager (hr : s.fltRole = roleManager) (hs : s.fltState ≠ fltJoining) : s.rosterArrived source m = s := by
  rw [State.rosterArrived, if_pos (by simp [hr, hs])]

variable (h : ¬ (s.fltRole = roleManager ∧ s.fltState ≠ fltJoining))
include h

theorem State.rosterArrived_refusal (hb : m.body = []) (hs : s.fltState = fltJoining) :
    s.rosterArrived source m = ((s.adjustFleet fun f => { f with refused := true }).setFltState fltIdle).setFltCode ST_FLT_SETUP := by
  rw [State.rosterArrived, if_neg (by simpa using h), hb, List.isEmpty_nil, if_pos rfl, if_pos hs]

variable (hb : m.body ≠ [])
include hb

theorem State.rosterArrived_badFormat (hf : rosterFormatOk m.body = false) : s.rosterArrived source m = s := by
  rw [State.rosterArrived, if_neg (by simpa using h), if_neg (by simpa using hb), hf, Bool.not_false, if_pos rfl]

variable (hf : rosterFormatOk m.body = true)
include hf

theorem State.rosterArrived_otherManager
    (hs : ((rosterOf m.body).entries.find? fun e => e.role = roleManager).map (·.node) ≠ some source ∨ s.fleet.refused = true) :
    s.rosterArrived source m = s := by
  rw [State.rosterArrived, if_neg (by simpa using h), if_neg (by simpa using hb), hf, Bool.not_true, if_neg Bool.false_ne_true]
  exact if_pos (by simpa only [Bool.or_eq_true, decide_eq_true_eq] using hs)

theorem State.rosterArrived_adopted
    (hs : ((rosterOf m.body).entries.find? fun e => e.role = roleManager).map (·.node) = some source) (hr : s.fleet.refused = false) :
    s.rosterArrived source m =
      let r := rosterOf m.body
      let t := (s.adoptRoster r).setBit Reg.FLT_STATUS Fld.FLT_STATUS_CHANGED true
      (if t.fltState = fltJoining then (t.setFltState fltActive).setFltCode ST_OK else t).underRoster s.fleet.roster.isNone
        (s.fleet.roster.any fun x => x.manager != r.manager) (s.fld Reg.FLT_INDEX Fld.FLT_INDEX_BUDDY) := by
  rw [State.rosterArrived, if_neg (by simpa using h), if_neg (by simpa using hb), hf, Bool.not_true, if_neg Bool.false_ne_true]
  exact if_neg (by simp only [hs, hr, ne_eq, not_true, decide_false, Bool.or_self, Bool.false_eq_true, not_false_eq_true])

end

/-! Heartbeats (R333, R334). -/

theorem State.heartbeatArrived_atManager {s : State} {i : Nat} (hr : s.fltRole = roleManager) (hi : s.roleOf i = roleWorker)
    (source : Nat) (body : Bytes) :
    s.heartbeatArrived source i body = ((s.fleetSend source kindHbAck 0 []).managerHears i).judgeHeartbeat i body := by
  rw [State.heartbeatArrived, hr, hi, if_pos (by decide)]

theorem State.heartbeatArrived_atStandby {s : State} {i : Nat} (hr : s.fltRole = roleStandby)
    (hi : s.roleOf i = roleWorker ∨ s.roleOf i = roleManager) (source : Nat) (body : Bytes) :
    s.heartbeatArrived source i body = s.fleetSend source kindHbAck 0 [] := by
  have standby : ¬ (decide (roleStandby = roleManager) && decide (s.roleOf i = roleWorker)) = true := by simp [roleStandby, roleManager]
  rw [State.heartbeatArrived, hr, if_neg standby, if_pos (by simpa using hi)]

section
variable {s : State} (hr : s.fltRole = roleWorker)
include hr

theorem State.heartbeatAcked_fences {peer : Nat} (hp : peer ≠ s.ownRoleEpoch) : s.heartbeatAcked peer = s.fence := by
  rw [State.heartbeatAcked, if_neg (not_not_intro hr), if_pos hp]

theorem State.heartbeatAcked_rejoins (hs : s.fltState = fltIsolated) :
    s.heartbeatAcked s.ownRoleEpoch = ((s.setFltState fltActive).flowJob s.fleetSlot).arriveCheck s.fleetSlot := by
  rw [State.heartbeatAcked, if_neg (not_not_intro hr), if_neg (not_not_intro rfl), if_pos hs]

theorem State.heartbeatAcked_settled (hs : s.fltState ≠ fltIsolated) : s.heartbeatAcked s.ownRoleEpoch = s := by
  rw [State.heartbeatAcked, if_neg (not_not_intro hr), if_neg (not_not_intro rfl), if_neg hs]

end

section
variable {s : State} (hf : s.fleetOn = true) (hr : s.fleet.roster ≠ none) (hs : s.fltState ≠ fltFenced)
include hf hr hs

/-- Such a member sends heartbeats. -/
theorem State.beats : ¬ (!s.fleetOn || s.fleet.roster.isNone || decide (s.fltState = fltFenced)) = true := by
  simp [hf, hr, hs]

theorem State.sendHeartbeat_worker (hw : s.fltRole = roleWorker) : s.sendHeartbeat =
    (s.fleetSendRole roleManager kindHeartbeat 0 s.heartbeatBody).fleetSendRole roleStandby kindHeartbeat 0 s.heartbeatBody := by
  rw [State.sendHeartbeat, if_neg (State.beats hf hr hs), if_pos hw]

theorem State.sendHeartbeat_manager (hm : s.fltRole = roleManager) :
    s.sendHeartbeat = s.fleetSendRole roleStandby kindHeartbeat 0 s.heartbeatBody := by
  rw [State.sendHeartbeat, if_neg (State.beats hf hr hs), hm, if_neg (by decide), if_pos rfl]

end

theorem State.manages_active {s : State} (hf : s.fleetOn = true) (hr : s.fltRole = roleManager) (hs : s.fltState = fltActive) :
    s.manages = true := by
  simp only [State.manages, hf, hr, hs, decide_true, Bool.and_self]

/-- Settles O50: a write of FLT_CTRL by the lock and the job, a message by what makes a member take it, and a timer by role and
state. -/
theorem fleetMembershipComplete : Obligations.FleetMembershipComplete := by
  unfold Obligations.FleetMembershipComplete
  intro s next settled role state
  refine ⟨?_, ?_, ?_⟩
  · intro v hr w t on refused mine
    have enable : exec (.fleetEnable v) s = settled (s.fleetControl w) := by
      rw [exec_fleetEnable, execFleetEnable, hostAct_reaches hr]
    have config : ∀ reg x, exec (.fltConfigWrite reg x) s = settled (s.fleetConfig reg x) := by
      intro reg x
      rw [exec_fltConfigWrite, execFltConfigWrite, hostAct_reaches hr]
    have enables : getFld Fld.FLT_CTRL_ENABLE w = 1 := getFld_putFld_self _ (by decide) v 1
    refine ⟨fun h => ⟨?_, fun reg => ?_⟩, fun h => ⟨fun hj => ?_, fun j hj hf hm => ?_, fun j hj hf hm => ?_, ?_, ?_, ?_⟩⟩
    · rw [enable, State.fleetControl_locked h]
    · rw [config, State.fleetConfig_locked h]
    · exact enable.trans (congrArg settled (State.fleetControl_refused h enables hj))
    · exact enable.trans (congrArg settled (State.fleetControl_forms h enables hj hf hm))
    · exact enable.trans (congrArg settled (State.fleetControl_joins h enables hj hf hm))
    · exact (config .ctrl w).trans enable.symm
    · rw [config, State.fleetConfig_context h]
    · rw [config, State.fleetConfig_manager h]
  · intro hl source msg kind body open_ current rosters
    refine ⟨fun hn => ?_, fun ho hc hk => ⟨fun hr hs => ?_, fun hn => ⟨fun hb hs => ?_, fun hb hf => ?_, fun hb hf => ?_⟩⟩,
      fun ho hc hk hr => ?_, fun ho hc hk i hi hr => ?_, fun ho hc hk i hi => ⟨fun hr hw => ?_, fun hr hw => ?_⟩,
      fun ho hc hk i peer hi hr => ⟨fun hp => ?_, fun hp hs => ?_, fun hp hs => ?_⟩⟩
    · have discards : ¬ s.takesFleet msg := hn
      simp only [rosters, List.forall_mem_cons, exec_roster, exec_join, exec_resolve, exec_heartbeat, exec_hbAck]
      exact ⟨fleetTake_discarded hl discards _ _, fleetTake_discarded hl discards _ _, fleetFrom_discarded hl discards _ _ _,
        fleetFrom_discarded hl discards _ _ _, fleetFrom_discarded hl discards _ _ _, List.forall_mem_nil _⟩
    all_goals have taken : s.takesFleet msg := ⟨ho, hc⟩
    · rw [exec_roster, execRoster, fleetTake_taken (kind := kindRoster) hl taken hk, State.rosterArrived_atManager hr hs]
    · rw [exec_roster, execRoster, fleetTake_taken (kind := kindRoster) hl taken hk, State.rosterArrived_refusal (m := fleetMsgOf msg) hn hb hs]
    · rw [exec_roster, execRoster, fleetTake_taken (kind := kindRoster) hl taken hk, State.rosterArrived_badFormat (m := fleetMsgOf msg) hn hb hf]
    · intro r sender
      have arrived : exec (.roster source msg) s = settled (s.rosterArrived source (fleetMsgOf msg)) := by
        rw [exec_roster, execRoster, fleetTake_taken (kind := kindRoster) hl taken hk]
      refine ⟨fun hs => arrived.trans (congrArg settled (State.rosterArrived_otherManager (m := fleetMsgOf msg) hn hb hf hs)), fun hs hr => ?_⟩
      exact arrived.trans (congrArg settled (State.rosterArrived_adopted (m := fleetMsgOf msg) hn hb hf hs hr))
    · rw [exec_join, execJoin, fleetTake_taken (kind := kindJoin) hl taken hk]
      exact congrArg settled (if_pos hr)
    · rw [exec_resolve, execResolve, fleetFrom_taken (kind := kindResolve) hl taken hk hi]
      exact congrArg settled (if_pos hr)
    · rw [exec_heartbeat, execHeartbeat, fleetFrom_taken (kind := kindHeartbeat) hl taken hk hi, State.heartbeatArrived_atManager hr hw]
      rfl
    · rw [exec_heartbeat, execHeartbeat, fleetFrom_taken (kind := kindHeartbeat) hl taken hk hi, State.heartbeatArrived_atStandby hr hw]
      rfl
    · rw [exec_hbAck, execHbAck, fleetFrom_taken (kind := kindHbAck) hl taken hk hi, State.heartbeatAcked_fences hr hp]
    · rw [exec_hbAck, execHbAck, fleetFrom_taken (kind := kindHbAck) hl taken hk hi, hp, State.heartbeatAcked_rejoins hr hs]
    · rw [exec_hbAck, execHbAck, fleetFrom_taken (kind := kindHbAck) hl taken hk hi, hp, State.heartbeatAcked_settled hr hs]
  · intro hl hf
    refine ⟨fun hroster hs => ⟨fun hr => ?_, fun hr => ?_⟩, fun hr hs => ?_, fun hr hs => ?_⟩
    · rw [exec_heartbeatTimer, execHeartbeatTimer, act_live hl, State.sendHeartbeat_worker hf hroster hs hr]
      rfl
    · rw [exec_heartbeatTimer, execHeartbeatTimer, act_live hl, State.sendHeartbeat_manager hf hroster hs hr]
      rfl
    · have worker : s.fltRole = roleWorker := hr
      have active : s.fltState = fltActive := hs
      rw [exec_workerIsolation, execWorkerIsolation, act_live hl, hf, worker, active, if_pos (by decide)]
    · have manages : s.manages = true := State.manages_active hf hr hs
      refine ⟨?_, fun i ha hi => ?_, fun i hi hp => ?_⟩
      · rw [exec_managerIsolation, execManagerIsolation, act_live hl, if_pos manages]
      · have lapses : (s.manages && s.admitted i && (s.roleOf i = roleWorker || s.roleOf i = roleStandby)) = true := by
          simpa [manages, ha] using hi
        rw [exec_livenessLeaseExpiry, execLivenessLeaseExpiry, act_live hl, if_pos lapses]
      · have lapses : (s.manages && s.roleOf i = roleWorker && s.noProgress i) = true := by simp [manages, hi, hp]
        rw [exec_progressLeaseExpiry, execProgressLeaseExpiry, act_live hl, if_pos lapses]

end Sys2Proof.Machine

/-! ### Work of a fleet (O51) -/

namespace Sys2Proof.Machine

/-! Arrivals and commits (R331). -/

theorem lookup_isNone_eq {α : Type} (l : List (Nat × α)) (k : Nat) : (l.lookup k).isNone = decide (k ∉ l.map (·.1)) := by
  rw [Bool.eq_iff_iff, Option.isNone_iff_eq_none, List.lookup_eq_none_iff, decide_eq_true_eq, List.mem_map]
  constructor
  · rintro h ⟨e, he, rfl⟩
    simpa using h e he
  · intro h e he
    simpa using fun hk : k = e.1 => h ⟨e, he, hk.symm⟩

/-- A WARM spare gives up the ranks that a shown arrival no longer has records of, and packs the others. -/
theorem State.shadowArrival_eq (s : State) (body : Bytes) : s.shadowArrival body =
    (recordsIn body).foldl (fun t e => ((t.gainRank s.fleetSlot e.1 (resumeOf e.2).ordinal e.2).adjustFleet fun f =>
        { f with shadowed := f.shadowed ++ [e.1] }).packOn s.fleetSlot e.1)
      ((s.fleet.shadowed.filter fun r => r ∉ (recordsIn body).map (·.1)).foldl (fun t r => t.dropRank s.fleetSlot r) s) := by
  simp only [State.shadowArrival, lookup_isNone_eq]

section
variable {s : State} {j : Nat}

theorem State.arrivalDurable_awaited (hr : s.fltRole = roleWorker) (ha : s.fleet.arriving = some j) :
    s.arrivalDurable j =
      ((((s.setFld Reg.FLT_ARRIVED Fld.FLT_ARRIVED_BARRIER j).adjustFleet fun f => { f with arriving := none }).dropMoved
        s.fleetSlot).flowJob s.fleetSlot).arriveCheck s.fleetSlot := by
  rw [State.arrivalDurable, if_neg (by simp [hr, ha])]

theorem State.arrivalDurable_other (h : s.fltRole ≠ roleWorker ∨ s.fleet.arriving ≠ some j) : s.arrivalDurable j = s := by
  rw [State.arrivalDurable, if_pos (by simpa using h)]

theorem State.committed_atWorker (hr : s.fltRole = roleWorker) : s.committed j =
    ((s.setFld Reg.FLT_BARRIER Fld.FLT_BARRIER_BARRIER j).setFld Reg.FLT_LAST_ARRIVALS Fld.FLT_LAST_ARRIVALS_COUNT
      (s.freeValue % 65)).drew := by
  rw [State.committed, if_pos hr]

theorem State.committed_atStandby (hr : s.fltRole ≠ roleWorker) : s.committed j =
    (s.setFld Reg.FLT_BARRIER Fld.FLT_BARRIER_BARRIER j).adjustFleet fun f =>
      { f with lasts := (((f.order.filter fun e => e.1 = j).getLast?.map (·.2)).toList ++ f.lasts).take 64
               order := f.order.filter fun e => j < e.1 } := by
  rw [State.committed, if_neg hr]

end

/-! Moves (R339). -/

/-- A member notes that a rank moves to a holder with the next ordinal that it delivers there. -/
def State.moveNoted (s : State) (rank first : Nat) (record : Bytes) (holder : Nat) : State :=
  s.adjustFleet fun f =>
    { f with moves := (f.moves.filter fun m => m.rank ≠ rank) ++ [⟨rank, s.fleet.ownerOf rank, holder, first, record, false⟩] }

section
variable {s : State} {rank first : Nat} {record : Bytes}

/-- The old holder notes where it drops the rank, as long as it has a stream of it. -/
theorem State.moved_fromHere (hm : s.fleet.ownerOf rank = s.ownIndex) (ho : (resumeOf record).ordinal < first)
    (hs : ∃ st, (s.jobs.find s.fleetSlot).bind (·.stream rank) = some st) :
    s.moved rank first record = (s.moveNoted rank first record noOwner).dropMoved s.fleetSlot := by
  obtain ⟨st, hst⟩ := hs
  rw [State.moved]
  exact if_pos (by simp only [hm, ho, hst, decide_true, Bool.and_self, Option.map_some, Option.isSome_some])

theorem State.moved_toHere (hm : s.fleet.ownerOf rank ≠ s.ownIndex) : s.moved rank first record =
    (((s.moveNoted rank first record s.ownIndex).takeRank s.fleetSlot rank first record).flowRank s.fleetSlot rank).arriveCheck
      s.fleetSlot := by
  simp only [State.moved, hm, decide_false, Bool.false_and, Bool.false_eq_true, if_false]
  rfl

/-- The roster already names this worker: a replacement starts at the record. -/
theorem State.moved_again (hm : s.fleet.ownerOf rank = s.ownIndex) (ho : first ≤ (resumeOf record).ordinal) :
    s.moved rank first record =
      ((s.takeRank s.fleetSlot rank first record).flowRank s.fleetSlot rank).arriveCheck s.fleetSlot := by
  simp only [State.moved, hm, Nat.not_lt.2 ho, decide_true, decide_false, Bool.true_and, Bool.false_and, Bool.false_eq_true,
    if_false, if_true]

end

/-! Takeover (R341). -/

section
variable {s : State} {k : Nat} (hk : s.fleet.indexOfRole roleManager = some k)
include hk

theorem State.takeoverAsked_granted {epoch : Nat} (hr : s.fltRole = roleWorker)
    (he : ((s.fleet.entry k).map (·.roleEpoch)).getD 0 < epoch ∨ s.fleet.takeover = some epoch) (source : Nat) :
    s.takeoverAsked source epoch = (s.adjustFleet fun f => { f with
      takeover := some epoch
      roster := f.roster.map fun r => { r with entries := r.entries.zipIdx.map fun e =>
        if e.2 = k then { e.1 with roleEpoch := epoch } else e.1 } }).fleetSend source kindTakeoverAck 0 [] := by
  simp only [State.takeoverAsked, hk]
  exact if_pos (by simpa [hr] using he)

theorem State.takeoverAsked_refused {epoch : Nat} (he : epoch ≤ ((s.fleet.entry k).map (·.roleEpoch)).getD 0)
    (ht : s.fleet.takeover ≠ some epoch) (source : Nat) : s.takeoverAsked source epoch = s := by
  simp only [State.takeoverAsked, hk]
  exact if_neg (by simp [ht, Nat.not_lt.2 he])

theorem State.startTakeover_asks (hf : s.fleetOn = true) (hr : s.fltRole = roleStandby) (hs : s.fltState = fltActive) :
    s.startTakeover =
      let epoch := (((s.fleet.entry k).map (·.roleEpoch)).getD 0 + 1) % 2 ^ 32
      (withRole s.roster roleWorker).foldl (fun t i => t.fleetSendTo i kindTakeover 0 (leBytes 4 epoch))
        (s.adjustFleet fun f => { f with acks := [], takeover := some epoch }) := by
  simp only [State.startTakeover, hk]
  exact if_neg (by simp [hf, hr, hs])

end

/-- A worker's acknowledgement of a takeover is counted once. -/
def State.takeoverCounted (s : State) (i : Nat) : State :=
  s.adjustFleet fun f => { f with acks := if f.acks.contains i then f.acks else f.acks ++ [i] }

section
variable {s : State} {i : Nat} (hr : s.fltRole = roleStandby) (ht : s.fleet.takeover ≠ none) (hi : s.roleOf i = roleWorker)
include hr ht hi

/-- The standby counts acknowledgements of its takeover. -/
theorem State.countsTakeover :
    ¬ (decide (s.fltRole ≠ roleStandby) || s.fleet.takeover.isNone || decide (s.roleOf i ≠ roleWorker)) = true := by
  simp [hr, ht, hi]

theorem State.takeoverAcked_majority (hm : (withRole s.roster roleWorker).length < 2 * (s.takeoverCounted i).fleet.acks.length) :
    s.takeoverAcked i = (s.takeoverCounted i).becomeManager := by
  rw [State.takeoverAcked, if_neg (State.countsTakeover hr ht hi)]
  exact if_pos (decide_eq_true hm)

theorem State.takeoverAcked_minority (hm : 2 * (s.takeoverCounted i).fleet.acks.length ≤ (withRole s.roster roleWorker).length) :
    s.takeoverAcked i = s.takeoverCounted i := by
  rw [State.takeoverAcked, if_neg (State.countsTakeover hr ht hi)]
  exact if_neg fun h => absurd (of_decide_eq_true h) (Nat.not_lt.2 hm)

end

/-- Settles O51: a message of a member is taken, and its row's meaning is chosen by the roles of both ends. -/
theorem fleetWorkCompletes : Obligations.FleetWorkCompletes := by
  unfold Obligations.FleetWorkCompletes
  intro s hl hf settled role state slot
  refine ⟨?_, fun hr hs k hk => ?_, fun hr ht => ?_⟩
  · intro source i msg hlen hs he hi kind barrier body
    have taken : s.takesFleet msg := State.takesFleet_of_fleetOn hf hlen hs he
    have from_ : ∀ {k : Nat} (f : Nat → FleetMsg → State → State), kind = k →
        fleetFrom k source msg f s = settled (f i (fleetMsgOf msg) s) := fun f hk => fleetFrom_taken hl taken hk hi f
    refine ⟨fun hk hr hw => ?_, fun hk hr hm => ?_, fun hk hlog hr ha => ?_, fun hk h => ?_, fun hk hm => ?_, fun hk hb => ?_,
      fun hk hbuddy hwait => ?_, fun hk h => ?_, fun hk hm hb => ?_, fun hk hm => ?_, fun hk hr hs => ?_, fun hk hm hr k hkm => ?_,
      fun hk hr ht hw => ?_⟩
    · have logs : s.fltRole = roleManager ∨ s.fltRole = roleStandby := hr
      rw [exec_arrive, execArrive, from_ (k := kindArrive) _ hk]
      exact congrArg settled (if_pos (by simpa [hw] using logs))
    · intro gone
      have warm : s.fltRole = roleWarm := hr
      rw [exec_arrive, execArrive, from_ (k := kindArrive) _ hk, if_neg (by simp [warm, roleWarm, roleManager, roleStandby]),
        if_pos (by simp [warm, hm])]
      exact congrArg settled (State.shadowArrival_eq s body)
    · rw [exec_arriveAck, execArriveAck, from_ (k := kindArriveAck) _ hk, if_pos hlog]
      exact congrArg settled (State.arrivalDurable_awaited hr ha)
    · rw [exec_arriveAck, execArriveAck, from_ (k := kindArriveAck) _ hk]
      refine congrArg settled ?_
      rcases h with hlog | other
      · rw [if_neg (by simp [hlog])]
      · have kept : s.arrivalDurable barrier = s := State.arrivalDurable_other other
        exact (congrArg (ite _ · s) kept).trans (ite_self s)
    · intro t
      have commits : role = roleWorker ∨ role = roleStandby → exec (.commit source msg) s = settled (s.committed barrier) := by
        intro h
        have hears : s.fltRole = roleWorker ∨ s.fltRole = roleStandby := h
        rw [exec_commit, execCommit, from_ (k := kindCommit) _ hk]
        exact congrArg settled (if_pos (by simpa [hm] using hears))
      refine ⟨fun hr => (commits (.inl hr)).trans (congrArg settled (State.committed_atWorker hr)), fun hr => ?_⟩
      have other : s.fltRole ≠ roleWorker := fun hw => absurd (hw.symm.trans hr) (by decide)
      exact (commits (.inr hr)).trans (congrArg settled (State.committed_atStandby other))
    · intro r t
      rw [exec_mirror, execMirror, from_ (k := kindMirror) _ hk]
      exact congrArg settled (if_pos hb)
    · rw [exec_mirrorAck, execMirrorAck, from_ (k := kindMirrorAck) _ hk, if_pos hbuddy]
      exact congrArg settled (if_pos hwait)
    · rw [exec_mirrorAck, execMirrorAck, from_ (k := kindMirrorAck) _ hk]
      refine congrArg settled ?_
      rcases h with other | unawaited
      · exact if_neg other
      · have kept : s.mirrored (fieldAt body 0 2) (fieldAt body 2 8) = s := if_neg unawaited
        exact (congrArg (ite _ · s) kept).trans (ite_self s)
    · intro rank first record old noted
      have moves : exec (.move source msg) s = settled (s.moved rank first record) := by
        have whole : (fleetMsgOf msg).body.length = 58 := hb
        rw [exec_move, execMove, from_ (k := kindMove) _ hk]
        exact congrArg settled (if_pos (by simp [hm, whole]))
      exact ⟨fun ho hrec hst => moves.trans (congrArg settled (State.moved_fromHere ho hrec hst)),
        fun ho => moves.trans (congrArg settled (State.moved_toHere ho)),
        fun ho hrec => moves.trans (congrArg settled (State.moved_again ho hrec))⟩
    · rw [exec_fetch, execFetch, from_ (k := kindFetch) _ hk]
      exact congrArg settled (if_pos hm)
    · rw [exec_records, execRecords, from_ (k := kindRecords) _ hk, if_pos (State.manages_active hf hr hs)]
      rfl
    · intro epoch held
      have asked : exec (.takeover source msg) s = settled (s.takeoverAsked source epoch) := by
        rw [exec_takeover, execTakeover, from_ (k := kindTakeover) _ hk]
        exact congrArg settled (if_pos hm)
      exact ⟨fun he => asked.trans (congrArg settled (State.takeoverAsked_granted hkm hr he source)),
        fun he htk => asked.trans (congrArg settled (State.takeoverAsked_refused hkm he htk source))⟩
    · intro t workers
      have acked : exec (.takeoverAck source msg) s = settled (s.takeoverAcked i) := by
        rw [exec_takeoverAck, execTakeoverAck, from_ (k := kindTakeoverAck) _ hk]
      exact ⟨fun h => acked.trans (congrArg settled (State.takeoverAcked_majority hr ht hw h)),
        fun h => acked.trans (congrArg settled (State.takeoverAcked_minority hr ht hw h))⟩
  · rw [exec_standbyTakeoverTimeout, execStandbyTakeoverTimeout, act_live hl]
    exact congrArg _ (State.startTakeover_asks hk hf hr hs)
  · have standby : s.fltRole = roleStandby := hr
    rw [exec_takeoverQuorumTimeout, execTakeoverQuorumTimeout, act_live hl]
    exact congrArg _ (if_pos (by simp [hf, standby, Option.isSome_iff_ne_none.2 ht]))

end Sys2Proof.Machine

/-! ### What resets keep (O44) -/

namespace Sys2Proof.Machine

/-! Tables of which a part is kept, or which are put into another. -/

theorem lookupIn_filter_some {α : Type} {k : Nat} {v : α} {p : Nat × α → Bool} {l : List (Nat × α)}
    (h : lookupIn k l = some v) (hp : p (k, v) = true) : lookupIn k (l.filter p) = some v := by
  induction l with
  | nil => cases h
  | cons e t ih =>
    obtain ⟨a, b⟩ := e
    rw [lookupIn] at h
    by_cases hk : k = a
    · subst hk
      rw [if_pos rfl] at h
      cases h
      rw [List.filter_cons_of_pos hp, lookupIn, if_pos rfl]
    · have later : ¬ k < a := fun lt => by simp [hk, lt] at h
      rw [if_neg hk, if_neg later] at h
      rw [List.filter_cons]
      split
      · rw [lookupIn, if_neg hk, if_neg later, ih h]
      · exact ih h

theorem lookupIn_eq_none {α : Type} {k : Nat} {l : List (Nat × α)} (h : ∀ e ∈ l, e.1 ≠ k) : lookupIn k l = none := by
  induction l with
  | nil => rfl
  | cons e t ih =>
    obtain ⟨a, b⟩ := e
    rw [lookupIn, if_neg (h _ List.mem_cons_self).symm, ih fun x hx => h x (List.mem_cons_of_mem _ hx), ite_self]

/-- In a list with rising keys a key that is not found is not there. -/
theorem ne_of_lookupIn_none {α : Type} {k : Nat} {l : List (Nat × α)} (hl : l.Pairwise fun x y => x.1 < y.1)
    (h : lookupIn k l = none) : ∀ e ∈ l, e.1 ≠ k := by
  induction l with
  | nil => exact fun e he => absurd he List.not_mem_nil
  | cons e t ih =>
    obtain ⟨a, b⟩ := e
    obtain ⟨rising, tail⟩ := List.pairwise_cons.1 hl
    rw [lookupIn] at h
    by_cases hk : k = a
    · rw [if_pos hk] at h
      cases h
    · rw [if_neg hk] at h
      refine List.forall_mem_cons.2 ⟨Ne.symm hk, fun x hx => ?_⟩
      by_cases lt : k < a
      · exact Nat.ne_of_gt (Nat.lt_trans lt (rising x hx))
      · rw [if_neg lt] at h
        exact ih tail h x hx

/-- A kept key of a canonical table reads as before, and so does any that does not read as an unlisted one. -/
theorem Tab.get_keep {α : Type} [DecidableEq α] {d : Nat → α} {t : Tab α} {k : Nat} {p : Nat → α → Bool}
    (h : Tab.wf d t = true ∨ Tab.get d t k ≠ d k) (hp : ∀ v, p k v = true) :
    Tab.get d (t.keep p) k = Tab.get d t k := by
  have found : ∀ v, t.find k = some v → (t.keep p).find k = some v := fun v hv => lookupIn_filter_some hv (hp v)
  rcases hf : t.find k with _ | v
  · have canonical : Tab.wf d t = true := h.resolve_right fun hne => hne (by rw [Tab.get, hf, Option.getD_none])
    have absent := ne_of_lookupIn_none ((Tab.wf_iff d t).1 canonical).1 hf
    have unlisted : (t.keep p).find k = none := lookupIn_eq_none fun e he => absent e (List.mem_of_mem_filter he)
    rw [Tab.get, Tab.get, hf, unlisted]
  · rw [Tab.get, Tab.get, hf, found v hf]

/-- Entries with rising keys, put into a table: the key reads as the entry, or as before where there is none. -/
theorem Tab.get_foldl_insert {α : Type} {d : Nat → α} {k : Nat} {l : List (Nat × α)} (hl : l.Pairwise fun x y => x.1 < y.1)
    (m : Tab α) :
    Tab.get d (l.foldl (fun (m : Tab α) e => m.insert e.1 e.2) m) k = (lookupIn k l).getD (Tab.get d m k) := by
  induction l generalizing m with
  | nil => rfl
  | cons e l ih =>
    obtain ⟨a, b⟩ := e
    obtain ⟨rising, tail⟩ := List.pairwise_cons.1 hl
    rw [List.foldl_cons, ih tail, lookupIn]
    by_cases hk : k = a
    · have absent : lookupIn k l = none := lookupIn_eq_none fun x hx => hk ▸ Nat.ne_of_gt (rising x hx)
      rw [absent, Option.getD_none, if_pos hk, Option.getD_some, Tab.get, hk, Tab.find_insert_self, Option.getD_some]
    · rw [if_neg hk, Tab.get, Tab.find_insert_ne _ hk]
      by_cases lt : k < a
      · have absent : lookupIn k l = none := lookupIn_eq_none fun x hx => Nat.ne_of_gt (Nat.lt_trans lt (rising x hx))
        rw [absent, if_pos lt]
        rfl
      · rw [if_neg lt]
        rfl

/-! What the block store does at a power loss leaves Sheepdog, the security function and their registers alone. -/

/-- Registers below the task register sets, Sheepdog's among them, and those from the owner keys up to the block store's. -/
def apartFromStore (off : Nat) : Prop := off < Reg.TRS_OPCODE 0 ∨ (Reg.SEC_OWNER 0 0 ≤ off ∧ off < Reg.FTL_CAPACITY)

/-- `s` differs from `r` neither in Sheepdog nor in the security function nor in a register apart from the block store. -/
structure State.AgreesApart (r s : State) : Prop where
  security : s.security = r.security
  sheep : s.sheep = r.sheep
  reg : ∀ off, apartFromStore off → s.reg off = r.reg off

theorem State.AgreesApart.refl (s : State) : s.AgreesApart s := ⟨rfl, rfl, fun _ _ => rfl⟩

theorem not_apart_of_store {off : Nat} (h : Reg.FTL_CAPACITY ≤ off) : ¬ apartFromStore off := by
  unfold apartFromStore Reg.FTL_CAPACITY Reg.TRS_OPCODE at *
  omega

/-- The registers of the task register sets and of the check units. -/
theorem not_apart_of_between {off : Nat} (h : Reg.TRS_OPCODE 0 ≤ off) (h' : off < Reg.SEC_OWNER 0 0) : ¬ apartFromStore off := by
  unfold apartFromStore
  omega

section
variable {r s : State} (h : r.AgreesApart s)
include h

theorem State.setReg_agrees {off : Nat} (ha : ¬ apartFromStore off) (v : Word64) : r.AgreesApart (s.setReg off v) :=
  ⟨h.security, h.sheep, fun k hk => (s.reg_setReg_ne (fun e : k = off => ha (e ▸ hk)) v).trans (h.reg k hk)⟩

theorem State.setBit_agrees {off : Nat} (ha : ¬ apartFromStore off) (f : Fld) (b : Bool) : r.AgreesApart (s.setBit off f b) :=
  State.setReg_agrees h ha _

theorem State.adjustStore_agrees (f : Store → Store) : r.AgreesApart (s.adjustStore f) := ⟨h.security, h.sheep, h.reg⟩

theorem State.putNand_agrees (x : NandUnit) : r.AgreesApart (s.putNand x) := ⟨h.security, h.sheep, h.reg⟩

theorem State.setUnits_agrees (n : Nat) (f : Tab StoredUnit → Tab StoredUnit) : r.AgreesApart (s.setUnits n f) :=
  ⟨h.security, h.sheep, h.reg⟩

theorem State.drew_agrees : r.AgreesApart s.drew := ⟨h.security, h.sheep, h.reg⟩

theorem State.raise_agrees (v : Nat) : r.AgreesApart (s.raise v) := ⟨h.security, h.sheep, h.reg⟩

theorem State.setChk_agrees (u : Nat) (x : ChkUnit) : r.AgreesApart (s.setChk u x) := ⟨h.security, h.sheep, h.reg⟩

theorem State.bumpRange_agrees (n lba count : Nat) : r.AgreesApart (s.bumpRange n lba count) := ⟨h.security, h.sheep, h.reg⟩

theorem State.agrees_foldl {α : Type} {xs : List α} {f : State → α → State}
    (hf : ∀ t, ∀ x ∈ xs, r.AgreesApart t → r.AgreesApart (f t x)) : r.AgreesApart (xs.foldl f s) := by
  induction xs generalizing s with
  | nil => exact h
  | cons x xs ih => exact ih (hf s x List.mem_cons_self h) fun t y hy => hf t y (List.mem_cons_of_mem x hy)

omit h in
theorem State.agrees_foldl_fst {α β : Type} {p : State × β} {xs : List α} {f : State × β → α → State × β} (h : r.AgreesApart p.1)
    (hf : ∀ q, ∀ x ∈ xs, r.AgreesApart q.1 → r.AgreesApart (f q x).1) : r.AgreesApart (xs.foldl f p).1 := by
  induction xs generalizing p with
  | nil => exact h
  | cons x xs ih => exact ih (hf p x List.mem_cons_self h) fun q y hy => hf q y (List.mem_cons_of_mem x hy)

/-- A record of a check unit. -/
theorem State.chkRecord_agrees {u : Nat} (hu : u < 16) (data trailer : Bytes) : r.AgreesApart (s.chkRecord u data trailer).1 := by
  have result : ¬ apartFromStore (Reg.CHK_RESULT u) := not_apart_of_between (by unfold Reg.CHK_RESULT Reg.TRS_OPCODE; omega)
    (by unfold Reg.CHK_RESULT Reg.SEC_OWNER; omega)
  have count : ¬ apartFromStore (Reg.CHK_MISMATCH u) := not_apart_of_between (by unfold Reg.CHK_MISMATCH Reg.TRS_OPCODE; omega)
    (by unfold Reg.CHK_MISMATCH Reg.SEC_OWNER; omega)
  have place : ¬ apartFromStore (Reg.CHK_MISMATCH_AT u) := not_apart_of_between (by unfold Reg.CHK_MISMATCH_AT Reg.TRS_OPCODE; omega)
    (by unfold Reg.CHK_MISMATCH_AT Reg.SEC_OWNER; omega)
  have ended : r.AgreesApart ((s.chkFeed u data).chkEndRecord u) :=
    State.setChk_agrees (State.setReg_agrees (State.setChk_agrees h u _) result _) u _
  have counted := State.setReg_agrees ended count
  unfold State.chkRecord
  dsimp only
  split
  · split
    · exact ended
    · refine State.raise_agrees ?_ 7
      split
      · exact State.setReg_agrees (counted _) place _
      · exact counted _
  · split
    · exact ended
    · exact ended

theorem State.protectUnit_agrees (channel n : Nat) (data : Bytes) : r.AgreesApart (s.protectUnit channel n data).1 := by
  refine State.agrees_foldl_fst (p := (s, [])) h fun p u hu hp => State.agrees_foldl_fst hp fun q x _ hq => ?_
  exact State.chkRecord_agrees hq (List.mem_range.1 (List.mem_of_mem_filter hu)) x []

theorem State.writeUnit_agrees (n lba : Nat) (data : Bytes) (origin : Option Nat) (flags group groupCount : Nat) (bad : Bool) :
    r.AgreesApart (s.writeUnit n lba data origin flags group groupCount bad).1 := by
  unfold State.writeUnit
  exact State.putNand_agrees (State.protectUnit_agrees h _ n data) _

theorem State.programUnit_agrees (n lba : Nat) (data : Bytes) (origin : Option Nat) (flags group groupCount : Nat) (bad : Bool) :
    r.AgreesApart (s.programUnit n lba data origin flags group groupCount bad) := by
  unfold State.programUnit
  exact State.setUnits_agrees (State.writeUnit_agrees h n lba data origin flags group groupCount bad) n _

theorem State.showNs_agrees (n : Nat) : r.AgreesApart (s.showNs n) := by
  have used : ¬ apartFromStore (Reg.FTL_NS_USED n) := not_apart_of_store (by unfold Reg.FTL_NS_USED Reg.FTL_CAPACITY; omega)
  have pages : ∀ k, ¬ apartFromStore (Reg.FTL_NS_KEY_PAGES n k) := fun k =>
    not_apart_of_store (by unfold Reg.FTL_NS_KEY_PAGES Reg.FTL_CAPACITY; omega)
  exact State.agrees_foldl (State.setReg_agrees h used _) fun t k _ ht => State.setReg_agrees ht (pages k.1) _

theorem State.showBlocks_agrees : r.AgreesApart s.showBlocks := by
  have state : ¬ apartFromStore Reg.FTL_STATE := not_apart_of_store (by decide)
  exact State.setBit_agrees (State.setBit_agrees h state _ _) state _ _

/-- The units of a command whose group is not atomic. -/
theorem State.storeUnits_agrees (n lba : Nat) (data : List Bytes) : r.AgreesApart (s.storeUnits n lba data none) := by
  have programmed : r.AgreesApart (data.zipIdx.foldl (fun t e => t.programUnit n (lba + e.2) e.1 none 0 0 0 false) s) :=
    State.agrees_foldl h fun t e _ ht => State.programUnit_agrees ht n (lba + e.2) e.1 none 0 0 0 false
  exact State.bumpRange_agrees (State.adjustStore_agrees (State.showBlocks_agrees (State.showNs_agrees programmed n)) _) n lba _

theorem State.unmapUnits_agrees (n lba count flags : Nat) : r.AgreesApart (s.unmapUnits n lba count flags) := by
  have recorded : r.AgreesApart (s.rangeRecord n lba count flags) := State.putNand_agrees h _
  exact State.showBlocks_agrees (State.bumpRange_agrees (State.showNs_agrees (State.setUnits_agrees recorded n _) n) n lba count)

/-- What a power loss leaves of a command (Table 11-4), by its opcode. -/
theorem State.lossCmd_agrees (t : Nat) (c : TrsCmd) : r.AgreesApart (s.lossCmd t c) := by
  have drawn := State.drew_agrees h
  unfold State.lossCmd
  split
  · exact h
  split
  · refine State.agrees_foldl h fun u e _ hu => ?_
    split
    · exact State.storeUnits_agrees (State.drew_agrees hu) _ _ _
    · exact State.drew_agrees hu
  split
  · dsimp only
    split
    · exact State.agrees_foldl drawn fun u e _ hu => State.writeUnit_agrees hu _ _ _ _ _ _ _ _
    · exact drawn
  split
  · split
    · exact State.unmapUnits_agrees drawn _ _ _ _
    · exact drawn
  split
  · split
    · exact State.unmapUnits_agrees drawn _ _ _ _
    · exact drawn
  · exact h

theorem State.endSweeps_agrees : r.AgreesApart s.endSweeps := by
  have key : ∀ n k, ¬ apartFromStore (Reg.FTL_NS_KEY n k) := fun n k =>
    not_apart_of_store (by unfold Reg.FTL_NS_KEY Reg.FTL_CAPACITY; omega)
  exact State.agrees_foldl (State.adjustStore_agrees h _) fun t n _ ht =>
    State.agrees_foldl ht fun u k _ hu => State.setBit_agrees hu (key n k) _ false

end

/-! The block store after a power loss (Table 11-4). -/

/-- The commands are cut short and the sweeps ended, the task register sets not yet idle. -/
def State.commandsLost (s : State) : State := (s.cmdsInOrder.foldl (fun t e => t.lossCmd e.1 e.2) s).endSweeps

theorem State.commandsLost_agrees (s : State) : s.AgreesApart s.commandsLost :=
  State.endSweeps_agrees (State.agrees_foldl (State.AgreesApart.refl s) fun _ e _ ht => State.lossCmd_agrees ht e.1 e.2)

theorem State.commandsLost_registersOk {s : State} (h : s.registersOk = true) : s.commandsLost.registersOk = true := by
  obtain ⟨-, -, registers⟩ := State.endSweeps_keeps (State.keeps_foldl (xs := s.cmdsInOrder) (State.Keeps.refl s) fun _ e ht =>
    State.lossCmd_keeps (x1 := e.1) (c := e.2) ht)
  exact registers h

theorem ne_of_apart {off k : Nat} (ha : apartFromStore off) (hk : ¬ apartFromStore k) : off ≠ k := fun e => hk (e ▸ ha)

theorem not_apart_nextSeq : ¬ apartFromStore Reg.TRS_NEXT_SEQ := not_apart_of_between (by decide) (by decide)
theorem not_apart_debug : ¬ apartFromStore Reg.SEC_DEBUG := not_apart_of_between (by decide) (by decide)
theorem not_apart_storeState : ¬ apartFromStore Reg.FTL_STATE := not_apart_of_store (by decide)

theorem State.storeLoss_security (s : State) : s.storeLoss.security = s.security := by
  rw [← s.commandsLost_agrees.security]
  unfold State.storeLoss State.commandsLost
  generalize (s.cmdsInOrder.foldl (fun t e => t.lossCmd e.1 e.2) s).endSweeps = t
  rfl

theorem State.storeLoss_sheep (s : State) : s.storeLoss.sheep = s.sheep := by
  rw [← s.commandsLost_agrees.sheep]
  unfold State.storeLoss State.commandsLost
  generalize (s.cmdsInOrder.foldl (fun t e => t.lossCmd e.1 e.2) s).endSweeps = t
  rfl

@[simp] theorem State.reg_adjustSheep (s : State) (f : Sheepdog → Sheepdog) (off : Nat) : (s.adjustSheep f).reg off = s.reg off := rfl

/-- With no command and no sweep outstanding nothing of the medium changes. -/
theorem State.storeLoss_store {s : State} (hc : s.store.cmds = Tab.empty) (hs : s.store.sweeps = Tab.empty) :
    s.storeLoss.store = { s.store with cmds := Tab.empty, sweeps := Tab.empty, taking := none, activating := false } := by
  have noCommand : s.cmdsInOrder = [] := by rw [State.cmdsInOrder, hc]; rfl
  have swept : s.endSweeps = s.adjustStore fun st => { st with sweeps := Tab.empty } := by rw [State.endSweeps, hs]; rfl
  rw [State.storeLoss, noCommand, List.foldl_nil, swept]
  rfl

section
variable {s : State} {off : Nat} (h : s.registersOk = true ∨ s.reg off ≠ regDefault off)
include h

theorem State.reg_keep {p : Nat → Word64 → Bool} (hp : ∀ v, p off v = true) :
    Tab.get regDefault (s.regs.keep p) off = s.reg off := Tab.get_keep h hp

variable (ha : apartFromStore off)
include ha

theorem State.commandsLost_listed : s.commandsLost.registersOk = true ∨ s.commandsLost.reg off ≠ regDefault off := by
  rw [s.commandsLost_agrees.reg off ha]
  exact h.imp_left State.commandsLost_registersOk

theorem State.storeLoss_reg : s.storeLoss.reg off = s.reg off := by
  have outside : ∀ v : Word64, (fun k (_ : Word64) => !(Reg.TRS_OPCODE 0 ≤ k && k < Reg.TRS_DONE 8)) off v = true := by
    intro v
    have out : ¬ (Reg.TRS_OPCODE 0 ≤ off ∧ off < Reg.TRS_DONE 8) := fun ⟨lo, hi⟩ =>
      not_apart_of_between lo (Nat.lt_trans hi (by decide)) ha
    simpa only [Bool.not_eq_true', ← Bool.not_eq_true, Bool.and_eq_true, decide_eq_true_eq] using out
  calc s.storeLoss.reg off = (s.commandsLost.clearRegs (Reg.TRS_OPCODE 0) (Reg.TRS_DONE 8)).reg off :=
        (State.reg_setFld_ne _ (ne_of_apart ha not_apart_storeState) _ _).trans (State.reg_setReg_ne _ (ne_of_apart ha not_apart_nextSeq) _)
    _ = s.commandsLost.reg off := State.reg_keep (State.commandsLost_listed h ha) outside
    _ = s.reg off := s.commandsLost_agrees.reg off ha

theorem State.storeLoss_listed : s.storeLoss.registersOk = true ∨ s.storeLoss.reg off ≠ regDefault off := by
  rw [State.storeLoss_reg h ha]
  refine h.imp_left fun ok => ?_
  obtain ⟨-, -, registers⟩ := State.storeLoss_keeps (State.Keeps.refl s)
  exact registers ok

/-- A warm reset keeps the registers of Table 14-7 (R374). -/
theorem State.warmEffects_reg (hw : warmRegister off = true) : s.warmEffects.reg off = s.reg off := by
  have debug : off ≠ Reg.SEC_DEBUG := ne_of_apart ha not_apart_debug
  have kept : Tab.get regDefault (s.storeLoss.regs.keep fun k _ => warmRegister k) off = s.storeLoss.reg off :=
    State.reg_keep (State.storeLoss_listed h ha) fun _ => hw
  unfold State.warmEffects
  dsimp only
  rw [State.reg_adjustSheep, State.reg_setFld_ne _ debug, State.setBit, State.reg_setFld_ne _ debug,
    State.reg_setReg_ne _ (ne_of_apart ha not_apart_nextSeq), State.reg, kept, State.storeLoss_reg h ha]

end

/-! The effects of a reset. -/

/-- What every reset keeps of the security function and the start (Table 14-7). -/
structure State.RetainsOver (s t : State) : Prop where
  fails : t.fld Reg.SHD_BOOT Fld.SHD_BOOT_FAILS = s.fld Reg.SHD_BOOT Fld.SHD_BOOT_FAILS
  secured : ∀ off, Reg.SEC_OWNER 0 0 ≤ off → off ≤ Reg.SEC_CMD_COUNTER 16 → t.reg off = s.reg off
  anchors : t.security.anchors = s.security.anchors
  owners : t.security.owners = s.security.owners
  keys : t.security.keys = s.security.keys

theorem State.RetainsOver.trans {s t u : State} (h : s.RetainsOver t) (g : t.RetainsOver u) : s.RetainsOver u :=
  ⟨g.fails.trans h.fails, fun off lo hi => (g.secured off lo hi).trans (h.secured off lo hi), g.anchors.trans h.anchors,
    g.owners.trans h.owners, g.keys.trans h.keys⟩

theorem apart_of_secured {off : Nat} (lo : Reg.SEC_OWNER 0 0 ≤ off) (hi : off ≤ Reg.SEC_CMD_COUNTER 16) : apartFromStore off :=
  .inr ⟨lo, Nat.lt_of_le_of_lt hi (by decide)⟩

theorem apart_boot : apartFromStore Reg.SHD_BOOT := .inl (by decide)

theorem retainedRegister_secured {off : Nat} (lo : Reg.SEC_OWNER 0 0 ≤ off) (hi : off ≤ Reg.SEC_CMD_COUNTER 16) :
    retainedRegister off = true := by
  simp [retainedRegister, lo, hi]

/-- The owner keys and the command counters lie beyond Sheepdog's registers. -/
theorem ne_of_secured {off k : Nat} (lo : Reg.SEC_OWNER 0 0 ≤ off) (hk : k < Reg.SEC_OWNER 0 0) : off ≠ k :=
  Nat.ne_of_gt (Nat.lt_of_lt_of_le hk lo)

theorem warmRegister_boot : warmRegister Reg.SHD_BOOT = true := by
  simp [warmRegister, Reg.SHD_BOOT, Reg.SHD_TIMER_STATUS]

theorem warmRegister_secured {off : Nat} (lo : Reg.SEC_OWNER 0 0 ≤ off) (hi : off ≤ Reg.SEC_CMD_COUNTER 16) :
    warmRegister off = true := by
  rw [warmRegister, retainedRegister_secured lo hi]
  simp only [Bool.true_or]

theorem State.warmEffects_security (s : State) :
    s.warmEffects.security = { s.security with partitionDigest := [], tlsSessions := 0 } := by
  rw [← s.storeLoss_security]
  unfold State.warmEffects
  generalize s.storeLoss = t
  rfl

theorem State.powerOnEffects_security (s : State) :
    s.powerOnEffects.security = { s.security with partitionDigest := [], tlsSessions := 0 } := by
  rw [← s.storeLoss_security]
  unfold State.powerOnEffects
  generalize s.storeLoss = t
  rfl

theorem State.warmEffects_retains {s : State} (h : s.registersOk = true) : s.RetainsOver s.warmEffects where
  fails := by rw [State.fld, State.fld, State.warmEffects_reg (.inl h) apart_boot warmRegister_boot]
  secured _ lo hi := State.warmEffects_reg (.inl h) (apart_of_secured lo hi) (warmRegister_secured lo hi)
  anchors := by rw [s.warmEffects_security]
  owners := by rw [s.warmEffects_security]
  keys := by rw [s.warmEffects_security]

/-- A power-on gives a part's registers their reset values, which for the owner keys and counters are those of the field table. -/
theorem regsReset_secured (p : Part) {off : Nat} (lo : Reg.SEC_OWNER 0 0 ≤ off) (hi : off ≤ Reg.SEC_CMD_COUNTER 16) :
    Tab.get regDefault (regsReset p) off = regDefault off := by
  have health : ∀ n ∈ List.range 32, off ≠ Reg.GLB_KENNEL_HEALTH n := fun n hn => ne_of_secured lo (by
    have := List.mem_range.1 hn
    unfold Reg.GLB_KENNEL_HEALTH Reg.SEC_OWNER
    omega)
  have dclass : off ≠ Reg.HEEL_DCLASS := Nat.ne_of_lt (Nat.lt_of_le_of_lt hi (by decide))
  rw [regsReset, Tab.get_foldl_set_ne health, Tab.get, Tab.find_insert_ne _ dclass, Tab.find_insert_ne _ (ne_of_secured lo (by decide)),
    Tab.find_empty, Option.getD_none]

/-- The registers of a power-on: those that it retains, over the reset values. -/
def State.retainedRegs (s : State) : Tab Word64 :=
  (s.storeLoss.regs.entries.filter fun e => retainedRegister e.1).foldl (fun (m : Tab Word64) e => m.insert e.1 e.2) (regsReset s.part)

theorem State.powerOnEffects_regs (s : State) :
    s.powerOnEffects.regs = Tab.set regDefault (Tab.set regDefault s.retainedRegs Reg.SHD_BOOT (s.storeLoss.reg Reg.SHD_BOOT))
      Reg.HEEL_DCLASS (s.storeLoss.reg Reg.HEEL_DCLASS) := by
  unfold State.powerOnEffects State.retainedRegs
  generalize s.storeLoss = t
  rfl

theorem State.powerOnEffects_boot {s : State} (h : s.registersOk = true) : s.powerOnEffects.reg Reg.SHD_BOOT = s.reg Reg.SHD_BOOT := by
  rw [State.reg, s.powerOnEffects_regs, Tab.get_set_ne _ _ (by decide), Tab.get_set_self, State.storeLoss_reg (.inl h) apart_boot]

theorem State.powerOnEffects_secured {s : State} (h : s.registersOk = true) {off : Nat} (lo : Reg.SEC_OWNER 0 0 ≤ off)
    (hi : off ≤ Reg.SEC_CMD_COUNTER 16) : s.powerOnEffects.reg off = s.reg off := by
  have dclass : off ≠ Reg.HEEL_DCLASS := Nat.ne_of_lt (Nat.lt_of_le_of_lt hi (by decide))
  have listed := State.storeLoss_listed (.inl h) (apart_of_secured lo hi)
  obtain ⟨-, -, registers⟩ := State.storeLoss_keeps (State.Keeps.refl s)
  obtain ⟨rising, -⟩ := (Tab.wf_iff regDefault _).1 (registers h)
  have kept : Tab.get regDefault s.retainedRegs off = s.storeLoss.reg off := by
    rw [State.retainedRegs, Tab.get_foldl_insert (rising.sublist List.filter_sublist), regsReset_secured s.part lo hi]
    exact State.reg_keep (p := fun k _ => retainedRegister k) listed fun _ => retainedRegister_secured lo hi
  rw [State.reg, s.powerOnEffects_regs, Tab.get_set_ne _ _ dclass, Tab.get_set_ne _ _ (ne_of_secured lo (by decide)), kept,
    State.storeLoss_reg (.inl h) (apart_of_secured lo hi)]

theorem State.powerOnEffects_retains {s : State} (h : s.registersOk = true) : s.RetainsOver s.powerOnEffects where
  fails := by rw [State.fld, State.fld, State.powerOnEffects_boot h]
  secured _ lo hi := State.powerOnEffects_secured h lo hi
  anchors := by rw [s.powerOnEffects_security]
  owners := by rw [s.powerOnEffects_security]
  keys := by rw [s.powerOnEffects_security]

theorem State.RetainsOver.refl (s : State) : s.RetainsOver s := ⟨rfl, fun _ _ _ => rfl, rfl, rfl, rfl⟩

section
variable {r s : State} (h : r.RetainsOver s)
include h

/-- A field of SHD_BOOT below FAILS is written. -/
theorem State.setBootField_retains (f : Fld) (x : Nat) (hf : f.lo + f.len ≤ Fld.SHD_BOOT_FAILS.lo) :
    r.RetainsOver (s.setFld Reg.SHD_BOOT f x) where
  fails := (State.fld_setFld_other _ _ _ _ _ (Nat.le_trans hf (by decide)) (.inr hf) _).trans h.fails
  secured off lo hi := (State.reg_setFld_ne _ (ne_of_secured lo (by decide)) _ _).trans (h.secured off lo hi)
  anchors := h.anchors
  owners := h.owners
  keys := h.keys

/-- Another register of Sheepdog is written. -/
theorem State.setSheepField_retains {k : Nat} (hk : Reg.SHD_BOOT < k) (hk' : k < Reg.SEC_OWNER 0 0) (f : Fld) (x : Nat) :
    r.RetainsOver (s.setFld k f x) where
  fails := (State.fld_setFld_ne _ (Nat.ne_of_lt hk) _ _ _).trans h.fails
  secured off lo hi := (State.reg_setFld_ne _ (ne_of_secured lo hk') _ _).trans (h.secured off lo hi)
  anchors := h.anchors
  owners := h.owners
  keys := h.keys

theorem State.adjustSheep_retains (f : Sheepdog → Sheepdog) : r.RetainsOver (s.adjustSheep f) :=
  ⟨h.fails, h.secured, h.anchors, h.owners, h.keys⟩

theorem State.board_retains (b : Board) : r.RetainsOver { s with board := b } := ⟨h.fails, h.secured, h.anchors, h.owners, h.keys⟩

theorem State.setCause_retains (cause : Nat) : r.RetainsOver (s.setCause cause) :=
  State.setSheepField_retains h (by decide) (by decide) _ cause

theorem State.holdAt_retains (stage : Nat) : r.RetainsOver (s.holdAt stage) :=
  State.adjustSheep_retains (State.setBootField_retains h _ stage (by decide)) _

end

/-- A start fails: its stage, reason and detail are recorded. -/
theorem State.failStart_retains (s : State) {reason : Nat} (hr : reason ≠ reasonInvalid) (detail : Nat) :
    s.RetainsOver (s.failStart reason detail) := by
  have staged := State.setBootField_retains (State.RetainsOver.refl s) Fld.SHD_BOOT_FAIL_STAGE s.bootStage (by decide)
  have reasoned := State.setBootField_retains staged Fld.SHD_BOOT_REASON reason (by decide)
  have detailed := State.setSheepField_retains (k := Reg.SHD_BOOT_DETAIL) reasoned (by decide) (by decide)
    Fld.SHD_BOOT_DETAIL_DETAIL detail
  unfold State.failStart
  dsimp only
  rw [if_neg hr]
  exact State.adjustSheep_retains detailed _

theorem State.endStart_retains (s : State) : s.RetainsOver s.endStart := by
  unfold State.endStart
  split
  · exact s.failStart_retains (by decide) s.bootStage
  · exact State.RetainsOver.refl s

theorem State.endStart_store (s : State) : s.endStart.store = s.store := by
  unfold State.endStart
  split <;> rfl

theorem State.endStart_registersOk {s : State} (h : s.registersOk = true) : s.endStart.registersOk = true := by
  obtain ⟨-, -, registers⟩ := State.endStart_keeps (State.Keeps.refl s)
  exact registers h

theorem State.powerOnReset_retains {s : State} (h : s.registersOk = true) : s.RetainsOver s.powerOnReset :=
  have effects : s.RetainsOver s.endStart.powerOnEffects :=
    s.endStart_retains.trans (State.powerOnEffects_retains (State.endStart_registersOk h))
  State.board_retains (State.holdAt_retains (State.setCause_retains effects causePowerOn) 1) _

/-- A warm reset while POR_N is high. -/
theorem State.warmReset_high {s : State} (h : s.board.por = true) :
    s.warmReset = { s.warmDown.holdAt 2 with board := { (s.warmDown.holdAt 2).board with warm := false } } := by
  rw [State.warmReset, if_pos h]

theorem State.warmReset_retains {s : State} (h : s.registersOk = true) (hp : s.board.por = true) : s.RetainsOver s.warmReset := by
  have effects : s.RetainsOver s.endStart.warmEffects :=
    s.endStart_retains.trans (State.warmEffects_retains (State.endStart_registersOk h))
  rw [State.warmReset_high hp]
  exact State.board_retains (State.holdAt_retains (State.setCause_retains effects causeWarm) 2) _

/-- Namespaces, blocks and health counters are as before. -/
structure State.MediumKept (s t : State) : Prop where
  namespaces : t.store.namespaces = s.store.namespaces
  blocks : t.store.blocks = s.store.blocks
  health : t.store.health = s.store.health

section
variable {s : State} (hc : s.store.cmds = Tab.empty) (hs : s.store.sweeps = Tab.empty)
include hc hs

theorem State.endStart_storeLoss_medium : s.MediumKept s.endStart.storeLoss := by
  have same := s.endStart_store
  have lost := State.storeLoss_store (s := s.endStart) (by rw [same, hc]) (by rw [same, hs])
  constructor <;> rw [lost, same]

theorem State.powerOnReset_medium : s.MediumKept s.powerOnReset := by
  have kept := State.endStart_storeLoss_medium hc hs
  unfold State.powerOnReset State.powerOnEffects
  generalize s.endStart = u at kept
  generalize u.storeLoss = t at kept
  exact ⟨kept.namespaces, kept.blocks, kept.health⟩

theorem State.warmReset_medium (hp : s.board.por = true) : s.MediumKept s.warmReset := by
  have kept := State.endStart_storeLoss_medium hc hs
  rw [State.warmReset_high hp]
  unfold State.warmDown State.warmEffects
  generalize s.endStart = u at kept
  generalize u.storeLoss = t at kept
  exact ⟨kept.namespaces, kept.blocks, kept.health⟩

end

/-- What no reset keeps (Table 14-7). -/
structure State.WorkLost (t : State) : Prop where
  dram : t.dram = Tab.empty
  jobs : t.jobs = Tab.empty
  images : t.images = Tab.empty
  claims : t.claims = []

theorem State.powerOnReset_workLost (s : State) : s.powerOnReset.WorkLost := by
  unfold State.powerOnReset State.powerOnEffects
  generalize s.endStart = u
  generalize u.storeLoss = t
  exact ⟨rfl, rfl, rfl, rfl⟩

theorem State.warmReset_workLost {s : State} (h : s.board.por = true) : s.warmReset.WorkLost := by
  rw [State.warmReset_high h]
  unfold State.warmDown State.warmEffects
  generalize s.endStart = u
  generalize u.storeLoss = t
  exact ⟨rfl, rfl, rfl, rfl⟩

/-- Settles O44: both resets retain what each of their effects retains, lose the work, and leave an idle medium as it was. -/
theorem resetsKeepTheRetainedState : Obligations.ResetsKeepTheRetainedState := by
  unfold Obligations.ResetsKeepTheRetainedState
  intro s t ok reset
  have outcome : s.RetainsOver t ∧ t.WorkLost ∧ (s.store.cmds = Tab.empty → s.store.sweeps = Tab.empty → s.MediumKept t) := by
    rcases reset with e | ⟨high, e⟩
    · obtain rfl : s.powerOnReset = t := Host.Outcome.next.inj e
      exact ⟨State.powerOnReset_retains ok, s.powerOnReset_workLost, fun hc hs => State.powerOnReset_medium hc hs⟩
    · obtain rfl : s.warmReset = t := Host.Outcome.next.inj e
      exact ⟨State.warmReset_retains ok high, State.warmReset_workLost high, fun hc hs => State.warmReset_medium hc hs high⟩
  obtain ⟨⟨fails, secured, anchors, owners, keys⟩, ⟨dram, jobs, images, claims⟩, medium⟩ := outcome
  refine ⟨fails, fun k hk => secured _ ?_ ?_, fun h i h1 h15 hi => secured _ ?_ ?_, anchors, owners, keys, dram, jobs, images,
    claims, fun hc hs => ?_⟩
  · unfold Reg.SEC_OWNER Reg.SEC_CMD_COUNTER
    omega
  · unfold Reg.SEC_CMD_COUNTER
    omega
  · unfold Reg.SEC_OWNER
    omega
  · unfold Reg.SEC_OWNER Reg.SEC_CMD_COUNTER
    omega
  · obtain ⟨namespaces, blocks, health⟩ := medium hc hs
    exact ⟨namespaces, blocks, health⟩

end Sys2Proof.Machine

/-! ### Excluded sites (O60) -/

namespace Sys2Proof.Machine

/-! Which sites count (R367). -/

/-- Is a temperature outside −50 °C to 150 °C, or more than 20 °C from the median of all sites? -/
def State.siteExcluded (s : State) (c : Int) : Prop :=
  c < -5000 ∨ 15000 < c ∨ 2000 < (c - median (s.siteTemps.map (·.2))).natAbs

theorem excludedTemp_iff (med c : Int) : excludedTemp med c = true ↔ c < -5000 ∨ 15000 < c ∨ 2000 < (c - med).natAbs := by
  simp only [excludedTemp, Bool.or_eq_true, decide_eq_true_eq]
  omega

theorem State.mem_goodSites {s : State} {e : Nat × Int} : e ∈ s.goodSites.1 ↔ e ∈ s.siteTemps ∧ ¬ s.siteExcluded e.2 := by
  rw [State.goodSites, List.mem_filter, State.siteExcluded, ← excludedTemp_iff, Bool.not_eq_true', Bool.not_eq_true]

theorem State.goodSites_excluded (s : State) : s.goodSites.2 = s.siteTemps.length - s.goodSites.1.length := rfl

/-- With no site excluded every site counts. -/
theorem State.siteExcluded_of_none {s : State} (h : s.goodSites.2 = 0) {e : Nat × Int} (he : e ∈ s.siteTemps) : ¬ s.siteExcluded e.2 := by
  have all : s.goodSites.1.length = s.siteTemps.length :=
    Nat.le_antisymm (List.length_filter_le _ _) (Nat.sub_eq_zero_iff_le.1 h)
  have good : e ∈ s.goodSites.1 := by
    rw [State.goodSites]
    exact List.mem_filter.2 ⟨he, List.length_filter_eq_length_iff.1 all e he⟩
  exact (State.mem_goodSites.1 good).2

/-! The hottest of them. -/

theorem hottestOf_greatest {h : Nat × Int} (xs : List (Nat × Int)) (x : Nat × Int) (hh : hottestOf (x :: xs) = some h) :
    h ∈ x :: xs ∧ ∀ e ∈ x :: xs, e.2 ≤ h.2 := by
  induction xs generalizing x with
  | nil =>
    obtain rfl : x = h := Option.some.inj hh
    simp
  | cons y ys ih =>
    obtain ⟨among, greatest⟩ := ih (if x.2 < y.2 then y else x) hh
    rw [List.forall_mem_cons] at greatest
    rw [List.forall_mem_cons, List.forall_mem_cons]
    simp only [List.mem_cons] at among ⊢
    obtain ⟨first, rest⟩ := greatest
    split at among
    next lt =>
      rw [if_pos lt] at first
      exact ⟨.inr among, by omega, first, rest⟩
    next ge =>
      rw [if_neg ge] at first
      exact ⟨among.imp_right .inr, first, by omega, rest⟩

theorem hottestOf_some {l : List (Nat × Int)} {h : Nat × Int} (hh : hottestOf l = some h) : h ∈ l ∧ ∀ e ∈ l, e.2 ≤ h.2 := by
  cases l with
  | nil => cases hh
  | cons x xs => exact hottestOf_greatest xs x hh

section
variable {s : State}

theorem State.hottest_manyExcluded (h : 8 < s.siteTemps.length - s.goodSites.1.length) : s.hottest = some s.tThrottle := if_pos h

/-- With at most 8 sites excluded the hottest temperature is the highest that counts. -/
theorem State.hottest_counts (hn : s.siteTemps.length - s.goodSites.1.length ≤ 8) {h : Int} (hh : s.hottest = some h) :
    (∃ site, (site, h) ∈ s.siteTemps ∧ ¬ s.siteExcluded h) ∧ ∀ e ∈ s.siteTemps, ¬ s.siteExcluded e.2 → e.2 ≤ h := by
  have hot : (hottestOf s.goodSites.1).map (·.2) = some h := (if_neg (Nat.not_lt.2 hn)).symm.trans hh
  obtain ⟨⟨site, h⟩, found, rfl⟩ := Option.map_eq_some_iff.1 hot
  obtain ⟨counts, greatest⟩ := hottestOf_some found
  exact ⟨⟨site, State.mem_goodSites.1 counts⟩, fun e he hx => greatest e (State.mem_goodSites.2 ⟨he, hx⟩)⟩

end

/-! SHD_ALARM.SENSOR (R370). -/

theorem State.raiseCoalesced_reg (s : State) (source v off : Nat) : (s.raiseCoalesced source v).reg off = s.reg off := by
  unfold State.raiseCoalesced
  split <;> rfl

theorem State.raiseCoalesced_sheep (s : State) (source v : Nat) : (s.raiseCoalesced source v).sheep = s.sheep := by
  unfold State.raiseCoalesced
  split <;> rfl

theorem State.alarm_sheep (s : State) (f : Fld) : (s.alarm f).sheep = s.sheep := by
  unfold State.alarm
  split
  · rfl
  · exact State.raiseCoalesced_sheep _ _ _

theorem State.alarm_sets (s : State) {f : Fld} (hf : f.lo + f.len ≤ 64) (hlen : 1 ≤ f.len) :
    (s.alarm f).bit Reg.SHD_ALARM f = true := by
  unfold State.alarm
  split
  next set => exact set
  next => rw [State.bit, State.fld, State.raiseCoalesced_reg]; exact State.bit_setBit_true s _ f hf hlen

theorem State.alarm_bit_other (s : State) {f g : Fld} (hf : f.lo + f.len ≤ 64) (h : g.lo + g.len ≤ f.lo ∨ f.lo + f.len ≤ g.lo) :
    (s.alarm f).bit Reg.SHD_ALARM g = s.bit Reg.SHD_ALARM g := by
  unfold State.alarm
  split
  · rfl
  · rw [State.bit, State.fld, State.raiseCoalesced_reg]
    exact congrArg (fun n => decide (n = 1)) (State.fld_setFld_other s _ _ f g hf h _)

theorem State.hottestRead_sheep (s : State) (h : Int) : (s.hottestRead h).sheep = s.sheep := by
  unfold State.hottestRead
  dsimp only
  split
  · exact State.alarm_sheep _ _
  · rfl

theorem State.hottestRead_sensor (s : State) (h : Int) :
    (s.hottestRead h).bit Reg.SHD_ALARM Fld.SHD_ALARM_SENSOR = s.bit Reg.SHD_ALARM Fld.SHD_ALARM_SENSOR := by
  unfold State.hottestRead
  dsimp only
  split
  · exact State.alarm_bit_other _ (by decide) (.inr (by decide))
  · rfl

theorem State.warmEffects_sites (s : State) : s.warmEffects.sheep.sites = s.sheep.sites := by
  rw [← s.storeLoss_sheep]
  unfold State.warmEffects
  simp only [State.adjustSheep_sheep, State.setFld_sheep, State.setBit_sheep, State.setReg_sheep, State.loseWork]

theorem State.thermalDown_sites (s : State) : s.thermalDown.sheep.sites = s.sheep.sites := by
  rw [← s.warmEffects_sites]
  unfold State.thermalDown
  generalize s.warmEffects = t
  rfl

/-- Switching off keeps SENSOR: SHD_ALARM is among the registers that a warm reset keeps. -/
theorem State.thermalDown_sensor {s : State} (h : s.bit Reg.SHD_ALARM Fld.SHD_ALARM_SENSOR = true) :
    s.thermalDown.bit Reg.SHD_ALARM Fld.SHD_ALARM_SENSOR = true := by
  have reset : getFld Fld.SHD_ALARM_SENSOR (regDefault Reg.SHD_ALARM) = 0 := by decide +kernel
  have listed : s.reg Reg.SHD_ALARM ≠ regDefault Reg.SHD_ALARM := by
    intro e
    rw [State.bit, State.fld, e, reset] at h
    exact absurd h (by decide)
  have warm : warmRegister Reg.SHD_ALARM = true := by simp [warmRegister, Reg.SHD_ALARM, Reg.SHD_TIMER_STATUS]
  have kept : s.warmEffects.reg Reg.SHD_ALARM = s.reg Reg.SHD_ALARM := State.warmEffects_reg (.inr listed) (.inl (by decide)) warm
  have regs : s.thermalDown.regs = (s.warmEffects.setCause causeThermal).regs := by
    simp only [State.thermalDown, State.adjustSheep_regs]
  have down : s.thermalDown.reg Reg.SHD_ALARM = s.warmEffects.reg Reg.SHD_ALARM := by
    rw [State.reg, regs, ← State.reg, State.setCause, State.reg_setFld_ne _ (by decide)]
  rw [State.bit, State.fld, down, kept]
  exact h

/-- Whatever a temperature leads to, the sites stay as sampled and SENSOR stays set. -/
theorem State.sampleSite_sensor (s : State) (site : Nat) (raw : Int) :
    (s.sampleSite site raw).sheep.sites = (s.siteSampled site raw).sheep.sites ∧
      ((s.siteSampled site raw).bit Reg.SHD_ALARM Fld.SHD_ALARM_SENSOR = true →
        (s.sampleSite site raw).bit Reg.SHD_ALARM Fld.SHD_ALARM_SENSOR = true) := by
  rcases hh : (s.siteSampled site raw).hottest with _ | h
  · rw [State.sampleSite_noneCounts hh]
    exact ⟨rfl, id⟩
  · have sites := congrArg Sheepdog.sites ((s.siteSampled site raw).hottestRead_sheep h)
    have sensor := (s.siteSampled site raw).hottestRead_sensor h
    by_cases hd : ((s.siteSampled site raw).hottestRead h).shutsDown h
    · rw [State.sampleSite_off hh hd]
      exact ⟨(State.thermalDown_sites _).trans sites, fun set => State.thermalDown_sensor (sensor.trans set)⟩
    · rw [State.sampleSite_on hh hd]
      exact ⟨sites, fun set => sensor.trans set⟩

theorem State.siteTemps_congr {s t : State} (h : s.sheep.sites = t.sheep.sites) : s.siteTemps = t.siteTemps := by
  rw [State.siteTemps, State.siteTemps, h]

/-- A sample after which a site is excluded alarms SENSOR. -/
theorem State.siteSampled_sensor {s : State} {site : Nat} {raw : Int} {e : Nat × Int} (he : e ∈ (s.siteSampled site raw).siteTemps)
    (hx : (s.siteSampled site raw).siteExcluded e.2) : (s.siteSampled site raw).bit Reg.SHD_ALARM Fld.SHD_ALARM_SENSOR = true := by
  unfold State.siteSampled at he hx ⊢
  dsimp only at he hx ⊢
  split at he
  next noneExcluded =>
    rw [if_pos noneExcluded] at hx
    exact absurd hx (State.siteExcluded_of_none noneExcluded he)
  next someExcluded =>
    rw [if_neg someExcluded]
    exact State.alarm_sets _ (by decide) (by decide)

/-- Settles O60: the sites that count are those that no test excludes, and SENSOR stays set once a sample has set it. -/
theorem excludedSitesCountInNoDecision : Obligations.ExcludedSitesCountInNoDecision := by
  unfold Obligations.ExcludedSitesCountInNoDecision
  intro s excluded
  refine ⟨fun e he => ?_, State.hottest_manyExcluded, fun h hn hh => State.hottest_counts hn hh, ?_⟩
  · exact State.mem_goodSites.trans (and_iff_right he)
  · rintro site raw t hl sampled ⟨e, he, hx⟩
    obtain rfl : s.sampleSite site raw = t := Host.Outcome.next.inj ((exec_temperatureSample_live hl site raw).symm.trans sampled)
    obtain ⟨sites, sensor⟩ := s.sampleSite_sensor site raw
    have temps := State.siteTemps_congr sites
    rw [temps] at he
    refine sensor (State.siteSampled_sensor he ?_)
    rw [State.siteExcluded, ← temps]
    exact hx

end Sys2Proof.Machine

/-! ### Commands of task register sets (O47) -/

namespace Sys2Proof.Machine

/-! GO: what a set takes as its command (R300, R301, R303). -/

/-- The code of R301's checks of the fields of a set. -/
def State.trsFieldsCode (s : State) (t : Nat) : Nat :=
  s.trsCheck (s.reg (Reg.TRS_OPCODE t)).toNat (s.fld (Reg.TRS_NSID t) Fld.TRS_NSID_NSID) (s.fld (Reg.TRS_LBA t) Fld.TRS_LBA_LBA)
    (s.fld (Reg.TRS_COUNT t) Fld.TRS_COUNT_COUNT) (s.reg (Reg.TRS_HOST_ADDR t)).toNat

/-- The command that GO captures from the fields of a set. -/
def State.trsCapture (s : State) (t : Nat) : TrsCmd :=
  ⟨(s.reg (Reg.TRS_OPCODE t)).toNat, s.fld (Reg.TRS_NSID t) Fld.TRS_NSID_NSID, s.fld (Reg.TRS_LBA t) Fld.TRS_LBA_LBA,
    s.fld (Reg.TRS_COUNT t) Fld.TRS_COUNT_COUNT, (s.reg (Reg.TRS_HOST_ADDR t)).toNat, (s.reg Reg.TRS_NEXT_SEQ).toNat,
    [], 0, [], [], [], none, none⟩

/-- The set is PENDING with the next SEQ. -/
def State.trsAccept (s : State) (t : Nat) : State :=
  ((s.setReg (Reg.TRS_SEQ t) (s.reg Reg.TRS_NEXT_SEQ)).setReg (Reg.TRS_STATUS t) (putFld Fld.TRS_STATUS_STATE 0 trsPending)).takeSeq

section
variable {s : State} {t : Nat}

/-- GO acts on a set that is neither PENDING nor STARTED, and not during a controller reset (R300, R308). -/
theorem State.trsGo_ignored (h : s.bit Reg.TRS_RESET Fld.TRS_RESET_BUSY = true ∨ s.trsState t = trsPending ∨ s.trsState t = trsStarted) :
    s.trsGo t = s := by
  have ignored : (s.bit Reg.TRS_RESET Fld.TRS_RESET_BUSY || decide (s.trsState t = trsPending) || decide (s.trsState t = trsStarted)) = true := by
    simpa [or_assoc] using h
  rw [State.trsGo, if_pos ignored]

section
variable (hb : s.bit Reg.TRS_RESET Fld.TRS_RESET_BUSY = false) (hp : s.trsState t ≠ trsPending) (hs : s.trsState t ≠ trsStarted)
include hb hp hs

theorem State.trsGo_acts : s.trsGo t =
    if s.trsFieldsCode t ≠ ST_OK then (s.setReg (Reg.TRS_SEQ t) 0).trsFinish t (s.trsFieldsCode t) 0
    else (s.trsAccept t).adjustStore fun st => { st with cmds := st.cmds.insert t (s.trsCapture t) } := by
  have acts : ¬ (s.bit Reg.TRS_RESET Fld.TRS_RESET_BUSY || decide (s.trsState t = trsPending) || decide (s.trsState t = trsStarted)) = true := by
    simp [hb, hp, hs]
  rw [State.trsGo, if_neg acts]
  rfl

theorem State.trsGo_refused (hc : s.trsFieldsCode t ≠ ST_OK) :
    s.trsGo t = (s.setReg (Reg.TRS_SEQ t) 0).trsFinish t (s.trsFieldsCode t) 0 := by
  rw [State.trsGo_acts hb hp hs, if_pos hc]

theorem State.trsGo_accepted (hc : s.trsFieldsCode t = ST_OK) :
    s.trsGo t = (s.trsAccept t).adjustStore fun st => { st with cmds := st.cmds.insert t (s.trsCapture t) } := by
  rw [State.trsGo_acts hb hp hs, if_neg (not_not_intro hc)]

end

end

theorem trsGoRow_opcode {s : State} {set : Fin 256} {op : Nat} (hr : s.hostReaches (Reg.TRS_CTRL set) = true)
    (ho : s.fld (Reg.TRS_OPCODE set) Fld.TRS_OPCODE_OPCODE = op) : trsGoRow set op s = .next (s.trsGo set) := by
  rw [trsGoRow, hostAct_reaches hr, if_pos ho]

/-- The rows of GO differ in the opcode that the set holds, and in nothing else. -/
theorem exec_trsGo_rows {row : (Fin 256 → Instr) × Nat}
    (hm : row ∈ [(Instr.trsRead, 1), (Instr.trsWrite, 2), (Instr.trsWriteAtomic, 3), (Instr.trsFlush, 4), (Instr.trsTrim, 5),
      (Instr.trsVerify, 6), (Instr.trsFormat, 7)]) (set : Fin 256) (s : State) : exec (row.1 set) s = trsGoRow set row.2 s := by
  simp only [List.mem_cons, List.not_mem_nil, or_false] at hm
  rcases hm with rfl | rfl | rfl | rfl | rfl | rfl | rfl <;> rfl

/-! TRS_COMMAND_START: how a PENDING command starts (R303, R304, R306, R316). -/

theorem exec_trsCommandStart_pending {s : State} {set : Fin 256} {c : TrsCmd} (hl : s.live = true)
    (hf : s.store.cmds.find set = some c) (hp : s.trsState set = trsPending) :
    exec (.trsCommandStart set) s = .next (s.trsBegin set c) := by
  rw [exec_trsCommandStart, execTrsCommandStart, act_live hl, hf]
  exact congrArg _ (if_pos hp)

section
variable {s : State} {t : Nat} {c : TrsCmd}

section
variable (hop : c.opcode = blkWrite ∨ c.opcode = blkAtomic)
include hop

theorem TrsCmd.writes_of_opcode : (decide (c.opcode = blkWrite) || decide (c.opcode = blkAtomic)) = true := by simpa using hop

theorem State.trsBegin_exhausts (hr : s.canReserve c.count = false) :
    s.trsBegin t c = (s.exhaust c.nsid).trsFinish t ST_MEDIUM_EXHAUSTED 0 := by
  rw [State.trsBegin, if_pos (TrsCmd.writes_of_opcode hop), hr, Bool.not_false, if_pos rfl]

/-- A write that can reserve its units reads its data at once. -/
theorem State.trsBegin_fetches (hr : s.canReserve c.count = true) : s.trsBegin t c =
    let data := chunksOf unitBytes c.count (s.readMem .host c.addr (unitBytes * c.count))
    if c.opcode = blkAtomic then
      ((s.adjustCmd t fun c => { c with fetched := data, group := s.store.nextGroup }).adjustStore fun st =>
        { st with nextGroup := st.nextGroup + 1 }).trsStart t
    else (s.adjustCmd t fun c => { c with fetched := data }).trsStart t := by
  rw [State.trsBegin, if_pos (TrsCmd.writes_of_opcode hop), hr, Bool.not_true, if_neg Bool.false_ne_true]

end

section
variable (hw : c.opcode ≠ blkWrite) (ha : c.opcode ≠ blkAtomic)
include hw ha

theorem TrsCmd.not_writes_of_opcode : ¬ (decide (c.opcode = blkWrite) || decide (c.opcode = blkAtomic)) = true := by simp [hw, ha]

/-- A FLUSH and a command that another stands before stay PENDING. -/
theorem State.trsBegin_waits (h : c.opcode = blkFlush ∨ s.trsBlocked c = true) : s.trsBegin t c = s := by
  have waits : (decide (c.opcode = blkFlush) || s.trsBlocked c) = true := by simpa using h
  rw [State.trsBegin, if_neg (TrsCmd.not_writes_of_opcode hw ha), if_pos waits]

theorem State.trsBegin_unblocked (hf : c.opcode ≠ blkFlush) (hb : s.trsBlocked c = false) : s.trsBegin t c =
    if c.opcode = blkRead || c.opcode = blkVerify then
      (s.adjustCmd t fun d => { d with blocks := (s.unitsOf c).map (·.2.block), gens := (s.unitsOf c).map (·.2.keyGen) }).trsStart t
    else s.trsStart t := by
  have free : ¬ (decide (c.opcode = blkFlush) || s.trsBlocked c) = true := by simp [hf, hb]
  rw [State.trsBegin, if_neg (TrsCmd.not_writes_of_opcode hw ha), if_neg free]

end

theorem State.trsBegin_read (hop : c.opcode = blkRead ∨ c.opcode = blkVerify) (hb : s.trsBlocked c = false) : s.trsBegin t c =
    (s.adjustCmd t fun d => { d with blocks := (s.unitsOf c).map (·.2.block), gens := (s.unitsOf c).map (·.2.keyGen) }).trsStart t := by
  have reads : (decide (c.opcode = blkRead) || decide (c.opcode = blkVerify)) = true := by simpa using hop
  have others : c.opcode ≠ blkWrite ∧ c.opcode ≠ blkAtomic ∧ c.opcode ≠ blkFlush := by
    rcases hop with e | e <;> rw [e] <;> decide
  obtain ⟨hw, ha, hf⟩ := others
  rw [State.trsBegin_unblocked hw ha hf hb, if_pos reads]

theorem State.trsBegin_unmap (hop : c.opcode = blkTrim ∨ c.opcode = blkFormat) (hb : s.trsBlocked c = false) :
    s.trsBegin t c = s.trsStart t := by
  have others : c.opcode ≠ blkWrite ∧ c.opcode ≠ blkAtomic ∧ c.opcode ≠ blkFlush ∧
      ¬ (decide (c.opcode = blkRead) || decide (c.opcode = blkVerify)) = true := by
    rcases hop with e | e <;> rw [e] <;> decide
  obtain ⟨hw, ha, hf, notRead⟩ := others
  rw [State.trsBegin_unblocked hw ha hf hb, if_neg notRead]

end

/-- Settles O47: GO by the set's state and the code of its fields, a start by the opcode and what stands before it. -/
theorem taskRegisterSetsTakeCommands : Obligations.TaskRegisterSetsTakeCommands := by
  unfold Obligations.TaskRegisterSetsTakeCommands
  intro s set rows state
  refine ⟨fun row hm hr ho => ?_, fun c hl hf hp => ?_⟩
  · rw [exec_trsGo_rows hm, trsGoRow_opcode hr ho]
    refine ⟨fun h => ?_, fun hb hp hs => ⟨fun hc => ?_, fun hc => ?_⟩⟩
    · rw [State.trsGo_ignored h]
    · rw [State.trsGo_refused hb hp hs hc]
      rfl
    · rw [State.trsGo_accepted hb hp hs hc]
      rfl
  · intro start data units
    rw [exec_trsCommandStart_pending hl hf hp]
    refine ⟨fun hop hr => ?_, fun hop hr => ?_, fun hop hr => ?_, fun hop => ?_, fun hw ha hb => ?_, fun hop hb => ?_, fun hop hb => ?_⟩
    · rw [State.trsBegin_exhausts hop hr]
      rfl
    · have plain : c.opcode ≠ blkAtomic := by rw [hop]; decide
      rw [State.trsBegin_fetches (.inl hop) hr]
      exact congrArg _ (if_neg plain)
    · rw [State.trsBegin_fetches (.inr hop) hr]
      exact congrArg _ (if_pos hop)
    · rw [State.trsBegin_waits (by rw [hop]; decide) (by rw [hop]; decide) (.inl hop)]
    · rw [State.trsBegin_waits hw ha (.inr hb)]
    · rw [State.trsBegin_read hop hb]
      rfl
    · rw [State.trsBegin_unmap hop hb]
      rfl

end Sys2Proof.Machine

/-! ### Work of the block store on its medium (O49) -/

namespace Sys2Proof.Machine

/-! Checkpoints (R313). -/

theorem exec_checkpointStart_idle {s : State} (hl : s.live = true) (h : s.store.sinceCkpt = 0 ∨ s.store.taking ≠ none) :
    exec .checkpointStart s = .next s := by
  have idle : (decide (s.store.sinceCkpt = 0) || s.store.taking.isSome) = true := by
    simpa [Option.isSome_iff_ne_none] using h
  rw [exec_checkpointStart, execCheckpointStart, act_live hl, if_pos idle]

theorem exec_checkpointStart_starts {s : State} (hl : s.live = true) (hw : s.store.sinceCkpt ≠ 0) (ht : s.store.taking = none) :
    exec .checkpointStart s = .next s.startCheckpoint := by
  have starts : ¬ (decide (s.store.sinceCkpt = 0) || s.store.taking.isSome) = true := by simp [hw, ht]
  rw [exec_checkpointStart, execCheckpointStart, act_live hl, if_neg starts]

theorem exec_checkpointDone_taking {s : State} {c : Checkpoint} (hl : s.live = true) (ht : s.store.taking = some c) :
    exec .checkpointDone s = .next (s.endCheckpoint c) := by
  rw [exec_checkpointDone, execCheckpointDone, act_live hl, ht]

theorem exec_checkpointDone_none {s : State} (hl : s.live = true) (ht : s.store.taking = none) : exec .checkpointDone s = .next s := by
  rw [exec_checkpointDone, execCheckpointDone, act_live hl, ht]

/-! Garbage collection (R315). -/

theorem exec_garbageCollection_live {s : State} (hl : s.live = true) : exec .garbageCollection s = .next s.collect := by
  rw [exec_garbageCollection, execGarbageCollection, act_live hl]

section
variable {s : State}

/-- Nothing is reclaimed while free blocks are enough, and where no block has an invalid unit. -/
theorem State.collect_nothing (h : s.store.dataBlocks ≤ s.store.freeBlocks * 100 ∨ s.storeVictim = none) :
    s.collect = s.showBlocks := by
  rw [State.collect]
  rcases h with enough | none
  · rw [if_pos enough]
  · rw [none, ite_self]

variable {b : Nat} (hf : s.store.freeBlocks * 100 < s.store.dataBlocks) (hv : s.storeVictim = some b)
include hf hv

theorem State.collect_noRoom (hr : s.store.room < s.store.validIn b) : s.collect = s.showBlocks := by
  simp only [State.collect, hv, if_neg (Nat.not_le.2 hf), if_pos hr]

theorem State.collect_victim (hr : s.store.validIn b ≤ s.store.room) :
    s.collect = ((s.copyUnits fun _ u => u.block = b).setBlock b .reclaimed).showBlocks := by
  simp only [State.collect, hv, if_neg (Nat.not_le.2 hf), if_neg (Nat.not_lt.2 hr)]

end

/-! Erasures and failures of blocks (R315, R316). -/

/-- An erased block is the last of the free ones, and NAND no more holds what it held (R315). -/
def State.eraseBlock (s : State) (b : Nat) (x : Block) : State :=
  (s.adjustStore fun st =>
    { st with blocks := st.blocks.insert b ⟨.reclaimed, 0, 0, x.erases + 1⟩
              nand := st.nand.filter fun x => x.unit.block ≠ b
              freed := st.freed.filter (· ≠ b) ++ [b] }).showBlocks

/-- A program failure retires its block and relocates the units that it holds (R316). -/
def State.failProgram (s : State) (b : Nat) : State :=
  ((s.adjustHealth fun h => { h with programFails := h.programFails + 1 }).retireBlock b).copyUnits fun _ u => u.block = b

/-- An erase failure retires its block (R316). -/
def State.failErase (s : State) (b : Nat) : State :=
  (s.adjustHealth fun h => { h with eraseFails := h.eraseFails + 1 }).retireBlock b

section
variable {s : State} {b : Nat} {x : Block} (hl : s.live = true) (hb : s.store.blocks.find b = some x)
include hl hb

theorem exec_blockErase_found : exec (.blockErase b) s =
    .next (if x.state = .reclaimed && !s.blockRead b && !s.recordNeeded b then s.eraseBlock b x else s) := by
  rw [exec_blockErase, execBlockErase, act_live hl, hb]
  rfl

theorem exec_programFailure_found : exec (.programFailure b) s = .next (if x.state = .open_ then s.failProgram b else s) := by
  rw [exec_programFailure, execProgramFailure, act_live hl, hb]
  rfl

theorem exec_eraseFailure_found : exec (.eraseFailure b) s =
    .next (if x.state = .reclaimed && !s.store.freed.contains b then s.failErase b else s) := by
  rw [exec_eraseFailure, execEraseFailure, act_live hl, hb]
  rfl

theorem exec_blockErase_erases (hs : x.state = .reclaimed) (hr : s.blockRead b = false) (hn : s.recordNeeded b = false) :
    exec (.blockErase b) s = .next (s.eraseBlock b x) := by
  rw [exec_blockErase_found hl hb, if_pos (by simp [hs, hr, hn])]

theorem exec_blockErase_kept (h : x.state ≠ .reclaimed ∨ s.blockRead b = true ∨ s.recordNeeded b = true) :
    exec (.blockErase b) s = .next s := by
  have kept : ¬ (decide (x.state = .reclaimed) && !s.blockRead b && !s.recordNeeded b) = true := by
    rcases h with h | h | h <;> simp [h]
  rw [exec_blockErase_found hl hb, if_neg kept]

theorem exec_eraseFailure_waiting (hs : x.state = .reclaimed) (hf : b ∉ s.store.freed) :
    exec (.eraseFailure b) s = .next (s.failErase b) := by
  rw [exec_eraseFailure_found hl hb, if_pos (by simp [hs, hf])]

theorem exec_eraseFailure_ignored (h : x.state ≠ .reclaimed ∨ b ∈ s.store.freed) : exec (.eraseFailure b) s = .next s := by
  have ignored : ¬ (decide (x.state = .reclaimed) && !s.store.freed.contains b) = true := by
    rcases h with h | h <;> simp [h]
  rw [exec_eraseFailure_found hl hb, if_neg ignored]

end

/-! The health log (R317). -/

theorem exec_healthSnapshot_reaches {s : State} (hr : s.hostReaches Reg.FTL_HEALTH_SNAP = true) :
    exec .healthSnapshot s = .next s.healthSnap := by
  rw [exec_healthSnapshot, execHealthSnapshot, hostAct_reaches hr]

theorem exec_temperatureHour_live {s : State} (hl : s.live = true) (a b c : Bool) :
    exec (.temperatureHour a b c) s = .next (s.adjustHealth (Health.endHour a b c)) := by
  rw [exec_temperatureHour, execTemperatureHour, act_live hl]

theorem Health.endHour_read {h : Health} {r : Int} {rest : List Int} (hr : h.readings = r :: rest) (a b c : Bool) :
    h.endHour a b c = { h with
      hours := h.hours + 1, readings := []
      temps := (some (wholeDegrees a 1 (rest.foldl max r), wholeDegrees b (rest.length + 1) (rest.foldl (· + ·) r),
        wholeDegrees c 1 (rest.foldl min r)) :: h.temps).take 168 } := by
  rw [Health.endHour, hr, hourOf, List.isEmpty_cons, if_neg Bool.false_ne_true]

theorem Health.endHour_unread {h : Health} (hr : h.readings = []) (a b c : Bool) :
    h.endHour a b c = { h with readings := [], temps := (none :: h.temps).take 168 } := by
  rw [Health.endHour, hr, hourOf, List.isEmpty_nil, if_pos rfl]

/-- What is done to the health log turns on the health log alone. -/
theorem State.adjustHealth_congr {s : State} {f g : Health → Health} (h : f s.store.health = g s.store.health) :
    s.adjustHealth f = s.adjustHealth g := by
  simp only [State.adjustHealth, State.adjustStore, h]

/-! Sweeps (R319). -/

theorem exec_sweepDone_running {s : State} {n share : Nat} (hl : s.live = true) (hn : s.store.sweeps.find n = some share) :
    exec (.sweepDone n) s = .next (s.sweepDone n) := by
  rw [exec_sweepDone, execSweepDone, act_live hl, hn, Option.isSome_some, if_pos rfl]

theorem exec_sweepDone_none {s : State} {n : Nat} (hl : s.live = true) (hn : s.store.sweeps.find n = none) :
    exec (.sweepDone n) s = .next s := by
  rw [exec_sweepDone, execSweepDone, act_live hl, hn, Option.isSome_none, if_neg Bool.false_ne_true]

/-- Settles O49: each operation by what the store holds when it ends: a checkpoint taken, a victim, a block's state, the
readings of the hour, a sweep that runs. -/
theorem mediumOperationsComplete : Obligations.MediumOperationsComplete := by
  unfold Obligations.MediumOperationsComplete
  intro s
  refine ⟨exec_healthSnapshot_reaches, fun hl => ?_⟩
  intro busy
  refine ⟨exec_checkpointStart_idle hl, fun hw ht => ⟨s.store.checkpoint, rfl, rfl, rfl, rfl, rfl, exec_checkpointStart_starts hl hw ht⟩,
    fun c ht => exec_checkpointDone_taking hl ht, exec_checkpointDone_none hl, fun h => ?_,
    fun b hf hv => ⟨fun hr => ?_, fun hr => ?_⟩,
    fun b x hb => ⟨exec_blockErase_erases hl hb, exec_blockErase_kept hl hb, fun ho => ?_, fun ho => ?_,
      exec_eraseFailure_waiting hl hb, exec_eraseFailure_ignored hl hb⟩,
    fun a b c => ⟨fun r rest hr => ?_, fun hr => ?_⟩, fun n share hn => exec_sweepDone_running hl hn, fun n hn => exec_sweepDone_none hl hn⟩
  · rw [exec_garbageCollection_live hl, State.collect_nothing h]
  · rw [exec_garbageCollection_live hl, State.collect_noRoom hf hv hr]
  · rw [exec_garbageCollection_live hl, State.collect_victim hf hv hr]
  · rw [exec_programFailure_found hl hb, if_pos ho]
    rfl
  · rw [exec_programFailure_found hl hb, if_neg ho]
  · rw [exec_temperatureHour_live hl]
    exact congrArg _ (State.adjustHealth_congr (Health.endHour_read hr a b c))
  · rw [exec_temperatureHour_live hl]
    exact congrArg _ (State.adjustHealth_congr (Health.endHour_unread hr a b c))

end Sys2Proof.Machine

/-! ### Resets, boot stages and starts (O43) -/

namespace Sys2Proof.Machine

/-! Reset pins (R382). -/

/-- What a pin's rise leads to: the held device starts once both pins are high. -/
def State.leaveReset (s : State) : State :=
  if s.sheep.mode = .held ∧ s.board.por = true ∧ s.board.warm = true then s.beginStart s.bootStage else s

section
variable {s : State} (straps : BitVec 8)

/-- The pin's own effect comes first. -/
theorem State.pinRise_leaves (por : Bool) : s.pinRise por straps =
    (if por then
      if s.board.por then s
      else { s with board := { s.board with por := true } }.setReg Reg.GLB_STRAPS (BitVec.ofNat 64 (straps.toNat % 32))
    else { s with board := { s.board with warm := true } }).leaveReset := by
  simp only [State.pinRise, State.leaveReset, Bool.and_eq_true, decide_eq_true_eq, and_assoc]

theorem State.pinRise_por (hp : s.board.por = false) : s.pinRise true straps =
    ({ s with board := { s.board with por := true } }.setReg Reg.GLB_STRAPS (BitVec.ofNat 64 (straps.toNat % 32))).leaveReset := by
  rw [State.pinRise_leaves, if_pos rfl, hp, if_neg Bool.false_ne_true]

theorem State.pinRise_porHigh (hp : s.board.por = true) : s.pinRise true straps = s.leaveReset := by
  rw [State.pinRise_leaves, if_pos rfl, if_pos hp]

theorem State.pinRise_warm : s.pinRise false straps = State.leaveReset { s with board := { s.board with warm := true } } := by
  rw [State.pinRise_leaves, if_neg Bool.false_ne_true]

end

/-- While POR_N is low, a warm reset shows on its own pin alone. -/
theorem State.warmReset_low {s : State} (h : s.board.por = false) : s.warmReset = { s with board := { s.board with warm := false } } := by
  rw [State.warmReset, h, if_neg Bool.false_ne_true]

/-! The host port (R374, R382). -/

theorem exec_hostPortReset_live {s : State} (hl : s.live = true) :
    exec .hostPortReset s = .next s.releaseHolds.drainStalled.controllerReset := by
  rw [exec_hostPortReset, execHostPortReset, act_live hl]

/-- Is hub bring-up, boot stage 3, complete? -/
def State.hubUp (s : State) : Bool := s.sheep.mode = .ready || s.sheep.mode = .fallback || 3 < s.bootStage

section
variable {s : State} (hl : s.live = true)
include hl

theorem exec_pcieConfigRequest_live : exec .pcieConfigRequest s =
    .next { s with board := { s.board with cfgRetry := if s.domainOn 14 then some (!s.hubUp) else none } } := by
  rw [exec_pcieConfigRequest, execPcieConfigRequest, act_live hl]
  rfl

theorem exec_pcieConfigRequest_silent (hd : s.domainOn 14 = false) :
    exec .pcieConfigRequest s = .next { s with board := { s.board with cfgRetry := none } } := by
  rw [exec_pcieConfigRequest_live hl, hd, if_neg Bool.false_ne_true]

theorem exec_pcieConfigRequest_answers (hd : s.domainOn 14 = true)
    (hu : s.sheep.mode = .ready ∨ s.sheep.mode = .fallback ∨ 3 < s.bootStage) :
    exec .pcieConfigRequest s = .next { s with board := { s.board with cfgRetry := some false } } := by
  have up : s.hubUp = true := by simpa [State.hubUp, or_assoc] using hu
  rw [exec_pcieConfigRequest_live hl, if_pos hd, up, Bool.not_true]

theorem exec_pcieConfigRequest_retries (hd : s.domainOn 14 = true) (hr : s.sheep.mode ≠ .ready) (hf : s.sheep.mode ≠ .fallback)
    (hs : s.bootStage ≤ 3) : exec .pcieConfigRequest s = .next { s with board := { s.board with cfgRetry := some true } } := by
  have down : s.hubUp = false := by simp [State.hubUp, hr, hf, hs]
  rw [exec_pcieConfigRequest_live hl, if_pos hd, down, Bool.not_false]

end

/-! Domains of a stage (R364). -/

/-- The next domain of the running stage. -/
def State.nextDomain (s : State) : Option Nat := (stageDomains s.bootStage).find? fun d => !s.domainOn d

theorem exec_domainPowerGood_starting {s : State} (hl : s.live = true) (hm : s.sheep.mode = .starting) (d : Fin 20) :
    exec (.domainPowerGood d) s = .next (if s.nextDomain = some d.val then s.powerDomain d true else s) := by
  rw [exec_domainPowerGood, execDomainPowerGood, act_live hl]
  simp only [hm, decide_true, Bool.true_and, decide_eq_true_eq]
  rfl

/-! What a stage leaves when it is done (R372). -/

section
variable {s : State}

theorem State.stageDone_rom (hn : s.bootStage = 1) (other : Bool) :
    s.stageDone other = (if other then (s.measure 0 Config.romDigest).swapSlot else s.measure 0 Config.romDigest).setStage 2 := by
  rw [State.stageDone, if_pos hn]

theorem State.stageDone_sheepdog (hn : s.bootStage = 2) (other : Bool) : s.stageDone other = s.stageTwo := by
  simp [State.stageDone, hn]

theorem State.stageDone_hub (hn : s.bootStage = 3) (other : Bool) : s.stageDone other =
    ((s.stageUp 3).measure 2 (Config.hubDigest (s.slotBytes s.bootSlot))).setStage (if s.sheep.switching then 7 else 4) := by
  simp [State.stageDone, hn]

theorem State.stageDone_plyn (hn : s.bootStage = 4) (other : Bool) : s.stageDone other = (s.stageUp 4).setStage 5 := by
  simp [State.stageDone, hn]

end

/-! How a stage ends (R372). -/

section
variable {s : State}

/-- A target recorded at the last Ready is missing where no target found is at its place. -/
theorem State.targetMissing_none {targets : List NandTarget}
    (h : ∀ p ∈ s.sheep.nandTargets, ∃ x ∈ targets, 16 * x.channel + x.number = p) : s.targetMissing targets = none := by
  rw [State.targetMissing, List.find?_eq_none]
  intro p hp
  obtain ⟨x, hx, place⟩ := h p hp
  have found : (targets.any fun x => targetPlace x = p) = true := List.any_eq_true.2 ⟨x, hx, decide_eq_true place⟩
  rw [found]
  decide

theorem State.stageEnded_done (h5 : s.bootStage ≠ 5) (h6 : s.bootStage ≠ 6) : s.stageEnded .done = s.stageDone false := by
  simp [State.stageEnded, h5, h6]

theorem State.stageEnded_doneOther (hn : s.bootStage = 1) : s.stageEnded .doneOther = s.stageDone true := by
  simp [State.stageEnded, hn]

theorem State.stageEnded_nandFound (hn : s.bootStage = 5) {targets : List NandTarget} (ht : s.targetMissing targets = none)
    (perBlock rated : Nat) :
    s.stageEnded (.doneNand targets perBlock rated) = (s.scanned targets perBlock rated).stageDone false := by
  simp [State.stageEnded, hn, ht]

theorem State.stageEnded_nandMissing (hn : s.bootStage = 5) {targets : List NandTarget} {p : Nat}
    (ht : s.targetMissing targets = some p) (perBlock rated : Nat) :
    s.stageEnded (.doneNand targets perBlock rated) = s.failStart reasonNandMissing p := by
  simp [State.stageEnded, hn, ht]

theorem State.stageEnded_replayed (hn : s.bootStage = 6) {bad : Nat} (hb : s.store.ckpts = [] ∨ bad < s.store.ckpts.length) :
    s.stageEnded (.doneReplay bad true) = (s.replayed bad).stageDone false := by
  have valid : s.noCheckpoint bad = false := by
    rcases hb with none | some
    · simp [State.noCheckpoint, none]
    · simp [State.noCheckpoint, some]
  simp [State.stageEnded, hn, valid]

theorem State.stageEnded_notReplayed (hn : s.bootStage = 6) {bad : Nat} {consistent : Bool}
    (h : consistent = false ∨ (s.store.ckpts ≠ [] ∧ s.store.ckpts.length ≤ bad)) :
    s.stageEnded (.doneReplay bad consistent) = s.failStart reasonReplay 0 := by
  have fails : (!consistent || s.noCheckpoint bad) = true := by simpa [State.noCheckpoint] using h
  simp only [State.stageEnded, hn, ne_eq, not_true_eq_false, if_false, fails, if_true]

theorem State.stageEnded_selfTest (hn : s.bootStage = 7) (ks : List Nat) :
    s.stageEnded (.doneSelfTest ks) = (ks.foldl (fun t k => t.retireKennel k) s).stageDone false := by
  rw [State.stageEnded, if_pos hn]

end

section
variable {s : State} (hl : s.live = true)
include hl

theorem exec_bootStageComplete_starting (hm : s.sheep.mode = .starting) (r : BootResult) :
    exec (.bootStageComplete r) s = .next (s.stageEnded r) := by
  rw [exec_bootStageComplete, execBootStageComplete, act_live hl, if_pos hm]

theorem exec_bootStageComplete_otherwise (hm : s.sheep.mode ≠ .starting) (r : BootResult) : exec (.bootStageComplete r) s = .next s := by
  rw [exec_bootStageComplete, execBootStageComplete, act_live hl, if_neg hm]

theorem exec_bootStageTimeout_starting (hm : s.sheep.mode = .starting) :
    exec .bootStageTimeout s = .next (s.failStart reasonTimeout s.bootStage) := by
  rw [exec_bootStageTimeout, execBootStageTimeout, act_live hl, if_pos hm]

theorem exec_bootStageTimeout_otherwise (hm : s.sheep.mode ≠ .starting) : exec .bootStageTimeout s = .next s := by
  rw [exec_bootStageTimeout, execBootStageTimeout, act_live hl, if_neg hm]

/-! Restarts (R370, R375). -/

theorem exec_thermalRestart_cool (hm : s.sheep.mode = .thermalOff) (hc : ∃ h, s.hottest = some h ∧ h < s.tWarn - 1000) :
    exec .thermalRestart s = .next (s.beginStart 2) := by
  obtain ⟨h, hottest, cool⟩ := hc
  rw [exec_thermalRestart, execThermalRestart, act_live hl, if_pos (by simp [hm, hottest, cool])]

theorem exec_firmwareSwitch_quiesced (ha : s.store.activating = true) (he : s.store.cmds.entries = []) :
    exec .firmwareSwitch s = .next s.switchFirmware := by
  rw [exec_firmwareSwitch, execFirmwareSwitch, act_live hl, if_pos (by simp [ha, he])]

end

/-- Settles O43: the resets by the pins, a configuration request by PD14 and the stage, a stage's end by the stage and its
result, and the restarts by what they wait for. -/
theorem resetsAndStartsComplete : Obligations.ResetsAndStartsComplete := by
  unfold Obligations.ResetsAndStartsComplete
  intro s
  refine ⟨rfl, ⟨fun hp => ?_, fun hp => ?_⟩, fun straps => ⟨fun hp => ?_, fun hp => ?_, ?_⟩, fun hl => ?_⟩
  · rw [exec_warmReset, execWarmReset, State.warmReset_high hp]
    rfl
  · rw [exec_warmReset, execWarmReset, State.warmReset_low hp]
  · rw [exec_resetPinRise, execResetPinRise, State.pinRise_por straps hp]
    rfl
  · rw [exec_resetPinRise, execResetPinRise, State.pinRise_porHigh straps hp]
    rfl
  · rw [exec_resetPinRise, execResetPinRise, State.pinRise_warm straps]
    rfl
  · intro stage fails
    refine ⟨exec_hostPortReset_live hl, exec_pcieConfigRequest_silent hl, exec_pcieConfigRequest_answers hl,
      exec_pcieConfigRequest_retries hl, fun hm => ?_, fun hm => ⟨exec_bootStageTimeout_otherwise hl hm,
        exec_bootStageComplete_otherwise hl hm⟩, exec_thermalRestart_cool hl, exec_firmwareSwitch_quiesced hl⟩
    have ends : ∀ {r : BootResult} {t : State}, s.stageEnded r = t → exec (.bootStageComplete r) s = .next t := fun h =>
      (exec_bootStageComplete_starting hl hm _).trans (congrArg _ h)
    have done : ∀ {n : Nat} {t : State}, s.bootStage = n → n ≠ 5 → n ≠ 6 → s.stageDone false = t →
        exec (.bootStageComplete .done) s = .next t := fun hn h5 h6 h =>
      ends ((State.stageEnded_done (hn ▸ h5) (hn ▸ h6)).trans h)
    refine ⟨fun d => ?_, fun hn => ⟨?_, ?_⟩, fun hn => ?_, fun hn => ?_, fun hn => ?_,
      fun hn targets perBlock rated => ⟨fun ht => ?_, fun p ht => ?_⟩, fun hn bad consistent => ⟨fun hc hb => ?_, fun h => ?_⟩,
      fun hn ks => ends (State.stageEnded_selfTest hn ks), fun reason detail => ends rfl, exec_bootStageTimeout_starting hl hm⟩
    · rw [exec_domainPowerGood_starting hl hm]
      exact ⟨fun h => congrArg _ (if_pos h), fun h => congrArg _ (if_neg h)⟩
    · exact done hn (by decide) (by decide) (State.stageDone_rom hn false)
    · exact ends ((State.stageEnded_doneOther hn).trans (State.stageDone_rom hn true))
    · exact done hn (by decide) (by decide) (State.stageDone_sheepdog hn false)
    · exact done hn (by decide) (by decide) (State.stageDone_hub hn false)
    · exact done hn (by decide) (by decide) (State.stageDone_plyn hn false)
    · exact ends (State.stageEnded_nandFound hn (State.targetMissing_none ht) perBlock rated)
    · exact ends (State.stageEnded_nandMissing hn ht perBlock rated)
    · subst hc
      exact ends (State.stageEnded_replayed hn hb)
    · exact ends (State.stageEnded_notReplayed hn h)

end Sys2Proof.Machine

/-! ### Management commands of the block store and of the security function (O42) -/

namespace Sys2Proof.Machine

/-! Namespaces (Table 11-6). -/

section
variable {e : Envelope} {t : State}

theorem nsCreateBody_range (h : fieldAt e.args 0 4 = 0 ∨ 64 < fieldAt e.args 0 4) : nsCreateBody e t = t.answers ST_NS_INVALID := by
  rw [nsCreateBody, if_pos (by simpa using h)]

section
variable (h1 : 1 ≤ fieldAt e.args 0 4) (h64 : fieldAt e.args 0 4 ≤ 64)
include h1 h64

theorem nsCreateBody_inRange : nsCreateBody e t =
    if t.nsPresent (fieldAt e.args 0 4) then t.answers ST_NS_EXISTS
    else if t.fld Reg.FTL_CAPACITY Fld.FTL_CAPACITY_UNITS < t.unitsGiven + fieldAt e.args 4 8 then t.answers ST_NS_CAPACITY
    else (t.createNs (fieldAt e.args 0 4) (fieldAt e.args 4 8) (fieldAt e.args 12 1 = 1)).answers ST_OK := by
  have inRange : ¬ (decide (fieldAt e.args 0 4 = 0) || decide (64 < fieldAt e.args 0 4)) = true := by
    simp only [Bool.or_eq_true, decide_eq_true_eq]
    omega
  rw [nsCreateBody, if_neg inRange]

theorem nsCreateBody_exists (hp : t.nsPresent (fieldAt e.args 0 4) = true) : nsCreateBody e t = t.answers ST_NS_EXISTS := by
  rw [nsCreateBody_inRange h1 h64, if_pos hp]

variable (hp : ¬ t.nsPresent (fieldAt e.args 0 4) = true)
include hp

theorem nsCreateBody_full (hc : t.fld Reg.FTL_CAPACITY Fld.FTL_CAPACITY_UNITS < t.unitsGiven + fieldAt e.args 4 8) :
    nsCreateBody e t = t.answers ST_NS_CAPACITY := by
  rw [nsCreateBody_inRange h1 h64, if_neg hp, if_pos hc]

theorem nsCreateBody_makes (hc : t.unitsGiven + fieldAt e.args 4 8 ≤ t.fld Reg.FTL_CAPACITY Fld.FTL_CAPACITY_UNITS) :
    nsCreateBody e t = (t.createNs (fieldAt e.args 0 4) (fieldAt e.args 4 8) (fieldAt e.args 12 1 = 1)).answers ST_OK := by
  rw [nsCreateBody_inRange h1 h64, if_neg hp, if_neg (Nat.not_lt.2 hc)]

end

/-! The rows that name a namespace refuse one that does not exist. -/

/-- The test of the rows that a namespace must exist for passes. -/
theorem State.nsPresent_test {n : Nat} (hp : t.nsPresent n = true) : ¬ (!t.nsPresent n) = true := by simp [hp]

theorem nsDeleteBody_absent (hp : ¬ t.nsPresent (fieldAt e.args 0 4) = true) : nsDeleteBody e t = t.answers ST_NS_INVALID := by
  rw [nsDeleteBody, if_pos (by simpa using hp)]

theorem keyRotateBody_absent (hp : ¬ t.nsPresent (fieldAt e.args 0 4) = true) : keyRotateBody e t = t.answers ST_NS_INVALID := by
  rw [keyRotateBody, if_pos (by simpa using hp)]

theorem keySweepBody_absent (hp : ¬ t.nsPresent (fieldAt e.args 0 4) = true) : keySweepBody e t = t.answers ST_NS_INVALID := by
  rw [keySweepBody, if_pos (by simpa using hp)]

theorem keyDestroyGenBody_absent (hp : ¬ t.nsPresent (fieldAt e.args 0 4) = true) :
    keyDestroyGenBody e t = t.answers ST_NS_INVALID := by
  rw [keyDestroyGenBody, if_pos (by simpa using hp)]

section
variable (hp : t.nsPresent (fieldAt e.args 0 4) = true)
include hp

theorem nsDeleteBody_claimed (hc : t.claimOwner 0x09 (fieldAt e.args 0 4) ≠ none) : nsDeleteBody e t = t.answers ST_BUSY_CLAIMED := by
  rw [nsDeleteBody, if_neg (State.nsPresent_test hp), if_pos (Option.isSome_iff_ne_none.2 hc)]

section
variable (hc : t.claimOwner 0x09 (fieldAt e.args 0 4) = none)
include hc

theorem nsDeleteBody_unclaimed : nsDeleteBody e t =
    if t.store.cmds.vals.any (fun c => c.nsid = fieldAt e.args 0 4) then t.answers ST_NS_BUSY
    else (t.deleteNs (fieldAt e.args 0 4)).answers ST_OK := by
  rw [nsDeleteBody, if_neg (State.nsPresent_test hp), hc, Option.isSome_none, if_neg Bool.false_ne_true]

theorem nsDeleteBody_busy (hu : ∃ c ∈ t.store.cmds.vals, c.nsid = fieldAt e.args 0 4) : nsDeleteBody e t = t.answers ST_NS_BUSY := by
  rw [nsDeleteBody_unclaimed hp hc, if_pos (by simpa using hu)]

theorem nsDeleteBody_deletes (hu : ∀ c ∈ t.store.cmds.vals, c.nsid ≠ fieldAt e.args 0 4) :
    nsDeleteBody e t = (t.deleteNs (fieldAt e.args 0 4)).answers ST_OK := by
  rw [nsDeleteBody_unclaimed hp hc, if_neg (by simpa using hu)]

end

/-! Key generations (R318, R319). -/

theorem keyRotateBody_plain (he : ¬ t.nsEncrypted (fieldAt e.args 0 4) = true) : keyRotateBody e t = t.answers ST_KEY_STATE := by
  rw [keyRotateBody, if_neg (State.nsPresent_test hp), if_pos (by simpa using he)]

theorem keyRotateBody_full (he : t.nsEncrypted (fieldAt e.args 0 4) = true) (hs : t.slotsIn (fieldAt e.args 0 4) keyFree = []) :
    keyRotateBody e t = t.answers ST_KEY_SLOTS := by
  rw [keyRotateBody, if_neg (State.nsPresent_test hp), if_neg (by simp [he]), hs]

theorem keyRotateBody_rotates {slot : Nat × Nat × Nat} {l : List (Nat × Nat × Nat)} (he : t.nsEncrypted (fieldAt e.args 0 4) = true)
    (hs : t.slotsIn (fieldAt e.args 0 4) keyFree = slot :: l) :
    keyRotateBody e t = (t.rotateKey (fieldAt e.args 0 4) slot.1).answers ST_OK := by
  rw [keyRotateBody, if_neg (State.nsPresent_test hp), if_neg (by simp [he]), hs]

theorem keySweepBody_refused
    (h : ¬ t.nsEncrypted (fieldAt e.args 0 4) = true ∨ t.slotsIn (fieldAt e.args 0 4) keyRetiring = []) :
    keySweepBody e t = t.answers ST_KEY_STATE := by
  rw [keySweepBody, if_neg (State.nsPresent_test hp), if_pos (by simpa using h)]

theorem keySweepBody_starts (he : t.nsEncrypted (fieldAt e.args 0 4) = true)
    (hs : t.slotsIn (fieldAt e.args 0 4) keyRetiring ≠ []) :
    keySweepBody e t = (t.startSweep (fieldAt e.args 0 4) (fieldAt e.args 4 1)).answers ST_OK := by
  rw [keySweepBody, if_neg (State.nsPresent_test hp), if_neg (by simp [he, hs])]

theorem keyDestroyGenBody_noSlot
    (hs : ((t.slotsIn (fieldAt e.args 0 4) keyRetiring).find? fun k => k.2.1 = fieldAt e.args 4 2) = none) :
    keyDestroyGenBody e t = t.answers ST_KEY_STATE := by
  rw [keyDestroyGenBody, if_neg (State.nsPresent_test hp), hs]

theorem keyDestroyGenBody_slot {k : Nat × Nat × Nat}
    (hs : ((t.slotsIn (fieldAt e.args 0 4) keyRetiring).find? fun k => k.2.1 = fieldAt e.args 4 2) = some k) :
    keyDestroyGenBody e t = if t.genInUse (fieldAt e.args 0 4) k.1 (fieldAt e.args 4 2) then t.answers ST_KEY_IN_USE
      else (t.destroyGen (fieldAt e.args 0 4) k.1 (fieldAt e.args 4 2)).answers ST_OK := by
  rw [keyDestroyGenBody, if_neg (State.nsPresent_test hp), hs]

end

/-! Imported keys (R354). -/

/-- A KEY_ID of an imported key. -/
theorem importedRange_test {n : Nat} (h1 : 1 ≤ n) (h2 : n ≤ 0xFFFF) : ¬ (decide (n = 0) || decide (0xFFFF < n)) = true := by
  simp only [Bool.or_eq_true, decide_eq_true_eq]
  omega

theorem keyImportBody_range (h : fieldAt e.args 0 4 = 0 ∨ 0xFFFF < fieldAt e.args 0 4) : keyImportBody e t = t.answers ST_SEC_KEY_ID := by
  rw [keyImportBody, if_pos (by simpa using h)]

theorem keyDestroyBody_range (h : fieldAt e.args 0 4 = 0 ∨ 0xFFFF < fieldAt e.args 0 4) : keyDestroyBody e t = t.answers ST_SEC_KEY_ID := by
  rw [keyDestroyBody, if_pos (by simpa using h)]

section
variable (h1 : 1 ≤ fieldAt e.args 0 4) (h2 : fieldAt e.args 0 4 ≤ 0xFFFF)
include h1 h2

theorem keyDestroyBody_named (hn : t.keyNamed (fieldAt e.args 0 4) = true) : keyDestroyBody e t = t.answers ST_SEC_KEY_BUSY := by
  rw [keyDestroyBody, if_neg (importedRange_test h1 h2), if_pos hn]

theorem keyDestroyBody_erases (hn : t.keyNamed (fieldAt e.args 0 4) = false) : keyDestroyBody e t =
    (t.adjustSecurity fun x => { x with keys := x.keys.erase (fieldAt e.args 0 4) }).answers ST_OK := by
  rw [keyDestroyBody, if_neg (importedRange_test h1 h2), hn, if_neg Bool.false_ne_true]

theorem keyImportBody_exists (hk : t.security.keys.find (fieldAt e.args 0 4) ≠ none) : keyImportBody e t = t.answers ST_SEC_KEY_EXISTS := by
  rw [keyImportBody, if_neg (importedRange_test h1 h2), if_pos (Option.isSome_iff_ne_none.2 hk)]

variable (hk : t.security.keys.find (fieldAt e.args 0 4) = none)
include hk

theorem keyImportBody_full (hu : 8192 ≤ t.keysUsed) : keyImportBody e t = t.answers ST_SEC_KEY_FULL := by
  rw [keyImportBody, if_neg (importedRange_test h1 h2), hk, Option.isSome_none, if_neg Bool.false_ne_true, if_pos hu]

/-! With room in the key store, an import turns on the wrap alone. -/

variable (hu : t.keysUsed < 8192)
include hu

theorem keyImportBody_wrapFails (hw : unwrapKey (fieldAt e.args 0 4) (scopeOwner e.scope) (fieldAt e.args 4 1) (sliceAt e.args 5 97)
    (sliceAt e.args 102 12) (sliceAt e.args 114 48) = none) : keyImportBody e t = t.answers ST_SEC_UNWRAP := by
  simp only [keyImportBody, if_neg (importedRange_test h1 h2), hk, Option.isSome_none, if_neg Bool.false_ne_true,
    if_neg (Nat.not_le.2 hu), hw]

theorem keyImportBody_stores {secret : Bytes} (hw : unwrapKey (fieldAt e.args 0 4) (scopeOwner e.scope) (fieldAt e.args 4 1)
    (sliceAt e.args 5 97) (sliceAt e.args 102 12) (sliceAt e.args 114 48) = some secret) : keyImportBody e t =
      (t.adjustSecurity fun x =>
        { x with keys := x.keys.insert (fieldAt e.args 0 4) ⟨scopeOwner e.scope, fieldAt e.args 4 1, secret⟩ }).answers ST_OK := by
  simp only [keyImportBody, if_neg (importedRange_test h1 h2), hk, Option.isSome_none, if_neg Bool.false_ne_true,
    if_neg (Nat.not_le.2 hu), hw]

end

/-! Owner keys and anchors (R352, R358). -/

theorem hedgeOwnerBody_busy (hi : t.images.find (fieldAt e.args 0 1) ≠ none) : hedgeOwnerBody e t = t.answers ST_SEC_HEDGE_BUSY := by
  rw [hedgeOwnerBody, if_pos (Option.isSome_iff_ne_none.2 hi)]

theorem hedgeOwnerBody_sets (hi : t.images.find (fieldAt e.args 0 1) = none) : hedgeOwnerBody e t =
    (((t.adjustSecurity fun x => { x with
        owners := x.owners.insert (fieldAt e.args 0 1) (e.args.drop 1)
        keys := x.keys.keep fun k v => !(k < 0x10000 && v.owner = fieldAt e.args 0 1) }).showWords
      (Reg.SEC_OWNER (fieldAt e.args 0 1)) (sha256 (e.args.drop 1))).settleOwners).answers ST_OK := by
  rw [hedgeOwnerBody, hi, Option.isSome_none, if_neg Bool.false_ne_true]

/-- Is a list of anchors one that SEC_ANCHOR_SET takes: one to four points, and nothing else (Table 13-4)? -/
def anchorsOk (args : Bytes) : Bool :=
  !args.isEmpty && args.length ≤ 388 && args.length % 97 = 0 && (chunksOf 97 args.length args).all fun k => (decodePoint k).isSome

/-- What SEC_ANCHOR_SET refuses is what it does not take. -/
theorem anchors_refused (args : Bytes) : (args.isEmpty || decide (388 < args.length) || decide (args.length % 97 ≠ 0) ||
    !(chunksOf 97 args.length args).all fun k => (decodePoint k).isSome) = !anchorsOk args := by
  simp only [anchorsOk, Bool.not_and, Bool.not_not, ← decide_not, Nat.not_le, ne_eq]

theorem anchorSetBody_refused (h : anchorsOk e.args = false) : anchorSetBody e t = t.answers ST_SEC_ANCHOR :=
  if_pos (by rw [anchors_refused, h, Bool.not_false])

theorem anchorSetBody_replaces (h : anchorsOk e.args = true) : anchorSetBody e t =
    ((t.adjustSecurity fun x => { x with anchors := chunksOf 97 e.args.length e.args }).measure 3 (sha256 e.args)).answers ST_OK :=
  if_neg (by rw [anchors_refused, h, Bool.not_true]; exact Bool.false_ne_true)

end

/-! Data of the answers (R353, R360). -/

/-- An answer with data, which nothing follows. -/
theorem Answer.posted_data (u : State) (code : Nat) (data : Bytes) (host : Bool) :
    Answer.posted ⟨u, code, data, id⟩ host = u.postResult host code data := rfl

/-- The report of SEC_ATTEST with its signature. -/
def State.signedReport (s : State) (h : Nat) (nonce : Bytes) : Bytes :=
  s.reportBody h nonce ++ ecdsaSign s.attestScalar s.freeValue (s.reportBody h nonce)

theorem attestBody_signs (e : Envelope) (t : State) :
    attestBody e t = ⟨t.drew, ST_OK, t.signedReport (fieldAt e.args 0 1) (sliceAt e.args 1 32), id⟩ := rfl

/-- Settles O42: each row posts what its body answers, which the command's arguments and the state choose. -/
theorem storeAndSecurityCommandsComplete : Obligations.StoreAndSecurityCommandsComplete := by
  unfold Obligations.StoreAndSecurityCommandsComplete
  intro s src b hb ok e ha hs host check t ends result arg n present encrypted
  have row : ∀ {c code body} {a : Answer}, exec c s = mgmtRow src code body s → e.code = code → body e t = a →
      exec c s = ends (a.posted host) := by
    intro c code body a hx hc hbody
    rw [hx, mgmtRow_served hb ok ha hs hc, ← hbody]
    rfl
  have reply : ∀ {c code body} {u : State} {r : Nat}, exec c s = mgmtRow src code body s → e.code = code →
      body e t = u.answers r → exec c s = result u r := row
  refine ⟨fun hc => ?_, fun hc => ?_, fun hc => ?_, fun hc => ?_, fun hc => ?_, fun hc => ?_, fun hc => ?_, fun hc => ?_,
    fun hc => ?_, fun hc => ?_, fun hc => ?_⟩
  · have create : ∀ {u r}, nsCreateBody e t = u.answers r → exec (.blkNsCreate src) s = result u r := reply (exec_blkNsCreate src s) hc
    exact ⟨fun h => create (nsCreateBody_range h), fun h1 h64 hp => create (nsCreateBody_exists h1 h64 hp),
      fun h1 h64 hp h => create (nsCreateBody_full h1 h64 hp h), fun h1 h64 hp h => create (nsCreateBody_makes h1 h64 hp h)⟩
  · have delete : ∀ {u r}, nsDeleteBody e t = u.answers r → exec (.blkNsDelete src) s = result u r := reply (exec_blkNsDelete src s) hc
    exact ⟨fun hp => delete (nsDeleteBody_absent hp), fun hp h => delete (nsDeleteBody_claimed hp h),
      fun hp h hu => delete (nsDeleteBody_busy hp h hu), fun hp h hu => delete (nsDeleteBody_deletes hp h hu)⟩
  · have rotate : ∀ {u r}, keyRotateBody e t = u.answers r → exec (.blkKeyRotate src) s = result u r :=
      reply (exec_blkKeyRotate src s) hc
    refine ⟨fun hp => rotate (keyRotateBody_absent hp), fun hp he => rotate (keyRotateBody_plain hp he),
      fun hp he h => rotate (keyRotateBody_full hp he h), fun slot l hp he h => ?_⟩
    exact rotate ((keyRotateBody_rotates hp he h).trans (by rw [State.rotateKey]))
  · have sweep : ∀ {u r}, keySweepBody e t = u.answers r → exec (.blkKeySweep src) s = result u r := reply (exec_blkKeySweep src s) hc
    exact ⟨fun hp => sweep (keySweepBody_absent hp), fun hp h => sweep (keySweepBody_refused hp h),
      fun hp he h => sweep (keySweepBody_starts hp he h)⟩
  · have destroy : ∀ {u r}, keyDestroyGenBody e t = u.answers r → exec (.blkKeyDestroy src) s = result u r :=
      reply (exec_blkKeyDestroy src s) hc
    refine ⟨fun hp => destroy (keyDestroyGenBody_absent hp), fun hp h => destroy (keyDestroyGenBody_noSlot hp h), fun k hp h => ?_⟩
    have slot := keyDestroyGenBody_slot hp h
    exact ⟨fun used => destroy (slot.trans (if_pos used)),
      fun unused => destroy (slot.trans (if_neg (Bool.eq_false_iff.1 unused)))⟩
  · rw [row (exec_secAttest src s) hc (attestBody_signs e t), Answer.posted_data]
    rfl
  · have importKey : ∀ {u r}, keyImportBody e t = u.answers r → exec (.secKeyImport src) s = result u r :=
      reply (exec_secKeyImport src s) hc
    refine ⟨fun h => importKey (keyImportBody_range h), fun h1 h2 hk => importKey (keyImportBody_exists h1 h2 hk),
      fun h1 h2 hk => ⟨fun h => importKey (keyImportBody_full h1 h2 hk h), fun h => ?_⟩⟩
    split
    next failed => exact importKey (keyImportBody_wrapFails h1 h2 hk h failed)
    next secret opened => exact importKey (keyImportBody_stores h1 h2 hk h opened)
  · have destroy : ∀ {u r}, keyDestroyBody e t = u.answers r → exec (.secKeyDestroy src) s = result u r :=
      reply (exec_secKeyDestroy src s) hc
    exact ⟨fun h => destroy (keyDestroyBody_range h), fun h1 h2 hn => destroy (keyDestroyBody_named h1 h2 hn),
      fun h1 h2 hn => destroy (keyDestroyBody_erases h1 h2 hn)⟩
  · have owner : ∀ {u r}, hedgeOwnerBody e t = u.answers r → exec (.secHedgeOwner src) s = result u r :=
      reply (exec_secHedgeOwner src s) hc
    exact ⟨fun hi => owner (hedgeOwnerBody_busy hi), fun hi => owner (hedgeOwnerBody_sets hi)⟩
  · have anchors : ∀ {u r}, anchorSetBody e t = u.answers r → exec (.secAnchorSet src) s = result u r :=
      reply (exec_secAnchorSet src s) hc
    exact ⟨fun bad => anchors (anchorSetBody_refused bad), fun good => anchors (anchorSetBody_replaces good)⟩
  · rw [row (exec_secCertRead src s) hc (certReadBody.eq_1 e t), Answer.posted_data]

end Sys2Proof.Machine
